-- ==== Sys2Proof/Word.lean ====
section
/-!
DEFINITION. The plainest types of the model: bytes, binary32 words, mesh coordinates, and the sparse map (a list of
key and value pairs) in which memories and register files are held. What is done with them is in `Machine/`.
-/

namespace Sys2Proof

/-- A byte. -/
abbrev Byte := BitVec 8

/-- The bits of an IEEE 754 binary32 value (FP32, R80). -/
abbrev F32 := BitVec 32

/-- The bits of a W40 word (R85). -/
abbrev W40 := BitVec 40

/-- A coordinate pair of the mesh: Y in [11:6], X in [5:0] (R224, R280). -/
abbrev Coord := BitVec 12

/-- Sparse data by key. The canonical form has strictly rising keys and no entry equal to the value that an
unlisted key reads as. -/
abbrev SMap (β : Type) := List (Nat × β)

end Sys2Proof
end

