-- ==== Sys2Proof/Syntax.lean ====
section
/-!
DEFINITION. The commands of the block: `Instr`, one constructor per row of the opcode table, and the types of
their operands. A command is one whole and indivisible step of the device (95_what_each_step_holds.md); what a
command means is in `Machine/`.
-/

namespace Sys2Proof

/-- A resident thread group: the Jarast index of its core (R18) and its group slot (R175). -/
structure GroupRef where
  core : Nat
  slot : Nat
  deriving DecidableEq, Repr

/-- Sizes of the local-memory forms LD.L and ST.L .8, .16, .32, .64 and .128 (R188). -/
inductive LSize where
  | b8 | b16 | b32 | b64 | b128
  deriving DecidableEq, Repr

/-- Sizes of the global forms LD.G and ST.G .32 and .64 (R190). -/
inductive GSize where
  | g32 | g64
  deriving DecidableEq, Repr

/-- A packet: the header of R261 and its payload bytes. Coordinates hold Y above X, six bits each. -/
structure Packet where
  key : BitVec 32
  addr : BitVec 40
  job : BitVec 16
  tag : BitVec 12
  srcMaster : BitVec 8
  tc : BitVec 3
  priv : BitVec 2
  len : Nat
  waypoint : BitVec 12
  wpValid : Bool
  detour : Bool
  vc : BitVec 2
  src : BitVec 12
  dst : BitVec 12
  mcCount : BitVec 6
  mcDir : Bool
  mcAxis : Bool
  status : BitVec 8
  detail : BitVec 8
  op : BitVec 8
  pmask : BitVec 32
  payload : List (BitVec 8)
  deriving DecidableEq, Repr

/-- A collective control flit, the fields of R302. The CTYPE is the command's row. `src` is the member that sent
the flit: R382 tests it, and R302 gives it no bits. -/
structure CollFlit where
  job : BitVec 16
  status : BitVec 8
  value : BitVec 32
  noEpoch : Bool
  context : BitVec 4
  group : BitVec 4
  dest : BitVec 12
  src : BitVec 12
  deriving DecidableEq, Repr

/-- The content of an IDENT control flit (R253). -/
structure IdentFlit where
  serial : BitVec 64
  planId : BitVec 32
  ownY : BitVec 6
  ownX : BitVec 6
  port : BitVec 2
  mask : BitVec 5
  deriving DecidableEq, Repr

/-- The path by which an object-dictionary request arrives (R42, R44): a mailbox, the direct window, a Theost
request of a source MAC address and SEQ, or a core's access to the window. -/
inductive OdPath where
  | mailbox (m : Nat)
  | direct
  | theost (mac : BitVec 48) (seq : BitVec 16)
  | core (core : Nat) (slot : Nat)
  deriving DecidableEq, Repr

/-- What the host wrote into a mailbox before it set GO (R50, R51). -/
structure MailboxReq where
  op : BitVec 2
  index : BitVec 16
  sub : BitVec 8
  seq : BitVec 16
  length : Nat
  bufAddr : BitVec 64
  value : List (BitVec 8)
  deriving DecidableEq, Repr

/-- The BARs of the device: the window, HBM, and the MSI-X table with its pending bits (R48, R223, R473). -/
inductive Bar where
  | bar0 | bar2 | bar4
  deriving DecidableEq, Repr

/-- Where a memory access of the host goes: a BAR, and the byte within it. -/
structure BarOffset where
  bar : Bar
  bytes : BitVec 40
  deriving DecidableEq, Repr

/-- An Ethernet frame as it reaches the field port: its EtherType, the 16-byte header of R54, and the bytes after it with
any padding. -/
structure TheostFrame where
  srcMac : BitVec 48
  broadcast : Bool
  etherType : BitVec 16
  header : BitVec 128
  body : List (BitVec 8)
  deriving DecidableEq, Repr

/-- The memory a patrol-scrub read goes to (R236). -/
inductive ScrubUnit where
  | hbm
  | localMem (core : Nat)
  | clusterBuffer (cluster : Nat)
  deriving DecidableEq, Repr

/-- A hardware error found by a checker outside the four protected memories, or on the HBM links (R232, R237). -/
inductive HwError where
  /-- parity of a handshake-channel entry (R237) -/
  | channelParity (srcType : BitVec 8) (srcInst : BitVec 8)
  /-- parity of a control-ring flit (R237) -/
  | ringParity
  /-- data parity of an HBM read: retries made, and whether the last succeeded (R232) -/
  | hbmReadParity (stack : Nat) (pc : BitVec 8) (attempts : Nat) (recovered : Bool)
  /-- data parity of an HBM write: how often the stack rejected it (R232) -/
  | hbmWriteParity (stack : Nat) (pc : BitVec 8) (attempts : Nat)
  /-- command or address parity of an HBM command: how often the stack rejected it (R232) -/
  | hbmCommandParity (stack : Nat) (pc : BitVec 8) (attempts : Nat)
  /-- parity of an instruction-cache word (R237) -/
  | icacheParity (core : Nat)
  /-- an error found in a register-file word, v(2n) and v(2n+1) of one lane (R237) -/
  | registerWord (core : Nat) (slot : Nat) (lane : Nat) (n : Nat) (correctable : Bool)
  deriving DecidableEq, Repr

/-- A piece of state that JTAG reaches (R438). -/
inductive DebugCell where
  /-- an entry of the object dictionary -/
  | entry (index : BitVec 16) (sub : BitVec 8)
  /-- an aligned 8-byte word of the device's address space -/
  | word (addr : BitVec 40)
  | v (core slot lane reg : Nat)
  | p (core slot lane index : Nat)
  | u (core slot reg : Nat)
  | d (core slot reg : Nat)
  | pc (core slot : Nat)
  /-- a code word of a core's accumulator memory or weight buffers, with its check bits (R225, R237) -/
  | accumulator (core key : Nat)
  | accumulatorMark (core key : Nat)
  | weights (core key : Nat)
  | weightPoison (core key : Nat)
  | weightScale (core key : Nat)
  /-- a load tag: its format in bits 3:0, its K length above (R137) -/
  | weightTag (core key : Nat)
  deriving DecidableEq, Repr

/-- What arrives on the TAP pins (R438). -/
inductive JtagReq where
  | idcode
  | bypass
  | readLog
  | read (cell : DebugCell)
  | write (cell : DebugCell) (data : BitVec 256)
  | haltCore (core : Nat)
  | resumeCore (core : Nat)
  | other (instr : BitVec 8)
  deriving DecidableEq, Repr


inductive Instr where
  /-- INT_ADD (R180): Each executing thread sets VD to VA + VB modulo 2^32. -/
  | intAdd (g : GroupRef) (f : BitVec 48)
  /-- INT_SUB (R180): Each executing thread sets VD to VA − VB modulo 2^32. -/
  | intSub (g : GroupRef) (f : BitVec 48)
  /-- INT_MUL (R180): Each executing thread sets VD to the low 32 bits of VA × VB. -/
  | intMul (g : GroupRef) (f : BitVec 48)
  /-- INT_MULADD (R180): Each executing thread sets VD to the low 32 bits of VA × VB + VC. -/
  | intMuladd (g : GroupRef) (f : BitVec 48)
  /-- INT_AND (R180): Each executing thread sets VD to the bitwise AND of VA and VB. -/
  | intAnd (g : GroupRef) (f : BitVec 48)
  /-- INT_OR (R180): Each executing thread sets VD to the bitwise OR of VA and VB. -/
  | intOr (g : GroupRef) (f : BitVec 48)
  /-- INT_XOR (R180): Each executing thread sets VD to the bitwise XOR of VA and VB. -/
  | intXor (g : GroupRef) (f : BitVec 48)
  /-- INT_SHL (R180): Each executing thread shifts VA left by VB[4:0]. -/
  | intShl (g : GroupRef) (f : BitVec 48)
  /-- INT_SHR (R180): Each executing thread shifts VA right by VB[4:0] and fills with zeros. -/
  | intShr (g : GroupRef) (f : BitVec 48)
  /-- INT_SHRA (R180): Each executing thread shifts VA right by VB[4:0] and fills with the sign. -/
  | intShra (g : GroupRef) (f : BitVec 48)
  /-- INT_MIN (R180): Each executing thread sets VD to the signed minimum of VA and VB. -/
  | intMin (g : GroupRef) (f : BitVec 48)
  /-- INT_MAX (R180): Each executing thread sets VD to the signed maximum of VA and VB. -/
  | intMax (g : GroupRef) (f : BitVec 48)
  /-- INT_CMP (R180): Each executing thread writes a predicate from a signed comparison of VA with VB under the MOD condition. -/
  | intCmp (g : GroupRef) (f : BitVec 48)
  /-- V_PICK (R180): Each executing thread sets VD to VA or VB, as a predicate selects. -/
  | vPick (g : GroupRef) (f : BitVec 48)
  /-- V_MOV (R180): Each executing thread copies VA to VD. -/
  | vMov (g : GroupRef) (f : BitVec 48)
  /-- INT_ADDI (R180): Each executing thread sets VD to VA plus the sign-extended IMM19. -/
  | intAddi (g : GroupRef) (f : BitVec 48)
  /-- V_LDI (R180): Each executing thread loads the sign-extended IMM19 into VD. -/
  | vLdi (g : GroupRef) (f : BitVec 48)
  /-- V_LDHI (R180): Each executing thread replaces the high bits of VA with IMM19[12:0] and writes the result to VD. -/
  | vLdhi (g : GroupRef) (f : BitVec 48)
  /-- FP_ADD (R180): Each executing thread adds two FP32 values under IEEE 754, with no flags. -/
  | fpAdd (g : GroupRef) (f : BitVec 48)
  /-- FP_MUL (R180): Each executing thread multiplies two FP32 values under IEEE 754. -/
  | fpMul (g : GroupRef) (f : BitVec 48)
  /-- FP_MULADD (R180): Each executing thread computes VA × VB + VC in FP32 with one rounding. -/
  | fpMuladd (g : GroupRef) (f : BitVec 48)
  /-- FP_MIN (R180): Each executing thread takes the FP32 minimum; a NaN operand gives the other operand. -/
  | fpMin (g : GroupRef) (f : BitVec 48)
  /-- FP_MAX (R180): Each executing thread takes the FP32 maximum; a NaN operand gives the other operand. -/
  | fpMax (g : GroupRef) (f : BitVec 48)
  /-- FP_CMP (R180): Each executing thread writes a predicate from an FP32 comparison; the result is false on NaN except for NE. -/
  | fpCmp (g : GroupRef) (f : BitVec 48)
  /-- CVT_FTOI (R180): Each executing thread converts FP32 to a saturating signed integer, rounding toward zero. -/
  | cvtFtoi (g : GroupRef) (f : BitVec 48)
  /-- CVT_ITOF (R180): Each executing thread converts a signed integer to FP32 with RNE. -/
  | cvtItof (g : GroupRef) (f : BitVec 48)
  /-- UADD (R181): The group sets UD to UA + UB modulo 2^64. -/
  | uadd (g : GroupRef) (f : BitVec 48)
  /-- UMOVI (R181): The group loads the sign-extended IMM25 into UD. -/
  | umovi (g : GroupRef) (f : BitVec 48)
  /-- U2V (R181): The group broadcasts UB[31:0] into VD of every active thread. -/
  | u2v (g : GroupRef) (f : BitVec 48)
  /-- V2U (R181): The group copies VA of the lowest active thread into UD. -/
  | v2u (g : GroupRef) (f : BitVec 48)
  /-- S2U (R181): The group reads a special value, such as the mask, slot, timebase or flag word, into UD. -/
  | s2u (g : GroupRef) (f : BitVec 48)
  /-- S2V (R181): Each thread writes its lane number into VD. -/
  | s2v (g : GroupRef) (f : BitVec 48)
  /-- DLD (R181): The group loads a 32-byte descriptor from local memory into a d register. -/
  | dld (g : GroupRef) (f : BitVec 48)
  /-- NOP (R182): The no-operation instruction does nothing. -/
  | nop (g : GroupRef) (f : BitVec 48)
  /-- BRA (R183): A guarded branch that may diverge and push a pending entry. -/
  | bra (g : GroupRef) (f : BitVec 48)
  /-- RPUSH (R183): The group pushes a reconvergence entry onto its stack. -/
  | rpush (g : GroupRef) (f : BitVec 48)
  /-- RJOIN (R183): The group pops the reconvergence stack, discards empty entries and continues at the entry's PC and mask. -/
  | rjoin (g : GroupRef) (f : BitVec 48)
  /-- CALL (R182): The group saves the return address in UD and jumps. -/
  | call (g : GroupRef) (f : BitVec 48)
  /-- RET (R182): The group jumps to the address held in UD. -/
  | ret (g : GroupRef) (f : BitVec 48)
  /-- END (R185): The executing threads end; when the live mask empties, the group fences, waits on its tokens and frees its slot. -/
  | endThreads (g : GroupRef) (f : BitVec 48)
  /-- CBAR (R186): The group waits at the core barrier until every group of the LAUNCH on the core arrives. -/
  | cbar (g : GroupRef) (f : BitVec 48)
  /-- CBAR_RELEASE (R186): Once every group has arrived, ended or stopped, all waiting groups are released in one cycle. -/
  | cbarRelease (core : Nat)
  /-- LD_L (R188): Each executing thread loads from local memory, with bank passes and the code check. -/
  | ldL (g : GroupRef) (sz : LSize) (f : BitVec 48)
  /-- ST_L (R188): Each executing thread stores to local memory, merging stores narrower than 8 bytes. -/
  | stL (g : GroupRef) (sz : LSize) (f : BitVec 48)
  /-- LKACQ (R192): Each executing thread tries to take a lock word without waiting and receives OK, SAMEGRP or BUSY. -/
  | lkacq (g : GroupRef) (f : BitVec 48)
  /-- LKREL (R193): Each executing thread releases a lock word and receives OK, DENIED or REFUSED. -/
  | lkrel (g : GroupRef) (f : BitVec 48)
  /-- LD_G (R190): A global or window load, held until its response arrives. -/
  | ldG (g : GroupRef) (sz : GSize) (f : BitVec 48)
  /-- ST_G (R190): A global store, held until its response arrives. -/
  | stG (g : GroupRef) (sz : GSize) (f : BitVec 48)
  /-- SHFL_IDX (R187): Each lane reads VA of lane d. -/
  | shflIdx (g : GroupRef) (f : BitVec 48)
  /-- SHFL_UP (R187): Each lane reads VA of lane i − d. -/
  | shflUp (g : GroupRef) (f : BitVec 48)
  /-- SHFL_DOWN (R187): Each lane reads VA of lane i + d. -/
  | shflDown (g : GroupRef) (f : BitVec 48)
  /-- SHFL_XOR (R187): Each lane reads VA of lane i xor d. -/
  | shflXor (g : GroupRef) (f : BitVec 48)
  /-- VOTE_ANY (R187): Sets a predicate in every lane when any lane has the tested predicate true. -/
  | voteAny (g : GroupRef) (f : BitVec 48)
  /-- VOTE_ALL (R187): Sets a predicate in every lane when every lane has the tested predicate true. -/
  | voteAll (g : GroupRef) (f : BitVec 48)
  /-- VOTE_BALLOT (R187): Writes a bitmap of the lanes' tested predicates to UD. -/
  | voteBallot (g : GroupRef) (f : BitVec 48)
  /-- MX_WLD (R137): Issues an asynchronous weight load into one half of the arrays and takes a token. -/
  | mxWld (g : GroupRef) (f : BitVec 48)
  /-- MX_WLD_START (R140): A queued WLD reads its first beat once its path is free and its interlocks clear. -/
  | mxWldStart (core : Nat) (tok : Nat)
  /-- MX_WLD_DONE (R140): The WLD's token becomes DONE after its last beat. -/
  | mxWldDone (core : Nat) (tok : Nat)
  /-- MX_MMA (R148): Issues an asynchronous matrix multiply-accumulate, takes a token and requests array wakes. -/
  | mxMma (g : GroupRef) (f : BitVec 48)
  /-- MX_MMA_START (R140): The MMA's first broadcast starts once its interlocks, wakes and the stream allow. -/
  | mxMmaStart (core : Nat) (tok : Nat)
  /-- MX_MMA_DONE (R140): The MMA's token becomes DONE with its status and flags once its last pairs are written. -/
  | mxMmaDone (core : Nat) (tok : Nat)
  /-- MX_DRN (R160): Issues an asynchronous drain of accumulator rows through the stage chain to local memory. -/
  | mxDrn (g : GroupRef) (f : BitVec 48)
  /-- MX_DRN_START (R161): The DRN's first accumulator read starts once its interlocks clear. -/
  | mxDrnStart (core : Nat) (tok : Nat)
  /-- MX_DRN_DONE (R161): The DRN's token becomes DONE 12 cycles after its last accumulator read. -/
  | mxDrnDone (core : Nat) (tok : Nat)
  /-- ARRAY_WAKE (R141): A gated array's wake is granted, at most two per core in 64 cycles, and it leaves the gated state. -/
  | arrayWake (core : Nat) (array : Nat)
  /-- ARRAY_GATE (R141): An array that has been idle for MX_GATE_IDLE cycles is clock-gated. -/
  | arrayGate (core : Nat) (array : Nat)
  /-- TWAIT (R154): Waits for the group's own token, returns its status and flags, and frees it, or raises POISON_CONSUMED. -/
  | twait (g : GroupRef) (f : BitVec 48)
  /-- TTEST (R155): Writes a predicate that shows whether the token is DONE and owned by the group. -/
  | ttest (g : GroupRef) (f : BitVec 48)
  /-- CH_RUN (R206): Issues an asynchronous stage-chain operation over rows of local memory. -/
  | chRun (g : GroupRef) (f : BitVec 48)
  /-- CH_RUN_DONE (R205): The CH.RUN's token becomes DONE after its last beat. -/
  | chRunDone (core : Nat) (tok : Nat)
  /-- AT_CAS_64 (R264): A remote compare-and-swap, held until its response arrives. -/
  | atCas64 (g : GroupRef) (f : BitVec 48)
  /-- AT_SWP_64 (R264): A remote swap, held until its response arrives. -/
  | atSwp64 (g : GroupRef) (f : BitVec 48)
  /-- AT_ADD_64 (R264): A remote fetch-and-add, held until its response arrives. -/
  | atAdd64 (g : GroupRef) (f : BitVec 48)
  /-- RED_ADD_W40 (R264): A posted pair_add of a W40 pair into a remote target. -/
  | redAddW40 (g : GroupRef) (f : BitVec 48)
  /-- RED_ADD_F32 (R264): A posted arrival-order FP32 add. -/
  | redAddF32 (g : GroupRef) (f : BitVec 48)
  /-- RED_ADD_BF16 (R264): A posted arrival-order BF16 add. -/
  | redAddBf16 (g : GroupRef) (f : BitVec 48)
  /-- RED_MAX_F32 (R264): A posted FP32 maximum into a remote target. -/
  | redMaxF32 (g : GroupRef) (f : BitVec 48)
  /-- RED_MIN_F32 (R264): A posted FP32 minimum into a remote target. -/
  | redMinF32 (g : GroupRef) (f : BitVec 48)
  /-- RED_MAX_BF16 (R264): A posted BF16 maximum into a remote target. -/
  | redMaxBf16 (g : GroupRef) (f : BitVec 48)
  /-- RED_MIN_BF16 (R264): A posted BF16 minimum into a remote target. -/
  | redMinBf16 (g : GroupRef) (f : BitVec 48)
  /-- MC_ST_64 (R268): A posted multicast store of 8 bytes to a line of devices. -/
  | mcSt64 (g : GroupRef) (f : BitVec 48)
  /-- FENCE_R (R272): Waits for the group's posted transactions and raises the exception of the first that failed. -/
  | fenceR (g : GroupRef) (f : BitVec 48)
  /-- READ (R262): A READ packet at its target is key-checked and answered with the data and PMASK. -/
  | pktRead (port : Nat) (pk : Packet)
  /-- WRITE (R262): A WRITE packet at its target is key-checked and written, with poison from PMASK. -/
  | pktWrite (port : Nat) (pk : Packet)
  /-- CAS (R268): A compare-and-swap packet is performed as one read-modify-write at the target. -/
  | pktCas (port : Nat) (pk : Packet)
  /-- SWAP (R268): A swap packet is performed as one read-modify-write at the target. -/
  | pktSwap (port : Nat) (pk : Packet)
  /-- FETCH_ADD (R268): A fetch-and-add packet is performed as one read-modify-write at the target. -/
  | fetchAdd (port : Nat) (pk : Packet)
  /-- REDUCTION_REQUEST (R268): A RED_ADD, RED_MAX or RED_MIN packet is applied indivisibly at the target memory. -/
  | reductionRequest (port : Nat) (pk : Packet)
  /-- MCAST_WRITE (R268): A multicast store at one device stores after its key check and moves on; the last device responds. -/
  | mcastWrite (port : Nat) (pk : Packet)
  /-- INVALIDATE (R274): A domain device drops a cached line and answers INV_ACK. -/
  | invalidate (port : Nat) (pk : Packet)
  /-- INV_ACK (R274): The home receives a sharer's acknowledgement of an invalidation. -/
  | invAck (port : Nat) (pk : Packet)
  /-- REMOTE_RESPONSE (R267): A response that arrives before the deadline completes its transaction; a late one is discarded. -/
  | remoteResponse (pk : Packet) (coherent : Bool)
  /-- REMOTE_TIMEOUT (R267): A transaction reaches its deadline and completes with TIMEOUT. -/
  | remoteTimeout (tag : Nat)
  /-- NOP_COMMAND (R71): The NOP command completes OK at once. -/
  | nopCommand (cmd : Nat)
  /-- TAIL_LINE_WRITE (R67): A write to a ring's monitored tail line wakes the dispatcher, which takes new commands or stops the ring. -/
  | tailLineWrite (ring : Nat) (tail : BitVec 32)
  /-- CQ_HEAD_WRITE (R74): A write of CQ_HEAD frees completion-ring room and releases waiting records. -/
  | cqHeadWrite (cq : Nat) (head : BitVec 32)
  /-- LAUNCH (R174): The dispatcher takes and checks a LAUNCH command. -/
  | launch (cmd : Nat)
  /-- LAUNCH_START (R172): A waiting LAUNCH starts its groups once its cores are free and no earlier waiter blocks it. -/
  | launchStart (cmd : Nat)
  /-- LAUNCH_COMMIT (R174): The LAUNCH commits once every group and operation has ended, and it ORs in the flags. -/
  | launchCommit (cmd : Nat)
  /-- COPY (R239): The dispatcher checks a COPY command and queues it on a Lighter. -/
  | copy (cmd : Nat)
  /-- COPY_START (R239): A Lighter starts the next COPY of its queue. -/
  | copyStart (lighter : Nat)
  /-- COPY_COMMIT (R239): The COPY commits once every byte is in place, or completes ABORTED on a remote failure. -/
  | copyCommit (cmd : Nat)
  /-- BUCKET_POST (R286): The dispatcher checks a gradient bucket, takes a slot and sends BKT_READY. -/
  | bucketPost (cmd : Nat)
  /-- BUCKET_POST_COMMIT (R290): The bucket commits once DST, RES and every owed gather chunk are done. -/
  | bucketPostCommit (cmd : Nat)
  /-- BKT_READY (R287): A successor's readiness lets this member send the bucket's chunks. -/
  | bktReady (fl : CollFlit)
  /-- BKT_ABORT (R292): A member that has not committed the bucket ends it ABORTED and passes the abort on. -/
  | bktAbort (fl : CollFlit)
  /-- COLL_DATA (R289): A reduce or gather chunk packet is combined, forwarded or written. -/
  | collData (port : Nat) (pk : Packet)
  /-- COLL_TIMEOUT (R292): A bucket or PERMUTE reaches its time limit and aborts. -/
  | collTimeout (cmd : Nat)
  /-- PERMUTE (R306): The dispatcher checks a PERMUTE and starts its exchange. -/
  | permute (cmd : Nat)
  /-- PERM_DATA (R307): A relayed segment chunk is written and the staged chunk is passed on. -/
  | permData (port : Nat) (pk : Packet)
  /-- PERM_ABORT (R308): A member that has not committed the PERMUTE ends it ABORTED. -/
  | permAbort (fl : CollFlit)
  /-- PERMUTE_COMMIT (R308): The PERMUTE commits once every step of the member is done. -/
  | permuteCommit (cmd : Nat)
  /-- BARRIER (R309): The member arrives at a barrier of a context. -/
  | barrier (cmd : Nat)
  /-- BAR_ARRIVE (R310): An arrival from a predecessor is recorded, and the member's arrival may be sent toward the root. -/
  | barArrive (fl : CollFlit)
  /-- BAR_RELEASE (R310): A release is applied and passed on; a status other than OK completes the barrier. -/
  | barRelease (fl : CollFlit)
  /-- BAR_ABORT (R310): The root releases with TIMEOUT unless it has already released. -/
  | barAbort (fl : CollFlit)
  /-- BARRIER_TIMEOUT (R310): A member's wait passes BARRIER_TIMEOUT and it sends BAR_ABORT. -/
  | barrierTimeout (ctx : Nat)
  /-- BAR_ORPHANED (R310): No release arrives within a further timeout, and the barrier completes with TIMEOUT. -/
  | barOrphaned (ctx : Nat)
  /-- EPOCH_SWITCH (R33): At the switch time T each island takes the new epoch, and the barrier completes. -/
  | epochSwitch (ctx : Nat)
  /-- UPDATE_STEP (R325): The update list is checked, the non-finite flag is sampled and the spans are applied. -/
  | updateStep (cmd : Nat)
  /-- UPDATE_STEP_COMMIT (R330): The command commits, SR_STEP advances and the ledger rolls. -/
  | updateStepCommit (cmd : Nat)
  /-- SNAPSHOT (R360): The dispatcher checks a SNAPSHOT, which then waits for its epoch. -/
  | snapshot (cmd : Nat)
  /-- SNAPSHOT_COPY_START (R360): The copy starts once the epoch is reached and earlier updates have committed. -/
  | snapshotCopyStart (cmd : Nat)
  /-- SNAPSHOT_COMMIT (R360): The stamp is written, the command commits and held updates are released. -/
  | snapshotCommit (cmd : Nat)
  /-- SEND (R369): The HANDOFF SEND function waits for POSTED_SEQ and streams the micro-batch. -/
  | hoSend (cmd : Nat)
  /-- SEND_CHUNK (R369): The sender sends the next chunk once it holds credit, and it writes progress when the chunk is acknowledged. -/
  | sendChunk (channel : Nat)
  /-- RECV (R369): The HANDOFF RECV function posts its SEQ and LIMIT and commits when the micro-batch is in place. -/
  | hoRecv (cmd : Nat)
  /-- GET (R375): The pool GET function pins a hit, or allocates and evicts for a miss. -/
  | poolGet (cmd : Nat)
  /-- PUT (R375): The pool PUT function unpins an entry and may mark it FILLED. -/
  | poolPut (cmd : Nat)
  /-- DROP (R375): The pool DROP function frees an unpinned entry. -/
  | poolDrop (cmd : Nat)
  /-- CONSUMED_LIMIT (R370): A write to a channel's monitored line 1 updates credit, or stops the channel on a bad value. -/
  | consumedLimit (channel : Nat) (limit : BitVec 64) (posted : BitVec 32)
  /-- HO_TIMEOUT (R371): A SEND or RECV sees no progress for HANDOFF_TIMEOUT and completes with TIMEOUT. -/
  | hoTimeout (cmd : Nat)
  /-- HO_JOB (R366): A non-zero write resets the handoff channel. -/
  | hoJob (via : OdPath) (channel : Nat) (job : BitVec 16)
  /-- ABORT_TARGET (R75): Aborts the oldest matching uncommitted command, or reports ALREADY_DONE or NOT_FOUND. -/
  | abortTarget (via : OdPath) (v : BitVec 64)
  /-- MAILBOX_REQUEST (R51): Setting GO submits a mailbox request, which is checked, served and signalled. -/
  | mailboxRequest (m : Nat) (req : MailboxReq)
  /-- OD_WRITE (R38): A write to an entry that has no behaviour of its own, checked under R39. -/
  | odWrite (via : OdPath) (index : BitVec 16) (sub : BitVec 8) (value : List (BitVec 8))
  /-- BAR2_ACCESS (R223): A host memory access through BAR2 reaches HBM, or returns all ones. A host access through BAR0,
  to the window of R48, or through BAR4, to the MSI-X table of R473, has no row of its own and is this row's with that BAR. -/
  | bar2Access (write : Bool) (offset : BarOffset) (len : Nat) (data : List (BitVec 8))
  /-- READ_REQ (R56): A Theost read request is checked, served or answered from the kept response. -/
  | readReq (fr : TheostFrame)
  /-- WRITE_REQ (R56): A Theost write request is checked and served, with repeat handling. -/
  | writeReq (fr : TheostFrame)
  /-- SEG_START (R58): Opens a segmented transfer and answers with SEG_ACK. -/
  | segStart (fr : TheostFrame)
  /-- SEG_DATA (R58): A segment is received and acknowledged; LAST commits a download. -/
  | segData (fr : TheostFrame)
  /-- SEG_ACK (R58): An acknowledgement advances the device's upload window. -/
  | segAck (fr : TheostFrame)
  /-- SEG_ABORT (R58): Ends a segmented transfer. -/
  | segAbort (fr : TheostFrame)
  /-- SEG_RESEND (R58): After 20 ms without progress, the sender resends from the first unacknowledged segment. -/
  | segResend (xfer : BitVec 32)
  /-- SEG_TIMEOUT (R58): After 500 ms of silence, the transfer ends with SEG_ABORT and TIMEOUT. -/
  | segTimeout (xfer : BitVec 32)
  /-- CYCLIC (R60): At each period a channel samples its map and sends a frame, or drops it. -/
  | cyclic (channel : Nat)
  /-- CYC_ENABLE (R59): Enables a cyclic channel after the wire-load check. -/
  | cycEnable (via : OdPath) (channel : Nat) (v : BitVec 8)
  /-- PRESENCE (R53): Every 1 ms from INIT the device broadcasts a PRESENCE frame. -/
  | presence
  /-- DRAIN (R46): DEVICE_COMMAND DRAIN moves the device from RUNNING to DRAINING. -/
  | drain (via : OdPath)
  /-- DRAIN_COMPLETE (R46): Once every dispatched command has committed, the jobs close and the device is READY. -/
  | drainComplete
  /-- DRAIN_TIMEOUT (R46): DRAINING lasts past DRAIN_TIMEOUT and the device enters FAULT. -/
  | drainTimeout
  /-- REINIT (R416): DEVICE_COMMAND REINIT reruns the start from the firmware step. -/
  | reinit (via : OdPath)
  /-- RESET (R407): DEVICE_COMMAND RESET is accepted and the device responds. -/
  | reset (via : OdPath)
  /-- RESET_DELAY_EXPIRY (R407): 1 ms after the RESET response, the device enters OFF and restarts. -/
  | resetDelayExpiry
  /-- SAVE_PARAMETERS (R41): Commits every saved entry to flash. -/
  | saveParameters (via : OdPath)
  /-- RESTORE_DEFAULTS (R41): Erases the saved set. -/
  | restoreDefaults (via : OdPath)
  /-- JOB_OPEN (R77): Opens a job after the mesh checks and takes a numerics slot. -/
  | jobOpen (via : OdPath) (v : BitVec 16)
  /-- JOB_CLOSE (R77): Closes a job and resets its per-slot entries. -/
  | jobClose (via : OdPath) (v : BitVec 16)
  /-- RING_ENABLE (R76): Enables or disables a command ring. -/
  | ringEnable (via : OdPath) (n : Nat) (v : BitVec 8)
  /-- CQ_ENABLE (R76): Enables a completion ring. -/
  | cqEnable (via : OdPath) (n : Nat) (v : BitVec 8)
  /-- PORT_ENABLE (R250): Takes a port to DISABLED, or back to DOWN. -/
  | portEnable (via : OdPath) (n : Nat) (v : BitVec 8)
  /-- MESH_PLAN_ID (R254): A plan write reruns the peer tests on every trained port and lifts fences. -/
  | meshPlanId (via : OdPath) (v : BitVec 32)
  /-- FENCE_CLEAR (R383): Lifts a port's fence. -/
  | fenceClear (via : OdPath) (v : BitVec 8)
  /-- EPOCH_ADOPT (R389): Sets a context's epoch directly. -/
  | epochAdopt (via : OdPath) (v : BitVec 64)
  /-- REGION_WRITE (R444): Replaces one region entry after checks. -/
  | regionWrite (via : OdPath) (value : List (BitVec 8))
  /-- RULE_SWITCH_EPOCH (R317): Arms the epoch-triggered rule-bank switch. -/
  | ruleSwitchEpoch (via : OdPath) (v : BitVec 32)
  /-- RULE_COMMIT_NOW (R317): Copies the pending rule bank at once. -/
  | ruleCommitNow (via : OdPath) (v : BitVec 8)
  /-- NF_STEP_FLAG (R345): A host write sets or clears the job's non-finite flag. -/
  | nfStepFlag (via : OdPath) (n : Nat) (v : BitVec 8)
  /-- LOSS_VALUE (R347): A mode-2 loss sample is tested for a spike. -/
  | lossValue (via : OdPath) (n : Nat) (v : BitVec 32)
  /-- LEDGER_COLD (R356): LEDGER_ATTACH 0x01 attaches the ledger with every enabled record cold. -/
  | ledgerCold (via : OdPath) (n : Nat)
  /-- LEDGER_RESTORED (R356): LEDGER_ATTACH 0x02 attaches restored records and makes untrusted ones cold. -/
  | ledgerRestored (via : OdPath) (n : Nat)
  /-- LEDGER_DETACH (R356): LEDGER_ATTACH 0x00 detaches the ledger. -/
  | ledgerDetach (via : OdPath) (n : Nat)
  /-- EVAL_COMMIT (R357): Applies or releases the evaluation-slice reservation and rewrites the Jarast table. -/
  | evalCommit (via : OdPath) (v : BitVec 8)
  /-- CORE_RETIRE (R391): Records a logical core's slot to be left out from the next start. -/
  | coreRetire (via : OdPath) (n : Nat) (v : BitVec 8)
  /-- CORE_FAILED (R392): A core fails while running: its work is discarded, its island is closed and its LAUNCH aborts. -/
  | coreFailed (core : Nat) (cause : BitVec 8)
  /-- LOG_RING_ENTRIES (R395): Turns the HBM log ring on or off. -/
  | logRingEntries (via : OdPath) (v : BitVec 32)
  /-- LOG_RELEASE (R394): The collector releases a record after its hold, or when the ingress is full, to the on-die log and the ring. -/
  | logRelease
  /-- LOG_HEAD_WRITE (R395): A write of LOG_HEAD frees room in the log ring for waiting records. -/
  | logHeadWrite (head : BitVec 32)
  /-- EVENT_INTERRUPT (R396): A deferred MSI-X vector 72 is signalled at the end of the 10 µs window. -/
  | eventInterrupt
  /-- LANE_RECALIBRATION (R399): Self-test action 0x01 runs a lane recalibration pass. -/
  | laneRecalibration (via : OdPath) (target : BitVec 8)
  /-- SENSOR_TRIM (R399): Self-test action 0x02 trims the sensors. -/
  | sensorTrim (via : OdPath) (target : BitVec 8)
  /-- CORE_SELF_TEST (R399): Self-test action 0x10 tests the cores of a cluster. -/
  | coreSelfTest (via : OdPath) (target : BitVec 8)
  /-- HBM_PATTERN_TEST (R399): Self-test action 0x11 runs a destructive HBM pattern test. -/
  | hbmPatternTest (via : OdPath) (target : BitVec 8)
  /-- PORT_LOOPBACK (R399): Self-test action 0x12 runs a port loopback test. -/
  | portLoopback (via : OdPath) (target : BitVec 8)
  /-- TIMEBASE_DELAY_REMEASURE (R399): Self-test action 0x13 remeasures the timebase delays. -/
  | timebaseDelayRemeasure (via : OdPath) (target : BitVec 8)
  /-- SELFTEST_START (R398): A waiting disruptive action starts when the device reaches READY. -/
  | selftestStart
  /-- SELFTEST_WAIT_TIMEOUT (R398): A waiting action ends with TIMEOUT after SELFTEST_WAIT_MS. -/
  | selftestWaitTimeout
  /-- SELFTEST_DONE (R398): A self-test action ends and sets its result. -/
  | selftestDone (status : BitVec 8) (detail : BitVec 32)
  /-- FW_UPDATE (R430): Verifies a new image and writes it into the other slot. -/
  | fwUpdate (via : OdPath) (value : List (BitVec 8))
  /-- CONFIG_UPDATE (R434): Verifies a signed record and stores it. -/
  | configUpdate (via : OdPath) (value : List (BitVec 8))
  /-- ENROLMENT_AUTHORISATION (R437): A type 0x07 record starts re-enrolment and writes new helper data. -/
  | enrolmentAuthorisation (via : OdPath) (value : List (BitVec 8))
  /-- DEBUG_UNLOCK (R438): A verified debug token sets DEBUG_LEVEL. -/
  | debugUnlock (via : OdPath) (value : List (BitVec 8))
  /-- DEBUG_RELOCK (R438): Returns DEBUG_LEVEL to 0. -/
  | debugRelock (via : OdPath)
  /-- QUOTE_NONCE (R436): Produces a signed identity quote for the nonce. -/
  | quoteNonce (via : OdPath) (value : List (BitVec 8))
  /-- ALARM (R440): A Breakwater sensor condition applies its response: log, lock or erase. -/
  | alarm (classes : BitVec 5) (sensors : BitVec 40)
  /-- ERASE_MARKER_PROGRAMMED (R441): The erase marker is programmed within 2 ms. -/
  | eraseMarkerProgrammed
  /-- HELPER_OVERWRITE (R441): Both helper copies are overwritten with zeros. -/
  | helperOverwrite
  /-- COUNT_FREEZE (R456): Schedules a device-wide counter freeze or restart at T. -/
  | countFreeze (via : OdPath) (v : BitVec 8)
  /-- COUNT_CLEAR (R456): Schedules a device-wide counter clear at T. -/
  | countClear (via : OdPath)
  /-- COUNT_SWITCH (R456): At T each island applies the freeze, restart or clear. -/
  | countSwitch
  /-- PSEL (R451): A select-word write zeroes and reprograms a counter. -/
  | psel (via : OdPath) (set : BitVec 16) (n : Nat) (v : BitVec 64)
  /-- PCTL (R454): Clears counters, or OVF bits, of a block. -/
  | pctl (via : OdPath) (set : BitVec 16) (v : BitVec 32)
  /-- TALLY_ENABLE (R458): Starts or stops the Tally dumps. -/
  | tallyEnable (via : OdPath) (v : BitVec 8)
  /-- TALLY_DUMP (R457): At each multiple of the period every block latches its counters and writes a record, or the dump is skipped. -/
  | tallyDump
  /-- TALLY_DUMP_WRITTEN (R458): Once every record of the dump is in HBM, TAIL advances. -/
  | tallyDumpWritten
  /-- TALLY_HEAD_WRITE (R458): A write of TALLY_HEAD frees ring room. -/
  | tallyHeadWrite (head : BitVec 32)
  /-- SCRUB_READ (R236): The patrol scrubber reads the next 256 bytes and corrects or poisons. -/
  | scrubRead (unit : ScrubUnit)
  /-- MEM_CE_LIMIT (R240): At the end of a second over the limit, one MEM_CE_LIMIT is logged. -/
  | memCeLimit (srcType : BitVec 8) (srcInst : BitVec 8)
  /-- FATAL_ERROR (R46): A fatal error, such as channel parity or a fourth HBM write failure, moves the device to FAULT. -/
  | fatalError (e : HwError)
  /-- FLIT_RECEIVED (R246): A flit is CRC-checked, delivered in sequence or NAKed, and returns credits and ACKs. -/
  | flitReceived (port : Nat) (flit : List (BitVec 8))
  /-- IDLE_FLIT (R247): An end sends at least one flit every 1 µs. -/
  | idleFlit (port : Nat)
  /-- IDENT (R254): The peer's IDENT is tested against the plan, and the port goes UP, DEGRADED or PARKED. -/
  | ident (port : Nat) (id : IdentFlit)
  /-- TRAINING_TIMEOUT (R250): Training without success for 60 ms returns the port to DOWN. -/
  | trainingTimeout (port : Nat)
  /-- LINK_RETRY (R250): A DOWN port retries training every LINK_RETRY_MS. -/
  | linkRetry (port : Nat) (signal : BitVec 5)
  /-- LANE_BAD (R249): A lane becomes bad and its group leaves the link by resize. -/
  | laneBad (port : Nat) (lane : Nat)
  /-- RESIZE_REQ (R251): A peer's resize request is answered with the agreed mask. -/
  | resizeReq (port : Nat) (seq : BitVec 12) (mask : BitVec 5)
  /-- RESIZE_ACK (R251): The agreed mask is adopted at the switch SEQ. -/
  | resizeAck (port : Nat) (seq : BitVec 12) (mask : BitVec 5)
  /-- GROUP_RECOVER (R251): A removed group that has been good for GROUP_RECOVER_MS rejoins by resize. -/
  | groupRecover (port : Nat) (laneGroup : Nat)
  /-- RECAL (R252): A RECAL flit starts or ends the retuning of one lane. -/
  | recal (port : Nat) (lane : BitVec 6) (start : Bool)
  /-- LINK_DOWN (R247): A port goes DOWN on heartbeat loss, signal loss or the replay limit, and completes its routed transactions. -/
  | linkDown (port : Nat) (cause : BitVec 8)
  /-- DEVICE_FENCED (R381): A port that stays DOWN for FENCE_DELAY_US fences its peer's coordinates. -/
  | deviceFenced (port : Nat)
  /-- TB_HOLDOVER_ENTER (R31): The reference is absent for 1 µs and the generator enters holdover. -/
  | tbHoldoverEnter
  /-- TB_HOLDOVER_EXIT (R31): After the reference has been stable for 1 ms, the generator returns to it. -/
  | tbHoldoverExit
  /-- RESET_RELEASE (R411): Reset release samples the straps, starts the ROM and enters BOOT. -/
  | resetRelease (straps : BitVec 6)
  /-- IMAGE_VERIFIED (R429): The image verifies and the device enters INIT; a failure enters FAULT. -/
  | imageVerified
  /-- HBM_STACK_INIT (R413): An HBM stack completes initialisation and the next one starts. -/
  | hbmStackInit
  /-- HBM_INIT_FAILED (R413): A stack does not complete within 6 ms and the device enters FAULT. -/
  | hbmInitFailed (phase : BitVec 8)
  /-- CLUSTER_ENABLE (R414): A cluster is enabled at its stagger time, self-tests its slots and fixes the core map. -/
  | clusterEnable (failedSlots : BitVec 17)
  /-- START_COMPLETE (R411): The fill is complete, the Jarast table is written and the device enters READY. -/
  | startComplete
  /-- PWR_GOOD_LOW (R407): PWR_GOOD low, or power loss, takes the device to OFF. -/
  | pwrGoodLow
  /-- RESET_N_LOW (R407): RESET_N low takes the device to OFF. -/
  | resetNLow
  /-- PERST_N_LOW (R407): PERST_N low resets the endpoint or the device, as PERST_SCOPE selects. -/
  | perstNLow
  /-- PERST_N_RISE (R407): When PERST_N rises, the endpoint trains again or the device restarts. -/
  | perstNRise
  /-- RAIL_UNDERVOLTAGE (R406): A rail below 90 % for 1 µs takes the device to OFF until PWR_GOOD or RESET_N toggles. -/
  | railUndervoltage (rail : Nat)
  /-- THERMTRIP (R417): A trip temperature drives THERMTRIP_N low and the device enters OFF. -/
  | thermtrip
  /-- THERMAL_STEP (R417): Above a temperature limit the governor lowers the core clock one step every 100 µs. -/
  | thermalStep (die : BitVec 32) (hbm : BitVec 32)
  /-- GOVERNOR_ESTIMATE (R420): Every 1 µs the power estimate is compared with the target and the core clock may be lowered. -/
  | governorEstimate (fixed : BitVec 32) (core : BitVec 32) (avg : BitVec 32)
  /-- GOVERNOR_RAISE (R421): After 100 µs of headroom the clock rises one step. -/
  | governorRaise (fixed : BitVec 32) (core : BitVec 32) (avg : BitVec 32)
  /-- PMBUS_TELEMETRY (R418): Every 10 ms the regulators are read and the estimate is corrected. -/
  | pmbusTelemetry (readings : List (Option (BitVec 32 × BitVec 32)))
  /-- POWER_CAP (R420): A new cap takes effect through the governor. -/
  | powerCap (via : OdPath) (v : BitVec 16)
  /-- FLASH_WRITE_DONE (R430): A flash write ends, clearing FLASH_BUSY, and its request completes with its status; the write may be a save, an erase of the saved set, an image write or a signed-record write. -/
  | flashWriteDone
  /-- CONFIGURATION_REQUEST (R47): A host PCI Express configuration request is answered: with Request Retry Status in BOOT, and otherwise by reading or writing configuration space, including BAR assignment and Memory Space Enable. -/
  | configurationRequest (write : Bool) (reg : BitVec 10) (data : BitVec 32)
  /-- JTAG_INSTRUCTION (R438): A JTAG instruction arriving on the TAP pins is served as DEBUG_LEVEL allows: only IDCODE and BYPASS while locked, observation at level 1, and memory access, halting and writes at level 2. -/
  | jtagInstruction (req : JtagReq)
  /-- UNDEFINED_OPCODE (R179): An issued instruction whose opcode no table defines raises ILLEGAL_INSTRUCTION with detail 0x01. -/
  | undefinedOpcode (g : GroupRef) (word : BitVec 64)
  deriving DecidableEq, Repr

/-- The commands that pass through OFF: pins, rails and the delayed RESET (R46, R406, R407, R417, R442). -/
def Instr.throughOff : Instr → Bool
  | .resetRelease .. | .pwrGoodLow .. | .resetNLow .. | .perstNLow .. | .perstNRise .. | .railUndervoltage .. => true
  | .thermtrip .. | .thermalStep .. | .resetDelayExpiry .. | .eraseMarkerProgrammed .. => true
  | _ => false

end Sys2Proof
end

