-- ==== Sys2Proof/Decode.lean ====
section
/-!
DEFINITION. The block is commanded, and no row of the opcode table gives its command any bits, so no word spells a
command.
-/

namespace Sys2Proof

/-- The command that a word spells by the bits of the opcode table: none, since no row gives bits. -/
def decodeTableWord (_nbits _w : Nat) : Option Instr := none

end Sys2Proof
end

