-- ==== Sys2Proof/Machine/Num.lean ====
section
/-!
DEFINITION. Number formats, conversion and rounding (03_number_formats.md). A finite value is held exactly, as a sign
and a magnitude `mag × 2^e`; a conversion decodes exactly and encodes with one rounding (R88).
-/

namespace Sys2Proof

/-- An exact value: finite (with its sign, so that a zero keeps it, R92), a signed infinity or a NaN with the sign of
the value it stands for (R81). -/
inductive Val where
  | fin (neg : Bool) (mag : Nat) (e : Int)
  | inf (neg : Bool)
  | nan (neg : Bool)
  deriving DecidableEq, Repr

namespace Val

def zero : Val := .fin false 0 0
def one : Val := .fin false 1 0

/-- The value `n`. -/
def ofInt (n : Int) : Val := .fin (decide (n < 0)) n.natAbs 0

/-- `2^k`. -/
def pow2 (k : Int) : Val := .fin false 1 k

def isFinite : Val → Bool
  | .fin _ _ _ => true
  | _ => false

def isZero : Val → Bool
  | .fin _ 0 _ => true
  | _ => false

def isNaN : Val → Bool
  | .nan _ => true
  | _ => false

def isInf : Val → Bool
  | .inf _ => true
  | _ => false

def sign : Val → Bool
  | .fin n _ _ => n
  | .inf n => n
  | .nan n => n

def neg : Val → Val
  | .fin n m e => .fin (!n) m e
  | .inf n => .inf (!n)
  | .nan n => .nan (!n)

def abs : Val → Val
  | .fin _ m e => .fin false m e
  | .inf _ => .inf false
  | .nan _ => .nan false

/-- The signed integer `± mag`. -/
def signed (neg : Bool) (mag : Nat) : Int := if neg then -(mag : Int) else (mag : Int)

/-- The exact sum. A NaN gives NaN, and so do infinities of opposite signs; a zero sum is -0 only when both terms
are -0 (R111). Of two NaN terms the first gives the sign (DESIGN CHOICE, log 88). -/
def add : Val → Val → Val
  | .nan n, _ => .nan n
  | _, .nan n => .nan n
  | .inf a, .inf b => if a = b then .inf a else .nan false
  | .inf a, _ => .inf a
  | _, .inf b => .inf b
  | .fin a m e, .fin b m' e' =>
    if m = 0 then (if m' = 0 then .fin (a && b) 0 0 else .fin b m' e')
    else if m' = 0 then .fin a m e
    else
      let lo := min e e'
      let s := signed a m * 2 ^ (e - lo).toNat + signed b m' * 2 ^ (e' - lo).toNat
      .fin (decide (s < 0)) s.natAbs lo

def sub (x y : Val) : Val := add x y.neg

/-- The exact product; 0 times an infinity gives NaN (R107). Of two NaN factors the first gives the sign (DESIGN CHOICE,
log 88). -/
def mul : Val → Val → Val
  | .nan n, _ => .nan n
  | _, .nan n => .nan n
  | .inf a, .inf b => .inf (a != b)
  | .inf a, .fin b m _ => if m = 0 then .nan false else .inf (a != b)
  | .fin a m _, .inf b => if m = 0 then .nan false else .inf (a != b)
  | .fin a m e, .fin b m' e' => .fin (a != b) (m * m') (e + e')

/-- Infinities of opposite signs meet in the sum (INV, R113). -/
def addInvalid : Val → Val → Bool
  | .inf a, .inf b => a != b
  | _, _ => false

/-- An infinity meets a zero in the product (INV, R107). -/
def mulInvalid : Val → Val → Bool
  | .inf _, .fin _ m _ => m = 0
  | .fin _ m _, .inf _ => m = 0
  | _, _ => false

/-- `floor (log2 |x|)` of a finite non-zero value; 0 otherwise. -/
def floorLog2 : Val → Int
  | .fin _ m e => if m = 0 then 0 else (Nat.log2 m : Int) + e
  | _ => 0

/-- Compare two finite values or infinities as reals: -1, 0 or 1. NaN compares as 0. -/
def cmp (x y : Val) : Int :=
  match x, y with
  | .nan _, _ => 0
  | _, .nan _ => 0
  | .inf a, .inf b => if a = b then 0 else if a then -1 else 1
  | .inf a, _ => if a then -1 else 1
  | _, .inf b => if b then 1 else -1
  | .fin a m e, .fin b m' e' =>
    let lo := min e e'
    let d := signed a m * 2 ^ (e - lo).toNat - signed b m' * 2 ^ (e' - lo).toNat
    if d < 0 then -1 else if d = 0 then 0 else 1

def lt (x y : Val) : Bool := !x.isNaN && !y.isNaN && decide (cmp x y < 0)
def le (x y : Val) : Bool := !x.isNaN && !y.isNaN && decide (cmp x y ≤ 0)
def eq (x y : Val) : Bool := !x.isNaN && !y.isNaN && decide (cmp x y = 0)

/-- The finite value truncated toward zero to a multiple of `2^q` (R109). -/
def truncTo (q : Int) : Val → Val
  | .fin n m e => if q ≤ e then .fin n m e else .fin n (m / 2 ^ (q - e).toNat) q
  | v => v

/-- The finite value truncated toward zero to an integer. -/
def toIntTrunc : Val → Int
  | .fin n m e => signed n (if 0 ≤ e then m * 2 ^ e.toNat else m / 2 ^ (-e).toNat)
  | _ => 0

end Val

/-! ### Rounding (R96, R97) -/

/-- The rounding modes of R95; stochastic rounding carries the element's 16 random bits. -/
inductive RMode where
  | rne
  | rtz
  | sr (bits : BitVec 16)
  deriving DecidableEq, Repr

/-- `mag / 2^s` rounded to an integer, and whether the result is inexact. -/
def roundShift (mode : RMode) (mag s : Nat) : Nat × Bool :=
  let t := mag / 2 ^ s
  let r := mag % 2 ^ s
  let up := match mode with
    | .rne => decide (2 ^ s < 2 * r) || (decide (2 * r = 2 ^ s) && decide (t % 2 = 1))
    | .rtz => false
    | .sr bits => decide (0x10000 ≤ r * 0x10000 / 2 ^ s + bits.toNat)
  (if up then t + 1 else t, decide (r ≠ 0))

/-- A binary format: sign, `eb` exponent bits, `fb` fraction bits (R80). -/
structure FP where
  eb : Nat
  fb : Nat
  bias : Int
  deriving DecidableEq, Repr

namespace FP

def fp32 : FP := ⟨8, 23, 127⟩
def bf16 : FP := ⟨8, 7, 127⟩
def fp16 : FP := ⟨5, 10, 15⟩
def e4m3 : FP := ⟨4, 3, 7⟩
def e5m2 : FP := ⟨5, 2, 15⟩
def e3m2 : FP := ⟨3, 2, 3⟩
def e2m1 : FP := ⟨2, 1, 1⟩
def p20 : FP := ⟨9, 10, 255⟩
def w40 : FP := ⟨11, 28, 1023⟩

/-- Exponent of the least significant bit of a subnormal. -/
def qmin (f : FP) : Int := 1 - f.bias - f.fb

/-- The value of a bit pattern, without special encodings (R80). -/
def plain (f : FP) (bits : Nat) : Val :=
  let frac := bits % 2 ^ f.fb
  let e := bits / 2 ^ f.fb % 2 ^ f.eb
  let neg := decide (bits / 2 ^ (f.fb + f.eb) % 2 = 1)
  if e = 0 then .fin neg frac f.qmin else .fin neg (2 ^ f.fb + frac) ((e : Int) - 1 + f.qmin)

/-- The value of a bit pattern of a format with infinities and NaNs. -/
def ieee (f : FP) (bits : Nat) : Val :=
  let frac := bits % 2 ^ f.fb
  let e := bits / 2 ^ f.fb % 2 ^ f.eb
  let neg := decide (bits / 2 ^ (f.fb + f.eb) % 2 = 1)
  if e = 2 ^ f.eb - 1 then (if frac = 0 then .inf neg else .nan neg) else f.plain bits

/-- A finite magnitude rounded to the fraction width with the exponent unbounded above: (t, q, inexact), the value
`t × 2^q`. -/
def roundMag (f : FP) (mode : RMode) (mag : Nat) (e : Int) : Nat × Int × Bool :=
  if mag = 0 then (0, f.qmin, false)
  else
    let q := max ((Nat.log2 mag : Int) + e - f.fb) f.qmin
    if q ≤ e then (mag * 2 ^ (e - q).toNat, q, false)
    else
      let r := roundShift mode mag (q - e).toNat
      (r.1, q, r.2)

/-- The bit pattern of `± t × 2^q`, where `t × 2^q` is a value of the format. -/
def pack (f : FP) (neg : Bool) (t : Nat) (q : Int) : Nat :=
  let s := if neg then 2 ^ (f.fb + f.eb) else 0
  if t < 2 ^ f.fb then s + t
  else
    -- `t` may be `2^(fb+1)` after a carry
    let t' := if t < 2 ^ (f.fb + 1) then t else t / 2
    let q' := if t < 2 ^ (f.fb + 1) then q else q + 1
    s + (q' - f.qmin + 1).toNat * 2 ^ f.fb + (t' - 2 ^ f.fb)

/-- The largest finite magnitude of a format whose top exponent is reserved, as `t × 2^q`. -/
def maxMag (f : FP) : Nat × Int := (2 ^ (f.fb + 1) - 1, 2 ^ f.eb - 3 + f.qmin)

end FP

/-- `m × 2^e > m' × 2^e'`. -/
def magGt (m : Nat) (e : Int) (m' : Nat) (e' : Int) : Bool :=
  let lo := min e e'
  decide (m' * 2 ^ (e' - lo).toNat < m * 2 ^ (e - lo).toNat)

/-! ### Flags (R94) -/

abbrev FlagVec := BitVec 6

def fINX : FlagVec := 0x01
def fUF : FlagVec := 0x02
def fSAT : FlagVec := 0x04
def fDZ : FlagVec := 0x08
def fINV : FlagVec := 0x10
def fNANIN : FlagVec := 0x20

/-- The flag when the condition holds. -/
def flagIf (c : Bool) (f : FlagVec) : FlagVec := if c then f else 0

/-! ### Encoding into one format (R88 to R92) -/

/-- How a destination encodes: its shape, its largest finite magnitude, and what infinity, NaN and overflow give. -/
structure Dest where
  fp : FP
  maxM : Nat
  maxE : Int
  /-- the pattern of an infinity, without its sign; none where the format has none -/
  infBits : Option Nat
  /-- the canonical NaN, without its sign; none where the format has none -/
  nanBits : Option Nat
  deriving DecidableEq, Repr

def Dest.fp32 : Dest := ⟨.fp32, FP.fp32.maxMag.1, FP.fp32.maxMag.2, some 0x7F800000, some 0x7FC00000⟩
def Dest.bf16 : Dest := ⟨.bf16, FP.bf16.maxMag.1, FP.bf16.maxMag.2, some 0x7F80, some 0x7FC0⟩
def Dest.fp16 : Dest := ⟨.fp16, FP.fp16.maxMag.1, FP.fp16.maxMag.2, some 0x7C00, some 0x7E00⟩
def Dest.e4m3 : Dest := ⟨.e4m3, 448, 0, none, some 0x7F⟩
def Dest.e5m2 : Dest := ⟨.e5m2, FP.e5m2.maxMag.1, FP.e5m2.maxMag.2, some 0x7C, some 0x7E⟩
def Dest.e3m2 : Dest := ⟨.e3m2, 28, 0, none, none⟩
def Dest.e2m1 : Dest := ⟨.e2m1, 6, 0, none, none⟩

def Dest.signBit (d : Dest) (neg : Bool) : Nat := if neg then 2 ^ (d.fp.fb + d.fp.eb) else 0

/-- The pattern of the largest finite magnitude. -/
def Dest.maxBits (d : Dest) : Nat := d.fp.pack false
  (d.fp.roundMag .rtz d.maxM d.maxE).1 (d.fp.roundMag .rtz d.maxM d.maxE).2.1

/-- What an overflow gives (R90). -/
def Dest.overflow (d : Dest) (ovf : Bool) (mode : RMode) (neg : Bool) : Nat :=
  if ovf && decide (mode ≠ .rtz) then
    match d.infBits, d.nanBits with
    | some i, _ => d.signBit neg + i
    | none, some n => d.signBit neg + n
    | none, none => d.signBit neg + d.maxBits
  else d.signBit neg + d.maxBits

/-- Encode an exact value with one rounding: the pattern and the flags. -/
def Dest.encode (d : Dest) (ovf : Bool) (mode : RMode) : Val → Nat × FlagVec
  | .nan n => (d.signBit n + d.nanBits.getD 0, fNANIN)
  | .inf n =>
    match d.infBits with
    | some i => (d.signBit n + i, 0)
    | none => (d.signBit n + d.nanBits.getD 0, fINV)
  | .fin n m e =>
    let r := d.fp.roundMag mode m e
    if magGt r.1 r.2.1 d.maxM d.maxE then (d.overflow ovf mode n, fSAT ||| fINX)
    else
      (d.signBit n + d.fp.pack false r.1 r.2.1,
        flagIf r.2.2 fINX ||| flagIf (r.2.2 && decide (r.1 < 2 ^ d.fp.fb)) fUF)

/-- A conversion to INT8 (R90 to R92). -128 is a value of the format and no overflow, though its magnitude is above 127: the
model's choice between R80 and R90 (log 69). -/
def encodeInt8 (mode : RMode) : Val → Nat × FlagVec
  | .nan _ => (0, fINV ||| fNANIN)
  | .inf n => (if n then 0x80 else 0x7F, fINV)
  | .fin n m e =>
    let r := if 0 ≤ e then (m * 2 ^ e.toNat, false) else roundShift mode m (-e).toNat
    let i := Val.signed n r.1
    if 127 < i then (0x7F, fSAT ||| fINX)
    else if i < -128 then (0x80, fSAT ||| fINX)
    else ((i % 256).toNat, flagIf r.2 fINX)

/-! ### FP32, W40 and P20 arithmetic words -/

def f32Val (x : F32) : Val := FP.fp32.ieee x.toNat

/-- `round_fp32` (R112): to nearest, ties to even, IEEE overflow. -/
def f32Of (v : Val) : F32 := BitVec.ofNat 32 (Dest.fp32.encode true .rne v).1

/-- SAT where a finite value overflows to an infinity (R213). -/
def f32Sat (v : Val) : FlagVec := (Dest.fp32.encode true .rne v).2 &&& fSAT

/-- The canonical positive NaN of FP32. -/
def f32NaN : F32 := 0x7FC00000

def w40Val (x : W40) : Val := FP.w40.ieee x.toNat

def Dest.w40 : Dest := ⟨.w40, FP.w40.maxMag.1, FP.w40.maxMag.2, some 0x7FF0000000, some 0x7FF8000000⟩
def Dest.p20 : Dest := ⟨.p20, FP.p20.maxMag.1, FP.p20.maxMag.2, some 0x7FC00, some 0x7FE00⟩

/-- `round_w40` (R112). -/
def w40Of (v : Val) : W40 := BitVec.ofNat 40 (Dest.w40.encode true .rne v).1

/-- `round_p20` (R112), as the exact value of the P20 word. -/
def p20Round (v : Val) : Val := FP.p20.ieee (Dest.p20.encode true .rne v).1

/-- The value rounded to a W40 word. -/
def w40Round (v : Val) : Val := w40Val (w40Of v)

/-- The value rounded to FP32. -/
def f32Round (v : Val) : Val := f32Val (f32Of v)

/-- `p20_overflows` (R114): the value rounded to 11 significant bits reaches 2^256. -/
def p20Overflows : Val → Bool
  | .fin _ m e => magGt (FP.p20.roundMag .rne m e).1 (FP.p20.roundMag .rne m e).2.1
      FP.p20.maxMag.1 FP.p20.maxMag.2
  | _ => false

/-! ### Formats by code (R79) -/

/-- Bits of an element, by format code; 0 for a reserved code. -/
def fmtBits (fmt : BitVec 4) : Nat :=
  match fmt.toNat with
  | 0 => 32 | 1 => 16 | 2 => 16 | 3 => 8 | 4 => 8 | 5 => 8 | 6 => 8 | 7 => 6 | 8 => 4 | 9 => 8 | 10 => 128
  | _ => 0

/-- An MX format (R82). -/
def fmtIsMx (fmt : BitVec 4) : Bool := decide (5 ≤ fmt.toNat) && decide (fmt.toNat ≤ 8)

/-- The value of an element without scale, by format code. Code 0xA is decoded as head + tail (R86, R88); a head of -0 with
a tail of +0 is +0, the exact sum, by the model's choice (log 69). -/
def fmtDecode (fmt : BitVec 4) (bits : Nat) : Val :=
  match fmt.toNat with
  | 0 => FP.fp32.ieee bits
  | 1 => FP.bf16.ieee bits
  | 2 => FP.fp16.ieee bits
  | 3 | 5 =>
    if bits % 128 = 127 then .nan (decide (bits / 128 % 2 = 1)) else FP.e4m3.plain bits
  | 4 | 6 => FP.e5m2.ieee bits
  | 7 => FP.e3m2.plain bits
  | 8 => FP.e2m1.plain bits
  | 9 => Val.ofInt ((BitVec.ofNat 8 bits).toInt)
  | _ =>
    let h := w40Val (BitVec.ofNat 40 bits)
    let t := w40Val (BitVec.ofNat 40 (bits / 2 ^ 64))
    if h.isFinite then h.add t else h

/-- The value of an E8M0 scale byte; 0xFF is NaN (R83). -/
def scaleVal (x : BitVec 8) : Val := if x = 0xFF then .nan false else .pow2 ((x.toNat : Int) - 127)

/-- The value of an element with its scale (R83): under scale 0xFF every element is NaN. -/
def fmtDecodeScaled (fmt : BitVec 4) (bits : Nat) (scale : BitVec 8) : Val :=
  if fmtIsMx fmt then
    if scale = 0xFF then .nan false else (fmtDecode fmt bits).mul (scaleVal scale)
  else fmtDecode fmt bits

/-- The destination of a format code with its own encoding (all but INT8 and the W40 pair). -/
def fmtDest (fmt : BitVec 4) : Dest :=
  match fmt.toNat with
  | 0 => .fp32 | 1 => .bf16 | 2 => .fp16 | 3 | 5 => .e4m3 | 4 | 6 => .e5m2 | 7 => .e3m2 | _ => .e2m1

/-- A value written as a W40 pair, with its flags (R86). -/
def encodePair (v : Val) : Nat × FlagVec :=
  let head := w40Of v
  let hv := w40Val head
  if hv.isFinite then
    let rest := v.sub hv
    let tail := w40Of rest
    let inx := !(rest.sub (w40Val tail)).isZero
    (tail.toNat * 2 ^ 64 + head.toNat,
      flagIf inx fINX |||
      flagIf (inx && (match hv with | .fin _ m _ => decide (m < 2 ^ 28) | _ => false)) fUF)
  else (head.toNat, flagIf v.isFinite (fSAT ||| fINX) ||| flagIf v.isNaN fNANIN)

/-- Encode a value in a format that needs no block scale. -/
def fmtEncode (fmt : BitVec 4) (ovf : Bool) (mode : RMode) (v : Val) : Nat × FlagVec :=
  if fmt = 0x9 then encodeInt8 mode v
  else if fmt = 0xA then encodePair v
  else (fmtDest fmt).encode ovf mode v

/-- emax of the element range of an MX format (R93). -/
def mxEmax (fmt : BitVec 4) : Int :=
  match fmt.toNat with
  | 5 => 8 | 6 => 15 | 7 => 4 | _ => 2

/-- The largest magnitude of a list of finite values. -/
def maxAbs : List Val → Val
  | [] => Val.zero
  | v :: vs => if (maxAbs vs).lt v.abs then v.abs else maxAbs vs

/-- The scale byte of a block, from the values that are not poisoned (R93, R168). -/
def mxScale (fmt : BitVec 4) (vs : List Val) : BitVec 8 :=
  let a := maxAbs vs
  if a.isZero then 0x7F
  else BitVec.ofInt 8 (min 127 (max (-127) (a.floorLog2 - mxEmax fmt)) + 127)

/-- Conversion of one block to an MX format: scale byte, elements, flags (R91, R93). `modes` gives each element's
rounding; an element of `none` is poisoned and is left out of the block's maximum. -/
def mxEncode (fmt : BitVec 4) (ovf : Bool) (modes : List RMode) (vs : List (Option Val)) :
    BitVec 8 × List Nat × FlagVec :=
  let here := vs.filterMap id
  if here.any fun v => !v.isFinite then
    (0xFF, vs.map fun _ => 0,
      here.foldl (fun fl v => fl ||| flagIf v.isNaN fNANIN ||| flagIf v.isInf fINV) 0)
  else
    let sc := mxScale fmt here
    let inv := Val.pow2 (127 - (sc.toNat : Int))
    let rs := (vs.zip modes).map fun p =>
      match p.1 with
      | none => (0, (0 : FlagVec))
      | some v => (fmtDest fmt).encode ovf p.2 (v.mul inv)
    (sc, rs.map (·.1), rs.foldl (fun fl r => fl ||| r.2) 0)

/-! ### The conversion control word and the random bits (R95, R97 to R99) -/

def ccwRmode (ccw : BitVec 16) : BitVec 2 := ccw.extractLsb' 0 2
def ccwOvf (ccw : BitVec 16) : Bool := ccw.getLsbD 3
def ccwStream (ccw : BitVec 16) : BitVec 8 := ccw.extractLsb' 8 8

/-- `mix` of R98. -/
def srMix (x0 : BitVec 64) : BitVec 64 :=
  let x1 := x0 ^^^ (x0 >>> 31)
  let x2 := x1 * 0xB4E90D5736C1A8F3
  let x3 := x2 ^^^ (x2 >>> 29)
  let x4 := x3 * 0x97D26A4BF15E3C0B
  x4 ^^^ (x4 >>> 32)

/-- `sr_bits` of R98. -/
def srBits (seed step hidx : BitVec 64) : BitVec 16 :=
  let x := srMix (seed ^^^ (hidx * 0x8F3AD1C72B64E59D))
  let y := srMix (x ^^^ step.rotateLeft 23 ^^^ 0x5E1749B3C8A06F21)
  y.extractLsb' 48 16

/-- The hashed index of R99. -/
def srIndex (stream : BitVec 8) (idxBase idxRow : BitVec 56) (r c : Nat) : BitVec 64 :=
  stream ++ (idxBase + BitVec.ofNat 56 r * idxRow + BitVec.ofNat 56 c)

/-- The rounding of element (r, c) under a control word. -/
def ccwMode (ccw : BitVec 16) (seed step : BitVec 64) (idxBase idxRow : BitVec 56) (r c : Nat) : RMode :=
  match (ccwRmode ccw).toNat with
  | 0 => .rne
  | 1 => .rtz
  | _ => .sr (srBits seed step (srIndex (ccwStream ccw) idxBase idxRow r c))

end Sys2Proof
end

