-- ==== Sys2Proof/Machine/RefDot.lean ====
section
/-!
DEFINITION. The reference order of operations (04_reference_order.md): products, group sums, partials, promotion, the
addition of pairs, the INT8 class and heritage mode. A pair's two words are held as exact values, each of which is a
W40 value.
-/

namespace Sys2Proof

/-- The numeric classes of R105. -/
inductive NumClass where
  | fp8
  | b16
  | fp32
  | int8
  deriving DecidableEq, Repr

/-- The class of an operand pairing (R105); none where the pairing is in no class. -/
def numClass (afmt wfmt : BitVec 4) : Option NumClass :=
  if 3 ≤ afmt.toNat ∧ afmt.toNat ≤ 8 ∧ 3 ≤ wfmt.toNat ∧ wfmt.toNat ≤ 8 then some .fp8
  else if afmt ≠ wfmt then none
  else match afmt.toNat with
    | 0 => some .fp32
    | 1 | 2 => some .b16
    | 9 => some .int8
    | _ => none

/-- Group size G (R105). -/
def NumClass.group : NumClass → Nat
  | .fp8 => 32
  | .b16 => 16
  | .fp32 => 16
  | .int8 => 32

/-! ### Sums -/

/-- The exact sum of terms in order; -0 only when every term is -0 (R111). -/
def sumVals : List Val → Val
  | [] => Val.zero
  | v :: vs => vs.foldl Val.add v

/-- NANIN of terms that are NaN and INV of infinities of both signs. -/
def sumFlags (vs : List Val) : FlagVec :=
  flagIf (vs.any Val.isNaN) fNANIN |||
  flagIf (vs.any (fun v => v.isInf && v.sign) && vs.any (fun v => v.isInf && !v.sign)) fINV

/-- NANIN and INV of one product (R107). -/
def mulFlags (a b : Val) : FlagVec :=
  flagIf (a.isNaN || b.isNaN) fNANIN ||| flagIf (a.mulInvalid b) fINV

/-- E of R109: the largest `floor (log2 |x|)` of the non-zero terms; none where every term is zero. -/
def windowExp : List Val → Option Int
  | [] => none
  | v :: vs =>
    match windowExp vs with
    | none => if v.isZero then none else some v.floorLog2
    | some e => if v.isZero then some e else some (max v.floorLog2 e)

/-- The terms truncated toward zero to multiples of `2^(E - 48)` (R109). -/
def windowed (vs : List Val) : List Val :=
  match windowExp vs with
  | none => vs
  | some e => vs.map (Val.truncTo (e - 48))

/-- The three 8-bit pieces of an FP32 operand (R110). -/
def pieces : Val → Val × Val × Val
  | .fin n m e => (.fin n (m / 2 ^ 16) (e + 16), .fin n (m / 2 ^ 8 % 2 ^ 8) (e + 8), .fin n (m % 2 ^ 8) e)
  | v => (v, v, v)

/-- The six kept cross products of one element pair (R110). -/
def crossTerms (a b : Val) : List Val :=
  let p := pieces a
  let q := pieces b
  [p.1.mul q.1, p.1.mul q.2.1, p.2.1.mul q.1, p.1.mul q.2.2, p.2.2.mul q.1, p.2.1.mul q.2.1]

/-- One group's sum with its flags (R107 to R111): element pairs in K order, completed with +0 products to the
group size, and the exponent of the scales' product. -/
def groupSum (cls : NumClass) (ps : List (Val × Val)) (scale : Int) : Val × FlagVec :=
  let prods := ps.map fun p => p.1.mul p.2
  let pad := if ps.length < cls.group then [Val.zero] else []
  let fl := ps.foldl (fun fl p => fl ||| mulFlags p.1 p.2) 0 ||| (sumFlags prods &&& fINV)
  if prods.all Val.isFinite then
    match cls with
    | .fp8 => ((sumVals (prods ++ pad)).mul (.pow2 scale), fl)
    | .int8 => (sumVals (prods ++ pad), fl)
    | .b16 => (sumVals (windowed prods ++ pad), fl)
    | .fp32 => (sumVals (windowed (ps.flatMap fun p => crossTerms p.1 p.2) ++ pad), fl)
  else (sumVals prods, fl)

/-! ### Promotion and the addition of pairs (R113, R121) -/

/-- A pair with the flags that its forming set. -/
structure PairRes where
  head : Val
  tail : Val
  flags : FlagVec
  deriving DecidableEq, Repr

/-- The common end of R113 and R121: `rest` holds the terms of u. -/
def pairFinish (s : Val) (rest : List Val) (fl : FlagVec) : PairRes :=
  let r := sumVals rest
  let fl := fl ||| sumFlags rest
  let u := w40Round r
  if u.isFinite then
    let su := s.add u
    let h := w40Round su
    if h.isFinite then ⟨h, su.sub h, fl⟩ else ⟨h, .zero, fl ||| fSAT⟩
  else ⟨u, .zero, fl ||| flagIf r.isFinite fSAT⟩

/-- `promote` of R113. -/
def promote (h t x : Val) : PairRes :=
  if x.isZero then ⟨h, t, 0⟩
  else
    let hx := h.add x
    let fl := sumFlags [h, x]
    let s := w40Round hx
    if s.isFinite then pairFinish s [t, hx.sub s] fl
    else ⟨s, .zero, fl ||| flagIf hx.isFinite fSAT⟩

/-- `pair_add` of R121. -/
def pairAdd (h t h2 t2 : Val) : PairRes :=
  let hh := h.add h2
  let fl := sumFlags [h, h2]
  let s := w40Round hh
  if s.isFinite then pairFinish s [t, t2, hh.sub s] fl
  else ⟨s, .zero, fl ||| flagIf hh.isFinite fSAT⟩

/-- The exact value of a pair: a non-finite head or tail gives its own value (R86). -/
def pairVal (h t : Val) : Val := if h.isFinite then h.add t else h

/-- The pair of an exact value (R86). -/
def pairOf (v : Val) : Val × Val :=
  let h := w40Round v
  if h.isFinite then (h, w40Round (v.sub h)) else (h, .zero)

/-! ### The reference order (R114, R115) -/

/-- The running state of `reference_dot`. -/
structure DotState where
  head : Val
  tail : Val
  part : Val
  n : Nat
  flags : FlagVec
  escapes : Nat
  deriving DecidableEq, Repr

/-- The pair promoted with `x`. -/
def DotState.promote (d : DotState) (x : Val) : DotState :=
  let r := Sys2Proof.promote d.head d.tail x
  { d with head := r.head, tail := r.tail, flags := d.flags ||| r.flags }

/-- A window that has taken P groups is promoted. -/
def DotState.window (d : DotState) (p : Nat) : DotState :=
  if d.n = p then { d.promote d.part with part := .zero, n := 0 } else d

/-- One group taken. An infinite partial that meets a group sum of the other infinity sets INV, as the same meeting does in
R113: the model's choice (log 45). -/
def DotState.take (cls : NumClass) (p : Nat) (d : DotState) (g : Val) : DotState :=
  let d' :=
    if cls = .fp32 then { d with part := w40Round g }
    else
      let pg := p20Round g
      let sm := d.part.add pg
      if g.isFinite && (p20Overflows g || p20Overflows sm) then
        let d1 := (d.promote d.part).promote (w40Round g)
        { d1 with part := .zero, escapes := d1.escapes + 1 }
      else { d with part := p20Round sm, flags := d.flags ||| sumFlags [d.part, pg] }
  { d' with n := d'.n + 1 }.window p

/-- `reference_dot` of R114 from a pair held. -/
def referenceDot (cls : NumClass) (p : Nat) (gs : List Val) (h t : Val) : DotState :=
  let p := if cls = .fp32 then 1 else p
  let d := gs.foldl (DotState.take cls p) ⟨h, t, .zero, 0, 0, 0⟩
  if d.n = 0 then d else { d.promote d.part with part := .zero, n := 0 }

/-! ### INT8 (R119) -/

def int48Lo : Int := -(2 ^ 47)
def int48Hi : Int := 2 ^ 47 - 1

/-- The nearer bound of the 48-bit integer, and whether it was taken. -/
def int48Clamp (x : Int) : Int × Bool :=
  if int48Hi < x then (int48Hi, true) else if x < int48Lo then (int48Lo, true) else (x, false)

/-- The integer that an INT8 MMA without ZERO starts from: its value, whether that is a saturation, and flags. -/
def int8Start (v : Val) : Int × Bool × FlagVec :=
  match v with
  | .nan _ => (0, false, fINV)
  | .inf n => (if n then int48Lo else int48Hi, true, fSAT)
  | .fin n m e =>
    let r := int48Clamp (Val.fin n m e).toIntTrunc
    (r.1, r.2, flagIf r.2 fSAT)

/-- Groups added in K order; a bound once reached inside the operation is kept. -/
def int8Dot : List Val → Int → Bool → Int × Bool
  | [], acc, sat => (acc, sat)
  | g :: gs, acc, sat =>
    let r := int48Clamp (acc + g.toIntTrunc)
    if r.2 then (r.1, true) else int8Dot gs r.1 sat

/-! ### Heritage mode (R126) -/

/-- An FP32 sum with NANIN, INV and SAT. -/
def hAdd (a b : Val) : Val × FlagVec :=
  let s := a.add b
  (f32Round s, sumFlags [a, b] ||| f32Sat s)

/-- An FP32 product with NANIN, INV and SAT. -/
def hMul (a b : Val) : Val × FlagVec :=
  let p := a.mul b
  (f32Round p, mulFlags a b ||| f32Sat p)

/-- One level of the pairwise tree. -/
def hPairs : List (Val × FlagVec) → List (Val × FlagVec)
  | a :: b :: r => ((hAdd a.1 b.1).1, a.2 ||| b.2 ||| (hAdd a.1 b.1).2) :: hPairs r
  | r => r

/-- The sum of one K-slice of eight products. -/
def hSlice (ps : List (Val × Val)) : Val × FlagVec :=
  let q := ps.map (fun p => hMul p.1 p.2) ++ List.replicate (8 - ps.length) (Val.zero, 0)
  ((hPairs (hPairs (hPairs q))).head?).getD (Val.zero, 0)

/-- `heritage_dot` over slices of at most eight element pairs. -/
def heritageDot (slices : List (List (Val × Val))) (acc : Val) : Val × FlagVec :=
  slices.foldl (fun a sl =>
    let s := hSlice sl
    let r := hAdd a.1 s.1
    (r.1, a.2 ||| s.2 ||| r.2)) (acc, 0)

/-! ### Arrival-order adds and extrema on single formats (R123) -/

/-- A list cut into pieces of `n`, the last one shorter (fuel: the list's length). -/
def chunksOf {α : Type} (n : Nat) : Nat → List α → List (List α)
  | 0, _ => []
  | k + 1, l => if l.isEmpty then [] else l.take n :: chunksOf n k (l.drop n)

/-- Pieces of `n` elements. -/
def chunks {α : Type} (n : Nat) (l : List α) : List (List α) := chunksOf n l.length l

end Sys2Proof
end

