-- ==== Sys2Proof/Config.lean ====
section
/-!
DEFINITION. What one device fixes and the spec does not state: the free values of the model. Each is an opaque
constant with no body, so nothing can be proved of its value; `notes/assumptions` names every use.
-/

namespace Sys2Proof

/-- Fresh free values: position `n` of `State.free` gives the `n`-th (log 5). -/
opaque Config.freeNat : Nat → Nat

/-- Result of a stage-4 function FN on an FP32 input where R211 gives only an error bound (log 10). It is taken where it
lies within that bound. -/
opaque Config.chainFn : BitVec 4 → F32 → F32

/-- The random number of draw `i` in a signature of bytes under a private key (R425, log 11). -/
opaque Config.sm2Random : BitVec 256 → List Byte → Nat → Nat

/-- The ROM's root public key (R426). -/
opaque Config.rootKey : BitVec 512

/-- The management-island SRAM PUF's response (R435). -/
opaque Config.pufResponse : BitVec 256

/-- The SM2 private key that the Pilot derives from a secret (R435, log 83). -/
opaque Config.identityKey : BitVec 256 → BitVec 256

/-- A byte of HBM, and bits [79:64] of an HBM word, where the spec leaves the contents undefined (R399): a number of
the occasion, and the local address or the word number. -/
opaque Config.hbmByte : Nat → Nat → Byte
opaque Config.hbmSide : Nat → Nat → BitVec 16

/-- How many times an event of cycles, waits or refills has come about over some edges (R197, R452, log 22): the index of its
set, its code, and the time before them. It is taken up to what its rate allows. -/
opaque Config.timedCount : Nat → Nat → Nat → Nat

/-- Symbols that the FEC of a port has corrected, or codewords that it could not, while time passed: the port, 0 or 1, and
the time before (R280, log 78). -/
opaque Config.portFec : Nat → Nat → Nat → Nat

/-- KIND and severity of the record that a block type logs for a closed channel, and the halves of its payload for an address
(R26, log 80). -/
opaque Config.closedKind : Nat → Nat
opaque Config.closedSeverity : Nat → BitVec 2
opaque Config.closedPayload : Nat → Nat → Nat

/-- ROM_VERSION (R76). -/
opaque Config.romVersion : BitVec 32

/-- Jarast version of a block type: major in [15:8], minor in [7:0] (R62, log 21). -/
opaque Config.jarastVersion : BitVec 8 → BitVec 16

end Sys2Proof
end

