-- ==== Sys2Proof/Machine/Code.lean ====
section
/-!
DEFINITION. The memory code of R229 to R231: 80-bit code words, their check bits, and what the checker makes of a word
that it reads.
-/

namespace Sys2Proof

/-- An 80-bit code word (R229): PARITY [79], POISON [78], CHECK [77:64], DATA [63:0]. -/
abbrev CodeWord := BitVec 80

/-- g(x) without its x^14 term (R230). -/
def bchPoly : Nat := 0x377

/-- One step of `bch_check`: information bit `b` enters the remainder `r`. -/
def bchStep (r : Nat) (b : Bool) : Nat :=
  let r2 := r * 2 % 0x4000
  if b != r.testBit 13 then r2 ^^^ bchPoly else r2

/-- The remainder after information bits `n - 1` down to 0. -/
def bchFrom (info : Nat) : Nat → Nat → Nat
  | 0, r => r
  | n + 1, r => bchFrom info n (bchStep r (info.testBit n))

/-- `bch_check` (R230). -/
def bchCheck (data : BitVec 64) (poison : Bool) : BitVec 14 :=
  let info := data.toNat + (if poison then 2 ^ 64 else 0)
  BitVec.ofNat 14 (if info = 0 then 0 else bchFrom info 65 0)

/-- PARITY: the XOR of bits [78:0] of a word whose bits are `n`. -/
def xorBits (n : Nat) : Nat → Bool
  | 0 => false
  | k + 1 => n.testBit k != xorBits n k

/-- The code word of data with its poison bit (R229, R230). -/
def codeWord (data : BitVec 64) (poison : Bool) : CodeWord :=
  let low : BitVec 79 := BitVec.ofBool poison ++ bchCheck data poison ++ data
  BitVec.ofBool (xorBits low.toNat 79) ++ low

/-- The bits of a word by polynomial position: CHECK bit j at j, DATA bit i at 14 + i, POISON at 78; 79 stands for
PARITY. -/
def positionBit (p : Nat) : Nat := if p < 14 then 64 + p else if p < 78 then p - 14 else p

/-- The column of a position below 79: x^p mod g(x) (R230). -/
def bchColumn : Nat → Nat
  | 0 => 1
  | p + 1 =>
    let r := bchColumn p
    let r2 := r * 2 % 0x4000
    if r.testBit 13 then r2 ^^^ bchPoly else r2

/-- The columns of positions `p`, `p + 1`, … (`n` of them), from the first one's column. -/
def bchColumnsFrom : Nat → Nat → List Nat
  | 0, _ => []
  | n + 1, r =>
    let r2 := r * 2 % 0x4000
    r :: bchColumnsFrom n (if r.testBit 13 then r2 ^^^ bchPoly else r2)

/-- The columns of positions 0 to 78. -/
def bchColumns : List Nat := bchColumnsFrom 79 1

/-- The first position of `cols`, counted from `p`, whose column is `s`. -/
def findColumn (s : Nat) : Nat → List Nat → Option Nat
  | _, [] => none
  | p, c :: cs => if c = s then some p else findColumn s (p + 1) cs

/-- The first two positions whose columns XOR to `s`. -/
def findPair (s : Nat) : Nat → List Nat → Option (Nat × Nat)
  | _, [] => none
  | p, c :: cs =>
    match findColumn (s ^^^ c) (p + 1) cs with
    | some q => some (p, q)
    | none => findPair s (p + 1) cs

/-- What the checker finds (R231). -/
inductive Checked where
  | clean
  /-- corrected: the word, the first position, and the second or 0xFF -/
  | corrected (w : CodeWord) (p q : Nat)
  | uncorrectable
  deriving DecidableEq, Repr

/-- A word with the bit of a position flipped. -/
def flipPosition (w : CodeWord) (p : Nat) : CodeWord := w ^^^ BitVec.twoPow 80 (positionBit p)

def codeData (w : CodeWord) : BitVec 64 := w.extractLsb' 0 64
def codePoison (w : CodeWord) : Bool := w.getLsbD 78
def codeCheck (w : CodeWord) : BitVec 14 := w.extractLsb' 64 14

/-- The syndrome of a word. -/
def syndrome (w : CodeWord) : BitVec 14 := codeCheck w ^^^ bchCheck (codeData w) (codePoison w)

/-- The checker of R231. -/
def checkWord (w : CodeWord) : Checked :=
  let s := (syndrome w).toNat
  let p := xorBits w.toNat 80
  if s = 0 then (if p then .corrected (flipPosition w 79) 79 0xFF else .clean)
  else
    match findColumn s 0 bchColumns with
    | some a => if p then .corrected (flipPosition w a) a 0xFF
        else .corrected (flipPosition (flipPosition w a) 79) a 79
    | none =>
      if p then .uncorrectable
      else
        match findPair s 0 bchColumns with
        | some (a, b) => .corrected (flipPosition (flipPosition w a) b) a b
        | none => .uncorrectable

/-- The word as the checker delivers it, and as the memory holds it after the read (R232). -/
def checkedWord (w : CodeWord) : CodeWord :=
  match checkWord w with
  | .clean => w
  | .corrected w' _ _ => w'
  | .uncorrectable => codeWord (codeData w) true

/-- The DATA and POISON that a read delivers (R231, R232). -/
def deliver (w : CodeWord) : BitVec 64 × Bool := (codeData (checkedWord w), codePoison (checkedWord w))

end Sys2Proof
end

