-- ==== Sys2Proof/Machine/OdKeys.lean ====
section
/-!
DEFINITION. The keys `256 × index + subindex` under which the entries of the object dictionary are held, by the names
of the spec's listings. An argument is the instance, and `i` the number of a row of like entries.
-/

namespace Sys2Proof.Machine.Od

/-- The key of an entry. -/
abbrev key (idx sub : Nat) : Nat := 256 * idx + sub

abbrev vendorName : Nat := key 0x1000 0x01
abbrev productName : Nat := key 0x1000 0x02
abbrev partNumber : Nat := key 0x1000 0x03
abbrev stepping : Nat := key 0x1000 0x04
abbrev serialNumber : Nat := key 0x1000 0x05
abbrev firmwareVersion : Nat := key 0x1000 0x06
abbrev romVersion : Nat := key 0x1000 0x07
abbrev deviceState : Nat := key 0x1001 0x01
abbrev stateCause : Nat := key 0x1001 0x02
abbrev stateTime : Nat := key 0x1001 0x03
abbrev deviceCommand : Nat := key 0x1002 0x01
abbrev drainTimeout : Nat := key 0x1003 0x01
abbrev saveParameters : Nat := key 0x1010 0x01
abbrev restoreDefaults : Nat := key 0x1010 0x02
abbrev jarastGeneration : Nat := key 0x1100 0x01
abbrev jarastEntryCount : Nat := key 0x1100 0x02
abbrev jarastUpdateTime : Nat := key 0x1100 0x03
abbrev jtType (s : Nat) : Nat := key (0x1101 + s) 0x01
abbrev jtVersion (s : Nat) : Nat := key (0x1101 + s) 0x02
abbrev jtAttr (s : Nat) : Nat := key (0x1101 + s) 0x03
abbrev jtInstCount (s : Nat) : Nat := key (0x1101 + s) 0x04
abbrev jtInstMax (s : Nat) : Nat := key (0x1101 + s) 0x05
abbrev jtOdBase (s : Nat) : Nat := key (0x1101 + s) 0x06
abbrev jtOdStride (s : Nat) : Nat := key (0x1101 + s) 0x07
abbrev jtBase (s : Nat) : Nat := key (0x1101 + s) 0x08
abbrev jtStride (s : Nat) : Nat := key (0x1101 + s) 0x09
abbrev jtPresentLo (s : Nat) : Nat := key (0x1101 + s) 0x0A
abbrev jtPresentHi (s : Nat) : Nat := key (0x1101 + s) 0x0B
abbrev jtTypeData (s : Nat) : Nat := key (0x1101 + s) 0x0C
abbrev evalJarastGeneration : Nat := key 0x1180 0x01
abbrev evalJarastEntryCount : Nat := key 0x1180 0x02
abbrev evalJarastUpdateTime : Nat := key 0x1180 0x03
abbrev evalJtType (s : Nat) : Nat := key (0x1181 + s) 0x01
abbrev evalJtVersion (s : Nat) : Nat := key (0x1181 + s) 0x02
abbrev evalJtAttr (s : Nat) : Nat := key (0x1181 + s) 0x03
abbrev evalJtInstCount (s : Nat) : Nat := key (0x1181 + s) 0x04
abbrev evalJtInstMax (s : Nat) : Nat := key (0x1181 + s) 0x05
abbrev evalJtOdBase (s : Nat) : Nat := key (0x1181 + s) 0x06
abbrev evalJtOdStride (s : Nat) : Nat := key (0x1181 + s) 0x07
abbrev evalJtBase (s : Nat) : Nat := key (0x1181 + s) 0x08
abbrev evalJtStride (s : Nat) : Nat := key (0x1181 + s) 0x09
abbrev evalJtPresentLo (s : Nat) : Nat := key (0x1181 + s) 0x0A
abbrev evalJtPresentHi (s : Nat) : Nat := key (0x1181 + s) 0x0B
abbrev evalJtTypeData (s : Nat) : Nat := key (0x1181 + s) 0x0C
abbrev fieldMac : Nat := key 0x1200 0x01
abbrev plcaNodeId : Nat := key 0x1200 0x02
abbrev plcaNodeCount : Nat := key 0x1200 0x03
abbrev plcaToTimer : Nat := key 0x1200 0x04
abbrev fieldAccess : Nat := key 0x1200 0x05
abbrev fieldBadVersion : Nat := key 0x1200 0x06
abbrev fieldBadType : Nat := key 0x1200 0x07
abbrev cycEnable (s : Nat) : Nat := key (0x1220 + s) 0x01
abbrev cycPeriod (s : Nat) : Nat := key (0x1220 + s) 0x02
abbrev cycDestMac (s : Nat) : Nat := key (0x1220 + s) 0x03
abbrev cycMapCount (s : Nat) : Nat := key (0x1220 + s) 0x04
abbrev cycDropped (s : Nat) : Nat := key (0x1220 + s) 0x05
abbrev cycMap (s i : Nat) : Nat := key (0x1220 + s) (0x10 + i)
abbrev timebaseNow : Nat := key 0x1400 0x01
abbrev timebaseUncertainty : Nat := key 0x1400 0x02
abbrev timebaseSource : Nat := key 0x1400 0x03
abbrev timebaseHoldoverCount : Nat := key 0x1400 0x04
abbrev epochLead : Nat := key 0x1401 0x01
abbrev epochCtx (i : Nat) : Nat := key 0x1410 (0x01 + i)
abbrev epochSwitchTime (i : Nat) : Nat := key 0x1411 (0x01 + i)
abbrev powerCap : Nat := key 0x2000 0x01
abbrev powerNow : Nat := key 0x2000 0x02
abbrev powerAvg1ms : Nat := key 0x2000 0x03
abbrev coreClockMhz : Nat := key 0x2000 0x04
abbrev coreClockFloor : Nat := key 0x2000 0x05
abbrev govLimitCause : Nat := key 0x2000 0x06
abbrev govStepsDown : Nat := key 0x2000 0x07
abbrev govLimitedNs : Nat := key 0x2000 0x08
abbrev dieTemp : Nat := key 0x2001 0x01
abbrev dieTempLimit : Nat := key 0x2001 0x02
abbrev hbmTempMax : Nat := key 0x2001 0x03
abbrev hbmTempLimit : Nat := key 0x2001 0x04
abbrev thermtripTemp : Nat := key 0x2001 0x05
abbrev clusterStaggerUs : Nat := key 0x2002 0x01
abbrev hbmStackInitMs : Nat := key 0x2002 0x02
abbrev tImageVerified : Nat := key 0x2002 0x03
abbrev tHbmDone : Nat := key 0x2002 0x04
abbrev tReady : Nat := key 0x2002 0x05
abbrev strapValue : Nat := key 0x2002 0x06
abbrev railVout (s : Nat) : Nat := key (0x2010 + s) 0x01
abbrev railIout (s : Nat) : Nat := key (0x2010 + s) 0x02
abbrev railPmbusAddr (s : Nat) : Nat := key (0x2010 + s) 0x03
abbrev railTelemetryOk (s : Nat) : Nat := key (0x2010 + s) 0x04
abbrev repairLeftOut (s : Nat) : Nat := key (0x2120 + s) 0x01
abbrev repairPending (s : Nat) : Nat := key (0x2120 + s) 0x02
abbrev coreRetire (s : Nat) : Nat := key (0x2120 + s) 0x03
abbrev coreFailed (s : Nat) : Nat := key (0x2120 + s) 0x04
abbrev mxGateIdle : Nat := key 0x2140 0x01
abbrev mxDescFaultCount : Nat := key 0x2140 0x02
abbrev mxPoisonOpCount : Nat := key 0x2140 0x03
abbrev thrExcCount : Nat := key 0x2150 0x01
abbrev thrLockLeftCount : Nat := key 0x2150 0x02
abbrev thrLaunchCount : Nat := key 0x2150 0x03
abbrev thrIcacheBytes : Nat := key 0x2150 0x04
abbrev thrFenceUnreportedCount : Nat := key 0x2150 0x05
abbrev chainLanes : Nat := key 0x2160 0x01
abbrev chainOpCount : Nat := key 0x2160 0x02
abbrev chainDescFaultCount : Nat := key 0x2160 0x03
abbrev chainPoisonOpCount : Nat := key 0x2160 0x04
abbrev evalClusters : Nat := key 0x2180 0x01
abbrev evalHbmGib : Nat := key 0x2180 0x02
abbrev evalJob : Nat := key 0x2180 0x03
abbrev evalCommit : Nat := key 0x2180 0x04
abbrev evalActiveClusters : Nat := key 0x2180 0x05
abbrev evalHbmBase : Nat := key 0x2180 0x06
abbrev scrubEnable : Nat := key 0x2201 0x01
abbrev scrubHbmHours : Nat := key 0x2201 0x02
abbrev scrubSramSeconds : Nat := key 0x2201 0x03
abbrev scrubHbmPasses : Nat := key 0x2201 0x04
abbrev scrubHbmLast : Nat := key 0x2201 0x05
abbrev ceLogLimit : Nat := key 0x2202 0x01
abbrev hbmCeCount (s : Nat) : Nat := key (0x2210 + s) 0x01
abbrev hbmUeCount (s : Nat) : Nat := key (0x2210 + s) 0x02
abbrev hbmPoisonReadCount (s : Nat) : Nat := key (0x2210 + s) 0x03
abbrev hbmLinkRetryCount (s : Nat) : Nat := key (0x2210 + s) 0x04
abbrev sramCeCount : Nat := key 0x2220 0x01
abbrev sramUeCount : Nat := key 0x2220 0x02
abbrev icacheParityCount : Nat := key 0x2220 0x03
abbrev portState (s : Nat) : Nat := key (0x2300 + s) 0x01
abbrev portWidth (s : Nat) : Nat := key (0x2300 + s) 0x02
abbrev portGroups (s : Nat) : Nat := key (0x2300 + s) 0x03
abbrev portEnable (s : Nat) : Nat := key (0x2300 + s) 0x04
abbrev peerSerial (s : Nat) : Nat := key (0x2300 + s) 0x05
abbrev peerCoord (s : Nat) : Nat := key (0x2300 + s) 0x06
abbrev peerPlanId (s : Nat) : Nat := key (0x2300 + s) 0x07
abbrev portExpectSerial (s : Nat) : Nat := key (0x2300 + s) 0x08
abbrev portFecCorrected (s : Nat) : Nat := key (0x2300 + s) 0x09
abbrev portFecUncorr (s : Nat) : Nat := key (0x2300 + s) 0x0A
abbrev portReplays (s : Nat) : Nat := key (0x2300 + s) 0x0B
abbrev portKeyMismatch (s : Nat) : Nat := key (0x2300 + s) 0x0C
abbrev meshPlanId : Nat := key 0x2310 0x01
abbrev meshSelfX : Nat := key 0x2310 0x02
abbrev meshSelfY : Nat := key 0x2310 0x03
abbrev meshPlanX : Nat := key 0x2310 0x04
abbrev meshPlanY : Nat := key 0x2310 0x05
abbrev meshDomain : Nat := key 0x2310 0x06
abbrev meshAllowDetour : Nat := key 0x2310 0x07
abbrev meshMissingCount : Nat := key 0x2310 0x08
abbrev meshMissing (i : Nat) : Nat := key 0x2310 (0x10 + i)
abbrev remoteTimeout : Nat := key 0x2320 0x01
abbrev laneSerLimit : Nat := key 0x2320 0x02
abbrev groupRecoverMs : Nat := key 0x2320 0x03
abbrev linkRetryMs : Nat := key 0x2320 0x04
abbrev vcWeightReq : Nat := key 0x2320 0x05
abbrev vcWeightResp : Nat := key 0x2320 0x06
abbrev vcWeightColl : Nat := key 0x2320 0x07
abbrev vcWeightTransit : Nat := key 0x2320 0x08
abbrev keyLogLimit : Nat := key 0x2320 0x09
abbrev keyMismatchLocal : Nat := key 0x2330 0x01
abbrev remoteTimeoutCount : Nat := key 0x2330 0x02
abbrev lateResponseCount : Nat := key 0x2330 0x03
abbrev packetsDropped : Nat := key 0x2330 0x04
abbrev detourPackets : Nat := key 0x2330 0x05
abbrev rectJob (s : Nat) : Nat := key (0x2340 + s) 0x01
abbrev rectX0 (s : Nat) : Nat := key (0x2340 + s) 0x02
abbrev rectY0 (s : Nat) : Nat := key (0x2340 + s) 0x03
abbrev rectX1 (s : Nat) : Nat := key (0x2340 + s) 0x04
abbrev rectY1 (s : Nat) : Nat := key (0x2340 + s) 0x05
abbrev meshSubstCount : Nat := key 0x2350 0x01
abbrev meshSubst (i : Nat) : Nat := key 0x2350 (0x02 + i)
abbrev fenceDelayUs : Nat := key 0x2360 0x01
abbrev fencedCoord (i : Nat) : Nat := key 0x2360 (0x02 + i)
abbrev fenceClear : Nat := key 0x2360 0x06
abbrev fenceDiscards : Nat := key 0x2360 0x07
abbrev heritageMode (i : Nat) : Nat := key 0x2500 (0x01 + i)
abbrev promoP8 (i : Nat) : Nat := key 0x2501 (0x01 + i)
abbrev promoP16 (i : Nat) : Nat := key 0x2502 (0x01 + i)
abbrev arrivalClassMask (i : Nat) : Nat := key 0x2503 (0x01 + i)
abbrev p20EscapeCount : Nat := key 0x2510 0x01
abbrev int8SatCount : Nat := key 0x2510 0x02
abbrev arrivalAddCount : Nat := key 0x2510 0x03
abbrev numSlotJob (s : Nat) : Nat := key (0x2520 + s) 0x01
abbrev srSeed (s : Nat) : Nat := key (0x2520 + s) 0x02
abbrev srStep (s : Nat) : Nat := key (0x2520 + s) 0x03
abbrev collBucketBytes : Nat := key 0x2600 0x01
abbrev collTimeout : Nat := key 0x2600 0x02
abbrev barrierTimeout : Nat := key 0x2600 0x03
abbrev collChunkElems : Nat := key 0x2600 0x04
abbrev bucketsDone : Nat := key 0x2601 0x01
abbrev bucketsAborted : Nat := key 0x2601 0x02
abbrev scaleBumpCount : Nat := key 0x2601 0x03
abbrev collDiscarded : Nat := key 0x2601 0x04
abbrev permutesDone : Nat := key 0x2601 0x05
abbrev barriersDone : Nat := key 0x2601 0x06
abbrev barriersFailed : Nat := key 0x2601 0x07
abbrev epochAdopt : Nat := key 0x2602 0x01
abbrev grpJob (s : Nat) : Nat := key (0x2610 + s) 0x01
abbrev grpX0 (s : Nat) : Nat := key (0x2610 + s) 0x02
abbrev grpY0 (s : Nat) : Nat := key (0x2610 + s) 0x03
abbrev grpNx (s : Nat) : Nat := key (0x2610 + s) 0x04
abbrev grpNy (s : Nat) : Nat := key (0x2610 + s) 0x05
abbrev grpSx (s : Nat) : Nat := key (0x2610 + s) 0x06
abbrev grpSy (s : Nat) : Nat := key (0x2610 + s) 0x07
abbrev grpShape (s : Nat) : Nat := key (0x2610 + s) 0x08
abbrev grpRank (s : Nat) : Nat := key (0x2610 + s) 0x09
abbrev grpSize (s : Nat) : Nat := key (0x2610 + s) 0x0A
abbrev slotState (s : Nat) : Nat := key (0x2620 + s) 0x01
abbrev slotBucket (s : Nat) : Nat := key (0x2620 + s) 0x02
abbrev slotGroup (s : Nat) : Nat := key (0x2620 + s) 0x03
abbrev slotChunks (s : Nat) : Nat := key (0x2620 + s) 0x04
abbrev handoffTimeout : Nat := key 0x2630 0x01
abbrev hoChunksTotal : Nat := key 0x2630 0x02
abbrev hoJob (s : Nat) : Nat := key (0x2640 + s) 0x01
abbrev hoRole (s : Nat) : Nat := key (0x2640 + s) 0x02
abbrev hoPeerCoord (s : Nat) : Nat := key (0x2640 + s) 0x03
abbrev hoPeerChannel (s : Nat) : Nat := key (0x2640 + s) 0x04
abbrev hoChunkBytes (s : Nat) : Nat := key (0x2640 + s) 0x05
abbrev hoRingChunks (s : Nat) : Nat := key (0x2640 + s) 0x06
abbrev hoRingAddr (s : Nat) : Nat := key (0x2640 + s) 0x07
abbrev hoCtrlAddr (s : Nat) : Nat := key (0x2640 + s) 0x08
abbrev hoPeerCtrl (s : Nat) : Nat := key (0x2640 + s) 0x09
abbrev hoKeyref (s : Nat) : Nat := key (0x2640 + s) 0x0A
abbrev hoState (s : Nat) : Nat := key (0x2640 + s) 0x0B
abbrev hoChunks (s : Nat) : Nat := key (0x2640 + s) 0x0C
abbrev hoCreditStallNs (s : Nat) : Nat := key (0x2640 + s) 0x0D
abbrev poolBase (s : Nat) : Nat := key (0x2660 + s) 0x01
abbrev poolBytes (s : Nat) : Nat := key (0x2660 + s) 0x02
abbrev poolUsedBytes (s : Nat) : Nat := key (0x2660 + s) 0x03
abbrev poolHits (s : Nat) : Nat := key (0x2660 + s) 0x04
abbrev poolMisses (s : Nat) : Nat := key (0x2660 + s) 0x05
abbrev poolEvictions (s : Nat) : Nat := key (0x2660 + s) 0x06
abbrev poolBlocked (s : Nat) : Nat := key (0x2660 + s) 0x07
abbrev ruleCoef (s i : Nat) : Nat := key (0x2700 + s) (1 + i)
abbrev ruleWfmt (s : Nat) : Nat := key (0x2700 + s) 0x11
abbrev ruleSfmt (s : Nat) : Nat := key (0x2700 + s) 0x12
abbrev ruleCcw (s : Nat) : Nat := key (0x2700 + s) 0x13
abbrev rulePrecond (s : Nat) : Nat := key (0x2700 + s) 0x14
abbrev ruleRootP (s : Nat) : Nat := key (0x2700 + s) 0x15
abbrev rulePrecondT (s : Nat) : Nat := key (0x2700 + s) 0x16
abbrev rulePrecondEps (s : Nat) : Nat := key (0x2700 + s) 0x17
abbrev ruleNewtonIters (s : Nat) : Nat := key (0x2700 + s) 0x18
abbrev ruleActiveCoef (s i : Nat) : Nat := key (0x2740 + s) (1 + i)
abbrev ruleActiveWfmt (s : Nat) : Nat := key (0x2740 + s) 0x11
abbrev ruleActiveSfmt (s : Nat) : Nat := key (0x2740 + s) 0x12
abbrev ruleActiveCcw (s : Nat) : Nat := key (0x2740 + s) 0x13
abbrev ruleActivePrecond (s : Nat) : Nat := key (0x2740 + s) 0x14
abbrev ruleActiveRootP (s : Nat) : Nat := key (0x2740 + s) 0x15
abbrev ruleActivePrecondT (s : Nat) : Nat := key (0x2740 + s) 0x16
abbrev ruleActivePrecondEps (s : Nat) : Nat := key (0x2740 + s) 0x17
abbrev ruleActiveNewtonIters (s : Nat) : Nat := key (0x2740 + s) 0x18
abbrev ruleSwitchCtx : Nat := key 0x2780 0x01
abbrev ruleSwitchEpoch : Nat := key 0x2780 0x02
abbrev ruleSwitchArmed : Nat := key 0x2780 0x03
abbrev ruleCommitNow : Nat := key 0x2780 0x04
abbrev ruleBankTime : Nat := key 0x2780 0x05
abbrev updElems : Nat := key 0x2781 0x01
abbrev updSkipCount : Nat := key 0x2781 0x02
abbrev updFrozenElems : Nat := key 0x2781 0x03
abbrev updNonfiniteElems : Nat := key 0x2781 0x04
abbrev updPoisonElems : Nat := key 0x2781 0x05
abbrev rootRecomputes : Nat := key 0x2781 0x06
abbrev rootFails : Nat := key 0x2781 0x07
abbrev nfClass (i : Nat) : Nat := key 0x2800 (0x01 + i)
abbrev ledgerWarmup : Nat := key 0x2810 0x01
abbrev ledgerDepth : Nat := key 0x2810 0x02
abbrev ledgerMargin : Nat := key 0x2810 0x03
abbrev ledgerRolls : Nat := key 0x2811 0x01
abbrev ledgerNonfiniteCount : Nat := key 0x2811 0x02
abbrev ledgerMirrorFailCount : Nat := key 0x2811 0x03
abbrev snapshotsDone : Nat := key 0x2811 0x04
abbrev nfStepFlag (s : Nat) : Nat := key (0x2820 + s) 0x01
abbrev gradClassMask (s : Nat) : Nat := key (0x2820 + s) 0x02
abbrev jobArithFlags (s : Nat) : Nat := key (0x2820 + s) 0x03
abbrev ledgerBase (s : Nat) : Nat := key (0x2820 + s) 0x04
abbrev ledgerCount (s : Nat) : Nat := key (0x2820 + s) 0x05
abbrev ledgerMirrorAddr (s : Nat) : Nat := key (0x2820 + s) 0x06
abbrev ledgerMirrorRef (s : Nat) : Nat := key (0x2820 + s) 0x07
abbrev ledgerAttach (s : Nat) : Nat := key (0x2820 + s) 0x08
abbrev ledgerAttached (s : Nat) : Nat := key (0x2820 + s) 0x09
abbrev lossMode (s : Nat) : Nat := key (0x2820 + s) 0x0A
abbrev lossAddr (s : Nat) : Nat := key (0x2820 + s) 0x0B
abbrev lossValue (s : Nat) : Nat := key (0x2820 + s) 0x0C
abbrev lossAlpha (s : Nat) : Nat := key (0x2820 + s) 0x0D
abbrev lossZLimit (s : Nat) : Nat := key (0x2820 + s) 0x0E
abbrev lossWarmup (s : Nat) : Nat := key (0x2820 + s) 0x0F
abbrev lossVarFloor (s : Nat) : Nat := key (0x2820 + s) 0x10
abbrev lossSpikeUpdate (s : Nat) : Nat := key (0x2820 + s) 0x11
abbrev lossSpikeAction (s : Nat) : Nat := key (0x2820 + s) 0x12
abbrev lossMean (s : Nat) : Nat := key (0x2820 + s) 0x13
abbrev lossVar (s : Nat) : Nat := key (0x2820 + s) 0x14
abbrev lossCount (s : Nat) : Nat := key (0x2820 + s) 0x15
abbrev lossSpikeCount (s : Nat) : Nat := key (0x2820 + s) 0x16
abbrev rootKeyDigest : Nat := key 0x2900 0x01
abbrev identityState : Nat := key 0x2900 0x02
abbrev identityPubkey : Nat := key 0x2900 0x03
abbrev imageSlot : Nat := key 0x2900 0x04
abbrev imageSeq : Nat := key 0x2900 0x05
abbrev configSeq : Nat := key 0x2900 0x06
abbrev fwUpdate : Nat := key 0x2901 0x01
abbrev configUpdate : Nat := key 0x2901 0x02
abbrev flashBusy : Nat := key 0x2901 0x03
abbrev debugChallenge : Nat := key 0x2902 0x01
abbrev debugUnlock : Nat := key 0x2902 0x02
abbrev debugLevel : Nat := key 0x2902 0x03
abbrev debugRelock : Nat := key 0x2902 0x04
abbrev quoteNonce : Nat := key 0x2903 0x01
abbrev quote : Nat := key 0x2903 0x02
abbrev alarmPolicy (i : Nat) : Nat := key 0x2910 (1 + i)
abbrev sigFailLimit : Nat := key 0x2910 0x06
abbrev fwFloor : Nat := key 0x2910 0x07
abbrev alarmCount (i : Nat) : Nat := key 0x2911 (0x01 + i)
abbrev tallyEnable : Nat := key 0x3000 0x01
abbrev tallyPeriodNs : Nat := key 0x3000 0x02
abbrev tallyRingBase : Nat := key 0x3000 0x03
abbrev tallyRingRecords : Nat := key 0x3000 0x04
abbrev tallyRingCtrl : Nat := key 0x3000 0x05
abbrev tallyDumps : Nat := key 0x3000 0x06
abbrev tallySkipped : Nat := key 0x3000 0x07
abbrev tallyNext : Nat := key 0x3000 0x08
abbrev countFreeze : Nat := key 0x3001 0x01
abbrev countClear : Nat := key 0x3001 0x02
abbrev countSwitchTime : Nat := key 0x3001 0x03
abbrev winBase (s : Nat) : Nat := key (0x3010 + s) 0x01
abbrev winLimit (s : Nat) : Nat := key (0x3010 + s) 0x02
abbrev coreCycles (s : Nat) : Nat := key (0x3100 + s) 0x01
abbrev corePmc (s i : Nat) : Nat := key (0x3100 + s) (0x02 + i)
abbrev corePsel (s i : Nat) : Nat := key (0x3100 + s) (0x0A + i)
abbrev corePctl (s : Nat) : Nat := key (0x3100 + s) 0x12
abbrev netPmc (s i : Nat) : Nat := key (0x3200 + s) (0x02 + i)
abbrev netPsel (s i : Nat) : Nat := key (0x3200 + s) (0x0A + i)
abbrev netPctl (s : Nat) : Nat := key (0x3200 + s) 0x12
abbrev stackPmc (s i : Nat) : Nat := key (0x3210 + s) (0x02 + i)
abbrev stackPsel (s i : Nat) : Nat := key (0x3210 + s) (0x0A + i)
abbrev stackPctl (s : Nat) : Nat := key (0x3210 + s) 0x12
abbrev portcPmc (s i : Nat) : Nat := key (0x3220 + s) (0x02 + i)
abbrev portcPsel (s i : Nat) : Nat := key (0x3220 + s) (0x0A + i)
abbrev portcPctl (s : Nat) : Nat := key (0x3220 + s) 0x12
abbrev logRingBase : Nat := key 0x4000 0x01
abbrev logRingEntries : Nat := key 0x4000 0x02
abbrev logRingCtrl : Nat := key 0x4000 0x03
abbrev logFullPolicy : Nat := key 0x4000 0x04
abbrev logRecords : Nat := key 0x4000 0x05
abbrev logDropped : Nat := key 0x4000 0x06
abbrev logLate : Nat := key 0x4000 0x07
abbrev logHoldNs : Nat := key 0x4000 0x08
abbrev logOndie : Nat := key 0x4010 0x00
abbrev selftestPolicy : Nat := key 0x5000 0x01
abbrev selftestWaitMs : Nat := key 0x5000 0x02
abbrev selftestRequest : Nat := key 0x5000 0x03
abbrev selftestState : Nat := key 0x5000 0x04
abbrev selftestResult : Nat := key 0x5000 0x05
abbrev selftestDetail : Nat := key 0x5000 0x06
abbrev selftestTime : Nat := key 0x5000 0x07
abbrev jobOpen : Nat := key 0x6001 0x01
abbrev jobClose : Nat := key 0x6001 0x02
abbrev abortTarget : Nat := key 0x6010 0x01
abbrev regionWrite : Nat := key 0x6020 0x01
abbrev regionTable : Nat := key 0x6020 0x02
abbrev regionValidCount : Nat := key 0x6020 0x03
abbrev ringEnable (s : Nat) : Nat := key (0x6100 + s) 0x01
abbrev ringBase (s : Nat) : Nat := key (0x6100 + s) 0x02
abbrev ringEntries (s : Nat) : Nat := key (0x6100 + s) 0x03
abbrev ringCtrl (s : Nat) : Nat := key (0x6100 + s) 0x04
abbrev ringPriority (s : Nat) : Nat := key (0x6100 + s) 0x05
abbrev ringJob (s : Nat) : Nat := key (0x6100 + s) 0x06
abbrev ringCq (s : Nat) : Nat := key (0x6100 + s) 0x07
abbrev ringState (s : Nat) : Nat := key (0x6100 + s) 0x08
abbrev cqEnable (s : Nat) : Nat := key (0x6200 + s) 0x01
abbrev cqBase (s : Nat) : Nat := key (0x6200 + s) 0x02
abbrev cqEntries (s : Nat) : Nat := key (0x6200 + s) 0x03
abbrev cqCtrl (s : Nat) : Nat := key (0x6200 + s) 0x04

end Sys2Proof.Machine.Od
end

