-- ==== Sys2Proof/Machine/OdTable.lean ====
section
/-!
DEFINITION. The entries of the object dictionary (R36 to R40): for each the type, the access right, the default, whether
it is a saved entry, and the values that its own listing accepts. The rows are the entry tables of R32, R76, R104, R130,
R171, R202, R221, R241, R280, R313, R339, R363, R379, R401, R424, R446 and R462, in index order. What a write does
beside storing its value is in the families' files.
-/

namespace Sys2Proof.Machine

/-- Entry types (R37). -/
inductive OdType where
  | bool | u8 | u16 | u32 | u64 | f32 | str | domain | time | keyref
  deriving DecidableEq, Repr

/-- Access rights (R38). -/
inductive OdAccess where
  | ro | rw | wo | rws | const
  deriving DecidableEq, Repr

/-- What a listing accepts as a value. -/
inductive OdCheck where
  | any
  | range (lo hi : Nat)
  /-- a power of two in the range -/
  | pow2 (lo hi : Nat)
  /-- a multiple of `n` -/
  | align (n : Nat)
  /-- in the range, and a multiple of `by_` -/
  | step (lo hi by_ : Nat)
  /-- bits from `n` up are reserved: they are ignored (R8, R37) -/
  | mask (n : Nat)
  | fFin
  | fNonneg
  | fPos
  /-- above 0, or +∞ -/
  | fPosInf
  /-- above 0 and below 1 -/
  | fUnit
  | fRange (lo hi : Nat)
  /-- these patterns, and -0 for 0 -/
  | fOneOf (l : List Nat)
  /-- a conversion control word whose RMODE is not 0b11 -/
  | ccw
  deriving DecidableEq, Repr

/-- Entries of one kind at consecutive subindices. -/
structure OdRow where
  sub : Nat
  count : Nat
  ty : OdType
  access : OdAccess
  dflt : Nat
  saved : Bool
  check : OdCheck
  deriving DecidableEq, Repr

/-- Consecutive indices that share one set of entries. -/
structure OdGroup where
  base : Nat
  count : Nat
  rows : List OdRow
  deriving DecidableEq, Repr

/-- Type codes (R37). -/
def OdType.code : OdType → BitVec 8
  | .bool => 0x01 | .u8 => 0x02 | .u16 => 0x03 | .u32 => 0x04 | .u64 => 0x05 | .f32 => 0x08 | .str => 0x09
  | .domain => 0x0A | .time => 0x0B | .keyref => 0x0C

/-- Bytes of a numeric type; 0 for STR and DOMAIN (R37). -/
def OdType.size : OdType → Nat
  | .bool | .u8 => 1
  | .u16 => 2
  | .u32 | .f32 | .keyref => 4
  | .u64 | .time => 8
  | .str | .domain => 0

def OdType.numeric (t : OdType) : Bool := t ≠ .str ∧ t ≠ .domain

def od1000 : OdGroup := ⟨0x1000, 1, [
  ⟨0x00, 1, .u8, .const, 7, false, .any⟩, -- highest subindex (R36)
  ⟨0x01, 1, .str, .const, 0, false, .any⟩, -- VENDOR_NAME (R76)
  ⟨0x02, 1, .str, .const, 0, false, .any⟩, -- PRODUCT_NAME (R76)
  ⟨0x03, 1, .str, .const, 0, false, .any⟩, -- PART_NUMBER (R76)
  ⟨0x04, 1, .u8, .const, 0xA, false, .any⟩, -- STEPPING (R76)
  ⟨0x05, 1, .u64, .const, 0, false, .any⟩, -- SERIAL_NUMBER (R76)
  ⟨0x06, 1, .u32, .ro, 0, false, .any⟩, -- FIRMWARE_VERSION (R76)
  ⟨0x07, 1, .u32, .const, 0, false, .any⟩ -- ROM_VERSION (R76)
  ]⟩

def od1001 : OdGroup := ⟨0x1001, 1, [
  ⟨0x00, 1, .u8, .const, 3, false, .any⟩, -- highest subindex (R36)
  ⟨0x01, 1, .u8, .ro, 0, false, .any⟩, -- DEVICE_STATE (R76)
  ⟨0x02, 1, .u32, .ro, 0, false, .any⟩, -- STATE_CAUSE (R76)
  ⟨0x03, 1, .time, .ro, 0, false, .any⟩ -- STATE_TIME (R76)
  ]⟩

def od1002 : OdGroup := ⟨0x1002, 1, [
  ⟨0x00, 1, .u8, .const, 1, false, .any⟩, -- highest subindex (R36)
  ⟨0x01, 1, .u8, .wo, 0, false, .any⟩ -- DEVICE_COMMAND (R76)
  ]⟩

def od1003 : OdGroup := ⟨0x1003, 1, [
  ⟨0x00, 1, .u8, .const, 1, false, .any⟩, -- highest subindex (R36)
  ⟨0x01, 1, .u32, .rw, 0x2710, false, .range 100 600000⟩ -- DRAIN_TIMEOUT (R76)
  ]⟩

def od1010 : OdGroup := ⟨0x1010, 1, [
  ⟨0x00, 1, .u8, .const, 2, false, .any⟩, -- highest subindex (R36)
  ⟨0x01, 1, .u8, .wo, 0, false, .any⟩, -- SAVE_PARAMETERS (R76)
  ⟨0x02, 1, .u8, .wo, 0, false, .any⟩ -- RESTORE_DEFAULTS (R76)
  ]⟩

def od1100 : OdGroup := ⟨0x1100, 1, [
  ⟨0x00, 1, .u8, .const, 3, false, .any⟩, -- highest subindex (R36)
  ⟨0x01, 1, .u64, .ro, 0, false, .any⟩, -- JARAST_GENERATION (R76)
  ⟨0x02, 1, .u16, .ro, 0, false, .any⟩, -- JARAST_ENTRY_COUNT (R76)
  ⟨0x03, 1, .time, .ro, 0, false, .any⟩ -- JARAST_UPDATE_TIME (R76)
  ]⟩

def od1101 : OdGroup := ⟨0x1101, 21, [
  ⟨0x00, 1, .u8, .const, 0xC, false, .any⟩, -- highest subindex (R36)
  ⟨0x01, 1, .u8, .ro, 0, false, .any⟩, -- JT_TYPE (R76)
  ⟨0x02, 1, .u16, .ro, 0, false, .any⟩, -- JT_VERSION (R76)
  ⟨0x03, 1, .u8, .ro, 0, false, .any⟩, -- JT_ATTR (R76)
  ⟨0x04, 1, .u16, .ro, 0, false, .any⟩, -- JT_INST_COUNT (R76)
  ⟨0x05, 1, .u16, .ro, 0, false, .any⟩, -- JT_INST_MAX (R76)
  ⟨0x06, 1, .u16, .ro, 0, false, .any⟩, -- JT_OD_BASE (R76)
  ⟨0x07, 1, .u16, .ro, 0, false, .any⟩, -- JT_OD_STRIDE (R76)
  ⟨0x08, 1, .u64, .ro, 0, false, .any⟩, -- JT_BASE (R76)
  ⟨0x09, 1, .u64, .ro, 0, false, .any⟩, -- JT_STRIDE (R76)
  ⟨0x0A, 1, .u64, .ro, 0, false, .any⟩, -- JT_PRESENT_LO (R76)
  ⟨0x0B, 1, .u64, .ro, 0, false, .any⟩, -- JT_PRESENT_HI (R76)
  ⟨0x0C, 1, .domain, .ro, 0, false, .any⟩ -- JT_TYPE_DATA (R76)
  ]⟩

def od1180 : OdGroup := ⟨0x1180, 1, [
  ⟨0x00, 1, .u8, .const, 3, false, .any⟩, -- highest subindex (R36)
  ⟨0x01, 1, .u64, .ro, 0, false, .any⟩, -- EVAL_JARAST_GENERATION (R76)
  ⟨0x02, 1, .u16, .ro, 0, false, .any⟩, -- EVAL_JARAST_ENTRY_COUNT (R76)
  ⟨0x03, 1, .time, .ro, 0, false, .any⟩ -- EVAL_JARAST_UPDATE_TIME (R76)
  ]⟩

def od1181 : OdGroup := ⟨0x1181, 21, [
  ⟨0x00, 1, .u8, .const, 0xC, false, .any⟩, -- highest subindex (R36)
  ⟨0x01, 1, .u8, .ro, 0, false, .any⟩, -- EVAL_JT_TYPE (R76)
  ⟨0x02, 1, .u16, .ro, 0, false, .any⟩, -- EVAL_JT_VERSION (R76)
  ⟨0x03, 1, .u8, .ro, 0, false, .any⟩, -- EVAL_JT_ATTR (R76)
  ⟨0x04, 1, .u16, .ro, 0, false, .any⟩, -- EVAL_JT_INST_COUNT (R76)
  ⟨0x05, 1, .u16, .ro, 0, false, .any⟩, -- EVAL_JT_INST_MAX (R76)
  ⟨0x06, 1, .u16, .ro, 0, false, .any⟩, -- EVAL_JT_OD_BASE (R76)
  ⟨0x07, 1, .u16, .ro, 0, false, .any⟩, -- EVAL_JT_OD_STRIDE (R76)
  ⟨0x08, 1, .u64, .ro, 0, false, .any⟩, -- EVAL_JT_BASE (R76)
  ⟨0x09, 1, .u64, .ro, 0, false, .any⟩, -- EVAL_JT_STRIDE (R76)
  ⟨0x0A, 1, .u64, .ro, 0, false, .any⟩, -- EVAL_JT_PRESENT_LO (R76)
  ⟨0x0B, 1, .u64, .ro, 0, false, .any⟩, -- EVAL_JT_PRESENT_HI (R76)
  ⟨0x0C, 1, .domain, .ro, 0, false, .any⟩ -- EVAL_JT_TYPE_DATA (R76)
  ]⟩

def od1200 : OdGroup := ⟨0x1200, 1, [
  ⟨0x00, 1, .u8, .const, 7, false, .any⟩, -- highest subindex (R36)
  ⟨0x01, 1, .u64, .ro, 0, false, .any⟩, -- FIELD_MAC (R76)
  ⟨0x02, 1, .u8, .rws, 0, true, .range 0 31⟩, -- PLCA_NODE_ID (R76)
  ⟨0x03, 1, .u8, .rws, 8, true, .range 0 32⟩, -- PLCA_NODE_COUNT (R76)
  ⟨0x04, 1, .u8, .rws, 0x20, true, .range 1 255⟩, -- PLCA_TO_TIMER (R76)
  ⟨0x05, 1, .u8, .rw, 0, true, .range 0 1⟩, -- FIELD_ACCESS (R76)
  ⟨0x06, 1, .u64, .ro, 0, false, .any⟩, -- FIELD_BAD_VERSION (R76)
  ⟨0x07, 1, .u64, .ro, 0, false, .any⟩ -- FIELD_BAD_TYPE (R76)
  ]⟩

def od1220 : OdGroup := ⟨0x1220, 8, [
  ⟨0x00, 1, .u8, .const, 0x2F, false, .any⟩, -- highest subindex (R36)
  ⟨0x01, 1, .bool, .rw, 0, false, .any⟩, -- CYC_ENABLE (R76)
  ⟨0x02, 1, .u16, .rw, 0x64, false, .range 1 1000⟩, -- CYC_PERIOD (R76)
  ⟨0x03, 1, .u64, .rw, 0xFFFFFFFFFFFF, false, .mask 48⟩, -- CYC_DEST_MAC (R76)
  ⟨0x04, 1, .u8, .rw, 0, false, .range 0 32⟩, -- CYC_MAP_COUNT (R76)
  ⟨0x05, 1, .u32, .ro, 0, false, .any⟩, -- CYC_DROPPED (R76)
  ⟨0x10, 32, .u32, .rw, 0, false, .any⟩ -- CYC_MAP (R76)
  ]⟩

def od1400 : OdGroup := ⟨0x1400, 1, [
  ⟨0x00, 1, .u8, .const, 4, false, .any⟩, -- highest subindex (R36)
  ⟨0x01, 1, .time, .ro, 0, false, .any⟩, -- TIMEBASE_NOW (R32)
  ⟨0x02, 1, .u8, .const, 2, false, .any⟩, -- TIMEBASE_UNCERTAINTY (R32)
  ⟨0x03, 1, .u8, .ro, 0, false, .any⟩, -- TIMEBASE_SOURCE (R32)
  ⟨0x04, 1, .u32, .ro, 0, false, .any⟩ -- TIMEBASE_HOLDOVER_COUNT (R32)
  ]⟩

def od1401 : OdGroup := ⟨0x1401, 1, [
  ⟨0x00, 1, .u8, .const, 1, false, .any⟩, -- highest subindex (R36)
  ⟨0x01, 1, .u16, .const, 0x40, false, .any⟩ -- EPOCH_LEAD (R32)
  ]⟩

def od1410 : OdGroup := ⟨0x1410, 1, [
  ⟨0x00, 1, .u8, .const, 0x10, false, .any⟩, -- highest subindex (R36)
  ⟨0x01, 16, .u32, .ro, 0, false, .any⟩ -- EPOCH_CTX (R32)
  ]⟩

def od1411 : OdGroup := ⟨0x1411, 1, [
  ⟨0x00, 1, .u8, .const, 0x10, false, .any⟩, -- highest subindex (R36)
  ⟨0x01, 16, .time, .ro, 0, false, .any⟩ -- EPOCH_SWITCH_TIME (R32)
  ]⟩

def od2000 : OdGroup := ⟨0x2000, 1, [
  ⟨0x00, 1, .u8, .const, 8, false, .any⟩, -- PWR_SUBS (R424)
  ⟨0x01, 1, .u16, .rw, 0x44C, true, .step 550 1100 25⟩, -- POWER_CAP (R424)
  ⟨0x02, 1, .f32, .ro, 0, false, .any⟩, -- POWER_NOW (R424)
  ⟨0x03, 1, .f32, .ro, 0, false, .any⟩, -- POWER_AVG_1MS (R424)
  ⟨0x04, 1, .u16, .ro, 0x8CA, false, .any⟩, -- CORE_CLOCK_MHZ (R424)
  ⟨0x05, 1, .u16, .const, 0x190, false, .any⟩, -- CORE_CLOCK_FLOOR (R424)
  ⟨0x06, 1, .u8, .ro, 0, false, .any⟩, -- GOV_LIMIT_CAUSE (R424)
  ⟨0x07, 1, .u64, .ro, 0, false, .any⟩, -- GOV_STEPS_DOWN (R424)
  ⟨0x08, 1, .u64, .ro, 0, false, .any⟩ -- GOV_LIMITED_NS (R424)
  ]⟩

def od2001 : OdGroup := ⟨0x2001, 1, [
  ⟨0x00, 1, .u8, .const, 5, false, .any⟩, -- THERM_SUBS (R424)
  ⟨0x01, 1, .f32, .ro, 0, false, .any⟩, -- DIE_TEMP (R424)
  ⟨0x02, 1, .f32, .rw, 0x42D20000, true, .fRange 0x42aa0000 0x42dc0000⟩, -- DIE_TEMP_LIMIT (R424)
  ⟨0x03, 1, .f32, .ro, 0, false, .any⟩, -- HBM_TEMP_MAX (R424)
  ⟨0x04, 1, .f32, .rw, 0x42BE0000, true, .fRange 0x42a00000 0x42be0000⟩, -- HBM_TEMP_LIMIT (R424)
  ⟨0x05, 1, .f32, .const, 0x42F00000, false, .any⟩ -- THERMTRIP_TEMP (R424)
  ]⟩

def od2002 : OdGroup := ⟨0x2002, 1, [
  ⟨0x00, 1, .u8, .const, 6, false, .any⟩, -- START_SUBS (R424)
  ⟨0x01, 1, .u16, .const, 0x28, false, .any⟩, -- CLUSTER_STAGGER_US (R424)
  ⟨0x02, 1, .u8, .const, 6, false, .any⟩, -- HBM_STACK_INIT_MS (R424)
  ⟨0x03, 1, .time, .ro, 0, false, .any⟩, -- T_IMAGE_VERIFIED (R424)
  ⟨0x04, 1, .time, .ro, 0, false, .any⟩, -- T_HBM_DONE (R424)
  ⟨0x05, 1, .time, .ro, 0, false, .any⟩, -- T_READY (R424)
  ⟨0x06, 1, .u32, .ro, 0, false, .any⟩ -- STRAP_VALUE (R424)
  ]⟩

def od2010 : OdGroup := ⟨0x2010, 1, [
  ⟨0x00, 1, .u8, .const, 4, false, .any⟩, -- RAIL_SUBS (R424)
  ⟨0x01, 1, .f32, .ro, 0, false, .any⟩, -- RAIL_VOUT (R424)
  ⟨0x02, 1, .f32, .ro, 0, false, .any⟩, -- RAIL_IOUT (R424)
  ⟨0x03, 1, .u8, .rw, 0x40, true, .range 0 127⟩, -- RAIL_PMBUS_ADDR (R424)
  ⟨0x04, 1, .bool, .ro, 0, false, .any⟩ -- RAIL_TELEMETRY_OK (R424)
  ]⟩

def od2011 : OdGroup := ⟨0x2011, 1, [
  ⟨0x00, 1, .u8, .const, 4, false, .any⟩, -- RAIL_SUBS (R424)
  ⟨0x01, 1, .f32, .ro, 0, false, .any⟩, -- RAIL_VOUT (R424)
  ⟨0x02, 1, .f32, .ro, 0, false, .any⟩, -- RAIL_IOUT (R424)
  ⟨0x03, 1, .u8, .rw, 0x41, true, .range 0 127⟩, -- RAIL_PMBUS_ADDR (R424)
  ⟨0x04, 1, .bool, .ro, 0, false, .any⟩ -- RAIL_TELEMETRY_OK (R424)
  ]⟩

def od2012 : OdGroup := ⟨0x2012, 1, [
  ⟨0x00, 1, .u8, .const, 4, false, .any⟩, -- RAIL_SUBS (R424)
  ⟨0x01, 1, .f32, .ro, 0, false, .any⟩, -- RAIL_VOUT (R424)
  ⟨0x02, 1, .f32, .ro, 0, false, .any⟩, -- RAIL_IOUT (R424)
  ⟨0x03, 1, .u8, .rw, 0x42, true, .range 0 127⟩, -- RAIL_PMBUS_ADDR (R424)
  ⟨0x04, 1, .bool, .ro, 0, false, .any⟩ -- RAIL_TELEMETRY_OK (R424)
  ]⟩

def od2013 : OdGroup := ⟨0x2013, 1, [
  ⟨0x00, 1, .u8, .const, 4, false, .any⟩, -- RAIL_SUBS (R424)
  ⟨0x01, 1, .f32, .ro, 0, false, .any⟩, -- RAIL_VOUT (R424)
  ⟨0x02, 1, .f32, .ro, 0, false, .any⟩, -- RAIL_IOUT (R424)
  ⟨0x03, 1, .u8, .rw, 0x43, true, .range 0 127⟩, -- RAIL_PMBUS_ADDR (R424)
  ⟨0x04, 1, .bool, .ro, 0, false, .any⟩ -- RAIL_TELEMETRY_OK (R424)
  ]⟩

def od2014 : OdGroup := ⟨0x2014, 1, [
  ⟨0x00, 1, .u8, .const, 4, false, .any⟩, -- RAIL_SUBS (R424)
  ⟨0x01, 1, .f32, .ro, 0, false, .any⟩, -- RAIL_VOUT (R424)
  ⟨0x02, 1, .f32, .ro, 0, false, .any⟩, -- RAIL_IOUT (R424)
  ⟨0x03, 1, .u8, .rw, 0x44, true, .range 0 127⟩, -- RAIL_PMBUS_ADDR (R424)
  ⟨0x04, 1, .bool, .ro, 0, false, .any⟩ -- RAIL_TELEMETRY_OK (R424)
  ]⟩

def od2015 : OdGroup := ⟨0x2015, 1, [
  ⟨0x00, 1, .u8, .const, 4, false, .any⟩, -- RAIL_SUBS (R424)
  ⟨0x01, 1, .f32, .ro, 0, false, .any⟩, -- RAIL_VOUT (R424)
  ⟨0x02, 1, .f32, .ro, 0, false, .any⟩, -- RAIL_IOUT (R424)
  ⟨0x03, 1, .u8, .rw, 0x45, true, .range 0 127⟩, -- RAIL_PMBUS_ADDR (R424)
  ⟨0x04, 1, .bool, .ro, 0, false, .any⟩ -- RAIL_TELEMETRY_OK (R424)
  ]⟩

def od2016 : OdGroup := ⟨0x2016, 1, [
  ⟨0x00, 1, .u8, .const, 4, false, .any⟩, -- RAIL_SUBS (R424)
  ⟨0x01, 1, .f32, .ro, 0, false, .any⟩, -- RAIL_VOUT (R424)
  ⟨0x02, 1, .f32, .ro, 0, false, .any⟩, -- RAIL_IOUT (R424)
  ⟨0x03, 1, .u8, .rw, 0x46, true, .range 0 127⟩, -- RAIL_PMBUS_ADDR (R424)
  ⟨0x04, 1, .bool, .ro, 0, false, .any⟩ -- RAIL_TELEMETRY_OK (R424)
  ]⟩

def od2017 : OdGroup := ⟨0x2017, 1, [
  ⟨0x00, 1, .u8, .const, 4, false, .any⟩, -- RAIL_SUBS (R424)
  ⟨0x01, 1, .f32, .ro, 0, false, .any⟩, -- RAIL_VOUT (R424)
  ⟨0x02, 1, .f32, .ro, 0, false, .any⟩, -- RAIL_IOUT (R424)
  ⟨0x03, 1, .u8, .rw, 0x47, true, .range 0 127⟩, -- RAIL_PMBUS_ADDR (R424)
  ⟨0x04, 1, .bool, .ro, 0, false, .any⟩ -- RAIL_TELEMETRY_OK (R424)
  ]⟩

def od2018 : OdGroup := ⟨0x2018, 1, [
  ⟨0x00, 1, .u8, .const, 4, false, .any⟩, -- RAIL_SUBS (R424)
  ⟨0x01, 1, .f32, .ro, 0, false, .any⟩, -- RAIL_VOUT (R424)
  ⟨0x02, 1, .f32, .ro, 0, false, .any⟩, -- RAIL_IOUT (R424)
  ⟨0x03, 1, .u8, .rw, 0x48, true, .range 0 127⟩, -- RAIL_PMBUS_ADDR (R424)
  ⟨0x04, 1, .bool, .ro, 0, false, .any⟩ -- RAIL_TELEMETRY_OK (R424)
  ]⟩

def od2120 : OdGroup := ⟨0x2120, 8, [
  ⟨0x00, 1, .u8, .const, 4, false, .any⟩, -- REPAIR_SUBS (R401)
  ⟨0x01, 1, .u32, .ro, 0x10000, false, .any⟩, -- REPAIR_LEFT_OUT (R401)
  ⟨0x02, 1, .u32, .ro, 0, false, .any⟩, -- REPAIR_PENDING (R401)
  ⟨0x03, 1, .u8, .wo, 0, false, .any⟩, -- CORE_RETIRE (R401)
  ⟨0x04, 1, .u16, .ro, 0, false, .any⟩ -- CORE_FAILED (R401)
  ]⟩

def od2140 : OdGroup := ⟨0x2140, 1, [
  ⟨0x00, 1, .u8, .const, 3, false, .any⟩, -- MX_SUBS (R171)
  ⟨0x01, 1, .u32, .rw, 0x1000, false, .range 256 65536⟩, -- MX_GATE_IDLE (R171)
  ⟨0x02, 1, .u64, .ro, 0, false, .any⟩, -- MX_DESC_FAULT_COUNT (R171)
  ⟨0x03, 1, .u64, .ro, 0, false, .any⟩ -- MX_POISON_OP_COUNT (R171)
  ]⟩

def od2150 : OdGroup := ⟨0x2150, 1, [
  ⟨0x00, 1, .u8, .const, 5, false, .any⟩, -- THR_SUBS (R202)
  ⟨0x01, 1, .u64, .ro, 0, false, .any⟩, -- THR_EXC_COUNT (R202)
  ⟨0x02, 1, .u64, .ro, 0, false, .any⟩, -- THR_LOCK_LEFT_COUNT (R202)
  ⟨0x03, 1, .u64, .ro, 0, false, .any⟩, -- THR_LAUNCH_COUNT (R202)
  ⟨0x04, 1, .u32, .const, 0x8000, false, .any⟩, -- THR_ICACHE_BYTES (R202)
  ⟨0x05, 1, .u64, .ro, 0, false, .any⟩ -- THR_FENCE_UNREPORTED_COUNT (R202)
  ]⟩

def od2160 : OdGroup := ⟨0x2160, 1, [
  ⟨0x00, 1, .u8, .const, 4, false, .any⟩, -- CHAIN_SUBS (R221)
  ⟨0x01, 1, .u16, .const, 0x80, false, .any⟩, -- CHAIN_LANES (R221)
  ⟨0x02, 1, .u64, .ro, 0, false, .any⟩, -- CHAIN_OP_COUNT (R221)
  ⟨0x03, 1, .u64, .ro, 0, false, .any⟩, -- CHAIN_DESC_FAULT_COUNT (R221)
  ⟨0x04, 1, .u64, .ro, 0, false, .any⟩ -- CHAIN_POISON_OP_COUNT (R221)
  ]⟩

def od2180 : OdGroup := ⟨0x2180, 1, [
  ⟨0x00, 1, .u8, .const, 6, false, .any⟩, -- EVAL_SUBS (R363)
  ⟨0x01, 1, .u8, .rw, 0, false, .any⟩, -- EVAL_CLUSTERS (R363)
  ⟨0x02, 1, .u16, .rw, 0, false, .any⟩, -- EVAL_HBM_GIB (R363)
  ⟨0x03, 1, .u16, .rw, 0, false, .any⟩, -- EVAL_JOB (R363)
  ⟨0x04, 1, .u8, .wo, 0, false, .any⟩, -- EVAL_COMMIT (R363)
  ⟨0x05, 1, .u8, .ro, 0, false, .any⟩, -- EVAL_ACTIVE_CLUSTERS (R363)
  ⟨0x06, 1, .u64, .ro, 0, false, .any⟩ -- EVAL_HBM_BASE (R363)
  ]⟩

def od2201 : OdGroup := ⟨0x2201, 1, [
  ⟨0x00, 1, .u8, .const, 5, false, .any⟩, -- SCRUB_SUBS (R241)
  ⟨0x01, 1, .bool, .rw, 1, true, .any⟩, -- SCRUB_ENABLE (R241)
  ⟨0x02, 1, .u16, .rw, 0x18, true, .range 1 168⟩, -- SCRUB_HBM_HOURS (R241)
  ⟨0x03, 1, .u32, .rw, 0x258, true, .range 10 86400⟩, -- SCRUB_SRAM_SECONDS (R241)
  ⟨0x04, 1, .u64, .ro, 0, false, .any⟩, -- SCRUB_HBM_PASSES (R241)
  ⟨0x05, 1, .time, .ro, 0, false, .any⟩ -- SCRUB_HBM_LAST (R241)
  ]⟩

def od2202 : OdGroup := ⟨0x2202, 1, [
  ⟨0x00, 1, .u8, .const, 1, false, .any⟩, -- highest subindex (R36)
  ⟨0x01, 1, .u32, .rw, 0x3E8, false, .range 1 100000⟩ -- CE_LOG_LIMIT (R241)
  ]⟩

def od2210 : OdGroup := ⟨0x2210, 8, [
  ⟨0x00, 1, .u8, .const, 4, false, .any⟩, -- HBM_STACK_SUBS (R241)
  ⟨0x01, 1, .u64, .ro, 0, false, .any⟩, -- HBM_CE_COUNT (R241)
  ⟨0x02, 1, .u64, .ro, 0, false, .any⟩, -- HBM_UE_COUNT (R241)
  ⟨0x03, 1, .u64, .ro, 0, false, .any⟩, -- HBM_POISON_READ_COUNT (R241)
  ⟨0x04, 1, .u64, .ro, 0, false, .any⟩ -- HBM_LINK_RETRY_COUNT (R241)
  ]⟩

def od2220 : OdGroup := ⟨0x2220, 1, [
  ⟨0x00, 1, .u8, .const, 3, false, .any⟩, -- SRAM_ERR_SUBS (R241)
  ⟨0x01, 1, .u64, .ro, 0, false, .any⟩, -- SRAM_CE_COUNT (R241)
  ⟨0x02, 1, .u64, .ro, 0, false, .any⟩, -- SRAM_UE_COUNT (R241)
  ⟨0x03, 1, .u64, .ro, 0, false, .any⟩ -- ICACHE_PARITY_COUNT (R241)
  ]⟩

def od2300 : OdGroup := ⟨0x2300, 4, [
  ⟨0x00, 1, .u8, .const, 0xC, false, .any⟩, -- PORT_SUBS (R280)
  ⟨0x01, 1, .u8, .ro, 0, false, .any⟩, -- PORT_STATE (R280)
  ⟨0x02, 1, .u8, .ro, 0, false, .any⟩, -- PORT_WIDTH (R280)
  ⟨0x03, 1, .u8, .ro, 0, false, .any⟩, -- PORT_GROUPS (R280)
  ⟨0x04, 1, .bool, .rw, 1, true, .any⟩, -- PORT_ENABLE (R280)
  ⟨0x05, 1, .u64, .ro, 0, false, .any⟩, -- PEER_SERIAL (R280)
  ⟨0x06, 1, .u16, .ro, 0xFFFF, false, .any⟩, -- PEER_COORD (R280)
  ⟨0x07, 1, .u32, .ro, 0, false, .any⟩, -- PEER_PLAN_ID (R280)
  ⟨0x08, 1, .u64, .rw, 0, false, .any⟩, -- PORT_EXPECT_SERIAL (R280)
  ⟨0x09, 1, .u64, .ro, 0, false, .any⟩, -- PORT_FEC_CORRECTED (R280)
  ⟨0x0A, 1, .u64, .ro, 0, false, .any⟩, -- PORT_FEC_UNCORR (R280)
  ⟨0x0B, 1, .u64, .ro, 0, false, .any⟩, -- PORT_REPLAYS (R280)
  ⟨0x0C, 1, .u64, .ro, 0, false, .any⟩ -- PORT_KEY_MISMATCH (R280)
  ]⟩

def od2310 : OdGroup := ⟨0x2310, 1, [
  ⟨0x00, 1, .u8, .const, 0x1F, false, .any⟩, -- MESH_SUBS (R280)
  ⟨0x01, 1, .u32, .rws, 0, false, .any⟩, -- MESH_PLAN_ID (R280)
  ⟨0x02, 1, .u8, .rws, 0, false, .range 0 63⟩, -- MESH_SELF_X (R280)
  ⟨0x03, 1, .u8, .rws, 0, false, .range 0 63⟩, -- MESH_SELF_Y (R280)
  ⟨0x04, 1, .u8, .rws, 1, false, .range 1 64⟩, -- MESH_PLAN_X (R280)
  ⟨0x05, 1, .u8, .rws, 1, false, .range 1 64⟩, -- MESH_PLAN_Y (R280)
  ⟨0x06, 1, .bool, .rws, 0, false, .any⟩, -- MESH_DOMAIN (R280)
  ⟨0x07, 1, .bool, .rws, 0, false, .any⟩, -- MESH_ALLOW_DETOUR (R280)
  ⟨0x08, 1, .u8, .rws, 0, false, .range 0 16⟩, -- MESH_MISSING_COUNT (R280)
  ⟨0x10, 16, .u32, .rws, 0, false, .mask 13⟩ -- MESH_MISSING (R280)
  ]⟩

def od2320 : OdGroup := ⟨0x2320, 1, [
  ⟨0x00, 1, .u8, .const, 9, false, .any⟩, -- FABRIC_SUBS (R280)
  ⟨0x01, 1, .u32, .rws, 0x3E8, false, .range 50 1000000⟩, -- REMOTE_TIMEOUT (R280)
  ⟨0x02, 1, .f32, .rw, 0x38D1B717, true, .fRange 0x358637bd 0x3a83126f⟩, -- LANE_SER_LIMIT (R280)
  ⟨0x03, 1, .u32, .rw, 0x64, true, .range 10 60000⟩, -- GROUP_RECOVER_MS (R280)
  ⟨0x04, 1, .u32, .rw, 0x64, true, .range 10 60000⟩, -- LINK_RETRY_MS (R280)
  ⟨0x05, 1, .u8, .rws, 2, false, .range 1 15⟩, -- VC_WEIGHT_REQ (R280)
  ⟨0x06, 1, .u8, .rws, 4, false, .range 1 15⟩, -- VC_WEIGHT_RESP (R280)
  ⟨0x07, 1, .u8, .rws, 8, false, .range 1 15⟩, -- VC_WEIGHT_COLL (R280)
  ⟨0x08, 1, .u8, .rws, 2, false, .range 1 15⟩, -- VC_WEIGHT_TRANSIT (R280)
  ⟨0x09, 1, .u32, .rw, 0x64, false, .range 1 100000⟩ -- KEY_LOG_LIMIT (R280)
  ]⟩

def od2330 : OdGroup := ⟨0x2330, 1, [
  ⟨0x00, 1, .u8, .const, 5, false, .any⟩, -- FABRIC_COUNT_SUBS (R280)
  ⟨0x01, 1, .u64, .ro, 0, false, .any⟩, -- KEY_MISMATCH_LOCAL (R280)
  ⟨0x02, 1, .u64, .ro, 0, false, .any⟩, -- REMOTE_TIMEOUT_COUNT (R280)
  ⟨0x03, 1, .u64, .ro, 0, false, .any⟩, -- LATE_RESPONSE_COUNT (R280)
  ⟨0x04, 1, .u64, .ro, 0, false, .any⟩, -- PACKETS_DROPPED (R280)
  ⟨0x05, 1, .u64, .ro, 0, false, .any⟩ -- DETOUR_PACKETS (R280)
  ]⟩

def od2340 : OdGroup := ⟨0x2340, 16, [
  ⟨0x00, 1, .u8, .const, 5, false, .any⟩, -- RECT_SUBS (R280)
  ⟨0x01, 1, .u16, .rw, 0, false, .any⟩, -- RECT_JOB (R280)
  ⟨0x02, 1, .u8, .rw, 0, false, .any⟩, -- RECT_X0 (R280)
  ⟨0x03, 1, .u8, .rw, 0, false, .any⟩, -- RECT_Y0 (R280)
  ⟨0x04, 1, .u8, .rw, 0, false, .any⟩, -- RECT_X1 (R280)
  ⟨0x05, 1, .u8, .rw, 0, false, .any⟩ -- RECT_Y1 (R280)
  ]⟩

def od2350 : OdGroup := ⟨0x2350, 1, [
  ⟨0x00, 1, .u8, .const, 0x11, false, .any⟩, -- SUBST_SUBS (R401)
  ⟨0x01, 1, .u8, .rws, 0, false, .range 0 16⟩, -- MESH_SUBST_COUNT (R401)
  ⟨0x02, 16, .u32, .rws, 0, false, .mask 24⟩ -- MESH_SUBST (R401)
  ]⟩

def od2360 : OdGroup := ⟨0x2360, 1, [
  ⟨0x00, 1, .u8, .const, 7, false, .any⟩, -- FENCE_SUBS (R401)
  ⟨0x01, 1, .u32, .rw, 0x14, true, .range 0 1000⟩, -- FENCE_DELAY_US (R401)
  ⟨0x02, 4, .u16, .ro, 0xFFFF, false, .any⟩, -- FENCED_COORD (R401)
  ⟨0x06, 1, .u8, .wo, 0, false, .any⟩, -- FENCE_CLEAR (R401)
  ⟨0x07, 1, .u64, .ro, 0, false, .any⟩ -- FENCE_DISCARDS (R401)
  ]⟩

def od2500 : OdGroup := ⟨0x2500, 1, [
  ⟨0x00, 1, .u8, .const, 0x10, false, .any⟩, -- HERITAGE_SUBS (R130)
  ⟨0x01, 16, .bool, .rw, 0, false, .any⟩ -- HERITAGE_MODE (R130)
  ]⟩

def od2501 : OdGroup := ⟨0x2501, 1, [
  ⟨0x00, 1, .u8, .const, 0x10, false, .any⟩, -- PROMO_P8_SUBS (R130)
  ⟨0x01, 16, .u8, .rw, 4, false, .pow2 1 8⟩ -- PROMO_P8 (R130)
  ]⟩

def od2502 : OdGroup := ⟨0x2502, 1, [
  ⟨0x00, 1, .u8, .const, 0x10, false, .any⟩, -- PROMO_P16_SUBS (R130)
  ⟨0x01, 16, .u8, .rw, 2, false, .pow2 1 8⟩ -- PROMO_P16 (R130)
  ]⟩

def od2503 : OdGroup := ⟨0x2503, 1, [
  ⟨0x00, 1, .u8, .const, 0x10, false, .any⟩, -- ARRIVAL_SUBS (R130)
  ⟨0x01, 16, .u8, .rw, 0, false, .any⟩ -- ARRIVAL_CLASS_MASK (R130)
  ]⟩

def od2510 : OdGroup := ⟨0x2510, 1, [
  ⟨0x00, 1, .u8, .const, 3, false, .any⟩, -- NUM_COUNT_SUBS (R130)
  ⟨0x01, 1, .u64, .ro, 0, false, .any⟩, -- P20_ESCAPE_COUNT (R130)
  ⟨0x02, 1, .u64, .ro, 0, false, .any⟩, -- INT8_SAT_COUNT (R130)
  ⟨0x03, 1, .u64, .ro, 0, false, .any⟩ -- ARRIVAL_ADD_COUNT (R130)
  ]⟩

def od2520 : OdGroup := ⟨0x2520, 16, [
  ⟨0x00, 1, .u8, .const, 3, false, .any⟩, -- NUM_SLOT_SUBS (R104)
  ⟨0x01, 1, .u16, .ro, 0, false, .any⟩, -- NUM_SLOT_JOB (R104)
  ⟨0x02, 1, .u64, .rw, 0, false, .any⟩, -- SR_SEED (R104)
  ⟨0x03, 1, .u64, .rw, 0, false, .any⟩ -- SR_STEP (R104)
  ]⟩

def od2600 : OdGroup := ⟨0x2600, 1, [
  ⟨0x00, 1, .u8, .const, 4, false, .any⟩, -- COLL_SUBS (R313)
  ⟨0x01, 1, .u32, .rw, 0x1000000, false, .step 0x400000 0x4000000 0x10000⟩, -- COLL_BUCKET_BYTES (R313)
  ⟨0x02, 1, .u32, .rw, 0x2710, false, .range 10 600000⟩, -- COLL_TIMEOUT (R313)
  ⟨0x03, 1, .u32, .rw, 0x3E8, false, .range 1 600000⟩, -- BARRIER_TIMEOUT (R313)
  ⟨0x04, 1, .u32, .const, 0x1000, false, .any⟩ -- COLL_CHUNK_ELEMS (R313)
  ]⟩

def od2601 : OdGroup := ⟨0x2601, 1, [
  ⟨0x00, 1, .u8, .const, 7, false, .any⟩, -- COLL_COUNT_SUBS (R313)
  ⟨0x01, 1, .u64, .ro, 0, false, .any⟩, -- BUCKETS_DONE (R313)
  ⟨0x02, 1, .u64, .ro, 0, false, .any⟩, -- BUCKETS_ABORTED (R313)
  ⟨0x03, 1, .u64, .ro, 0, false, .any⟩, -- SCALE_BUMP_COUNT (R313)
  ⟨0x04, 1, .u64, .ro, 0, false, .any⟩, -- COLL_DISCARDED (R313)
  ⟨0x05, 1, .u64, .ro, 0, false, .any⟩, -- PERMUTES_DONE (R313)
  ⟨0x06, 1, .u64, .ro, 0, false, .any⟩, -- BARRIERS_DONE (R313)
  ⟨0x07, 1, .u64, .ro, 0, false, .any⟩ -- BARRIERS_FAILED (R313)
  ]⟩

def od2602 : OdGroup := ⟨0x2602, 1, [
  ⟨0x00, 1, .u8, .const, 1, false, .any⟩, -- EPOCH_ADOPT_SUBS (R401)
  ⟨0x01, 1, .u64, .wo, 0, false, .any⟩ -- EPOCH_ADOPT (R401)
  ]⟩

def od2610 : OdGroup := ⟨0x2610, 16, [
  ⟨0x00, 1, .u8, .const, 0xA, false, .any⟩, -- GRP_SUBS (R313)
  ⟨0x01, 1, .u16, .rw, 0, false, .any⟩, -- GRP_JOB (R313)
  ⟨0x02, 1, .u8, .rw, 0, false, .any⟩, -- GRP_X0 (R313)
  ⟨0x03, 1, .u8, .rw, 0, false, .any⟩, -- GRP_Y0 (R313)
  ⟨0x04, 1, .u8, .rw, 1, false, .range 1 64⟩, -- GRP_NX (R313)
  ⟨0x05, 1, .u8, .rw, 1, false, .range 1 64⟩, -- GRP_NY (R313)
  ⟨0x06, 1, .u8, .rw, 1, false, .range 1 63⟩, -- GRP_SX (R313)
  ⟨0x07, 1, .u8, .rw, 1, false, .range 1 63⟩, -- GRP_SY (R313)
  ⟨0x08, 1, .u8, .rw, 0, false, .range 0 1⟩, -- GRP_SHAPE (R313)
  ⟨0x09, 1, .u16, .ro, 0xFFFF, false, .any⟩, -- GRP_RANK (R313)
  ⟨0x0A, 1, .u16, .ro, 1, false, .any⟩ -- GRP_SIZE (R313)
  ]⟩

def od2620 : OdGroup := ⟨0x2620, 8, [
  ⟨0x00, 1, .u8, .const, 4, false, .any⟩, -- SLOT_SUBS (R313)
  ⟨0x01, 1, .u8, .ro, 0, false, .any⟩, -- SLOT_STATE (R313)
  ⟨0x02, 1, .u32, .ro, 0, false, .any⟩, -- SLOT_BUCKET (R313)
  ⟨0x03, 1, .u8, .ro, 0, false, .any⟩, -- SLOT_GROUP (R313)
  ⟨0x04, 1, .u32, .ro, 0, false, .any⟩ -- SLOT_CHUNKS (R313)
  ]⟩

def od2630 : OdGroup := ⟨0x2630, 1, [
  ⟨0x00, 1, .u8, .const, 2, false, .any⟩, -- HO_SUBS (R379)
  ⟨0x01, 1, .u32, .rw, 0x2710, false, .range 10 600000⟩, -- HANDOFF_TIMEOUT (R379)
  ⟨0x02, 1, .u64, .ro, 0, false, .any⟩ -- HO_CHUNKS_TOTAL (R379)
  ]⟩

def od2640 : OdGroup := ⟨0x2640, 16, [
  ⟨0x00, 1, .u8, .const, 0xD, false, .any⟩, -- HO_CH_SUBS (R379)
  ⟨0x01, 1, .u16, .rw, 0, false, .any⟩, -- HO_JOB (R379)
  ⟨0x02, 1, .u8, .rw, 0, false, .range 0 1⟩, -- HO_ROLE (R379)
  ⟨0x03, 1, .u16, .rw, 0xFFFF, false, .any⟩, -- HO_PEER_COORD (R379)
  ⟨0x04, 1, .u8, .rw, 0, false, .any⟩, -- HO_PEER_CHANNEL (R379)
  ⟨0x05, 1, .u32, .rw, 0x100000, false, .pow2 65536 16777216⟩, -- HO_CHUNK_BYTES (R379)
  ⟨0x06, 1, .u16, .rw, 8, false, .range 2 256⟩, -- HO_RING_CHUNKS (R379)
  ⟨0x07, 1, .u64, .rw, 0, false, .any⟩, -- HO_RING_ADDR (R379)
  ⟨0x08, 1, .u64, .rw, 0, false, .any⟩, -- HO_CTRL_ADDR (R379)
  ⟨0x09, 1, .u64, .rw, 0, false, .any⟩, -- HO_PEER_CTRL (R379)
  ⟨0x0A, 1, .keyref, .rw, 0, false, .mask 12⟩, -- HO_KEYREF (R379)
  ⟨0x0B, 1, .u8, .ro, 0, false, .any⟩, -- HO_STATE (R379)
  ⟨0x0C, 1, .u64, .ro, 0, false, .any⟩, -- HO_CHUNKS (R379)
  ⟨0x0D, 1, .u64, .ro, 0, false, .any⟩ -- HO_CREDIT_STALL_NS (R379)
  ]⟩

def od2660 : OdGroup := ⟨0x2660, 16, [
  ⟨0x00, 1, .u8, .const, 7, false, .any⟩, -- POOL_SUBS (R379)
  ⟨0x01, 1, .u64, .rw, 0, false, .align 65536⟩, -- POOL_BASE (R379)
  ⟨0x02, 1, .u64, .rw, 0, false, .align 65536⟩, -- POOL_BYTES (R379)
  ⟨0x03, 1, .u64, .ro, 0, false, .any⟩, -- POOL_USED_BYTES (R379)
  ⟨0x04, 1, .u64, .ro, 0, false, .any⟩, -- POOL_HITS (R379)
  ⟨0x05, 1, .u64, .ro, 0, false, .any⟩, -- POOL_MISSES (R379)
  ⟨0x06, 1, .u64, .ro, 0, false, .any⟩, -- POOL_EVICTIONS (R379)
  ⟨0x07, 1, .u64, .ro, 0, false, .any⟩ -- POOL_BLOCKED (R379)
  ]⟩

def od2700 : OdGroup := ⟨0x2700, 64, [
  ⟨0x00, 1, .u8, .const, 0x18, false, .any⟩, -- RULE_SUBS (R339)
  ⟨0x01, 1, .f32, .rw, 0x3F800000, false, .fFin⟩, -- RULE_COEF_0 (R339)
  ⟨0x02, 1, .f32, .rw, 0x7F800000, false, .fPosInf⟩, -- RULE_COEF_1 (R339)
  ⟨0x03, 1, .f32, .rw, 0, false, .fFin⟩, -- RULE_COEF_2 (R339)
  ⟨0x04, 1, .f32, .rw, 0, false, .fFin⟩, -- RULE_COEF_3 (R339)
  ⟨0x05, 1, .f32, .rw, 0, false, .fFin⟩, -- RULE_COEF_4 (R339)
  ⟨0x06, 1, .f32, .rw, 0, false, .fFin⟩, -- RULE_COEF_5 (R339)
  ⟨0x07, 1, .f32, .rw, 0, false, .fFin⟩, -- RULE_COEF_6 (R339)
  ⟨0x08, 1, .f32, .rw, 0, false, .fFin⟩, -- RULE_COEF_7 (R339)
  ⟨0x09, 1, .f32, .rw, 0, false, .fNonneg⟩, -- RULE_COEF_8 (R339)
  ⟨0x0A, 1, .f32, .rw, 0, false, .fOneOf [0, 0xBF000000, 0xBF800000]⟩, -- RULE_COEF_9 (R339)
  ⟨0x0B, 1, .f32, .rw, 0, false, .fFin⟩, -- RULE_COEF_10 (R339)
  ⟨0x0C, 1, .f32, .rw, 0, false, .fFin⟩, -- RULE_COEF_11 (R339)
  ⟨0x0D, 1, .f32, .rw, 0, false, .fOneOf [0, 0x3F800000, 0x40000000]⟩, -- RULE_COEF_12 (R339)
  ⟨0x0E, 1, .f32, .rw, 0x7F800000, false, .fPosInf⟩, -- RULE_COEF_13 (R339)
  ⟨0x0F, 1, .f32, .rw, 0, false, .fOneOf [0, 0x3F800000]⟩, -- RULE_COEF_14 (R339)
  ⟨0x10, 1, .f32, .rw, 0, false, .fFin⟩, -- RULE_COEF_15 (R339)
  ⟨0x11, 1, .u8, .rw, 1, false, .range 1 2⟩, -- RULE_WFMT (R339)
  ⟨0x12, 1, .u8, .rw, 1, false, .range 1 2⟩, -- RULE_SFMT (R339)
  ⟨0x13, 1, .u16, .rw, 2, false, .ccw⟩, -- RULE_CCW (R339)
  ⟨0x14, 1, .u8, .rw, 0, false, .range 0 2⟩, -- RULE_PRECOND (R339)
  ⟨0x15, 1, .u8, .rw, 4, false, .pow2 1 4⟩, -- RULE_ROOT_P (R339)
  ⟨0x16, 1, .u16, .rw, 0x64, false, .range 1 65535⟩, -- RULE_PRECOND_T (R339)
  ⟨0x17, 1, .f32, .rw, 0x358637BD, false, .fNonneg⟩, -- RULE_PRECOND_EPS (R339)
  ⟨0x18, 1, .u8, .rw, 0xC, false, .range 1 64⟩ -- RULE_NEWTON_ITERS (R339)
  ]⟩

def od2740 : OdGroup := ⟨0x2740, 64, [
  ⟨0x00, 1, .u8, .const, 0x18, false, .any⟩, -- RULE_ACTIVE_SUBS (R339)
  ⟨0x01, 1, .f32, .ro, 0x3F800000, false, .any⟩, -- RULE_ACTIVE_COEF_0 (R339)
  ⟨0x02, 1, .f32, .ro, 0x7F800000, false, .any⟩, -- RULE_ACTIVE_COEF_1 (R339)
  ⟨0x03, 1, .f32, .ro, 0, false, .any⟩, -- RULE_ACTIVE_COEF_2 (R339)
  ⟨0x04, 1, .f32, .ro, 0, false, .any⟩, -- RULE_ACTIVE_COEF_3 (R339)
  ⟨0x05, 1, .f32, .ro, 0, false, .any⟩, -- RULE_ACTIVE_COEF_4 (R339)
  ⟨0x06, 1, .f32, .ro, 0, false, .any⟩, -- RULE_ACTIVE_COEF_5 (R339)
  ⟨0x07, 1, .f32, .ro, 0, false, .any⟩, -- RULE_ACTIVE_COEF_6 (R339)
  ⟨0x08, 1, .f32, .ro, 0, false, .any⟩, -- RULE_ACTIVE_COEF_7 (R339)
  ⟨0x09, 1, .f32, .ro, 0, false, .any⟩, -- RULE_ACTIVE_COEF_8 (R339)
  ⟨0x0A, 1, .f32, .ro, 0, false, .any⟩, -- RULE_ACTIVE_COEF_9 (R339)
  ⟨0x0B, 1, .f32, .ro, 0, false, .any⟩, -- RULE_ACTIVE_COEF_10 (R339)
  ⟨0x0C, 1, .f32, .ro, 0, false, .any⟩, -- RULE_ACTIVE_COEF_11 (R339)
  ⟨0x0D, 1, .f32, .ro, 0, false, .any⟩, -- RULE_ACTIVE_COEF_12 (R339)
  ⟨0x0E, 1, .f32, .ro, 0x7F800000, false, .any⟩, -- RULE_ACTIVE_COEF_13 (R339)
  ⟨0x0F, 1, .f32, .ro, 0, false, .any⟩, -- RULE_ACTIVE_COEF_14 (R339)
  ⟨0x10, 1, .f32, .ro, 0, false, .any⟩, -- RULE_ACTIVE_COEF_15 (R339)
  ⟨0x11, 1, .u8, .ro, 1, false, .any⟩, -- RULE_ACTIVE_WFMT (R339)
  ⟨0x12, 1, .u8, .ro, 1, false, .any⟩, -- RULE_ACTIVE_SFMT (R339)
  ⟨0x13, 1, .u16, .ro, 2, false, .any⟩, -- RULE_ACTIVE_CCW (R339)
  ⟨0x14, 1, .u8, .ro, 0, false, .any⟩, -- RULE_ACTIVE_PRECOND (R339)
  ⟨0x15, 1, .u8, .ro, 4, false, .any⟩, -- RULE_ACTIVE_ROOT_P (R339)
  ⟨0x16, 1, .u16, .ro, 0x64, false, .any⟩, -- RULE_ACTIVE_PRECOND_T (R339)
  ⟨0x17, 1, .f32, .ro, 0x358637BD, false, .any⟩, -- RULE_ACTIVE_PRECOND_EPS (R339)
  ⟨0x18, 1, .u8, .ro, 0xC, false, .any⟩ -- RULE_ACTIVE_NEWTON_ITERS (R339)
  ]⟩

def od2780 : OdGroup := ⟨0x2780, 1, [
  ⟨0x00, 1, .u8, .const, 5, false, .any⟩, -- RULE_CTL_SUBS (R339)
  ⟨0x01, 1, .u8, .rw, 0, false, .range 0 15⟩, -- RULE_SWITCH_CTX (R339)
  ⟨0x02, 1, .u32, .rw, 0, false, .any⟩, -- RULE_SWITCH_EPOCH (R339)
  ⟨0x03, 1, .bool, .ro, 0, false, .any⟩, -- RULE_SWITCH_ARMED (R339)
  ⟨0x04, 1, .u8, .wo, 0, false, .any⟩, -- RULE_COMMIT_NOW (R339)
  ⟨0x05, 1, .time, .ro, 0, false, .any⟩ -- RULE_BANK_TIME (R339)
  ]⟩

def od2781 : OdGroup := ⟨0x2781, 1, [
  ⟨0x00, 1, .u8, .const, 7, false, .any⟩, -- UPD_COUNT_SUBS (R339)
  ⟨0x01, 1, .u64, .ro, 0, false, .any⟩, -- UPD_ELEMS (R339)
  ⟨0x02, 1, .u64, .ro, 0, false, .any⟩, -- UPD_SKIP_COUNT (R339)
  ⟨0x03, 1, .u64, .ro, 0, false, .any⟩, -- UPD_FROZEN_ELEMS (R339)
  ⟨0x04, 1, .u64, .ro, 0, false, .any⟩, -- UPD_NONFINITE_ELEMS (R339)
  ⟨0x05, 1, .u64, .ro, 0, false, .any⟩, -- UPD_POISON_ELEMS (R339)
  ⟨0x06, 1, .u64, .ro, 0, false, .any⟩, -- ROOT_RECOMPUTES (R339)
  ⟨0x07, 1, .u64, .ro, 0, false, .any⟩ -- ROOT_FAILS (R339)
  ]⟩

def od2800 : OdGroup := ⟨0x2800, 1, [
  ⟨0x00, 1, .u8, .const, 0x10, false, .any⟩, -- NF_SUBS (R363)
  ⟨0x01, 16, .u64, .ro, 0, false, .any⟩ -- NF_CLASS (R363)
  ]⟩

def od2810 : OdGroup := ⟨0x2810, 1, [
  ⟨0x00, 1, .u8, .const, 3, false, .any⟩, -- LEDGER_CFG_SUBS (R363)
  ⟨0x01, 1, .u8, .rw, 0x10, true, .range 1 255⟩, -- LEDGER_WARMUP (R363)
  ⟨0x02, 1, .u8, .rw, 0x10, true, .range 1 32⟩, -- LEDGER_DEPTH (R363)
  ⟨0x03, 1, .u8, .rw, 0, true, .range 0 8⟩ -- LEDGER_MARGIN (R363)
  ]⟩

def od2811 : OdGroup := ⟨0x2811, 1, [
  ⟨0x00, 1, .u8, .const, 4, false, .any⟩, -- WATCH_COUNT_SUBS (R363)
  ⟨0x01, 1, .u64, .ro, 0, false, .any⟩, -- LEDGER_ROLLS (R363)
  ⟨0x02, 1, .u64, .ro, 0, false, .any⟩, -- LEDGER_NONFINITE_COUNT (R363)
  ⟨0x03, 1, .u64, .ro, 0, false, .any⟩, -- LEDGER_MIRROR_FAIL_COUNT (R363)
  ⟨0x04, 1, .u64, .ro, 0, false, .any⟩ -- SNAPSHOTS_DONE (R363)
  ]⟩

def od2820 : OdGroup := ⟨0x2820, 16, [
  ⟨0x00, 1, .u8, .const, 0x16, false, .any⟩, -- JOBW_SUBS (R363)
  ⟨0x01, 1, .bool, .rw, 0, false, .any⟩, -- NF_STEP_FLAG (R363)
  ⟨0x02, 1, .u16, .rw, 0xFFFF, false, .any⟩, -- GRAD_CLASS_MASK (R363)
  ⟨0x03, 1, .u8, .rw, 0, false, .any⟩, -- JOB_ARITH_FLAGS (R363)
  ⟨0x04, 1, .u64, .rw, 0, false, .align 256⟩, -- LEDGER_BASE (R363)
  ⟨0x05, 1, .u32, .rw, 0, false, .range 0 32768⟩, -- LEDGER_COUNT (R363)
  ⟨0x06, 1, .u64, .rw, 0, false, .range 0 0xFFFFFFFFFFFFF⟩, -- LEDGER_MIRROR_ADDR (R363)
  ⟨0x07, 1, .keyref, .rw, 0, false, .mask 12⟩, -- LEDGER_MIRROR_REF (R363)
  ⟨0x08, 1, .u8, .wo, 0, false, .any⟩, -- LEDGER_ATTACH (R363)
  ⟨0x09, 1, .bool, .ro, 0, false, .any⟩, -- LEDGER_ATTACHED (R363)
  ⟨0x0A, 1, .u8, .rw, 0, false, .range 0 2⟩, -- LOSS_MODE (R363)
  ⟨0x0B, 1, .u64, .rw, 0, false, .any⟩, -- LOSS_ADDR (R363)
  ⟨0x0C, 1, .f32, .wo, 0, false, .any⟩, -- LOSS_VALUE (R363)
  ⟨0x0D, 1, .f32, .rw, 0x3C23D70A, false, .fUnit⟩, -- LOSS_ALPHA (R363)
  ⟨0x0E, 1, .f32, .rw, 0x40C00000, false, .fPos⟩, -- LOSS_Z_LIMIT (R363)
  ⟨0x0F, 1, .u16, .rw, 0x64, false, .any⟩, -- LOSS_WARMUP (R363)
  ⟨0x10, 1, .f32, .rw, 0x2B8CBCCC, false, .fPos⟩, -- LOSS_VAR_FLOOR (R363)
  ⟨0x11, 1, .bool, .rw, 0, false, .any⟩, -- LOSS_SPIKE_UPDATE (R363)
  ⟨0x12, 1, .u8, .rw, 0, false, .range 0 1⟩, -- LOSS_SPIKE_ACTION (R363)
  ⟨0x13, 1, .f32, .ro, 0, false, .any⟩, -- LOSS_MEAN (R363)
  ⟨0x14, 1, .f32, .ro, 0, false, .any⟩, -- LOSS_VAR (R363)
  ⟨0x15, 1, .u64, .ro, 0, false, .any⟩, -- LOSS_COUNT (R363)
  ⟨0x16, 1, .u64, .ro, 0, false, .any⟩ -- LOSS_SPIKE_COUNT (R363)
  ]⟩

def od2900 : OdGroup := ⟨0x2900, 1, [
  ⟨0x00, 1, .u8, .const, 6, false, .any⟩, -- SEC_SUBS (R446)
  ⟨0x01, 1, .domain, .const, 0, false, .any⟩, -- ROOT_KEY_DIGEST (R446)
  ⟨0x02, 1, .u8, .ro, 0, false, .any⟩, -- IDENTITY_STATE (R446)
  ⟨0x03, 1, .domain, .ro, 0, false, .any⟩, -- IDENTITY_PUBKEY (R446)
  ⟨0x04, 1, .u8, .ro, 0, false, .any⟩, -- IMAGE_SLOT (R446)
  ⟨0x05, 1, .u32, .ro, 0, false, .any⟩, -- IMAGE_SEQ (R446)
  ⟨0x06, 1, .u64, .ro, 0, false, .any⟩ -- CONFIG_SEQ (R446)
  ]⟩

def od2901 : OdGroup := ⟨0x2901, 1, [
  ⟨0x00, 1, .u8, .const, 3, false, .any⟩, -- highest subindex (R36)
  ⟨0x01, 1, .domain, .wo, 0, false, .any⟩, -- FW_UPDATE (R446)
  ⟨0x02, 1, .domain, .wo, 0, false, .any⟩, -- CONFIG_UPDATE (R446)
  ⟨0x03, 1, .bool, .ro, 0, false, .any⟩ -- FLASH_BUSY (R446)
  ]⟩

def od2902 : OdGroup := ⟨0x2902, 1, [
  ⟨0x00, 1, .u8, .const, 4, false, .any⟩, -- highest subindex (R36)
  ⟨0x01, 1, .domain, .ro, 0, false, .any⟩, -- DEBUG_CHALLENGE (R446)
  ⟨0x02, 1, .domain, .wo, 0, false, .any⟩, -- DEBUG_UNLOCK (R446)
  ⟨0x03, 1, .u8, .ro, 0, false, .any⟩, -- DEBUG_LEVEL (R446)
  ⟨0x04, 1, .u8, .wo, 0, false, .any⟩ -- DEBUG_RELOCK (R446)
  ]⟩

def od2903 : OdGroup := ⟨0x2903, 1, [
  ⟨0x00, 1, .u8, .const, 2, false, .any⟩, -- highest subindex (R36)
  ⟨0x01, 1, .domain, .wo, 0, false, .any⟩, -- QUOTE_NONCE (R446)
  ⟨0x02, 1, .domain, .ro, 0, false, .any⟩ -- QUOTE (R446)
  ]⟩

def od2910 : OdGroup := ⟨0x2910, 1, [
  ⟨0x00, 1, .u8, .const, 7, false, .any⟩, -- ALARM_SUBS (R446)
  ⟨0x01, 1, .u8, .ro, 1, false, .range 0 2⟩, -- ALARM_POLICY_0 (R446)
  ⟨0x02, 1, .u8, .ro, 0, false, .range 0 2⟩, -- ALARM_POLICY_1 (R446)
  ⟨0x03, 1, .u8, .ro, 0, false, .range 0 2⟩, -- ALARM_POLICY_2 (R446)
  ⟨0x04, 1, .u8, .ro, 0, false, .range 0 2⟩, -- ALARM_POLICY_3 (R446)
  ⟨0x05, 1, .u8, .ro, 0, false, .range 0 2⟩, -- ALARM_POLICY_4 (R446)
  ⟨0x06, 1, .u8, .ro, 8, false, .range 1 255⟩, -- SIG_FAIL_LIMIT (R446)
  ⟨0x07, 1, .u32, .ro, 0, false, .any⟩ -- FW_FLOOR (R446)
  ]⟩

def od2911 : OdGroup := ⟨0x2911, 1, [
  ⟨0x00, 1, .u8, .const, 5, false, .any⟩, -- ALARM_COUNT_SUBS (R446)
  ⟨0x01, 5, .u64, .ro, 0, false, .any⟩ -- ALARM_COUNT (R446)
  ]⟩

def od3000 : OdGroup := ⟨0x3000, 1, [
  ⟨0x00, 1, .u8, .const, 8, false, .any⟩, -- TALLY_SUBS (R462)
  ⟨0x01, 1, .bool, .rw, 0, false, .any⟩, -- TALLY_ENABLE (R462)
  ⟨0x02, 1, .u32, .rw, 0xF4240, false, .range 1000 1000000000⟩, -- TALLY_PERIOD_NS (R462)
  ⟨0x03, 1, .u64, .rw, 0, false, .align 4096⟩, -- TALLY_RING_BASE (R462)
  ⟨0x04, 1, .u32, .rw, 0x400, false, .pow2 256 1048576⟩, -- TALLY_RING_RECORDS (R462)
  ⟨0x05, 1, .u64, .rw, 0, false, .align 256⟩, -- TALLY_RING_CTRL (R462)
  ⟨0x06, 1, .u64, .ro, 0, false, .any⟩, -- TALLY_DUMPS (R462)
  ⟨0x07, 1, .u64, .ro, 0, false, .any⟩, -- TALLY_SKIPPED (R462)
  ⟨0x08, 1, .time, .ro, 0, false, .any⟩ -- TALLY_NEXT (R462)
  ]⟩

def od3001 : OdGroup := ⟨0x3001, 1, [
  ⟨0x00, 1, .u8, .const, 3, false, .any⟩, -- COUNT_SUBS (R462)
  ⟨0x01, 1, .bool, .rw, 0, false, .any⟩, -- COUNT_FREEZE (R462)
  ⟨0x02, 1, .u8, .wo, 0, false, .any⟩, -- COUNT_CLEAR (R462)
  ⟨0x03, 1, .time, .ro, 0, false, .any⟩ -- COUNT_SWITCH_TIME (R462)
  ]⟩

def od3010 : OdGroup := ⟨0x3010, 8, [
  ⟨0x00, 1, .u8, .const, 2, false, .any⟩, -- WIN_SUBS (R462)
  ⟨0x01, 1, .u64, .rw, 0, false, .any⟩, -- WIN_BASE (R462)
  ⟨0x02, 1, .u64, .rw, 0, false, .any⟩ -- WIN_LIMIT (R462)
  ]⟩

def od3100 : OdGroup := ⟨0x3100, 128, [
  ⟨0x00, 1, .u8, .const, 0x12, false, .any⟩, -- CORE_PMC_SUBS (R462)
  ⟨0x01, 1, .u64, .ro, 0, false, .any⟩, -- CORE_CYCLES (R462)
  ⟨0x02, 8, .u64, .ro, 0, false, .any⟩, -- CORE_PMC (R462)
  ⟨0x0A, 8, .u64, .rw, 0x3FFFC01C0000000, false, .any⟩, -- CORE_PSEL (R462)
  ⟨0x12, 1, .u32, .rw, 0, false, .any⟩ -- CORE_PCTL (R462)
  ]⟩

def od3200 : OdGroup := ⟨0x3200, 8, [
  ⟨0x00, 1, .u8, .const, 0x12, false, .any⟩, -- NET_PMC_SUBS (R462)
  ⟨0x02, 8, .u64, .ro, 0, false, .any⟩, -- NET_PMC (R462)
  ⟨0x0A, 8, .u64, .rw, 0x3FFFC01C0000000, false, .any⟩, -- NET_PSEL (R462)
  ⟨0x12, 1, .u32, .rw, 0, false, .any⟩ -- NET_PCTL (R462)
  ]⟩

def od3210 : OdGroup := ⟨0x3210, 8, [
  ⟨0x00, 1, .u8, .const, 0x12, false, .any⟩, -- STACK_PMC_SUBS (R462)
  ⟨0x02, 8, .u64, .ro, 0, false, .any⟩, -- STACK_PMC (R462)
  ⟨0x0A, 8, .u64, .rw, 0x3FFFC01C0000000, false, .any⟩, -- STACK_PSEL (R462)
  ⟨0x12, 1, .u32, .rw, 0, false, .any⟩ -- STACK_PCTL (R462)
  ]⟩

def od3220 : OdGroup := ⟨0x3220, 4, [
  ⟨0x00, 1, .u8, .const, 0x12, false, .any⟩, -- PORTC_PMC_SUBS (R462)
  ⟨0x02, 8, .u64, .ro, 0, false, .any⟩, -- PORTC_PMC (R462)
  ⟨0x0A, 8, .u64, .rw, 0x3FFFC01C0000000, false, .any⟩, -- PORTC_PSEL (R462)
  ⟨0x12, 1, .u32, .rw, 0, false, .any⟩ -- PORTC_PCTL (R462)
  ]⟩

def od4000 : OdGroup := ⟨0x4000, 1, [
  ⟨0x00, 1, .u8, .const, 8, false, .any⟩, -- LOG_SUBS (R401)
  ⟨0x01, 1, .u64, .rw, 0, false, .align 4096⟩, -- LOG_RING_BASE (R401)
  ⟨0x02, 1, .u32, .rw, 0, false, .any⟩, -- LOG_RING_ENTRIES (R401)
  ⟨0x03, 1, .u64, .rw, 0, false, .align 256⟩, -- LOG_RING_CTRL (R401)
  ⟨0x04, 1, .u8, .rw, 1, false, .range 0 1⟩, -- LOG_FULL_POLICY (R401)
  ⟨0x05, 1, .u64, .ro, 0, false, .any⟩, -- LOG_RECORDS (R401)
  ⟨0x06, 1, .u64, .ro, 0, false, .any⟩, -- LOG_DROPPED (R401)
  ⟨0x07, 1, .u64, .ro, 0, false, .any⟩, -- LOG_LATE (R401)
  ⟨0x08, 1, .u64, .ro, 0, false, .any⟩ -- LOG_HOLD_NS (R401)
  ]⟩

def od4010 : OdGroup := ⟨0x4010, 1, [
  ⟨0x00, 1, .domain, .ro, 0, false, .any⟩ -- LOG_ONDIE (R401)
  ]⟩

def od5000 : OdGroup := ⟨0x5000, 1, [
  ⟨0x00, 1, .u8, .const, 7, false, .any⟩, -- SELFTEST_SUBS (R401)
  ⟨0x01, 1, .u8, .rw, 1, true, .range 0 1⟩, -- SELFTEST_POLICY (R401)
  ⟨0x02, 1, .u32, .rw, 0x927C0, false, .range 1 86400000⟩, -- SELFTEST_WAIT_MS (R401)
  ⟨0x03, 1, .u32, .wo, 0, false, .any⟩, -- SELFTEST_REQUEST (R401)
  ⟨0x04, 1, .u8, .ro, 0, false, .any⟩, -- SELFTEST_STATE (R401)
  ⟨0x05, 1, .u8, .ro, 0, false, .any⟩, -- SELFTEST_RESULT (R401)
  ⟨0x06, 1, .u32, .ro, 0, false, .any⟩, -- SELFTEST_DETAIL (R401)
  ⟨0x07, 1, .time, .ro, 0, false, .any⟩ -- SELFTEST_TIME (R401)
  ]⟩

def od6001 : OdGroup := ⟨0x6001, 1, [
  ⟨0x00, 1, .u8, .const, 2, false, .any⟩, -- highest subindex (R36)
  ⟨0x01, 1, .u16, .wo, 0, false, .any⟩, -- JOB_OPEN (R76)
  ⟨0x02, 1, .u16, .wo, 0, false, .any⟩ -- JOB_CLOSE (R76)
  ]⟩

def od6010 : OdGroup := ⟨0x6010, 1, [
  ⟨0x00, 1, .u8, .const, 1, false, .any⟩, -- highest subindex (R36)
  ⟨0x01, 1, .u64, .wo, 0, false, .any⟩ -- ABORT_TARGET (R76)
  ]⟩

def od6020 : OdGroup := ⟨0x6020, 1, [
  ⟨0x00, 1, .u8, .const, 3, false, .any⟩, -- REGION_SUBS (R446)
  ⟨0x01, 1, .domain, .wo, 0, false, .any⟩, -- REGION_WRITE (R446)
  ⟨0x02, 1, .domain, .ro, 0, false, .any⟩, -- REGION_TABLE (R446)
  ⟨0x03, 1, .u16, .ro, 0, false, .any⟩ -- REGION_VALID_COUNT (R446)
  ]⟩

def od6100 : OdGroup := ⟨0x6100, 64, [
  ⟨0x00, 1, .u8, .const, 8, false, .any⟩, -- highest subindex (R36)
  ⟨0x01, 1, .bool, .rw, 0, false, .any⟩, -- RING_ENABLE (R76)
  ⟨0x02, 1, .u64, .rw, 0, false, .align 4096⟩, -- RING_BASE (R76)
  ⟨0x03, 1, .u32, .rw, 0x40, false, .pow2 64 65536⟩, -- RING_ENTRIES (R76)
  ⟨0x04, 1, .u64, .rw, 0, false, .align 256⟩, -- RING_CTRL (R76)
  ⟨0x05, 1, .u8, .rw, 2, false, .range 0 3⟩, -- RING_PRIORITY (R76)
  ⟨0x06, 1, .u16, .rw, 0, false, .any⟩, -- RING_JOB (R76)
  ⟨0x07, 1, .u8, .rw, 0, false, .any⟩, -- RING_CQ (R76)
  ⟨0x08, 1, .u8, .ro, 0, false, .any⟩ -- RING_STATE (R76)
  ]⟩

def od6200 : OdGroup := ⟨0x6200, 64, [
  ⟨0x00, 1, .u8, .const, 4, false, .any⟩, -- highest subindex (R36)
  ⟨0x01, 1, .bool, .rw, 0, false, .any⟩, -- CQ_ENABLE (R76)
  ⟨0x02, 1, .u64, .rw, 0, false, .align 4096⟩, -- CQ_BASE (R76)
  ⟨0x03, 1, .u32, .rw, 0x40, false, .pow2 64 65536⟩, -- CQ_ENTRIES (R76)
  ⟨0x04, 1, .u64, .rw, 0, false, .align 256⟩ -- CQ_CTRL (R76)
  ]⟩

def odPart10 : List OdGroup :=
  [od1000, od1001, od1002, od1003, od1010]

def odPart11 : List OdGroup :=
  [od1100, od1101, od1180, od1181]

def odPart12 : List OdGroup :=
  [od1200, od1220]

def odPart14 : List OdGroup :=
  [od1400, od1401, od1410, od1411]

def odPart20 : List OdGroup :=
  [od2000, od2001, od2002, od2010, od2011, od2012, od2013, od2014, od2015, od2016, od2017, od2018]

def odPart21 : List OdGroup :=
  [od2120, od2140, od2150, od2160, od2180]

def odPart22 : List OdGroup :=
  [od2201, od2202, od2210, od2220]

def odPart23 : List OdGroup :=
  [od2300, od2310, od2320, od2330, od2340, od2350, od2360]

def odPart25 : List OdGroup :=
  [od2500, od2501, od2502, od2503, od2510, od2520]

def odPart26 : List OdGroup :=
  [od2600, od2601, od2602, od2610, od2620, od2630, od2640, od2660]

def odPart27 : List OdGroup :=
  [od2700, od2740, od2780, od2781]

def odPart28 : List OdGroup :=
  [od2800, od2810, od2811, od2820]

def odPart29 : List OdGroup :=
  [od2900, od2901, od2902, od2903, od2910, od2911]

def odPart30 : List OdGroup :=
  [od3000, od3001, od3010]

def odPart31 : List OdGroup :=
  [od3100]

def odPart32 : List OdGroup :=
  [od3200, od3210, od3220]

def odPart40 : List OdGroup :=
  [od4000, od4010]

def odPart50 : List OdGroup :=
  [od5000]

def odPart60 : List OdGroup :=
  [od6001, od6010, od6020]

def odPart61 : List OdGroup :=
  [od6100]

def odPart62 : List OdGroup :=
  [od6200]

/-- The groups by the high byte of the index. -/
def odGroups (idx : Nat) : List OdGroup :=
  match idx / 256 with
  | 0x10 => odPart10
  | 0x11 => odPart11
  | 0x12 => odPart12
  | 0x14 => odPart14
  | 0x20 => odPart20
  | 0x21 => odPart21
  | 0x22 => odPart22
  | 0x23 => odPart23
  | 0x25 => odPart25
  | 0x26 => odPart26
  | 0x27 => odPart27
  | 0x28 => odPart28
  | 0x29 => odPart29
  | 0x30 => odPart30
  | 0x31 => odPart31
  | 0x32 => odPart32
  | 0x40 => odPart40
  | 0x50 => odPart50
  | 0x60 => odPart60
  | 0x61 => odPart61
  | 0x62 => odPart62
  | _ => []

/-- The row of an entry, if the entry exists. -/
def odRow? (idx sub : Nat) : Option OdRow :=
  match (odGroups idx).find? (fun g => decide (g.base ≤ idx) && decide (idx < g.base + g.count)) with
  | none => none
  | some g => g.rows.find? (fun r => decide (r.sub ≤ sub) && decide (sub < r.sub + r.count))

/-- The default of a key `256 × index + subindex`. -/
def odDefault (key : Nat) : Nat :=
  match odRow? (key / 256) (key % 256) with
  | some r => r.dflt
  | none => 0

/-- High bytes of the indices at which entries stand. -/
def odParts : List Nat :=
  [0x10, 0x11, 0x12, 0x14, 0x20, 0x21, 0x22, 0x23, 0x25, 0x26, 0x27, 0x28, 0x29, 0x30, 0x31, 0x32, 0x40, 0x50, 0x60,
   0x61, 0x62]

/-- Keys of the saved entries (R40). -/
def odSavedKeys : List Nat :=
  odParts.flatMap fun p => (odGroups (256 * p)).flatMap fun g => (List.range g.count).flatMap fun i =>
    (g.rows.filter fun r => r.saved).flatMap fun r => (List.range r.count).map fun j =>
      256 * (g.base + i) + r.sub + j

/-- The value a write stores: reserved bits of a word are ignored (R8). -/
def OdCheck.stored : OdCheck → Nat → Nat
  | .mask n, v => v % 2 ^ n
  | .ccw, v => v / 256 * 256 + v / 8 % 2 * 8 + v % 4
  | _, v => v

/-- The listing accepts the value (R38). -/
def OdCheck.accepts : OdCheck → Nat → Bool
  | .any, _ => true
  | .range lo hi, v => decide (lo ≤ v) && decide (v ≤ hi)
  | .pow2 lo hi, v => decide (lo ≤ v) && decide (v ≤ hi) && decide (v = 2 ^ Nat.log2 v)
  | .align n, v => decide (v % n = 0)
  | .step lo hi k, v => decide (lo ≤ v) && decide (v ≤ hi) && decide (v % k = 0)
  | .mask _, _ => true
  | .fFin, v => (FP.fp32.ieee v).isFinite
  | .fNonneg, v => (FP.fp32.ieee v).isFinite && Val.le .zero (FP.fp32.ieee v)
  | .fPos, v => Val.lt .zero (FP.fp32.ieee v)
  | .fPosInf, v => Val.lt .zero (FP.fp32.ieee v)
  | .fUnit, v => Val.lt .zero (FP.fp32.ieee v) && Val.lt (FP.fp32.ieee v) .one
  | .fRange lo hi, v => Val.le (FP.fp32.ieee lo) (FP.fp32.ieee v) && Val.le (FP.fp32.ieee v) (FP.fp32.ieee hi)
  | .fOneOf l, v => l.any fun x => Val.eq (FP.fp32.ieee x) (FP.fp32.ieee v)
  | .ccw, v => decide (v % 4 ≠ 3)

/-- The type accepts the value (R37): a BOOL is 0 or 1, and an F32 is no NaN. -/
def OdType.accepts : OdType → Nat → Bool
  | .bool, v => decide (v ≤ 1)
  | .f32, v => !(FP.fp32.ieee v).isNaN
  | _, _ => true

end Sys2Proof.Machine
end

