-- ==== Sys2Proof/Machine/SparseMap.lean ====
section
/-!
DEFINITION. Reading and writing a sparse map. An unlisted key reads as the map's default; a write keeps the canonical
form (keys strictly rising, no entry equal to the default), so that equal contents are equal data.
-/

namespace Sys2Proof

variable {β : Type}

/-- The value at key `i`. -/
def SMap.get (dflt : β) : SMap β → Nat → β
  | [], _ => dflt
  | (k, v) :: m, i => if k = i then v else SMap.get dflt m i

/-- The entry at key `i`, if it is listed. -/
def SMap.find? : SMap β → Nat → Option β
  | [], _ => none
  | (k, v) :: m, i => if k = i then some v else SMap.find? m i

/-- No entry at key `i`. -/
def SMap.erase : SMap β → Nat → SMap β
  | [], _ => []
  | (k, v) :: m, i => if k = i then SMap.erase m i else (k, v) :: SMap.erase m i

/-- An entry put at its place among rising keys. -/
def SMap.insert : SMap β → Nat → β → SMap β
  | [], i, x => [(i, x)]
  | (k, v) :: m, i, x => if i < k then (i, x) :: (k, v) :: m else (k, v) :: SMap.insert m i x

/-- Key `i` holds `x` afterwards. -/
def SMap.set [DecidableEq β] (dflt : β) (m : SMap β) (i : Nat) (x : β) : SMap β :=
  if x = dflt then SMap.erase m i else SMap.insert (SMap.erase m i) i x

/-- Key `i` is listed with `x` afterwards; for maps whose entries have no default. -/
def SMap.put (m : SMap β) (i : Nat) (x : β) : SMap β :=
  SMap.insert (SMap.erase m i) i x

/-- The canonical form: the keys rise, and no entry equals what an unlisted key reads as. -/
abbrev SMap.Wf (dflt : Nat → β) (m : List (Nat × β)) : Prop :=
  m.Pairwise (fun a b => a.1 < b.1) ∧ ∀ e ∈ m, e.2 ≠ dflt e.1

end Sys2Proof
end

