-- ==== Sys2Proof/Machine/State.lean ====
section
/-!
DEFINITION. The state of one Sniroth N9 as plain data, and its state after reset. Every piece of state that the spec
names is here; a numeric entry of the object dictionary has its one home in `State.od`. The fields `free` and `out`
are the model's own (assumption log 5 and 4): the position of the next free value, and what the device has sent.
-/

namespace Sys2Proof.Machine

/-- No command of the block ends in a fault: the spec answers every request with a status, an exception, an event or
a device state (R9, R12, R46), all of which are next states. Nobody raises one; safe. -/
inductive Fault where
  deriving DecidableEq, Repr

/-- Why the model gives a command no meaning. -/
inductive Refusal where
  /-- Raised only by an arm of `exec` whose command has no meaning yet. Safe: nothing is said of the command. -/
  | notModelled (mnemonic : String)
  deriving DecidableEq, Repr

/-- The device states of R45, with their codes 0x0 to 0x7 in this order. -/
inductive DevState where
  | off | boot | init | ready | running | draining | fault | alarmed
  deriving DecidableEq, Repr

/-- What keeps the device in OFF beside its pins (R406, R407, R417). -/
inductive OffHold where
  | none
  /-- rail monitor: until PWR_GOOD or RESET_N has been taken low and high again -/
  | untilToggle
  /-- thermal trip: until PWR_GOOD has been taken low -/
  | untilPowerCycle
  deriving DecidableEq, Repr

/-- Device root: state, reset sources and start progress. -/
structure Dev where
  state : DevState
  pwrGood : Bool
  resetN : Bool
  perstN : Bool
  /-- THERMTRIP_N is driven low (R417) -/
  thermtrip : Bool
  offHold : OffHold
  /-- straps: the lands' levels at the last reset release (R408, R470) -/
  straps : BitVec 6
  /-- when an accepted DEVICE_COMMAND RESET takes effect (R76) -/
  resetAt : Option Nat
  /-- when DRAIN_TIMEOUT expires (R46) -/
  drainAt : Option Nat
  /-- the PCI Express link is up (R407) -/
  linkUp : Bool
  /-- FAULT entered from BOOT, served by the ROM alone (R47) -/
  romFault : Bool
  /-- HBM stacks initialised so far in this start, H0 first (R413) -/
  hbmDone : Nat
  /-- clusters enabled so far in this start, cluster 0 first (R414) -/
  clustersOn : Nat
  /-- time at which the start step in progress began (R423) -/
  stepAt : Nat
  deriving DecidableEq, Repr

/-- The timebase (R27, R31) and the count of core clock cycles. -/
structure Clock where
  /-- the 64-bit counter, in ns; it does not wrap in service (R27) -/
  now : Nat
  /-- last edge of the reference seen before holdover -/
  lastRef : Nat
  /-- when holdover was entered -/
  holdoverAt : Nat
  /-- core cycles since the core islands were enabled, in thousandths of a cycle (MHz times ns) -/
  coreCyc : Nat
  deriving DecidableEq, Repr

/-- PCI Express configuration space, with the MSI-X table and pending bits of BAR4: the registers that R47 and R473 name, and
every other register by number (log 19). -/
structure PcieCfg where
  bar0 : BitVec 64
  bar2 : BitVec 64
  bar4 : BitVec 64
  memEnable : Bool
  /-- the power state is D3hot, and not D0 (R473) -/
  d3hot : Bool
  msixEnable : Bool
  /-- every vector is masked -/
  functionMask : Bool
  /-- the MSI-X table by its 32-bit words, four a vector: address, upper address, data, and the mask in bit 0 -/
  msixTable : SMap (BitVec 32)
  /-- pending bits, by vector -/
  msixPending : BitVec 73
  other : SMap (BitVec 32)
  deriving DecidableEq, Repr

/-- A word that an engine has written and whose command has not ended: a reader gets the word in memory or `old`
(R151, R239, R332). -/
structure RacyWord where
  /-- word number: local address div 8 -/
  word : Nat
  old : BitVec 80
  /-- the command or operation that writes it, and the number of its span, from 1; 0 where it has none (R331) -/
  owner : Nat
  part : Nat
  deriving DecidableEq, Repr

/-! ### Cores -/

/-- An entry of the reconvergence stack (R183). -/
structure StackEntry where
  /-- a pending entry of a divergent BRA; otherwise a reconvergence entry of RPUSH -/
  pending : Bool
  pc : BitVec 40
  mask : BitVec 32
  deriving DecidableEq, Repr

/-- An exception that a thread or group meets: the fields of R199 that depend on the cause. -/
structure Exc where
  cause : BitVec 4
  detail : BitVec 8
  position : BitVec 2
  aux : BitVec 8
  addr : BitVec 64
  lanes : BitVec 32
  deriving DecidableEq, Repr

/-- What one lane of a held remote instruction has received (R190, R267). -/
structure LaneResp where
  lane : Nat
  value : BitVec 64
  exc : Option Exc
  deriving DecidableEq, Repr

/-- What keeps a group from issuing (R195). The PC stays at the instruction until it completes. -/
inductive Hold where
  | none
  /-- LD.G, ST.G or AT.*: until every response has arrived (R190, R266) -/
  | response (word : BitVec 64)
  /-- TWAIT on a BUSY token of this group (R154) -/
  | token (tok : Nat) (word : BitVec 64)
  /-- CBAR (R186) -/
  | cbar
  /-- FENCE.R (R272) -/
  | fence (word : BitVec 64)
  /-- the FENCE.R of a group's end (R272) -/
  | endFence (word : BitVec 64)
  /-- the token waits of a group's end (R156) -/
  | endTokens (word : BitVec 64)
  /-- an exception or an abort stopped it; it is removed when its operations have ended (R198) -/
  | stopped
  deriving DecidableEq, Repr

/-- A failed posted transaction, kept for the next FENCE.R (R267, R272). -/
structure PostFail where
  /-- issue order -/
  seq : Nat
  exc : Exc
  deriving DecidableEq, Repr

/-- The state of a thread group (R176). -/
structure Group where
  pc : BitVec 40
  active : BitVec 32
  live : BitVec 32
  /-- top first -/
  stack : List StackEntry
  /-- v registers, key 256 × lane + register -/
  v : SMap (BitVec 32)
  u : SMap (BitVec 64)
  d : SMap (BitVec 256)
  /-- predicates, key 8 × lane + index -/
  p : SMap Bool
  hold : Hold
  /-- lanes of the held instruction that have their response -/
  resp : List LaneResp
  fails : List PostFail
  /-- locks the group holds (R194) -/
  locks : Nat
  /-- CBARs the group has executed (R186) -/
  cbars : Nat
  deriving DecidableEq, Repr

/-- A BUSY or DONE token (R152); a FREE token is not listed. -/
structure Token where
  done : Bool
  owner : Nat
  status : BitVec 8
  flags : BitVec 6
  deriving DecidableEq, Repr

inductive OpKind where
  | wld | mma | drn | chRun
  deriving DecidableEq, Repr

/-- What an operation has come to: whether it read poison, its flag vector, and the offset of R170 or R220. -/
structure OpResult where
  poisoned : Bool
  flags : BitVec 6
  off : Nat
  deriving DecidableEq, Repr

/-- A matrix or chain operation in flight with the descriptors it copied at issue (R148, R207). -/
structure MxOp where
  kind : OpKind
  tok : Nat
  owner : Nat
  word : BitVec 64
  d0 : BitVec 256
  d1 : BitVec 256
  d2 : BitVec 256
  /-- CH.RUN: second tensor and row operand (R206) -/
  d3 : BitVec 256
  d4 : BitVec 256
  uarg : BitVec 64
  /-- MMA: the format in the weight tags it checked (R136, R145) -/
  wfmt : BitVec 4
  started : Bool
  /-- WLD and MMA: set once its reads are over and its buffer or pairs are written -/
  result : Option OpResult
  /-- words that were stored while the operation was BUSY, with the words held before each store (R151) -/
  olds : SMap (List (BitVec 80))
  deriving DecidableEq, Repr

/-- A load tag (R136); an empty tag is not listed. -/
structure WTag where
  fmt : BitVec 4
  klen : Nat
  deriving DecidableEq, Repr

/-- One core. -/
structure Core where
  /-- the LAUNCH whose groups run here, by its command -/
  launch : Option Nat
  /-- halted by debug (R438) -/
  halted : Bool
  groups : SMap Group
  tokens : SMap Token
  /-- oldest issue first (R149) -/
  ops : List MxOp
  /-- accumulator code words: five for each group of four pairs (R225) -/
  acc : SMap (BitVec 80)
  accMark : SMap Bool
  /-- weight-buffer code words of 8 positions, key ((2 × array + half) × 128 + column) × 64 + n (R135, R237) -/
  wbuf : SMap (BitVec 80)
  /-- poisoned positions, key ((2 × array + half) × 128 + column) × 512 + position (R168) -/
  wPoison : SMap Bool
  /-- scale store, key ((2 × array + half) × 128 + column) × 32 + group -/
  wScale : SMap (BitVec 8)
  /-- load tags, key (2 × array + half) × 4 + block -/
  wTags : SMap WTag
  /-- bit a set while array a is not gated (R141) -/
  awake : BitVec 4
  /-- times of the last wakes granted, newest first -/
  wakes : List Nat
  /-- time at which array a was last woken or took its last stream cycle (R141) -/
  streamAt : SMap Nat
  /-- MX_GATE_IDLE as the last LAUNCH to start here sampled it (R171) -/
  gateIdle : Nat
  flagLast : BitVec 6
  flagSticky : BitVec 6
  /-- CYCLES starts from this core-cycle count, and stands at that of the core's failure (R392, R447) -/
  cycBase : Nat
  cycEnd : Option Nat
  /-- when an uncorrectable register word stopped the groups of this core's LAUNCH (R237) -/
  stopAt : Option Nat
  deriving DecidableEq, Repr

/-! ### Dispatcher and commands -/

inductive CmdPhase where
  /-- taken from its ring, not yet started -/
  | taken
  /-- a checked LAUNCH, COPY, UPDATE_STEP or HANDOFF that waits for what it needs -/
  | waiting
  | started
  deriving DecidableEq, Repr

/-- A command taken from a ring and not yet committed (R70, R72), with the numerics it sampled (R102, R128). -/
structure Cmd where
  serial : Nat
  ring : Nat
  pos : Nat
  opcode : BitVec 16
  flags : BitVec 16
  job : BitVec 16
  cmdId : BitVec 32
  tag : BitVec 64
  args : BitVec 320
  /-- a header field that must be 0 is not, or the ring's job was not open: REFUSED (R71) -/
  bad : Bool
  phase : CmdPhase
  startAt : Nat
  seed : BitVec 64
  step : BitVec 64
  heritage : Bool
  p8 : Nat
  p16 : Nat
  arrival : BitVec 8
  deriving DecidableEq, Repr

/-- A LAUNCH from its checks to its commit (R172 to R175, R198, R199). -/
structure Launch where
  cmd : Nat
  cores : List Nat
  vregs : Nat
  groups : Nat
  excPolicy : Bool
  excSlots : Nat
  excAddr : Nat
  entry : BitVec 40
  params : List (BitVec 64)
  started : Bool
  /-- an abort, or a core failure, with its time and the epoch of context 0 then -/
  aborted : Option (Nat × BitVec 32)
  /-- an exception under EXC_POLICY 0 stops its groups at their next issue (R198) -/
  excStop : Bool
  /-- flags of its operations on cores that a later LAUNCH has taken over (R172, R215) -/
  flags : BitVec 6
  /-- MX_GATE_IDLE as sampled at the start (R171) -/
  gateIdle : Nat
  firstCause : BitVec 4
  excCount : Nat
  excWritten : Nat
  /-- the newest exception's time, the records written before that time, and those of that time in their order (R199) -/
  excTime : Nat
  excBase : Nat
  excTies : List (Nat × List (BitVec 8))
  areaFull : Bool
  deriving DecidableEq, Repr

/-- A COPY queued or running on a Lighter (R239). -/
structure CopyJob where
  cmd : Nat
  lighter : Nat
  src : BitVec 64
  dst : BitVec 64
  len : Nat
  srcKey : BitVec 32
  dstKey : BitVec 32
  tc : BitVec 3
  running : Bool
  /-- bytes whose transfer has been begun -/
  issued : Nat
  poisoned : Nat
  fail : Option (BitVec 8)
  deriving DecidableEq, Repr

/-- A collective data packet received and not yet used (R289, R301). -/
structure RxPkt where
  gather : Bool
  src : Coord
  chunk : Nat
  index : Nat
  payload : List (BitVec 8)
  deriving DecidableEq, Repr

/-- A started bucket (R285 to R292). -/
structure Bucket where
  cmd : Nat
  slot : Nat
  group : Nat
  job : BitVec 16
  id : BitVec 32
  elems : Nat
  wire : BitVec 2
  spk : BitVec 2
  sfmt : BitVec 4
  dfmt : BitVec 4
  ccw : BitVec 16
  tclass : BitVec 8
  ledger : BitVec 8
  /-- agreed starting exponent, 0xFF for none (R297, R354) -/
  e0 : BitVec 8
  src : Nat
  dst : Nat
  res : Nat
  /-- members whose BKT_READY has arrived -/
  ready : List Coord
  rx : List RxPkt
  /-- chunks reduced by this member, and chunks gathered -/
  reduced : Nat
  gathered : Nat
  nonfinite : Bool
  poison : Bool
  amax : F32
  deadline : Nat
  deriving DecidableEq, Repr

/-- The exchange of arrivals and releases of one barrier, or of the start of a PERMUTE (R306, R310). -/
structure BarrierRun where
  cmd : Nat
  group : Nat
  job : BitVec 16
  /-- VALUE of the exchange: the member's epoch at its arrival, or PERM_ID -/
  value : BitVec 32
  arrivedAt : Nat
  /-- predecessors whose arrival has been received -/
  arrived : List Coord
  /-- a failure has reached this member -/
  failed : Bool
  sent : Bool
  abortAt : Option Nat
  /-- at the root: when a BAR_ABORT for its epoch came in -/
  abortSeen : Option Nat
  /-- released with OK: the switch of R33 waits for its time -/
  released : Bool
  deriving DecidableEq, Repr

/-- A PERM_DATA packet received and not yet used (R301, R307). -/
structure PermPkt where
  seg : Nat
  chunk : Nat
  index : Nat
  payload : List (BitVec 8)
  deriving DecidableEq, Repr

/-- A PERMUTE (R305 to R308). -/
structure PermuteRun where
  cmd : Nat
  group : Nat
  job : BitVec 16
  id : BitVec 32
  segs : Nat
  /-- 64 KiB chunks of a segment -/
  units : Nat
  /-- destination segment of each global segment -/
  table : List Nat
  base : Nat
  /-- the start exchange; none once it has been released with OK -/
  exchange : Option BarrierRun
  /-- steps of this member done, in the order of R307 -/
  stepsDone : Nat
  /-- packets received and not yet used: their segment, chunk, index and payload -/
  rx : List PermPkt
  deadline : Nat
  deriving DecidableEq, Repr

/-- What a span or block of an UPDATE_STEP comes to (R321, R322, R328, R329, R335). -/
structure UpdSpan where
  engine : Nat
  tclass : BitVec 8
  flags : BitVec 6
  elems : Nat
  nonfin : Nat
  /-- non-finite gradients, counted in the class of its entry -/
  grads : Nat
  poison : Nat
  /-- the first poisoned address, and the code of its range -/
  first : Option (Nat × Nat)
  roots : Nat
  /-- recomputed roots that failed: entry, block and side -/
  rootFails : List (Nat × Nat × Nat)
  deriving DecidableEq, Repr

/-- An UPDATE_STEP that waits for its cores, or whose spans have been applied and which has not committed (R325 to R331,
R336). -/
structure UpdateRun where
  cmd : Nat
  applied : Bool
  skipped : Bool
  /-- some entry was left whole as frozen -/
  frozen : Bool
  spans : List UpdSpan
  cores : List Nat
  deriving DecidableEq, Repr

/-- A SNAPSHOT (R360, R361). -/
structure SnapRun where
  cmd : Nat
  ctx : Nat
  epoch : BitVec 32
  src : Nat
  dst : Nat
  len : Nat
  stamp : Nat
  /-- the switch time and the job's SR_STEP then, once the epoch is reached -/
  reached : Option (Nat × BitVec 64)
  copying : Bool
  poisoned : Nat
  deriving DecidableEq, Repr

/-- A handoff channel beside its dictionary entries (R366 to R371). -/
structure Channel where
  /-- line 1 at a sender: POSTED_SEQ and LIMIT; at a receiver: CONSUMED -/
  posted : BitVec 32
  limit : Nat
  produced : Nat
  /-- sender: the highest PRODUCED written toward the receiver -/
  told : Nat
  /-- a write of line 1 to the sender waits for room in the tracker -/
  lineDue : Bool
  /-- SEQ of the last committed SEND -/
  lastSent : Option (BitVec 32)
  /-- the started HANDOFF, by its command -/
  active : Option Nat
  /-- sender: first chunk number of the micro-batch, its chunks begun, and its bytes handed to the fabric -/
  base : Nat
  begun : Nat
  issued : Nat
  /-- sender: POSTED_SEQ has matched -/
  matched : Bool
  /-- sender: an abort, with its time and epoch, stops it at the next chunk boundary -/
  stop : Option (Nat × BitVec 32)
  /-- time of the last change of line 0 or line 1 -/
  progressAt : Nat
  stallAt : Option Nat
  deriving DecidableEq, Repr

/-- An entry of a retention pool (R375). -/
structure PoolEntry where
  tag : BitVec 32
  offset : Nat
  bytes : Nat
  length : Nat
  pins : Nat
  filled : Bool
  deriving DecidableEq, Repr

/-- A retention pool: where the next allocation begins, and its entries, oldest first (R375). -/
structure Pool where
  head : Nat
  entries : List PoolEntry
  deriving DecidableEq, Repr

/-- A command ring (R68, R76). RING_STATE is its dictionary entry. -/
structure Ring where
  head : Nat
  tail : Nat
  deriving DecidableEq, Repr

/-- A completion record before it is written: its commit point, its command's ring and position, and its bits (R73). -/
structure CqRecord where
  time : Nat
  ring : Nat
  pos : Nat
  bits : BitVec 256
  deriving DecidableEq, Repr

/-- A barrier or a PERMUTE that has ended on this member while arrivals of it may still come: when, its job, group and value,
and the members whose arrival has come (R306, R310). -/
structure EndedExchange where
  time : Nat
  job : BitVec 16
  group : Nat
  value : BitVec 32
  arrived : List (BitVec 12)
  deriving DecidableEq, Repr

/-- A completion ring (R68, R73, R74). -/
structure CqRing where
  /-- the last CQ_HEAD seen -/
  head : Nat
  tail : Nat
  phase : Bool
  /-- records that wait, for room or for an earlier record, in their order -/
  waiting : List CqRecord
  /-- the records written last that have one commit point, in their order (R73) -/
  ties : List CqRecord
  stalled : Bool
  deriving DecidableEq, Repr

/-- What the dispatcher and the other owners of rings watch for a write by any master (R67, R367, R395, R458). -/
inductive Monitor where
  | tail (ring : Nat)
  | cqHead (cq : Nat)
  | logHead
  | tallyHead
  /-- line 1 of a handoff channel's control block (R367) -/
  | handoff (channel : Nat)
  deriving DecidableEq, Repr

/-- The dispatcher. -/
structure Disp where
  rings : SMap Ring
  cqs : SMap CqRing
  /-- the ring served last at each priority (R72) -/
  served : SMap Nat
  nextSerial : Nat
  /-- commands taken and not committed, in the order taken -/
  cmds : List Cmd
  /-- (ring, CMD_ID) of committed commands, newest first, at most 256 per ring (R75) -/
  recent : List (Nat × BitVec 32)
  /-- (ring, position) of commands that an abort has removed from their ring before they were taken (R75) -/
  removed : List (Nat × Nat)
  /-- address monitors that are armed, by their 128-byte line, and those that have seen a write (R67) -/
  armed : List (Nat × Monitor)
  woken : List Monitor
  launches : List Launch
  copies : List CopyJob
  buckets : List Bucket
  /-- collective control flits that came before the command they are for: BKT_READY, BAR_ARRIVE, BAR_ABORT with its time,
  BAR_RELEASE -/
  readies : List CollFlit
  arrivals : List CollFlit
  barAborts : List (Nat × CollFlit)
  barReleases : List CollFlit
  /-- by context, the last barrier that ended without an epoch change; by group, the last PERMUTE that ended without a
  result (R308, R310) -/
  barEnds : SMap EndedExchange
  permEnds : SMap EndedExchange
  permutes : List PermuteRun
  updates : List UpdateRun
  snaps : List SnapRun
  /-- by numerics slot, the time of its last commit points, with the steps and the flags that those of that time added
  (R102, R343) -/
  ended : SMap (Nat × Nat × BitVec 6)
  /-- the time at which the rule banks were last copied for an epoch (R317) -/
  ruleTie : Option Nat
  deriving DecidableEq, Repr

/-! ### Fabric -/

/-- Whose transaction an entry of the tracker is (R266). -/
inductive TxOwner where
  /-- a held instruction: its lanes with the byte offset of each lane's operand in the payload -/
  | held (core slot : Nat) (lanes : List (Nat × Nat))
  | posted (core slot lane : Nat)
  /-- a COPY's read; the bytes go to this global address -/
  | copyRead (cmd : Nat) (dst : BitVec 64)
  | copyWrite (cmd : Nat)
  /-- a HANDOFF's write to its peer: data of a chunk, progress of a chunk, or line 1; command 0 is a write of line 1
  while no RECV runs -/
  | chunk (cmd : Nat) (n : Nat)
  | progress (cmd : Nat) (n : Nat)
  | line1 (cmd : Nat)
  | mirror (slot : Nat)
  deriving DecidableEq, Repr

/-- An outstanding transaction (R266, R267). -/
structure Tx where
  tag : Nat
  seq : Nat
  dst : Coord
  /-- the port by which its route leaves -/
  port : Nat
  op : BitVec 8
  addr : BitVec 64
  size : Nat
  deadline : Nat
  owner : TxOwner
  /-- the packets of a store of one line that are not answered yet, by local address and bytes; empty where the
  transaction is one packet -/
  left : List (Nat × Nat)
  /-- the devices at which an MC.ST.64 delivers (R271) -/
  reach : List Coord
  /-- an INVALIDATE of the line has come since a load was sent (R274) -/
  stale : Bool
  deriving DecidableEq, Repr

/-- An operation performed at this home that completes when its INV_ACKs are in (R274). -/
structure InvWait where
  /-- the acknowledgements to come, by the line, local address div 128, and the sharer: one for each INVALIDATE of the line
  that the sharer has not acknowledged -/
  waiting : List (Nat × Coord)
  /-- the response to give, to this device itself when its DST is the device; none for a write of this device's own
  engines or host -/
  response : Option Packet
  deriving DecidableEq, Repr

/-- A line of the domain line cache (R273). -/
structure CacheLine where
  home : Coord
  line : Nat
  key : BitVec 32
  words : List (BitVec 80)
  deriving DecidableEq, Repr

/-- Port states of R250, codes 0 to 6 in this order. -/
inductive PortState where
  | down | training | up | degraded | resize | parked | disabled
  deriving DecidableEq, Repr

/-- A packet that waits at an output port: the input it came by, 4 for the device's own injection, and the pool of that
input's ingress buffer that it still fills (R248, R259). -/
structure Queued where
  input : Nat
  pool : Option Nat
  packet : Packet
  deriving DecidableEq, Repr

/-- A fabric port beside its dictionary entries. -/
structure Port where
  state : PortState
  /-- lanes found bad (R249) -/
  badLanes : BitVec 40
  /-- groups agreed in use -/
  groups : BitVec 5
  /-- the link's groups at the peer, from IDENT or a resize -/
  peerGroups : BitVec 5
  txSeq : BitVec 12
  rxSeq : BitVec 12
  nak : Bool
  /-- flits sent and not acknowledged, oldest first (R246) -/
  replay : List (BitVec 12 × List (BitVec 8))
  resends : Nat
  /-- credits held for each pool (R248) -/
  credits : SMap Nat
  /-- slots that have left the buffers and have not been returned to the peer, by pool (R248) -/
  owed : SMap Nat
  /-- packets waiting to be sent, oldest first -/
  txq : List Queued
  /-- slots of the packet being sent, each with whether it is the first of its packet, and the input and pool that they
  leave -/
  txSlots : List (Bool × List (BitVec 8))
  txFrom : Option (Nat × Nat)
  /-- the weighted round robin: what each virtual channel and class has used of its round, the one served last, and the
  input served last in each (R259) -/
  wrrUsed : SMap Nat
  wrrLast : Nat
  lastInput : SMap Nat
  /-- 16-byte slots of a packet that is being received -/
  rxSlots : List (List (BitVec 8))
  /-- packets delivered and not yet served, and those of an earlier link, whose slots the peer no longer counts (R248) -/
  rxq : List Packet
  rxOld : List Packet
  /-- control flits waiting to be sent: slot 1 -/
  ctrlq : List (BitVec 128)
  /-- the last IDENT received in this link, and PORT_EXPECT_SERIAL as it was then (R254) -/
  ident : Option IdentFlit
  expect : Nat
  /-- coordinates last accepted, for the fence (R381) -/
  accepted : Option Coord
  /-- a resize under way: its mask, switch SEQ, and the lane that caused it -/
  resizing : Option (BitVec 5 × BitVec 12 × BitVec 8)
  /-- the lane in the spare-lane slot, and lanes retuned in the pass -/
  recalLane : Option (BitVec 6)
  recalDone : Nat
  /-- the port went DOWN from UP, DEGRADED or RESIZE at this time, with this cause -/
  lostAt : Option (Nat × BitVec 8)
  /-- the last attempt to train, and the last flit with a good CRC (R247, R250) -/
  retryAt : Option Nat
  lastGood : Nat
  /-- when each removed group left the link (R251) -/
  groupAt : SMap Nat
  /-- the groups over which the stream is striped, the SEQ from which on those in use take over, and the place among the
  active lanes where the next slot goes (R245, R251) -/
  stripe : BitVec 5
  switchAt : Option (BitVec 12)
  lanePos : Nat
  /-- flits sent since the last idle one (R469) -/
  sinceIdle : Nat
  deriving DecidableEq, Repr

/-- The cross-bar ring's share of the fabric. -/
structure Fabric where
  ports : SMap Port
  /-- region entries 0 to 4,095 (R269) -/
  regions : SMap (BitVec 128)
  tracker : List Tx
  /-- tags of transactions that have ended without their responses, oldest first, with the responses still to come: they are
  not used again while others are free (R267, log 81) -/
  late : List (Nat × Nat)
  nextSeq : Nat
  invWaits : List InvWait
  /-- directory: line number and sharers, most recently used first (R273) -/
  directory : List (Nat × List Coord)
  /-- line cache, most recently filled first -/
  lineCache : List CacheLine
  /-- symbols corrected and codewords not corrected since reset, of port 0, then of port 1, and so on (R280) -/
  fec : List Nat
  deriving DecidableEq, Repr

/-! ### Harbourmaster, flash and security -/

/-- A mailbox: the control block of R50 and its value bytes. -/
structure Mailbox where
  op : BitVec 2
  index : BitVec 16
  sub : BitVec 8
  seq : BitVec 16
  length : Nat
  bufAddr : BitVec 64
  status : BitVec 8
  doneTime : Nat
  done : Bool
  go : Bool
  value : List (BitVec 8)
  deriving DecidableEq, Repr

/-- A frame that the device sends: the fields of its header but VERSION and LENGTH, and its payload (R54). -/
structure OutFrame where
  dst : BitVec 48
  ftype : BitVec 8
  seq : BitVec 16
  index : BitVec 16
  sub : BitVec 8
  status : BitVec 8
  flags : BitVec 8
  dtype : BitVec 8
  xfer : BitVec 32
  payload : List (BitVec 8)
  deriving DecidableEq, Repr

/-- A segmented transfer (R58). -/
structure Xfer where
  id : BitVec 32
  mac : BitVec 48
  seq : BitVec 16
  index : BitVec 16
  sub : BitVec 8
  upload : Bool
  total : Nat
  /-- bytes: received so far for a download, the whole value for an upload -/
  data : List (BitVec 8)
  /-- segments acknowledged, and sent for an upload -/
  acked : Nat
  sent : Nat
  /-- a download whose last segment has come: its write is being served -/
  committing : Bool
  /-- the last progress, and the last frame of the client -/
  progressAt : Nat
  heardAt : Nat
  deriving DecidableEq, Repr

/-- A flash write in progress, with the request that waits for it. -/
inductive FlashJob where
  | save (set : SMap Nat) (via : OdPath)
  | erase (via : OdPath)
  | image (slot : Bool) (header : BitVec 2048) (body : List (BitVec 8)) (via : OdPath)
  | record (rtype : BitVec 8) (seq : BitVec 64) (bytes : List (BitVec 8)) (via : OdPath)
  /-- an enrolment: the secret drawn (R437) -/
  | enrol (secret : BitVec 256) (seq : BitVec 64) (via : OdPath)
  /-- a repair-map record that the Harbourmaster signs itself (R391) -/
  | repair (bytes : List (BitVec 8))
  deriving DecidableEq, Repr

/-- The Harbourmaster's request handling. -/
structure Harbour where
  mailboxes : SMap Mailbox
  /-- responses kept, newest first: source MAC, SEQ, frame (R56) -/
  kept : List (BitVec 48 × BitVec 16 × OutFrame)
  xfers : List Xfer
  nextXfer : BitVec 32
  /-- frames counted by each cyclic channel since it was enabled (R60) -/
  cycCount : SMap (BitVec 32)
  /-- when each enabled channel last sampled, or was enabled -/
  cycAt : SMap Nat
  /-- the last PRESENCE frame -/
  presenceAt : Option Nat
  flashJob : Option FlashJob
  /-- slots of each cluster that the repair map records (R391), and whether a record of it is still to be written -/
  repairMap : SMap Nat
  repairDue : Bool
  /-- JOB_OPENs that wait for a disruptive self-test to stop, oldest first (R398) -/
  jobOpenWait : List (OdPath × BitVec 16)
  deriving DecidableEq, Repr

/-- The flash outside the package (R427): all that the device keeps in OFF. -/
structure Flash where
  /-- its bytes, by offset; a byte that is not listed is erased, and reads as 0xFF -/
  cells : SMap (BitVec 8)
  deriving DecidableEq, Repr

/-- Progress of an erase (R441). -/
inductive ErasePhase where
  | none
  /-- keys zeroed; the marker is due -/
  | marker
  /-- the helper copies are due -/
  | helper
  deriving DecidableEq, Repr

/-- The Pilot and the Breakwater (R425 to R446). -/
structure Sec where
  /-- identity key register; none when zeroed or not derived -/
  identityKey : Option (BitVec 256)
  pufBuffer : BitVec 256
  smRegs : BitVec 256
  identityPub : BitVec 512
  challenge : BitVec 256
  quote : List (BitVec 8)
  imageHeader : BitVec 2048
  /-- public key of the valid owner certificate (R426) -/
  ownerKey : Option (BitVec 512)
  /-- times of the last signature failures, newest first (R439) -/
  sigFails : List Nat
  erase : ErasePhase
  deriving DecidableEq, Repr

/-! ### Log, watch, counters, governor, self-test, scrub -/

/-- An event record (R14). -/
structure Event where
  /-- the model's own: records of one source and time with one `edge` are of one clock edge (R30, log 14) -/
  edge : Nat
  payload : BitVec 128
  severity : BitVec 2
  kind : BitVec 14
  srcType : BitVec 8
  srcInst : BitVec 8
  epoch : BitVec 32
  time : Nat
  deriving DecidableEq, Repr

/-- An action that its source holds while the buffers of the sources named are full (R393): the command, where it is one
that happens by itself once a place is free. -/
structure HeldAction where
  sources : List (BitVec 16)
  cmd : Option Instr
  /-- the epoch and time of its events, which the hold does not change (R29) -/
  epoch : BitVec 32
  time : Nat
  deriving DecidableEq, Repr

/-- The event-log collector (R393 to R396). -/
structure Log where
  /-- records on their way or held in the sort, in the order logged -/
  ingress : List Event
  /-- held actions, oldest first (R393) -/
  held : List HeldAction
  /-- the on-die log, newest first, at most 4,096 records -/
  ondie : List Event
  /-- (epoch, time, source) of the last record released in order -/
  lastKey : Option (BitVec 32 × Nat × BitVec 16)
  ringTail : Nat
  /-- the last LOG_HEAD seen -/
  ringHead : Nat
  /-- records left out of the ring in the drop period in progress -/
  dropping : Nat
  lastSignal : Option Nat
  deferred : Bool
  /-- a rate limit: key of block, times of the records logged in the last second, newest first, and records suppressed -/
  ceRate : SMap (List Nat × Nat)
  keyRate : SMap (List Nat × Nat)
  deriving DecidableEq, Repr

/-- What an attachment of a scale ledger samples (R356). -/
structure Ledger where
  depth : Nat
  margin : Nat
  warmup : Nat
  deriving DecidableEq, Repr

/-- A record of a roll on its way to the mirror: global address, bytes, and the poison mask of its units. -/
structure MirrorRec where
  addr : Nat
  bytes : List (BitVec 8)
  pmask : BitVec 32
  deriving DecidableEq, Repr

/-- The mirror writes of one roll that are still to be sent, with its job, key and step (R355). -/
structure MirrorRoll where
  job : BitVec 16
  key : BitVec 32
  step : BitVec 64
  recs : List MirrorRec
  deriving DecidableEq, Repr

/-- The mirror of a slot: the roll whose writes go on, those of it that failed with the first failure's status, and the
rolls that wait for it, oldest first. -/
structure Mirror where
  roll : Option MirrorRoll
  failed : Nat
  status : BitVec 8
  wait : List MirrorRoll
  deriving DecidableEq, Repr

/-- The training watch beside its dictionary entries. -/
structure Watch where
  ledgers : SMap Ledger
  mirrors : SMap Mirror
  /-- classes for which NF_SEEN has been logged since the last sample point (R342) -/
  nfSeen : BitVec 16
  /-- the job of the evaluation side, as EVAL_COMMIT applied it (R357, R358) -/
  evalJob : BitVec 16
  deriving DecidableEq, Repr

/-- A device-wide counter switch that waits for T (R456). -/
inductive CountOp where
  | freeze | restart | clear
  deriving DecidableEq, Repr

/-- A slot of a core that an instruction used: the event of its class (R197), and the instruction class. -/
structure SlotUse where
  core : Nat
  ev : Nat
  cls : Nat
  deriving DecidableEq, Repr

/-- A dump at T_k: its records up to their reserved bytes, in the order of R458, and whether the ring had room for them. -/
structure TallyLatch where
  time : Nat
  records : List (List (BitVec 8))
  room : Bool
  deriving DecidableEq, Repr

/-- Counters and the Tally beside their dictionary entries. -/
structure Tally where
  frozen : Bool
  countPending : Option (Nat × CountOp)
  dumpNo : Nat
  tail : Nat
  /-- the last TALLY_HEAD seen -/
  head : Nat
  /-- a dump latched and not yet in HBM: its number and records -/
  writing : Option (Nat × Nat)
  skipping : Bool
  /-- slots that instructions have used and no core cycle has taken yet, oldest first (R197, log 22) -/
  slots : List SlotUse
  /-- the dump that the blocks have latched (R457) -/
  latch : Option TallyLatch
  deriving DecidableEq, Repr

/-- The governor beside its dictionary entries (R417 to R422). -/
structure Gov where
  /-- when the headroom of R421 began -/
  headroomAt : Option Nat
  /-- when the clock last fell below 2,250 MHz -/
  limitedAt : Option Nat
  /-- the last thermal step down -/
  thermalAt : Option Nat
  deriving DecidableEq, Repr

/-- A self-test action (R398). -/
structure SelfTest where
  action : BitVec 8
  target : BitVec 8
  running : Bool
  since : Nat
  deriving DecidableEq, Repr

/-- A scrub pass over one memory: the next address, when the pass began, and its period in ns (R236). -/
structure ScrubPass where
  next : Nat
  since : Nat
  period : Nat
  deriving DecidableEq, Repr

/-- The patrol scrubber: the pass of each memory that has begun one, and words corrected in the pass over HBM (R236). -/
structure Scrub where
  hbm : Option ScrubPass
  locals : SMap ScrubPass
  buffers : SMap ScrubPass
  hbmCorrected : Nat
  deriving DecidableEq, Repr

/-- What the device shows outside. -/
inductive Output where
  /-- an MSI-X message: its vector, and the address and data of the vector's entry in the table -/
  | msix (vector : Nat) (addr : BitVec 64) (data : BitVec 32)
  /-- a Theost frame: its destination, and its bytes from the EtherType on -/
  | frame (dst : BitVec 48) (bytes : List (BitVec 8))
  /-- a flit, with the lane that each of its slots goes to (R245) -/
  | flit (port : Nat) (bytes : List (BitVec 8)) (lanes : List Nat)
  /-- answer to a BAR2 read: bytes, and whether it carries the Poisoned attribute -/
  | hostRead (bytes : List (BitVec 8)) (poisoned : Bool)
  /-- an Unsupported Request completion (R47) -/
  | unsupported
  | cfgData (data : BitVec 32)
  /-- Request Retry Status (R47) -/
  | cfgRetry
  | jtag (data : List (BitVec 8))
  deriving DecidableEq, Repr

/-- The state of the device and the queue of commands that wait. -/
structure State where
  pending : List Instr
  free : Nat
  clk : Clock
  dev : Dev
  pcie : PcieCfg
  /-- numeric entries of the object dictionary, key 256 × index + subindex, where they differ from the default -/
  od : SMap Nat
  /-- data bytes by local address (R222) -/
  mem : List Host.Cell
  /-- bits [79:64] of each code word: PARITY, POISON, CHECK (R229); key local address div 8 -/
  side : SMap (BitVec 16)
  /-- set where unlisted HBM holds free values in place of zero: after a pattern test that was stopped (R399) -/
  hbmNoise : Option Nat
  racy : List RacyWord
  /-- pseudo-channels of which one read's data will be delivered as poisoned after failed retries (R232) -/
  hbmReadFails : List Nat
  cores : SMap Core
  disp : Disp
  /-- open barriers by context, and epoch switches: T, epoch, and the command that completes after it (R33) -/
  barriers : SMap BarrierRun
  epochs : SMap (Nat × BitVec 32 × Option Nat)
  fab : Fabric
  channels : SMap Channel
  pools : SMap Pool
  hm : Harbour
  flash : Flash
  sec : Sec
  log : Log
  watch : Watch
  tally : Tally
  gov : Gov
  selftest : Option SelfTest
  scrub : Scrub
  /-- newest first -/
  out : List Output
  deriving DecidableEq, Repr

/-! ### The state after reset -/

/-- A core as it is enabled: no group, tokens FREE, tags empty, pairs zero, arrays gated (R136, R142, R152, R414). -/
def Core.idle : Core :=
  { launch := none, halted := false, groups := [], tokens := [], ops := [], acc := [], accMark := [], wbuf := [],
    wPoison := [], wScale := [], wTags := [], awake := 0, wakes := [], streamAt := [], gateIdle := 4096, flagLast := 0,
    flagSticky := 0, cycBase := 0, cycEnd := none, stopAt := none }

/-- Configuration space after a reset: D0, MSI-X off, and every vector masked (log 19). -/
def PcieCfg.initial : PcieCfg :=
  { bar0 := 0, bar2 := 0, bar4 := 0, memEnable := false, d3hot := false, msixEnable := false, functionMask := false
    msixTable := [], msixPending := 0, other := [] }

/-- A port with no link. -/
def Port.initial : Port :=
  { state := .down, badLanes := 0, groups := 0, peerGroups := 0, txSeq := 0, rxSeq := 0, nak := false, replay := [],
    resends := 0, credits := [], owed := [], txq := [], txSlots := [], txFrom := none, wrrUsed := [], wrrLast := 0,
    lastInput := [], rxSlots := [], rxq := [], rxOld := [], ctrlq := [], ident := none, expect := 0, accepted := none,
    resizing := none, recalLane := none, recalDone := 0, lostAt := none, retryAt := none, lastGood := 0, groupAt := [],
    stripe := 0, switchAt := none, lanePos := 0, sinceIdle := 0 }

/-- A handoff channel as a reset leaves it (R366). -/
def Channel.initial : Channel :=
  { posted := 0xFFFFFFFF, limit := 0, produced := 0, told := 0, lineDue := false, lastSent := none, active := none,
    base := 0, begun := 0, issued := 0, matched := false, stop := none, progressAt := 0, stallAt := none }

/-- A mailbox control block at its reset value (R50). -/
def Mailbox.initial : Mailbox :=
  { op := 0, index := 0, sub := 0, seq := 0, length := 0, bufAddr := 0, status := 0, doneTime := 0, done := false,
    go := false, value := [] }

def Disp.initial : Disp :=
  { rings := [], cqs := [], served := [], nextSerial := 1, cmds := [], recent := [], removed := [], armed := [], woken := [],
    launches := [], copies := [], buckets := [], readies := [], arrivals := [], barAborts := [], barReleases := [],
    barEnds := [], permEnds := [], permutes := [], updates := [], snaps := [], ended := [], ruleTie := none }

def Fabric.initial : Fabric :=
  { ports := [], regions := [], tracker := [], late := [], nextSeq := 0, invWaits := [], directory := [], lineCache := []
    fec := List.replicate 8 0 }

def Harbour.initial : Harbour :=
  { mailboxes := [], kept := [], xfers := [], nextXfer := 1, cycCount := [], cycAt := [], presenceAt := none,
    flashJob := none, repairMap := [], repairDue := false, jobOpenWait := [] }

def Scrub.initial : Scrub := { hbm := none, locals := [], buffers := [], hbmCorrected := 0 }

def Sec.initial : Sec :=
  { identityKey := none, pufBuffer := 0, smRegs := 0, identityPub := 0, challenge := 0, quote := [],
    imageHeader := 0, ownerKey := none, sigFails := [], erase := .none }

def Log.initial : Log :=
  { ingress := [], held := [], ondie := [], lastKey := none, ringTail := 0, ringHead := 0, dropping := 0, lastSignal := none,
    deferred := false, ceRate := [], keyRate := [] }

def Flash.blank : Flash := ⟨[]⟩

def Tally.initial : Tally :=
  { frozen := false, countPending := none, dumpNo := 0, tail := 0, head := 0, writing := none, skipping := false
    slots := [], latch := none }

/-- Everything that is lost in OFF (R410), with the flash, the pins (the strap lands among them), the queue, the outputs
and the free-value position kept from `s`. -/
def State.off (s : State) : State :=
  { pending := s.pending, free := s.free
    clk := { now := 0, lastRef := 0, holdoverAt := 0, coreCyc := 0 }
    dev := { state := .off, pwrGood := s.dev.pwrGood, resetN := s.dev.resetN, perstN := s.dev.perstN,
             thermtrip := s.dev.thermtrip, offHold := s.dev.offHold, straps := s.dev.straps, resetAt := none, drainAt := none,
             linkUp := false, romFault := false, hbmDone := 0, clustersOn := 0, stepAt := 0 }
    pcie := PcieCfg.initial
    od := [], mem := [], side := [], hbmNoise := none, racy := [], hbmReadFails := [], cores := [], disp := .initial
    barriers := [], epochs := []
    fab := .initial, channels := [], pools := [], hm := .initial, flash := s.flash, sec := .initial, log := .initial
    watch := { ledgers := [], mirrors := [], nfSeen := 0, evalJob := 0 }
    tally := .initial
    gov := { headroomAt := none, limitedAt := none, thermalAt := none }
    selftest := none, scrub := .initial, out := s.out }

/-- The machine in reset: OFF, with nothing volatile held (R410), PWR_GOOD, RESET_N and PERST_N low, a blank flash
(log 6) and no command waiting. RESET_RELEASE starts it. -/
def State.reset : State :=
  { pending := [], free := 0
    clk := { now := 0, lastRef := 0, holdoverAt := 0, coreCyc := 0 }
    dev := { state := .off, pwrGood := false, resetN := false, perstN := false, thermtrip := false, offHold := .none,
             straps := 0, resetAt := none, drainAt := none, linkUp := false, romFault := false, hbmDone := 0,
             clustersOn := 0, stepAt := 0 }
    pcie := PcieCfg.initial
    od := [], mem := [], side := [], hbmNoise := none, racy := [], hbmReadFails := [], cores := [], disp := .initial
    barriers := [], epochs := []
    fab := .initial, channels := [], pools := [], hm := .initial, flash := .blank, sec := .initial, log := .initial
    watch := { ledgers := [], mirrors := [], nfSeen := 0, evalJob := 0 }
    tally := .initial
    gov := { headroomAt := none, limitedAt := none, thermalAt := none }
    selftest := none, scrub := .initial, out := [] }

end Sys2Proof.Machine
end

