-- ==== Sys2Proof/Machine/Ops.lean ====
section
/-!
DEFINITION. The shared operations of the machine: outcomes, free values, the object-dictionary store, time and epochs,
the event log's sources, outputs, cores and groups, memory words with their checker, and counters.
-/

namespace Sys2Proof.Machine

/-- The outcome of a command. -/
abbrev Outcome := Host.Outcome State Fault Refusal

/-! ### Status codes (R9) -/

abbrev Status := BitVec 8

namespace Status
def ok : Status := 0x00
def busy : Status := 0x01
def refused : Status := 0x02
def alreadyDone : Status := 0x03
def aborted : Status := 0x04
def notFound : Status := 0x05
def keyMismatch : Status := 0x06
def frozen : Status := 0x07
def nonfiniteSkip : Status := 0x08
def planMismatch : Status := 0x09
def poisoned : Status := 0x0A
def timeout : Status := 0x0B
def denied : Status := 0x0C
def samegrp : Status := 0x0D
def degraded : Status := 0x0E
end Status

/-- The first status of a list of conditions in the order of R11 whose condition holds. -/
def firstStatus : List (Bool × Status) → Option Status
  | [] => none
  | (c, st) :: r => if c then some st else firstStatus r

/-! ### Free values (log 5) -/

/-- The next free value, and the state with the position advanced. -/
def State.fresh (s : State) : Nat × State := (Config.freeNat s.free, { s with free := s.free + 1 })

/-! ### The object-dictionary store (R36, R40) -/

/-- The value held under a key. -/
def State.odGet (s : State) (k : Nat) : Nat := SMap.get (odDefault k) s.od k

/-- The value that the hardware acts on, of a saved entry: until the last step of a start applies the saved values, the
default (R411, log 77). -/
def State.acting (s : State) (k : Nat) : Nat := if s.dev.state = .init then odDefault k else s.odGet k

/-- The value held under a key becomes `v`. -/
def State.odSet (s : State) (k v : Nat) : State := { s with od := SMap.set (odDefault k) s.od k v }

/-- A counter entry counts `n` more; 64-bit counters do not wrap in service. -/
def State.odAdd (s : State) (k n : Nat) : State := s.odSet k ((s.odGet k + n) % 2 ^ 64)

/-- The entry returns to its default. -/
def State.odReset (s : State) (k : Nat) : State := s.odSet k (odDefault k)

/-- Several entries return to their defaults. -/
def State.odResets (s : State) (ks : List Nat) : State := ks.foldl State.odReset s

/-! ### Time and epochs (R27, R33, R447) -/

/-- The core clock in MHz. -/
def State.coreMHz (s : State) : Nat := s.odGet Od.coreClockMhz

/-- The core islands are enabled: from the first cluster enable until OFF (R414). -/
def State.coresOn (s : State) : Bool := decide (0 < s.dev.clustersOn)

/-- Source of a record (R14). -/
def Event.source (e : Event) : BitVec 16 := e.srcType ++ e.srcInst

/-- The source of a core's events. -/
def coreSource (n : Nat) : BitVec 16 := (0x03 : BitVec 8) ++ BitVec.ofNat 8 n

/-- The buffer of a source is full: four of its records stand behind the 256 that the collector's ingress holds (R393). -/
def Log.full (l : Log) (src : BitVec 16) : Bool := decide (4 ≤ ((l.ingress.drop 256).filter fun e => decide (e.source = src)).length)

/-- Some source's buffer is full. -/
def Log.anyFull (l : Log) : Bool := (l.ingress.drop 256).any fun e => l.full e.source

/-- A source takes no event of a new action: its buffer is full, or an action that it holds comes first. -/
def Log.closed (l : Log) (src : BitVec 16) : Bool := l.full src || l.held.any fun h => h.cmd.isSome && h.sources.contains src

/-- Every source takes events. -/
def Log.roomy (l : Log) : Bool := !l.anyFull && l.held.all fun h => h.cmd.isNone

/-- Some source is held: its buffer is full, and an action of it waits (R393). -/
def Log.holding (l : Log) : Bool := l.held.any fun h => h.sources.any l.full

/-- Records of a source on their way. -/
def Log.count (l : Log) (src : BitVec 16) : Nat := (l.ingress.filter fun e => decide (e.source = src)).length

/-- Core clock cycles counted so far. -/
def State.coreCycles (s : State) : Nat := s.clk.coreCyc / 1000

/-- The epoch of a barrier context (R33). -/
def State.epoch (s : State) (ctx : Nat) : BitVec 32 := BitVec.ofNat 32 (s.odGet (Od.epochCtx ctx))

/-- `b` is later than `a` (R35). -/
def epochLater (a b : BitVec 32) : Bool := decide (0 < (b - a).toInt)

/-! ### Outputs -/

/-- The device shows something outside. -/
def State.emit (s : State) (o : Output) : State := { s with out := o :: s.out }

/-- A 32-bit word of the MSI-X table: before a write, every vector's mask is set and the rest is zero (R473, log 19). -/
def PcieCfg.msixWord (c : PcieCfg) (i : Nat) : BitVec 32 := SMap.get (if i % 4 = 3 then 1 else 0) c.msixTable i

/-- The message of a vector. -/
def PcieCfg.message (c : PcieCfg) (v : Nat) : Output :=
  .msix v (c.msixWord (4 * v + 1) ++ c.msixWord (4 * v)) (c.msixWord (4 * v + 2))

/-- A vector is masked: by its own mask or by that of the function, or while the function is in D3hot or may not send
requests of its own (log 19). -/
def PcieCfg.masked (c : PcieCfg) (v : Nat) : Bool :=
  c.functionMask || c.d3hot || (c.msixWord (4 * v + 3)).getLsbD 0 || !(SMap.get 0 c.other 1).getLsbD 2

/-- An MSI-X vector is signalled: its message is sent, or, where the vector is masked, its pending bit is set. A message
that falls due while the link is down is lost (R407, R473). -/
def State.signal (s : State) (v : Nat) : State :=
  if s.dev.linkUp && s.pcie.msixEnable then
    (if s.pcie.masked v then
      { s with pcie := { s.pcie with msixPending := s.pcie.msixPending ||| BitVec.ofNat 73 (2 ^ v) } }
    else s.emit (s.pcie.message v))
  else s

/-- The pending messages whose vectors are no longer masked are sent, in the order of the vectors. -/
def State.sendPending (s : State) : State :=
  (List.range 73).foldl (fun s v =>
    if s.pcie.msixPending.getLsbD v && s.pcie.msixEnable && !s.pcie.masked v then
      { s with pcie := { s.pcie with msixPending := s.pcie.msixPending &&& ~~~BitVec.ofNat 73 (2 ^ v) } }.emit
        (s.pcie.message v)
    else s) s

/-- The function takes memory requests: Memory Space Enable is set, and it is in D0 (R47, R473). -/
def PcieCfg.takes (c : PcieCfg) : Bool := c.memEnable && !c.d3hot

/-! ### Events (R14, R393) -/

def sevInfo : BitVec 2 := 0
def sevWarning : BitVec 2 := 1
def sevError : BitVec 2 := 2
def sevFatal : BitVec 2 := 3

/-- A payload from its fields: first byte (16 to 31), bytes, value. -/
def payload : List (Nat × Nat × Nat) → BitVec 128
  | [] => 0
  | (b, n, v) :: r => BitVec.ofNat 128 (v % 2 ^ (8 * n) * 2 ^ (8 * (b - 16))) ||| payload r

/-- A source logs an event now. Every island's replica is taken equal to the generator's counter, where R16 and R28 let it
stand up to 1 tick off (log 67). -/
def State.event (s : State) (srcType srcInst kind : Nat) (sev : BitVec 2) (fields : List (Nat × Nat × Nat)) : State :=
  let e : Event :=
    { edge := s.pending.length, payload := payload fields, severity := sev, kind := BitVec.ofNat 14 kind, srcType := BitVec.ofNat 8 srcType,
      srcInst := BitVec.ofNat 8 srcInst, epoch := s.epoch 0, time := s.clk.now }
  { s with log := { s.log with ingress := s.log.ingress ++ [e] } }

/-- The events that `t` has logged since `s`, but for the collector's own LOG_DROPPED, which stands in no source's buffer. -/
def State.logged (s t : State) : List Event :=
  (t.log.ingress.drop s.log.ingress.length).filter fun e => !(decide (e.kind = 0x0804) && decide (e.srcType = 0x13))

/-- An action that leads to `t` would log an event of a source that takes none. -/
def State.noRoom (s t : State) : Bool := (s.logged t).any fun e => s.log.closed e.source

/-- What happens by itself waits while a source takes no event that it would log. -/
def State.ifRoom (s t : State) : State := if s.noRoom t then s else t

/-- The actions that are held. -/
def State.setHeld (s : State) (l : List HeldAction) : State := { s with log := { s.log with held := l } }

/-- The command acts, unless it would log an event of a source that takes none: the source then holds it, and nothing else
happens yet (R393). The commands that pass through OFF are never held (log 14). -/
def withRoom (c : Instr) (s : State) (o : Outcome) : Outcome :=
  match o with
  | .next t =>
    if s.noRoom t then
      let es := s.logged t
      .next (s.setHeld (s.log.held ++
        [⟨es.map Event.source, some c, (es.head?.map Event.epoch).getD 0, (es.head?.map Event.time).getD 0⟩]))
    else o
  | o => o

/-- The first held command that may act now: its sources take events, as far as the holds before it go. These stand before
it in the answer, and the later holds after it. -/
def firstHeld (l : Log) (before : List HeldAction) : List HeldAction → Option (List HeldAction × HeldAction × List HeldAction)
  | [] => none
  | h :: hs =>
    if h.cmd.isSome && !h.sources.any { l with held := before }.closed then some (before, h, hs)
    else firstHeld l (before ++ [h]) hs

/-- A group's issue is held at its core (R393). -/
def State.holdIssue (s : State) (core : Nat) : State :=
  let h : HeldAction := ⟨[coreSource core], none, 0, 0⟩
  if s.log.held.contains h then s else s.setHeld (s.log.held ++ [h])

/-- Holds of issues end with room in their core's buffer. -/
def State.freeIssues (s : State) : State :=
  s.setHeld (s.log.held.filter fun h => h.cmd.isSome || h.sources.any s.log.full)

/-! ### Cores and groups -/

def State.core (s : State) (n : Nat) : Core := SMap.get Core.idle s.cores n

def State.setCore (s : State) (n : Nat) (c : Core) : State := { s with cores := SMap.set Core.idle s.cores n c }

/-- The resident group of a slot, if there is one. -/
def State.group? (s : State) (g : GroupRef) : Option Group := SMap.find? (s.core g.core).groups g.slot

def State.setGroup (s : State) (g : GroupRef) (gr : Group) : State :=
  let c := s.core g.core
  s.setCore g.core { c with groups := SMap.put c.groups g.slot gr }

/-- The group leaves its slot. -/
def State.removeGroup (s : State) (g : GroupRef) : State :=
  let c := s.core g.core
  s.setCore g.core { c with groups := SMap.erase c.groups g.slot }

/-! ### Cores and clusters that are present (R18, R19, R357, R391, R392) -/

/-- Physical slots of a cluster that are left out in this start, as a mask. -/
def State.leftOut (s : State) (c : Nat) : Nat := s.odGet (Od.repairLeftOut c)

/-- The set bits of the low `n` bits. -/
def bitCount (v : Nat) : Nat → Nat
  | 0 => 0
  | n + 1 => bitCount v n + (if v.testBit n then 1 else 0)

/-- A logical core is mapped: enough slots of its cluster are in use (R19, R391). -/
def State.coreMapped (s : State) (n : Nat) : Bool :=
  decide (n < 128) && decide (n / 16 < s.dev.clustersOn) &&
    decide (n % 16 + bitCount (s.leftOut (n / 16)) 17 < 17)

/-- The core has failed while running (R392). -/
def State.coreFailed (s : State) (n : Nat) : Bool := (s.odGet (Od.coreFailed (n / 16))).testBit (n % 16)

/-- The cluster is in the reserved evaluation slice. -/
def State.clusterEval (s : State) (c : Nat) : Bool := (s.odGet Od.evalActiveClusters).testBit c

/-- The sides of R358. -/
inductive Side where
  | main
  | eval
  /-- host accesses, which reach both -/
  | both
  deriving DecidableEq, Repr

/-- The side of a job. -/
def State.jobSide (s : State) (job : BitVec 16) : Side :=
  if s.odGet Od.evalActiveClusters ≠ 0 ∧ job = s.watch.evalJob then .eval else .main

/-- The side of a cluster. -/
def State.clusterSide (s : State) (c : Nat) : Side := if s.clusterEval c then .eval else .main

def Side.sees (a : Side) (b : Side) : Bool := a = .both || a = b

/-! ### The local address map (R222, R223) -/

inductive Region where
  | hbm
  | buffer (c : Nat)
  | localMem (n : Nat)
  | window
  | unmapped
  deriving DecidableEq, Repr

def hbmEnd : Nat := 0xC000000000
def windowBase : Nat := 0xE000000000

/-- Where a local address lies (R222). -/
def regionOf (a : Nat) : Region :=
  if a < hbmEnd then .hbm
  else if a < 0xC010000000 then
    (if (a - 0xC000000000) % 0x2000000 < 0x1000000 then .buffer ((a - 0xC000000000) / 0x2000000) else .unmapped)
  else if a < 0xC100000000 then .unmapped
  else if a < 0xC120000000 then
    (if (a - 0xC100000000) % 0x400000 < 0x200000 then .localMem ((a - 0xC100000000) / 0x400000) else .unmapped)
  else if windowBase ≤ a ∧ a < windowBase + 0x1000000 then .window
  else .unmapped

/-- First local address of a core's local memory. -/
def localBase (n : Nat) : Nat := 0xC100000000 + n * 0x400000

/-- First HBM address of the evaluation partition; the end of HBM where there is none (R357). -/
def State.evalBase (s : State) : Nat :=
  if s.odGet Od.evalActiveClusters = 0 then hbmEnd else s.odGet Od.evalHbmBase

/-- A range of `n` bytes lies wholly in one mapped memory or window that the side sees (R223, R358). A failed core's
memory stays mapped (R392). -/
def State.mapped (s : State) (side : Side) (a n : Nat) : Bool :=
  let z := a + n - 1
  decide (0 < n) && decide (regionOf a = regionOf z) &&
  match regionOf a with
  | .hbm => match side with
    | .main => decide (z < s.evalBase)
    | .eval => decide (s.evalBase ≤ a)
    | .both => true
  | .buffer c => decide (z - a < 0x1000000) && decide (c < s.dev.clustersOn) && side.sees (s.clusterSide c)
  | .localMem m => decide (z - a < 0x200000) && s.coreMapped m && side.sees (s.clusterSide (m / 16))
  | .window => true
  | .unmapped => false

/-- The island that holds the address is disabled: an access to it is REFUSED (R26, R392). -/
def State.channelClosed (s : State) (a : Nat) : Bool :=
  match regionOf a with
  | .localMem m => s.coreFailed m
  | _ => false

/-- Pseudo-channel of an HBM address (R228). -/
def hbmPc (a : Nat) : Nat :=
  let g := a / 256
  (g % 256) ^^^ (g / 2 ^ 8 % 256) ^^^ (g / 2 ^ 16 % 256) ^^^ (g / 2 ^ 24 % 256)

/-- The stack that holds an HBM address. -/
def hbmStack (a : Nat) : Nat := hbmPc a / 32

/-! ### Memory words (R225, R229) -/

/-- What an unlisted local address reads as: zero with a valid code (R226), but for HBM of undefined contents (R399). -/
def State.memDflt (s : State) (a : Nat) : Byte :=
  match s.hbmNoise with
  | none => 0
  | some k => if a < hbmEnd then Config.hbmByte k a else 0

/-- What the other bits of an unlisted word read as. -/
def State.sideDflt (s : State) (w : Nat) : BitVec 16 :=
  match s.hbmNoise with
  | none => 0
  | some k => if 8 * w < hbmEnd then Config.hbmSide k w else 0

/-- The canonical form of memory: its list and the list of check bits. -/
abbrev Memory.wf (s : State) : Prop := SMap.Wf s.memDflt s.mem ∧ SMap.Wf s.sideDflt s.side

/-- The byte stored at a local address. -/
def State.memByte (s : State) (a : Nat) : Byte := SMap.get (s.memDflt a) s.mem a

/-- The data of word `w`, the bytes from local address 8w (R7). -/
def State.memWord (s : State) (w : Nat) : BitVec 64 :=
  s.memByte (8 * w + 7) ++ s.memByte (8 * w + 6) ++ s.memByte (8 * w + 5) ++ s.memByte (8 * w + 4) ++
  s.memByte (8 * w + 3) ++ s.memByte (8 * w + 2) ++ s.memByte (8 * w + 1) ++ s.memByte (8 * w)

/-- A byte of memory becomes `b`. -/
def State.setMemByte (s : State) (a : Nat) (b : Byte) : State := { s with mem := SMap.set (s.memDflt a) s.mem a b }

/-- The bytes of word `w` become `d`. -/
def State.setMemWord (s : State) (w : Nat) (d : BitVec 64) : State :=
  (List.range 8).foldl (fun s i => s.setMemByte (8 * w + i) (d.extractLsb' (8 * i) 8)) s

/-- The stored code word. -/
def State.rawWord (s : State) (w : Nat) : CodeWord := SMap.get (s.sideDflt w) s.side w ++ s.memWord w

/-- The stored code word becomes `x`. -/
def State.setRaw (s : State) (w : Nat) (x : CodeWord) : State :=
  let s := s.setMemWord w (codeData x)
  { s with side := SMap.set (s.sideDflt w) s.side w (x.extractLsb' 64 16) }

/-- The engine write in flight on a word, if there is one (log 13). -/
def State.racyAt (s : State) (w : Nat) : Option RacyWord := s.racy.find? fun r => decide (r.word = w)

/-- The word that a reader meets: where an engine's write is in flight, the new one or the earlier one. -/
def State.pickWord (s : State) (w : Nat) : CodeWord × State :=
  match s.racyAt w with
  | none => (s.rawWord w, s)
  | some r => (if s.fresh.1 % 2 = 1 then r.old else s.rawWord w, s.fresh.2)

/-! ### Corrections and uncorrectable words (R232, R240) -/

/-- Storage codes of MEM_CE and MEM_UE (R240). -/
inductive Storage where
  | hbm | localMem | buffer | acc | weights | regs
  deriving DecidableEq, Repr

def Storage.code : Storage → Nat
  | .hbm => 0 | .localMem => 1 | .buffer => 2 | .acc => 3 | .weights => 4 | .regs => 5

/-- How an error is found (R240). -/
inductive Detect where
  | demand | scrub | merged
  deriving DecidableEq, Repr

def Detect.code : Detect → Nat
  | .demand => 0 | .scrub => 1 | .merged => 2

/-- Storage, source type and source instance of a local address. -/
def memSource (a : Nat) : Storage × Nat × Nat :=
  match regionOf a with
  | .hbm => (.hbm, 0x08, hbmStack a)
  | .buffer c => (.buffer, 0x04, c)
  | .localMem n => (.localMem, 0x03, n)
  | _ => (.hbm, 0x08, 0)

/-- The count entry of corrected words of a storage, and of uncorrectable words (R241). -/
def ceCounter (st : Storage) (inst : Nat) : Nat := if st = .hbm then Od.hbmCeCount inst else Od.sramCeCount
def ueCounter (st : Storage) (inst : Nat) : Nat := if st = .hbm then Od.hbmUeCount inst else Od.sramUeCount

/-- One record against a rate limit (R240, R270): the new entry, and whether the record is logged. At most `limit` are
logged in any one second. -/
def rateStep (limit now : Nat) (e : List Nat × Nat) : (List Nat × Nat) × Bool :=
  let recent := e.1.filter fun t => decide (now < t + 1000000000)
  if recent.length < limit then ((now :: recent, e.2), true) else ((recent, e.2 + 1), false)

/-- A corrected word is counted and logged, within CE_LOG_LIMIT. -/
def State.memCE (s : State) (st : Storage) (ty inst addr p q : Nat) (det : Detect) : State :=
  let s := s.odAdd (ceCounter st inst) 1
  let k := 256 * ty + inst
  let r := rateStep (s.odGet Od.ceLogLimit) s.clk.now (SMap.get ([], 0) s.log.ceRate k)
  let s := { s with log := { s.log with ceRate := SMap.set ([], 0) s.log.ceRate k r.1 } }
  if r.2 then
    s.event ty inst 0x0201 sevInfo [(16, 8, addr), (24, 1, p), (25, 1, q), (26, 1, det.code), (27, 1, st.code)]
  else s

/-- An uncorrectable word is counted and logged. -/
def State.memUE (s : State) (st : Storage) (ty inst addr : Nat) (det : Detect) : State :=
  (s.odAdd (ueCounter st inst) 1).event ty inst 0x0202 sevError
    [(16, 8, addr), (26, 1, det.code), (27, 1, st.code)]

/-- A poisoned word delivered by a stack is counted (R241). -/
def State.countPoisonRead (s : State) (w : Nat) (p : Bool) : State :=
  if p && decide (regionOf (8 * w) = .hbm) then s.odAdd (Od.hbmPoisonReadCount (hbmStack (8 * w))) 1 else s

/-- A read whose data parity fails to the last retry takes one pending failure of its pseudo-channel (R232). -/
def State.readFails (s : State) (w : Nat) : Bool :=
  decide (regionOf (8 * w) = .hbm) && s.hbmReadFails.contains (hbmPc (8 * w))

/-- A read of a word: its DATA and POISON as delivered, with the write-back, counts and records of R232. After failed
retries the data comes poisoned, and nothing is written back. A scrub read delivers nothing. -/
def State.readWord (s : State) (w : Nat) (det : Detect) : (BitVec 64 × Bool) × State :=
  let r := s.pickWord w
  let x := r.1
  let s := r.2
  let src := memSource (8 * w)
  let live := decide (x = s.rawWord w)
  let given := fun (s : State) (p : Bool) => if det = .scrub then s else s.countPoisonRead w p
  if s.readFails w then
    ((codeData x, true), given { s with hbmReadFails := s.hbmReadFails.erase (hbmPc (8 * w)) } true)
  else match checkWord x with
  | .clean => ((codeData x, codePoison x), given s (codePoison x))
  | .corrected y p q =>
    let s := if live then s.setRaw w y else s
    ((codeData y, codePoison y), given (s.memCE src.1 src.2.1 src.2.2 (8 * w) p q det) (codePoison y))
  | .uncorrectable =>
    let s := if live then s.setRaw w (codeWord (codeData x) true) else s
    ((codeData x, true), given (s.memUE src.1 src.2.1 src.2.2 (8 * w) det) true)

/-- A word of a burst whose data failed to the last retry: delivered as poisoned, nothing written back (R232). -/
def State.lostWord (s : State) (w : Nat) (det : Detect) : (BitVec 64 × Bool) × State :=
  ((codeData (s.rawWord w), true), if det = .scrub then s else s.countPoisonRead w true)

/-- Words read in order, the four words of an HBM burst together: `lost` is the burst of this access that failed. -/
def State.readRun (s : State) (det : Detect) : Option Nat → List Nat → List (BitVec 64 × Bool) × State
  | _, [] => ([], s)
  | lost, w :: ws =>
    let gone := decide (lost = some (w / 4))
    let r := if gone then s.lostWord w det else s.readWord w det
    let q := State.readRun r.2 det (if !gone && s.readFails w then some (w / 4) else lost) ws
    (r.1 :: q.1, q.2)

/-- Words read in order. -/
def State.readWords (s : State) (det : Detect) (ws : List Nat) : List (BitVec 64 × Bool) × State := s.readRun det none ws

/-- The words that hold the bytes `a` to `a + n - 1`. -/
def spanWords (a n : Nat) : List Nat := List.range' (a / 8) ((a + n + 7) / 8 - a / 8)

/-- The bytes of a word, lowest address first. -/
def wordBytes (d : BitVec 64) : List Byte := (List.range 8).map fun i => d.extractLsb' (8 * i) 8

/-- The number whose little-endian bytes are given. -/
def bytesNat : List Byte → Nat
  | [] => 0
  | b :: bs => b.toNat + 256 * bytesNat bs

/-- The low `n` bytes of a number, lowest first. -/
def natBytes : Nat → Nat → List Byte
  | 0, _ => []
  | n + 1, v => BitVec.ofNat 8 v :: natBytes n (v / 256)

/-- A read of `n` bytes: the bytes, the words' poison in order, and the state after. -/
def State.readBytes (s : State) (a n : Nat) (det : Detect) : (List Byte × List Bool) × State :=
  let r := s.readWords det (spanWords a n)
  (((r.1.flatMap fun x => wordBytes x.1).drop (a % 8) |>.take n, r.1.map (·.2)), r.2)

/-- A read of `n` bytes as a number, and whether any of its words is poisoned. -/
def State.readNat (s : State) (a n : Nat) : (Nat × Bool) × State :=
  let r := s.readBytes a n .demand
  ((bytesNat r.1.1, r.1.2.any id), r.2)

/-! ### Writes (R151, R234) -/

/-- An operation remembers a word as it was before a store to it while the operation is BUSY (R151). -/
def MxOp.note (o : MxOp) (w : Nat) (x : CodeWord) : MxOp :=
  let xs := (SMap.find? o.olds w).getD []
  if xs.contains x then o else { o with olds := SMap.put o.olds w (x :: xs) }

/-- The operations of a core note an earlier value of one of its local-memory words. -/
def State.noteOld (s : State) (w : Nat) (x : CodeWord) : State :=
  match regionOf (8 * w) with
  | .localMem n =>
    let c := s.core n
    if c.ops.isEmpty then s else s.setCore n { c with ops := c.ops.map fun o => o.note w x }
  | _ => s

/-- The operations of a core note the word that a store is about to replace. -/
def State.noteStore (s : State) (w : Nat) : State := s.noteOld w (s.rawWord w)

/-- The address monitors of a word's line see a write to it (R67). -/
def State.seenWrite (s : State) (w : Nat) : State :=
  match s.disp.armed.filter fun e => decide (e.1 = w / 16) with
  | [] => s
  | l => { s with disp := { s.disp with woken := s.disp.woken ++ l.map (·.2) } }

/-- A monitor is no longer armed. -/
def State.disarm (s : State) (m : Monitor) : State :=
  { s with disp := { s.disp with armed := s.disp.armed.filter fun e => decide (e.2 ≠ m) } }

/-- A monitor is armed on the line at an address. -/
def State.arm (s : State) (m : Monitor) (a : Nat) : State :=
  { s.disarm m with disp := { (s.disarm m).disp with armed := (a / 128, m) :: (s.disarm m).disp.armed } }

/-- A word in which no engine write is in flight, or whose engine write is done, takes `f` of itself; otherwise the
write is overtaken by the engine's (log 13). -/
def State.updWord (s : State) (w : Nat) (f : CodeWord → CodeWord) : State :=
  let s := (s.noteStore w).seenWrite w
  match s.racyAt w with
  | none => s.setRaw w (f (s.rawWord w))
  | some r =>
    let s1 := s.fresh.2
    if s.fresh.1 % 2 = 0 then
      { s1 with racy := s1.racy.filter fun q => decide (q.word ≠ w) }.setRaw w (f (s1.rawWord w))
    else
      { s1 with racy := s1.racy.map fun q => if q.word = w then { q with old := f r.old } else q }

/-- A write of all eight bytes of a word (R234). -/
def State.writeWord (s : State) (w : Nat) (d : BitVec 64) (poison : Bool) : State :=
  s.updWord w fun _ => codeWord d poison

/-- The data of a word with bytes `i`, `i + 1`, … replaced. -/
def mergeBytes (d : BitVec 64) (i : Nat) : List Byte → BitVec 64
  | [] => d
  | b :: bs =>
    mergeBytes ((d &&& ~~~((0xFF : BitVec 64) <<< (8 * i))) ||| (b.setWidth 64 <<< (8 * i))) (i + 1) bs

/-- A write of fewer than eight bytes of a word: read, merged and written; the merged word keeps the poison of the
word read, and is poisoned where that read fails (R232, R234). -/
def State.mergeWord (s : State) (w i : Nat) (bs : List Byte) : State :=
  let lost := s.readFails w
  let s := (s.readWord w .merged).2
  s.updWord w fun x => codeWord (mergeBytes (deliver x).1 i bs) (lost || (deliver x).2)

/-- The next piece of a write that begins at byte `a`: its word, the byte in it, and how many bytes it takes. -/
def pieceLen (a n : Nat) : Nat := min n (8 - a % 8)

/-- A write of bytes from address `a`; whole words take the poison given for them (fuel: the number of bytes). -/
def State.writeFuel : Nat → State → Nat → List Byte → Bool → State
  | 0, s, _, _, _ => s
  | k + 1, s, a, bs, poison =>
    match bs with
    | [] => s
    | _ =>
      let n := pieceLen a bs.length
      let s' := if n = 8 then s.writeWord (a / 8) (BitVec.ofNat 64 (bytesNat (bs.take 8))) poison
        else s.mergeWord (a / 8) (a % 8) (bs.take n)
      State.writeFuel k s' (a + n) (bs.drop n) poison

/-- A write of clean bytes. -/
def State.writeBytes (s : State) (a : Nat) (bs : List Byte) : State := State.writeFuel bs.length s a bs false

/-- A write of the low `n` bytes of a number. -/
def State.writeNat (s : State) (a n v : Nat) : State := s.writeBytes a (natBytes n v)

/-- Words written in order from word `w`, each with its poison. -/
def State.writeWords (s : State) (w : Nat) : List (BitVec 64 × Bool) → State
  | [] => s
  | x :: xs => State.writeWords (s.writeWord w x.1 x.2) (w + 1) xs

/-- An engine changes a word by a write that stays in flight until `owner` ends: a reader meets the new word or the one
held before the engine's first write of it (log 13). -/
def State.engineWrite (s : State) (owner w : Nat) (f : CodeWord → CodeWord) : State :=
  let s := (s.noteStore w).seenWrite w
  let x := s.rawWord w
  let old := match s.racyAt w with
    | some r => if r.owner = owner then r.old else x
    | none => x
  let s1 := s.setRaw w (f x)
  { s1 with racy := ⟨w, old, owner, 0⟩ :: s1.racy.filter fun q => decide (q.word ≠ w) }

/-- An engine writes a whole word. -/
def State.writeRacy (s : State) (owner w : Nat) (d : BitVec 64) (poison : Bool) : State :=
  s.engineWrite owner w fun _ => codeWord d poison

/-- The read of a write of fewer than eight bytes, with its write-back, count and record (R232, R234), and whether it
failed. -/
def State.mergeRead (s : State) (w : Nat) : Bool × State :=
  if s.readFails w then (true, { s with hbmReadFails := s.hbmReadFails.erase (hbmPc (8 * w)) })
  else
    let src := memSource (8 * w)
    match checkWord (s.rawWord w) with
    | .clean => (false, s)
    | .corrected y p q => (false, (s.setRaw w y).memCE src.1 src.2.1 src.2.2 (8 * w) p q .merged)
    | .uncorrectable =>
      (false, (s.setRaw w (codeWord (codeData (s.rawWord w)) true)).memUE src.1 src.2.1 src.2.2 (8 * w) .merged)

/-- The writes of a command are in place. -/
def State.settle (s : State) (owner : Nat) : State :=
  { s with racy := s.racy.filter fun q => decide (q.owner ≠ owner) }

/-- The writes of a command that was stopped: each word holds its earlier or its new value, as free values choose
(R239, R331). -/
def State.unsettle (s : State) (owner : Nat) : State :=
  ((s.racy.filter fun q => decide (q.owner = owner)).foldl
    (fun s q => if s.fresh.1 % 2 = 1 then s.fresh.2.setRaw q.word q.old else s.fresh.2) s).settle owner

/-! ### Counters (R448 to R450) -/

/-- The attributes of an occurrence that a counter's filters test (R450). -/
structure Attr where
  priv : Option Nat
  master : Option Nat
  addr : Option Nat
  cls : Option Nat
  deriving DecidableEq, Repr

def Attr.none : Attr := ⟨.none, .none, .none, .none⟩

/-- An occurrence passes the filters of a select word. -/
def pselPasses (s : State) (sel : BitVec 64) (a : Attr) : Bool :=
  let win := (sel.extractLsb' 58 4).toNat
  let cm := (sel.extractLsb' 42 16)
  let pm := (sel.extractLsb' 30 3)
  (win = 0 || (decide (win ≤ 8) && match a.addr with
    | some x => decide (s.odGet (Od.winBase (win - 1)) ≤ x) && decide (x ≤ s.odGet (Od.winLimit (win - 1)))
    | Option.none => false)) &&
  (cm = 0xFFFF || match a.cls with
    | some c => cm.getLsbD c
    | Option.none => false) &&
  (!sel.getLsbD 41 || match a.master with
    | some m => decide (m = (sel.extractLsb' 33 8).toNat)
    | Option.none => false) &&
  (pm = 7 || match a.priv with
    | some p => pm.getLsbD p
    | Option.none => false)

/-- A flash write is in progress: one of a request or of a repair map, or the marker or the helper copies of an erase (R430,
R441, R446). -/
def State.flashBusy (s : State) : Bool := s.hm.flashJob.isSome || decide (s.sec.erase ≠ .none)

/-- Counter `i` of the set at OD index `set` adds `n`; a wrap sets its OVF bit (R448). -/
def State.pmcAdd (s : State) (set i n : Nat) : State :=
  let k := Od.key set (0x02 + i)
  let v := s.odGet k + n
  let s := s.odSet k (v % 2 ^ 48)
  if 2 ^ 48 ≤ v then
    let p := Od.key set 0x12
    s.odSet p (s.odGet p ||| 2 ^ (8 + i))
  else s

/-- `n` occurrences of an event at a block's counters (R448). -/
def State.count (s : State) (set ev n : Nat) (a : Attr) : State :=
  if s.tally.frozen then s
  else (List.range 8).foldl (fun s i =>
    let sel := BitVec.ofNat 64 (s.odGet (Od.key set (0x0A + i)))
    if sel.getLsbD 63 && decide ((sel.extractLsb' 0 16).toNat = ev) && pselPasses s sel a then s.pmcAdd set i n
    else s) s

end Sys2Proof.Machine
end

