-- ==== Sys2Proof/Machine/Time.lean ====
section
/-!
DEFINITION. The passing of time: the switch of an epoch at its T (R32, R33, R317, R361), the counters that count edges
(R447, R448, R452, R453), the device-wide switch of counters at its T (R456), and the latch of a dump at T_k (R457).
-/

namespace Sys2Proof.Machine

def State.cmd? (s : State) (serial : Nat) : Option Cmd := s.disp.cmds.find? fun c => decide (c.serial = serial)

/-- The numerics slot of an open job. -/
def State.jobSlot? (s : State) (job : BitVec 16) : Option Nat :=
  if job = 0 then none else (List.range 16).find? fun i => decide (s.odGet (Od.numSlotJob i) = job.toNat)

/-! ### The switch of an epoch (R32, R33) -/

/-- The pending bank is copied into the active one; it keeps its values (R317). Causes: 0 epoch, 1 commit now. -/
def State.copyRules (s : State) (cause ctx : Nat) (epoch : BitVec 32) (t : Nat) : State :=
  let s := (List.range 64).foldl (fun s i => (List.range' 1 24).foldl (fun s j =>
    s.odSet (Od.key (0x2740 + i) j) (s.odGet (Od.key (0x2700 + i) j))) s) s
  (s.odSet Od.ruleBankTime t).event 0x06 0 0x0505 sevInfo [(16, 1, ctx), (17, 1, cause), (20, 4, epoch.toNat)]

/-- The armed switch takes place when its context moves to its epoch (R317). -/
def State.rulesAtEpoch (s : State) (ctx : Nat) (epoch : BitVec 32) (t : Nat) : State :=
  if s.odGet Od.ruleSwitchArmed = 1 ∧ s.odGet Od.ruleSwitchCtx = ctx ∧ s.odGet Od.ruleSwitchEpoch = epoch.toNat then
    { (s.odSet Od.ruleSwitchArmed 0).copyRules 0 ctx epoch t with
      disp := { ((s.odSet Od.ruleSwitchArmed 0).copyRules 0 ctx epoch t).disp with ruleTie := some t } }
  else s

/-- Snapshots that wait for an epoch take its switch time and the job's SR_STEP then (R360, R361). -/
def State.snapsAtEpoch (s : State) (ctx : Nat) (epoch : BitVec 32) (t : Nat) : State :=
  { s with disp := { s.disp with snaps := s.disp.snaps.map fun n =>
      if n.ctx = ctx ∧ n.epoch = epoch ∧ n.reached = none then
        let job := ((s.cmd? n.cmd).map (·.job)).getD 0
        { n with reached := some (t, BitVec.ofNat 64 (match s.jobSlot? job with
            | some i => s.odGet (Od.srStep i)
            | none => 0)) }
      else n } }

/-- Every island takes the new epoch of a context at time `t`. -/
def State.switchEpoch (s : State) (ctx : Nat) (epoch : BitVec 32) (t : Nat) : State :=
  let s := (s.odSet (Od.epochCtx ctx) epoch.toNat).odSet (Od.epochSwitchTime ctx) t
  let s := s.event 0x12 0 0x0003 sevInfo [(16, 2, ctx), (20, 4, epoch.toNat), (24, 8, t)]
  (s.rulesAtEpoch ctx epoch t).snapsAtEpoch ctx epoch t

/-! ### Counter sets (R447, R448, R454, R462) -/

/-- The type of the block whose counters stand at an index (R462). -/
def setType? (idx : Nat) : Option Nat :=
  if 0x3100 ≤ idx ∧ idx ≤ 0x317F then some 0x03
  else if 0x3200 ≤ idx ∧ idx ≤ 0x3207 then some 0x02
  else if 0x3210 ≤ idx ∧ idx ≤ 0x3217 then some 0x08
  else if 0x3220 ≤ idx ∧ idx ≤ 0x3223 then some 0x09
  else none

/-- The counter set of a core. -/
def coreSet (core : Nat) : Nat := 0x3100 + core

/-- CYCLES of a core: the core cycles since it was enabled, up to its failure (R392, R447). -/
def State.cyclesOf (s : State) (n : Nat) : Nat := (s.core n).cycEnd.getD s.coreCycles - (s.core n).cycBase

/-- PMC_n as read (R448). -/
def State.pmcValue (s : State) (idx n : Nat) : Nat := s.odGet (Od.key idx (0x02 + n))

/-- PCTL as read: CLEAR as 0, OVF, and FROZEN (R454). -/
def State.pctlValue (s : State) (idx : Nat) : Nat := s.odGet (Od.key idx 0x12) + if s.tally.frozen then 2 ^ 16 else 0

/-- Counter `n` of the set at an index is zeroed. -/
def State.zeroPmc (s : State) (idx n : Nat) : State := s.odSet (Od.key idx (0x02 + n)) 0

/-- Every counter and OVF bit of the set at an index is zeroed. -/
def State.zeroSet (s : State) (idx : Nat) : State :=
  ((List.range 8).foldl (fun s n => s.zeroPmc idx n) s).odSet (Od.key idx 0x12) 0

/-- The indices of every counter set. -/
def counterSets : List Nat := List.range' 0x3100 128 ++ List.range' 0x3200 8 ++ List.range' 0x3210 8 ++ List.range' 0x3220 4

/-- Every counter and every OVF bit is zeroed, CYCLES too. -/
def State.clearCounters (s : State) : State :=
  let s := counterSets.foldl State.zeroSet s
  (List.range 128).foldl (fun s n => s.setCore n { s.core n with cycBase := (s.core n).cycEnd.getD s.coreCycles }) s

/-! ### The counters that count edges (R448, R452, R453) -/

/-- A core counts cycles: it is present and has not failed (R392, R447). -/
def State.coreCounts (s : State) (n : Nat) : Bool := s.coreMapped n && !s.coreFailed n

/-- Edges of the clock of a set's island while the clock goes from `s.clk.now` to `now`, with `cycles` core cycles (R22,
R447). -/
def State.edgesOf (s : State) (now cycles idx : Nat) : Nat :=
  let at_ (mult div : Nat) : Nat := now * mult / div - s.clk.now * mult / div
  match setType? idx with
  | some 0x03 => if s.coreCounts (idx - 0x3100) then cycles else 0
  | some 0x02 => if idx - 0x3200 < s.dev.clustersOn then at_ 2 1 else 0
  | some 0x08 => if idx - 0x3210 < s.dev.hbmDone then at_ 23 20 else 0
  | some _ => at_ 85 64
  | none => 0

/-- The largest count at one edge of an event that counts cycles, waits or refills, of which the model has only this bound
(R452, log 22). -/
def freeRate (ev : Nat) : Option Nat :=
  match ev with
  | 0x0307 | 0x0309 | 0x0903 => some 1
  | 0x0204 => some 2
  | 0x030E => some 4
  | 0x0203 | 0x0804 | 0x0805 | 0x0806 => some 32
  | 0x0207 => some 34
  | _ => none

/-- Arrays of a core that are gated (R141). -/
def Core.gated (c : Core) : Nat := 4 - bitCount c.awake.toNat 4

/-- Schedulers of a core of which some group is held by TWAIT (R154, R452). -/
def Core.tokenWaits (c : Core) : Nat :=
  ((List.range 4).filter fun k => c.groups.any fun g => decide (g.1 % 4 = k) && match g.2.hold with
    | .token _ _ => true
    | _ => false).length

/-- What an event of cycles has counted at a set over a number of edges: the gated arrays and the waits for tokens as they
stand, and of the others a free number that the rate bounds (log 22). -/
def State.edgeCount (s : State) (idx ev edges : Nat) : Nat :=
  if ev = 0x030A then edges * (s.core (idx - 0x3100)).gated
  else if ev = 0x030F then edges * (s.core (idx - 0x3100)).tokenWaits
  else match freeRate ev with
    | some r => Config.timedCount idx ev s.clk.now % (r * edges + 1)
    | none => 0

/-- The counters that are enabled: their set, number and event (R449). A select word of its default value enables nothing. -/
def State.selects (s : State) : List (Nat × Nat × Nat) :=
  s.od.filterMap fun e =>
    let sub := e.1 % 256
    if 0x0A ≤ sub ∧ sub ≤ 0x11 ∧ (setType? (e.1 / 256)).isSome ∧ e.2.testBit 63 then
      some (e.1 / 256, sub - 0x0A, e.2 % 2 ^ 16)
    else none

/-- The slots of a core's cycles: as many as four a cycle go to the slots that instructions have used, oldest first, and the
rest were starved, at the back or at the front (R197, R453, log 22). -/
def State.slotEdges (s : State) (cycles core : Nat) : State :=
  let uses := (s.tally.slots.filter fun u => decide (u.core = core)).take (4 * cycles)
  let left := 4 * cycles - uses.length
  let back := Config.timedCount (coreSet core) 0x0303 s.clk.now % (left + 1)
  let s := uses.foldl (fun s u =>
    { s with tally := { s.tally with slots := s.tally.slots.erase u } }.count (coreSet core) (if u.ev = 0x0301 then 0x0301 else 0x0302) 1
      { Attr.none with cls := some u.cls }) s
  (s.count (coreSet core) 0x0303 back Attr.none).count (coreSet core) 0x0304 (left - back) Attr.none

/-- The counters of the edges up to time `now`, with `cycles` core cycles, before the clock moves there. -/
def State.countEdges (s : State) (now cycles : Nat) : State :=
  let sel := s.selects
  let s1 := sel.foldl (fun t c => t.pmcAdd c.1 c.2.1 (s.edgeCount c.1 c.2.2 (s.edgesOf now cycles c.1))) s
  let cores := (List.range 128).filter fun n =>
    (s.tally.slots.any fun u => decide (u.core = n)) || sel.any fun c => decide (c.1 = coreSet n)
  cores.foldl (fun t n => t.slotEdges (s.edgesOf now cycles (coreSet n)) n) s1

/-- What the FEC of each trained port has corrected, and not corrected, since: a free number (R280, log 78). -/
def State.fecAfter (s : State) : List Nat :=
  s.fab.fec.zipIdx.map fun c =>
    if (SMap.get Port.initial s.fab.ports (c.2 / 2)).retryAt.isNone then c.1
    else c.1 + Config.portFec (c.2 / 2) (c.2 % 2) s.clk.now

/-- `dt` ns in which nothing is due: the counters that count edges, the timebase, the core-cycle count, the time below
2,250 MHz (R424), and the time in which some source is held (R401). -/
def State.flow (s : State) (dt : Nat) : State :=
  let counting := s.coresOn && !s.tally.frozen
  let cyc := if counting then s.clk.coreCyc + dt * s.coreMHz else s.clk.coreCyc
  let s1 := if s.tally.frozen then s else s.countEdges (s.clk.now + dt) (cyc / 1000 - s.clk.coreCyc / 1000)
  let s1 := { s1 with
    clk := { s1.clk with now := s.clk.now + dt, coreCyc := cyc }
    fab := { s1.fab with fec := s.fecAfter } }
  let s1 := if s.coreMHz < 2250 then s1.odAdd Od.govLimitedNs dt else s1
  if s.log.holding then s1.odAdd Od.logHoldNs dt else s1

/-! ### A dump's latch, and the device-wide switch (R456 to R460) -/

/-- The blocks with counters that are present, in ascending type and instance: type, instance, index of the set. -/
def State.tallyBlocks (s : State) : List (Nat × Nat × Nat) :=
  ((List.range s.dev.clustersOn).map fun c => (0x02, c, 0x3200 + c)) ++
  (((List.range 128).filter s.coreMapped).map fun n => (0x03, n, 0x3100 + n)) ++
  ((List.range s.dev.hbmDone).map fun h => (0x08, h, 0x3210 + h)) ++
  (List.range 4).map fun p => (0x09, p, 0x3220 + p)

/-- Clock of a block's island in MHz. -/
def State.islandMHz (s : State) (ty : Nat) : Nat :=
  if ty = 0x02 then 2000 else if ty = 0x03 then s.coreMHz else if ty = 0x08 then 1150 else 1328

/-- The record of a block (R459, R460): its 204 bytes before the reserved ones. -/
def State.tallyRecord (s : State) (t k records : Nat) (b : Nat × Nat × Nat) : List Byte :=
  let pctl := s.pctlValue b.2.2
  let h := t + (s.epoch 0).toNat * 2 ^ 64 + b.2.1 * 2 ^ 96 + b.1 * 2 ^ 104 + k * 2 ^ 128 + s.islandMHz b.1 * 2 ^ 192 +
    (if s.tally.frozen then 2 ^ 208 else 0) + pctl / 2 ^ 8 % 256 * 2 ^ 224 + records * 2 ^ 232
  natBytes 64 h ++ natBytes 8 (if b.1 = 0x03 then s.cyclesOf b.2.1 else 0) ++
  ((List.range 8).flatMap fun i => natBytes 8 (s.pmcValue b.2.2 i)) ++
  ((List.range 8).flatMap fun i => natBytes 8 (s.odGet (Od.key b.2.2 (0x0A + i)))) ++ natBytes 4 pctl

/-- The ring has room for `n` records. -/
def State.tallyRoom (s : State) (n : Nat) : Bool :=
  let sz := s.odGet Od.tallyRingRecords
  decide (n + (s.tally.tail + sz - s.tally.head) % sz < sz)

/-- A dump is due at a multiple of the period: enabled, and none latched that is still to be written. -/
def State.dumpDue (s : State) : Option Nat :=
  if s.odGet Od.tallyEnable = 1 ∧ s.tally.latch = none then some (s.odGet Od.tallyNext) else none

/-- At T_k every block latches its counters, unless the dump before has not advanced TAIL (R457, R458). -/
def State.latchDump (s : State) : State :=
  if s.tally.writing.isSome then s
  else
    let bs := s.tallyBlocks
    let l : TallyLatch :=
      ⟨s.clk.now, bs.map (s.tallyRecord s.clk.now s.tally.dumpNo bs.length), s.tallyRoom bs.length⟩
    { s with tally := { s.tally with latch := some l } }

/-- The change of a switch. -/
def State.countApply (s : State) (op : CountOp) : State :=
  let s := { s with tally := { s.tally with countPending := none } }
  match op with
  | .freeze => { s with tally := { s.tally with frozen := true } }
  | .restart => { s with tally := { s.tally with frozen := false } }
  | .clear => s.clearCounters

/-! ### What is due -/

/-- The times still ahead at which something happens by itself: the T of epoch switches, of a dump and of a switch of the
counters. -/
def State.dues (s : State) : List Nat :=
  ((s.epochs.map fun e => e.2.1) ++ s.dumpDue.toList ++ (s.tally.countPending.map (·.1)).toList).filter fun t =>
    decide (s.clk.now < t)

/-- What is due now, in the order of R457: the epochs, the dump, and the switch of the counters. -/
def State.arrive (s : State) : State :=
  let s1 := (s.epochs.filter fun e => decide (e.2.1 = s.clk.now)).foldl (fun s e => s.switchEpoch e.1 e.2.2.1 e.2.1) s
  let s2 := if s1.dumpDue = some s.clk.now then s1.latchDump else s1
  match s2.tally.countPending with
  | some (t, op) => if t = s.clk.now then s2.countApply op else s2
  | none => s2

/-- Time passes up to `t`, by way of the times at which something is due (fuel: their number). -/
def State.passTo : Nat → State → Nat → State
  | 0, s, t => s.flow (t - s.clk.now)
  | k + 1, s, t =>
    match s.dues.min? with
    | some d => if d ≤ t then State.passTo k (s.flow (d - s.clk.now)).arrive t else s.flow (t - s.clk.now)
    | none => s.flow (t - s.clk.now)

/-- `dt` ns pass. -/
def State.pass (s : State) (dt : Nat) : State := State.passTo s.dues.length s (s.clk.now + dt)

/-- With no command waiting, one nanosecond passes in a device that is not in OFF (log 1). -/
def State.tick (s : State) : State := if s.dev.state = .off then s else s.pass 1

/-- An event that the spec puts at time `t` happens no earlier (log 3). -/
def State.advanceTo (s : State) (t : Nat) : State := if s.clk.now < t then s.pass (t - s.clk.now) else s

end Sys2Proof.Machine
end

