-- ==== Sys2Proof/Machine/Fabric.lean ====
section
/-!
DEFINITION. The fabric beside its links: coordinates and the mesh plan, routes (R256 to R258), packets sent (R260, R261),
the key check (R269, R270), what a target does with a request (R262, R268), the coherence directory (R273, R274), and the
opening of a transaction in the tracker (R266, R267).
-/

namespace Sys2Proof.Machine

/-! ### Coordinates and the plan (R224, R254, R280) -/

/-- A place in the mesh. -/
structure Place where
  x : Nat
  y : Nat
  deriving DecidableEq, Repr

def Place.ofCoord (c : Coord) : Place := ⟨c.toNat % 64, c.toNat / 64⟩
def Place.coord (p : Place) : Coord := BitVec.ofNat 12 (64 * p.y + p.x)

def State.place (s : State) : Place := ⟨s.odGet Od.meshSelfX, s.odGet Od.meshSelfY⟩
/-- The device's own coordinates. -/
def State.self (s : State) : Coord := s.place.coord

def State.inPlan (s : State) (p : Place) : Bool :=
  decide (p.x < s.odGet Od.meshPlanX) && decide (p.y < s.odGet Od.meshPlanY)

/-- A link by its lower end: along X, or along Y. -/
structure Link where
  x : Nat
  y : Nat
  alongY : Bool
  deriving DecidableEq, Repr

/-- The link between two neighbours. -/
def linkOf (a b : Place) : Link := ⟨min a.x b.x, min a.y b.y, decide (a.x = b.x)⟩

/-- The missing links of the plan. -/
def State.missing (s : State) : List Link :=
  (List.range (s.odGet Od.meshMissingCount)).map fun i =>
    let v := s.odGet (Od.meshMissing i)
    ⟨v % 64, v / 64 % 64, v.testBit 12⟩

/-- The substitutions of the plan: role, then substitute (R387). -/
def State.substs (s : State) : List (Place × Place) :=
  (List.range (s.odGet Od.meshSubstCount)).map fun i =>
    let v := s.odGet (Od.meshSubst i)
    (⟨v % 64, v / 64 % 64⟩, ⟨v / 2 ^ 12 % 64, v / 2 ^ 18 % 64⟩)

/-- Where traffic for a place goes (R387). -/
def State.subst (s : State) (p : Place) : Place := ((s.substs.find? fun e => decide (e.1 = p)).map (·.2)).getD p

/-- The place is a role that a substitute holds. -/
def State.isRole (s : State) (p : Place) : Bool := s.substs.any fun e => decide (e.1 = p)

/-- The rectangle entry of a job: corners X0, Y0, X1, Y1. -/
def State.rect? (s : State) (job : BitVec 16) : Option (Nat × Nat × Nat × Nat) :=
  if job = 0 then none
  else ((List.range 16).find? fun i => decide (s.odGet (Od.rectJob i) = job.toNat)).map fun i =>
    (s.odGet (Od.rectX0 i), s.odGet (Od.rectY0 i), s.odGet (Od.rectX1 i), s.odGet (Od.rectY1 i))

def inRect (r : Nat × Nat × Nat × Nat) (p : Place) : Bool :=
  decide (r.1 ≤ p.x) && decide (p.x ≤ r.2.2.1) && decide (r.2.1 ≤ p.y) && decide (p.y ≤ r.2.2.2)

/-! ### Routes (R256, R257) -/

/-- The numbers from `a` to `b`, both included, in that order. -/
def stepsTo (a b : Nat) : List Nat :=
  if a ≤ b then List.range' a (b - a + 1) else (List.range' b (a - b + 1)).reverse

/-- The devices of a dimension-ordered route, both ends included. -/
def pathOf (a b : Place) : List Place :=
  ((stepsTo a.x b.x).map fun x => ⟨x, a.y⟩) ++ ((stepsTo a.y b.y).drop 1).map fun y => ⟨b.x, y⟩

/-- Neighbours that follow one another on a path. -/
def hops (p : List Place) : List (Place × Place) := p.zip (p.drop 1)

/-- The first hop of a path that uses a missing link. -/
def State.missingHop (s : State) (p : List Place) : Option (Place × Place) :=
  (hops p).find? fun h => s.missing.contains (linkOf h.1 h.2)

/-- A route: its waypoint, the port by which it leaves, and every device on it. -/
structure Route where
  waypoint : Option Place
  port : Nat
  path : List Place
  deriving DecidableEq, Repr

/-- The port toward a neighbour (R242). -/
def portToward (a b : Place) : Nat :=
  if a.x < b.x then 0 else if b.x < a.x then 1 else if a.y < b.y then 2 else 3

/-- The port of the first hop. -/
def firstPort (p : List Place) : Nat :=
  match hops p with
  | [] => 0
  | h :: _ => portToward h.1 h.2

/-- The waypoints to try for a missing link, in order (R257). -/
def waypoints (h : Place × Place) (dst : Place) : List Place :=
  if h.1.y = h.2.y then ⟨h.1.x, h.1.y + 1⟩ :: (if 0 < h.1.y then [⟨h.1.x, h.1.y - 1⟩] else [])
  else ⟨h.1.x + 1, dst.y⟩ :: (if 0 < h.1.x then [⟨h.1.x - 1, dst.y⟩] else [])

/-- The route from `a` to `b` by this device's plan; none where `b` is unreachable. -/
def State.route (s : State) (a b : Place) : Option Route :=
  let p := pathOf a b
  match if s.odGet Od.meshAllowDetour = 1 then s.missingHop p else none with
  | none => some ⟨none, firstPort p, p⟩
  | some h =>
    let via (w : Place) : List Place := pathOf a w ++ (pathOf w b).drop 1
    ((waypoints h b).find? fun w => s.inPlan w && decide (s.missingHop (via w) = none)).map fun w =>
      ⟨some w, firstPort (via w), via w⟩

/-- The route leaves the rectangle of the job. -/
def State.leavesRect (s : State) (job : BitVec 16) (p : List Place) : Bool :=
  match s.rect? job with
  | none => true
  | some r => p.any fun q => !inRect r q

/-! ### Ports and packets sent -/

def State.port (s : State) (p : Nat) : Port := SMap.get Port.initial s.fab.ports p
def State.setPort (s : State) (p : Nat) (x : Port) : State :=
  { s with fab := { s.fab with ports := SMap.set Port.initial s.fab.ports p x } }

/-- Packets pass in these states (R250). -/
def PortState.carries : PortState → Bool
  | .up | .degraded | .resize => true
  | _ => false

/-- The port has fenced its peer (R381, R383). -/
def State.fenced (s : State) (p : Nat) : Bool := decide (s.odGet (Od.fencedCoord p) ≠ 0xFFFF)

/-- Coordinates that a fence covers. -/
def State.fencedPlace (s : State) (c : Coord) : Bool :=
  (List.range 4).any fun p => decide (s.odGet (Od.fencedCoord p) = c.toNat)

/-- Slots of a packet (R261). -/
def packetSlots (p : Packet) : Nat := 2 + (p.payload.length + 15) / 16

/-- Counter set of a port. -/
def portSet (p : Nat) : Nat := 0x3220 + p

/-- Buffer pool of a packet: its VC, its route class, and on VC 3 whether it is a response (R248). -/
def packetPool (p : Packet) : Nat :=
  2 * p.vc.toNat + (if p.vc = 3 ∧ p.op.getLsbD 7 then 2 else 0) + (if p.detour then 1 else 0)

/-- The attributes by which a port counts a packet: a response carries no address (R450, R452). -/
def packetAttr (p : Packet) : Attr :=
  { priv := some p.priv.toNat, master := some p.srcMaster.toNat
    addr := if p.op.getLsbD 7 then none else some p.addr.toNat, cls := some p.tc.toNat }

/-- Slots that leave the ingress buffer of a port are owed to its peer (R248). -/
def State.oweSlots (s : State) (p k n : Nat) : State :=
  let pt := s.port p
  s.setPort p { pt with owed := SMap.set 0 pt.owed k (SMap.get 0 pt.owed k + n) }

/-- A packet that leaves its port for good without being sent: dropped and counted, and its slots leave the buffer. -/
def State.dropQueued (s : State) (q : Queued) : State :=
  let s := s.odAdd Od.packetsDropped 1
  match q.pool with
  | some k => s.oweSlots q.input k (packetSlots q.packet)
  | none => s

/-- The neighbour of a port, where there is one (R242). -/
def State.neighbour (s : State) (p : Nat) : Option Place :=
  let q := s.place
  match p with
  | 0 => some ⟨q.x + 1, q.y⟩
  | 1 => if 0 < q.x then some ⟨q.x - 1, q.y⟩ else none
  | 2 => some ⟨q.x, q.y + 1⟩
  | _ => if 0 < q.y then some ⟨q.x, q.y - 1⟩ else none

/-- The plan lists the link of a port as missing (R254, R260). -/
def State.listedMissing (s : State) (p : Nat) : Bool :=
  match s.neighbour p with
  | some q => s.missing.contains (linkOf s.place q)
  | none => false

/-- A port passes a packet: its link carries packets, no fence stands on it (R382, R383), and the traffic of a job does
not take a link that MESH_MISSING lists (R260). -/
def State.sendsBy (s : State) (p : Nat) (pk : Packet) : Bool :=
  (s.port p).state.carries && !s.fenced p && (decide (pk.job = 0) || !s.listedMissing p)

/-- A packet leaves by a port: it waits there for credit, or is dropped where the port does not pass it (R248, R260). -/
def State.queuePacket (s : State) (p : Nat) (q : Queued) : State :=
  let pt := s.port p
  if s.sendsBy p q.packet then s.setPort p { pt with txq := pt.txq ++ [q] } else s.dropQueued q

/-- A packet of this device's own injection leaves by a port. -/
def State.sendPacket (s : State) (p : Nat) (pk : Packet) : State := s.queuePacket p ⟨4, none, pk⟩

/-- A packet with its route fields: waypoint, class and virtual channel. -/
def routedPacket (pk : Packet) (r : Route) (vc : BitVec 2) : Packet :=
  { pk with
    waypoint := (r.waypoint.map Place.coord).getD 0, wpValid := r.waypoint.isSome, detour := false, vc := vc }

/-- A packet of this device is sent along a route. -/
def State.launchPacket (s : State) (pk : Packet) (r : Route) (vc : BitVec 2) : State :=
  let s := if r.waypoint.isSome then s.odAdd Od.detourPackets 1 else s
  s.sendPacket r.port (routedPacket pk r vc)

/-- A response goes back by this device's plan; an unreachable requester gets none (R257, R258). -/
def State.sendResponse (s : State) (vc : BitVec 2) (pk : Packet) : State :=
  match s.route s.place (Place.ofCoord pk.dst) with
  | none => s
  | some r => s.launchPacket pk r (if vc = 3 ∨ s.leavesRect pk.job r.path then 3 else 1)

/-! ### Jobs (R101, R125) -/

/-- The traffic classes in which the LAUNCH of a core makes arrival-order adds (R128). -/
def State.coreArrival (s : State) (core : Nat) : Nat :=
  (((s.core core).launch.bind s.cmd?).map fun c => c.arrival.toNat).getD 0

/-- The traffic classes in which a job may make arrival-order adds. -/
def State.arrivalMask (s : State) (job : BitVec 16) : Nat :=
  match s.jobSlot? job with
  | some i => s.odGet (Od.arrivalClassMask i)
  | none => 0

/-! ### The key check (R269, R270) -/

def regBase (e : BitVec 128) : Nat := (e.extractLsb' 40 28).toNat * 4096
def regEnd (e : BitVec 128) : Nat := (e.extractLsb' 68 28).toNat * 4096 + 4096
def regKey (e : BitVec 128) : BitVec 32 := e.extractLsb' 96 32
def regLevel (e : BitVec 128) : Nat := (e.extractLsb' 32 2).toNat
def regSlot (e : BitVec 128) : Nat := (e.extractLsb' 34 6).toNat
def regValid (e : BitVec 128) : Bool := e.getLsbD 0
def regCoherent (e : BitVec 128) : Bool := e.getLsbD 6
def regFrozen (e : BitVec 128) : Bool := e.getLsbD 7
def regStrict (e : BitVec 128) : Bool := e.getLsbD 8

/-- What an access does, for the permission bits. -/
inductive Access where
  | read | write | atomic | reduce
  deriving DecidableEq, Repr

def Access.bit : Access → Nat
  | .read => 1 | .write => 2 | .atomic => 3 | .reduce => 4

/-- The valid region entry that covers every byte of a range. -/
def State.region? (s : State) (a n : Nat) : Option (BitVec 128) :=
  (List.find? (fun e => regValid e.2 && decide (regBase e.2 ≤ a) && decide (a + n ≤ regEnd e.2)) s.fab.regions).map (·.2)

/-- The key check: the first failure with its DETAIL. Levels: 0 platform, 1 supervisor, 2 user. -/
def State.keyCheck (s : State) (a n : Nat) (key : BitVec 32) (acc : Access) (level : Nat) (remote : Bool) :
    Option (Status × BitVec 8) :=
  match s.region? a n with
  | none => some (Status.keyMismatch, 0x02)
  | some e =>
    if key = 0 ∨ regKey e ≠ key then some (Status.keyMismatch, 0x03)
    else if regLevel e < level ∨ (remote && !e.getLsbD 5) ∨ !e.getLsbD acc.bit then some (Status.denied, 0)
    else none

/-- A failed key check is counted, and logged within KEY_LOG_LIMIT: at an ingress port, or at the ring. -/
def State.keyRefused (s : State) (inport : Option Nat) (addr : Nat) (st : Status) (detail : BitVec 8) (src : Coord)
    (master : BitVec 8) (priv : BitVec 2) (job : BitVec 16) : State :=
  let blk := match inport with | some p => 0x0900 + p | none => 0x0700
  let s := match inport with
    | some p => (s.odAdd (Od.portKeyMismatch p) 1).count (portSet p) 0x0907 1
        { Attr.none with master := some master.toNat, priv := some priv.toNat }
    | none => s.odAdd Od.keyMismatchLocal 1
  let r := rateStep (s.odGet Od.keyLogLimit) s.clk.now (SMap.get ([], 0) s.log.keyRate blk)
  let s := { s with log := { s.log with keyRate := SMap.set ([], 0) s.log.keyRate blk r.1 } }
  if r.2 then
    s.event (blk / 256) (blk % 256) 0x0305 sevWarning
      [(16, 5, addr), (21, 1, st.toNat), (22, 1, detail.toNat), (23, 2, src.toNat), (25, 1, master.toNat),
       (26, 2, job.toNat)]
  else s

/-! ### A closed channel (R26) -/

/-- The block that a master code of this device names: type and instance (R17, R261, R450). -/
def masterBlock (m : Nat) : Nat × Nat :=
  if m < 0x80 then (0x03, m)
  else if m < 0x90 then (0x05, m - 0x80)
  else if 0xE0 ≤ m ∧ m < 0xE8 then (0x06, m - 0xE0)
  else if m = 0xF0 then (0x0A, 0)
  else if m = 0xF1 then (0x0B, 0)
  else if m = 0xF2 then (0x0C, 0)
  else if m = 0xF3 then (0x0E, 0)
  else if m = 0xF5 then (0x14, 0)
  else (0x0D, 0)

/-- A block logs that a request of it reached a closed channel. R26 names no KIND, severity or payload of the record: they
are free (log 80). -/
def State.closedEvent (s : State) (block : Nat × Nat) (addr : Nat) : State :=
  s.event block.1 block.2 (Config.closedKind block.1) (Config.closedSeverity block.1)
    [(16, 8, Config.closedPayload addr 0), (24, 8, Config.closedPayload addr 1)]

/-! ### Memory bursts counted (R452) -/

/-- Bursts of a write in which a word is written in part, and so merged (R234). -/
def mergedBursts (a n : Nat) : Nat :=
  let first := decide (a % 8 ≠ 0)
  let last := decide ((a + n) % 8 ≠ 0)
  if first && last && decide (a / 32 = (a + n) / 32) then 1 else first.toNat + last.toNat

/-- An access of at most 256 bytes counts at the memory that it reaches: `ev` is 0 for a read, 1 for a write, 2 for a
read-modify-write. A write counts the bursts that it merges as read-modify-writes too. -/
def State.countMem (s : State) (a n ev : Nat) (at_ : Attr) : State :=
  let u := (a + n + 31) / 32 - a / 32
  match regionOf a with
  | .hbm =>
    let set := 0x3210 + hbmStack a
    let s := if ev = 1 then s.count set 0x0803 (mergedBursts a n) at_ else s
    s.count set (0x0801 + ev) (if ev = 2 then 1 else u) at_
  | .buffer c => s.count (0x3200 + c) (if ev = 0 then 0x0201 else 0x0202) u { at_ with cls := none }
  | _ => s

/-! ### Requests at their target (R262, R268) -/

/-- A request at its target. -/
structure Req where
  op : BitVec 8
  addr : Nat
  len : Nat
  key : BitVec 32
  job : BitVec 16
  tc : BitVec 3
  priv : BitVec 2
  master : BitVec 8
  src : Coord
  /-- the ingress port; none for the device's own requests -/
  inport : Option Nat
  payload : List Byte
  pmask : BitVec 32
  deriving DecidableEq, Repr

/-- A response: status, DETAIL, payload and PMASK, and whether it was read from a COHERENT region for a domain cache. -/
structure Resp where
  status : Status
  detail : BitVec 8
  payload : List Byte
  pmask : BitVec 32
  coherent : Bool
  deriving DecidableEq, Repr

def Resp.fail (st : Status) (d : BitVec 8) : Resp := ⟨st, d, [], 0, false⟩
def Resp.ok : Resp := ⟨Status.ok, 0, [], 0, false⟩

/-- Bytes that an operation covers at its target, its kind of access, its alignment and its payload; none for an OP that
R262 does not list. A READ or WRITE gives its own length. -/
def reqShape (op : BitVec 8) (len : Nat) : Option (Nat × Access × Nat × Nat) :=
  match op.toNat with
  | 0x01 => some (len, .read, 1, 0)
  | 0x02 => some (len, .write, 1, len)
  | 0x03 => some (8, .atomic, 8, 16)
  | 0x04 | 0x05 => some (8, .atomic, 8, 8)
  | 0x10 => some (16, .reduce, 16, 16)
  | 0x11 | 0x13 | 0x14 => some (4, .reduce, 4, 4)
  | 0x12 | 0x15 | 0x16 => some (2, .reduce, 2, 2)
  | 0x20 => some (len, .write, 1, len)
  | _ => none

/-- An arrival-order add. -/
def opIsAdd (op : BitVec 8) : Bool := decide (op = 0x10) || decide (op = 0x11) || decide (op = 0x12)

/-- PMASK of a read: bit i where a word that holds bytes 8i to 8i + 7 of the payload is poisoned. -/
def payloadMask (a n : Nat) (poison : List Bool) : BitVec 32 :=
  maskBits fun i => decide (8 * i < n) &&
    (List.range' ((a + 8 * i) / 8 - a / 8) ((a + min n (8 * i + 8) + 7) / 8 - (a + 8 * i) / 8)).any fun j =>
      poison.getD j false
where
  /-- The 32-bit mask of a test. -/
  maskBits (f : Nat → Bool) : BitVec 32 :=
    BitVec.ofNat 32 ((List.range 32).foldl (fun v i => if f i then v + 2 ^ i else v) 0)

/-- Bytes of one word, whole or in part, written with their poison (R234, R261). -/
def State.writePart (s : State) (w i : Nat) (bs : List Byte) (poison : Bool) : State :=
  if bs.length = 8 then s.writeWord w (BitVec.ofNat 64 (bytesNat bs)) poison
  else
    let s := s.mergeWord w i bs
    if poison then s.updWord w fun x => codeWord (codeData x) true else s

/-- A payload written at an address: PMASK marks its words. -/
def State.writeMasked (s : State) (a : Nat) (bs : List Byte) (pmask : BitVec 32) : State :=
  (spanWords a bs.length).foldl (fun s w =>
    let lo := max a (8 * w)
    let hi := min (a + bs.length) (8 * w + 8)
    s.writePart w (lo - 8 * w) ((bs.drop (lo - a)).take (hi - lo))
      ((List.range (hi - lo)).any fun j => pmask.getLsbD ((lo - a + j) / 8))) s

/-- The value of FP32 or BF16 maximum and minimum (R268). -/
def extremum (max_ : Bool) (a b : Val) : Val :=
  if a.isNaN || b.isNaN then .nan false
  else if a.lt b then (if max_ then b else a)
  else if b.lt a then (if max_ then a else b)
  else if a.sign = max_ then b else a

/-- The sum of an arrival-order add: a NaN has no sign of its own, so that it does not depend on the order of arrival
(R81, R123). -/
def arrivalSum (a b : Val) : Val := let v := a.add b; if v.isNaN then .nan false else v

/-- The new bits of a reduction's target (R123, R268). -/
def reduceBits (op : BitVec 8) (old new : Nat) : Nat :=
  match op.toNat with
  | 0x10 =>
    let h (x : Nat) : Val := w40Val (BitVec.ofNat 40 x)
    let r := pairAdd (h old) (h (old / 2 ^ 64)) (h new) (h (new / 2 ^ 64))
    (w40Of r.tail).toNat * 2 ^ 64 + (w40Of (if r.head.isNaN then .nan false else r.head)).toNat
  | 0x11 => (fmtEncode 0 true .rne (arrivalSum (fmtDecode 0 old) (fmtDecode 0 new))).1
  | 0x12 => (fmtEncode 1 true .rne (arrivalSum (fmtDecode 1 old) (fmtDecode 1 new))).1
  | 0x13 => (fmtEncode 0 true .rne (extremum true (fmtDecode 0 old) (fmtDecode 0 new))).1
  | 0x14 => (fmtEncode 0 true .rne (extremum false (fmtDecode 0 old) (fmtDecode 0 new))).1
  | 0x15 => (fmtEncode 1 true .rne (extremum true (fmtDecode 1 old) (fmtDecode 1 new))).1
  | _ => (fmtEncode 1 true .rne (extremum false (fmtDecode 1 old) (fmtDecode 1 new))).1

/-- The attributes by which a memory counts a request: through a port the master is 0xF8 + the port (R450). -/
def Req.attr (r : Req) : Attr :=
  { priv := some r.priv.toNat
    master := some (match r.inport with | some p => 0xF8 + p | none => r.master.toNat)
    addr := some r.addr, cls := some r.tc.toNat }

/-- A request that passed its checks, as one indivisible step at its memory. -/
def State.perform (s : State) (r : Req) (n : Nat) : Resp × State :=
  match r.op.toNat with
  | 0x01 =>
    let q := (s.countMem r.addr n 0 r.attr).readBytes r.addr n .demand
    let m := payloadMask r.addr n q.1.2
    (⟨if m = 0 then Status.ok else Status.poisoned, 0, q.1.1, m, false⟩, q.2)
  | 0x02 | 0x20 =>
    (Resp.ok, (s.countMem r.addr n 1 r.attr).writeMasked r.addr r.payload r.pmask)
  | _ =>
    let q := (s.countMem r.addr n 2 r.attr).readNat r.addr n
    if q.1.2 then (Resp.fail Status.poisoned 0, q.2)
    else
      let old := q.1.1
      let v := bytesNat (r.payload.take n)
      match r.op.toNat with
      | 0x03 =>
        (⟨Status.ok, 0, natBytes 8 old, 0, false⟩,
          if old = bytesNat (r.payload.take 8) then q.2.writeNat r.addr 8 (bytesNat (r.payload.drop 8)) else q.2)
      | 0x04 => (⟨Status.ok, 0, natBytes 8 old, 0, false⟩, q.2.writeNat r.addr 8 v)
      | 0x05 => (⟨Status.ok, 0, natBytes 8 old, 0, false⟩, q.2.writeNat r.addr 8 (old + v))
      | _ =>
        let s := if opIsAdd r.op then q.2.odAdd Od.arrivalAddCount 1 else q.2
        (Resp.ok, s.writeNat r.addr n (reduceBits r.op old v))

/-! ### Coherence (R273, R274) -/

/-- Two devices are in one coherence domain, as this device's plan has it. -/
def State.sameDomain (s : State) (c : Coord) : Bool :=
  let p := Place.ofCoord c
  let q := s.place
  decide (s.odGet Od.meshDomain = 1) && s.inPlan p && decide (p.x / 2 = q.x / 2) && decide (p.y / 2 = q.y / 2) &&
    decide (p ≠ q)

/-- An INVALIDATE that the lost and fenced port of its route cuts off, or that has no route, is answered at once, with
TIMEOUT: no acknowledgement of that sharer is awaited (R382). -/
def State.invReach (s : State) (c : Coord) : Bool :=
  match s.route s.place (Place.ofCoord c) with
  | none => false
  | some r => !s.fenced r.port

/-- The sharers that the directory records for a line. -/
def State.sharers (s : State) (line : Nat) : List Coord :=
  ((s.fab.directory.find? fun e => decide (e.1 = line)).map (·.2)).getD []

/-- An INVALIDATE to a sharer (R262, R274). It opens no transaction, and its TAG names the sharer (log 82). -/
def State.sendInvalidate (s : State) (line : Nat) (c : Coord) : State :=
  let pk : Packet :=
    { key := 0, addr := BitVec.ofNat 40 (128 * line), job := 0, tag := c, srcMaster := 0xF4, tc := 0, priv := 0, len := 0
      waypoint := 0, wpValid := false, detour := false, vc := 0, src := s.self, dst := c, mcCount := 0, mcDir := false
      mcAxis := false, status := 0, detail := 0, op := 0x30, pmask := 0, payload := [] }
  match s.route s.place (Place.ofCoord c) with
  | none => s
  | some r => s.launchPacket pk r 0

/-- The home forgets a line and sends INVALIDATE to its sharers. -/
def State.invalidateLine (s : State) (line : Nat) : State :=
  let cs := s.sharers line
  let s := { s with fab := { s.fab with directory := s.fab.directory.filter fun e => decide (e.1 ≠ line) } }
  cs.foldl (fun s c => s.sendInvalidate line c) s

/-- The acknowledgements of a line that are still to come: the newest wait for some of them is for all of them. -/
def State.openAcks (s : State) (line : Nat) : List (Nat × Coord) :=
  match s.fab.invWaits.reverse.find? fun w => w.waiting.any fun x => decide (x.1 = line) with
  | some w => w.waiting.filter fun x => decide (x.1 = line)
  | none => []

/-- What an operation on a line waits for before it completes: the acknowledgements of its own INVALIDATEs, and of those
before it (R274). -/
def State.lineAcks (s : State) (line : Nat) : List (Nat × Coord) :=
  s.openAcks line ++ ((s.sharers line).filter s.invReach).map (line, ·)

/-- The home records a sharer of a line; the line becomes the most recently used. -/
def State.recordSharer (s : State) (line : Nat) (c : Coord) : State :=
  let cs := s.sharers line
  let e := (line, if cs.contains c then cs else c :: cs)
  { s with fab := { s.fab with directory := e :: s.fab.directory.filter fun e => decide (e.1 ≠ line) } }

/-- The least recently used line of a full directory, which must be invalidated before a new line takes its entry. -/
def State.victimLine (s : State) (line : Nat) : Option Nat :=
  if s.fab.directory.length < 65536 ∨ s.fab.directory.any (fun e => decide (e.1 = line)) then none
  else (s.fab.directory.getLast?).map (·.1)

/-- A write of this device's own engines or host invalidates the shared lines of its range (R274). -/
def State.coherentWrite (s : State) (a n : Nat) : State :=
  let es := s.fab.directory.filter fun e =>
    decide (a / 128 ≤ e.1) && decide (e.1 ≤ (a + n - 1) / 128) && !e.2.isEmpty
  es.foldl (fun s e =>
    let w := s.lineAcks e.1
    let s := s.invalidateLine e.1
    if w.isEmpty then s else { s with fab := { s.fab with invWaits := s.fab.invWaits ++ [⟨w, none⟩] } }) s

/-- A range cut at multiples of 256: address and bytes of each piece (fuel: the bytes). -/
def granulesFuel : Nat → Nat → Nat → List (Nat × Nat)
  | 0, _, _ => []
  | k + 1, a, n =>
    if n = 0 then []
    else
      let m := min n (256 - a % 256)
      (a, m) :: granulesFuel k (a + m) (n - m)

def granules (a n : Nat) : List (Nat × Nat) := granulesFuel (n / 256 + 2) a n

/-- The attributes of a master of this device: its code, its level and its traffic class (R450). -/
def devAttr (master priv : Nat) : Attr := { priv := some priv, master := some master, addr := none, cls := some 0 }

/-- Accesses of a master of this device are counted at the memories (R452). -/
def State.countSpan (s : State) (at_ : Attr) (ev a n : Nat) : State :=
  (granules a n).foldl (fun s g => s.countMem g.1 g.2 ev { at_ with addr := some g.1 }) s

/-- A master of this device reads a range. -/
def State.devRead (s : State) (at_ : Attr) (a n : Nat) : (List Byte × List Bool) × State :=
  (s.countSpan at_ 0 a n).readBytes a n .demand

/-- A master of this device writes a range with clean data. -/
def State.devWrite (s : State) (at_ : Attr) (a : Nat) (bs : List Byte) : State :=
  ((s.countSpan at_ 1 a bs.length).coherentWrite a bs.length).writeBytes a bs

/-- No acknowledgement is awaited for the lines of a range. -/
def State.linesAcked (s : State) (a n : Nat) : Bool :=
  !s.fab.invWaits.any fun v => v.waiting.any fun x => decide (a / 128 ≤ x.1) && decide (x.1 ≤ (a + n - 1) / 128)

/-! ### A request is served (R262, R270, R274) -/

/-- The acknowledgements that the response to a request waits for first: lines and sharers; none where there are none. -/
abbrev Wait := Option (List (Nat × Coord))

def waitOf (l : List (Nat × Coord)) : Wait := if l.isEmpty then none else some l

/-- A domain device's load of a COHERENT line is recorded in the directory. -/
def State.shareLine (s : State) (r : Req) : Wait × State :=
  let line := r.addr / 128
  match s.victimLine line with
  | some l => (waitOf (s.lineAcks l), (s.invalidateLine l).recordSharer line r.src)
  | none => (none, s.recordSharer line r.src)

/-- The lines that a range of 1 to 256 bytes covers. -/
def spanLines (a n : Nat) : List Nat := List.range' (a / 128) ((a + n - 1) / 128 - a / 128 + 1)

/-- The home invalidates the lines of a range before it writes them: the acknowledgements to wait for (R274). -/
def State.claimLines (s : State) (a n : Nat) : Wait × State :=
  (waitOf ((spanLines a n).flatMap s.lineAcks),
    (spanLines a n).foldl (fun s l => s.invalidateLine l) s)

/-- A request that cannot be served, of an OP that R262 does not list or of the level 0b11: its address and its key come
before that (R11, R261, R262). It covers LEN bytes, and is of no kind of access and of no level. -/
def State.refuseReq (s : State) (r : Req) : Resp × Wait × State :=
  let n := ((reqShape r.op r.len).map (·.1)).getD (max 1 r.len)
  if n = 0 ∨ !s.mapped (s.jobSide r.job) r.addr n then (Resp.fail Status.notFound 0, none, s)
  else
    match s.keyCheck r.addr n r.key .read 0 false with
    | some (st, d) =>
      if st = Status.keyMismatch then (Resp.fail st d, none, s.keyRefused r.inport r.addr st d r.src r.master r.priv r.job)
      else (Resp.fail Status.refused 0, none, s)
    | none => (Resp.fail Status.refused 0, none, s)

/-- The traffic classes in which a request may add: those that its LAUNCH sampled, for a core of this device, and otherwise
those of its job's slot now (R125, R128). -/
def State.addMask (s : State) (r : Req) : Nat :=
  if r.inport.isNone ∧ r.master.toNat < 128 then s.coreArrival r.master.toNat else s.arrivalMask r.job

/-- The block of this device that sends a request: the ingress port, or the master (R17, R261). -/
def Req.block (r : Req) : Nat × Nat :=
  match r.inport with
  | some p => (0x09, p)
  | none => masterBlock r.master.toNat

/-- A request at its target: its checks, its effect, its response, and the acknowledgements that the response waits for. A
request that reaches a closed channel is REFUSED, and its sender logs it (R26). -/
def State.serveReq (s : State) (r : Req) : Resp × Wait × State :=
  match if r.priv = 3 then none else reqShape r.op r.len with
  | none => s.refuseReq r
  | some (n, acc, align, plen) =>
    let key := if n = 0 then none else s.keyCheck r.addr n r.key acc r.priv.toNat r.inport.isSome
    let absent := decide (n = 0) || !s.mapped (s.jobSide r.job) r.addr n
    match key with
    | some (st, d) =>
      if absent && decide (st ≠ Status.denied) then (Resp.fail Status.notFound 0, none, s)
      else (Resp.fail st d, none, s.keyRefused r.inport r.addr st d r.src r.master r.priv r.job)
    | none =>
      if absent then (Resp.fail Status.notFound 0, none, s)
      else
        if 256 < n ∨ r.addr / 256 ≠ (r.addr + n - 1) / 256 ∨ r.addr % align ≠ 0 ∨
            r.payload.length ≠ plen ∨ regionOf r.addr = .window ∨
            (opIsAdd r.op && !(s.addMask r).testBit r.tc.toNat) then
          (Resp.fail Status.refused 0, none, s)
        else if s.channelClosed r.addr then (Resp.fail Status.refused 0, none, s.closedEvent r.block r.addr)
        else
          let coh := ((s.region? r.addr n).map regCoherent).getD false
          if acc = .read then
            let q := s.perform r n
            if coh && s.sameDomain r.src && decide (r.master.toNat < 128) then
              let w := q.2.shareLine r
              ({ q.1 with coherent := true }, w.1, w.2)
            else (q.1, none, q.2)
          else
            let w := if coh then s.claimLines r.addr n else (none, s)
            let q := w.2.perform r n
            (q.1, w.1, q.2)

/-- The packet that answers a request packet. -/
def respPacket (req : Packet) (self : Coord) (x : Resp) : Packet :=
  { req with
    key := 0, len := x.payload.length, waypoint := 0, wpValid := false, detour := false, src := self, dst := req.src
    mcCount := 0, mcDir := false, mcAxis := false, status := x.status, detail := x.detail
    op := req.op ||| 0x80, pmask := x.pmask, payload := x.payload }

/-- The request of a packet that arrived by a port. -/
def packetReq (pk : Packet) (inport : Option Nat) : Req :=
  { op := pk.op, addr := pk.addr.toNat, len := pk.len, key := pk.key, job := pk.job, tc := pk.tc, priv := pk.priv
    master := pk.srcMaster, src := pk.src, inport := inport, payload := pk.payload, pmask := pk.pmask }

/-! ### Transactions (R266, R267) -/

/-- The tracker entry of lowest number that is free; one of which a response is still to come is taken last, the oldest of
those first (R267, log 81). -/
def State.freeTag (s : State) : Option Nat :=
  let free := (List.range 4096).filter fun t => !s.fab.tracker.any fun x => decide (x.tag = t)
  match free.find? fun t => !s.fab.late.any fun x => decide (x.1 = t) with
  | some t => some t
  | none => (s.fab.late.map (·.1)).find? fun t => free.contains t

/-- Transactions end without their responses: their tags wait for those (R267). -/
def State.leaveLate (s : State) (l : List Tx) : State :=
  { s with fab := { s.fab with late := s.fab.late ++ l.map fun t => (t.tag, max 1 t.left.length) } }

/-- A response that comes too late is discarded and counted (R267). -/
def State.lateResponse (s : State) (tag : Nat) : State :=
  { s with fab := { s.fab with late := s.fab.late.filterMap fun (x : Nat × Nat) =>
      if x.1 = tag then (if x.2 ≤ 1 then none else some (x.1, x.2 - 1)) else some x } }.odAdd Od.lateResponseCount 1

/-- A transaction to open: its request packet but for the tag, and its owner. -/
structure NewTx where
  dst : Coord
  op : BitVec 8
  addr : BitVec 40
  len : Nat
  key : BitVec 32
  job : BitVec 16
  master : BitVec 8
  tc : BitVec 3
  priv : BitVec 2
  payload : List Byte
  pmask : BitVec 32
  mc : BitVec 6 × Bool × Bool
  /-- VC 2, for the traffic of the stage-handoff engine -/
  engine : Bool
  owner : TxOwner

def NewTx.packet (t : NewTx) (self : Coord) (tag : Nat) : Packet :=
  { key := t.key, addr := t.addr, job := t.job, tag := BitVec.ofNat 12 tag, srcMaster := t.master, tc := t.tc
    priv := t.priv, len := t.len, waypoint := 0, wpValid := false, detour := false, vc := 0, src := self, dst := t.dst
    mcCount := t.mc.1, mcDir := t.mc.2.1, mcAxis := t.mc.2.2, status := 0, detail := 0, op := t.op, pmask := t.pmask
    payload := t.payload }

/-- What a multicast waits for here: its own acknowledgements, and those that an earlier one of its master still waits for,
so that they go on in the order in which they came (R271). -/
def State.mcWait (s : State) (pk : Packet) (w : Wait) : Wait :=
  let before := (s.fab.invWaits.filter fun v => match v.response with
    | some q => decide (q.op = 0x20) && decide (q.src = pk.src) && decide (q.srcMaster = pk.srcMaster)
    | none => false).getLast?
  match before with
  | some v => waitOf (w.getD [] ++ (w.getD []).foldl List.erase v.waiting)
  | none => w

/-- A response that waits for acknowledgements is kept (R274). -/
def State.awaitAcks (s : State) (w : List (Nat × Coord)) (pk : Packet) : State :=
  { s with fab := { s.fab with invWaits := s.fab.invWaits ++ [⟨w, some pk⟩] } }

/-- The further devices of a multicast from a place: count, direction and axis (R268). -/
def mcLine (p : Place) (mc : BitVec 6 × Bool × Bool) : List Place :=
  (List.range mc.1.toNat).map fun i =>
    match mc.2.2, mc.2.1 with
    | false, false => ⟨p.x + i + 1, p.y⟩
    | false, true => ⟨p.x - (i + 1), p.y⟩
    | true, false => ⟨p.x, p.y + i + 1⟩
    | true, true => ⟨p.x, p.y - (i + 1)⟩

/-- A multicast packet after this device has stored, or failed to: the first failure and the number of failures. -/
def mcStored (pk : Packet) (st : Status) : Packet :=
  if st = Status.ok then pk
  else { pk with status := if pk.status = Status.ok then st else pk.status, detail := pk.detail + 1 }

/-- A packet goes on by a port. A request that a fence cuts off is answered with TIMEOUT before it is dropped (R382). -/
def State.sendOnward (s : State) (p : Nat) (q : Queued) : State :=
  let pk := q.packet
  if s.fenced p && !pk.op.getLsbD 7 && decide (pk.op < 0x40) && decide (pk.src ≠ s.self) then
    (s.sendResponse pk.vc (respPacket pk s.self (Resp.fail Status.timeout 0x01))).queuePacket p q
  else s.queuePacket p q

/-- A multicast packet moves on to the next device of its line, in the route class that it has come in (R257, R268). -/
def State.mcForward (s : State) (pk : Packet) : State :=
  match mcLine s.place (1, pk.mcDir, pk.mcAxis) with
  | [] => s
  | q :: _ =>
    s.sendOnward (portToward s.place q)
      ⟨4, none, { pk with dst := q.coord, mcCount := pk.mcCount - 1, waypoint := 0, wpValid := false }⟩

/-- A transaction's request leaves by its route, and the tracker holds it. -/
def State.trackTx (s : State) (tag port : Nat) (t : NewTx) : State :=
  let tx : Tx :=
    { tag := tag, seq := s.fab.nextSeq, dst := t.dst, port := port, op := t.op, addr := (t.dst ++ t.addr).setWidth 64
      size := t.len, deadline := s.clk.now + 1000 * s.odGet Od.remoteTimeout, owner := t.owner, left := []
      reach := if t.op = 0x20 then t.dst :: (mcLine (Place.ofCoord t.dst) t.mc).map Place.coord else [], stale := false }
  { s with fab := { s.fab with
    tracker := s.fab.tracker ++ [tx], late := s.fab.late.filter fun x => decide (x.1 ≠ tag) } }

/-- A transaction that ends with TIMEOUT is counted and logged (R279, R280). -/
def State.timeoutNoted (s : State) (tag : Nat) (dst : Coord) (op master : BitVec 8) : State :=
  (s.odAdd Od.remoteTimeoutCount 1).event 0x07 0 0x0306 sevWarning
    [(16, 2, tag), (18, 2, dst.toNat), (20, 1, op.toNat), (21, 1, master.toNat)]

/-- A request of this device is served by its own memory; a multicast then goes on along its line. -/
def State.openLocal (s : State) (tag : Nat) (t : NewTx) (pk : Packet) : Option Resp × State :=
  let r := s.serveReq (packetReq pk none)
  let more := decide (t.op = 0x20) && decide (t.mc.1 ≠ 0)
  let line := mcLine s.place t.mc
  let port := firstPort (s.place :: line)
  let vc : BitVec 2 := if s.leavesRect t.job line then 3 else 0
  let onward := mcStored { pk with vc := vc } r.1.status
  match if t.op = 0x20 then s.mcWait pk r.2.1 else r.2.1 with
  | some w =>
    if more then (none, (r.2.2.trackTx tag port t).awaitAcks w onward)
    else (none, (r.2.2.trackTx tag 4 t).awaitAcks w (respPacket pk s.self r.1))
  | none =>
    if more then
      if s.fenced port then
        (some (Resp.fail Status.timeout 0x01), (r.2.2.odAdd Od.packetsDropped 1).timeoutNoted tag t.dst t.op t.master)
      else (none, (r.2.2.trackTx tag port t).mcForward onward)
    else if t.op = 0x20 ∧ r.1.status ≠ Status.ok then (some { r.1 with detail := 1 }, r.2.2)
    else (some r.1, r.2.2)

/-- The virtual channel of a request along a route (R258). -/
def State.txVc (s : State) (t : NewTx) (r : Route) : BitVec 2 :=
  if t.engine then 2 else if s.leavesRect t.job (r.path ++ mcLine (Place.ofCoord t.dst) t.mc) then 3 else 0

/-- A transaction is opened and its request is served or sent. The response comes with it where it is known at once: the
device's own memory answered, the destination is unreachable (R257), or the lost port is fenced (R382). The tag must be
free. -/
def State.openTx (s : State) (tag : Nat) (t : NewTx) : Option Resp × State :=
  let t := { t with dst := (s.subst (Place.ofCoord t.dst)).coord }
  let pk := t.packet s.self tag
  let r : Option Resp × State :=
    if t.dst = s.self then s.openLocal tag t pk
    else
      match s.route s.place (Place.ofCoord t.dst) with
      | none => (some (Resp.fail Status.planMismatch 0), s)
      | some r =>
        if s.fenced r.port then
          (some (Resp.fail Status.timeout 0x01), (s.odAdd Od.packetsDropped 1).timeoutNoted tag t.dst t.op t.master)
        else (none, (s.trackTx tag r.port t).launchPacket pk r (s.txVc t r))
  (r.1, { r.2 with fab := { r.2.fab with nextSeq := r.2.fab.nextSeq + 1 } })

/-- A transaction that has been sent has further packets, under its tag and along its route: the tracker holds each of its
packets by local address and bytes until it is answered (R266). -/
def State.openMore (s : State) (tag : Nat) (t : NewTx) (more : List (BitVec 40 × List Byte)) : State :=
  let t := { t with dst := (s.subst (Place.ofCoord t.dst)).coord }
  match more, s.route s.place (Place.ofCoord t.dst) with
  | [], _ => s
  | _, none => s
  | _, some r =>
    let s := { s with fab := { s.fab with tracker := s.fab.tracker.map fun q =>
      if q.tag = tag then { q with left := (t.addr.toNat, t.len) :: more.map fun m => (m.1.toNat, m.2.length) } else q } }
    more.foldl (fun s m =>
      let u := { t with addr := m.1, len := m.2.length, payload := m.2 }
      s.launchPacket (u.packet s.self tag) r (s.txVc u r)) s

end Sys2Proof.Machine
end

