-- ==== Sys2Proof/Machine/Groups.lean ====
section
/-!
DEFINITION. Collective groups: lattices, ranks and chains (R281, R282), and the check that a chain stays inside the
rectangle of its job (R284).
-/

namespace Sys2Proof.Machine

/-- A group entry. -/
structure Grp where
  job : Nat
  x0 : Nat
  y0 : Nat
  nx : Nat
  ny : Nat
  sx : Nat
  sy : Nat
  snake : Bool
  deriving DecidableEq, Repr

def State.grp (s : State) (g : Nat) : Grp :=
  { job := s.odGet (Od.grpJob g), x0 := s.odGet (Od.grpX0 g), y0 := s.odGet (Od.grpY0 g), nx := s.odGet (Od.grpNx g)
    ny := s.odGet (Od.grpNy g), sx := s.odGet (Od.grpSx g), sy := s.odGet (Od.grpSy g)
    snake := decide (s.odGet (Od.grpShape g) = 1) }

def Grp.size (g : Grp) : Nat := g.nx * g.ny

/-- The lattice place of a rank (R282). -/
def Grp.member (g : Grp) (rank : Nat) : Place :=
  let j := rank / g.nx
  let i := if g.snake && decide (j % 2 = 1) then g.nx - 1 - rank % g.nx else rank % g.nx
  ⟨g.x0 + i * g.sx, g.y0 + j * g.sy⟩

/-- The device that holds a rank: the lattice's, or its substitute (R387). -/
def State.memberOf (s : State) (g : Grp) (rank : Nat) : Place := s.subst (g.member rank)

/-- This device's rank, if it is a member of a group in use. -/
def State.rankIn? (s : State) (g : Grp) : Option Nat :=
  if g.job = 0 then none else (List.range g.size).find? fun r => decide (s.memberOf g r = s.place)

/-- Ranks of the row predecessor, column predecessor, row successor and column successor of a rank. -/
def Grp.rowPred (g : Grp) (r : Nat) : Option Nat :=
  if g.snake then (if 0 < r then some (r - 1) else none) else if 0 < r % g.nx then some (r - 1) else none
def Grp.colPred (g : Grp) (r : Nat) : Option Nat :=
  if g.snake then none else if r % g.nx = g.nx - 1 ∧ g.nx ≤ r then some (r - g.nx) else none
def Grp.rowSucc (g : Grp) (r : Nat) : Option Nat :=
  if g.snake then (if r + 1 < g.size then some (r + 1) else none)
  else if r % g.nx < g.nx - 1 then some (r + 1) else none
def Grp.colSucc (g : Grp) (r : Nat) : Option Nat :=
  if g.snake then none else if r % g.nx = g.nx - 1 ∧ r + g.nx < g.size then some (r + g.nx) else none

/-- The chain predecessors, and the chain successor, of a rank. -/
def Grp.preds (g : Grp) (r : Nat) : List Nat := (g.rowPred r).toList ++ (g.colPred r).toList
def Grp.succ? (g : Grp) (r : Nat) : Option Nat :=
  match g.rowSucc r with
  | some k => some k
  | none => g.colSucc r

/-- Neighbours of a rank on the chain: predecessors, then the successor. -/
def State.chainNeighbours (s : State) (g : Grp) (r : Nat) : List Place :=
  (g.preds r ++ (g.succ? r).toList).map (s.memberOf g)

/-- GRP_RANK and GRP_SIZE of an entry at this device (R313). -/
def State.grpRank (s : State) (g : Nat) : Nat := (s.rankIn? (s.grp g)).getD 0xFFFF
def State.grpSize (s : State) (g : Nat) : Nat := (s.grp g).size

/-- The first member, in rank order, that lies outside the job's rectangle or whose step to its successor does (R284). -/
def State.chainLeaves (s : State) (g : Grp) : Option Place :=
  let job := BitVec.ofNat 16 g.job
  ((List.range g.size).find? fun r =>
    s.leavesRect job [s.memberOf g r] ||
    match g.succ? r with
    | none => false
    | some k =>
      match s.route (s.memberOf g r) (s.memberOf g k) with
      | none => true
      | some t => s.leavesRect job t.path).map (s.memberOf g)

end Sys2Proof.Machine
end

