-- ==== Sys2Proof/Machine/Sm.lean ====
section
/-!
DEFINITION. The signature and digest algorithms that R425 names: SM3 (GB/T 32905) and SM2 over the recommended curve
(GB/T 32918). The spec names the standards and states the identifier, the encodings and the byte order; the algorithms and
their constants are the standards' (log 11).
-/

namespace Sys2Proof

open Machine

/-! ### Big-endian byte strings, as the standards write integers -/

def beNat (bs : List Byte) : Nat := bytesNat bs.reverse
def beBytes (n v : Nat) : List Byte := (natBytes n v).reverse

/-! ### SM3 -/

/-- Bytes of a message after padding: a one bit, zeros, and the length in bits in 64 bits. -/
def sm3Pad (m : List Byte) : List Byte :=
  m ++ 0x80 :: List.replicate ((119 - m.length % 64) % 64) 0 ++ beBytes 8 (8 * m.length)

def sm3P0 (x : BitVec 32) : BitVec 32 := x ^^^ x.rotateLeft 9 ^^^ x.rotateLeft 17
def sm3P1 (x : BitVec 32) : BitVec 32 := x ^^^ x.rotateLeft 15 ^^^ x.rotateLeft 23

/-- Words `j - 16` to `j - 1` of the expansion give word `j`; `n` more words. -/
def sm3Expand : Nat → List (BitVec 32) → List (BitVec 32)
  | 0, w => w
  | n + 1, w =>
    let back (k : Nat) : BitVec 32 := w.getD (w.length - k) 0
    sm3Expand n (w ++
      [sm3P1 (back 16 ^^^ back 9 ^^^ (back 3).rotateLeft 15) ^^^ (back 13).rotateLeft 7 ^^^ back 6])

/-- The eight registers A to H. -/
structure Sm3Regs where
  a : BitVec 32
  b : BitVec 32
  c : BitVec 32
  d : BitVec 32
  e : BitVec 32
  f : BitVec 32
  g : BitVec 32
  h : BitVec 32

/-- Round `j` with its words W and W'. -/
def sm3Round (r : Sm3Regs) (j : Nat) (w w' : BitVec 32) : Sm3Regs :=
  let t : BitVec 32 := if j < 16 then 0x79CC4519 else 0x7A879D8A
  let ss1 := (r.a.rotateLeft 12 + r.e + t.rotateLeft (j % 32)).rotateLeft 7
  let ff := if j < 16 then r.a ^^^ r.b ^^^ r.c else (r.a &&& r.b) ||| (r.a &&& r.c) ||| (r.b &&& r.c)
  let gg := if j < 16 then r.e ^^^ r.f ^^^ r.g else (r.e &&& r.f) ||| (~~~r.e &&& r.g)
  let tt1 := ff + r.d + (ss1 ^^^ r.a.rotateLeft 12) + w'
  let tt2 := gg + r.h + ss1 + w
  { a := tt1, b := r.a, c := r.b.rotateLeft 9, d := r.c, e := sm3P0 tt2, f := r.e, g := r.f.rotateLeft 19, h := r.g }

/-- The compression of one block of 64 bytes. -/
def sm3Compress (v : Sm3Regs) (block : List Byte) : Sm3Regs :=
  let w := sm3Expand 52 ((List.range 16).map fun i => BitVec.ofNat 32 (beNat ((block.drop (4 * i)).take 4)))
  let r := (List.range 64).foldl (fun r j => sm3Round r j (w.getD j 0) (w.getD j 0 ^^^ w.getD (j + 4) 0)) v
  { a := r.a ^^^ v.a, b := r.b ^^^ v.b, c := r.c ^^^ v.c, d := r.d ^^^ v.d, e := r.e ^^^ v.e, f := r.f ^^^ v.f
    g := r.g ^^^ v.g, h := r.h ^^^ v.h }

def sm3Start : Sm3Regs :=
  ⟨0x7380166F, 0x4914B2B9, 0x172442D7, 0xDA8A0600, 0xA96F30BC, 0x163138AA, 0xE38DEE4D, 0xB0FB0E4E⟩

/-- The 32 bytes of the digest. -/
def sm3Bytes (m : List Byte) : List Byte :=
  let p := sm3Pad m
  let r := (List.range (p.length / 64)).foldl (fun v i => sm3Compress v ((p.drop (64 * i)).take 64)) sm3Start
  [r.a, r.b, r.c, r.d, r.e, r.f, r.g, r.h].flatMap fun x => beBytes 4 x.toNat

/-- SM3 of a byte string: the digest's first byte in bits [7:0]. -/
def sm3 (m : List Byte) : BitVec 256 := BitVec.ofNat 256 (bytesNat (sm3Bytes m))

/-! ### The curve -/

def sm2P : Nat := 0xFFFFFFFEFFFFFFFFFFFFFFFFFFFFFFFFFFFFFFFF00000000FFFFFFFFFFFFFFFF
def sm2A : Nat := 0xFFFFFFFEFFFFFFFFFFFFFFFFFFFFFFFFFFFFFFFF00000000FFFFFFFFFFFFFFFC
def sm2B : Nat := 0x28E9FA9E9D9F5E344D5A9E4BCF6509A7F39789F515AB8F92DDBCBD414D940E93
def sm2N : Nat := 0xFFFFFFFEFFFFFFFFFFFFFFFFFFFFFFFF7203DF6B21C6052B53BBF40939D54123
def sm2Gx : Nat := 0x32C4AE2C1F1981195F9904466A39C9948FE30BBFF2660BE1715A4589334C74C7
def sm2Gy : Nat := 0xBC3736A2F4F6779C59BDCEE36B692153D0A9877CC62A474002DF32E52139F0A0

/-- `b` to the power `e` modulo `m`, for an exponent below `2^k`. -/
def powMod (m : Nat) : Nat → Nat → Nat → Nat
  | 0, _, _ => 1 % m
  | k + 1, b, e => (if e % 2 = 1 then b else 1) * powMod m k (b * b % m) (e / 2) % m

/-- The inverse modulo a prime below `2^256`. -/
def invMod (m x : Nat) : Nat := powMod m 256 (x % m) (m - 2)

/-- The difference modulo `m` of numbers below it. -/
def subMod (m a b : Nat) : Nat := (a + m - b) % m

/-- A point of the curve: none is the point at infinity. -/
abbrev CurvePoint := Option (Nat × Nat)

/-- The third point of the line with slope `l` through `p` and `q`, mirrored. -/
def chord (l : Nat) (p q : Nat × Nat) : CurvePoint :=
  let x := subMod sm2P (subMod sm2P (l * l % sm2P) p.1) q.1
  some (x, subMod sm2P (l * subMod sm2P p.1 x % sm2P) p.2)

def pointAdd : CurvePoint → CurvePoint → CurvePoint
  | none, q => q
  | p, none => p
  | some p, some q =>
    if p.1 ≠ q.1 then chord (subMod sm2P q.2 p.2 * invMod sm2P (subMod sm2P q.1 p.1) % sm2P) p q
    else if p.2 ≠ q.2 ∨ p.2 = 0 then none
    else chord ((3 * p.1 * p.1 + sm2A) * invMod sm2P (2 * p.2) % sm2P) p p

/-- `k` times a point, for a factor below `2^n`. -/
def pointMul : Nat → Nat → CurvePoint → CurvePoint
  | 0, _, _ => none
  | n + 1, k, p => pointAdd (if k % 2 = 1 then p else none) (pointMul n (k / 2) (pointAdd p p))

def sm2G : CurvePoint := some (sm2Gx, sm2Gy)

/-- Coordinates below p that lie on the curve. -/
def onCurve (p : Nat × Nat) : Bool :=
  decide (p.1 < sm2P) && decide (p.2 < sm2P) && decide (p.2 * p.2 % sm2P = (p.1 * p.1 * p.1 + sm2A * p.1 + sm2B) % sm2P)

/-! ### Keys and signatures (R425) -/

/-- A public key of 64 bytes: x then y, each little-endian. -/
def keyPoint (k : BitVec 512) : Nat × Nat := (k.toNat % 2 ^ 256, k.toNat / 2 ^ 256)

/-- The identifier "ARAECELSNIROTHN9" with ENTL 128 before it. -/
def sm2Id : List Byte := beBytes 2 128 ++ "ARAECELSNIROTHN9".toList.map fun c => BitVec.ofNat 8 c.toNat

/-- The signer's Z value. -/
def sm2Z (key : BitVec 512) : List Byte :=
  sm3Bytes (sm2Id ++ ([sm2A, sm2B, sm2Gx, sm2Gy, (keyPoint key).1, (keyPoint key).2].flatMap (beBytes 32)))

/-- The integer of the digest over Z and the signed bytes. -/
def sm2Digest (key : BitVec 512) (m : List Byte) : Nat := beNat (sm3Bytes (sm2Z key ++ m))

/-- Verification: public key, signed bytes, and a signature with r in its lower half and s in its upper. -/
def sm2Verify (key : BitVec 512) (m : List Byte) (sig : BitVec 512) : Bool :=
  let r := sig.toNat % 2 ^ 256
  let t := sig.toNat / 2 ^ 256
  let u := (r + t) % sm2N
  onCurve (keyPoint key) && decide (0 < r ∧ r < sm2N ∧ 0 < t ∧ t < sm2N ∧ u ≠ 0) &&
    match pointAdd (pointMul 256 t sm2G) (pointMul 256 u (some (keyPoint key))) with
    | none => false
    | some p => decide ((sm2Digest key m + p.1) % sm2N = r)

/-- The public key of a private key. -/
def sm2Public (d : BitVec 256) : BitVec 512 :=
  match pointMul 256 d.toNat sm2G with
  | none => 0
  | some p => BitVec.ofNat 512 (p.1 + p.2 * 2 ^ 256)

/-- The signature with the random number `k`; none where the standard draws another. -/
def sm2SignWith (d : BitVec 256) (e k : Nat) : Option (BitVec 512) :=
  match pointMul 256 k sm2G with
  | none => none
  | some p =>
    let r := (e + p.1) % sm2N
    let t := invMod sm2N (1 + d.toNat) * (k + sm2N * sm2N - r * d.toNat) % sm2N
    if r = 0 ∨ r + k = sm2N ∨ t = 0 then none else some (BitVec.ofNat 512 (r + t * 2 ^ 256))

/-- The signature of bytes under a private key, with the first random number drawn that the standard does not reject; the
draws are the device's own (log 11). -/
def sm2Sign (d : BitVec 256) (m : List Byte) : BitVec 512 :=
  let e := sm2Digest (sm2Public d) m
  ((List.range 256).findSome? fun i => sm2SignWith d e (1 + Config.sm2Random d m i % (sm2N - 1))).getD 0

/-- ROOT_KEY_DIGEST: SM3 of the root key's 64 bytes (R426). -/
def romKeyDigest : BitVec 256 := sm3 (natBytes 64 Config.rootKey.toNat)

end Sys2Proof
end

