-- ==== Sys2Proof/Machine/OdServe.lean ====
section
/-!
DEFINITION. The serving of object-dictionary requests (R36 to R51): privilege, existence, access and state checks, the
values of entries, and the answer on each path. What a write to an entry with a behaviour of its own does is in the
families' files.
-/

namespace Sys2Proof.Machine

/-! ### Levels (R43, R44) -/

/-- A range of R43: its bounds, and the lowest level that may read and write; none where no level may. -/
structure OdRange where
  lo : Nat
  hi : Nat
  read : Nat
  write : Option Nat
  deriving DecidableEq, Repr

/-- The ranges of R43. Levels: 0 platform, 1 supervisor, 2 user. -/
def odRanges : List OdRange :=
  [⟨0x1000, 0x10FF, 2, some 1⟩, ⟨0x1100, 0x11FF, 2, none⟩, ⟨0x1200, 0x12FF, 1, some 0⟩, ⟨0x1400, 0x14FF, 2, none⟩,
   ⟨0x2000, 0x20FF, 1, some 0⟩, ⟨0x2100, 0x21FF, 1, some 1⟩, ⟨0x2200, 0x22FF, 1, some 1⟩, ⟨0x2300, 0x23FF, 1, some 1⟩,
   ⟨0x2400, 0x24FF, 1, some 0⟩, ⟨0x2500, 0x25FF, 1, some 1⟩, ⟨0x2600, 0x26FF, 1, some 1⟩, ⟨0x2700, 0x27FF, 1, some 1⟩,
   ⟨0x2800, 0x28FF, 1, some 1⟩, ⟨0x2900, 0x29FF, 1, some 0⟩, ⟨0x3000, 0x3FFF, 1, some 1⟩, ⟨0x4000, 0x4FFF, 1, some 1⟩,
   ⟨0x5000, 0x5FFF, 1, some 1⟩, ⟨0x6000, 0x6FFF, 1, some 1⟩]

def odRange? (idx : Nat) : Option OdRange := odRanges.find? fun r => decide (r.lo ≤ idx) && decide (idx ≤ r.hi)

/-- The level that a listing states for a write of a value, in place of the range's (R43, R76, R401, R446). -/
def odWriteLevel? (idx sub v : Nat) : Option Nat :=
  if idx = 0x1002 ∧ sub = 1 then some (if v = 3 then 0 else 1)
  else if idx = 0x1010 ∧ (sub = 1 ∨ sub = 2) then some 0
  else if idx = 0x2903 ∧ sub = 1 then some 1
  else if 0x2120 ≤ idx ∧ idx ≤ 0x2127 ∧ sub = 3 then some 0
  else if idx = 0x5000 ∧ 1 ≤ sub ∧ sub ≤ 3 then some 0
  else none

/-- The level of a path (R44). -/
def pathLevel : OdPath → Nat
  | .theost _ _ => 0
  | .mailbox _ | .direct => 1
  | .core _ _ => 2

/-- The code of a path in OD_REQUEST_FAILED (R78). -/
def pathCode : OdPath → Nat
  | .mailbox _ => 0
  | .direct => 1
  | .theost _ _ => 2
  | .core _ _ => 3

/-- A write is DENIED: in ALARMED (R47), under FIELD_ACCESS (R44), or below the entry's level. -/
def State.writeDenied (s : State) (via : OdPath) (idx sub v : Nat) : Bool :=
  s.dev.state = .alarmed ||
  (match via with
    | .theost _ _ => decide (s.odGet Od.fieldAccess = 1) && !decide (Od.key idx sub = Od.fieldAccess)
    | _ => false) ||
  match odRange? idx with
  | none => false
  | some r =>
    match odWriteLevel? idx sub v with
    | some l => decide (l < pathLevel via)
    | none => match r.write with
      | none => true
      | some l => decide (l < pathLevel via)

/-- Indices that a device in ALARMED, or the ROM, still reads (R47, R429). -/
def odReadAlways (idx : Nat) : Bool := decide (idx / 256 = 0x10) || decide (idx / 4096 = 4)

/-- A read is DENIED. The level that a listing names for an entry that can only be written, as platform level for 0x1010:01
and 02, is taken to govern writes alone: such a read is REFUSED (DESIGN CHOICE, log 86). -/
def State.readDenied (s : State) (via : OdPath) (idx : Nat) : Bool :=
  (s.dev.state = .alarmed && !odReadAlways idx) ||
  match odRange? idx with
  | none => false
  | some r => decide (r.read < pathLevel via)

/-! ### Existence (R36, R66, R447) -/

/-- The row of an entry that exists now: a type that a Jarast view lacks, and the counters of a block that is not
present, do not. -/
def State.odRow? (s : State) (idx sub : Nat) : Option OdRow :=
  let row := Sys2Proof.Machine.odRow? idx sub
  if 0x1101 ≤ idx ∧ idx ≤ 0x1115 then (if s.odGet (Od.jtInstCount (idx - 0x1101)) = 0 then none else row)
  else if 0x1181 ≤ idx ∧ idx ≤ 0x1195 then (if s.odGet (Od.evalJtInstCount (idx - 0x1181)) = 0 then none else row)
  else if 0x3100 ≤ idx ∧ idx ≤ 0x317F then (if s.coreMapped (idx - 0x3100) then row else none)
  else if 0x3200 ≤ idx ∧ idx ≤ 0x3207 then (if idx - 0x3200 < s.dev.clustersOn then row else none)
  else if 0x3210 ≤ idx ∧ idx ≤ 0x3217 then (if idx - 0x3210 < s.dev.hbmDone then row else none)
  else row

/-! ### Values -/

/-- SLOT_STATE of a bucket (R313). -/
def State.slotState (s : State) (b : Bucket) : Nat :=
  let g := s.grp b.group
  let n := (b.elems + 4095) / 4096
  if n ≤ b.reduced then 3
  else match (s.rankIn? g).bind g.succ? with
    | some k => if b.ready.contains (s.memberOf g k).coord then 2 else 1
    | none => 2

/-- The bucket of a slot. -/
def State.slotBucket? (s : State) (i : Nat) : Option Bucket := s.disp.buckets.find? fun b => decide (b.slot = i)

/-- Code of SELFTEST_STATE (R401). -/
def State.selftestState (s : State) : Nat :=
  match s.selftest with
  | none => 0
  | some t => if t.running then 2 else 1

def PortState.code : PortState → Nat
  | .down => 0 | .training => 1 | .up => 2 | .degraded => 3 | .resize => 4 | .parked => 5 | .disabled => 6

def DevState.code : DevState → Nat
  | .off => 0 | .boot => 1 | .init => 2 | .ready => 3 | .running => 4 | .draining => 5 | .fault => 6 | .alarmed => 7

/-- HO_CREDIT_STALL_NS: a wait that goes on counts up to now (R373). -/
def State.stallTime (s : State) (h : Nat) : Nat :=
  s.odGet (Od.hoCreditStallNs h) + match (SMap.get Channel.initial s.channels h).stallAt with
    | some t => s.clk.now - t
    | none => 0

/-- PORT_FEC_CORRECTED and PORT_FEC_UNCORR: what the lanes' noise has made them since reset (R280, log 78). -/
def State.fecCount (s : State) (p which : Nat) : Nat := s.fab.fec.getD (2 * p + which) 0 % 2 ^ 64

/-- The value of a numeric entry: those that show other state of the device, and else the stored one. -/
def State.odValue (s : State) (idx sub : Nat) : Nat :=
  let k := Od.key idx sub
  if k = Od.deviceState then s.dev.state.code
  else if k = Od.romVersion then Config.romVersion.toNat
  else if k = Od.timebaseNow then s.clk.now
  else if idx = 0x1410 ∧ 1 ≤ sub ∧ sub ≤ 16 then (s.epoch (sub - 1)).toNat
  else if 0x2640 ≤ idx ∧ idx ≤ 0x264F ∧ sub = 0x0D then s.stallTime (idx - 0x2640)
  else if 0x2300 ≤ idx ∧ idx ≤ 0x2303 ∧ sub = 1 then (s.port (idx - 0x2300)).state.code
  else if 0x2300 ≤ idx ∧ idx ≤ 0x2303 ∧ (sub = 9 ∨ sub = 10) then s.fecCount (idx - 0x2300) (sub - 9)
  else if 0x2610 ≤ idx ∧ idx ≤ 0x261F ∧ sub = 9 then s.grpRank (idx - 0x2610)
  else if 0x2610 ≤ idx ∧ idx ≤ 0x261F ∧ sub = 10 then s.grpSize (idx - 0x2610)
  else if 0x2620 ≤ idx ∧ idx ≤ 0x2627 ∧ 1 ≤ sub then
    match s.slotBucket? (idx - 0x2620) with
    | none => 0
    | some b =>
      if sub = 1 then s.slotState b else if sub = 2 then b.id.toNat else if sub = 3 then b.group else b.gathered
  else if k = Od.flashBusy then (if s.flashBusy then 1 else 0)
  else if 0x3100 ≤ idx ∧ idx ≤ 0x317F ∧ sub = 1 then s.cyclesOf (idx - 0x3100)
  else if sub = 0x12 ∧ (setType? idx).isSome then s.pctlValue idx
  else if 2 ≤ sub ∧ sub < 10 ∧ (setType? idx).isSome then s.pmcValue idx (sub - 2)
  else if k = Od.selftestState then s.selftestState
  else if k = Od.regionValidCount then (s.fab.regions.filter fun e => regValid e.2).length
  else s.odGet k

/-- The bytes of an ASCII string. -/
def strBytes (t : String) : List Byte := t.toList.map fun c => BitVec.ofNat 8 c.toNat

/-- TYPE_DATA of a block type in a Jarast view (R62, R278, R281, R357 and the chapters' openings): 20 bytes. -/
def State.typeData (s : State) (eval : Bool) (t : Nat) : List Byte :=
  let hbm := if eval then hbmEnd - s.evalBase else s.evalBase
  let v : Nat := match t with
    | 0x06 => 64 + 16 * 2 ^ 8 + 64 * 2 ^ 16 + 3 * 2 ^ 32
    | 0x08 => hbm
    | 0x09 => 40 + 40 * 2 ^ 8 + 24 * 2 ^ 16 + 24 * 2 ^ 24 + 8 * 2 ^ 32 + 4 * 2 ^ 40 + 4096 * 2 ^ 48 + 4096 * 2 ^ 64
    | 0x0A => 8 + 16 * 2 ^ 8 + 4096 * 2 ^ 16
    | 0x0B => 16
    | 0x0C => 16 + 1024 * 2 ^ 8
    | 0x14 => 4096 + 8 * 2 ^ 16
    | 0x15 => 16 + 32 * 2 ^ 8 + 32768 * 2 ^ 16
    | _ => 0
  natBytes 20 v

/-- The 32 bytes of an event record (R14). -/
def eventBytes (e : Event) : List Byte :=
  natBytes 8 e.time ++ natBytes 4 e.epoch.toNat ++ natBytes 1 e.srcInst.toNat ++ natBytes 1 e.srcType.toNat ++
  natBytes 2 (e.kind.toNat + e.severity.toNat * 2 ^ 14) ++ natBytes 16 e.payload.toNat

/-- REGION_TABLE: the 4,096 entries with KEY as zero (R444). -/
def State.regionTable (s : State) : List Byte :=
  (List.range 4096).flatMap fun i => natBytes 16 ((SMap.get 0 s.fab.regions i).toNat % 2 ^ 96)

/-- The value of a STR or DOMAIN entry that can be read. -/
def State.odBytes (s : State) (idx sub : Nat) : List Byte :=
  let k := Od.key idx sub
  if k = Od.vendorName then strBytes "Araecel"
  else if k = Od.productName then strBytes "Sniroth N9"
  else if k = Od.partNumber then strBytes "ASN9-8H96-A"
  else if 0x1101 ≤ idx ∧ idx ≤ 0x1115 then s.typeData false (idx - 0x1100)
  else if 0x1181 ≤ idx ∧ idx ≤ 0x1195 then s.typeData true (idx - 0x1180)
  else if k = Od.rootKeyDigest then natBytes 32 romKeyDigest.toNat
  else if k = Od.identityPubkey then natBytes 64 s.sec.identityPub.toNat
  else if k = Od.debugChallenge then natBytes 32 s.sec.challenge.toNat
  else if k = Od.quote then s.sec.quote
  else if k = Od.logOndie then s.log.ondie.reverse.flatMap eventBytes
  else if k = Od.regionTable then s.regionTable
  else []

/-- The value of an entry as bytes, for a row of the table. -/
def State.odRead (s : State) (r : OdRow) (idx sub : Nat) : List Byte :=
  if r.ty.numeric then natBytes r.ty.size (s.odValue idx sub) else s.odBytes idx sub

/-- A read of an entry: its status, and its row where it is served (R39). QUOTE is read once a nonce has been written, by
a device that can sign (R435, R436). A read that the ROM does not serve in a FAULT entered from BOOT is REFUSED: R47 gives
it no status, and the model takes that of the writes (log 68). -/
def State.odReadStatus (s : State) (via : OdPath) (idx sub : Nat) : Status × Option OdRow :=
  if s.readDenied via idx then (Status.denied, none)
  else if (odRange? idx).isNone then (Status.notFound, none)
  else
    match s.odRow? idx sub with
    | none => (Status.notFound, none)
    | some r =>
      if r.access = .wo ∨ (s.dev.romFault && !odReadAlways idx) ∨
          (Od.key idx sub = Od.quote ∧ (s.sec.quote.isEmpty ∨ s.odGet Od.identityState ≠ 0)) then (Status.refused, none)
      else (Status.ok, some r)

/-! ### Frames that the device sends (R54) -/

/-- The header: VERSION 0x01, and LENGTH from the payload. -/
def OutFrame.header (f : OutFrame) : BitVec 128 :=
  f.xfer ++ f.dtype ++ f.flags ++ BitVec.ofNat 16 f.payload.length ++ f.status ++ f.sub ++ f.index ++ f.seq ++ f.ftype ++
    (0x01 : BitVec 8)

/-- A frame from its EtherType on, which Ethernet writes with its high byte first. The padding of a short frame is the
Ethernet's. -/
def OutFrame.bytes (f : OutFrame) : List Byte := [0x88, 0xB5] ++ natBytes 16 f.header.toNat ++ f.payload

def State.sendFrame (s : State) (f : OutFrame) : State := s.emit (.frame f.dst f.bytes)

/-! ### Paths (R47, R473) -/

/-- The device hears a request on the path. -/
def State.pathOpen (s : State) : OdPath → Bool
  | .theost _ _ => s.dev.state ≠ .off && s.dev.state ≠ .boot
  | .mailbox m => s.dev.state ≠ .off && s.dev.state ≠ .boot && s.dev.linkUp && s.pcie.takes && decide (m < 8)
  | .direct => s.dev.state ≠ .off && s.dev.state ≠ .boot && s.dev.linkUp && s.pcie.takes
  | .core _ _ => false

/-- A host memory request reaches the endpoint and is not claimed there: in BOOT, whatever its address, while Memory Space
Enable is clear, or in D3hot (R47, R473). -/
def State.unclaimed (s : State) : Bool :=
  s.dev.state ≠ .off && s.dev.linkUp && (s.dev.state = .boot || !s.pcie.takes)

/-- The path is a host access to the window. -/
def pathHosted : OdPath → Bool
  | .mailbox _ | .direct => true
  | .theost _ _ | .core _ _ => false

/-- A request on a path that is not heard: a host's memory request is answered Unsupported Request where the endpoint does
not claim it, and any other is lost. -/
def State.unheard (s : State) (via : OdPath) : State :=
  if pathHosted via && s.unclaimed then s.emit .unsupported else s

/-- A failed request is logged (R49, R78). -/
def State.odFailed (s : State) (via : OdPath) (idx sub : Nat) (st : Status) : State :=
  s.event 0x0F 0 0x0001 sevInfo [(16, 2, idx), (18, 1, sub), (19, 1, st.toNat), (20, 1, pathCode via)]

/-- Statuses of class Failure or Indeterminate (R9). -/
def statusFails (st : Status) : Bool :=
  st ≠ Status.ok && st ≠ Status.aborted && st ≠ Status.nonfiniteSkip && st ≠ Status.degraded

/-- A mailbox is done: STATUS, DONE_TIME and DONE, GO cleared, its MSI-X vector signalled (R51). -/
def State.mailboxDone (s : State) (m : Nat) (st : Status) : State :=
  let b := SMap.get Mailbox.initial s.hm.mailboxes m
  { s with hm := { s.hm with
    mailboxes := SMap.set Mailbox.initial s.hm.mailboxes m
      { b with status := st, doneTime := s.clk.now, done := true, go := false } } }.signal m

/-- A frame of the device, kept as the response to a request of its source, at most 16 for each source (R56). A later
response to one request takes the place of the earlier. -/
def State.keepResponse (s : State) (mac : BitVec 48) (seq : BitVec 16) (f : OutFrame) : State :=
  let rest := s.hm.kept.filter fun k => !(decide (k.1 = mac) && decide (k.2.1 = seq))
  let mine := rest.filter fun k => decide (k.1 = mac)
  let oldest := if 16 ≤ mine.length then mine.getLast? else none
  let kept := rest.filter fun k => match oldest with
    | some o => !(decide (k.1 = mac) && decide (k.2.1 = o.2.1))
    | none => true
  { s with hm := { s.hm with kept := (mac, seq, f) :: kept } }.sendFrame f

/-- A response frame. -/
def rspFrame (mac : BitVec 48) (ftype : BitVec 8) (seq : BitVec 16) (idx sub : Nat) (st : Status) (dtype : BitVec 8)
    (xfer : BitVec 32) (payload : List Byte) : OutFrame :=
  { dst := mac, ftype := ftype, seq := seq, index := BitVec.ofNat 16 idx, sub := BitVec.ofNat 8 sub, status := st
    flags := 0, dtype := dtype, xfer := xfer, payload := payload }

/-- The transfer is the download that a request started. -/
def Xfer.isOf (x : Xfer) (mac : BitVec 48) (seq : BitVec 16) : Bool :=
  !x.upload && decide (x.mac = mac) && decide (x.seq = seq)

/-- The answer to a write on its path, with the record of a failure. A download ends with it, and its WRITE_RSP carries
the XFER (R58). -/
def State.answerWrite (s : State) (via : OdPath) (idx sub : Nat) (st : Status) : State :=
  let s := if statusFails st then s.odFailed via idx sub st else s
  match via with
  | .mailbox m => s.mailboxDone m st
  | .theost mac seq =>
    let x := ((s.hm.xfers.find? fun x => x.isOf mac seq).map (·.id)).getD 0
    let s := { s with hm := { s.hm with xfers := s.hm.xfers.filter fun x => !x.isOf mac seq } }
    s.keepResponse mac seq (rspFrame mac 0x04 seq idx sub st 0 x [])
  | _ => s

/-! ### Writes (R38, R39, R47) -/

/-- Every write but DEVICE_COMMAND RESET is refused in INIT and by the ROM (R47). -/
def State.writesRefused (s : State) : Bool := s.dev.state = .init || s.dev.romFault

/-- The device is stopped (R38). -/
def State.stopped (s : State) : Bool := s.dev.state = .ready || s.dev.state = .fault

/-- The access right and the device state let the entry be written. -/
def State.accessOk (s : State) (a : OdAccess) : Bool :=
  !s.writesRefused && match a with
  | .rw | .wo => true
  | .rws => s.stopped
  | .ro | .const => false

/-- What serving a write comes to. -/
inductive Served where
  /-- answered now -/
  | now (st : Status) (s : State)
  /-- answered when its flash write, or what it waits for, ends -/
  | later (s : State)

/-- A write with the checks that come before the entry's own: privilege, then existence. `h` does the rest. -/
def State.serveWrite (s : State) (via : OdPath) (idx sub v : Nat) (h : State → OdRow → Served) : Served :=
  if s.writeDenied via idx sub v then .now Status.denied s
  else if (odRange? idx).isNone then .now Status.notFound s
  else match s.odRow? idx sub with
    | none => .now Status.notFound s
    | some r => h s r

/-- The served write is answered on its path. -/
def Served.answer (x : Served) (via : OdPath) (idx sub : Nat) : State :=
  match x with
  | .now st s => s.answerWrite via idx sub st
  | .later s => s

/-- A write by a command of its own, on a path that is heard. -/
def State.odRow (s : State) (via : OdPath) (idx sub v : Nat) (h : State → OdRow → Served) : State :=
  if s.pathOpen via then (s.serveWrite via idx sub v h).answer via idx sub else s.unheard via

/-- A behaviour whose first checks are the access right, the state and the type and listing of the value. -/
def withAccess (v : Nat) (h : State → Status × State) (s : State) (r : OdRow) : Served :=
  if !s.accessOk r.access ∨ !r.ty.accepts v ∨ !r.check.accepts v then .now Status.refused s
  else
    let q := h s
    .now q.1 q.2

end Sys2Proof.Machine
end

