-- ==== Sys2Proof/Machine/Operands.lean ====
section
/-!
DEFINITION. The operand forms of the instruction words (R177, R178), and reading and writing the registers they name.
-/

namespace Sys2Proof.Machine

/-! ### Fields -/

/-- Bits [lo + n - 1 : lo] of an instruction word. -/
def fld (w : BitVec 64) (lo n : Nat) : Nat := (w.extractLsb' lo n).toNat

/-- The same bits, sign-extended. -/
def sfld (w : BitVec 64) (lo n : Nat) : Int := (w.extractLsb' lo n).toInt

def fVD (w : BitVec 64) : Nat := fld w 21 8
def fVA (w : BitVec 64) : Nat := fld w 29 8
def fVB (w : BitVec 64) : Nat := fld w 37 8
def fVC (w : BitVec 64) : Nat := fld w 45 8
/-- Destination predicate of a compare, and its condition. -/
def fModP (w : BitVec 64) : Nat := fld w 53 3
def fCond (w : BitVec 64) : Nat := fld w 56 3
def fImm19 (w : BitVec 64) : Int := sfld w 45 19
def fImm25 (w : BitVec 64) : Int := sfld w 39 25
def fUD (w : BitVec 64) : Nat := fld w 21 6
def fUA (w : BitVec 64) : Nat := fld w 27 6
def fUB (w : BitVec 64) : Nat := fld w 33 6
def fDD (w : BitVec 64) : Nat := fld w 21 4
def fOffset (w : BitVec 64) : Int := sfld w 32 32
/-- Format C. -/
def fPD (w : BitVec 64) : Nat := fld w 45 3
def fPSN (w : BitVec 64) : Bool := w.getLsbD 48
def fPS (w : BitVec 64) : Nat := fld w 49 3

/-! ### Registers -/

def Group.vGet (g : Group) (lane r : Nat) : BitVec 32 := SMap.get 0 g.v (256 * lane + r)
def Group.vSet (g : Group) (lane r : Nat) (x : BitVec 32) : Group := { g with v := SMap.set 0 g.v (256 * lane + r) x }

/-- A 64-bit operand: the low half in the even register (R176). -/
def Group.vPair (g : Group) (lane r : Nat) : BitVec 64 := g.vGet lane (r + 1) ++ g.vGet lane r
def Group.setPair (g : Group) (lane r : Nat) (x : BitVec 64) : Group :=
  (g.vSet lane r (x.setWidth 32)).vSet lane (r + 1) (x.extractLsb' 32 32)

/-- A 128-bit operand. -/
def Group.vQuad (g : Group) (lane r : Nat) : BitVec 128 := g.vPair lane (r + 2) ++ g.vPair lane r
def Group.setQuad (g : Group) (lane r : Nat) (x : BitVec 128) : Group :=
  (g.setPair lane r (x.setWidth 64)).setPair lane (r + 2) (x.extractLsb' 64 64)

def Group.uGet (g : Group) (r : Nat) : BitVec 64 := SMap.get 0 g.u r
def Group.uSet (g : Group) (r : Nat) (x : BitVec 64) : Group := { g with u := SMap.set 0 g.u r x }
def Group.dGet (g : Group) (r : Nat) : BitVec 256 := SMap.get 0 g.d r
def Group.dSet (g : Group) (r : Nat) (x : BitVec 256) : Group := { g with d := SMap.set 0 g.d r x }
def Group.pGet (g : Group) (lane i : Nat) : Bool := SMap.get false g.p (8 * lane + i)
def Group.pSet (g : Group) (lane i : Nat) (x : Bool) : Group := { g with p := SMap.set false g.p (8 * lane + i) x }

/-- PC + 8. -/
def Group.nextPc (g : Group) : BitVec 40 := g.pc + 8
def Group.advance (g : Group) : Group := { g with pc := g.nextPc }

/-- PC + 8 × OFFSET. -/
def Group.target (g : Group) (w : BitVec 64) : BitVec 40 := g.pc + BitVec.ofInt 40 (8 * fOffset w)

/-! ### Lanes -/

/-- The lanes of a mask, ascending. -/
def lanesOf (m : BitVec 32) : List Nat := (List.range 32).filter fun i => m.getLsbD i

/-- The mask of lanes for which `f` holds. -/
def maskOf (f : Nat → Bool) : BitVec 32 :=
  BitVec.ofNat 32 ((List.range 32).foldl (fun a i => if f i then a + 2 ^ i else a) 0)

/-- A lane passes the guard of R177. With [20] 0 and [19:16] not 0, every active thread executes: the guard is not enabled
(DESIGN CHOICE, log 88). -/
def Group.guard (g : Group) (w : BitVec 64) (lane : Nat) : Bool :=
  !w.getLsbD 20 || (g.pGet lane (fld w 16 3) != w.getLsbD 19)

/-- The threads that execute a guarded instruction. -/
def Group.execMask (g : Group) (w : BitVec 64) : BitVec 32 := maskOf fun i => g.active.getLsbD i && g.guard w i

def Group.execLanes (g : Group) (w : BitVec 64) : List Nat := lanesOf (g.execMask w)

/-- An update of each lane in ascending order; a lane's update reads only that lane's registers. -/
def Group.eachLane (g : Group) (lanes : List Nat) (f : Nat → Group → Group) : Group := lanes.foldl (fun g i => f i g) g

end Sys2Proof.Machine
end

