-- ==== Sys2Proof/Machine/Threads.lean ====
section
/-!
DEFINITION. Issue of an instruction by a thread group, taking a core exception, the completion of held instructions,
and the end and removal of a group (R12, R13, R154, R156, R185, R195, R198, R199, R272).
-/

namespace Sys2Proof.Machine

/-! ### The LAUNCH and command of a core -/

def State.launch? (s : State) (cmd : Nat) : Option Launch := s.disp.launches.find? fun l => decide (l.cmd = cmd)

/-- The LAUNCH whose groups run on a core. -/
def State.launchOf (s : State) (core : Nat) : Option Launch := (s.core core).launch.bind s.launch?

def State.setLaunch (s : State) (l : Launch) : State :=
  { s with disp := { s.disp with launches := s.disp.launches.map fun q => if q.cmd = l.cmd then l else q } }

/-- VREGS of the groups of a core. -/
def State.vregs (s : State) (core : Nat) : Nat := ((s.launchOf core).map (·.vregs)).getD 256

/-- CMD_ID and ring of the LAUNCH of a core; 0 where there is none. -/
def State.launchId (s : State) (core : Nat) : BitVec 32 × Nat :=
  (((s.core core).launch.bind s.cmd?).map fun c => (c.cmdId, c.ring)).getD (0, 0)

/-- The groups of the core's LAUNCH stop at their next issue: after an exception under EXC_POLICY 0, or an abort or an
uncorrectable register word of an earlier time (R198, R237). -/
def State.stopDue (s : State) (core : Nat) : Bool :=
  let past := fun (t : Option Nat) => (t.map fun t => decide (t < s.clk.now)).getD false
  ((s.launchOf core).map (·.excStop)).getD false || past ((s.launchOf core).bind fun l => l.aborted.map (·.1)) ||
    past (s.core core).stopAt

/-! ### Operations and transactions of a group -/

def Core.ownsOp (c : Core) (slot : Nat) : Bool := c.ops.any fun o => decide (o.owner = slot)

/-- A transaction of the tracker is the group's. -/
def Tx.ofGroup (t : Tx) (g : GroupRef) : Bool :=
  match t.owner with
  | .held c sl _ => decide (c = g.core) && decide (sl = g.slot)
  | .posted c sl _ => decide (c = g.core) && decide (sl = g.slot)
  | _ => false

def Tx.postedOf (t : Tx) (g : GroupRef) : Bool :=
  match t.owner with
  | .posted c sl _ => decide (c = g.core) && decide (sl = g.slot)
  | _ => false

/-- No operation and no transaction of the group is in flight. -/
def State.groupQuiet (s : State) (g : GroupRef) : Bool :=
  !(s.core g.core).ownsOp g.slot && !(s.fab.tracker.any fun t => t.ofGroup g)

/-- Posted transactions of the group are outstanding. -/
def State.groupPosting (s : State) (g : GroupRef) : Bool := s.fab.tracker.any fun t => t.postedOf g

/-! ### Removal (R194, R198) -/

/-- Locks left held are counted and logged (R194). -/
def State.locksLeft (s : State) (g : GroupRef) (n : Nat) : State :=
  if n = 0 then s
  else (s.odAdd Od.thrLockLeftCount 1).event 0x03 g.core 0x0103 sevWarning
    [(16, 1, g.slot), (17, 2, n), (20, 4, (s.launchId g.core).1.toNat)]

/-- The group's tokens become FREE. -/
def State.freeTokens (s : State) (g : GroupRef) : State :=
  let c := s.core g.core
  s.setCore g.core { c with tokens := c.tokens.filter fun t => decide (t.2.owner ≠ g.slot) }

/-- The group leaves its slot; its registers and tokens are freed. -/
def State.dropGroup (s : State) (g : GroupRef) : State :=
  match s.group? g with
  | none => s
  | some gr => ((s.locksLeft g gr.locks).freeTokens g).removeGroup g

/-- A stopped group is removed once its operations have ended. -/
def State.reap (s : State) (g : GroupRef) : State :=
  match s.group? g with
  | some gr => if gr.hold = .stopped && s.groupQuiet g then s.dropGroup g else s
  | none => s

/-- The group issues nothing further (R198). -/
def State.stopGroup (s : State) (g : GroupRef) : State :=
  match s.group? g with
  | some gr => (s.setGroup g { gr with hold := .stopped, fails := [] }).reap g
  | none => s

/-! ### Taking an exception (R198, R199) -/

/-- The 64-byte exception record. -/
def excRecord (s : State) (g : GroupRef) (gr : Group) (word : BitVec 64) (e : Exc) : List Byte :=
  let id := s.launchId g.core
  natBytes 8 (e.cause.toNat + e.position.toNat * 2 ^ 16 + e.detail.toNat * 2 ^ 24 + e.aux.toNat * 2 ^ 32) ++
  natBytes 8 gr.pc.toNat ++ natBytes 8 e.addr.toNat ++ natBytes 8 word.toNat ++ natBytes 4 0 ++
  natBytes 4 e.lanes.toNat ++ natBytes 4 gr.active.toNat ++ natBytes 1 g.slot ++ natBytes 1 g.core ++
  natBytes 2 id.2 ++ natBytes 4 id.1.toNat ++ natBytes 4 (s.epoch 0).toNat ++ natBytes 8 s.clk.now

/-- Where records of one timestamp go: ascending core index, then ascending scheduler number, then as they come (R199). -/
def excPlace (k : Nat) (r : List Byte) : List (Nat × List Byte) → List (Nat × List Byte)
  | [] => [(k, r)]
  | q :: qs => if k < q.1 then (k, r) :: q :: qs else q :: excPlace k r qs

/-- The records of the newest timestamp stand in their slots of the area, from slot `i` on, while it has room. -/
def State.writeTies (s : State) (core : Nat) (l : Launch) : Nat → List (Nat × List Byte) → State
  | _, [] => s
  | i, r :: rs =>
    if i < l.excSlots then (s.devWrite (devAttr core 2) (l.excAddr + 64 * i) r.2).writeTies core l (i + 1) rs else s

/-- The exception in its LAUNCH: its record is written while the area has room, in the order of R199, and otherwise
EXC_AREA_FULL is logged once; under EXC_POLICY 0 every other group stops. Of exceptions with equal timestamps, the first is
the one whose command came first (DESIGN CHOICE, log 88). -/
def State.recordExc (s : State) (g : GroupRef) (gr : Group) (word : BitVec 64) (e : Exc) (l : Launch) : State :=
  let same := decide (l.excTime = s.clk.now)
  let base := if same then l.excBase else l.excWritten
  let ties := excPlace (4 * g.core + g.slot % 4) (excRecord s g gr word e) (if same then l.excTies else [])
  let room := decide (l.excWritten < l.excSlots)
  let s1 := s.writeTies g.core l base ties
  let s2 := if !room && !l.areaFull then
      s1.event 0x03 g.core 0x0104 sevWarning [(16, 4, (s.launchId g.core).1.toNat), (20, 2, l.excSlots)]
    else s1
  s2.setLaunch { l with
    excWritten := if room then l.excWritten + 1 else l.excWritten
    excTime := s.clk.now, excBase := base, excTies := ties
    areaFull := l.areaFull || !room
    excCount := l.excCount + 1
    firstCause := if l.excCount = 0 then e.cause else l.firstCause
    excStop := l.excStop || !l.excPolicy }

/-- A DESCRIPTOR_FAULT is counted; one that CH.RUN raises is counted in the chain's entry too (R171, R221). -/
def State.countDescFault (s : State) (opcode : Nat) : State :=
  let s := s.odAdd Od.mxDescFaultCount 1
  if opcode = 0x7001 then s.odAdd Od.chainDescFaultCount 1 else s

/-- A group raises an exception: it is counted, logged and recorded, and the group stops. -/
def State.takeExc (s : State) (g : GroupRef) (word : BitVec 64) (e : Exc) : State :=
  match s.group? g with
  | none => s
  | some gr =>
    let s1 := (s.odAdd Od.thrExcCount 1).event 0x03 g.core 0x0102 sevError
      [(16, 1, e.cause.toNat), (17, 1, e.detail.toNat), (18, 1, g.slot), (20, 5, gr.pc.toNat),
       (25, 4, (s.launchId g.core).1.toNat)]
    let s1 := if e.cause = 0x4 then s1.countDescFault (fld word 0 16) else s1
    let s2 := match s1.launchOf g.core with
      | some l => s1.recordExc g gr word e l
      | none => s1
    s2.stopGroup g

/-- The number of the cause codes (R12). -/
def cIllegal : BitVec 4 := 0x1
def cDivergent : BitVec 4 := 0x2
def cToken : BitVec 4 := 0x3
def cDescriptor : BitVec 4 := 0x4
def cAlignment : BitVec 4 := 0x5
def cKey : BitVec 4 := 0x6
def cPoison : BitVec 4 := 0x7

/-- A group-level exception: all active lanes (R199). -/
def Group.exc (g : Group) (cause : BitVec 4) (detail : BitVec 8) : Exc :=
  { cause := cause, detail := detail, position := 0, aux := 0xFF, addr := 0, lanes := g.active }

/-- A condition that a lane meets. -/
structure Fail where
  lane : Nat
  cause : BitVec 4
  detail : BitVec 8
  aux : BitVec 8
  addr : BitVec 64
  deriving DecidableEq, Repr

/-- The lowest cause of a list of conditions (R13). -/
def lowestCause : List Fail → Option (BitVec 4)
  | [] => none
  | f :: fs =>
    match lowestCause fs with
    | none => some f.cause
    | some c => some (if f.cause ≤ c then f.cause else c)

/-- The exception of the conditions that lanes meet, in ascending lane order: the lowest cause, its lanes, and the
detail and address of the lowest of them (R13, R199). -/
def excOfFails (fs : List Fail) : Option Exc :=
  match lowestCause fs with
  | none => none
  | some c =>
    match fs.find? fun f => decide (f.cause = c) with
    | none => none
    | some f =>
      some { cause := c, detail := f.detail, position := 0, aux := f.aux, addr := f.addr
             lanes := maskOf fun i => fs.any fun q => decide (q.cause = c) && decide (q.lane = i) }

/-! ### Issue (R195, R197) -/

/-- What an issued instruction does: it raises an exception, raises one after reads whose write-backs and counts stand
(R189, R232), or leads to a state. -/
inductive Issue where
  | exc (e : Exc)
  | excAfter (e : Exc) (s : State)
  | done (s : State)

/-- Work goes on in these device states (R45, R46). -/
def State.working (s : State) : Bool :=
  s.dev.state = .ready || s.dev.state = .running || s.dev.state = .draining

/-- The fetch of a group of a core: the exception that stands before its instruction's own, of its PC, of the side whose HBM
the PC is in, and then of the word read (R182, R200, R223, R358), and the state after the read (R232). -/
def State.fetch (s : State) (core : Nat) (gr : Group) : Option Exc × State :=
  if hbmEnd ≤ gr.pc.toNat ∨ gr.pc.toNat % 8 ≠ 0 then (some (gr.exc cIllegal 0x06), s)
  else if !s.mapped (s.clusterSide (core / 16)) gr.pc.toNat 8 then
    (some { gr.exc cKey 0x02 with addr := gr.pc.setWidth 64 }, s)
  else
    let r := s.readWord (gr.pc.toNat / 8) .demand
    (if r.1.2 then some (gr.exc cPoison 0x05) else none, r.2)

/-- An instruction of a class uses a slot of a core: the event says how it is classed (R197, R452). -/
def State.countSlot (s : State) (core ev cls : Nat) : State :=
  if s.tally.frozen then s
  else { s with tally := { s.tally with slots := s.tally.slots ++ [⟨core, ev, cls⟩] } }

/-- The group may issue: it is resident and not held, its core is not halted, and the device works. -/
def State.issuer (s : State) (g : GroupRef) : Option Group :=
  match s.group? g with
  | some gr => if gr.hold = .none && !(s.core g.core).halted && s.working then some gr else none
  | none => none

/-- The group issues `word` with room in its core's event buffer. Where it cannot issue, nothing happens (log 2). An
instruction that issues and is held has used its slot as retired, also where it raises an exception later (DESIGN CHOICE,
log 88). -/
def issueFree (g : GroupRef) (word : BitVec 64) (cls : Nat) (body : State → Group → Issue) (s : State) : State :=
  match s.issuer g with
  | none => s
  | some gr =>
    if s.stopDue g.core then s.stopGroup g
    else
      match s.fetch g.core gr with
      | (some e, s) => (s.countSlot g.core 0x0302 cls).takeExc g 0 e
      | (none, s) =>
        match body s gr with
        | .exc e => (s.countSlot g.core 0x0302 cls).takeExc g word e
        | .excAfter e s' => (s'.countSlot g.core 0x0302 cls).takeExc g word e
        | .done s' => s'.countSlot g.core 0x0301 cls

/-- The group issues `word`. While its core takes no event, an instruction that would log one is held: it issues once a
place is free (R393). -/
def issue (g : GroupRef) (word : BitVec 64) (cls : Nat) (body : State → Group → Issue) (s : State) : State :=
  let t := issueFree g word cls body s
  if s.log.closed (coreSource g.core) ∧ s.log.count (coreSource g.core) < t.log.count (coreSource g.core) then
    s.holdIssue g.core
  else t

/-- The outcome of an instruction: always a next state. -/
def issued (g : GroupRef) (word : BitVec 64) (cls : Nat) (body : State → Group → Issue) (s : State) : Outcome :=
  .next (issue g word cls body s)

/-! ### Register checks (R176) -/

/-- Every register operand is aligned to its width and below VREGS: register number and width in registers. -/
def regsOk (vregs : Nat) (l : List (Nat × Nat)) : Bool :=
  l.all fun r => decide (r.1 % r.2 = 0) && decide (r.1 + r.2 ≤ vregs)

/-- An instruction whose encoding is checked first: undefined fields (detail 0x02), then registers (0x03). -/
def checked (g : GroupRef) (bad : Bool) (regs : List (Nat × Nat)) (k : State → Group → Issue) (s : State) (gr : Group) :
    Issue :=
  if bad then .exc (gr.exc cIllegal 0x02)
  else if !regsOk (s.vregs g.core) regs then .exc (gr.exc cIllegal 0x03)
  else k s gr

/-- An instruction that only changes its group and goes on to the next one. -/
def groupOnly (g : GroupRef) (f : Group → Group) (s : State) (gr : Group) : Issue :=
  .done (s.setGroup g (f gr).advance)

/-! ### Tokens and the completion of held groups (R152 to R156, R272) -/

def Core.token? (c : Core) (t : Nat) : Option Token := SMap.find? c.tokens t

def State.freeToken (s : State) (core t : Nat) : State :=
  let c := s.core core
  s.setCore core { c with tokens := SMap.erase c.tokens t }

/-- UDST of the matrix and token instructions (R145). -/
def fUDST (w : BitVec 64) : Nat := fld w 37 6

/-- TWAIT on a DONE token of the group (R154). -/
def State.twaitDone (s : State) (g : GroupRef) (gr : Group) (word : BitVec 64) (t : Nat) (tk : Token) : State :=
  if tk.status = Status.poisoned then
    s.takeExc g word { gr.exc cPoison 0x02 with aux := BitVec.ofNat 8 t }
  else
    (s.setGroup g ({ gr with hold := .none }.uSet (fUDST word)
      (((tk.flags ++ tk.status : BitVec 14)).setWidth 64)).advance).freeToken g.core t

/-- The failed posted transaction that issued first (R272). -/
def firstFail : List PostFail → Option PostFail
  | [] => none
  | f :: fs =>
    match firstFail fs with
    | none => some f
    | some q => some (if f.seq ≤ q.seq then f else q)

/-- FENCE.R once every posted transaction has completed: the first failure's exception, the others counted. -/
def State.fenceFail (s : State) (g : GroupRef) (gr : Group) : Option (Exc × State) :=
  match firstFail gr.fails with
  | none => none
  | some f =>
    some (f.exc, (s.setGroup g { gr with fails := [] }).odAdd Od.thrFenceUnreportedCount (gr.fails.length - 1))

/-- The owned token of lowest number that is BUSY or POISONED. -/
def Core.firstOpen (c : Core) (slot : Nat) : Option (Nat × Token) :=
  List.find? (fun t => decide (t.2.owner = slot) && (!t.2.done || decide (t.2.status = Status.poisoned))) c.tokens

/-- The end of a group: its FENCE.R, then its token waits in ascending number (R156, R272). Its tokens are freed with its
slot, once none of them is left that waits or raises (R12, R185). -/
def State.endCheck (s : State) (g : GroupRef) (gr : Group) (word : BitVec 64) : Issue :=
  if s.groupPosting g then .done (s.setGroup g { gr with hold := .endFence word })
  else
    match s.fenceFail g gr with
    | some (e, s') => .excAfter e s'
    | none =>
      match (s.core g.core).firstOpen g.slot with
      | none => .done (s.dropGroup g)
      | some (t, tk) =>
        if tk.done then .exc { gr.exc cPoison 0x03 with aux := BitVec.ofNat 8 t }
        else .done (s.setGroup g { gr with hold := .endTokens word })

/-- FENCE.R: it waits for posted transactions, then raises the first failure's exception or goes on (R272). -/
def State.fenceCheck (s : State) (g : GroupRef) (gr : Group) (word : BitVec 64) : Issue :=
  if s.groupPosting g then .done (s.setGroup g { gr with hold := .fence word })
  else
    match s.fenceFail g gr with
    | some (e, s') => .excAfter e s'
    | none => .done (s.setGroup g { gr with hold := .none }.advance)

/-- A held instruction that is looked at again: its exception, or its state. -/
def State.resume (s : State) (g : GroupRef) (word : BitVec 64) : Issue → State
  | .exc e => s.takeExc g word e
  | .excAfter e t => t.takeExc g word e
  | .done t => t

/-- A held group goes on where what it waits for has come about. -/
def State.wake (s : State) (g : GroupRef) : State :=
  match s.group? g with
  | none => s
  | some gr =>
    match gr.hold with
    | .stopped => s.reap g
    | .token t word =>
      if s.stopDue g.core then s.stopGroup g
      else
        match (s.core g.core).token? t with
        | some tk => if tk.done then s.twaitDone g gr word t tk else s
        | none => s
    | .fence word =>
      if s.groupPosting g then s
      else if s.stopDue g.core then s.stopGroup g
      else s.resume g word (s.fenceCheck g gr word)
    | .endFence word | .endTokens word =>
      if s.stopDue g.core then s.stopGroup g else s.resume g word (s.endCheck g gr word)
    | _ => s

/-- Every group of a core goes on where it can. -/
def State.wakeCore (s : State) (core : Nat) : State :=
  (List.range 16).foldl (fun s sl => s.wake ⟨core, sl⟩) s

/-- The groups of a core that wait for nothing stop (R198). -/
def State.sweepCore (s : State) (core : Nat) : State :=
  (List.range 16).foldl (fun s sl =>
    match s.group? ⟨core, sl⟩ with
    | some gr =>
      match gr.hold with
      | .none | .cbar | .token _ _ => s.stopGroup ⟨core, sl⟩
      | _ => s.wake ⟨core, sl⟩
    | none => s) s

end Sys2Proof.Machine
end

