-- ==== Sys2Proof/Machine/Dispatcher.lean ====
section
/-!
DEFINITION. The dispatcher: command rings, the taking and the common checks of commands, commit points and completion
records (R67 to R74), and the commands NOP_COMMAND, TAIL_LINE_WRITE and CQ_HEAD_WRITE.
-/

namespace Sys2Proof.Machine

/-! ### Global addresses of commands -/

def globalPlace (a : Nat) : Place := ⟨a / 2 ^ 40 % 64, a / 2 ^ 46 % 64⟩
def globalLocal (a : Nat) : Nat := a % 2 ^ 40

/-- The device that a global address reaches, after substitution (R387). -/
def State.target (s : State) (a : Nat) : Place := s.subst (globalPlace a)
def State.isOwn (s : State) (a : Nat) : Bool := decide (s.target a = s.place)

/-! ### Rings -/

def State.ring (s : State) (r : Nat) : Ring := SMap.get ⟨0, 0⟩ s.disp.rings r
def State.setRing (s : State) (r : Nat) (x : Ring) : State :=
  { s with disp := { s.disp with rings := SMap.set ⟨0, 0⟩ s.disp.rings r x } }

def CqRing.initial : CqRing := ⟨0, 0, true, [], [], false⟩
def State.cq (s : State) (q : Nat) : CqRing := SMap.get CqRing.initial s.disp.cqs q
def State.setCq (s : State) (q : Nat) (x : CqRing) : State :=
  { s with disp := { s.disp with cqs := SMap.set CqRing.initial s.disp.cqs q x } }

/-- The attributes of the dispatcher's accesses (R450, R261). -/
def dispAttr : Attr := devAttr 0xF4 1

/-- HEAD and the ring state go into line 1 of the control block (R68). -/
def State.writeRingLine (s : State) (r : Nat) : State :=
  let c := s.odGet (Od.ringCtrl r) + 128
  s.devWrite dispAttr c (natBytes 4 (s.ring r).head ++ natBytes 1 (s.odGet (Od.ringState r)))

/-- The ring's state becomes `v`. -/
def State.setRingState (s : State) (r v : Nat) : State := (s.odSet (Od.ringState r) v).writeRingLine r

/-- A disabling ring without a taken command that has not committed is idle (R76; log 50). -/
def State.settleRing (s : State) (r : Nat) : State :=
  if s.odGet (Od.ringState r) = 2 ∧ !s.disp.cmds.any (fun c => decide (c.ring = r)) then s.setRingState r 0 else s

/-- A TAIL is inside the ring and does not pass HEAD (R68). -/
def tailValid (size head old new : Nat) : Bool :=
  decide (new < size) && decide ((old + size - head) % size ≤ (new + size - head) % size)

/-! ### Completion records (R73, R74) -/

/-- The 32-byte record of a commit point, but for its PHASE. -/
def cqBits (epoch : BitVec 32) (time : Nat) (c : Cmd) (st : Status) (detail : BitVec 16) : BitVec 256 :=
  BitVec.ofNat 256
    (detail.toNat * 2 ^ 16 + st.toNat * 2 ^ 32 + c.ring * 2 ^ 48 + c.cmdId.toNat * 2 ^ 64 +
     epoch.toNat * 2 ^ 96 + time * 2 ^ 128 + c.tag.toNat * 2 ^ 192)

/-- The record of a command that commits now. -/
def cqRecord (s : State) (c : Cmd) (st : Status) (detail : BitVec 16) : BitVec 256 :=
  cqBits (s.epoch 0) s.clk.now c st detail

/-- The completion ring has room for a record. -/
def State.cqRoom (s : State) (q : Nat) : Bool :=
  let n := s.odGet (Od.cqEntries q)
  decide (s.odGet (Od.cqEnable q) = 1) && decide (((s.cq q).tail + 1) % n ≠ (s.cq q).head)

/-- A record is written at CQ_TAIL, which goes on. -/
def State.putRecord (s : State) (q : Nat) (x : BitVec 256) : State :=
  let c := s.cq q
  let n := s.odGet (Od.cqEntries q)
  let s := s.devWrite dispAttr (s.odGet (Od.cqBase q) + 32 * c.tail)
    (natBytes 32 (x.toNat + if c.phase then 1 else 0))
  let t := (c.tail + 1) % n
  let s := s.setCq q { c with tail := t, phase := if t = 0 then !c.phase else c.phase }
  s.devWrite dispAttr (s.odGet (Od.cqCtrl q)) (natBytes 4 t)

/-- Records go in the order of their commit points, and those of one commit point in that of their rings and then of
their positions (R73). -/
def CqRecord.before (a b : CqRecord) : Bool :=
  decide (a.time < b.time) || (decide (a.time = b.time) &&
    (decide (a.ring < b.ring) || (decide (a.ring = b.ring) && decide (a.pos < b.pos))))

/-- A record in its place among others. -/
def placeRecord (x : CqRecord) : List CqRecord → List CqRecord
  | [] => [x]
  | y :: ys => if x.before y then x :: y :: ys else y :: placeRecord x ys

/-- CQ_TAIL and PHASE as they stood before the last `k` records. -/
def CqRing.back (c : CqRing) (n k : Nat) : CqRing :=
  if k = 0 then c else { c with tail := (c.tail + n - k) % n, phase := if c.tail < k then !c.phase else c.phase }

/-- Records are written in order. -/
def State.putRecords (s : State) (q : Nat) : List CqRecord → State
  | [] => s
  | x :: xs => (s.putRecord q x.bits).putRecords q xs

/-- The completion ring stalls the rings that report to it; CQ_FULL_STALL is logged once for each stall (R74, log 50). -/
def State.stallCq (s : State) (q : Nat) : State :=
  let c := s.cq q
  if c.stalled then s else (s.setCq q { c with stalled := true }).event 0x0D 0 0x0003 sevWarning [(16, 1, q)]

/-- Commands that have been aborted and still come to their end, by ring, with the abort's time, which is their commit
point: a LAUNCH whose groups and operations have not ended, a SEND inside a chunk (R75). -/
def State.pendingAborts (s : State) : List (Nat × Nat) :=
  (s.disp.launches.filterMap fun l => l.aborted.bind fun a => (s.cmd? l.cmd).map fun c => (c.ring, a.1)) ++
    List.filterMap (fun e : Nat × Channel =>
      e.2.stop.bind fun a => (e.2.active.bind s.cmd?).map fun c => (c.ring, a.1)) s.channels

/-- A record of this commit point waits for that of a command that has been aborted before it (R73, log 51). -/
def State.cqHeld (s : State) (q time : Nat) : Bool :=
  s.pendingAborts.any fun e => decide (s.odGet (Od.ringCq e.1) = q) && decide (e.2 ≤ time)

/-- The records of one commit point that stand in the ring are written again from the first of them on. -/
def State.rewriteTies (s : State) (q k : Nat) (l : List CqRecord) : State :=
  (s.setCq q { (s.cq q).back (s.odGet (Od.cqEntries q)) k with ties := l }).putRecords q l

/-- The records written last that have one commit point, once `x` is written after them. -/
def CqRing.tied (c : CqRing) (x : CqRecord) : List CqRecord := (c.ties.filter fun y => decide (y.time = x.time)) ++ [x]

/-- Waiting records are written while there is room and no earlier record is to come (fuel: their number). -/
def State.drainCq : Nat → State → Nat → State
  | 0, s, _ => s
  | k + 1, s, q =>
    let c := s.cq q
    match c.waiting with
    | [] => s
    | x :: xs =>
      if s.cqRoom q && !s.cqHeld q x.time then
        State.drainCq k ((s.setCq q { c with waiting := xs, ties := c.tied x }).putRecord q x.bits) q
      else s

/-- Records that wait are written as far as they may be, and the vector of the ring is signalled for them. -/
def State.flushCq (s : State) (q : Nat) : State :=
  let n := (s.cq q).waiting.length
  let s1 := s.drainCq n q
  if (s1.cq q).waiting.length < n then s1.signal (8 + q) else s1

/-- A record is written, or waits for room or for an earlier record. A ring without room for another record is full: it
stalls. Records of one commit point stand in the order of their rings and positions (R73). -/
def State.completion (s : State) (q : Nat) (x : CqRecord) : State :=
  let c := s.cq q
  let held := c.ties.filter fun y => decide (y.time = x.time)
  let all := placeRecord x held
  let s :=
    if c.waiting.isEmpty ∧ s.cqRoom q ∧ !s.cqHeld q x.time then (s.rewriteTies q held.length all).signal (8 + q)
    else
      let s := if all.take held.length = held then s else s.rewriteTies q held.length (all.take held.length)
      (s.setCq q { s.cq q with waiting := (all.drop held.length).foldl (fun l y => placeRecord y l) c.waiting }).flushCq q
  if s.cqRoom q then s else s.stallCq q

/-- CQ_HEAD has moved: records that wait are written, and the stall is over unless the ring is full again. -/
def State.releaseCq (s : State) (q : Nat) : State :=
  let s1 := s.flushCq q
  s1.setCq q { s1.cq q with stalled := !s1.cqRoom q }

/-! ### Commands -/

def State.setCmd (s : State) (c : Cmd) : State :=
  { s with disp := { s.disp with cmds := s.disp.cmds.map fun q => if q.serial = c.serial then c else q } }

/-- The last 256 committed commands of each ring (R75). -/
def rememberCmd (l : List (Nat × BitVec 32)) (r : Nat) (id : BitVec 32) : List (Nat × BitVec 32) :=
  let mine := l.filter fun e => decide (e.1 = r)
  (r, id) :: (l.filter fun e => decide (e.1 ≠ r)) ++ mine.take 255

/-- The commit point of a command, at a time and an epoch: its final status is fixed and its record is written (R73);
QUIET writes none on OK. A LAUNCH is counted (R202). -/
def State.commitAt (s : State) (c : Cmd) (st : Status) (detail : BitVec 16) (time : Nat) (epoch : BitVec 32) : State :=
  let s := { s with disp := { s.disp with
    cmds := s.disp.cmds.filter fun q => decide (q.serial ≠ c.serial)
    recent := rememberCmd s.disp.recent c.ring c.cmdId } }
  let s := if c.opcode = 0x0001 then s.odAdd Od.thrLaunchCount 1 else s
  let s := if st = Status.ok ∧ c.flags.getLsbD 1 then s
    else s.completion (s.odGet (Od.ringCq c.ring)) ⟨time, c.ring, c.pos, cqBits epoch time c st detail⟩
  s.settleRing c.ring

/-- The commit point of a command is now. -/
def State.commit (s : State) (c : Cmd) (st : Status) (detail : BitVec 16) : State :=
  s.commitAt c st detail s.clk.now (s.epoch 0)

/-- A command starts: it samples the numerics of its job (R102, R128). -/
def State.startCmd (s : State) (c : Cmd) : Cmd × State :=
  let f (k : Nat → Nat) (d : Nat) : Nat := match s.jobSlot? c.job with
    | some i => s.odGet (k i)
    | none => d
  let c' := { c with
    phase := .started, startAt := s.clk.now, seed := BitVec.ofNat 64 (f Od.srSeed 0)
    step := BitVec.ofNat 64 (f Od.srStep 0), heritage := decide (f Od.heritageMode 0 = 1)
    p8 := f Od.promoP8 0, p16 := f Od.promoP16 0, arrival := BitVec.ofNat 8 (f Od.arrivalClassMask 0) }
  (c', s.setCmd c')

/-- Bits [lo + n - 1 : lo] of the 64-byte command, for the bits of ARGS. -/
def Cmd.arg (c : Cmd) (lo n : Nat) : Nat := (c.args.extractLsb' (lo - 192) n).toNat

/-- Opcodes of R71. -/
def opcodeDefined (op : BitVec 16) : Bool :=
  [0x0000, 0x0001, 0x0002, 0x0010, 0x0011, 0x0012, 0x0020, 0x0030, 0x0040].contains op.toNat

/-- The job is open. -/
def State.jobOpen (s : State) (job : BitVec 16) : Bool := (s.jobSlot? job).isSome

/-! ### Taking (R71, R72) -/

/-- A taken command of the ring holds it: one with FENCE that has not started. -/
def State.fenceHolds (s : State) (r : Nat) : Bool :=
  s.disp.cmds.any fun c => decide (c.ring = r) && c.flags.getLsbD 0 && decide (c.phase ≠ .started)

/-- The ring has a command that the dispatcher may take. -/
def State.takeable (s : State) (r : Nat) : Bool :=
  decide (s.odGet (Od.ringState r) = 1) && decide ((s.ring r).head ≠ (s.ring r).tail) && !s.fenceHolds r &&
    !(s.cq (s.odGet (Od.ringCq r))).stalled

/-- The ring to serve: highest priority, then the next after the one served last (R72). -/
def State.nextRing (s : State) : Option Nat :=
  (List.range 4).findSome? fun p =>
    let last := SMap.get 63 s.disp.served p
    ((List.range 64).map fun i => (last + 1 + i) % 64).find? fun r =>
      decide (s.odGet (Od.ringPriority r) = p) && s.takeable r

/-- The job of a ring. -/
def State.jobOfRing (s : State) (r : Nat) : BitVec 16 := BitVec.ofNat 16 (s.odGet (Od.ringJob r))

/-- The command at a position of a ring, as the dispatcher reads it (R70), and whether a word of it is poisoned. -/
def State.readCmd (s : State) (r pos : Nat) : (Cmd × Bool) × State :=
  let q := s.devRead dispAttr (s.odGet (Od.ringBase r) + 64 * pos) 64
  let x := BitVec.ofNat 512 (bytesNat q.1.1)
  (({ serial := s.disp.nextSerial, ring := r, pos := pos, opcode := x.extractLsb' 0 16, flags := x.extractLsb' 32 16
      job := x.extractLsb' 48 16, cmdId := x.extractLsb' 96 32, tag := x.extractLsb' 128 64, args := x.extractLsb' 192 320
      bad := decide (x.extractLsb' 16 16 ≠ 0) || decide (x.extractLsb' 64 32 ≠ 0) || !s.jobOpen (s.jobOfRing r)
      phase := .taken, startAt := 0, seed := 0, step := 0, heritage := false, p8 := 0, p16 := 0, arrival := 0 },
    q.1.2.any id), q.2)

/-- HEAD of a ring goes on by one. -/
def State.nextHead (s : State) (r : Nat) : State :=
  let rg := s.ring r
  (s.setRing r { rg with head := (rg.head + 1) % s.odGet (Od.ringEntries r) }).writeRingLine r

/-- The dispatcher takes the command at HEAD of a ring and makes the checks that come before its opcode's. One that an
abort has removed is passed over (R75). -/
def State.takeCmd (s : State) (r : Nat) : State :=
  let pos := (s.ring r).head
  if s.disp.removed.contains (r, pos) then
    { s with disp := { s.disp with removed := s.disp.removed.filter fun e => decide (e ≠ (r, pos)) } }.nextHead r
  else
    let q := s.readCmd r pos
    let c := q.1.1
    let s := q.2.nextHead r
    let s := { s with disp := { s.disp with
      nextSerial := s.disp.nextSerial + 1, cmds := s.disp.cmds ++ [c]
      served := SMap.set 63 s.disp.served (s.odGet (Od.ringPriority r)) r } }
    if q.1.2 then s.commit c Status.poisoned 0
    else if c.job ≠ s.jobOfRing r then s.commit c Status.denied 0
    else if !opcodeDefined c.opcode then s.commit c Status.refused 0
    else s

/-- The first command of a ring that waits there to be taken and has a CMD_ID, by its position (R75). -/
def State.ringFind (s : State) (r : Nat) (id : BitVec 32) : Option Nat :=
  let rg := s.ring r
  let n := s.odGet (Od.ringEntries r)
  if s.odGet (Od.ringState r) = 1 ∨ s.odGet (Od.ringState r) = 3 then
    ((List.range ((rg.tail + n - rg.head) % n)).map fun i => (rg.head + i) % n).find? fun p =>
      let c := (s.readCmd r p).1
      !s.disp.removed.contains (r, p) && !c.2 && decide (c.1.cmdId = id)
  else none

/-- The dispatcher takes commands (R45, R46, R71). -/
def State.taking (s : State) : Bool := s.dev.state = .ready || s.dev.state = .running

/-- The dispatcher takes what it may (fuel: the commands in the rings). -/
def State.takeAll : Nat → State → State
  | 0, s => s
  | k + 1, s =>
    match if s.taking then s.nextRing else none with
    | none => s
    | some r => State.takeAll k (s.takeCmd r)

/-- Commands in the rings that have not been taken. -/
def State.ringWork (s : State) : Nat :=
  (List.range 64).foldl (fun n r =>
    let sz := s.odGet (Od.ringEntries r)
    n + if s.odGet (Od.ringState r) = 1 then ((s.ring r).tail + sz - (s.ring r).head) % sz else 0) 0

def State.pump (s : State) : State := s.takeAll s.ringWork

/-! ### The checks of an opcode -/

/-- The command may be checked now: it is the next of its ring, and one with FENCE waits for every earlier command of
the ring to commit (R72). -/
def State.checkable (s : State) (c : Cmd) : Bool :=
  c.phase = .taken && s.working &&
  !s.disp.cmds.any fun q => decide (q.ring = c.ring) && decide (q.serial < c.serial) &&
    (c.flags.getLsbD 0 || q.phase = .taken)

/-- A command row acts on a taken command of its opcode whose turn it is; otherwise nothing happens (log 2). -/
def State.onCmd (s : State) (serial : Nat) (op : BitVec 16) (f : State → Cmd → State) : State :=
  match s.cmd? serial with
  | none => s
  | some c => if c.opcode = op ∧ s.checkable c then (f s c).pump else s

/-- The status of the first condition that holds, in the order of R11: DENIED, NOT_FOUND, KEY_MISMATCH, PLAN_MISMATCH,
REFUSED, FROZEN, BUSY. -/
def checkOrder (denied notFound key plan refused : Bool) : Option Status :=
  firstStatus [(denied, Status.denied), (notFound, Status.notFound), (key, Status.keyMismatch),
    (plan, Status.planMismatch), (refused, Status.refused)]

/-- The key checks of a command's ranges (address, bytes, key, access), at supervisor level; an empty range has none. -/
def State.rangeChecks (s : State) (l : List (Nat × Nat × BitVec 32 × Access)) : List (Nat × Status × BitVec 8) :=
  l.filterMap fun e => if e.2.1 = 0 then none
    else (s.keyCheck e.1 e.2.1 e.2.2.1 e.2.2.2 1 false).map fun r => (e.1, r.1, r.2)

/-- The failed key check whose code a command returns: DENIED before KEY_MISMATCH, the first range of those (R11). -/
def refusedRange (l : List (Nat × Status × BitVec 8)) : Option (Nat × Status × BitVec 8) :=
  match l.find? fun e => decide (e.2.1 = Status.denied) with
  | some e => some e
  | none => l.head?

/-- A command that answers `st` for a failed key check of its ranges: the check is counted and logged at the ring, with the
one code that is returned (R11, R270). -/
def State.rangeRefused (s : State) (job : BitVec 16) (st : Option Status) (l : List (Nat × Status × BitVec 8)) : State :=
  match refusedRange l with
  | some e => if st = some e.2.1 then s.keyRefused none e.1 e.2.1 e.2.2 s.self 0xF4 1 job else s
  | none => s

/-! ### Writes of the monitored lines (R67) -/

/-- The dispatcher takes a TAIL that has been written: it takes new commands, or stops the ring (R68). -/
def State.newTail (s : State) (ring tail : Nat) : State :=
  let rg := s.ring ring
  if s.odGet (Od.ringEnable ring) ≠ 1 ∨ s.odGet (Od.ringState ring) ≠ 1 then s
  else if tailValid (s.odGet (Od.ringEntries ring)) rg.head rg.tail tail then (s.setRing ring { rg with tail := tail }).pump
  else (s.setRingState ring 3).event 0x0D 0 0x0001 sevError [(16, 2, ring), (18, 4, tail)]

/-- The dispatcher takes a CQ_HEAD that has been written: waiting records are written, and the rings that report here are
served again (R74). A value outside the ring is taken as it is, and such a ring never counts as full (DESIGN CHOICE, log 86). -/
def State.newCqHead (s : State) (cq head : Nat) : State :=
  if s.odGet (Od.cqEnable cq) ≠ 1 then s else ((s.setCq cq { s.cq cq with head := head }).releaseCq cq).pump

/-! ### Commands -/

/-- NOP completes OK at once (R71). -/
def execNopCommand (cmd : Nat) (s : State) : Outcome := withRoom (.nopCommand cmd) s <|
  .next (s.onCmd cmd 0x0000 fun s c => s.commit c (if c.bad then Status.refused else Status.ok) 0)

/-- A write of the tail line of an enabled ring: the dispatcher takes new commands, or stops the ring (R67, R68). -/
def execTailLineWrite (ring : Nat) (tail : BitVec 32) (s : State) : Outcome := withRoom (.tailLineWrite ring tail) s <|
  if ring < 64 ∧ s.odGet (Od.ringEnable ring) = 1 then
    .next ((s.devWrite (devAttr 0xF3 1) (s.odGet (Od.ringCtrl ring)) (natBytes 4 tail.toNat)).newTail ring tail.toNat)
  else .next s

/-- A write of CQ_HEAD: waiting records are written, and the rings that report here are served again (R74). -/
def execCqHeadWrite (cq : Nat) (head : BitVec 32) (s : State) : Outcome := withRoom (.cqHeadWrite cq head) s <|
  if cq < 64 ∧ s.odGet (Od.cqEnable cq) = 1 then
    .next ((s.devWrite (devAttr 0xF3 1) (s.odGet (Od.cqCtrl cq) + 128) (natBytes 4 head.toNat)).newCqHead cq head.toNat)
  else .next s

end Sys2Proof.Machine
end

