-- ==== Sys2Proof/Machine/Channels.lean ====
section
/-!
DEFINITION. The channels of the stage-handoff engine: the started SEND or RECV of a channel, its writes to the peer, its
credits, and what the engine does with each value of its control block's line 1 (R366 to R371).
-/

namespace Sys2Proof.Machine

/-! ### Fields (R368) -/

def Cmd.hoFunc (c : Cmd) : Nat := c.arg 440 4
def Cmd.hoChannel (c : Cmd) : Nat := c.arg 444 4
def Cmd.hoSeq (c : Cmd) : BitVec 32 := BitVec.ofNat 32 (c.arg 448 32)
def Cmd.hoKey (c : Cmd) : BitVec 32 := BitVec.ofNat 32 (c.arg 480 32)
def Cmd.hoLen (c : Cmd) : Nat := c.arg 392 40
def Cmd.hoSrc (c : Cmd) : Nat := c.arg 192 40
/-- Fields of a HANDOFF that must be 0. -/
def Cmd.hoReserved (c : Cmd) : Bool := decide (c.arg 433 7 ≠ 0) || decide (c.arg 272 120 ≠ 0)

/-! ### Channels -/

def State.channel (s : State) (h : Nat) : Channel := SMap.get Channel.initial s.channels h
def State.setChannel (s : State) (h : Nat) (x : Channel) : State :=
  { s with channels := SMap.set Channel.initial s.channels h x }

def State.hoChunkSize (s : State) (h : Nat) : Nat := s.odGet (Od.hoChunkBytes h)
def State.hoRing (s : State) (h : Nat) : Nat := s.odGet (Od.hoRingChunks h)
def State.hoCtrl (s : State) (h : Nat) : Nat := s.odGet (Od.hoCtrlAddr h)
def State.hoPeer (s : State) (h : Nat) : Place := Place.ofCoord (BitVec.ofNat 12 (s.odGet (Od.hoPeerCoord h)))
def State.hoKey (s : State) (h : Nat) : BitVec 128 := SMap.get 0 s.fab.regions (s.odGet (Od.hoKeyref h))

/-- Chunks of a micro-batch. -/
def State.hoTotal (s : State) (h : Nat) (c : Cmd) : Nat := (c.hoLen + s.hoChunkSize h - 1) / s.hoChunkSize h

def hoAttr : Attr := devAttr 0xF2 1

/-- An outstanding write of a HANDOFF. -/
def State.hoOut (s : State) (f : TxOwner → Bool) : Bool := s.fab.tracker.any fun t => f t.owner

/-- Writes of a chunk are outstanding or not yet handed over. -/
def State.chunkBusy (s : State) (h : Nat) (c : Cmd) (k : Nat) : Bool :=
  let x := s.channel h
  decide (x.issued < min c.hoLen ((k + 1) * s.hoChunkSize h)) ||
    s.hoOut fun o => match o with
      | .chunk d n => decide (d = c.serial) && decide (n = k)
      | _ => false

/-- Progress of the command is outstanding. -/
def State.progressBusy (s : State) (c : Cmd) : Bool :=
  s.hoOut fun o => match o with
    | .progress d _ => decide (d = c.serial)
    | _ => false

/-- Chunks in flight. -/
def State.hoFlight (s : State) (h : Nat) (c : Cmd) : Nat :=
  ((List.range (s.channel h).begun).filter fun k => s.chunkBusy h c k).length

/-- HO_CREDIT_STALL_NS counts while a matched SEND holds no credit for its next chunk. -/
def State.hoStall (s : State) (h : Nat) : State :=
  let x := s.channel h
  let c? := x.active.bind s.cmd?
  let waits := match c? with
    | none => false
    | some c => x.matched && x.stop.isNone && decide (x.begun < s.hoTotal h c) && decide (x.limit ≤ x.base + x.begun)
  match waits, x.stallAt with
  | true, none => s.setChannel h { x with stallAt := some s.clk.now }
  | false, some t => (s.setChannel h { x with stallAt := none }).odAdd (Od.hoCreditStallNs h) (s.clk.now - t)
  | _, _ => s

/-- A started HANDOFF ends: its channel takes the next (R371). The status of a SEND that an abort stops was fixed by the
abort, and its record bears the abort's time (R75, R397). -/
def State.endHandoff (s : State) (h : Nat) (c : Cmd) (st : Status) (detail : Nat) : State :=
  let x := s.channel h
  let s := s.setChannel h { x with active := none, matched := false, stop := none, begun := 0, issued := 0 }
  (match x.stop with
    | some a => (s.hoStall h).commitAt c Status.aborted 0 a.1 a.2
    | none => (s.hoStall h).commit c st (BitVec.ofNat 16 detail)).pump

/-! ### Writes to the peer (R366, R367, R369) -/

/-- A write of a channel to its peer; it carries the key of HO_KEYREF, on VC 2. -/
def State.hoWrite (s : State) (h : Nat) (job : BitVec 16) (a : Nat) (bs : List Byte) (pmask : BitVec 32) (own : TxOwner) :
    Option Resp × State :=
  s.openTx ((s.freeTag).getD 0)
    { dst := (globalPlace a).coord, op := 0x02, addr := BitVec.ofNat 40 a, len := bs.length, key := regKey (s.hoKey h)
      job := job, master := 0xF2, tc := 0, priv := 1, payload := bs, pmask := pmask, mc := (0, false, false)
      engine := true, owner := own }

/-- A response to a HANDOFF's write that fails stops the command at once (R371). -/
def State.hoFailed (s : State) (h : Nat) (c : Cmd) (x : Option Resp) : State :=
  match x with
  | none => s
  | some r => if r.status = Status.ok then s else s.endHandoff h c Status.aborted r.status.toNat

/-- Line 1 of the sender, as the receiver writes it: LIMIT, and the SEQ of the running RECV. With no room in the tracker the
write waits. -/
def State.writeLine1 (s : State) (h : Nat) : State :=
  let x := s.channel h
  let c? := x.active.bind s.cmd?
  if 4096 ≤ s.fab.tracker.length then s.setChannel h { x with lineDue := true }
  else
    let r := (s.setChannel h { x with lineDue := false }).hoWrite h (BitVec.ofNat 16 (s.odGet (Od.hoJob h)))
      (s.odGet (Od.hoPeerCtrl h) + 128)
      (natBytes 8 (x.limit + s.hoRing h) ++ natBytes 4 0 ++
        natBytes 4 (match c? with | some c => c.hoSeq.toNat | none => 0xFFFFFFFF)) 0
      (.line1 (x.active.getD 0))
    match c? with
    | some c => r.2.hoFailed h c r.1
    | none => r.2

/-- A write of line 1 that waited goes on. -/
def State.lineGo (s : State) (h : Nat) : State := if (s.channel h).lineDue then s.writeLine1 h else s

/-- Bytes of line 0. -/
def lineZero (produced now : Nat) (seq : BitVec 32) (n len : Nat) : List Byte :=
  natBytes 8 produced ++ natBytes 8 now ++ natBytes 4 seq.toNat ++ natBytes 4 n ++ natBytes 8 len

/-- Line 0 after chunk `k` of the micro-batch. -/
def State.hoLine0 (s : State) (h : Nat) (c : Cmd) (k : Nat) : List Byte :=
  lineZero ((s.channel h).base + k + 1) s.clk.now c.hoSeq (k + 1) c.hoLen

/-! ### SEND (R369) -/

/-- The command is the channel's started HANDOFF. -/
def State.hoRuns (s : State) (c : Cmd) : Bool := decide ((s.channel c.hoChannel).active = some c.serial)

/-- The writes of the chunks begun are handed over while the tracker has room (fuel: their number). -/
def State.hoHand : Nat → State → Nat → Cmd → State
  | 0, s, _, _ => s
  | k + 1, s, h, c =>
    let x := s.channel h
    let size := s.hoChunkSize h
    if !s.hoRuns c ∨ min c.hoLen (x.begun * size) ≤ x.issued ∨ 4096 ≤ s.fab.tracker.length then s
    else
      let n := x.issued / size
      let off := x.issued % size
      let src := c.hoSrc + x.issued
      let q := (s.setChannel h { x with issued := x.issued + 256 }).devRead hoAttr src 256
      let dst := s.odGet (Od.hoRingAddr h) + (x.base + n) % s.hoRing h * size + off
      let r := q.2.hoWrite h c.job dst q.1.1 (payloadMask src 256 q.1.2) (.chunk c.serial n)
      State.hoHand k (r.2.hoFailed h c r.1) h c

/-- Progress of the next chunk goes to the receiver once every write of it has its response; a stopped SEND ends at its
chunk boundary. -/
def State.hoProgress (s : State) (h : Nat) (c : Cmd) : State :=
  let x := s.channel h
  let k := x.produced - x.base
  if !s.hoRuns c ∨ !x.matched then (if s.hoRuns c && x.stop.isSome then s.endHandoff h c Status.aborted 0 else s)
  else if k < x.begun then
    if s.progressBusy c ∨ s.chunkBusy h c k ∨ 4096 ≤ s.fab.tracker.length then s
    else
      let r := (s.setChannel h { x with told := max x.told (x.base + k + 1) }).hoWrite h c.job (s.odGet (Od.hoPeerCtrl h))
        (s.hoLine0 h c k) 0 (.progress c.serial k)
      r.2.hoFailed h c r.1
  else if x.stop.isSome then s.endHandoff h c Status.aborted 0
  else s

/-- A SEND goes on. -/
def State.hoGo (s : State) (h : Nat) (c : Cmd) : State :=
  ((s.hoHand (c.hoLen / 256) h c).hoProgress h c).hoStall h

/-- POSTED_SEQ is compared with the SEQ of the started SEND. -/
def State.hoMatch (s : State) (h : Nat) (c : Cmd) : State :=
  let x := s.channel h
  if x.matched ∨ x.posted = 0xFFFFFFFF ∨ some x.posted = x.lastSent then s
  else if x.posted = c.hoSeq then (s.setChannel h { x with matched := true }).hoStall h
  else
    (s.event 0x0C 0 0x0702 sevWarning [(16, 1, h), (20, 4, c.hoSeq.toNat), (24, 4, x.posted.toNat)]).endHandoff h c
      Status.refused 0

/-- The engine reads line 1 of its control block: the 64-bit value and POSTED_SEQ. -/
def State.readLine1 (s : State) (h : Nat) : (Nat × BitVec 32) × State :=
  let q := s.devRead hoAttr (s.hoCtrl h + 128) 16
  ((bytesNat (q.1.1.take 8), BitVec.ofNat 32 (bytesNat (q.1.1.drop 12))), q.2)

/-- A SEND starts. Its first chunk follows the last that the receiver may count (R371, log 56). -/
def State.startSend (s : State) (h : Nat) (c : Cmd) : State :=
  let s := (s.startCmd c).2
  let q := s.readLine1 h
  let x := q.2.channel h
  (q.2.setChannel h
    { x with
      active := some c.serial, base := x.told, produced := x.told, begun := 0, issued := 0, matched := false, stop := none
      posted := q.1.2, limit := q.1.1, progressAt := s.clk.now }).hoMatch h c

/-! ### RECV (R369) -/

/-- Line 0 of the receiver shows the whole micro-batch: then the RECV commits. -/
def State.recvCheck (s : State) (h : Nat) (c : Cmd) : State :=
  let q := s.devRead hoAttr (s.hoCtrl h) 32
  let v := bytesNat q.1.1
  let s := q.2
  if !s.hoRuns c ∨ q.1.2.any id then s
  else if v / 2 ^ 128 % 2 ^ 32 = c.hoSeq.toNat ∧
      v / 2 ^ 160 % 2 ^ 32 = (v / 2 ^ 192 + s.hoChunkSize h - 1) / s.hoChunkSize h then s.endHandoff h c Status.ok 0
  else s

/-- A RECV starts: POSTED_SEQ and LIMIT go to the sender. -/
def State.startRecv (s : State) (h : Nat) (c : Cmd) : State :=
  let s := (s.startCmd c).2
  let x := s.channel h
  let s := s.setChannel h { x with active := some c.serial, progressAt := s.clk.now }
  (s.writeLine1 h).recvCheck h c

/-! ### One at a time (R368) -/

/-- The next HANDOFF that waits for the channel: the first taken of those that have not started, once it is checked. -/
def State.nextHandoff (s : State) (h : Nat) : Option Cmd :=
  (s.disp.cmds.find? fun c => decide (c.opcode = 0x0040) && decide (c.hoFunc < 2) && decide (c.hoChannel = h) &&
    decide (c.phase ≠ .started)).filter fun c => decide (c.phase = .waiting)

/-- A channel without a started HANDOFF starts those that wait (fuel: their number); on a stopped channel they are
REFUSED. -/
def State.hoNextFuel : Nat → State → Nat → State
  | 0, s, _ => s
  | k + 1, s, h =>
    if (s.channel h).active.isSome then s
    else match s.nextHandoff h with
      | none => s
      | some c =>
        State.hoNextFuel k
          (if s.odGet (Od.hoState h) ≠ 1 then (s.commit c Status.refused 0).pump
            else if c.hoFunc = 0 then s.startSend h c else s.startRecv h c) h

def State.hoNext (s : State) (h : Nat) : State := s.hoNextFuel s.disp.cmds.length h

/-! ### Line 1 (R370) -/

/-- A bad value stops the channel. -/
def State.hoStopped (s : State) (h : Nat) (cause value : Nat) : State :=
  let s := (s.odSet (Od.hoState h) 2).event 0x0C 0 0x0701 sevError [(16, 1, h), (17, 1, cause), (20, 8, value)]
  match (s.channel h).active.bind s.cmd? with
  | some c => s.endHandoff h c Status.aborted Status.refused.toNat
  | none => s

/-- CONSUMED has been written at the receiver: the sender's LIMIT follows, a bad value with it, so that both ends stop. -/
def State.consumed (s : State) (h : Nat) (v : Nat) : State :=
  let x := s.channel h
  if v = x.limit then s
  else
    let q := s.devRead hoAttr (s.hoCtrl h) 8
    let s := (q.2.setChannel h { x with limit := v, progressAt := s.clk.now }).writeLine1 h
    if v < x.limit then s.hoStopped h 0 v
    else if bytesNat q.1.1 < v then s.hoStopped h 1 v
    else s

/-- LIMIT and POSTED_SEQ have been written at the sender. LIMIT is good while LIMIT less HO_RING_CHUNKS does not exceed
the highest PRODUCED written toward the receiver: of a write not yet answered the sender cannot tell whether the receiver
has it (log 56). -/
def State.limited (s : State) (h : Nat) (v : Nat) (posted : BitVec 32) : State :=
  let x := s.channel h
  let c? := x.active.bind s.cmd?
  let same := decide (v = x.limit) && decide (posted = x.posted)
  let s := s.setChannel h { x with limit := v, posted := posted, progressAt := if same then x.progressAt else s.clk.now }
  if v < x.limit then s.hoStopped h 0 v
  else if x.told + s.hoRing h < v then s.hoStopped h 1 v
  else match c? with
    | some c => (s.hoMatch h c).hoStall h
    | none => s

/-- Line 1 of a channel in use has been written: the engine goes on by the values that it holds. -/
def State.newLine1 (s : State) (h v : Nat) (posted : BitVec 32) : State :=
  if s.odGet (Od.hoState h) ≠ 1 then s
  else if s.odGet (Od.hoRole h) = 1 then (s.consumed h v).hoNext h
  else (s.limited h v posted).hoNext h

end Sys2Proof.Machine
end

