-- ==== Sys2Proof/Machine/LogRing.lean ====
section
/-!
DEFINITION. The event-log collector (R393 to R396): the sort, the on-die log, the log ring in HBM and its interrupt.
-/

namespace Sys2Proof.Machine

/-- The attributes of the Harbourmaster's and the collector's own accesses (R450). -/
def mgmtAttr : Attr := { priv := some 0, master := none, addr := none, cls := some 0 }

/-- The key by which the collector sorts is below another's: epoch by the signed difference, then time, then source. -/
def keyBelow (a b : BitVec 32 × Nat × BitVec 16) : Bool :=
  if a.1 ≠ b.1 then epochLater a.1 b.1 else if a.2.1 ≠ b.2.1 then decide (a.2.1 < b.2.1)
  else decide (a.2.2.toNat < b.2.2.toNat)

def Event.key (e : Event) : BitVec 32 × Nat × BitVec 16 := (e.epoch, e.time, e.source)

/-- Events of the source with one timestamp are of one clock edge, because its island's clock has no two edges in one ns:
the blocks of the management, host-port and timebase islands (R22). -/
def oneEdge (srcType : BitVec 8) : Bool := srcType = 0x01 || decide (0x0E ≤ srcType.toNat)

/-- A record goes before another that was logged earlier: by its key, or by its KIND where both are of one source and one
clock edge (R30, R394). Events of one command and one time are of one edge (log 14). -/
def Event.goesBefore (x e : Event) : Bool :=
  keyBelow x.key e.key || (decide (x.key = e.key) && (oneEdge x.srcType || decide (x.edge = e.edge)) && decide (x.kind.toNat < e.kind.toNat))

/-- The lowest record, the one logged first among equals, and the others in their order. -/
def lowestEvent : List Event → Option (Event × List Event)
  | [] => none
  | e :: es => match lowestEvent es with
    | none => some (e, [])
    | some (x, r) => if x.goesBefore e then some (x, e :: r) else some (e, x :: r)

/-! ### The log ring (R395) -/

/-- The ring is on. -/
def State.logOn (s : State) : Bool := decide (s.odGet Od.logRingEntries ≠ 0)

/-- The ring has room for a record. -/
def State.logRoom (s : State) : Bool :=
  decide ((s.log.ringTail + 1) % s.odGet Od.logRingEntries ≠ s.log.ringHead)

/-- A record is written into the ring, and LOG_TAIL after it. -/
def State.logWrite (s : State) (e : Event) : State :=
  let t := (s.log.ringTail + 1) % s.odGet Od.logRingEntries
  let s := s.devWrite mgmtAttr (s.odGet Od.logRingBase + 32 * s.log.ringTail) (eventBytes e)
  { s with log := { s.log with ringTail := t } }.devWrite mgmtAttr (s.odGet Od.logRingCtrl) (natBytes 4 t)

/-- A drop period ends with one LOG_DROPPED record. -/
def State.endDrop (s : State) : State :=
  if s.log.dropping = 0 then s
  else { s with log := { s.log with dropping := 0 } }.event 0x13 0 0x0804 sevWarning [(16, 8, s.log.dropping)]

/-- The full ring leaves the record out (policy 1: information and warning). -/
def State.leavesOut (s : State) (e : Event) : Bool :=
  decide (s.odGet Od.logFullPolicy = 1) && decide (e.severity.toNat ≤ 1)

/-- The record waits for room in the ring. -/
def State.logWaits (s : State) (e : Event) : Bool := s.logOn && !s.logRoom && !s.leavesOut e

/-- The record's share of the ring: written, left out, or nothing where the ring is off. -/
def State.logToRing (s : State) (e : Event) : State :=
  if !s.logOn then s
  else if s.logRoom then s.logWrite e
  else ({ s with log := { s.log with dropping := s.log.dropping + 1 } }).odAdd Od.logDropped 1

/-! ### Signals (R396) -/

/-- Vector 72 is signalled for an error or fatal record, at most once in 10 µs. -/
def State.logSignal (s : State) (e : Event) : State :=
  if e.severity.toNat < 2 then s
  else
    let due := match s.log.lastSignal with
      | none => true
      | some t => decide (t + 10000 ≤ s.clk.now)
    if due then { s with log := { s.log with lastSignal := some s.clk.now } }.signal 72
    else { s with log := { s.log with deferred := true } }

/-- EVENT_INTERRUPT: the deferred signal at the end of the 10 µs. -/
def execEventInterrupt (s : State) : Outcome :=
  match s.log.lastSignal with
  | some t =>
    if s.log.deferred ∧ s.dev.state ≠ .off then
      let s := s.advanceTo (t + 10000)
      .next ({ s with log := { s.log with lastSignal := some s.clk.now, deferred := false } }.signal 72)
    else .next s
  | none => .next s

/-! ### LOG_RELEASE (R394, R395) -/

/-- The last key released in order. -/
def laterKey (a : Option (BitVec 32 × Nat × BitVec 16)) (b : BitVec 32 × Nat × BitVec 16) :
    Option (BitVec 32 × Nat × BitVec 16) :=
  match a with
  | none => some b
  | some k => some (if keyBelow b k then k else b)

/-- LOG_RELEASE: the lowest record in the ingress goes to the on-die log and the ring: 100 ns after its timestamp, or at once where the
ingress is full or its key is below that of a record released before it. A record that waits for room is not released. -/
def execLogRelease (s : State) : Outcome :=
  match lowestEvent (s.log.ingress.take 256) with
  | none => .next s
  | some (e, rest) =>
    if s.logWaits e ∨ s.dev.state = .off then .next s
    else
      let late := match s.log.lastKey with
        | none => false
        | some k => keyBelow e.key k
      let full := decide (256 ≤ s.log.ingress.length)
      let held := min 256 s.log.ingress.length
      let s := if late || full then s else s.advanceTo (e.time + 100)
      let s := { s with log := { s.log with
        ingress := rest ++ s.log.ingress.drop held, ondie := (e :: s.log.ondie).take 4096
        lastKey := laterKey s.log.lastKey e.key } }
      let s := s.odAdd Od.logRecords 1
      let s := if late then s.odAdd Od.logLate 1 else s
      .next ((s.logToRing e).logSignal e).freeIssues

/-- A LOG_HEAD that has been written: room in the ring ends a drop period, and lets waiting records go. -/
def State.newLogHead (s : State) (head : Nat) : State :=
  let s := { s with log := { s.log with ringHead := head } }
  if s.logRoom then s.endDrop else s

/-- LOG_HEAD_WRITE. -/
def execLogHeadWrite (head : BitVec 32) (s : State) : Outcome :=
  if s.logOn then
    .next ((s.devWrite (devAttr 0xF3 1) (s.odGet Od.logRingCtrl + 128) (natBytes 4 head.toNat)).newLogHead head.toNat)
  else .next s

/-- A ring of `n` records and its control block lie wholly in HBM, aligned (R395, R401). -/
def State.logFits (s : State) (n : Nat) : Bool :=
  let b := s.odGet Od.logRingBase
  let c := s.odGet Od.logRingCtrl
  decide (b % 4096 = 0) && decide (b + 32 * n ≤ hbmEnd) && decide (c % 256 = 0) && decide (c + 256 ≤ hbmEnd)

/-- LOG_RING_ENTRIES: a non-zero value turns the ring on, 0 turns it off. -/
def execLogRingEntries (via : OdPath) (v : BitVec 32) (s : State) : Outcome :=
  .next (s.odRow via 0x4000 0x02 v.toNat (withAccess v.toNat fun s =>
    let n := v.toNat
    if n = 0 then (Status.ok, (s.endDrop.odSet Od.logRingEntries 0).disarm .logHead)
    else if s.logOn ∨ !(OdCheck.pow2 1024 1048576).accepts n ∨ !s.logFits n then (Status.refused, s)
    else
      let s := s.odSet Od.logRingEntries n
      let s := { s with log := { s.log with ringTail := 0, ringHead := 0, dropping := 0 } }
      (Status.ok, (s.devWrite mgmtAttr (s.odGet Od.logRingCtrl) (natBytes 4 0)).arm .logHead (s.odGet Od.logRingCtrl + 128))))

end Sys2Proof.Machine
end

