-- ==== Sys2Proof/Machine/Tally.lean ====
section
/-!
DEFINITION. Counters and the Tally (R447 to R462): select words, control words, the device-wide switch, and dumps.
-/

namespace Sys2Proof.Machine

/-! ### Select words (R449, R451, R452) -/

/-- The filters that an event supports: privilege, master, address, class. -/
structure EventFilters where
  priv : Bool
  master : Bool
  addr : Bool
  cls : Bool
  deriving DecidableEq, Repr

/-- The events of R452 with their filters. -/
def eventFilters (code : Nat) : Option EventFilters :=
  match code with
  | 0x0301 | 0x0302 | 0x030C => some ⟨false, false, false, true⟩
  | 0x0303 | 0x0304 | 0x0305 | 0x0306 | 0x0307 | 0x0308 | 0x0309 | 0x030A | 0x030B | 0x030E | 0x030F =>
    some ⟨false, false, false, false⟩
  | 0x030D => some ⟨false, false, true, true⟩
  | 0x0201 | 0x0202 => some ⟨true, true, true, false⟩
  | 0x0203 | 0x0204 | 0x0206 | 0x0207 => some ⟨false, false, false, false⟩
  | 0x0205 => some ⟨true, false, true, true⟩
  | 0x0801 | 0x0802 | 0x0803 => some ⟨true, true, true, true⟩
  | 0x0804 | 0x0805 | 0x0806 | 0x0807 => some ⟨false, false, false, false⟩
  | 0x0901 | 0x0902 => some ⟨true, true, true, true⟩
  | 0x0903 | 0x0904 | 0x0905 | 0x0906 => some ⟨false, false, false, false⟩
  | 0x0907 => some ⟨true, true, false, false⟩
  | _ => none

/-- A select word that may not be written at a block of type `ty` (R451). -/
def pselRefused (ty : Nat) (v : BitVec 64) : Bool :=
  let ev := (v.extractLsb' 0 16).toNat
  let f := if ev / 256 = ty then eventFilters ev else none
  let g := f.getD ⟨false, false, false, false⟩
  v.getLsbD 62 || decide (v.extractLsb' 16 14 ≠ 0) || decide (8 < (v.extractLsb' 58 4).toNat) ||
  (f.isNone && v.getLsbD 63) || decide (v.extractLsb' 30 3 = 0) ||
  (v.getLsbD 41 && !g.master) || (decide (v.extractLsb' 58 4 ≠ 0) && !g.addr) ||
  (decide (v.extractLsb' 30 3 ≠ 7) && !g.priv) || (decide (v.extractLsb' 42 16 ≠ 0xFFFF) && !g.cls)

/-- PSEL: an accepted write zeroes the counter and clears its OVF bit. -/
def execPsel (via : OdPath) (set : BitVec 16) (n : Nat) (v : BitVec 64) (s : State) : Outcome :=
    withRoom (.psel via set n v) s <|
  let idx := set.toNat
  match if n < 8 then setType? idx else none with
  | none => .next s
  | some ty =>
    .next (s.odRow via idx (0x0A + n) v.toNat (withAccess v.toNat fun s =>
      if pselRefused ty v then (Status.refused, s)
      else
        let k := Od.key idx 0x12
        let s := (s.odSet (Od.key idx (0x0A + n)) v.toNat).zeroPmc idx n
        (Status.ok, s.odSet k ((BitVec.ofNat 32 (s.odGet k) &&& ~~~((1 : BitVec 32) <<< (8 + n))).toNat))))

/-- PCTL: CLEAR zeroes counters, and OVF bits written as 1 clear (R454). -/
def execPctl (via : OdPath) (set : BitVec 16) (v : BitVec 32) (s : State) : Outcome := withRoom (.pctl via set v) s <|
  let idx := set.toNat
  match setType? idx with
  | none => .next s
  | some _ =>
    .next (s.odRow via idx 0x12 v.toNat (withAccess v.toNat fun s =>
      let k := Od.key idx 0x12
      let s := ((List.range 8).filter fun i => v.getLsbD i).foldl (fun s i => s.zeroPmc idx i) s
      (Status.ok, s.odSet k ((BitVec.ofNat 32 (s.odGet k) &&& ~~~(v &&& 0xFF00)).toNat))))

/-! ### The device-wide switch (R456) -/

/-- A switch takes T, 64 ns on; BUSY before the T of an earlier one. -/
def State.countSchedule (s : State) (op : CountOp) : Status × State :=
  match s.tally.countPending with
  | some _ => (Status.busy, s)
  | none =>
    (Status.ok, { s with tally := { s.tally with
      countPending := some (s.clk.now + 64, op) } }.odSet Od.countSwitchTime (s.clk.now + 64))

/-- COUNT_FREEZE. -/
def execCountFreeze (via : OdPath) (v : BitVec 8) (s : State) : Outcome := withRoom (.countFreeze via v) s <|
  .next (s.odRow via 0x3001 0x01 v.toNat (withAccess v.toNat fun s =>
    let q := s.countSchedule (if v = 0 then .restart else .freeze)
    (q.1, if q.1 = Status.ok then q.2.odSet Od.countFreeze v.toNat else q.2)))

/-- COUNT_CLEAR. -/
def execCountClear (via : OdPath) (s : State) : Outcome := withRoom (.countClear via) s <|
  .next (s.odRow via 0x3001 0x02 1 (withAccess 1 fun s => s.countSchedule .clear))

/-- COUNT_SWITCH: at T each island applies the change. -/
def execCountSwitch (s : State) : Outcome :=
  match s.tally.countPending with
  | some (t, _) => if s.dev.state = .off then .next s else .next (s.advanceTo t)
  | none => .next s

/-! ### The Tally (R457 to R460) -/

/-- The attributes of the Tally's writes (R450). -/
def tallyAttr : Attr := devAttr 0xF5 0

/-- The owner of the words of a dump that is being written. -/
def tallyOwner : Nat := 2 ^ 65

/-- A record is written, with zeros in its reserved bytes; its words are in place once the dump is. -/
def State.tallyWrite (s : State) (a : Nat) (bs : List Byte) : State :=
  let s := (s.countSpan tallyAttr 1 a 4096).coherentWrite a 4096
  (List.range 512).foldl (fun s i =>
    s.writeRacy tallyOwner (a / 8 + i) (BitVec.ofNat 64 (bytesNat ((bs.drop (8 * i)).take 8))) false) s

/-- A dump is skipped; the first of a run is logged. -/
def State.tallySkip (s : State) (k cause : Nat) : State :=
  let s := s.odAdd Od.tallySkipped 1
  let first := !s.tally.skipping
  let s := { s with tally := { s.tally with skipping := true } }
  if first then s.event 0x14 0 0x0B01 sevWarning [(16, 8, k), (24, 1, cause)] else s

/-- The latched records of a dump are written from the TAIL position. -/
def State.tallyWriteAll (s : State) (k : Nat) (recs : List (List Byte)) : State :=
  let sz := s.odGet Od.tallyRingRecords
  let s := recs.zipIdx.foldl (fun s r =>
    s.tallyWrite (s.odGet Od.tallyRingBase + 4096 * ((s.tally.tail + r.2) % sz)) r.1) s
  { s with tally := { s.tally with writing := some (k, recs.length), skipping := false } }

/-- TALLY_DUMP, at a multiple of the period: what the blocks latched then is written, or the dump is skipped, where the ring
had no room then, or nothing was latched since the dump before had not advanced TAIL. -/
def execTallyDump (s : State) : Outcome := withRoom .tallyDump s <|
  if s.odGet Od.tallyEnable = 1 then
    let t := s.odGet Od.tallyNext
    let s := s.advanceTo t
    let k := s.tally.dumpNo
    let latch := s.tally.latch
    let s := { s with tally := { s.tally with dumpNo := k + 1, latch := none } }.odSet Od.tallyNext
      (t + s.odGet Od.tallyPeriodNs)
    match latch with
    | none => .next (s.tallySkip k 1)
    | some l => if l.room then .next (s.tallyWriteAll k l.records) else .next (s.tallySkip k 0)
  else .next s

/-- TALLY_DUMP_WRITTEN: TAIL advances. -/
def execTallyDumpWritten (s : State) : Outcome := withRoom .tallyDumpWritten s <|
  match s.tally.writing with
  | some (_, n) =>
    let t := (s.tally.tail + n) % s.odGet Od.tallyRingRecords
    let s := { (s.settle tallyOwner).odAdd Od.tallyDumps 1 with tally := { s.tally with tail := t, writing := none } }
    .next (s.devWrite tallyAttr (s.odGet Od.tallyRingCtrl) (natBytes 4 t))
  | none => .next s

/-- TALLY_HEAD_WRITE. -/
def execTallyHeadWrite (head : BitVec 32) (s : State) : Outcome := withRoom (.tallyHeadWrite head) s <|
  if s.odGet Od.tallyEnable = 1 then
    let s := s.devWrite (devAttr 0xF3 1) (s.odGet Od.tallyRingCtrl + 128) (natBytes 4 head.toNat)
    .next { s with tally := { s.tally with head := head.toNat } }
  else .next s

/-- Dumps begin: the first is due at the first multiple of the period at least 1 µs on. -/
def State.tallyStart (s : State) : State :=
  let p := s.odGet Od.tallyPeriodNs
  let s := (s.odSet Od.tallyEnable 1).odSet Od.tallyNext ((s.clk.now + 1000 + p - 1) / p * p)
  let s := { s with tally := { s.tally with dumpNo := 0, tail := 0, head := 0, skipping := false, latch := none } }
  (s.devWrite tallyAttr (s.odGet Od.tallyRingCtrl) (natBytes 4 0)).arm .tallyHead (s.odGet Od.tallyRingCtrl + 128)

/-- TALLY_ENABLE. -/
def execTallyEnable (via : OdPath) (v : BitVec 8) (s : State) : Outcome := withRoom (.tallyEnable via v) s <|
  .next (s.odRow via 0x3000 0x01 v.toNat (withAccess v.toNat fun s =>
    if v = 0 then (Status.ok, { (((s.odSet Od.tallyEnable 0).odSet Od.tallyNext 0).disarm .tallyHead) with
      tally := { s.tally with skipping := false, latch := none } })
    else if s.odGet Od.tallyEnable = 1 then (Status.ok, s)
    else if s.odGet Od.tallyRingRecords < s.tallyBlocks.length then (Status.refused, s)
    else (Status.ok, s.tallyStart)))

end Sys2Proof.Machine
end

