-- ==== Sys2Proof/Machine/Monitors.lean ====
section
/-!
DEFINITION. The address monitors: what the owner of a ring does when another master has written the line that the host
writes of its control block (R67, R68, R367, R395, R458).
-/

namespace Sys2Proof.Machine

/-- The owner of a monitored line reads the index in its first four bytes, and goes on as for the host's write of it. -/
def State.seeLine (s : State) (m : Monitor) : State :=
  match m with
  | .tail r =>
    let q := s.devRead dispAttr (s.odGet (Od.ringCtrl r)) 4
    q.2.newTail r (bytesNat q.1.1)
  | .cqHead q =>
    let x := s.devRead dispAttr (s.odGet (Od.cqCtrl q) + 128) 4
    x.2.newCqHead q (bytesNat x.1.1)
  | .logHead =>
    if s.logOn then
      let x := s.devRead mgmtAttr (s.odGet Od.logRingCtrl + 128) 4
      x.2.newLogHead (bytesNat x.1.1)
    else s
  | .tallyHead =>
    if s.odGet Od.tallyEnable = 1 then
      let x := s.devRead tallyAttr (s.odGet Od.tallyRingCtrl + 128) 4
      { x.2 with tally := { x.2.tally with head := bytesNat x.1.1 } }
    else s
  | .handoff h =>
    if s.odGet (Od.hoState h) = 1 ∧ s.working then
      let x := s.readLine1 h
      x.2.newLine1 h x.1.1 x.1.2
    else s

/-- Every monitored line that has been written since is looked at. -/
def State.wakeUp (s : State) : State :=
  s.disp.woken.foldl State.seeLine { s with disp := { s.disp with woken := [] } }

end Sys2Proof.Machine
end

