-- ==== Sys2Proof/Machine/Copy.lean ====
section
/-!
DEFINITION. COPY and the Lighters (R238, R239).
-/

namespace Sys2Proof.Machine

/-! ### Checks (R239) -/

def Cmd.copySrc (c : Cmd) : Nat := c.arg 192 52
def Cmd.copyDst (c : Cmd) : Nat := c.arg 256 52
def Cmd.copyLen (c : Cmd) : Nat := c.arg 320 40
def Cmd.copyTc (c : Cmd) : BitVec 3 := BitVec.ofNat 3 (c.arg 416 3)
def Cmd.copyLighter (c : Cmd) : Nat := c.arg 424 8
def Cmd.copySrcKey (c : Cmd) : BitVec 32 := BitVec.ofNat 32 (c.arg 448 32)
def Cmd.copyDstKey (c : Cmd) : BitVec 32 := BitVec.ofNat 32 (c.arg 480 32)

/-- A local range cut at the end of HBM, where cluster buffer 0 follows without a gap (R222). -/
def spanParts (l n : Nat) : List (Nat × Nat) :=
  if l < hbmEnd ∧ hbmEnd < l + n then [(l, hbmEnd - l), (hbmEnd, l + n - hbmEnd)] else [(l, n)]

/-- A range is not wholly in mapped memory, or its coordinates lie outside the plan. -/
def State.copyMissing (s : State) (side : Side) (a n : Nat) : Bool :=
  if n = 0 then false
  else (!s.isOwn a && !s.inPlan (globalPlace a)) || (spanParts (globalLocal a) n).any fun p =>
    if s.isOwn a then !s.mapped side p.1 p.2
    else decide (regionOf p.1 = .unmapped) || decide (regionOf p.1 ≠ regionOf (p.1 + p.2 - 1))

/-- An address of this device whose channel is closed: its accesses are REFUSED (R26, R392). -/
def State.copyClosed (s : State) (a : Nat) : Bool := s.isOwn a && s.channelClosed (globalLocal a)

/-- A range on another device that no route reaches. -/
def State.copyCut (s : State) (a : Nat) : Bool := !s.isOwn a && decide (s.route s.place (s.target a) = none)

/-- A Lighter that is present on a side. -/
def State.lighterPresent (s : State) (side : Side) (n : Nat) : Bool :=
  decide (n < 16) && decide (n / 2 < s.dev.clustersOn) && side.sees (s.clusterSide (n / 2))

/-- Key checks of the local ranges. -/
def State.copyKeys (s : State) (c : Cmd) : List (Nat × Status × BitVec 8) :=
  let n := c.copyLen
  s.rangeChecks
    ((if s.isOwn c.copySrc then [(globalLocal c.copySrc, n, c.copySrcKey, Access.read)] else []) ++
     (if s.isOwn c.copyDst then [(globalLocal c.copyDst, n, c.copyDstKey, Access.write)] else []))

/-- The block `block` logs that an access to a global address met a closed channel (R26, log 80). -/
def State.noteClosed (s : State) (block : Nat × Nat) (a : Nat) : State :=
  if s.copyClosed a then s.closedEvent block (globalLocal a) else s

/-- The conditions under which a COPY is REFUSED. -/
def State.copyRefused (s : State) (c : Cmd) : Bool :=
  let src := c.copySrc
  let dst := c.copyDst
  let n := c.copyLen
  c.bad || s.copyClosed src || s.copyClosed dst ||
  decide (n % 8 ≠ 0) || decide (n < 8) || decide (0xC000000000 < n) || decide (src % 8 ≠ 0) ||
  decide (dst % 8 ≠ 0) || decide (regionOf (globalLocal src) = .window) || decide (regionOf (globalLocal dst) = .window) ||
  (decide (c.copyLighter ≠ 0xFF) && !s.lighterPresent (s.jobSide c.job) c.copyLighter) ||
  (decide (s.target src = s.target dst) && decide (src % 2 ^ 40 < dst % 2 ^ 40 + n) &&
    decide (dst % 2 ^ 40 < src % 2 ^ 40 + n)) ||
  decide (c.arg 432 16 ≠ 0) || decide (c.arg 419 5 ≠ 0) || decide (c.arg 360 56 ≠ 0) || decide (c.arg 308 12 ≠ 0) ||
  decide (c.arg 244 12 ≠ 0)

/-- COPYs assigned to a Lighter that have not committed. -/
def State.lighterLoad (s : State) (n : Nat) : Nat := (s.disp.copies.filter fun j => decide (j.lighter = n)).length

/-- The Lighter that takes the COPY: the named one, or the least loaded of the side. -/
def State.pickLighter (s : State) (c : Cmd) : Nat :=
  if c.copyLighter ≠ 0xFF then c.copyLighter
  else
    let l := (List.range 16).filter (s.lighterPresent (s.jobSide c.job))
    l.foldl (fun b n => if s.lighterLoad n < s.lighterLoad b then n else b) (l.headD 0)

/-- COPY: the dispatcher checks the command and queues it on a Lighter; where the queue is full, it holds the command. -/
def execCopy (cmd : Nat) (s : State) : Outcome := withRoom (.copy cmd) s <|
  .next (s.onCmd cmd 0x0002 fun s c =>
    let side := s.jobSide c.job
    let ks := s.copyKeys c
    match checkOrder (ks.any fun k => decide (k.2.1 = Status.denied))
        (s.copyMissing side c.copySrc c.copyLen || s.copyMissing side c.copyDst c.copyLen)
        (ks.any fun k => decide (k.2.1 = Status.keyMismatch)) (s.copyCut c.copySrc || s.copyCut c.copyDst)
        (s.copyRefused c) with
    | some st =>
      let s := if st = Status.refused then s.noteClosed (0x0D, 0) (if s.copyClosed c.copySrc then c.copySrc else c.copyDst)
        else s
      (s.rangeRefused c.job (some st) ks).commit c st 0
    | none =>
      let n := s.pickLighter c
      if 16 ≤ s.lighterLoad n then s
      else
        let s := s.setCmd { c with phase := .waiting }
        { s with disp := { s.disp with copies := s.disp.copies ++
          [{ cmd := c.serial, lighter := n, src := BitVec.ofNat 64 c.copySrc, dst := BitVec.ofNat 64 c.copyDst
             len := c.copyLen, srcKey := c.copySrcKey, dstKey := c.copyDstKey, tc := c.copyTc, running := false
             issued := 0, poisoned := 0, fail := none }] } })

/-! ### Moving -/

def State.copy? (s : State) (cmd : Nat) : Option CopyJob := s.disp.copies.find? fun j => decide (j.cmd = cmd)
def State.setCopy (s : State) (j : CopyJob) : State :=
  { s with disp := { s.disp with copies := s.disp.copies.map fun q => if q.cmd = j.cmd then j else q } }
def State.dropCopy (s : State) (cmd : Nat) : State :=
  { s with disp := { s.disp with copies := s.disp.copies.filter fun q => decide (q.cmd ≠ cmd) } }

/-- Transactions of a COPY that are outstanding. -/
def State.copyOut (s : State) (cmd : Nat) : Nat :=
  (s.fab.tracker.filter fun t => match t.owner with
    | .copyRead c _ => decide (c = cmd)
    | .copyWrite c => decide (c = cmd)
    | _ => false).length

/-- The next piece of a COPY: at most 256 bytes, inside one 256-byte block of its source and one of its destination. -/
def CopyJob.piece (j : CopyJob) : Nat :=
  min (j.len - j.issued) (min (256 - (j.src.toNat + j.issued) % 256) (256 - (j.dst.toNat + j.issued) % 256))

/-- A bound on the pieces of a COPY that are still to begin: each ends at a boundary of its source or its destination, or
the COPY. -/
def CopyJob.pieces (j : CopyJob) : Nat := 2 * ((j.len - j.issued) / 256 + 2)

/-- The first failure stops the copy. -/
def State.copyFailed (s : State) (j : CopyJob) (st : Status) : State :=
  match j.fail with
  | some _ => s
  | none => s.setCopy { j with fail := some st }

/-- A transaction of a COPY. -/
def copyTx (s : State) (j : CopyJob) (op : BitVec 8) (a : Nat) (n : Nat) (key : BitVec 32) (bs : List Byte)
    (pmask : BitVec 32) (own : TxOwner) : NewTx :=
  { dst := (globalPlace a).coord, op := op, addr := BitVec.ofNat 40 (globalLocal a), len := n, key := key
    job := ((s.cmd? j.cmd).map (·.job)).getD 0, master := BitVec.ofNat 8 (0x80 + j.lighter), tc := j.tc, priv := 1
    payload := bs, pmask := pmask, mc := (0, false, false), engine := false, owner := own }

def copyAttr (j : CopyJob) : Attr := { devAttr (0x80 + j.lighter) 1 with cls := some j.tc.toNat }

/-- Words of a piece from its bytes and marks. -/
def pieceWords (bs : List Byte) (pmask : BitVec 32) : List (BitVec 64 × Bool) :=
  (List.range (bs.length / 8)).map fun i => (BitVec.ofNat 64 (bytesNat ((bs.drop (8 * i)).take 8)), pmask.getLsbD i)

/-- Set bits of the low 32. -/
def maskCount (m : BitVec 32) : Nat := bitCount m.toNat 32

/-- A piece that has been read goes to its destination. -/
def State.copyWrite (s : State) (j : CopyJob) (dst : Nat) (bs : List Byte) (pmask : BitVec 32) : State :=
  let j := { j with poisoned := j.poisoned + maskCount pmask }
  let s := s.setCopy j
  let s := s.count (0x3200 + j.lighter / 2) 0x0205 ((bs.length + 31) / 32)
    { copyAttr j with master := none, addr := some (globalLocal dst) }
  if s.copyClosed dst then (s.noteClosed (0x05, j.lighter) dst).copyFailed j Status.refused
  else if s.isOwn dst then
    let a := globalLocal dst
    let s := (s.countSpan (copyAttr j) 1 a bs.length).coherentWrite a bs.length
    ((pieceWords bs pmask).zipIdx).foldl (fun s x => s.writeRacy j.cmd (a / 8 + x.2) x.1.1 x.1.2) s
  else
    let r := s.openTx ((s.freeTag).getD 0) (copyTx s j 0x02 dst bs.length j.dstKey bs pmask (.copyWrite j.cmd))
    match r.1 with
    | some x => if x.status = Status.ok then r.2 else r.2.copyFailed j x.status
    | none => r.2

/-- The next piece of a COPY is begun. -/
def State.copyPiece (s : State) (j : CopyJob) : State :=
  let src := j.src.toNat + j.issued
  let dst := j.dst.toNat + j.issued
  let n := j.piece
  let j := { j with issued := j.issued + n }
  let s := s.setCopy j
  if s.copyClosed src then (s.noteClosed (0x05, j.lighter) src).copyFailed j Status.refused
  else if s.isOwn src then
    let a := globalLocal src
    let q := s.devRead (copyAttr j) a n
    q.2.copyWrite j dst q.1.1 (payloadMask a n q.1.2)
  else
    let r := s.openTx ((s.freeTag).getD 0)
      (copyTx s j 0x01 src n j.srcKey [] 0 (.copyRead j.cmd (BitVec.ofNat 64 dst)))
    match r.1 with
    | some x => r.2.copyFailed j x.status
    | none => r.2

/-- A running COPY begins what it may: at most 256 of its transactions are outstanding (fuel: its pieces). -/
def State.copyRun : Nat → State → Nat → State
  | 0, s, _ => s
  | k + 1, s, cmd =>
    match s.copy? cmd with
    | none => s
    | some j =>
      let far := !s.isOwn j.src.toNat || !s.isOwn j.dst.toNat
      if !j.running ∨ j.fail.isSome ∨ j.len ≤ j.issued ∨
          (far ∧ (256 ≤ s.copyOut cmd ∨ 4096 ≤ s.fab.tracker.length)) then s
      else State.copyRun k (s.copyPiece j) cmd

/-- Every running COPY goes on. -/
def State.copiesRun (s : State) : State :=
  s.disp.copies.foldl (fun s j => s.copyRun j.pieces j.cmd) s

/-- The response to a COPY's READ. -/
def State.copyReadDone (s : State) (cmd : Nat) (dst : BitVec 64) (x : Resp) : State :=
  match s.copy? cmd with
  | none => s
  | some j =>
    if x.status = Status.ok ∨ x.status = Status.poisoned then s.copyWrite j dst.toNat x.payload x.pmask
    else s.copyFailed j x.status

/-- The response to a COPY's WRITE. -/
def State.copyWriteDone (s : State) (cmd : Nat) (x : Resp) : State :=
  match s.copy? cmd with
  | none => s
  | some j => if x.status = Status.ok then s else s.copyFailed j x.status

/-- COPY_START: the Lighter starts the next COPY of its queue. -/
def execCopyStart (lighter : Nat) (s : State) : Outcome := withRoom (.copyStart lighter) s <|
  let mine := s.disp.copies.filter fun j => decide (j.lighter = lighter)
  match mine with
  | [] => .next s
  | j :: _ =>
    match s.cmd? j.cmd with
    | none => .next s
    | some c =>
      if j.running ∨ !s.working then .next s
      else
        let s := (s.startCmd c).2.setCopy { j with running := true }
        .next (s.copyRun j.pieces j.cmd).wakeUp.pump

/-- The record of a COPY that carried poisoned words (R240). -/
def State.copyPoison (s : State) (j : CopyJob) (c : Cmd) : State :=
  if j.poisoned = 0 then s
  else s.event 0x05 j.lighter 0x0206 sevWarning
    [(16, 4, c.cmdId.toNat), (20, 2, c.ring), (22, 1, min j.poisoned 255)]

/-- COPY_COMMIT: every byte is in place, or a remote transaction has failed and none is outstanding. -/
def execCopyCommit (cmd : Nat) (s : State) : Outcome := withRoom (.copyCommit cmd) s <|
  match s.copy? cmd, s.cmd? cmd with
  | some j, some c =>
    if !j.running ∨ s.copyOut cmd ≠ 0 then .next s
    else
      let words := BitVec.ofNat 16 (256 * min j.poisoned 255)
      match j.fail with
      | some st =>
        .next ((((s.unsettle cmd).dropCopy cmd).copyPoison j c).commit c Status.aborted (words + st.setWidth 16)).pump
      | none =>
        if j.issued = j.len ∧ (!s.isOwn j.dst.toNat ∨ s.linesAcked (globalLocal j.dst.toNat) j.len) then
          .next ((((s.settle cmd).dropCopy cmd).copyPoison j c).commit c Status.ok words).pump
        else .next s
  | _, _ => .next s

/-- A started COPY is stopped by the host: each word of its destination keeps its earlier value or has the copied one. -/
def State.abortCopy (s : State) (j : CopyJob) (c : Cmd) : State :=
  (((s.unsettle j.cmd).dropCopy j.cmd).copyPoison j c).commit c Status.aborted
    (BitVec.ofNat 16 (256 * min j.poisoned 255))

end Sys2Proof.Machine
end

