-- ==== Sys2Proof/Machine/Transit.lean ====
section
/-!
DEFINITION. Packets and collective control flits that reach the device: the fence (R382), forwarding (R257, R258) and the
relay of control flits (R302).
-/

namespace Sys2Proof.Machine

/-- The fabric takes traffic: the device is out of OFF and BOOT. -/
def State.fabricOn (s : State) : Bool := s.dev.state ≠ .off && s.dev.state ≠ .boot

/-! ### Packets -/

/-- Where a packet that comes in by the port is: it stands in the port's buffer, the oldest of its pool there, or it came by
an earlier link of the port, or it is the next to arrive (R271, log 25). -/
inductive RxPlace where
  | buffer | old | arriving
  deriving DecidableEq, Repr

/-- The packet comes in by the port, from its buffer or from the link. -/
def State.pullRx (s : State) (port : Nat) (pk : Packet) : Option (RxPlace × State) :=
  let pt := s.port port
  if !s.fabricOn ∨ 4 ≤ port then none
  else match pt.rxOld.find? fun q => decide (packetPool q = packetPool pk),
      pt.rxq.find? fun q => decide (packetPool q = packetPool pk) with
    | some q, _ => if q = pk then some (.old, s.setPort port { pt with rxOld := pt.rxOld.erase pk }) else none
    | none, some q => if q = pk then some (.buffer, s.setPort port { pt with rxq := pt.rxq.erase pk }) else none
    | none, none =>
      if pt.state.carries then some (.arriving, s.count (portSet port) 0x0902 (packetSlots pk) (packetAttr pk)) else none

/-- The packet is taken from the port for good: where it stood in the buffer, its slots leave it (R248). -/
def State.takeRx (s : State) (port : Nat) (pk : Packet) : Option State :=
  (s.pullRx port pk).map fun r => if r.1 = .buffer then r.2.oweSlots port (packetPool pk) (packetSlots pk) else r.2

/-- The next place of a packet on its way: to its waypoint, or to its destination, along X and then along Y (R256). -/
def nextHop (p d : Place) : Option Place := (hops (pathOf p d)).head?.map (·.2)

/-- A packet for another device goes on; at its waypoint it enters the detour class (R257). Until it is sent it fills the
slots of the ingress buffer that it stands in (R248, R276). -/
def State.forward (s : State) (port : Nat) (pool : Option Nat) (pk : Packet) : State :=
  let pk := if pk.wpValid ∧ pk.waypoint = s.self then { pk with wpValid := false, detour := true } else pk
  let d := Place.ofCoord (if pk.wpValid then pk.waypoint else pk.dst)
  match nextHop s.place d with
  | none => s
  | some q =>
    let s := if pk.vc = 3 then s.count (portSet port) 0x0906 (packetSlots pk) Attr.none else s
    s.sendOnward (portToward s.place q) ⟨port, pool, pk⟩

/-- The packet goes on to another device. -/
def State.passesBy (s : State) (pk : Packet) : Bool :=
  (decide (pk.dst ≠ s.self) || pk.wpValid) && !(decide (pk.dst = s.self) && decide (pk.waypoint = s.self))

/-- A packet that arrives: from fenced coordinates it is discarded, for another device it is forwarded, and otherwise `f`
serves it. -/
def State.onPacket (s : State) (port : Nat) (pk : Packet) (f : State → State) : State :=
  if !s.fencedPlace pk.src && s.passesBy pk then
    match s.pullRx port pk with
    | none => s
    | some (w, s) => s.forward port (if w = .buffer then some (packetPool pk) else none) pk
  else
    match s.takeRx port pk with
    | none => s
    | some s => if s.fencedPlace pk.src then s.odAdd Od.fenceDiscards 1 else f s

/-! ### Collective control flits (R302) -/

/-- Slot 1 of a control flit. -/
def ctrlSlot (ctype : Nat) (f : CollFlit) : BitVec 128 :=
  BitVec.ofNat 128 (ctype + f.dest.toNat * 2 ^ 8 + f.group.toNat * 2 ^ 20 + f.context.toNat * 2 ^ 24 +
    (if f.noEpoch then 2 ^ 28 else 0) + f.value.toNat * 2 ^ 32 + f.status.toNat * 2 ^ 64 + f.job.toNat * 2 ^ 72)

/-- A control flit leaves along the route to its member, by a PARKED port too; where the port has no link, or stands under
a fence, it is dropped and counted (R250, R382). -/
def State.sendCtrl (s : State) (ctype : Nat) (f : CollFlit) : State :=
  match s.route s.place (Place.ofCoord f.dest) with
  | none => s
  | some r =>
    let pt := s.port r.port
    if (pt.state.carries || decide (pt.state = .parked)) && !s.fenced r.port then
      s.setPort r.port { pt with ctrlq := pt.ctrlq ++ [ctrlSlot ctype f] }
    else s.odAdd Od.packetsDropped 1

/-- A control flit that arrives: from fenced coordinates it is discarded, for another member it is relayed. -/
def State.onFlit (s : State) (ctype : Nat) (f : CollFlit) (k : State → State) : State :=
  if !s.fabricOn then s
  else if s.fencedPlace f.src then s.odAdd Od.fenceDiscards 1
  else if f.dest ≠ s.self then s.sendCtrl ctype f
  else k s

/-- A flit of this device to a member. -/
def State.flitTo (s : State) (d : Place) (job : BitVec 16) (group : Nat) (value : BitVec 32) (st : Status) (noEpoch : Bool)
    (ctx : Nat) : CollFlit :=
  { job := job, status := st, value := value, noEpoch := noEpoch, context := BitVec.ofNat 4 ctx
    group := BitVec.ofNat 4 group, dest := d.coord, src := s.self }

end Sys2Proof.Machine
end

