-- ==== Sys2Proof/Machine/Functions.lean ====
section
/-!
DEFINITION. The functions of R211 whose result the spec bounds and does not state: each one's value to within
2^-90 of itself, and the free result that lies within the bound around it (log 10). Sums are in units of 2^-320.
-/

namespace Sys2Proof.Machine

def fixOne : Nat := 2 ^ 320

/-- The product of two numbers in units of 2^-320. -/
def fixMul (a b : Nat) : Nat := a * b / fixOne

/-- `e^y` for `y` from 0 to 1, by its power series. -/
def fixExp (y : Nat) : Nat :=
  ((List.range 80).foldl (fun (s : Nat × Nat) n => let t := fixMul s.2 y / (n + 1); (s.1 + t, t)) (fixOne, fixOne)).1

/-- The inverse hyperbolic tangent of `z` from 0 to 1/3, by its power series: half the natural logarithm of
`(1 + z) / (1 - z)`. -/
def fixAtanh (z : Nat) : Nat :=
  ((List.range 110).foldl (fun (s : Nat × Nat) n => (s.1 + s.2 / (2 * n + 1), fixMul (fixMul s.2 z) z)) (0, z)).1

/-- The natural logarithm of 2. -/
def fixLn2 : Nat := 2 * fixAtanh (fixOne / 3)

/-- 2^f for `f` from 0 to 1. -/
def fixExp2 (f : Nat) : Nat := fixExp (fixMul f fixLn2)

/-- The square root, rounded down, of a number below 2^402. -/
def rootOf (n : Nat) : Nat :=
  (List.range 201).foldl (fun r i => let t := r + 2 ^ (200 - i); if t * t ≤ n then t else r) 0

/-- A magnitude in units of 2^-320; no FP32 value has a smaller unit. -/
def fixOf (m : Nat) (e : Int) : Nat := m * 2 ^ (e + 320).toNat

/-- 2 divided by the square root of the number pi. -/
def fixErfScale : Nat := 0x120dd750429b6d11ae3a914fed7fd8688281341d7587cea2e7342b06199cc416180eb39f0b24e1e22

def exp2Near (n : Bool) (m : Nat) (e : Int) : Val :=
  let x := Val.signed n (fixOf m e)
  .fin false (fixExp2 (x % fixOne).toNat) (x / fixOne - 320)

/-- For a positive argument. -/
def log2Near (m : Nat) (e : Int) : Val :=
  let k := m.log2
  let l := 2 * fixAtanh ((m - 2 ^ k) * fixOne / (m + 2 ^ k))
  let r := ((k : Int) + e) * fixOne + (l * fixOne / fixLn2 : Nat)
  .fin (decide (r < 0)) r.natAbs (-320)

/-- For a positive argument. -/
def rsqrtNear (m : Nat) (e : Int) : Val :=
  let h := if e % 2 = 0 then (m, e) else (2 * m, e - 1)
  .fin false (rootOf (2 ^ 400 / h.1)) (-200 - h.2 / 2)

/-- `(1 - q) / (1 + q)` with `q = e^(-2|x|)`; the argument itself where it is below 2^-64. -/
def tanhNear (n : Bool) (m : Nat) (e : Int) : Val :=
  let x := fixOf m e
  if x < 2 ^ 256 then .fin n m e
  else if 64 * fixOne ≤ x then .fin n 1 0
  else
    let y := 2 * x * fixOne / fixLn2
    let q := fixOne * fixOne / fixExp2 (y % fixOne) / 2 ^ (y / fixOne)
    .fin n ((fixOne - q) * fixOne / (fixOne + q)) (-320)

/-- The power series of the error function; 1 from 8 on. -/
def erfNear (n : Bool) (m : Nat) (e : Int) : Val :=
  let x := fixOf m e
  if 8 * fixOne ≤ x then .fin n 1 0
  else
    let s := ((List.range 360).foldl (fun (s : Int × Nat) k =>
      let t : Int := (s.2 / (2 * k + 1) : Nat)
      (if k % 2 = 0 then s.1 + t else s.1 - t, fixMul (fixMul s.2 x) x / (k + 1))) (0, x)).1
    .fin n (fixMul s.toNat fixErfScale) (-320)

/-- `y` lies within `n` ulps, at the exact value, of a value that `a` is to within 2^-60 of an ulp. An infinity is at
2^128. -/
def withinUlps (n : Nat) (a : Val) (y : F32) : Bool :=
  let u := max a.floorLog2 (-126) - 23
  let v := match f32Val y with
    | .inf s => Val.fin s 1 128
    | v => v
  Val.le (v.sub a).abs (Val.fin false (n * 2 ^ 60 + 1) (u - 60))

/-- The value of FN, close to the exact one. -/
def nearOf (fn : Nat) : Val → Val
  | .fin n m e => match fn with
    | 1 => exp2Near n m e
    | 2 => log2Near m e
    | 4 => rsqrtNear m e
    | 5 => tanhNear n m e
    | _ => erfNear n m e
  | v => v

/-- The result of FN where R211 gives only a bound, 2 ulps for tanh and erf and 1 ulp for the others: free within it. -/
def boundedResult (fn : BitVec 4) (x : F32) : F32 :=
  let a := nearOf fn.toNat (f32Val x)
  let y := Config.chainFn fn x
  if withinUlps (if fn.toNat = 5 ∨ fn.toNat = 6 then 2 else 1) a y then y else f32Of a

end Sys2Proof.Machine
end

