-- ==== Sys2Proof/Machine/Flags.lean ====
section
/-!
DEFINITION. Flags of matrix and chain operations: the non-finite counters of the tensor classes (R340 to R342), the core
flag word (R214), and the end of an operation with its status and flag vector (R152, R153, R168, R219).
-/

namespace Sys2Proof.Machine

/-- `n` non-finite elements are counted in the class of a TCLASS field; the first rise of a class since the last sample
point is logged (R340 to R342). -/
def State.nfCount (s : State) (tclass : BitVec 8) (n srcType srcInst : Nat) : State :=
  if n = 0 then s
  else
    let c := tclass.toNat % 16
    let v := min (s.odGet (Od.nfClass c) + n) (2 ^ 64 - 1)
    let s := s.odSet (Od.nfClass c) v
    if s.watch.nfSeen.getLsbD c then s
    else
      { s with watch := { s.watch with nfSeen := s.watch.nfSeen ||| BitVec.twoPow 16 c } }.event 0x15 0 0x0601 sevWarning
        [(16, 1, c), (17, 1, srcType), (18, 1, srcInst), (24, 8, v)]

/-- Core flag word: STICKY in [5:0], LAST in [13:8] (R214). -/
def Core.flagWord (c : Core) : BitVec 64 := (c.flagLast ++ (0 : BitVec 2) ++ c.flagSticky : BitVec 14).setWidth 64

/-- The flag vector of an operation that ends enters the core flag word (R154, R214). -/
def Core.orFlags (c : Core) (fl : FlagVec) : Core := { c with flagLast := fl, flagSticky := c.flagSticky ||| fl }

/-- OPCODE and AMASK of an operation. -/
def MxOp.opcode (o : MxOp) : Nat := fld o.word 0 16
def MxOp.amask (o : MxOp) : BitVec 4 := o.word.extractLsb' 33 4

/-- MX_POISON or CH_POISON with its count (R168, R170, R219, R220). -/
def State.opPoisoned (s : State) (core : Nat) (o : MxOp) (off : Nat) : State :=
  match o.kind with
  | .chRun =>
    (s.odAdd Od.chainPoisonOpCount 1).event 0x03 core 0x0105 sevError
      [(16, 2, o.opcode), (18, 1, o.tok), (20, 4, off)]
  | _ =>
    (s.odAdd Od.mxPoisonOpCount 1).event 0x03 core 0x0101 sevError
      [(16, 2, o.opcode), (18, 1, o.tok), (19, 1, o.amask.toNat), (20, 4, off)]

/-- The token of an operation that ends becomes DONE with its status and flags. -/
def Core.doneToken (c : Core) (o : MxOp) (r : OpResult) : Core :=
  let t : Token := ⟨true, o.owner, if r.poisoned then Status.poisoned else Status.ok, r.flags⟩
  { c with tokens := SMap.put c.tokens o.tok t }

/-- An operation ends: its token is DONE, its flags enter the core flag word, a POISONED ending is counted and logged,
and the groups that wait go on (R152 to R154, R168, R219). -/
def State.endOp (s : State) (core : Nat) (o : MxOp) (r : OpResult) : State :=
  let c := s.core core
  let c := (c.doneToken o r).orFlags r.flags
  let s := s.setCore core { c with ops := c.ops.filter fun q => decide (q.tok ≠ o.tok) }
  let s := if r.poisoned then s.opPoisoned core o r.off else s
  s.wakeCore core

end Sys2Proof.Machine
end

