-- ==== Sys2Proof/Machine/Uniform.lean ====
section
/-!
DEFINITION. The uniform, special and descriptor instructions (R181). They act on group state under any active mask.
-/

namespace Sys2Proof.Machine

/-- UADD (R181): UD := UA + UB modulo 2^64. -/
def execUadd (g : GroupRef) (f : BitVec 48) (s : State) : Outcome :=
  let w := f ++ (0x3001 : BitVec 16)
  issued g w 4 (groupOnly g fun gr => gr.uSet (fUD w) (gr.uGet (fUA w) + gr.uGet (fUB w))) s

/-- UMOVI (R181): UD := IMM25, sign-extended. -/
def execUmovi (g : GroupRef) (f : BitVec 48) (s : State) : Outcome :=
  let w := f ++ (0x3002 : BitVec 16)
  issued g w 4 (groupOnly g fun gr => gr.uSet (fUD w) (BitVec.ofInt 64 (fImm25 w))) s

/-- U2V (R181): VD := UB[31:0] in every active thread. -/
def execU2v (g : GroupRef) (f : BitVec 48) (s : State) : Outcome :=
  let w := f ++ (0x3003 : BitVec 16)
  issued g w 4 (checked g false [(fVD w, 1)] (groupOnly g fun gr =>
    gr.eachLane (lanesOf gr.active) fun i q => q.vSet i (fVD w) ((q.uGet (fUB w)).setWidth 32))) s

/-- The lowest active thread's value of a register. -/
def Group.lowestLane (gr : Group) (r : Nat) : BitVec 32 :=
  match lanesOf gr.active with
  | [] => 0
  | i :: _ => gr.vGet i r

/-- V2U (R181): UD := VA of the lowest active thread, zero-extended. -/
def execV2u (g : GroupRef) (f : BitVec 48) (s : State) : Outcome :=
  let w := f ++ (0x3004 : BitVec 16)
  issued g w 4 (checked g false [(fVA w, 1)] (groupOnly g fun gr =>
    gr.uSet (fUD w) ((gr.lowestLane (fVA w)).setWidth 64))) s

/-- The place of a core among the cores of its LAUNCH, in ascending index. -/
def rankIn (core : Nat) (cores : List Nat) : Nat := (cores.filter fun c => decide (c < core)).length

/-- The special values of S2U, by code (R181). -/
def special (s : State) (g : GroupRef) (gr : Group) (code : Nat) : Option (BitVec 64) :=
  let l := s.launchOf g.core
  match code with
  | 0x00 => some (gr.active.setWidth 64)
  | 0x01 => some (BitVec.ofNat 64 g.slot)
  | 0x02 => some (BitVec.ofNat 64 g.core)
  | 0x03 => some (BitVec.ofNat 64 (g.core / 16))
  | 0x04 => some (BitVec.ofNat 64 ((l.map fun l => l.cores.length).getD 0))
  | 0x05 => some (BitVec.ofNat 64 ((l.map fun l => rankIn g.core l.cores).getD 0))
  | 0x06 => some (BitVec.ofNat 64 ((l.map (·.groups)).getD 0))
  | 0x07 => some (BitVec.ofNat 64 s.clk.now)
  | 0x08 => some ((s.epoch 0).setWidth 64)
  | 0x09 => some ((s.launchId g.core).1.setWidth 64)
  | 0x0A => some (s.core g.core).flagWord
  | 0x0B => some (BitVec.ofNat 64 ((s.core g.core).tokens.foldl
      (fun a t => if t.2.done && decide (t.2.owner = g.slot) then a + 2 ^ t.1 else a) 0))
  | _ => none

/-- S2U (R181): UD := the special value IMM25[7:0]; other codes are undefined. -/
def execS2u (g : GroupRef) (f : BitVec 48) (s : State) : Outcome :=
  let w := f ++ (0x3005 : BitVec 16)
  issued g w 4 (fun s gr =>
    match special s g gr (fld w 39 8) with
    | none => .exc (gr.exc cIllegal 0x02)
    | some x => groupOnly g (fun gr => gr.uSet (fUD w) x) s gr) s

/-- S2V (R181): VD := the thread's lane number; IMM25 must be 0. -/
def execS2v (g : GroupRef) (f : BitVec 48) (s : State) : Outcome :=
  let w := f ++ (0x3006 : BitVec 16)
  issued g w 4 (checked g (decide (fImm25 w ≠ 0)) [(fVD w, 1)] (groupOnly g fun gr =>
    gr.eachLane (lanesOf gr.active) fun i q => q.vSet i (fVD w) (BitVec.ofNat 32 i))) s

/-- Local memory ends here (R188). -/
def localEnd : Nat := 0x200000

/-- DLD (R181): a d register takes 32 bytes of local memory at UA + IMM25, 32-byte aligned. The sum does not wrap: it
is out of range where it leaves local memory (DESIGN CHOICE, log 88). -/
def execDld (g : GroupRef) (f : BitVec 48) (s : State) : Outcome :=
  let w := f ++ (0x3007 : BitVec 16)
  issued g w 4 (fun s gr =>
    let a : Int := ((gr.uGet (fUA w)).toNat : Int) + fImm25 w
    let at_ (e : Exc) : Exc := { e with addr := BitVec.ofInt 64 a }
    if a % 32 ≠ 0 then .exc (at_ (gr.exc cAlignment 0x01))
    else if a < 0 ∨ (localEnd : Int) ≤ a then .exc (at_ (gr.exc cKey 0x01))
    else
      let r := s.readNat (localBase g.core + a.toNat) 32
      if r.1.2 then .excAfter (at_ (gr.exc cPoison 0x06)) r.2
      else groupOnly g (fun gr => gr.dSet (fDD w) (BitVec.ofNat 256 r.1.1)) r.2 gr) s

end Sys2Proof.Machine
end

