-- ==== Sys2Proof/Machine/Matrix.lean ====
section
/-!
DEFINITION. Descriptors, the checks and the issue of the asynchronous matrix instructions, and the token instructions
(R145 to R148, R152, R154, R155, R157 to R159, R163 to R166).
-/

namespace Sys2Proof.Machine

/-! ### Descriptors (R157, R158) -/

/-- Bits [lo + n - 1 : lo] of a descriptor. -/
def dfld (d : BitVec 256) (lo n : Nat) : Nat := (d.extractLsb' lo n).toNat

def dKind (d : BitVec 256) : Nat := dfld d 252 4
def dBase (d : BitVec 256) : Nat := dfld d 0 21
/-- Tensor descriptor. -/
def tFmt (d : BitVec 256) : BitVec 4 := d.extractLsb' 128 4
def tClass (d : BitVec 256) : BitVec 8 := d.extractLsb' 120 8
def tScaleStride (d : BitVec 256) : Nat := dfld d 104 12
def tStride (d : BitVec 256) : Nat := dfld d 80 20
def tLen (d : BitVec 256) : Nat := dfld d 64 16
def tRows (d : BitVec 256) : Nat := dfld d 48 16
def tScaleBase (d : BitVec 256) : Nat := dfld d 24 21
/-- Output descriptor. -/
def oStatsBase (d : BitVec 256) : Nat := dfld d 224 21
def oEpiScale (d : BitVec 256) : F32 := d.extractLsb' 192 32
def oIdxRow (d : BitVec 256) : BitVec 56 := d.extractLsb' 136 56
def oIdxBase (d : BitVec 256) : BitVec 56 := d.extractLsb' 80 56
def oCcw (d : BitVec 256) : BitVec 16 := d.extractLsb' 64 16
def oClass (d : BitVec 256) : BitVec 8 := d.extractLsb' 56 8
def oStride (d : BitVec 256) : Nat := dfld d 32 20
def oEpiOp (d : BitVec 256) : Nat := dfld d 30 2
def oEpi (d : BitVec 256) : Nat := dfld d 28 2
def oFmt (d : BitVec 256) : BitVec 4 := d.extractLsb' 24 4

/-! ### Fields of the matrix and token instructions (R145, R146) -/

def fImm (w : BitVec 64) : BitVec 16 := w.extractLsb' 48 16
def fTok (w : BitVec 64) : Nat := fld w 43 5

def fAmask (w : BitVec 64) : BitVec 4 := w.extractLsb' 33 4
def fD2 (w : BitVec 64) : Nat := fld w 29 4
def fD1 (w : BitVec 64) : Nat := fld w 25 4
def fD0 (w : BitVec 64) : Nat := fld w 21 4
/-- WLD. -/
def fCol0 (w : BitVec 64) : Nat := fld w 48 7
/-- WLD and MMA. -/
def fWhalf (w : BitVec 64) : Nat := fld w 56 1
/-- MMA and DRN. -/
def fAccRow (w : BitVec 64) : Nat := fld w 48 7
def fZero (w : BitVec 64) : Bool := w.getLsbD 55
def fPack (w : BitVec 64) : Nat := fld w 57 2
def fDrnRows (w : BitVec 64) : Nat := fld w 56 7 + 1

/-- The arrays of a mask, ascending. -/
def arraysOf (m : BitVec 4) : List Nat := (List.range 4).filter fun a => m.getLsbD a

/-! ### Descriptor checks (R165) -/

/-- A list of conditions in ascending detail and position: the first that holds. -/
def firstFault : List (Bool × BitVec 8 × BitVec 2) → Option (BitVec 8 × BitVec 2)
  | [] => none
  | (c, d, p) :: r => if c then some (d, p) else firstFault r

/-- `rows` rows of `bytes` bytes, `stride` apart from `base`, run past the end of local memory. -/
def pastEnd (base stride rows bytes : Nat) : Bool :=
  decide (0 < bytes) && decide (localEnd < base + (rows - 1) * stride + bytes)

/-- Bytes of a row of `n` elements. -/
def rowBytes (fmt : BitVec 4) (n : Nat) : Nat := (n * fmtBits fmt + 7) / 8

/-- The scale rows of an MX tensor run past the end. -/
def scalesPast (d : BitVec 256) (rows groups : Nat) : Bool :=
  fmtIsMx (tFmt d) && pastEnd (tScaleBase d) (tScaleStride d) rows groups

/-- K capacity of a weight-buffer half, by weight format (R132, R135). -/
def kCapacity (wfmt : BitVec 4) : Nat :=
  match wfmt.toNat with
  | 0 => 128 | 1 | 2 => 256 | 8 => 1024 | _ => 512

/-- The column rules of R137 are broken. -/
def wldColumnsBad (w : BitVec 64) (rows : Nat) : Bool :=
  let n := (arraysOf (fAmask w)).length
  if n = 1 then decide (fCol0 w % 32 ≠ 0) || decide (rows % 32 ≠ 0) || decide (128 < fCol0 w + rows)
  else decide (fCol0 w ≠ 0) || decide (rows ≠ 128 * n)

/-- Descriptor faults of MX.WLD. -/
def wldFault (w : BitVec 64) (d : BitVec 256) : Option (BitVec 8 × BitVec 2) :=
  firstFault [
    (decide (dKind d ≠ 1), 0x01, 0),
    (decide (9 < (tFmt d).toNat), 0x02, 0),
    (decide (tRows d = 0) || wldColumnsBad w (tRows d), 0x04, 0),
    (decide (tLen d = 0) || decide (kCapacity (tFmt d) < tLen d), 0x05, 0),
    (pastEnd (dBase d) (tStride d) (tRows d) (rowBytes (tFmt d) (tLen d)) ||
      scalesPast d (tRows d) ((tLen d + 31) / 32), 0x0A, 0)]

/-- The key of a load tag. -/
def tagKey (array half block : Nat) : Nat := (2 * array + half) * 4 + block

/-- The tags that an MMA reads. -/
def Core.tagsRead (c : Core) (w : BitVec 64) : List (Option WTag) :=
  (arraysOf (fAmask w)).flatMap fun a => (List.range 4).map fun b => SMap.find? c.wTags (tagKey a (fWhalf w) b)

/-- The one format of the tags read; none where a tag is empty or formats differ. -/
def tagFormat (ts : List (Option WTag)) : Option (BitVec 4) :=
  match ts with
  | some t :: r => if r.all fun q => (q.map (·.fmt)) = some t.fmt then some t.fmt else none
  | _ => none

/-- Partitions of a PACK value (R144). -/
def packParts (pack : Nat) : Nat := match pack with | 1 => 2 | 2 => 4 | _ => 1

/-- K elements of one stream cycle of a row (R132); heritage mode takes the bytes of R134 at a time. -/
def streamWidth (cls : NumClass) (afmt wfmt : BitVec 4) (heritage : Bool) : Nat :=
  match cls with
  | .fp8 => if afmt = 8 ∧ wfmt = 8 then 64 else 32
  | .b16 => if heritage then 2 else 16
  | .fp32 => if heritage then 1 else 2
  | .int8 => 32

/-- The shape of an MMA's stream: elements of one partition in a stream cycle, and bytes of a stream cycle. -/
structure Stream where
  cls : NumClass
  parts : Nat
  kp : Nat
  elems : Nat
  bytes : Nat

def streamOf (w : BitVec 64) (d : BitVec 256) (wfmt : BitVec 4) (heritage : Bool) : Option Stream :=
  (numClass (tFmt d) wfmt).map fun cls =>
    let n := packParts (fPack w)
    let k := streamWidth cls (tFmt d) wfmt heritage
    { cls := cls, parts := n, kp := tLen d / n, elems := k / n, bytes := k * fmtBits (tFmt d) / 8 }

/-- Bytes that a row occupies (R144). -/
def Stream.rowBytes (t : Stream) : Nat := (t.kp + t.elems - 1) / t.elems * t.bytes

/-- The K length of an MMA is refused (R165 detail 0x05). Where its tags are empty or differ, no weight format is known, and
the capacity of the half is not tested (DESIGN CHOICE, log 87). -/
def mmaLenBad (w : BitVec 64) (d : BitVec 256) (ts : List (Option WTag)) (wf : Option (BitVec 4)) : Bool :=
  let n := packParts (fPack w)
  let kp := tLen d / n
  decide (tLen d = 0) || decide (tLen d % n ≠ 0) ||
  (match wf with
    | some f => decide (kCapacity f < kp)
    | none => false) ||
  ts.any fun t => match t with
    | some t => decide (t.klen < kp)
    | none => false

/-- The pairing is refused (R159, R127): judged where the tags name one format. -/
def mmaPairingBad (d : BitVec 256) (wf : Option (BitVec 4)) (heritage : Bool) : Bool :=
  match wf with
  | none => false
  | some f =>
    match numClass (tFmt d) f with
    | none => true
    | some .fp8 | some .int8 => heritage
    | some _ => false

/-- Descriptor faults of MX.MMA. -/
def mmaFault (w : BitVec 64) (d : BitVec 256) (ts : List (Option WTag)) (heritage : Bool) :
    Option (BitVec 8 × BitVec 2) :=
  let wf := tagFormat ts
  firstFault [
    (decide (dKind d ≠ 1), 0x01, 0),
    (decide (9 < (tFmt d).toNat), 0x02, 0),
    (mmaPairingBad d wf heritage, 0x03, 0),
    (decide (tRows d = 0) || decide (128 < tRows d) || decide (128 < fAccRow w + tRows d), 0x04, 0),
    (mmaLenBad w d ts wf, 0x05, 0),
    (decide (wf = none), 0x06, 0),
    (decide (fPack w = 3) ||
      (decide (fPack w ≠ 0) && (decide (tFmt d = 0) || heritage || decide (tFmt d = 7))), 0x07, 0),
    ((match wf.bind fun f => streamOf w d f heritage with
      | some t => pastEnd (dBase d) (tStride d) (tRows d) t.rowBytes ||
          scalesPast d (tRows d) ((t.kp + 31) / 32 * t.parts)
      | none => false), 0x0A, 0)]

/-- A DRN reads its second tensor: ELEMENT, or STATS with a bias. -/
def drnSecond (d : BitVec 256) : Bool := decide (oEpi d = 1) || (decide (oEpi d = 2) && decide (oEpiOp d = 1))

/-- Formats of a second tensor (R163, R218). -/
def secondFmtOk (f : BitVec 4) : Bool := decide (f.toNat ≤ 4) || decide (f = 9) || decide (f = 10)

/-- Output columns of a DRN. -/
def drnCols (w : BitVec 64) : Nat := 128 * (arraysOf (fAmask w)).length

/-- The output rows, scale array or row records of a DRN run past the end. -/
def drnPast (w : BitVec 64) (d : BitVec 256) : Bool :=
  pastEnd (dBase d) (oStride d) (fDrnRows w) (rowBytes (oFmt d) (drnCols w)) ||
  (fmtIsMx (oFmt d) && pastEnd (oStatsBase d) 0 1 (fDrnRows w * (drnCols w / 32))) ||
  (decide (oEpi d = 2) && pastEnd (oStatsBase d) 0 1 (32 * fDrnRows w))

/-- Descriptor faults of MX.DRN. -/
def drnFault (w : BitVec 64) (d e : BitVec 256) : Option (BitVec 8 × BitVec 2) :=
  let second := drnSecond d
  firstFault [
    (decide (dKind d ≠ 2), 0x01, 0),
    (second && decide (dKind e ≠ 1), 0x01, 1),
    (decide (10 < (oFmt d).toNat) || (decide (oEpi d = 2) && decide (4 < (oFmt d).toNat)), 0x02, 0),
    (second && !secondFmtOk (tFmt e), 0x02, 1),
    (decide (128 < fAccRow w + fDrnRows w), 0x04, 0),
    (second && decide (tRows e ≠ fDrnRows w), 0x04, 1),
    (second && decide (tLen e ≠ drnCols w), 0x05, 1),
    (decide (oEpi d = 3) || decide (2 ≤ oEpiOp d) ||
      (decide (oEpi d = 1) && decide (oEpiOp d = 1) && decide (oFmt d = 10)) ||
      (decide (oEpi d = 2) && !(f32Val (oEpiScale d)).isFinite), 0x08, 0),
    (decide (ccwRmode (oCcw d) = 3), 0x09, 0),
    (drnPast w d, 0x0A, 0),
    (second && pastEnd (dBase e) (tStride e) (tRows e) (rowBytes (tFmt e) (tLen e)), 0x0A, 1),
    (decide (oStride d < rowBytes (oFmt d) (drnCols w)), 0x0B, 0)]

/-! ### Alignment (R166) -/

def misaligned (l : List Nat) : Bool := l.any fun x => decide (x % 32 ≠ 0)

def tensorMisaligned (d : BitVec 256) : Bool := misaligned [dBase d, tStride d]

def drnMisaligned (d e : BitVec 256) : Bool :=
  misaligned [dBase d, oStride d] || (decide (oEpi d = 2) && misaligned [oStatsBase d]) ||
  (drnSecond d && tensorMisaligned e)

/-! ### Tokens at issue (R152) -/

/-- The token that an issuing operation takes, or the detail of its TOKEN_EXHAUSTED. -/
def Core.takeToken (c : Core) (tok : Nat) : Except (BitVec 8) Nat :=
  if tok = 31 then
    match (List.range 24).find? fun t => decide (c.token? t = none) with
    | some t => .ok t
    | none => .error 0x02
  else if c.token? tok = none then .ok tok
  else .error 0x01

/-- What an asynchronous instruction checks beside its encoding, mask and token, and the operation that it starts. -/
structure AsyncPlan where
  fault : Option (BitVec 8 × BitVec 2)
  misaligned : Bool
  op : Nat → MxOp
  /-- the core once the operation has been queued: a WLD sets its tags -/
  after : Core → Core

/-- Issue of an asynchronous instruction (R147, R148, R207): encoding, mask, token, descriptors, alignment; then its
token is BUSY and its operation is queued. `begin_` is done in the state after. -/
def asyncIssue (g : GroupRef) (w : BitVec 64) (cls : Nat) (badField : Bool) (plan : State → Group → AsyncPlan)
    (begin_ : State → State) (s : State) : Outcome :=
  issued g w cls (fun s gr =>
    if badField || (decide (24 ≤ fTok w) && decide (fTok w ≠ 31)) then .exc (gr.exc cIllegal 0x02)
    else if gr.active ≠ 0xFFFFFFFF then .exc (gr.exc cDivergent 0x00)
    else
      match (s.core g.core).takeToken (fTok w) with
      | .error d => .exc { gr.exc cToken d with aux := BitVec.ofNat 8 (fTok w) }
      | .ok t =>
        let p := plan s gr
        match p.fault with
        | some (d, pos) => .exc { gr.exc cDescriptor d with position := pos }
        | none =>
          if p.misaligned then .exc (gr.exc cAlignment 0x02)
          else
            let c := s.core g.core
            let tk : Token := ⟨false, g.slot, 0, 0⟩
            let c := p.after { c with tokens := SMap.put c.tokens t tk, ops := c.ops ++ [p.op t] }
            let q := if fTok w = 31 then gr.uSet (fUDST w) (BitVec.ofNat 64 t) else gr
            .done (begin_ ((s.setCore g.core c).setGroup g q.advance))) s

/-- A queued operation. -/
def newOp (g : GroupRef) (w : BitVec 64) (kind : OpKind) (d0 d1 : BitVec 256) (wfmt : BitVec 4) (tok : Nat) : MxOp :=
  { kind := kind, tok := tok, owner := g.slot, word := w, d0 := d0, d1 := d1, d2 := 0, d3 := 0, d4 := 0, uarg := 0
    wfmt := wfmt, started := false, result := none, olds := [] }

/-- Heritage mode as the LAUNCH of a core sampled it (R126, R128). -/
def State.heritage (s : State) (core : Nat) : Bool :=
  (((s.core core).launch.bind s.cmd?).map (·.heritage)).getD false

/-- The columns that a WLD fills: array, column and tensor row (R137). -/
def wldColumns (w : BitVec 64) (rows : Nat) : List (Nat × Nat × Nat) :=
  match arraysOf (fAmask w) with
  | [a] => (List.range rows).map fun n => (a, fCol0 w + n, n)
  | l => (l.zip (List.range l.length)).flatMap fun p => (List.range 128).map fun c => (p.1, c, 128 * p.2 + c)

/-- A WLD sets the tags of the blocks of 32 columns that it fills (R136). -/
def Core.setTags (c : Core) (w : BitVec 64) (d : BitVec 256) : Core :=
  { c with wTags := (wldColumns w (tRows d)).foldl (fun m q =>
      if q.2.1 % 32 = 0 then SMap.put m (tagKey q.1 (fWhalf w) (q.2.1 / 32)) ⟨tFmt d, tLen d⟩ else m) c.wTags }

/-- MX_WLD (R137, R148): issues a weight load. -/
def execMxWld (g : GroupRef) (f : BitVec 48) (s : State) : Outcome :=
  let w := f ++ (0xC001 : BitVec 16)
  asyncIssue g w 9 (decide (fAmask w = 0)) (fun _ gr =>
    let d := gr.dGet (fD0 w)
    { fault := wldFault w d, misaligned := tensorMisaligned d, op := newOp g w .wld d 0 0
      after := fun c => c.setTags w d }) (fun s => s) s

/-- MX_MMA (R148): issues a matrix multiply-accumulate. The wake of every gated array of its mask is requested from
then on (R141): ARRAY_WAKE reads the request from the queued operation. -/
def execMxMma (g : GroupRef) (f : BitVec 48) (s : State) : Outcome :=
  let w := f ++ (0xC002 : BitVec 16)
  asyncIssue g w 9 (decide (fAmask w = 0)) (fun s gr =>
    let d := gr.dGet (fD0 w)
    let ts := (s.core g.core).tagsRead w
    { fault := mmaFault w d ts (s.heritage g.core), misaligned := tensorMisaligned d
      op := newOp g w .mma d 0 ((tagFormat ts).getD 0), after := fun c => c }) (fun s => s) s

/-- MX_DRN (R160): issues a drain of accumulator rows. -/
def execMxDrn (g : GroupRef) (f : BitVec 48) (s : State) : Outcome :=
  let w := f ++ (0xC003 : BitVec 16)
  asyncIssue g w 9 (decide (fAmask w = 0)) (fun _ gr =>
    let d := gr.dGet (fD0 w)
    let e := gr.dGet (fD1 w)
    { fault := drnFault w d e, misaligned := drnMisaligned d e, op := newOp g w .drn d e 0, after := fun c => c })
    (fun s => s) s

/-! ### TWAIT and TTEST (R154, R155) -/

/-- TWAIT (R154): waits for a token of the group, returns its status and flags and frees it. -/
def execTwait (g : GroupRef) (f : BitVec 48) (s : State) : Outcome :=
  let w := f ++ (0xC008 : BitVec 16)
  issued g w 9 (fun s gr =>
    if 24 ≤ fTok w then .exc (gr.exc cIllegal 0x02)
    else
      let ret (x : Status) : Issue := groupOnly g (fun gr => gr.uSet (fUDST w) (x.setWidth 64)) s gr
      match (s.core g.core).token? (fTok w) with
      | none => ret Status.notFound
      | some tk =>
        if tk.owner ≠ g.slot then ret Status.denied
        else if !tk.done then .done (s.setGroup g { gr with hold := .token (fTok w) w })
        else if tk.status = Status.poisoned then
          .exc { gr.exc cPoison 0x02 with aux := BitVec.ofNat 8 (fTok w) }
        else .done (s.twaitDone g gr w (fTok w) tk)) s

/-- TTEST (R155): the predicate shows whether the token is DONE and owned by the group. -/
def execTtest (g : GroupRef) (f : BitVec 48) (s : State) : Outcome :=
  let w := f ++ (0xC009 : BitVec 16)
  issued g w 9 (fun s gr =>
    if 24 ≤ fTok w then .exc (gr.exc cIllegal 0x02)
    else
      let on := match (s.core g.core).token? (fTok w) with
        | some tk => tk.done && decide (tk.owner = g.slot)
        | none => false
      groupOnly g (fun gr => gr.eachLane (lanesOf gr.active) fun i q => q.pSet i (fld w 48 3) on) s gr) s

end Sys2Proof.Machine
end

