-- ==== Sys2Proof/Machine/MatrixOps.lean ====
section
/-!
DEFINITION. What the matrix operations do: reading operands, the weight buffers, the accumulator memory, and the start
and the end of WLD, MMA and DRN, with the gating of arrays (R131 to R144, R149 to R153, R160 to R169, R225, R237).

A WLD or an MMA has its effect on the buffers or pairs at the first event by which its reads are over: the start of an
operation that waits for them, or its own end. A DRN writes from its start on; its output settles at its end (log 13).
-/

namespace Sys2Proof.Machine

/-! ### Operand reads (R151, R168) -/

/-- A word that an operation reads from its local memory: where it was stored while the operation was BUSY, the word in
memory or one that a store replaced. -/
def State.opWord (s : State) (o : MxOp) (w : Nat) : (BitVec 64 × Bool) × State :=
  match SMap.find? o.olds w with
  | some xs =>
    match xs[s.fresh.1 % (xs.length + 1)]? with
    | some x => (deliver x, s.fresh.2)
    | none => s.fresh.2.readWord w .demand
  | none => s.readWord w .demand

/-- Words read by an operation, in order. -/
def State.opWords (s : State) (o : MxOp) : List Nat → List (BitVec 64 × Bool) × State
  | [] => ([], s)
  | w :: ws =>
    let r := s.opWord o w
    let q := State.opWords r.2 o ws
    (r.1 :: q.1, q.2)

/-- Bytes read by an operation: their number, the offset in local memory of the first word, and which words are
poisoned. -/
structure Rd where
  off : Nat
  bits : Nat
  poison : List Bool

/-- The number that words spell, the first lowest. -/
def wordsNat : List (BitVec 64 × Bool) → Nat
  | [] => 0
  | x :: xs => x.1.toNat + 2 ^ 64 * wordsNat xs

/-- `n` bytes at an offset of the core's local memory. -/
def State.opRead (s : State) (core : Nat) (o : MxOp) (off n : Nat) : Rd × State :=
  let r := s.opWords o (spanWords (localBase core + off) n)
  (⟨off / 8 * 8, wordsNat r.1, r.1.map (·.2)⟩, r.2)

/-- Bits `lo` to `lo + n - 1` of what was read, counted from the first word. -/
def Rd.get (r : Rd) (lo n : Nat) : Nat := r.bits / 2 ^ lo % 2 ^ n

/-- The offset of the first poisoned word among those that hold the bits. -/
def Rd.bad (r : Rd) (lo n : Nat) : Option Nat :=
  ((List.range' (lo / 64) ((lo + n + 63) / 64 - lo / 64)).find? fun i => r.poison.getD i false).map
    fun i => r.off + 8 * i

/-- An element read: its bits, its value, and the offset of a poisoned word that it was taken from. -/
structure Elem where
  bits : Nat
  val : Val
  bad : Option Nat

/-- The first of a list of offsets. -/
def firstBad (l : List (Option Nat)) : Option Nat := (l.filterMap id).head?

/-- A scale byte: its value and the offset of its word where that is poisoned. -/
def State.opByte (s : State) (core : Nat) (o : MxOp) (off : Nat) : (BitVec 8 × Option Nat) × State :=
  let r := s.opRead core o off 1
  ((BitVec.ofNat 8 (r.1.get (off % 8 * 8) 8), r.1.bad (off % 8 * 8) 8), r.2)

/-- Scale bytes at the offsets given, in order. -/
def State.opBytes (s : State) (core : Nat) (o : MxOp) : List Nat → List (BitVec 8 × Option Nat) × State
  | [] => ([], s)
  | a :: r =>
    let x := s.opByte core o a
    let q := State.opBytes x.2 core o r
    (x.1 :: q.1, q.2)

/-- The scale byte of an element's block; 0x7F where the format has none. -/
def scaleAt (scales : List (BitVec 8 × Option Nat)) (k : Nat) : BitVec 8 × Option Nat := scales.getD (k / 32) (0x7F, none)

/-- The element at bit `lo` of a row. Under scale byte 0xFF it is NaN (R83); other scales are left to the group. -/
def Rd.elem (r : Rd) (fmt : BitVec 4) (lo : Nat) (sc : BitVec 8 × Option Nat) : Elem :=
  let b := r.get lo (fmtBits fmt)
  ⟨b, if sc.1 = 0xFF then .nan false else fmtDecode fmt b, firstBad [r.bad lo (fmtBits fmt), sc.2]⟩

/-- Elements that are not poisoned and not finite. -/
def nonFinite (l : List Elem) : Nat := (l.filter fun e => decide (e.bad = none) && !e.val.isFinite).length

/-! ### A checker that has no local address: accumulator memory and weight buffers (R225, R237) -/

/-- A stored word is read: its data and poison, with the write-back, count and record of R232. -/
def State.checkStored (s : State) (st : Storage) (core idx : Nat) (x : CodeWord) (put : CodeWord → State → State) :
    (BitVec 64 × Bool) × State :=
  match checkWord x with
  | .clean => ((codeData x, codePoison x), s)
  | .corrected y p q => ((codeData y, codePoison y), (put y s).memCE st 0x03 core idx p q .demand)
  | .uncorrectable => ((codeData x, true), (put (codeWord (codeData x) true) s).memUE st 0x03 core idx .demand)

/-- The key of a weight column. -/
def colKey (array half col : Nat) : Nat := (2 * array + half) * 128 + col

def State.putWbuf (core key : Nat) (x : CodeWord) (s : State) : State :=
  let c := s.core core
  s.setCore core { c with wbuf := SMap.set 0 c.wbuf key x }

/-- The words of a weight column, `n` of them: the positions' number, and which words came poisoned. -/
def State.readColumn (s : State) (core col : Nat) : Nat → (Nat × List Nat) × State
  | 0 => ((0, []), s)
  | n + 1 =>
    let r := State.readColumn s core col n
    let key := col * 64 + n
    let q := r.2.checkStored .weights core key (SMap.get 0 (r.2.core core).wbuf key) (State.putWbuf core key)
    ((r.1.1 + q.1.1.toNat * 2 ^ (64 * n), if q.1.2 then n :: r.1.2 else r.1.2), q.2)

/-- Bits from one element's first position bit to the next one's: MXFP4 packs two elements into a position, and MXFP6 is
widened to 8 bits (R135). -/
def weightStep (fmt : BitVec 4) : Nat := if fmt = 7 then 8 else fmtBits fmt

/-- A weight element: its value, and whether a position that it occupies is poisoned. -/
structure WElem where
  val : Val
  bad : Bool

/-- The first `kp` elements of a weight column with their scale bytes. -/
def State.weightColumn (s : State) (core array half col : Nat) (fmt : BitVec 4) (kp : Nat) :
    (List WElem × List (BitVec 8)) × State :=
  let ck := colKey array half col
  let r := s.readColumn core ck ((weightStep fmt * kp + 63) / 64)
  let c := r.2.core core
  let scales := (List.range ((kp + 31) / 32)).map fun j => SMap.get 0 c.wScale (ck * 32 + j)
  let el := (List.range kp).map fun k =>
    let lo := weightStep fmt * k
    let sc := if fmtIsMx fmt then scales.getD (k / 32) 0 else 0x7F
    let v := if sc = 0xFF then .nan false else fmtDecode fmt (r.1.1 / 2 ^ lo % 2 ^ fmtBits fmt)
    let ps := List.range' (lo / 8) ((lo + fmtBits fmt + 7) / 8 - lo / 8)
    (⟨v, ps.any fun p => SMap.get false c.wPoison (ck * 512 + p) || r.1.2.contains (p / 8)⟩ : WElem)
  ((el, scales), r.2)

/-! ### The accumulator memory (R87, R142, R225) -/

def State.putAcc (core key : Nat) (x : CodeWord) (s : State) : State :=
  let c := s.core core
  s.setCore core { c with acc := SMap.set 0 c.acc key x }

/-- Pair number of array, row and column. -/
def pairNo (a r c : Nat) : Nat := 16384 * a + 128 * r + c

/-- Pair `i` of a group of four occupies bits of code word `j` of the group. -/
def pairOverlaps (i j : Nat) : Bool := decide (80 * i < 64 * j + 64) && decide (64 * j < 80 * i + 80)

/-- An uncorrectable code word sets the marks of the pairs that occupy it. -/
def Core.markWord (c : Core) (q j : Nat) : Core :=
  let marks := (List.range 4).foldl
    (fun m i => if pairOverlaps i j then SMap.set false m (4 * q + i) true else m) c.accMark
  { c with accMark := marks }

/-- The first `n` code words of a group of four pairs: the number that their data spells. -/
def State.readAccGroup (s : State) (core q : Nat) : Nat → Nat × State
  | 0 => (0, s)
  | n + 1 =>
    let r := State.readAccGroup s core q n
    let key := 5 * q + n
    let x := SMap.get 0 (r.2.core core).acc key
    let w := r.2.checkStored .acc core key x (State.putAcc core key)
    let s' := if checkWord x = .uncorrectable then w.2.setCore core ((w.2.core core).markWord q n) else w.2
    (r.1 + w.1.1.toNat * 2 ^ (64 * n), s')

/-- A pair as held: its head and tail, and its poison mark. -/
def State.readPair (s : State) (core n : Nat) : (Val × Val × Bool) × State :=
  let r := s.readAccGroup core (n / 4) 5
  let b := r.1 / 2 ^ (80 * (n % 4))
  ((w40Val (BitVec.ofNat 40 b), w40Val (BitVec.ofNat 40 (b / 2 ^ 40)), SMap.get false (r.2.core core).accMark n), r.2)

/-- The data of a group of four pairs, as stored. -/
def Core.accBits (c : Core) (q : Nat) : Nat :=
  (List.range 5).foldl (fun a j => a + (codeData (SMap.get 0 c.acc (5 * q + j))).toNat * 2 ^ (64 * j)) 0

/-- A pair takes new bits and a mark. -/
def State.writePair (s : State) (core n : Nat) (bits : BitVec 80) (mark : Bool) : State :=
  let c := s.core core
  let q := n / 4
  let old := c.accBits q
  let lo := 80 * (n % 4)
  let v := old - old / 2 ^ lo % 2 ^ 80 * 2 ^ lo + bits.toNat * 2 ^ lo
  let acc := (List.range 5).foldl
    (fun m j => SMap.set 0 m (5 * q + j) (codeWord (BitVec.ofNat 64 (v / 2 ^ (64 * j))) false)) c.acc
  s.setCore core { c with acc := acc, accMark := SMap.set false c.accMark n mark }

/-- The 80-bit packing of a pair: tail above head (R87). -/
def pairBits (h t : Val) : BitVec 80 := w40Of t ++ w40Of h

/-! ### Outputs in local memory (R151, R168) -/

/-- A piece of an output: bytes of one word, whole or in part, and whether they are poisoned. -/
structure Piece where
  word : Nat
  first : Nat
  bytes : List Byte
  poison : Bool

/-- The word with the piece in it: a whole word replaces, a part is merged (R234). -/
def Piece.apply (p : Piece) (x : CodeWord) : CodeWord :=
  if p.bytes.length = 8 then codeWord (BitVec.ofNat 64 (bytesNat p.bytes)) p.poison
  else codeWord (mergeBytes (deliver x).1 p.first p.bytes) ((deliver x).2 || p.poison)

/-- The owner number of an operation's writes in flight; commands have smaller ones. -/
def opOwner (core tok : Nat) : Nat := 2 ^ 64 + 32 * core + tok

/-- The read that a piece of less than a word needs: whether it failed, and the state after. -/
def Piece.read (p : Piece) (s : State) : Bool × State := if p.bytes.length = 8 then (false, s) else s.mergeRead p.word

/-- The piece, poisoned where its read failed. -/
def Piece.spoil (p : Piece) (lost : Bool) : Piece := { p with poison := p.poison || lost }

/-- The pieces are written by an operation that runs on. -/
def State.putPieces (s : State) (owner : Nat) (ps : List Piece) : State :=
  ps.foldl (fun s p => (p.read s).2.engineWrite owner p.word (p.spoil (p.read s).1).apply) s

/-- The words of which an operation's write is still in flight. -/
def State.ownWords (s : State) (owner : Nat) : List RacyWord := s.racy.filter fun r => decide (r.owner = owner)

/-- The words as they were before an operation's writes in flight. -/
def State.undo (s : State) (owner : Nat) : State :=
  ((s.ownWords owner).foldl (fun s r => s.setRaw r.word r.old) s).settle owner

/-- At the end of an operation every byte that it writes is in place (R151); a word that a thread stored after the
operation's write keeps that store. The operations that are BUSY then may still read what the word held before. -/
def State.finalPieces (s : State) (own : List RacyWord) (ps : List Piece) : State :=
  own.foldl (fun s r => s.noteOld r.word r.old) (ps.foldl (fun s p =>
    if own.any fun r => decide (r.word = p.word) then
      (p.read s).2.setRaw p.word ((p.spoil (p.read s).1).apply ((p.read s).2.rawWord p.word))
    else s) s)

/-- An output element: its bits, and whether it is poisoned. -/
abbrev OutElem := Nat × Bool

/-- The bits of a row of elements, the first lowest. -/
def packElems (w : Nat) : List OutElem → Nat
  | [] => 0
  | e :: r => e.1 % 2 ^ w + 2 ^ w * packElems w r

/-- The pieces of a row of elements that begins at a word boundary. A word with a poisoned element has DATA zero and
POISON 1 (R168, R235). -/
def rowPieces (addr w : Nat) (es : List OutElem) : List Piece :=
  let bits := packElems w es
  let n := (es.length * w + 7) / 8
  (List.range ((n + 7) / 8)).map fun i =>
    let bad := (List.range es.length).any fun c =>
      decide (w * c < 64 * i + 64) && decide (64 * i < w * c + w) && (es.getD c (0, false)).2
    ⟨addr / 8 + i, 0, natBytes (min 8 (n - 8 * i)) (if bad then 0 else bits / 2 ^ (64 * i)), bad⟩

/-- The pieces of scale bytes at any address. -/
def bytePieces (addr : Nat) (bs : List Byte) : List Piece :=
  (List.range bs.length).map fun i => ⟨(addr + i) / 8, (addr + i) % 8, [bs.getD i 0], false⟩

/-- The pieces of a 32-byte row record (R164, R212): F, then the pair in the layout of R87. -/
def recordPieces (addr : Nat) (f : F32) (h t : Val) (bad : Bool) : List Piece :=
  if bad then (List.range 4).map fun i => ⟨addr / 8 + i, 0, natBytes 8 0, true⟩
  else
    [⟨addr / 8, 0, natBytes 8 f.toNat, false⟩, ⟨addr / 8 + 1, 0, natBytes 8 0, false⟩,
      ⟨addr / 8 + 2, 0, natBytes 8 (w40Of h).toNat, false⟩, ⟨addr / 8 + 3, 0, natBytes 8 (w40Of t).toNat, false⟩]

/-! ### The command of an operation: seed and step of stochastic rounding, promotion intervals (R102, R128) -/

def State.opCmd (s : State) (core : Nat) : Option Cmd := (s.core core).launch.bind s.cmd?

def State.opSeed (s : State) (core : Nat) : BitVec 64 × BitVec 64 :=
  ((s.opCmd core).map fun c => (c.seed, c.step)).getD (0, 0)

/-- P of a class. -/
def State.opPromo (s : State) (core : Nat) (cls : NumClass) : Nat :=
  match cls with
  | .fp8 => ((s.opCmd core).map (·.p8)).getD 4
  | .b16 => ((s.opCmd core).map (·.p16)).getD 2
  | _ => 1

/-! ### WLD (R135 to R138, R168, R169) -/

/-- One column loaded: positions, poison and scale bytes; elements beyond the K length keep what they hold. -/
def Core.loadColumn (c : Core) (ck : Nat) (fmt : BitVec 4) (es : List Elem) (scales : List (BitVec 8 × Option Nat)) :
    Core :=
  let step := weightStep fmt
  let n := step * es.length
  let old := (List.range ((n + 63) / 64)).foldl
    (fun a j => a + (codeData (SMap.get 0 c.wbuf (ck * 64 + j))).toNat * 2 ^ (64 * j)) 0
  let v := old / 2 ^ n * 2 ^ n + packElems step (es.map fun e => (e.bits, false))
  { c with
    wbuf := (List.range ((n + 63) / 64)).foldl (fun m j =>
      SMap.set 0 m (ck * 64 + j) (codeWord (BitVec.ofNat 64 (v / 2 ^ (64 * j))) false)) c.wbuf
    wPoison := (List.range ((n + 7) / 8)).foldl (fun m p =>
      SMap.set false m (ck * 512 + p) ((List.range es.length).any fun k =>
        decide (step * k < 8 * p + 8) && decide (8 * p < step * k + step) &&
        decide (((es.getD k ⟨0, .zero, none⟩).bad).isSome))) c.wPoison
    wScale := (List.range scales.length).foldl (fun m j =>
      SMap.set 0 m (ck * 32 + j) (scales.getD j (0, none)).1) c.wScale }

/-- One tensor row into its column: the first poisoned word and the non-finite elements so far, and the state. The row is
read by element, the data word of each before its scale byte (DESIGN CHOICE, log 87). -/
def wldColumn (core : Nat) (o : MxOp) (a : (Option Nat × Nat) × State) (q : Nat × Nat × Nat) :
    (Option Nat × Nat) × State :=
  let d := o.d0
  let fmt := tFmt d
  let n := tLen d
  let r := a.2.opRead core o (dBase d + q.2.2 * tStride d) (rowBytes fmt n)
  let sc := if fmtIsMx fmt then
      r.2.opBytes core o ((List.range ((n + 31) / 32)).map fun j => tScaleBase d + q.2.2 * tScaleStride d + j)
    else ([], r.2)
  let es := (List.range n).map fun k => r.1.elem fmt (fmtBits fmt * k) (scaleAt sc.1 k)
  let c := sc.2.core core
  ((firstBad (a.1.1 :: es.map (·.bad)), a.1.2 + nonFinite es),
    sc.2.setCore core (c.loadColumn (colKey q.1 (fWhalf o.word) q.2.1) fmt es sc.1))

/-- The whole of a WLD. -/
def runWld (core : Nat) (o : MxOp) (s : State) : OpResult × State :=
  let r := (wldColumns o.word (tRows o.d0)).foldl (wldColumn core o) ((none, 0), s)
  (⟨r.1.1.isSome, 0, r.1.1.getD 0⟩, r.2.nfCount (tClass o.d0) r.1.2 0x03 core)

/-! ### MMA (R131 to R134, R142, R144, R168, R169) -/

/-- One partition's share of an activation row. -/
structure ActRow where
  elems : List Elem
  scales : List (BitVec 8 × Option Nat)

/-- Row `m` of the activations: what the stream reads of it, and the share of each partition (R144). -/
def State.actRow (s : State) (core : Nat) (o : MxOp) (t : Stream) (m : Nat) : (Rd × List ActRow) × State :=
  let d := o.d0
  let fmt := tFmt d
  let r := s.opRead core o (dBase d + m * tStride d) t.rowBytes
  let q := (List.range t.parts).foldl (fun (a : List ActRow × State) p =>
    let sc := if fmtIsMx fmt then
        a.2.opBytes core o ((List.range ((t.kp + 31) / 32)).map fun j =>
          tScaleBase d + m * tScaleStride d + j * t.parts + p)
      else ([], a.2)
    let es := (List.range t.kp).map fun k =>
      r.1.elem fmt (8 * (k / t.elems * t.bytes + t.bytes / t.parts * p) + k % t.elems * fmtBits fmt) (scaleAt sc.1 k)
    (a.1 ++ [⟨es, sc.1⟩], sc.2)) ([], r.2)
  ((r.1, q.1), q.2)

/-- A row reads a poisoned word: an element's or a scale byte's, or one of the padding that is streamed (R144, R168). -/
def rowPoisoned (r : Rd × List ActRow) : Bool :=
  r.1.poison.any id || r.2.any fun x => x.scales.any fun q => q.2.isSome

/-- The group sums of one element of the result, with their flags. -/
def groupSums (cls : NumClass) (act : ActRow) (ws : List WElem) (wScales : List (BitVec 8)) (wMx : Bool) :
    List (Val × FlagVec) :=
  let ps := (act.elems.map (·.val)).zip (ws.map (·.val))
  let gs := chunks cls.group ps
  (gs.zip (List.range gs.length)).map fun g =>
    let xa : Int := ((act.scales.getD g.2 (0x7F, none)).1.toNat : Int) - 127
    let xw : Int := if wMx then ((wScales.getD g.2 0x7F).toNat : Int) - 127 else 0
    groupSum cls g.1 (if cls = .fp8 then xa + xw else 0)

/-- What an MMA gathers beside its pairs: `weights` are the partitions and K indices of poisoned weight positions read. -/
structure MmaAcc where
  poisoned : Bool
  weights : List (Nat × Nat)
  flags : FlagVec
  escapes : Nat
  saturated : Nat

/-- The new pair of one element, from the pair it starts with. -/
def mmaPair (cls : NumClass) (heritage : Bool) (p : Nat) (act : ActRow) (ws : List WElem) (wScales : List (BitVec 8))
    (wMx : Bool) (h t : Val) : (Val × Val) × MmaAcc :=
  if heritage then
    let r := heritageDot (chunks 8 ((act.elems.map (·.val)).zip (ws.map (·.val)))) (f32Round (pairVal h t))
    ((r.1, .zero), ⟨false, [], r.2, 0, 0⟩)
  else
    let gs := groupSums cls act ws wScales wMx
    let fl := gs.foldl (fun f g => f ||| g.2) 0
    if cls = .int8 then
      let st := int8Start (pairVal h t)
      let r := if st.2.1 then (st.1, true) else int8Dot (gs.map (·.1)) st.1 false
      (pairOf (Val.ofInt r.1), ⟨false, [], fl ||| st.2.2 ||| flagIf r.2 fSAT, 0, if r.2 then 1 else 0⟩)
    else
      let d := referenceDot cls p (gs.map (·.1)) h t
      ((d.head, d.tail), ⟨false, [], fl ||| d.flags, d.escapes, 0⟩)

/-- One pair of the result (R142, R168): a pair that took a poisoned product is marked and has a free value, and a
marked pair that the MMA does not clear stays marked. -/
def mmaColumn (core : Nat) (o : MxOp) (t : Stream) (heritage : Bool) (p m : Nat) (acts : List ActRow)
    (a : MmaAcc × State) (q : Nat × Nat) : MmaAcc × State :=
  let part := q.2 / (128 / t.parts)
  let act := acts.getD part ⟨[], []⟩
  let wc := a.2.weightColumn core q.1 (fWhalf o.word) q.2 o.wfmt t.kp
  let lost := (((List.range t.kp).zip wc.1.1).filter fun x => x.2.bad).map fun x => (part, x.1)
  let n := pairNo q.1 (fAccRow o.word + m) q.2
  let held := if fZero o.word then ((.zero, .zero, false), wc.2) else wc.2.readPair core n
  let bad := (act.elems.any fun e => e.bad.isSome) || wc.1.1.any (·.bad)
  if bad || held.1.2.2 then
    ({ a.1 with poisoned := a.1.poisoned || bad, weights := a.1.weights ++ lost },
      held.2.fresh.2.writePair core n (BitVec.ofNat 80 held.2.fresh.1) true)
  else
    let r := mmaPair t.cls heritage p act wc.1.1 wc.1.2 (fmtIsMx o.wfmt) held.1.1 held.1.2.1
    ({ a.1 with flags := a.1.flags ||| r.2.flags, escapes := a.1.escapes + r.2.escapes
                saturated := a.1.saturated + r.2.saturated },
      held.2.writePair core n (pairBits r.1.1 r.1.2) false)

/-- One activation row: its pairs in every array and column. -/
def mmaRow (core : Nat) (o : MxOp) (t : Stream) (heritage : Bool) (p : Nat)
    (a : (MmaAcc × List (Rd × List ActRow) × Nat) × State) (m : Nat) : (MmaAcc × List (Rd × List ActRow) × Nat) × State :=
  let acts := a.2.actRow core o t m
  let cols := (arraysOf (fAmask o.word)).flatMap fun x => (List.range 128).map fun c => (x, c)
  let r := cols.foldl (mmaColumn core o t heritage p m acts.1.2)
    ({ a.1.1 with poisoned := a.1.1.poisoned || rowPoisoned acts.1 }, acts.2)
  ((r.1, a.1.2.1 ++ [acts.1], a.1.2.2 + (acts.1.2.map fun x => nonFinite x.elems).foldl (· + ·) 0), r.2)

/-- Elements of a group step (R133, R144); in heritage mode, of a slice of the G1 order. -/
def Stream.stepElems (t : Stream) (heritage : Bool) : Nat :=
  if heritage then 8 else if t.elems * t.parts = 64 then 64 else t.cls.group

/-- A poisoned word that stream cycle `c` of group step `j` reads of a row: of the bytes of the stream, then of the
row's scale bytes in the step's first cycle, then a weight position, which has no offset (log 45). -/
def Stream.cycleBad (t : Stream) (heritage : Bool) (weights : List (Nat × Nat)) (r : Rd × List ActRow) (j c : Nat) :
    Option Nat :=
  let gs := t.stepElems heritage
  let k := gs * j + t.elems * c
  let groups := List.range' (gs * j / 32) ((gs + 31) / 32)
  firstBad ([r.1.bad (8 * (k / t.elems * t.bytes)) (8 * t.bytes)] ++
    (if c = 0 then r.2.flatMap fun x => groups.map fun g => (x.scales.getD g (0, none)).2 else []) ++
    [if weights.any fun w => decide (k ≤ w.2) && decide (w.2 < k + t.elems) then some 0xFFFFFFFF else none])

/-- The offset of the first poisoned word in the order of the stream (R133, R170); 0xFFFF_FFFF for a weight position. -/
def mmaOffset (t : Stream) (heritage : Bool) (weights : List (Nat × Nat)) (rows : List (Rd × List ActRow)) : Nat :=
  let gs := t.stepElems heritage
  (firstBad ((List.range ((t.kp + gs - 1) / gs)).flatMap fun j => rows.flatMap fun r =>
    (List.range ((min gs (t.kp - gs * j) + t.elems - 1) / t.elems)).map fun c => t.cycleBad heritage weights r j c)).getD 0xFFFFFFFF

/-- Stream cycles of one row (R133, R144); heritage mode by R132. -/
def Stream.cycles (t : Stream) (heritage : Bool) : Nat :=
  if heritage then (t.kp + 7) / 8 * (if t.cls = .fp32 then 32 else 4)
  else
    let gs := t.stepElems false
    (List.range ((t.kp + gs - 1) / gs)).foldl (fun a j => a + (min gs (t.kp - gs * j) + t.elems - 1) / t.elems) 0

/-- Promotions of a row in an array: one for each window (R114). -/
def Stream.windows (t : Stream) (p : Nat) : Nat :=
  match t.cls with
  | .int8 => 0
  | c => ((t.kp + c.group - 1) / c.group + p - 1) / p

/-- The whole of an MMA. -/
def runMma (core : Nat) (o : MxOp) (s : State) : OpResult × State :=
  let h := s.heritage core
  match streamOf o.word o.d0 o.wfmt h with
  | none => (⟨false, 0, 0⟩, s)
  | some t =>
    let p := s.opPromo core t.cls
    let rows := tRows o.d0
    let r := (List.range rows).foldl (mmaRow core o t h p) ((⟨false, [], 0, 0, 0⟩, [], 0), s)
    let a := r.1.1
    let s := ((r.2.nfCount (tClass o.d0) r.1.2.2 0x03 core).odAdd Od.p20EscapeCount a.escapes).odAdd Od.int8SatCount
      a.saturated
    let s := s.count (coreSet core) 0x0308 (rows * t.cycles h) .none
    let s := if h then s else
      s.count (coreSet core) 0x030B (rows * t.windows p * (arraysOf (fAmask o.word)).length) .none
    (⟨a.poisoned, a.flags, mmaOffset t h a.weights r.1.2.1⟩, s)

/-! ### DRN (R160, R163, R164, R168, R169) -/

/-- What the rows of a DRN or CH.RUN gather. -/
structure OutAcc where
  pieces : List Piece
  bad : Option Nat
  flags : FlagVec
  inCount : Nat
  secondCount : Nat
  rowCount : Nat
  outCount : Nat

def OutAcc.start : OutAcc := ⟨[], none, 0, 0, 0, 0, 0⟩

/-- Pairs of an output row: head, tail and mark of each column. -/
def State.drnPairs (s : State) (core : Nat) (o : MxOp) (m : Nat) : List (Val × Val × Bool) × State :=
  ((arraysOf (fAmask o.word)).flatMap fun x => (List.range 128).map fun c => pairNo x (fAccRow o.word + m) c).foldl
    (fun (a : List (Val × Val × Bool) × State) n =>
      let r := a.2.readPair core n
      (a.1 ++ [r.1], r.2)) ([], s)

/-- A row of a tensor without scales. -/
def State.tensorRow (s : State) (core : Nat) (o : MxOp) (d : BitVec 256) (m n : Nat) : List Elem × State :=
  let r := s.opRead core o (dBase d + m * tStride d) (rowBytes (tFmt d) n)
  ((List.range n).map fun k => r.1.elem (tFmt d) (fmtBits (tFmt d) * k) (0x7F, none), r.2)

/-- Conversion of a row to its output format: elements, scale bytes, flags, and how many sources were not finite
(R88 to R93, R118, R160). `none` stands for a poisoned element. -/
def convertRow (fmt : BitVec 4) (ccw : BitVec 16) (mode : Nat → RMode) (vs : List (Option Val)) :
    List OutElem × List Byte × FlagVec × Nat :=
  let count := (vs.filter fun v => match v with | some x => !x.isFinite | none => false).length
  let ix := (List.range vs.length).zip vs
  if fmtIsMx fmt then
    let bs := (chunks 32 ix).map fun b => (b, mxEncode fmt (ccwOvf ccw) (b.map fun q => mode q.1) (b.map (·.2)))
    (bs.flatMap fun b => (b.2.2.1.zip (b.1.map (·.2))).map fun e => (e.1, decide (e.2 = none)),
      bs.map (·.2.1), bs.foldl (fun f b => f ||| b.2.2.2) 0, count)
  else
    let es := ix.map fun q => match q.2 with
      | none => ((0, true), (0 : FlagVec))
      | some v =>
        let r := fmtEncode fmt (ccwOvf ccw) (mode q.1) v
        ((r.1, false), r.2)
    (es.map (·.1), [], es.foldl (fun f e => f ||| e.2) 0, count)

/-- The pair that output format 0xA stores (R143, R163): unchanged, or added to the second tensor's element. -/
def drnPair (d : BitVec 256) (secondFmt : BitVec 4) (h t : Val) (y : Elem) : (Val × Val) × FlagVec :=
  if oEpi d = 1 then
    let y2 := if secondFmt = 10 then (w40Val (BitVec.ofNat 40 y.bits), w40Val (BitVec.ofNat 40 (y.bits / 2 ^ 64)))
      else (y.val, .zero)
    let r := pairAdd h t y2.1 y2.2
    ((r.head, r.tail), r.flags)
  else ((h, t), 0)

/-- The value that any other output format converts (R163). -/
def drnValue (d : BitVec 256) (h t : Val) (y : Elem) : Val × FlagVec :=
  let v := pairVal h t
  if oEpi d = 1 then
    if oEpiOp d = 0 then (sumVals [v, y.val], sumFlags [v, y.val]) else (v.mul y.val, mulFlags v y.val)
  else (v, 0)

/-- The 128-bit layout of a pair in memory (R87). -/
def pairWord (h t : Val) : Nat := (w40Of t).toNat * 2 ^ 64 + (w40Of h).toNat

/-- The base-2 exponential of the chain, FN 1 of R211 (log 10). -/
def exp2f (x : F32) : F32 × FlagVec :=
  let v := f32Val x
  match v with
  | .nan _ => (f32NaN, fNANIN)
  | .inf n => (if n then 0 else 0x7F800000, 0)
  | .fin _ _ _ =>
    if Val.le (Val.ofInt 128) v then (0x7F800000, fSAT)
    else if Val.lt v (Val.ofInt (-150)) then (0, 0)
    else if Val.eq v (Val.ofInt v.toIntTrunc) && Val.le (Val.ofInt (-149)) v then (f32Of (Val.pow2 v.toIntTrunc), 0)
    else
      let y := boundedResult 1 x
      (y, flagIf (f32Val y).isInf fSAT)

/-- The FP32 maximum of R212: NaN where there is one, −0 below +0. -/
def f32Max2 (a b : F32) : F32 :=
  let x := f32Val a
  let y := f32Val b
  if x.isNaN || y.isNaN then f32NaN
  else if x.lt y then b
  else if y.lt x then a
  else if x.sign then b else a

def f32Min2 (a b : F32) : F32 :=
  let x := f32Val a
  let y := f32Val b
  if x.isNaN || y.isNaN then f32NaN
  else if x.lt y then a
  else if y.lt x then b
  else if x.sign then a else b

/-- The flags that an FP32 stage sets (R213). -/
def fp32Flags (f : FlagVec) : FlagVec := f &&& (fNANIN ||| fINV ||| fDZ ||| fSAT)

/-- The running state of a STATS row: pair, elements, flags. -/
structure StatsAcc where
  h : Val
  t : Val
  es : List Val
  flags : FlagVec

/-- One column of a STATS row. -/
def statsColumn (mx : F32) (a : StatsAcc) (x : F32) : StatsAcc :=
  let d := (f32Val x).sub (f32Val mx)
  let e := if mx = 0xFF800000 then (0, 0) else exp2f (f32Of d)
  let df := if mx = 0xFF800000 then 0 else sumFlags [f32Val x, (f32Val mx).neg] ||| f32Sat d
  let r := promote a.h a.t (f32Val e.1)
  ⟨r.head, r.tail, a.es ++ [f32Val e.1], a.flags ||| fp32Flags (df ||| e.2) ||| r.flags⟩

/-- The inputs x[c] of a STATS row with their flags. -/
def statsInput (scale : F32) (v b : Val) : F32 × FlagVec :=
  let q := v.add b
  let p := (f32Val scale).mul q
  (f32Of p, fp32Flags (sumFlags [v, b] ||| mulFlags (f32Val scale) q ||| f32Sat p))

/-- STATS on a row of unmarked pairs (R164): the largest x, the pair of sums, the elements and flags. -/
def statsRow (scale : F32) (vs bs : List Val) : F32 × StatsAcc :=
  let xs := (vs.zip bs).map fun p => statsInput scale p.1 p.2
  let mx := xs.foldl (fun m x => f32Max2 m x.1) 0xFF800000
  (mx, (xs.map (·.1)).foldl (statsColumn mx) ⟨.zero, .zero, [], xs.foldl (fun f x => f ||| x.2) 0⟩)

/-- One output row of a DRN with the STATS epilogue. -/
def drnStatsRow (core : Nat) (o : MxOp) (m : Nat) (pairs : List (Val × Val × Bool)) (ys : List Elem)
    (bad : List (Option Nat)) (mode : Nat → RMode) (a : OutAcc × State) : OutAcc × State :=
  let d := o.d0
  let addr := localBase core + dBase d + m * oStride d
  let rec_ := localBase core + oStatsBase d + 32 * m
  let w := fmtBits (oFmt d)
  match firstBad bad with
  | some x =>
    let p := rowPieces addr w (pairs.map fun _ => (0, true))
    let q := recordPieces rec_ 0 .zero .zero true
    ({ a.1 with pieces := a.1.pieces ++ p ++ q, bad := firstBad [a.1.bad, some x] }, a.2)
  | none =>
    let zs := if oEpiOp d = 1 then ys.map (·.val) else pairs.map fun _ => Val.zero
    let r := statsRow (oEpiScale d) (pairs.map fun q => pairVal q.1 q.2.1) zs
    let cv := convertRow (oFmt d) (oCcw d) mode (r.2.es.map some)
    let p := rowPieces addr w cv.1
    let q := recordPieces rec_ r.1 r.2.h r.2.t false
    ({ a.1 with pieces := a.1.pieces ++ p ++ q, flags := a.1.flags ||| r.2.flags ||| cv.2.2.1
                outCount := a.1.outCount + cv.2.2.2 }, a.2)

/-- One output row of a DRN without an epilogue or with ELEMENT. -/
def drnPlainRow (core : Nat) (o : MxOp) (m : Nat) (pairs : List (Val × Val × Bool)) (ys : List Elem)
    (bad : List (Option Nat)) (mode : Nat → RMode) (a : OutAcc × State) : OutAcc × State :=
  let d := o.d0
  let addr := localBase core + dBase d + m * oStride d
  let ins := pairs.zip (ys.zip bad)
  if oFmt d = 10 then
    let es := ins.map fun q =>
      if q.2.2.isSome then ((0, true), (0 : FlagVec))
      else
        let r := drnPair d (tFmt o.d1) q.1.1 q.1.2.1 q.2.1
        ((pairWord r.1.1 r.1.2, false), r.2)
    ({ a.1 with pieces := a.1.pieces ++ rowPieces addr 128 (es.map (·.1)), bad := firstBad (a.1.bad :: bad)
                flags := es.foldl (fun f e => f ||| e.2) a.1.flags }, a.2)
  else
    let es := ins.map fun q => if q.2.2.isSome then none else some (drnValue d q.1.1 q.1.2.1 q.2.1)
    let cv := convertRow (oFmt d) (oCcw d) mode (es.map fun e => e.map (·.1))
    let p := rowPieces addr (fmtBits (oFmt d)) cv.1
    let q := bytePieces (localBase core + oStatsBase d + m * (pairs.length / 32)) cv.2.1
    ({ a.1 with pieces := a.1.pieces ++ p ++ q, bad := firstBad (a.1.bad :: bad)
                flags := (es.filterMap id).foldl (fun f e => f ||| e.2) (a.1.flags ||| cv.2.2.1)
                outCount := a.1.outCount + cv.2.2.2 }, a.2)

/-- One output row of a DRN. The first poisoned word read is that of the lowest column, and of one column the pair before the
element of the second tensor (DESIGN CHOICE, log 87). -/
def drnRow (core : Nat) (o : MxOp) (a : OutAcc × State) (m : Nat) : OutAcc × State :=
  let d := o.d0
  let pr := a.2.drnPairs core o m
  let yr := if drnSecond d then pr.2.tensorRow core o o.d1 m (tLen o.d1) else ([], pr.2)
  let ys := pr.1.zip (List.range pr.1.length) |>.map fun q => yr.1.getD q.2 ⟨0, .zero, none⟩
  let bad := (pr.1.zip ys).map fun q => if q.1.2.2 then some 0xFFFFFFFF else q.2.bad
  let sd := yr.2.opSeed core
  let mode := ccwMode (oCcw d) sd.1 sd.2 (oIdxBase d) (oIdxRow d) m
  let a := ({ a.1 with secondCount := a.1.secondCount + nonFinite yr.1 }, yr.2)
  if oEpi d = 2 then drnStatsRow core o m pr.1 ys bad mode a
  else drnPlainRow core o m pr.1 ys bad mode a

/-- The whole output of a DRN. -/
def runDrn (core : Nat) (o : MxOp) (s : State) : OutAcc × State :=
  (List.range (fDrnRows o.word)).foldl (drnRow core o) (OutAcc.start, s)

/-! ### The start and the end of operations (R140, R149, R150, R161) -/

/-- The operation of a token. -/
def Core.op? (c : Core) (tok : Nat) : Option MxOp := c.ops.find? fun o => decide (o.tok = tok)

def State.setOp (s : State) (core : Nat) (o : MxOp) : State :=
  let c := s.core core
  s.setCore core { c with ops := c.ops.map fun q => if q.tok = o.tok then o else q }

/-- The operations that issued before. -/
def Core.earlier (c : Core) (tok : Nat) : List MxOp := c.ops.takeWhile fun o => decide (o.tok ≠ tok)

/-- Two operations have an array in common. -/
def MxOp.sharesArray (a b : MxOp) : Bool := decide (a.amask &&& b.amask ≠ 0)

/-- A WLD and an MMA meet in a half of an array. -/
def MxOp.sharesHalf (a b : MxOp) : Bool := a.sharesArray b && decide (fWhalf a.word = fWhalf b.word)

/-- Accumulator rows of an MMA or a DRN. -/
def MxOp.rows (o : MxOp) : Nat :=
  match o.kind with
  | .mma => tRows o.d0
  | .drn => fDrnRows o.word
  | _ => 0

def MxOp.sharesRows (a b : MxOp) : Bool :=
  a.sharesArray b && decide (fAccRow a.word < fAccRow b.word + b.rows) &&
    decide (fAccRow b.word < fAccRow a.word + a.rows)

/-- The last stream cycle of an MMA (R141). -/
def Core.streamed (c : Core) (o : MxOp) (now : Nat) : Core :=
  { c with streamAt := (arraysOf o.amask).foldl (fun m a => SMap.set 0 m a now) c.streamAt }

/-- A started WLD or MMA whose reads are over has its effect; an MMA has taken its last stream cycle by now. -/
def State.runOp (s : State) (core : Nat) (o : MxOp) : State :=
  match (s.core core).op? o.tok with
  | none => s
  | some o =>
    if o.result.isSome || !o.started then s
    else
      let done (r : OpResult × State) : State :=
        match (r.2.core core).op? o.tok with
        | none => r.2
        | some o' => r.2.setOp core { o' with result := some r.1 }
      match o.kind with
      | .wld => done (runWld core o s)
      | .mma =>
        let s := done (runMma core o s)
        s.setCore core ((s.core core).streamed o s.clk.now)
      | _ => s

/-- The reads of these operations are over. -/
def State.runOps (s : State) (core : Nat) (l : List MxOp) : State := l.foldl (fun s o => s.runOp core o) s

/-- A queued operation that has not started, with the operations that issued before it. -/
def State.queued (s : State) (core tok : Nat) (kind : OpKind) : Option (MxOp × List MxOp) :=
  let c := s.core core
  match c.op? tok with
  | some o => if o.kind = kind && !o.started then some (o, c.earlier tok) else none
  | none => none

/-- An operation that has started. -/
def State.running (s : State) (core tok : Nat) (kind : OpKind) : Option MxOp :=
  match (s.core core).op? tok with
  | some o => if o.kind = kind && o.started then some o else none
  | none => none

def State.startOp (s : State) (core tok : Nat) : State :=
  match (s.core core).op? tok with
  | some o => s.setOp core { o with started := true }
  | none => s

/-- MX_WLD_START (R140, R149, R150): its path is free once the earlier WLDs have read their last beats, and every earlier
MMA that reads the half has read its last weights. -/
def execMxWldStart (core tok : Nat) (s : State) : Outcome := withRoom (.mxWldStart core tok) s <|
  match s.queued core tok .wld with
  | none => .next s
  | some (o, before) =>
    let wait := before.filter fun q =>
      decide (q.kind = .wld) || (decide (q.kind = .mma) && q.sharesHalf o)
    if wait.all (·.started) then
      .next ((s.runOps core wait).startOp core tok)
    else .next s

/-- MX_WLD_DONE (R140): the weights are loaded and the token is DONE. -/
def execMxWldDone (core tok : Nat) (s : State) : Outcome := withRoom (.mxWldDone core tok) s <|
  match s.running core tok .wld with
  | none => .next s
  | some o =>
    let s := s.runOps core (((s.core core).earlier tok).filter fun q => decide (q.kind = .wld))
    let s := s.runOp core o
    match ((s.core core).op? tok).bind (·.result) with
    | some r => .next (s.endOp core o r)
    | none => .next s

/-- The arrays of the operation's mask are all awake. -/
def Core.allAwake (c : Core) (o : MxOp) : Bool := decide (o.amask &&& ~~~c.awake = 0)

/-- MX_MMA_START (R140, R141, R150): the stream is free, its WLDs have read their last beats, the DRNs of its rows have
ended, and its arrays are awake. -/
def execMxMmaStart (core tok : Nat) (s : State) : Outcome := withRoom (.mxMmaStart core tok) s <|
  match s.queued core tok .mma with
  | none => .next s
  | some (o, before) =>
    let reads := before.filter fun q =>
      decide (q.kind = .mma) || (decide (q.kind = .wld) && q.sharesHalf o)
    if reads.all (·.started) && (s.core core).allAwake o &&
        !before.any fun q => decide (q.kind = .drn) && q.sharesRows o then
      .next ((s.runOps core reads).startOp core tok)
    else .next s

/-- Nanoseconds of a number of core cycles, rounded up. -/
def State.cyclesNs (s : State) (n : Nat) : Nat :=
  if s.coreMHz = 0 then 0 else (n * 1000 + s.coreMHz - 1) / s.coreMHz

/-- MX_MMA_DONE (R140): the pairs are written and the token is DONE with its status and flags, 8 cycles after the last
stream cycle. -/
def execMxMmaDone (core tok : Nat) (s : State) : Outcome := withRoom (.mxMmaDone core tok) s <|
  match s.running core tok .mma with
  | none => .next s
  | some o =>
    if ((s.core core).earlier tok).any fun q => decide (q.kind = .mma) then .next s
    else
      let s := s.runOp core o
      match ((s.core core).op? tok).bind (·.result) with
      | some r =>
        let s := if o.result.isNone then s.setCore core ((s.core core).streamed o (s.clk.now - s.cyclesNs 8)) else s
        .next (s.endOp core o r)
      | none => .next s

/-- MX_DRN_START (R149, R150, R161): one DRN runs at a time, and every earlier MMA into its rows has ended. -/
def execMxDrnStart (core tok : Nat) (s : State) : Outcome := withRoom (.mxDrnStart core tok) s <|
  match s.queued core tok .drn with
  | none => .next s
  | some (o, before) =>
    if (before.filter fun q => decide (q.kind = .drn)).all (·.started) &&
        !before.any fun q => decide (q.kind = .mma) && q.sharesRows o then
      let r := runDrn core o (s.startOp core tok)
      .next (r.2.putPieces (opOwner core tok) r.1.pieces)
    else .next s

/-- CHAIN_BEAT of an operation (R452): bit 9 counts DRN beats, bit 7 CH.RUN beats. -/
def State.countBeats (s : State) (core n cls : Nat) : State :=
  s.count (coreSet core) 0x030C n { Attr.none with cls := some cls }

/-- Heritage mode reports NANIN, INV and SAT only (R126). -/
def reportedFlags (heritage : Bool) (f : FlagVec) : FlagVec := if heritage then f &&& (fNANIN ||| fINV ||| fSAT) else f

/-- MX_DRN_DONE (R161): the output is in local memory and the token is DONE. -/
def execMxDrnDone (core tok : Nat) (s : State) : Outcome := withRoom (.mxDrnDone core tok) s <|
  match s.running core tok .drn with
  | none => .next s
  | some o =>
    if ((s.core core).earlier tok).any fun q => decide (q.kind = .drn) then .next s
    else
      let own := s.ownWords (opOwner core tok)
      let r := runDrn core o (s.undo (opOwner core tok))
      let s := r.2.finalPieces own r.1.pieces
      let s := s.nfCount (oClass o.d0) r.1.outCount 0x03 core
      let s := s.nfCount (tClass o.d1) r.1.secondCount 0x03 core
      let s := s.countBeats core (fDrnRows o.word * (arraysOf o.amask).length) 9
      .next (s.endOp core o ⟨r.1.bad.isSome, reportedFlags (s.heritage core) r.1.flags, r.1.bad.getD 0⟩)

/-! ### Gating of arrays (R141) -/

/-- An MMA in the queue asks for the array: it has not yet taken its last stream cycle. -/
def Core.wakeAsked (c : Core) (array : Nat) : Bool :=
  c.ops.any fun o => decide (o.kind = .mma) && o.amask.getLsbD array && o.result.isNone

/-- ARRAY_WAKE (R141): a gated array that an MMA asks for is woken, in ascending array number and at most two in any 64
cycles. -/
def execArrayWake (core array : Nat) (s : State) : Outcome :=
  let c := s.core core
  let asked := (List.range 4).filter fun a => c.wakeAsked a && !c.awake.getLsbD a
  if asked.head? = some array then
    let s := match c.wakes with
      | _ :: t :: _ => s.advanceTo (t + s.cyclesNs 64)
      | _ => s
    .next (s.setCore core { c with
      awake := c.awake ||| BitVec.twoPow 4 array
      wakes := (s.clk.now :: c.wakes).take 2
      streamAt := SMap.set 0 c.streamAt array s.clk.now })
  else .next s

/-- MX_GATE_IDLE as the last LAUNCH to start on a core sampled it (R171). -/
def State.gateIdle (s : State) (core : Nat) : Nat := (s.core core).gateIdle

/-- ARRAY_GATE (R141): an array that no MMA asks for and that has been idle for MX_GATE_IDLE cycles is gated. -/
def execArrayGate (core array : Nat) (s : State) : Outcome :=
  let c := s.core core
  if c.awake.getLsbD array && !c.wakeAsked array then
    let s := s.advanceTo (SMap.get 0 c.streamAt array + s.cyclesNs (s.gateIdle core))
    .next (s.setCore core { c with awake := c.awake &&& ~~~BitVec.twoPow 4 array })
  else .next s

end Sys2Proof.Machine
end

