-- ==== Sys2Proof/Machine/Chain.lean ====
section
/-!
DEFINITION. CH.RUN: its descriptor, checks and issue, the eight stages, row reductions and records, and its end
(R203 to R213, R216, R218, R219).
-/

namespace Sys2Proof.Machine

/-! ### The chain descriptor (R209) -/

def cRowRec (d : BitVec 256) : Bool := d.getLsbD 225
def cStore (d : BitVec 256) : Bool := d.getLsbD 224
def cDiag (d : BitVec 256) : Int := (d.extractLsb' 176 16).toInt
def cMask (d : BitVec 256) : Nat := dfld d 174 2
def cMaskV (d : BitVec 256) : Nat := dfld d 172 2
def cCond (d : BitVec 256) : Nat := dfld d 168 4
def cSel (d : BitVec 256) : Nat := dfld d 166 2
def cAccum (d : BitVec 256) : Bool := d.getLsbD 131
def cRop (d : BitVec 256) : Nat := dfld d 128 3
def cFn (d : BitVec 256) : BitVec 4 := d.extractLsb' 96 4
def cEop (d : BitVec 256) : Nat := dfld d 64 3
def cBsrc (d : BitVec 256) : Nat := dfld d 34 2
def cAsrc (d : BitVec 256) : Nat := dfld d 32 2
def cAbs (d : BitVec 256) : Bool := d.getLsbD 1
def cNeg (d : BitVec 256) : Bool := d.getLsbD 0

/-- Stage 2 takes a row operand. -/
def cRowOperand (d : BitVec 256) : Bool := decide (cAsrc d = 2) || decide (cBsrc d = 2)

/-- A chain field holds a reserved value, or fields contradict one another (R218 detail 0x0E). -/
def chainFieldsBad (d : BitVec 256) : Bool :=
  decide (cMask d = 3) || decide (2 ≤ cMaskV d) || decide (5 ≤ cCond d) || decide (cSel d = 3) ||
  decide (5 ≤ cRop d) || decide (7 ≤ (cFn d).toNat) || decide (6 ≤ cEop d) || decide (cBsrc d = 3) ||
  decide (cAsrc d = 3) || (!cStore d && !cRowRec d) || (cAccum d && (!cRowRec d || decide (cRop d = 0)))

/-! ### Checks (R218) -/

/-- A row tensor or operand named by IMM runs past the end of local memory. -/
def namedPast (e : BitVec 256) : Bool :=
  decide (dKind e = 1) && pastEnd (dBase e) (tStride e) (tRows e) (rowBytes (tFmt e) (tLen e))

/-- The second tensor is unusable (detail 0x0C). -/
def secondBad (i e : BitVec 256) : Bool :=
  decide (dKind e ≠ 1) || !secondFmtOk (tFmt e) || (decide (tLen e ≠ 1) && decide (tLen e ≠ tLen i)) ||
  (decide (tRows e < tRows i) && decide (tStride e ≠ 0))

/-- The row operand is unusable (detail 0x0D). -/
def rowOperandBad (d i e : BitVec 256) : Bool :=
  decide (dKind e ≠ 1) || decide (tFmt e ≠ 0) || decide (tLen e < if cBsrc d = 2 then 2 else 1) ||
  decide (tRows e < tRows i)

/-- Descriptor faults of CH.RUN: chain descriptor, input, output, second tensor and row operand. -/
def chainFault (d i o e r : BitVec 256) : Option (BitVec 8 × BitVec 2) :=
  let rows := tRows i
  let len := tLen i
  firstFault [
    (decide (dKind d ≠ 3), 0x01, 0), (decide (dKind i ≠ 1), 0x01, 1), (decide (dKind o ≠ 2), 0x01, 2),
    (decide (10 < (tFmt i).toNat) || (fmtIsMx (tFmt i) && decide (len % 32 ≠ 0)), 0x02, 1),
    (decide (10 < (oFmt o).toNat) || (fmtIsMx (oFmt o) && decide (len % 32 ≠ 0)), 0x02, 2),
    (decide (rows = 0), 0x04, 1),
    (decide (len = 0), 0x05, 1),
    (decide (oEpi o ≠ 0) || (cRowRec d && fmtIsMx (oFmt o)), 0x08, 2),
    (decide (ccwRmode (oCcw o) = 3), 0x09, 2),
    ((decide (cEop d ≠ 0) && namedPast e) || (cRowOperand d && namedPast r), 0x0A, 0),
    (pastEnd (dBase i) (tStride i) rows (rowBytes (tFmt i) len) || scalesPast i rows (len / 32), 0x0A, 1),
    ((cStore d && (pastEnd (dBase o) (oStride o) rows (rowBytes (oFmt o) len) ||
        (fmtIsMx (oFmt o) && pastEnd (oStatsBase o) 0 1 (rows * (len / 32))))) ||
      (cRowRec d && pastEnd (oStatsBase o) 0 1 (32 * rows)), 0x0A, 2),
    (cStore d && decide (oStride o < rowBytes (oFmt o) len), 0x0B, 2),
    (decide (cEop d ≠ 0) && secondBad i e, 0x0C, 0),
    (cRowOperand d && rowOperandBad d i r, 0x0D, 0),
    (chainFieldsBad d, 0x0E, 0)]

/-- Alignment of the descriptors that CH.RUN uses (R166). -/
def chainMisaligned (d i o e r : BitVec 256) : Bool :=
  tensorMisaligned i || misaligned [dBase o, oStride o] || (cRowRec d && misaligned [oStatsBase o]) ||
  (decide (cEop d ≠ 0) && tensorMisaligned e) || (cRowOperand d && tensorMisaligned r)

/-! ### The stages (R210, R211, R213) -/

/-- A value in the chain with the flags that its lane has set. -/
abbrev Lane := F32 × FlagVec

/-- Stage 1: the input as FP32, its magnitude, its negation. -/
def stage1 (d : BitVec 256) (v : Val) : Lane :=
  let x := f32Of v
  let x := if cAbs d then x &&& 0x7FFFFFFF else x
  (if cNeg d then x ^^^ 0x80000000 else x, flagIf v.isNaN fNANIN ||| f32Sat v)

/-- Stage 2: A·x + B with one rounding. -/
def stage2 (d : BitVec 256) (a b : F32) (x : Lane) : Lane :=
  if cAsrc d = 0 ∧ cBsrc d = 0 then x
  else
    let p := (f32Val a).mul (f32Val x.1)
    let q := p.add (f32Val b)
    (f32Of q, x.2 ||| flagIf ((f32Val a).isNaN || (f32Val b).isNaN) fNANIN |||
      flagIf ((f32Val a).mulInvalid (f32Val x.1) || p.addInvalid (f32Val b)) fINV ||| f32Sat q)

/-- Stage 3: combined with an element of the second tensor. -/
def stage3 (d : BitVec 256) (s : Val) (y : Lane) : Lane :=
  let sf := f32Of s
  let sv := f32Val sf
  let yv := f32Val y.1
  let fl := y.2 ||| flagIf s.isNaN fNANIN ||| f32Sat s
  match cEop d with
  | 1 => (f32Of (yv.add sv), fl ||| flagIf (yv.addInvalid sv) fINV ||| f32Sat (yv.add sv))
  | 2 => (f32Of (yv.sub sv), fl ||| flagIf (yv.addInvalid sv.neg) fINV ||| f32Sat (yv.sub sv))
  | 3 => (f32Of (yv.mul sv), fl ||| flagIf (yv.mulInvalid sv) fINV ||| f32Sat (yv.mul sv))
  | 4 => (f32Max2 y.1 sf, fl)
  | 5 => (f32Min2 y.1 sf, fl)
  | _ => y

/-- The exact reciprocal rounded to FP32 with ties to even: the quotient of two significands to 60 bits, with a sticky
bit. -/
def recipVal : Val → Val
  | .fin n m e =>
    let k := m.log2 + 60
    let q := 2 ^ k / m
    let r := 2 ^ k % m
    .fin n (2 * q + (if r = 0 then 0 else 1)) (-(k : Int) - 1 - e)
  | v => v

/-- The largest power of two in a positive exact value: `k` where the value is `2^k` exactly. -/
def exactLog2 : Val → Option Int
  | .fin _ m e => if m = 2 ^ m.log2 then some ((m.log2 : Int) + e) else none
  | _ => none

/-- A NaN that an invalid operation gives. -/
def invalidLane : Lane := (f32NaN, fINV)

/-- Stage 4: the function of FN (R211). Where R211 states a bound only, the result is free within it (log 10). -/
def chainFunction (fn : BitVec 4) (x : F32) : Lane :=
  let v := f32Val x
  if v.isNaN then (f32NaN, fNANIN)
  else
    match fn.toNat with
    | 1 => exp2f x
    | 2 =>
      if v.isZero then (0xFF800000, fDZ)
      else if v.sign then invalidLane
      else if v.isInf then (0x7F800000, 0)
      else match exactLog2 v with
        | some k => (f32Of (Val.ofInt k), 0)
        | none => (boundedResult 2 x, 0)
    | 3 =>
      if v.isZero then (if v.sign then 0xFF800000 else 0x7F800000, fDZ)
      else if v.isInf then (if v.sign then 0x80000000 else 0, 0)
      else (f32Of (recipVal v), f32Sat (recipVal v))
    | 4 =>
      if v.isZero then (if v.sign then 0xFF800000 else 0x7F800000, fDZ)
      else if v.sign then invalidLane
      else if v.isInf then (0, 0)
      else (boundedResult 4 x, 0)
    | 5 | 6 =>
      if v.isZero then (x, 0)
      else if v.isInf then (if v.sign then 0xBF800000 else 0x3F800000, 0)
      else (boundedResult fn x, 0)
    | _ => (x, 0)

/-- Stage 4 on a lane; the NaN of an earlier stage sets no further flag than R211 gives it. -/
def stage4 (d : BitVec 256) (z : Lane) : Lane :=
  if cFn d = 0 then z
  else
    let r := chainFunction (cFn d) z.1
    (r.1, z.2 ||| r.2)

/-- The positional mask of stage 6. -/
def posMasked (d : BitVec 256) (m c : Nat) : Bool :=
  match cMask d with
  | 1 => decide (cDiag d < (c : Int) - m)
  | 2 => decide ((c : Int) - m < cDiag d)
  | _ => false

/-- COND holds of a value. -/
def stageCond (d : BitVec 256) (w : F32) : Bool :=
  let v := f32Val w
  match cCond d with
  | 1 => v.lt .zero
  | 2 => Val.lt .zero v
  | 3 => v.isNaN
  | 4 => v.isInf
  | _ => false

/-- Stage 6: the stored value. -/
def stage6 (d : BitVec 256) (masked : Bool) (w : F32) : F32 :=
  if masked then (if cMaskV d = 0 then 0xFF800000 else 0)
  else if stageCond d w then
    match cSel d with | 0 => 0 | 1 => 0xFF800000 | _ => 0x7F800000
  else w

/-! ### Row reduction (R212) -/

/-- The state of stage 5: F, the pair, and flags. -/
structure RowState where
  f : F32
  h : Val
  t : Val
  flags : FlagVec

/-- The state at the start of a row. -/
def rowIdentity (d : BitVec 256) : RowState :=
  ⟨if cRop d = 1 then 0xFF800000 else if cRop d = 2 then 0x7F800000 else 0, .zero, .zero, 0⟩

/-- One beat: its unmasked values. NANIN comes from a NaN tail of the pair held alone (R86, R121, R213). -/
def rowBeat (d : BitVec 256) (r : RowState) (ws : List F32) : RowState :=
  match cRop d with
  | 1 => { r with f := ws.foldl f32Max2 r.f }
  | 2 => { r with f := ws.foldl f32Min2 r.f }
  | 0 => r
  | op =>
    let vs := ws.map f32Val
    let ts := if op = 4 then vs.map fun v => v.mul v else vs
    let s := sumVals ts
    let p := pairOf s
    let q := pairAdd r.h r.t p.1 p.2
    let own := if r.h.isNaN || p.1.isNaN then fINV ||| fSAT else fINV ||| fSAT ||| fNANIN
    ⟨r.f, q.head, q.tail, r.flags ||| flagIf s.isNaN fINV ||| (q.flags &&& own)⟩

/-- F and the pair of the row record. -/
def rowRecord (d : BitVec 256) (r : RowState) : F32 × Val × Val × FlagVec :=
  match cRop d with
  | 1 | 2 => (r.f, f32Val r.f, .zero, r.flags)
  | _ => (f32Of (pairVal r.h r.t), r.h, r.t, r.flags ||| f32Sat (pairVal r.h r.t))

/-! ### One row and the whole operation -/

/-- The input row: MX elements with their scale (R210). -/
def State.chainInput (s : State) (core : Nat) (o : MxOp) (m : Nat) : List Elem × State :=
  let i := o.d1
  let fmt := tFmt i
  let n := tLen i
  let r := s.opRead core o (dBase i + m * tStride i) (rowBytes fmt n)
  let sc := if fmtIsMx fmt then
      r.2.opBytes core o ((List.range (n / 32)).map fun j => tScaleBase i + m * tScaleStride i + j)
    else ([], r.2)
  ((List.range n).map fun k =>
    let e := r.1.elem fmt (fmtBits fmt * k) (scaleAt sc.1 k)
    if fmtIsMx fmt then { e with val := e.val.mul (scaleVal (scaleAt sc.1 k).1) } else e, sc.2)

/-- A and B of a row, and the row-operand elements that are taken: (m, 0) for A and (m, 1) for B (R209, R213). -/
def State.chainScale (s : State) (core : Nat) (o : MxOp) (m : Nat) : (F32 × F32 × List Elem) × State :=
  let d := o.d0
  let n := if cBsrc d = 2 then 2 else 1
  let r := if cRowOperand d then s.tensorRow core o o.d4 m n else ([], s)
  let el (k : Nat) : F32 := f32Of (r.1.getD k ⟨0, .zero, none⟩).val
  let a : F32 := match cAsrc d with | 0 => 0x3F800000 | 1 => o.uarg.setWidth 32 | _ => el 0
  let b : F32 := match cBsrc d with | 0 => 0 | 1 => o.uarg.extractLsb' 32 32 | _ => el 1
  ((a, b, (if cAsrc d = 2 then r.1.take 1 else []) ++ (if cBsrc d = 2 then r.1.drop 1 else [])), r.2)

/-- The row record already held (ACCUM): the start of stage 5, and the offset of a poisoned word. -/
def State.chainHeld (s : State) (core : Nat) (o : MxOp) (m : Nat) : (RowState × Option Nat) × State :=
  let d := o.d0
  if cAccum d then
    let r := s.opRead core o (oStatsBase o.d2 + 32 * m) 32
    ((⟨BitVec.ofNat 32 (r.1.get 0 32), w40Val (BitVec.ofNat 40 (r.1.get 128 40)),
      w40Val (BitVec.ofNat 40 (r.1.get 192 40)), 0⟩, r.1.bad 0 256), r.2)
  else ((rowIdentity d, none), s)

/-- An element as it leaves stage 4, with its mask, and the offset of a poisoned word. -/
structure ChainElem where
  w : Lane
  masked : Bool
  bad : Option Nat

/-- Stages 1 to 4 of element (m, c). -/
def chainElem (d : BitVec 256) (a b : F32) (m c : Nat) (x y : Elem) (rowBad : Option Nat) : ChainElem :=
  let w := stage4 d (stage3 d y.val (stage2 d a b (stage1 d x.val)))
  ⟨w, posMasked d m c, firstBad [rowBad, x.bad, if cEop d = 0 then none else y.bad]⟩

/-- The record of a row: poisoned, free where ROP is 0 (R212 gives it no content; its pair is normalised as R86 says), or the
reduction's. -/
def State.chainRecord (s : State) (d : BitVec 256) (addr : Nat) (r : RowState) (bad : Bool) : List Piece × State :=
  if cRop d = 0 && !bad then
    let h := w40Val (BitVec.ofNat 40 s.fresh.2.fresh.1)
    let t := w40Val (BitVec.ofNat 40 s.fresh.2.fresh.2.fresh.1)
    let p := pairOf (pairVal h t)
    (recordPieces addr (BitVec.ofNat 32 s.fresh.1) p.1 p.2 false, s.fresh.2.fresh.2.fresh.2)
  else
    let q := rowRecord d r
    (recordPieces addr q.1 q.2.1 q.2.2.1 bad, s)

/-- One row of a CH.RUN. Every element passes stage 7, with its flags and its count, whether stage 8 stores it or not
(R203, R213). -/
def chainRow (core : Nat) (o : MxOp) (a : OutAcc × State) (m : Nat) : OutAcc × State :=
  let d := o.d0
  let n := tLen o.d1
  let sc := a.2.chainScale core o m
  let held := sc.2.chainHeld core o m
  let inp := held.2.chainInput core o m
  let sn := if tLen o.d3 = 1 then 1 else n
  let sec := if cEop d = 0 then ([], inp.2) else inp.2.tensorRow core o o.d3 m sn
  let rowBad := firstBad ((sc.1.2.2.map (·.bad)) ++ [held.1.2])
  let es := (List.range n).map fun c =>
    chainElem d sc.1.1 sc.1.2.1 m c (inp.1.getD c ⟨0, .zero, none⟩)
      (sec.1.getD (if sn = 1 then 0 else c) ⟨0, .zero, none⟩) rowBad
  let live := es.filter fun e => !e.masked
  let red := (chunks 128 es).foldl (fun r b =>
    rowBeat d r ((b.filter fun e => !e.masked && e.bad.isNone).map (·.w.1))) held.1.1
  let recBad := (live.any fun e => e.bad.isSome) || held.1.2.isSome
  let sd := sec.2.opSeed core
  let mode := ccwMode (oCcw o.d2) sd.1 sd.2 (oIdxBase o.d2) (oIdxRow o.d2) m
  let cv := convertRow (oFmt o.d2) (oCcw o.d2) mode
    (es.map fun e => if e.bad.isSome then none else some (f32Val (stage6 d e.masked e.w.1)))
  let lb := localBase core
  let p := if cStore d then rowPieces (lb + dBase o.d2 + m * oStride o.d2) (fmtBits (oFmt o.d2)) cv.1 else []
  let q := if cStore d then bytePieces (lb + oStatsBase o.d2 + m * (n / 32)) cv.2.1 else []
  let r := if cRowRec d then sec.2.chainRecord d (lb + oStatsBase o.d2 + 32 * m) red recBad else ([], sec.2)
  let fl := (live.filter fun e => e.bad.isNone).foldl (fun f e => f ||| fp32Flags e.w.2) 0
  let rf := if recBad then 0 else if cRowRec d then (rowRecord d red).2.2.2 else red.flags
  ({ a.1 with
      pieces := a.1.pieces ++ p ++ q ++ r.1
      bad := firstBad (a.1.bad :: rowBad :: es.map (·.bad))
      flags := a.1.flags ||| fl ||| rf ||| cv.2.2.1
      inCount := a.1.inCount + nonFinite inp.1
      secondCount := a.1.secondCount + nonFinite sec.1
      rowCount := a.1.rowCount + nonFinite sc.1.2.2
      outCount := a.1.outCount + cv.2.2.2 }, r.2)

/-- The whole output of a CH.RUN. -/
def runChain (core : Nat) (o : MxOp) (s : State) : OutAcc × State :=
  (List.range (tRows o.d1)).foldl (chainRow core o) (OutAcc.start, s)

/-- The oldest CH.RUN of a core starts once no other runs (R208). -/
def State.startChain (s : State) (core : Nat) : State :=
  match (s.core core).ops.find? fun o => decide (o.kind = .chRun) with
  | none => s
  | some o =>
    if o.started then s
    else
      let r := runChain core o (s.startOp core o.tok)
      r.2.putPieces (opOwner core o.tok) r.1.pieces

/-- CH_RUN (R206, R207): issues a stage-chain operation. -/
def execChRun (g : GroupRef) (f : BitVec 48) (s : State) : Outcome :=
  let w := f ++ (0x7001 : BitVec 16)
  asyncIssue g w 7 false (fun _ gr =>
    let d := gr.dGet (fD0 w)
    let i := gr.dGet (fD1 w)
    let o := gr.dGet (fD2 w)
    let e := gr.dGet (fld w 48 4)
    let r := gr.dGet (fld w 52 4)
    { fault := chainFault d i o e r, misaligned := chainMisaligned d i o e r
      op := fun t => { newOp g w .chRun d i 0 t with d2 := o, d3 := e, d4 := r, uarg := gr.uGet (fld w 56 6) }
      after := fun c => c }) (fun s => s.startChain g.core) s

/-- CH_RUN_DONE (R205, R208, R213): the output is in local memory, the token is DONE, and the next CH.RUN starts. -/
def execChRunDone (core tok : Nat) (s : State) : Outcome := withRoom (.chRunDone core tok) s <|
  match s.running core tok .chRun with
  | none => .next s
  | some o =>
    let own := s.ownWords (opOwner core tok)
    let r := runChain core o (s.undo (opOwner core tok))
    let s := r.2.finalPieces own r.1.pieces
    let s := s.nfCount (tClass o.d1) r.1.inCount 0x03 core
    let s := s.nfCount (tClass o.d3) r.1.secondCount 0x03 core
    let s := s.nfCount (tClass o.d4) r.1.rowCount 0x03 core
    let s := s.nfCount (oClass o.d2) r.1.outCount 0x03 core
    let s := (s.countBeats core (tRows o.d1 * ((tLen o.d1 + 127) / 128)) 7).odAdd Od.chainOpCount 1
    .next ((s.endOp core o ⟨r.1.bad.isSome, r.1.flags, r.1.bad.getD 0⟩).startChain core)

end Sys2Proof.Machine
end

