-- ==== Sys2Proof/Machine/Watch.lean ====
section
/-!
DEFINITION. The training watch: the job's non-finite flag (R344, R345), the loss watch (R346 to R348) and the scale ledger
(R349 to R356).
-/

namespace Sys2Proof.Machine

/-- The watch's accesses to memory; no source master is listed for it, and the dispatcher's code is used (log 29). -/
def watchAttr : Attr := devAttr 0xF4 1

/-! ### The non-finite flag (R344, R345) -/

def State.slotJob (s : State) (i : Nat) : Nat := s.odGet (Od.numSlotJob i)

/-- The flag of a slot is set, and the setting is logged; a flag already set stays as it is. Causes: 0 bucket, 1 host
write, 2 loss spike. -/
def State.setNfStep (s : State) (i cause bucket : Nat) : State :=
  if s.odGet (Od.nfStepFlag i) = 1 then s
  else (s.odSet (Od.nfStepFlag i) 1).event 0x15 0 0x0602 sevWarning
    [(16, 2, s.slotJob i), (18, 1, cause), (20, 4, bucket), (24, 8, s.odGet (Od.srStep i))]

/-! ### The loss watch (R347) -/

def State.odF32 (s : State) (k : Nat) : Val := f32Val (BitVec.ofNat 32 (s.odGet k))

/-- `spike` of R347. -/
def State.lossSpike (s : State) (i reason : Nat) (x z : F32) : State :=
  let s := s.odAdd (Od.lossSpikeCount i) 1
  let s := s.event 0x15 0 0x0603 sevWarning
    [(16, 2, s.slotJob i), (18, 1, reason), (20, 4, x.toNat), (24, 4, z.toNat), (28, 4, s.odGet (Od.lossMean i))]
  if s.odGet (Od.lossSpikeAction i) = 1 then s.setNfStep i 2 0 else s

/-- `loss_sample` of R347; a poisoned sample is not finite (R346). -/
def State.lossSample (s : State) (i : Nat) (x : F32) (poison : Bool) : State :=
  let xv := f32Val x
  if poison ∨ !xv.isFinite then s.lossSpike i 1 x f32NaN
  else
    let n := s.odGet (Od.lossCount i) + 1
    let s := s.odSet (Od.lossCount i) n
    if n = 1 then (s.odSet (Od.lossMean i) x.toNat).odSet (Od.lossVar i) 0
    else
      let mean := s.odF32 (Od.lossMean i)
      let var := s.odF32 (Od.lossVar i)
      let alpha := s.odF32 (Od.lossAlpha i)
      let d := f32Round (xv.sub mean)
      let rs := f32Val (chainFunction 4 (f32Of (var.add (s.odF32 (Od.lossVarFloor i))))).1
      let z := f32Of (d.mul rs)
      let spike := decide (s.odGet (Od.lossWarmup i) < n) && (s.odF32 (Od.lossZLimit i)).le (f32Val z)
      let s := if spike then s.lossSpike i 0 x z else s
      if spike ∧ s.odGet (Od.lossSpikeUpdate i) = 0 then s
      else
        let m := f32Of (mean.add (alpha.mul d))
        let v := f32Of ((Val.one.sub alpha).mul (var.add (alpha.mul (d.mul d))))
        (s.odSet (Od.lossMean i) m.toNat).odSet (Od.lossVar i) v.toNat

/-- The sample point of an UPDATE_STEP: a mode-1 loss sample, then the flag is read and cleared (R345, R346). -/
def State.samplePoint (s : State) (i : Nat) : Bool × State :=
  let s :=
    if s.odGet (Od.lossMode i) = 1 then
      let r := (s.countSpan watchAttr 0 (s.odGet (Od.lossAddr i)) 4).readNat (s.odGet (Od.lossAddr i)) 4
      r.2.lossSample i (BitVec.ofNat 32 r.1.1) r.1.2
    else s
  (decide (s.odGet (Od.nfStepFlag i) = 1),
    { s.odSet (Od.nfStepFlag i) 0 with watch := { s.watch with nfSeen := 0 } })

/-! ### Ledger records (R350) -/

/-- A ledger record of 2,048 bits, with the poison marks of its words. -/
structure LedgerRec where
  bits : Nat
  poison : List Bool
  deriving DecidableEq, Repr

def LedgerRec.fld (r : LedgerRec) (lo n : Nat) : Nat := r.bits / 2 ^ lo % 2 ^ n
def LedgerRec.put (r : LedgerRec) (lo n v : Nat) : LedgerRec :=
  { r with bits := r.bits - r.fld lo n * 2 ^ lo + v % 2 ^ n * 2 ^ lo }

/-- The 2,048 bits as the watch writes them: the reserved ones zero. -/
def LedgerRec.image (r : LedgerRec) : Nat := (r.put 1162 54 0).bits % 2 ^ 1280

def LedgerRec.enabled (r : LedgerRec) : Bool := decide (r.fld 1161 1 = 1)
def LedgerRec.hist (r : LedgerRec) (j : Nat) : F32 := BitVec.ofNat 32 (r.fld (32 * j) 32)

/-- The address of entry `e` of a slot's ledger, as LEDGER_BASE gives it now (R349). -/
def State.ledgerAddr (s : State) (i e : Nat) : Nat := s.odGet (Od.ledgerBase i) + 256 * e

/-- The entries of a slot's ledger that the watch reaches: below LEDGER_COUNT, and in the HBM of the job's side (R223,
R349). -/
def State.ledgerHolds (s : State) (i e : Nat) : Bool :=
  let a := s.ledgerAddr i e
  decide (e < s.odGet (Od.ledgerCount i)) && s.mapped (s.jobSide (BitVec.ofNat 16 (s.slotJob i))) a 256 &&
    decide (regionOf a = .hbm)
def State.ledgerEntries (s : State) (i : Nat) : List Nat :=
  (List.range (s.odGet (Od.ledgerCount i))).filter (s.ledgerHolds i)

/-- Entry `e` of the ledger of slot `i`. -/
def State.ledgerRec (s : State) (i e : Nat) : LedgerRec × State :=
  let a := s.ledgerAddr i e
  let q := (s.countSpan watchAttr 0 a 256).readBytes a 256 .demand
  (⟨bytesNat q.1.1, q.1.2⟩, q.2)

/-- Words of a record that stay poisoned when the watch writes it: those that it fills whole are clean, those with other
content keep their poison, and the reserved words are zero. -/
def LedgerRec.marks (r : LedgerRec) : List Bool :=
  (List.range 32).map fun w => r.poison.getD w false && decide (w < 19) && decide (w ≠ 16)

/-- The record goes back. -/
def State.putLedgerRec (s : State) (i e : Nat) (r : LedgerRec) : State :=
  let a := s.ledgerAddr i e
  let bits := r.image
  let s := (s.countSpan watchAttr 1 a 256).coherentWrite a 256
  (List.range 32).foldl (fun s w =>
    s.writeWord (a / 8 + w) (BitVec.ofNat 64 (bits / 2 ^ (64 * w))) (r.marks.getD w false)) s

/-- The bytes of a record, for the mirror. -/
def LedgerRec.bytes (r : LedgerRec) : List Byte := natBytes 256 r.image

/-- The slot of a job with an attached ledger, where the entry lies in it. -/
def State.ledgerSlot? (s : State) (job : BitVec 16) (e : Nat) : Option Nat :=
  (s.jobSlot? job).filter fun i => (SMap.find? s.watch.ledgers i).isSome && s.ledgerHolds i e

/-- The attached ledger of a slot. -/
def State.ledger? (s : State) (i : Nat) : Option Ledger := SMap.find? s.watch.ledgers i
def State.setLedger (s : State) (i : Nat) (l : Ledger) : State :=
  { s with watch := { s.watch with ledgers := SMap.put s.watch.ledgers i l } }

/-- A command's LEDGER field names no entry of its job's ledger (R349). -/
def State.ledgerBad (s : State) (job : BitVec 16) (e : Nat) : Bool :=
  e ≠ 0xFF && (s.ledgerSlot? job e).isNone

/-- The agreed starting exponent that an entry gives; a poisoned one is a free value (R354, log 29). -/
def State.ledgerE0 (s : State) (job : BitVec 16) (e : Nat) : BitVec 8 × State :=
  if e = 0xFF then (0xFF, s)
  else match s.ledgerSlot? job e with
    | none => (0xFF, s)
    | some i =>
      let q := s.readNat (s.ledgerAddr i e + 140) 1
      if q.1.2 then (BitVec.ofNat 8 q.2.fresh.1, q.2.fresh.2) else (BitVec.ofNat 8 q.1.1, q.2)

/-- The collective engine reports an amax as RED.MAX.F32 does (R290, R351). -/
def State.ledgerAmax (s : State) (job : BitVec 16) (e : Nat) (amax : F32) : State :=
  if e = 0xFF then s
  else match s.ledgerSlot? job e with
    | none => s
    | some i =>
      let a := s.ledgerAddr i e + 128
      let q := s.readNat a 4
      if q.1.2 then q.2
      else (q.2.coherentWrite a 4).writeNat a 4 (reduceBits 0x13 q.1.1 amax.toNat)

/-! ### The roll (R352, R353) -/

/-- `ledger_scale` of R353: SCALE, INV_SCALE, E0. -/
def ledgerScale (amax : Val) (fmt margin : Nat) : F32 × F32 × Nat :=
  let one := f32Of Val.one
  if amax.isZero then (one, one, 0)
  else
    let f := amax.floorLog2
    let e0 := (min 254 (max 0 (f + 128 + margin))).toNat
    if fmt = 0 then (one, one, e0)
    else
      let k : Int := min 127 (max (-126) ((if fmt = 3 then 8 else 15) - f - margin))
      (f32Of (Val.pow2 k), f32Of (Val.pow2 (-k)), e0)

/-- The largest of the VALID history values, which stand at the first VALID positions (R356). -/
def LedgerRec.histMax (r : LedgerRec) (valid : Nat) : Val := maxAbs ((List.range valid).map fun j => f32Val (r.hist j))

/-- SCALE, INV_SCALE, E0 and ROLL_STEP of a record by its COLD bit. -/
def LedgerRec.scaled (r : LedgerRec) (margin : Nat) (step : Nat) : LedgerRec :=
  let x := if r.fld 1160 1 = 1 then (0, 0, 0xFF) else
    let q := ledgerScale (r.histMax (r.fld 1144 8)) (r.fld 1128 8) margin
    (q.1.toNat, q.2.1.toNat, q.2.2)
  (((r.put 1056 32 x.1).put 1088 32 x.2.1).put 1120 8 x.2.2).put 1216 64 step

/-- `roll_entry` of R353 on a record: the new record, and whether CUR_AMAX was not finite. -/
def rollEntry (l : Ledger) (step : Nat) (r : LedgerRec) : LedgerRec × Bool :=
  let a := f32Val (BitVec.ofNat 32 (r.fld 1024 32))
  let ok := a.isFinite && !(r.poison.getD 16 false)
  let r := r.put 1024 32 0
  let r :=
    if ok then
      let h := r.fld 1136 8
      (((r.put (32 * h) 32 (f32Of a.abs).toNat).put 1136 8 ((h + 1) % l.depth))).put 1144 8 (min (r.fld 1144 8 + 1) l.depth)
    else r
  let r :=
    if r.fld 1160 1 = 1 then
      let w := r.fld 1152 8 - 1
      let r := r.put 1152 8 w
      if w = 0 ∧ 0 < r.fld 1144 8 then r.put 1160 1 0 else r
    else r
  (r.scaled l.margin step, !ok)

/-! ### The mirror (R355) -/

/-- A mirror with nothing to send. -/
def Mirror.initial : Mirror := ⟨none, 0, 0, []⟩

def State.mirror (s : State) (i : Nat) : Mirror := SMap.get Mirror.initial s.watch.mirrors i
def State.setMirror (s : State) (i : Nat) (m : Mirror) : State :=
  { s with watch := { s.watch with mirrors := SMap.set Mirror.initial s.watch.mirrors i m } }

/-- Mirror writes of a slot are outstanding. -/
def State.mirrorBusy (s : State) (i : Nat) : Bool :=
  s.fab.tracker.any fun t => match t.owner with
    | .mirror j => decide (j = i)
    | _ => false

/-- A mirror write has ended. -/
def State.mirrorDone (s : State) (i : Nat) (st : Status) : State :=
  if st = Status.ok then s
  else
    let s := s.odAdd Od.ledgerMirrorFailCount 1
    let m := s.mirror i
    s.setMirror i { m with failed := m.failed + 1, status := if m.failed = 0 then st else m.status }

/-- A record of the roll that goes on is sent. -/
def State.mirrorSendOne (s : State) (i : Nat) (r : MirrorRoll) (x : MirrorRec) : State :=
  let t : NewTx :=
    { dst := (Place.mk (x.addr / 2 ^ 40 % 64) (x.addr / 2 ^ 46 % 64)).coord, op := 0x02, addr := BitVec.ofNat 40 x.addr
      len := 256, key := r.key, job := r.job, master := 0xF4, tc := 0, priv := 1, payload := x.bytes, pmask := x.pmask
      mc := (0, false, false), engine := false, owner := .mirror i }
  let q := s.openTx ((s.freeTag).getD 0) t
  match q.1 with
  | some y => q.2.mirrorDone i y.status
  | none => q.2

/-- The roll that goes on has ended: its failures are logged once. -/
def State.mirrorEnds (s : State) (r : MirrorRoll) (m : Mirror) : State :=
  if m.failed = 0 then s
  else s.event 0x15 0 0x0605 sevWarning
    [(16, 2, r.job.toNat), (18, 1, m.status.toNat), (20, 4, m.failed), (24, 8, r.step.toNat)]

/-- The mirror of a slot goes on: it sends while the tracker has room, ends a roll whose writes have ended, and begins the
next (fuel: the writes and rolls that wait). A roll keeps the key and addresses with which it was taken, so that neither
a detachment nor another job of the slot changes its writes. -/
def State.mirrorRun : Nat → State → Nat → State
  | 0, s, _ => s
  | k + 1, s, i =>
    let m := s.mirror i
    match m.roll with
    | some r =>
      match r.recs with
      | x :: rest =>
        if 4096 ≤ s.fab.tracker.length then s
        else State.mirrorRun k ((s.setMirror i { m with roll := some { r with recs := rest } }).mirrorSendOne i r x) i
      | [] =>
        if s.mirrorBusy i then s
        else State.mirrorRun k ((s.mirrorEnds r m).setMirror i ⟨none, 0, 0, m.wait⟩) i
    | none =>
      match m.wait with
      | [] => s
      | r :: rs => State.mirrorRun k (s.setMirror i { m with roll := some r, wait := rs }) i

/-- Steps that the mirror of a slot may take. -/
def Mirror.work (m : Mirror) : Nat :=
  (m.roll.toList ++ m.wait).foldl (fun n r => n + r.recs.length + 2) 0

def State.mirrorGo (s : State) (i : Nat) : State := s.mirrorRun (s.mirror i).work i

/-- The mirror writes of a roll, where the slot has a mirror. -/
def State.mirrorRoll (s : State) (i step : Nat) (recs : List (Nat × LedgerRec)) : State :=
  let a := s.odGet (Od.ledgerMirrorAddr i)
  if a = 0 then s
  else
    let r : MirrorRoll :=
      { job := BitVec.ofNat 16 (s.slotJob i), step := BitVec.ofNat 64 step
        key := regKey (SMap.get 0 s.fab.regions (s.odGet (Od.ledgerMirrorRef i)))
        recs := recs.map fun e => ⟨a + 256 * e.1, e.2.bytes, payloadMask 0 256 e.2.marks⟩ }
    let m := s.mirror i
    (s.setMirror i { m with wait := m.wait ++ [r] }).mirrorGo i

/-- The roll of a job's ledger (R352). -/
def State.rollLedger (s : State) (i : Nat) : State :=
  match s.ledger? i with
  | none => s
  | some l =>
    let step := s.odGet (Od.srStep i)
    let r := (s.ledgerEntries i).foldl (fun (a : List (Nat × LedgerRec) × State) e =>
      let q := a.2.ledgerRec i e
      if q.1.enabled then
        let x := rollEntry l step q.1
        let s := if x.2 then q.2.odAdd Od.ledgerNonfiniteCount 1 else q.2
        (a.1 ++ [(e, x.1)], s.putLedgerRec i e x.1)
      else (a.1, q.2)) ([], s)
    (r.2.odAdd Od.ledgerRolls 1).mirrorRoll i step r.1

/-! ### Attachment (R356) -/

/-- A record made cold. -/
def LedgerRec.cold (r : LedgerRec) (warmup step : Nat) : LedgerRec :=
  ((((((r.put 1160 1 1).put 1152 8 warmup).put 1144 8 0).put 1136 8 0).put 1024 32 0)).scaled 0 step

/-- A restored record cannot be trusted. -/
def LedgerRec.untrusted (r : LedgerRec) (depth step : Nat) : Bool :=
  let v := r.fld 1144 8
  let fmt := r.fld 1128 8
  decide (r.fld 1216 64 ≠ step) || decide (depth < v) || decide (depth ≤ r.fld 1136 8) ||
  decide (fmt ≠ 0 ∧ fmt ≠ 3 ∧ fmt ≠ 4) ||
  ((List.range v).any fun j => (r.hist j).getLsbD 31 || !(f32Val (r.hist j)).isFinite) ||
  r.poison.any id

/-- A record whose words are all clean, as an attachment writes it. -/
def LedgerRec.clean (r : LedgerRec) : LedgerRec := { r with poison := [] }

/-- A slot of an open job; a write to the entries of an empty one is REFUSED (R101). -/
def State.slotOpen (s : State) (i : Nat) : Bool := decide (s.slotJob i ≠ 0)

/-- A command of the job is running: it is started and not committed. -/
def State.jobRuns (s : State) (i : Nat) : Bool :=
  s.disp.cmds.any fun c => decide (c.job.toNat = s.slotJob i) && decide (c.phase = .started)

/-- An attachment is REFUSED. -/
def State.attachBad (s : State) (i : Nat) : Bool :=
  let b := s.odGet (Od.ledgerBase i)
  let n := 256 * s.odGet (Od.ledgerCount i)
  !s.slotOpen i || s.jobRuns i ||
    (decide (0 < n) && !(s.mapped (s.jobSide (BitVec.ofNat 16 (s.slotJob i))) b n && decide (regionOf b = .hbm)))

/-- The ledger as LEDGER_ATTACH samples it. -/
def State.sampledLedger (s : State) : Ledger :=
  { depth := s.odGet Od.ledgerDepth, margin := s.odGet Od.ledgerMargin, warmup := s.odGet Od.ledgerWarmup }

/-- SCALE_COLD. -/
def State.scaleCold (s : State) (i cause n first : Nat) : State :=
  s.event 0x15 0 0x0604 sevWarning [(16, 2, s.slotJob i), (18, 1, cause), (20, 4, n), (24, 4, first)]

/-- Attachment with the records that `p` picks made cold: the entries made cold, and the state. -/
def State.attachLedger (s : State) (i : Nat) (p : LedgerRec → Bool) : List Nat × State :=
  let l := s.sampledLedger
  let step := s.odGet (Od.srStep i)
  let r := (s.ledgerEntries i).foldl (fun (a : List Nat × State) e =>
    let q := a.2.ledgerRec i e
    if q.1.enabled && p q.1 then (a.1 ++ [e], q.2.putLedgerRec i e (q.1.cold l.warmup step).clean) else (a.1, q.2)) ([], s)
  (r.1, (r.2.setLedger i l).odSet (Od.ledgerAttached i) 1)

/-- The ledger of a slot is detached. -/
def State.detachLedger (s : State) (i : Nat) : State :=
  { s with watch := { s.watch with ledgers := SMap.erase s.watch.ledgers i } }.odSet (Od.ledgerAttached i) 0

/-! ### Commands -/

/-- NF_STEP_FLAG: a host write sets or clears the flag (R344, R345). -/
def execNfStepFlag (via : OdPath) (n : Nat) (v : BitVec 8) (s : State) : Outcome := withRoom (.nfStepFlag via n v) s <|
  .next (if n < 16 then
    s.odRow via (0x2820 + n) 0x01 v.toNat (withAccess v.toNat fun s =>
      if !s.slotOpen n then (Status.refused, s)
      else (Status.ok, if v = 1 then s.setNfStep n 1 0 else s.odSet (Od.nfStepFlag n) 0))
  else s)

/-- LOSS_VALUE: a sample of mode 2 (R346). -/
def execLossValue (via : OdPath) (n : Nat) (v : BitVec 32) (s : State) : Outcome := withRoom (.lossValue via n v) s <|
  .next (if n < 16 then
    s.odRow via (0x2820 + n) 0x0C v.toNat (withAccess v.toNat fun s =>
      if !s.slotOpen n ∨ s.odGet (Od.lossMode n) ≠ 2 then (Status.refused, s) else (Status.ok, s.lossSample n v false))
  else s)

/-- LEDGER_ATTACH 0x01 (R356). -/
def execLedgerCold (via : OdPath) (n : Nat) (s : State) : Outcome := withRoom (.ledgerCold via n) s <|
  .next (if n < 16 then
    s.odRow via (0x2820 + n) 0x08 1 (withAccess 1 fun s =>
      if s.attachBad n then (Status.refused, s)
      else
        let r := s.attachLedger n fun _ => true
        (Status.ok, r.2.scaleCold n 0 r.1.length (r.1.headD 0)))
  else s)

/-- LEDGER_ATTACH 0x02 (R356). -/
def execLedgerRestored (via : OdPath) (n : Nat) (s : State) : Outcome := withRoom (.ledgerRestored via n) s <|
  .next (if n < 16 then
    s.odRow via (0x2820 + n) 0x08 2 (withAccess 2 fun s =>
      if s.attachBad n then (Status.refused, s)
      else
        let step := s.odGet (Od.srStep n)
        let r := s.attachLedger n (LedgerRec.untrusted · (s.odGet Od.ledgerDepth) step)
        (Status.ok, if r.1.isEmpty then r.2 else r.2.scaleCold n 1 r.1.length (r.1.headD 0)))
  else s)

/-- LEDGER_ATTACH 0x00 (R356). -/
def execLedgerDetach (via : OdPath) (n : Nat) (s : State) : Outcome := withRoom (.ledgerDetach via n) s <|
  .next (if n < 16 then
    s.odRow via (0x2820 + n) 0x08 0 (withAccess 0 fun s =>
      if !s.slotOpen n then (Status.refused, s) else (Status.ok, s.detachLedger n))
  else s)

end Sys2Proof.Machine
end

