-- ==== Sys2Proof/Machine/Collective.lean ====
section
/-!
DEFINITION. Gradient buckets (R285 to R302): the checks of BUCKET_POST, the wire formats with their combining, the chain of
reduction and gathering, and the ends of a bucket.
-/

namespace Sys2Proof.Machine

/-! ### The command (R285, R286) -/

def Cmd.bkCcw (c : Cmd) : BitVec 16 := BitVec.ofNat 16 (c.arg 480 16)
def Cmd.bkKey (c : Cmd) : BitVec 32 := BitVec.ofNat 32 (c.arg 448 32)
def Cmd.bkTclass (c : Cmd) : BitVec 8 := BitVec.ofNat 8 (c.arg 400 8)
def Cmd.bkLedger (c : Cmd) : BitVec 8 := BitVec.ofNat 8 (c.arg 392 8)
def Cmd.bkSpk (c : Cmd) : BitVec 2 := BitVec.ofNat 2 (c.arg 390 2)
def Cmd.bkWire (c : Cmd) : BitVec 2 := BitVec.ofNat 2 (c.arg 388 2)
def Cmd.bkDfmt (c : Cmd) : BitVec 4 := BitVec.ofNat 4 (c.arg 384 4)
def Cmd.bkSfmt (c : Cmd) : BitVec 4 := BitVec.ofNat 4 (c.arg 380 4)
def Cmd.bkGroup (c : Cmd) : Nat := c.arg 376 4
def Cmd.bkId (c : Cmd) : BitVec 32 := BitVec.ofNat 32 (c.arg 344 32)
def Cmd.bkRes (c : Cmd) : Nat := c.arg 272 40
def Cmd.bkDst (c : Cmd) : Nat := c.arg 232 40
def Cmd.bkSrc (c : Cmd) : Nat := c.arg 192 40

/-- LENGTH, or COLL_BUCKET_BYTES. -/
def State.bkLength (s : State) (c : Cmd) : Nat :=
  if c.arg 312 32 = 0 then s.odGet Od.collBucketBytes else c.arg 312 32

/-- Bytes of an element; 4 for a reserved format, whose command is REFUSED. -/
def elemBytes (fmt : BitVec 4) : Nat := if fmtBits fmt = 0 then 4 else (fmtBits fmt + 7) / 8

def bucketFmt (f : BitVec 4) : Bool := decide (f = 0 ∨ f = 1 ∨ f = 10)

def sparse (w : BitVec 2) : Bool := decide (w = 2)

def State.bkElems (s : State) (c : Cmd) : Nat := s.bkLength c / elemBytes c.bkSfmt

/-- SRC, DST and RES with their bytes. -/
def State.bkRanges (s : State) (c : Cmd) : List (Nat × Nat × Access) :=
  let n := s.bkElems c
  [(c.bkSrc, s.bkLength c, .read), (c.bkDst, n * elemBytes c.bkDfmt, .write)] ++
    (if sparse c.bkWire then [(c.bkRes, 4 * n, .read), (c.bkRes, 4 * n, .write)] else [])

/-- Two ranges have a byte in common. -/
def overlaps (a n b m : Nat) : Bool := decide (a < b + m) && decide (b < a + n)

def State.bucket? (s : State) (job : BitVec 16) (group : Nat) (id : BitVec 32) : Option Bucket :=
  s.disp.buckets.find? fun b => decide (b.job = job) && decide (b.group = group) && decide (b.id = id)

/-- The conditions under which a BUCKET_POST is REFUSED. -/
def State.bkRefused (s : State) (c : Cmd) : Bool :=
  let n := s.bkElems c
  let len := s.bkLength c
  let dn := n * elemBytes c.bkDfmt
  c.bad || decide (c.arg 496 16 ≠ 0) || decide (c.arg 408 40 ≠ 0) || decide (2 ≤ (ccwRmode c.bkCcw).toNat) ||
  decide (c.bkWire = 3) || !bucketFmt c.bkSfmt || !bucketFmt c.bkDfmt || (sparse c.bkWire && decide (c.bkSfmt = 10)) ||
  decide (len < 0x400000) || decide (0x4000000 < len) || decide (len % 0x10000 ≠ 0) ||
  decide (c.job.toNat ≠ (s.grp c.bkGroup).job) || (s.bucket? c.job c.bkGroup c.bkId).isSome ||
  (overlaps c.bkSrc len c.bkDst dn && !(decide (c.bkSrc = c.bkDst) && decide (len = dn))) ||
  (sparse c.bkWire && (overlaps c.bkRes (4 * n) c.bkSrc len || overlaps c.bkRes (4 * n) c.bkDst dn)) ||
  s.ledgerBad c.job c.bkLedger.toNat

/-- COLL_PLAN_REFUSED (R284). -/
def State.planRefused (s : State) (g : Nat) (p : Place) : State :=
  s.event 0x0A 0 0x0403 sevError [(16, 1, g), (17, 2, p.coord.toNat), (19, 2, (s.grp g).job)]

/-- A group is unused or this device is not one of its members. -/
def State.notMember (s : State) (g : Nat) : Bool := (s.rankIn? (s.grp g)).isNone

/-- The first step of the group's chain outside the rectangle; none where the group is unused. -/
def State.planFails (s : State) (g : Nat) : Option Place :=
  if (s.grp g).job = 0 then none else s.chainLeaves (s.grp g)

/-- The checks of a collective command in the order of R11: its status, with the records of the failed ones. -/
def State.collChecks (s : State) (c : Cmd) (g : Nat) (ranges : List (Nat × Nat × BitVec 32 × Access)) (refused busy : Bool) :
    Option (Status × State) :=
  let ks := s.rangeChecks ranges
  let side := s.jobSide c.job
  let plan := s.planFails g
  (firstStatus [
    (ks.any fun k => decide (k.2.1 = Status.denied), Status.denied),
    (s.notMember g || ranges.any fun r => decide (0 < r.2.1) && !s.mapped side r.1 r.2.1, Status.notFound),
    (ks.any fun k => decide (k.2.1 = Status.keyMismatch), Status.keyMismatch),
    (plan.isSome, Status.planMismatch), (refused, Status.refused), (busy, Status.busy)]).map fun st =>
    (st, if st = Status.planMismatch then s.planRefused g (plan.getD s.place)
      else if st = Status.denied ∨ st = Status.keyMismatch then s.rangeRefused c.job (some st) ks
      else s)

/-! ### Elements -/

/-- The collective engine's accesses. -/
def collAttr : Attr := devAttr 0xF0 1

/-- `n` elements of a format from an address, each with its poison. -/
def State.readElems (s : State) (at_ : Attr) (a n : Nat) (fmt : BitVec 4) : List OutElem × State :=
  let w := elemBytes fmt
  let q := s.devRead at_ a (n * w)
  (((chunks w q.1.1).zipIdx).map fun e =>
    let lo := a + e.2 * w
    (bytesNat e.1, (List.range' (lo / 8 - a / 8) ((lo + w + 7) / 8 - lo / 8)).any fun j => q.1.2.getD j false), q.2)

/-- Elements as an engine writes them: a word that holds a poisoned element has zero data and is poisoned (R235). -/
def elemPieces (a w : Nat) (es : List OutElem) : List Piece :=
  let bs := es.flatMap fun e => natBytes w e.1
  (spanWords a bs.length).map fun wd =>
    let lo := max a (8 * wd)
    let hi := min (a + bs.length) (8 * wd + 8)
    let bad := ((es.drop ((lo - a) / w)).take ((hi - a + w - 1) / w - (lo - a) / w)).any (·.2)
    ⟨wd, lo - 8 * wd, if bad then List.replicate (hi - lo) 0 else (bs.drop (lo - a)).take (hi - lo), bad⟩

/-- An engine writes elements; the writes stay in flight until its command ends. -/
def State.writeElems (s : State) (at_ : Attr) (owner a : Nat) (fmt : BitVec 4) (es : List OutElem) : State :=
  let n := es.length * elemBytes fmt
  ((s.countSpan at_ 1 a n).coherentWrite a n).putPieces owner (elemPieces a (elemBytes fmt) es)

/-- Memory whose contents are undefined: every word of the range takes a free value. -/
def State.scramble (s : State) (a n : Nat) : State :=
  (spanWords a n).foldl (fun s w =>
    let lo := max a (8 * w)
    let hi := min (a + n) (8 * w + 8)
    let d := s.fresh
    let m := d.2.fresh
    m.2.setRaw w ((Piece.mk w (lo - 8 * w) (natBytes (hi - lo) d.1) (decide (m.1 % 2 = 1))).apply (m.2.rawWord w))) s

/-! ### PAIR (R293) -/

/-- A pair of W40 values; none for a poisoned element. -/
abbrev PairElem := Option (Val × Val)

/-- A source element as a pair. -/
def elemPair (fmt : BitVec 4) (e : OutElem) : PairElem :=
  if e.2 then none
  else if fmt = 10 then some (w40Val (BitVec.ofNat 40 e.1), w40Val (BitVec.ofNat 40 (e.1 / 2 ^ 64)))
  else some (fmtDecode fmt e.1, .zero)

def decodePairs (bs : List Byte) : List PairElem :=
  (chunks 16 bs).map fun b =>
    let x := bytesNat b
    if x.testBit 127 then none else elemPair 10 (x, false)

def encodePairs (l : List PairElem) : List Byte :=
  l.flatMap fun e => natBytes 16 (match e with | none => 2 ^ 127 | some p => pairWord p.1 p.2)

/-- `pair_add` of two elements; poison is carried. -/
def pairCombine (a b : PairElem) : PairElem :=
  match a, b with
  | some x, some y =>
    let r := pairAdd x.1 x.2 y.1 y.2
    some (r.head, r.tail)
  | _, _ => none

/-- combine of R293. -/
def combinePairs (col : Option (List PairElem)) (row own : List PairElem) : List PairElem :=
  let w := List.zipWith pairCombine row own
  match col with
  | none => w
  | some c => List.zipWith pairCombine c w

/-! ### Q12 (R294 to R297) -/

/-- A block of 32 elements. -/
inductive QBlock where
  | nan
  | poison
  | num (e : Nat) (m : List Int)
  deriving DecidableEq, Repr

def QBlock.ofNat (x : Nat) : QBlock :=
  if x % 256 = 255 then (if x / 256 % 4096 = 1 then .poison else .nan)
  else .num (x % 256) ((List.range 32).map fun i => (BitVec.ofNat 12 (x / 2 ^ (12 * i + 8))).toInt)

def QBlock.toNat : QBlock → Nat
  | .nan => 255
  | .poison => 255 + 256
  | .num e m => e + 256 * packElems 12 (m.map fun v => ((BitVec.ofInt 12 v).toNat, false))

def decodeQ (bs : List Byte) : List QBlock := (chunks 49 bs).map fun b => QBlock.ofNat (bytesNat b)
def encodeQ (l : List QBlock) : List Byte := l.flatMap fun b => natBytes 49 b.toNat

/-- A finite value times 2^k, rounded to an integer, ties to even. -/
def rneScaled (v : Val) (k : Int) : Int :=
  match v with
  | .fin n m e =>
    let x := e + k
    Val.signed n (if 0 ≤ x then m * 2 ^ x.toNat else (roundShift .rne m (-x).toNat).1)
  | _ => 0

/-- Places by which an integer must shift right to lie in -2048 to 2047. -/
def bumpOf (a : Int) : Nat :=
  let x := if 0 ≤ a then a.toNat else (-a - 1).toNat
  if x = 0 then 0 else Nat.log2 x + 1 - 11

/-- floor (a / 2^k). -/
def asr (a : Int) (k : Nat) : Int := a / (2 ^ k : Nat)

/-- `bump` of R295: the block, and whether a scale bump is counted. -/
def qBump (e : Nat) (a : List Int) : QBlock × Bool :=
  let b := a.foldl (fun b x => max b (bumpOf x)) 0
  if 254 < e + b then (.nan, false) else (.num (e + b) (a.map fun x => asr x b), decide (0 < b))

/-- The starting exponent of a block from its own values (R297). -/
def qStart (e0 : BitVec 8) (own : List Val) : Nat :=
  if e0 ≠ 0xFF then e0.toNat
  else
    let m := maxAbs own
    if m.isZero then 0 else (min 254 (max 0 (m.floorLog2 + 128))).toNat

/-- `q12_combine` of R295 with the non-finite rules: the block and the scale bumps counted. -/
def qCombine (e0 : BitVec 8) (col row : Option QBlock) (own : List (Option Val)) : QBlock × Nat :=
  let vs := own.filterMap id
  if own.any (· = none) ∨ col = some .poison ∨ row = some .poison then (.poison, 0)
  else if vs.any (fun v => !v.isFinite) ∨ col = some .nan ∨ row = some .nan then (.nan, 0)
  else
    let st := match row with
      | some (.num e m) => (e, m)
      | _ => (qStart e0 vs, List.replicate 32 (0 : Int))
    let r := qBump st.1 (List.zipWith (fun a v => a + rneScaled v (138 - (st.1 : Int))) st.2 vs)
    let n := if r.2 then 1 else 0
    match r.1, col with
    | .num e a, some (.num ce cm) =>
      let f := max e ce
      let q := qBump f (List.zipWith (fun x y => asr x (f - e) + asr y (f - ce)) a cm)
      (q.1, n + if q.2 then 1 else 0)
    | b, _ => (b, n)

/-! ### SPARSE (R298 to R300) -/

/-- A block of 256 elements: its entries, index and FP32 value. -/
inductive SpBlock where
  | nan
  | poison
  | entries (l : List (Nat × F32))
  deriving DecidableEq, Repr

/-- k by SPK. -/
def spK (spk : BitVec 2) : Nat := 8 * 2 ^ spk.toNat

def decodeSp (k : Nat) (bs : List Byte) : List SpBlock :=
  let h := bytesNat (bs.take 8)
  ((chunks (5 * k) (bs.drop 8)).zipIdx).map fun b =>
    if h.testBit (16 + b.2) then .poison
    else if h.testBit b.2 then .nan
    else .entries ((chunks 5 b.1).map fun e => (bytesNat (e.take 1), BitVec.ofNat 32 (bytesNat (e.drop 1))))

def encodeSp (k : Nat) (l : List SpBlock) : List Byte :=
  let h := (l.zipIdx).foldl (fun h b => h + match b.1 with
    | .nan => 2 ^ b.2
    | .poison => 2 ^ (16 + b.2)
    | .entries _ => 0) 0
  natBytes 8 h ++ l.flatMap fun b => match b with
    | .entries es => es.flatMap fun e => natBytes 1 e.1 ++ natBytes 4 e.2.toNat
    | _ => natBytes (5 * k) 0

/-- The value at an index of a block; absent entries are +0. -/
def SpBlock.at (b : Option SpBlock) (i : Nat) : Val :=
  match b with
  | some (.entries l) => ((l.find? fun e => decide (e.1 = i)).map fun e => f32Val e.2).getD .zero
  | _ => .zero

/-- The k elements of largest magnitude, ties to the lower index, in ascending index. -/
def largest (k : Nat) (xs : List F32) : List (Nat × F32) :=
  let m (x : F32) : Nat := x.toNat % 2 ^ 31
  let ix := xs.zipIdx
  (ix.filter fun e => decide ((ix.filter fun o =>
    decide (m e.1 < m o.1) || (decide (m e.1 = m o.1) && decide (o.2 < e.2))).length < k)).map fun e => (e.2, e.1)

/-- combine of R299 on one block: the block sent, and the residual, which none leaves as it is. -/
def spCombine (k : Nat) (col row : Option SpBlock) (own res : List (Option Val)) : SpBlock × Option (List F32) :=
  if own.any (· = none) ∨ res.any (· = none) ∨ col = some .poison ∨ row = some .poison then (.poison, none)
  else
    let g := own.filterMap id
    let r := res.filterMap id
    if (g ++ r).any (fun v => !v.isFinite) ∨ col = some .nan ∨ row = some .nan ∨
        ((List.range 256).any fun i => !(SpBlock.at col i).isFinite || !(SpBlock.at row i).isFinite) then (.nan, none)
    else
      let xs := ((List.zip g r).zipIdx).map fun e => f32Of (sumVals [SpBlock.at col e.2, SpBlock.at row e.2, e.1.1, e.1.2])
      let sel := largest k xs
      (.entries sel, some ((xs.zipIdx).map fun e => if sel.any (fun q => decide (q.1 = e.2)) then 0 else e.1))

/-! ### The wire image of a chunk -/

/-- A chunk on the wire. -/
inductive Wire where
  | pair (l : List PairElem)
  | q12 (l : List QBlock)
  | sparse (l : List SpBlock)
  deriving DecidableEq, Repr

def Wire.decode (wire spk : BitVec 2) (bs : List Byte) : Wire :=
  if wire = 0 then .pair (decodePairs bs) else if wire = 1 then .q12 (decodeQ bs) else .sparse (decodeSp (spK spk) bs)

def Wire.encode (spk : BitVec 2) : Wire → List Byte
  | .pair l => encodePairs l
  | .q12 l => encodeQ l
  | .sparse l => encodeSp (spK spk) l

/-- Payload bytes of a full packet, and bytes of a chunk. -/
def packetBytes (wire : BitVec 2) : Nat := if wire = 1 then 245 else 256
def chunkBytes (wire spk : BitVec 2) : Nat :=
  if wire = 0 then 65536 else if wire = 1 then 6272 else 8 + 80 * spK spk
def chunkPackets (wire spk : BitVec 2) : Nat := (chunkBytes wire spk + packetBytes wire - 1) / packetBytes wire

/-- The elements of a chunk: value, or none where poisoned. -/
def Wire.values : Wire → List (Option Val)
  | .pair l => l.map fun e => e.map fun p => pairVal p.1 p.2
  | .q12 l => l.flatMap fun b => match b with
    | .nan => List.replicate 32 (some (.nan false))
    | .poison => List.replicate 32 none
    | .num e m => m.map fun v => some ((Val.ofInt v).mul (.pow2 ((e : Int) - 138)))
  | .sparse l => l.flatMap fun b => match b with
    | .nan => List.replicate 256 (some (.nan false))
    | .poison => List.replicate 256 none
    | .entries es => (List.range 256).map fun i => some (SpBlock.at (some (.entries es)) i)

/-! ### Started buckets -/

def State.setBucket (s : State) (b : Bucket) : State :=
  { s with disp := { s.disp with buckets := s.disp.buckets.map fun q => if q.cmd = b.cmd then b else q } }
def State.bucketOf? (s : State) (cmd : Nat) : Option Bucket := s.disp.buckets.find? fun b => decide (b.cmd = cmd)

def Bucket.chunks (b : Bucket) : Nat := (b.elems + 4095) / 4096

/-- The member's place in the chain: row and column predecessors, and successor. -/
structure ChainPlace where
  row : Option Coord
  col : Option Coord
  succ : Option Coord
  deriving DecidableEq, Repr

def State.chainPlace (s : State) (group : Nat) : ChainPlace :=
  let g := s.grp group
  let r := (s.rankIn? g).getD 0
  let c (k : Nat) : Coord := (s.memberOf g k).coord
  ⟨(g.rowPred r).map c, (g.colPred r).map c, (g.succ? r).map c⟩

def ChainPlace.preds (p : ChainPlace) : List Coord := p.row.toList ++ p.col.toList
def ChainPlace.all (p : ChainPlace) : List Coord := p.preds ++ p.succ.toList

/-- A chunk's packets go to a member. -/
def State.sendWire (s : State) (b : Bucket) (gather : Bool) (d : Coord) (c : Nat) (image : List Byte) : State :=
  match s.route s.place (Place.ofCoord d) with
  | none => s
  | some r =>
    ((chunks (packetBytes b.wire) image).zipIdx).foldl (fun s e =>
      let pk : Packet :=
        { key := 0, addr := BitVec.ofNat 40 (b.id.toNat * 256 + b.group * 16 + (if gather then 8 else 0) + b.wire.toNat)
          job := b.job, tag := BitVec.ofNat 12 e.2, srcMaster := 0xF0, tc := 0, priv := 1, len := e.1.length
          waypoint := 0, wpValid := false, detour := false, vc := 2, src := s.self, dst := d, mcCount := 0, mcDir := false
          mcAxis := false, status := BitVec.ofNat 8 (c / 256), detail := BitVec.ofNat 8 c, op := 0x40, pmask := 0
          payload := e.1 }
      s.launchPacket pk r 2) s

/-- The packets of a chunk from a member, joined; none while one is missing. -/
def Bucket.image (b : Bucket) (gather : Bool) (src : Coord) (c : Nat) : Option (List Byte) :=
  let mine := b.rx.filter fun p => decide (p.gather = gather) && decide (p.src = src) && decide (p.chunk = c)
  (List.range (chunkPackets b.wire b.spk)).foldl (fun acc i =>
    match acc, mine.find? (fun p => decide (p.index = i)) with
    | some l, some p => some (l ++ p.payload)
    | _, _ => none) (some [])

/-- A chunk's packets have been used. -/
def Bucket.drop (b : Bucket) (gather : Bool) (c : Nat) : Bucket :=
  { b with rx := b.rx.filter fun p => !(decide (p.gather = gather) && decide (p.chunk = c)) }

/-- Elements of a list that are infinite or NaN. -/
def badVals (vs : List (Option Val)) : Nat := (vs.filter fun v => match v with | some x => !x.isFinite | none => false).length

/-- This member's elements of a chunk. -/
def State.ownChunk (s : State) (b : Bucket) (c : Nat) : List OutElem × State :=
  s.readElems collAttr (b.src + 4096 * c * elemBytes b.sfmt) 4096 b.sfmt

/-- The value of an element; none where poisoned. -/
def elemVal (fmt : BitVec 4) (e : OutElem) : Option Val := if e.2 then none else some (fmtDecode fmt e.1)

/-- combine with this member's contribution, over the images received. A non-finite element that is converted, to a pair or
to a Q12 block, is counted (R91, R293, R295). -/
def State.combine (s : State) (b : Bucket) (c : Nat) (col row : Option (List Byte)) : Wire × State :=
  let q := s.ownChunk b c
  let s := q.2
  let vs := q.1.map (elemVal b.sfmt)
  match b.wire.toNat with
  | 0 =>
    (.pair (combinePairs (col.map decodePairs)
      ((row.map decodePairs).getD (List.replicate 4096 (some (.zero, .zero)))) (q.1.map (elemPair b.sfmt))),
      if b.sfmt = 10 then s else s.nfCount b.tclass (badVals vs) 0x0A 0)
  | 1 =>
    let at' (x : Option (List QBlock)) (i : Nat) : Option QBlock := x.map fun l => l.getD i .nan
    let cols := col.map decodeQ
    let rows := row.map decodeQ
    let r := ((chunks 32 vs).zipIdx).map fun e => qCombine b.e0 (at' cols e.2) (at' rows e.2) e.1
    let bumps := r.foldl (fun n x => n + x.2) 0
    (.q12 (r.map (·.1)), (s.odAdd Od.scaleBumpCount bumps).nfCount b.tclass (badVals vs) 0x0A 0)
  | _ =>
    let at' (x : Option (List SpBlock)) (i : Nat) : Option SpBlock := x.map fun l => l.getD i .nan
    let cols := col.map (decodeSp (spK b.spk))
    let rows := row.map (decodeSp (spK b.spk))
    let base := b.res + 4 * 4096 * c
    let rq := s.readElems collAttr base 4096 0
    let rs := chunks 256 (rq.1.map (elemVal 0))
    let r := ((chunks 256 vs).zipIdx).map fun e =>
      spCombine (spK b.spk) (at' cols e.2) (at' rows e.2) e.1 (rs.getD e.2 [])
    (.sparse (r.map (·.1)), (r.zipIdx).foldl (fun s e => match e.1.2 with
      | none => s
      | some xs => s.writeElems collAttr b.cmd (base + 1024 * e.2) 0 (xs.map fun x => (x.toNat, false))) rq.2)

/-- The FP32 amax of finite magnitudes; one beyond the FP32 range stands as the largest finite number (log 71). -/
def f32Amax (m : Val) : F32 := BitVec.ofNat 32 (fmtEncode 0 false .rne m).1

/-- `gather_chunk`: the chunk is written at DST and sent to the members from which its reduction came. NONFINITE, POISON and
the amax are those of the result as it stands at DST (R290). -/
def State.gatherChunk (s : State) (b : Bucket) (c : Nat) (w : Wire) (image : List Byte) : State :=
  let vs := w.values
  let r := convertRow b.dfmt b.ccw (fun _ => ccwMode b.ccw 0 0 0 0 0 0) vs
  let s := s.writeElems collAttr b.cmd (b.dst + 4096 * c * elemBytes b.dfmt) b.dfmt r.1
  let s := s.nfCount b.tclass r.2.2.2 0x0A 0
  let ds := r.1.map (elemVal b.dfmt)
  let b := (b.drop true c)
  let s := s.setBucket
    { b with gathered := c + 1, nonfinite := b.nonfinite || decide (0 < badVals ds), poison := b.poison || ds.any (· = none)
             amax := f32Amax (maxAbs (f32Val b.amax :: (ds.filterMap id).filter Val.isFinite)) }
  (s.chainPlace b.group).preds.foldl (fun s d => s.sendWire b true d c image) s

/-- The next chunk is reduced: its inputs are in and its successor, if there is one, is ready (R287, R289). -/
def State.reduceNext (s : State) (b : Bucket) : Option State :=
  let c := b.reduced
  let p := s.chainPlace b.group
  let row := p.row.map fun d => b.image false d c
  let col := p.col.map fun d => b.image false d c
  if b.chunks ≤ c ∨ row = some none ∨ col = some none then none
  else
    match p.succ with
    | some d =>
      if b.ready.contains d then
        let r := s.combine b c col.join row.join
        some ((r.2.setBucket { b.drop false c with reduced := c + 1 }).sendWire b false d c (r.1.encode b.spk))
      else none
    | none =>
      let r := s.combine b c col.join row.join
      let b := { b.drop false c with reduced := c + 1 }
      some ((r.2.setBucket b).gatherChunk b c r.1 (r.1.encode b.spk))

/-- The next chunk is gathered: it has come back from the successor. -/
def State.gatherNext (s : State) (b : Bucket) : Option State :=
  match (s.chainPlace b.group).succ with
  | none => none
  | some d => (b.image true d b.gathered).map fun im => s.gatherChunk b b.gathered (Wire.decode b.wire b.spk im) im

/-- A bucket goes on as far as it can (fuel: the steps of its chunks). -/
def State.bucketRun : Nat → State → Nat → State
  | 0, s, _ => s
  | k + 1, s, cmd =>
    match s.bucketOf? cmd with
    | none => s
    | some b =>
      match s.reduceNext b with
      | some s' => State.bucketRun k s' cmd
      | none =>
        match s.gatherNext b with
        | some s' => State.bucketRun k s' cmd
        | none => s

def State.bucketGo (s : State) (cmd : Nat) : State :=
  match s.bucketOf? cmd with
  | none => s
  | some b => s.bucketRun (2 * b.chunks + 1) cmd

/-! ### Commands -/

/-- A free bucket slot. -/
def State.freeSlot (s : State) : Option Nat :=
  (List.range 8).find? fun i => !s.disp.buckets.any fun b => decide (b.slot = i)

/-- The readiness flits of a bucket. -/
def flitIs (f : CollFlit) (job : BitVec 16) (group : Nat) (id : BitVec 32) : Bool :=
  decide (f.job = job) && decide (f.group.toNat = group) && decide (f.value = id)

/-- A checked BUCKET_POST starts in a slot: it tells its predecessors that it is ready and begins (R286, R287). -/
def State.startBucket (s : State) (c : Cmd) (slot : Nat) : State :=
  let s := (s.startCmd c).2
  let e := s.ledgerE0 c.job c.bkLedger.toNat
  let s := e.2
  let mine := s.disp.readies.filter fun f => flitIs f c.job c.bkGroup c.bkId
  let b : Bucket :=
    { cmd := c.serial, slot := slot, group := c.bkGroup, job := c.job, id := c.bkId, elems := s.bkElems c, wire := c.bkWire
      spk := c.bkSpk, sfmt := c.bkSfmt, dfmt := c.bkDfmt, ccw := c.bkCcw, tclass := c.bkTclass, ledger := c.bkLedger
      e0 := e.1, src := c.bkSrc, dst := c.bkDst, res := c.bkRes, ready := mine.map (·.src), rx := [], reduced := 0
      gathered := 0, nonfinite := false, poison := false, amax := 0
      deadline := s.clk.now + 1000000 * s.odGet Od.collTimeout }
  let s := { s with disp := { s.disp with
    buckets := s.disp.buckets ++ [b], readies := s.disp.readies.filter fun f => !(flitIs f c.job c.bkGroup c.bkId) } }
  let s := (s.chainPlace b.group).preds.foldl (fun s d =>
    s.sendCtrl 0x10 (s.flitTo (Place.ofCoord d) b.job b.group b.id Status.ok false 0)) s
  s.bucketGo c.serial

/-- BUCKET_POST: checks, then a slot; with none free the dispatcher holds the command (R286). -/
def execBucketPost (cmd : Nat) (s : State) : Outcome := withRoom (.bucketPost cmd) s <|
  .next (s.onCmd cmd 0x0010 fun s c =>
    match s.collChecks c c.bkGroup ((s.bkRanges c).map fun r => (r.1, r.2.1, c.bkKey, r.2.2)) (s.bkRefused c) false with
    | some r => r.2.commit c r.1 0
    | none => match s.freeSlot with
      | none => s
      | some i => s.startBucket c i)

/-- A bucket leaves its slot. -/
def State.dropBucket (s : State) (cmd : Nat) : State :=
  { s with disp := { s.disp with buckets := s.disp.buckets.filter fun b => decide (b.cmd ≠ cmd) } }

/-- BUCKET_POST_COMMIT: DST, RES and every owed gather chunk are done (R290, R344, R351). -/
def execBucketPostCommit (cmd : Nat) (s : State) : Outcome := withRoom (.bucketPostCommit cmd) s <|
  match s.bucketOf? cmd, s.cmd? cmd with
  | some b, some c =>
    if b.gathered = b.chunks ∧ s.linesAcked b.dst (b.elems * elemBytes b.dfmt) ∧
        (!sparse b.wire ∨ s.linesAcked b.res (4 * b.elems)) then
      let s := (s.settle cmd).dropBucket cmd
      let s := s.ledgerAmax b.job b.ledger.toNat b.amax
      let s := s.odAdd Od.bucketsDone 1
      let s := match s.jobSlot? b.job with
        | some i =>
          if b.nonfinite && (s.odGet (Od.gradClassMask i)).testBit (b.tclass.toNat % 16) then s.setNfStep i 0 b.id.toNat else s
        | none => s
      .next (s.commit c Status.ok ((if b.nonfinite then 1 else 0) ||| if b.poison then 2 else 0)).pump
    else .next s
  | _, _ => .next s

/-- A started bucket ends without a result: BKT_ABORT goes along its chain edges, but not to the member that started the
abort (R292). The slot of the flit has no place for that member; the flit's source as the commands name it is it (log 30). -/
def State.endBucket (s : State) (b : Bucket) (cause : BitVec 8) (starter : Coord) : State :=
  let s := (s.chainPlace b.group).all.foldl (fun s d =>
    if d = starter then s
    else s.sendCtrl 0x11 { s.flitTo (Place.ofCoord d) b.job b.group b.id Status.aborted false 0 with src := starter }) s
  let s := ((s.settle b.cmd).dropBucket b.cmd).scramble b.dst (b.elems * elemBytes b.dfmt)
  let s := if sparse b.wire then s.scramble b.res (4 * b.elems) else s
  let s := (s.odAdd Od.bucketsAborted 1).event 0x0A 0 0x0401 sevWarning
    [(16, 4, b.id.toNat), (20, 1, b.group), (21, 1, cause.toNat), (22, 2, starter.toNat)]
  match s.cmd? b.cmd with
  | none => s
  | some c => (s.commit c Status.aborted (BitVec.ofNat 16 (256 * cause.toNat))).pump

/-- BKT_READY from the successor lets chunks go; one for a bucket not yet started is kept (R287). -/
def execBktReady (fl : CollFlit) (s : State) : Outcome := withRoom (.bktReady fl) s <|
  .next (s.onFlit 0x10 fl fun s =>
    match s.bucket? fl.job fl.group.toNat fl.value with
    | some b => (s.setBucket { b with ready := fl.src :: b.ready }).bucketGo b.cmd
    | none => { s with disp := { s.disp with readies := s.disp.readies ++ [fl] } })

/-- BKT_ABORT ends the bucket on a member that has not committed it; readiness kept for that bucket is void (R292). -/
def execBktAbort (fl : CollFlit) (s : State) : Outcome := withRoom (.bktAbort fl) s <|
  .next (s.onFlit 0x11 fl fun s =>
    match s.bucket? fl.job fl.group.toNat fl.value with
    | some b => s.endBucket b Status.aborted fl.src
    | none => { s with disp := { s.disp with
        readies := s.disp.readies.filter fun f => !flitIs f fl.job fl.group.toNat fl.value } })

/-- A collective packet that matches nothing started is discarded (R301). -/
def State.collDiscard (s : State) (pk : Packet) : State :=
  let a := pk.addr.toNat
  (s.odAdd Od.collDiscarded 1).event 0x0A 0 0x0402 sevWarning
    [(16, 4, a / 256), (20, 1, a / 16 % 16), (21, 1, a / 8 % 2), (22, 2, pk.src.toNat), (24, 2, pk.job.toNat)]

/-- Chunk number of a collective packet. -/
def chunkNo (pk : Packet) : Nat := 256 * pk.status.toNat + pk.detail.toNat

/-- Whether a bucket takes a packet: it comes from a member that owes it, in the bucket's wire format, with the length of
its index, and not twice. -/
def State.bucketTakes (s : State) (b : Bucket) (pk : Packet) : Bool :=
  let a := pk.addr.toNat
  let gather := decide (a / 8 % 2 = 1)
  let p := s.chainPlace b.group
  let i := pk.tag.toNat
  let n := min (packetBytes b.wire) (chunkBytes b.wire b.spk - packetBytes b.wire * i)
  decide (a % 8 = b.wire.toNat) && decide (i < chunkPackets b.wire b.spk) && decide (pk.payload.length = n) &&
  decide (chunkNo pk < b.chunks) &&
  (if gather then decide (p.succ = some pk.src) && decide (b.gathered ≤ chunkNo pk)
    else p.preds.contains pk.src && decide (b.reduced ≤ chunkNo pk)) &&
  !b.rx.any fun r => decide (r.gather = gather) && decide (r.src = pk.src) && decide (r.chunk = chunkNo pk) &&
    decide (r.index = i)

/-- COLL_DATA (R289, R301). -/
def execCollData (port : Nat) (pk : Packet) (s : State) : Outcome := withRoom (.collData port pk) s <|
  if pk.op ≠ 0x40 then .next s
  else .next (s.onPacket port pk fun s =>
    let a := pk.addr.toNat
    match s.bucket? pk.job (a / 16 % 16) (BitVec.ofNat 32 (a / 256)) with
    | none => s.collDiscard pk
    | some b =>
      if s.bucketTakes b pk then
        let r : RxPkt := ⟨decide (a / 8 % 2 = 1), pk.src, chunkNo pk, pk.tag.toNat, pk.payload⟩
        (s.setBucket { b with rx := b.rx ++ [r] }).bucketGo b.cmd
      else s.collDiscard pk)

end Sys2Proof.Machine
end

