-- ==== Sys2Proof/Machine/Launch.lean ====
section
/-!
DEFINITION. LAUNCH: its checks, its start and its commit, and the stop of a LAUNCH by an abort (R172 to R175, R136, R142,
R152, R156, R198, R215).
-/

namespace Sys2Proof.Machine

/-- The cores that CLUSTER_MASK and CORE_MASK select, ascending. -/
def Cmd.launchCores (c : Cmd) : List Nat :=
  (List.range 128).filter fun n => (c.arg 352 8).testBit (n / 16) && (c.arg 360 16).testBit (n % 16)

def Cmd.entry (c : Cmd) : Nat := c.arg 192 40
def Cmd.paramAddr (c : Cmd) : Nat := c.arg 240 40
def Cmd.excAddr (c : Cmd) : Nat := c.arg 288 40
def Cmd.excSlots (c : Cmd) : Nat := c.arg 336 16
def Cmd.groupsField (c : Cmd) : Nat := c.arg 376 5

/-- A range lies wholly in the HBM of a side. -/
def State.inHbm (s : State) (side : Side) (a n : Nat) : Bool := s.mapped side a n && decide (regionOf a = .hbm)

/-- The conditions under which a LAUNCH is REFUSED (R174). -/
def State.launchRefused (s : State) (c : Cmd) : Bool :=
  let side := s.jobSide c.job
  c.bad ||
  decide (c.arg 352 8 = 0) || decide (c.arg 360 16 = 0) || decide (15 < c.groupsField) ||
  (c.launchCores.any fun n => !s.coreMapped n || !side.sees (s.clusterSide (n / 16)) || s.coreFailed n) ||
  decide (c.entry % 8 ≠ 0) || decide (c.paramAddr % 256 ≠ 0) ||
  !s.inHbm side c.entry 8 || !s.inHbm side c.paramAddr 256 ||
  (decide (0 < c.excSlots) && (decide (c.excAddr % 64 ≠ 0) || !s.inHbm side c.excAddr (64 * c.excSlots))) ||
  decide (c.arg 390 122 ≠ 0) || decide (c.arg 381 3 ≠ 0) || decide (c.arg 328 8 ≠ 0) || decide (c.arg 280 8 ≠ 0) ||
  decide (c.arg 232 8 ≠ 0)

/-- The 32 words of a parameter block. -/
def paramWords (bs : List Byte) : List (BitVec 64) :=
  (List.range 32).map fun i => BitVec.ofNat 64 (bytesNat ((bs.drop (8 * i)).take 8))

/-- A LAUNCH that passed its checks waits for its cores. -/
def State.queueLaunch (s : State) (c : Cmd) (params : List (BitVec 64)) : State :=
  let l : Launch :=
    { cmd := c.serial, cores := c.launchCores, vregs := 8 * (c.arg 384 5 + 1), groups := c.groupsField + 1
      excPolicy := decide (c.arg 389 1 = 1), excSlots := c.excSlots, excAddr := c.excAddr
      entry := BitVec.ofNat 40 c.entry, params := params, started := false, aborted := none, excStop := false
      flags := 0, gateIdle := 0, firstCause := 0, excCount := 0, excWritten := 0, excTime := 0, excBase := 0
      excTies := [], areaFull := false }
  { s.setCmd { c with phase := .waiting } with disp := { (s.setCmd { c with phase := .waiting }).disp with
    launches := s.disp.launches ++ [l] } }

/-- LAUNCH: the dispatcher checks the command and reads its parameter block (R174). -/
def execLaunch (cmd : Nat) (s : State) : Outcome := withRoom (.launch cmd) s <|
  .next (s.onCmd cmd 0x0001 fun s c =>
    if s.launchRefused c then s.commit c Status.refused 0
    else
      let q := s.devRead dispAttr c.paramAddr 256
      if q.1.2.any id then q.2.commit c Status.poisoned 0 else q.2.queueLaunch c (paramWords q.1.1))

/-- A group at its start (R175). -/
def Group.start (entry : BitVec 40) (params : List (BitVec 64)) : Group :=
  let g : Group :=
    { pc := entry, active := 0xFFFFFFFF, live := 0xFFFFFFFF, stack := [], v := [], u := [], d := [], p := []
      hold := .none, resp := [], fails := [], locks := 0, cbars := 0 }
  (List.range 32).foldl (fun g i => g.uSet i (params.getD i 0)) g

/-- A core at the start of a LAUNCH: tags empty, weights and pairs zero, tokens FREE, its groups in their slots, the flag
word clear and MX_GATE_IDLE sampled (R171, R175, R214). -/
def Core.begin (c : Core) (l : Launch) : Core :=
  { c with
    launch := some l.cmd, groups := (List.range l.groups).map fun i => (i, Group.start l.entry l.params)
    tokens := [], ops := [], acc := [], accMark := [], wbuf := [], wPoison := [], wScale := [], wTags := []
    gateIdle := l.gateIdle, flagLast := 0, flagSticky := 0, stopAt := none }

/-- A core runs no group (R172). -/
def Core.free (c : Core) : Bool := c.groups.isEmpty && c.ops.isEmpty

/-- A LAUNCH may start: its cores have no groups of another; no LAUNCH taken earlier that still waits, checked or not, names
one of them (R172); and no UPDATE_STEP holds or waits for them (R336). -/
def State.launchMay (s : State) (l : Launch) : Bool :=
  !l.started && s.working && (l.cores.all fun n => (s.core n).free) &&
    (!s.disp.launches.any fun q => !q.started && decide (q.cmd < l.cmd) && l.cores.any fun n => q.cores.contains n) &&
    (!s.disp.cmds.any fun c => decide (c.opcode = 0x0001) && decide (c.phase = .taken) && decide (c.serial < l.cmd) &&
      l.cores.any fun n => c.launchCores.contains n) &&
    !s.disp.updates.any fun u => (u.applied || decide (u.cmd < l.cmd)) && l.cores.any fun n => u.cores.contains n

/-- A core goes to a LAUNCH that starts: the flags of the LAUNCH before stay with it until it commits (R172, R215). -/
def State.beginCore (s : State) (l : Launch) (n : Nat) : State :=
  let c := s.core n
  let s := match s.launchOf n with
    | some q => s.setLaunch { q with flags := q.flags ||| c.flagSticky }
    | none => s
  s.setCore n (c.begin l)

/-- A LAUNCH that leaves the dispatcher. -/
def State.dropLaunch (s : State) (cmd : Nat) : State :=
  { s with disp := { s.disp with launches := s.disp.launches.filter fun q => decide (q.cmd ≠ cmd) } }

/-- LAUNCH_START (R172, R175); a LAUNCH of which a core has failed meanwhile is REFUSED (R392). -/
def execLaunchStart (cmd : Nat) (s : State) : Outcome := withRoom (.launchStart cmd) s <|
  match s.launch? cmd, s.cmd? cmd with
  | some l, some c =>
    if s.launchMay l then
      if l.cores.any s.coreFailed then .next ((s.dropLaunch cmd).commit c Status.refused 0).pump
      else
        let s := (s.startCmd c).2
        let l := { l with started := true, gateIdle := s.odGet Od.mxGateIdle }
        .next (l.cores.foldl (fun s n => s.beginCore l n) (s.setLaunch l)).pump
    else .next s
  | _, _ => .next s

/-- The cores that the LAUNCH has and no later one has taken over. -/
def State.launchHas (s : State) (l : Launch) : List Nat := l.cores.filter fun n => decide ((s.core n).launch = some l.cmd)

/-- Every group and operation of the LAUNCH has ended. -/
def State.launchOver (s : State) (l : Launch) : Bool := l.started && (s.launchHas l).all fun n => (s.core n).free

/-- What the commit points of a slot at the present timestamp have added: steps to SR_STEP, and flags. A write at the same
timestamp applies before them (R102, R343). -/
def State.tieAdds (s : State) (i : Nat) : Nat × BitVec 6 :=
  let e := SMap.get (0, 0, 0) s.disp.ended i
  if e.1 = s.clk.now then e.2 else (0, 0)

/-- A commit point of a slot is noted with what it adds. -/
def State.noteEnd (s : State) (i steps : Nat) (fl : BitVec 6) : State :=
  let e := s.tieAdds i
  { s with disp := { s.disp with
    ended := SMap.set (0, 0, 0) s.disp.ended i (s.clk.now, e.1 + steps, e.2 ||| fl) } }

/-- Flags go into the arithmetic-flag word of the job (R215, R343). -/
def State.orJobFlags (s : State) (job : BitVec 16) (fl : BitVec 6) : State :=
  match s.jobSlot? job with
  | some i => (s.odSet (Od.jobArithFlags i) (s.odGet (Od.jobArithFlags i) ||| fl.toNat)).noteEnd i 0 fl
  | none => s

/-- LAUNCH_COMMIT (R174, R215). An aborted LAUNCH commits at the abort's timestamp (R75, log 51). -/
def execLaunchCommit (cmd : Nat) (s : State) : Outcome := withRoom (.launchCommit cmd) s <|
  match s.launch? cmd, s.cmd? cmd with
  | some l, some c =>
    if s.launchOver l then
      let has := s.launchHas l
      let s := s.orJobFlags c.job (has.foldl (fun f n => f ||| (s.core n).flagSticky) l.flags)
      let s := has.foldl (fun s n => s.setCore n { s.core n with launch := none, tokens := [], stopAt := none }) s
      let s := s.dropLaunch cmd
      let detail := BitVec.ofNat 16 (l.firstCause.toNat + 16 * min l.excCount 4095)
      .next (match l.aborted with
        | some (t, e) => s.commitAt c Status.aborted detail t e
        | none => s.commit c (if l.excCount = 0 then Status.ok else Status.aborted) detail).pump
    else .next s
  | _, _ => .next s

/-- On a core whose LAUNCH is aborted, operations that have not started are discarded (R156), and the groups that wait for
nothing outside the core stop. -/
def State.abortCore (s : State) (core : Nat) : State :=
  let c := s.core core
  let s := s.setCore core { c with ops := c.ops.filter fun o => o.started }
  (List.range 16).foldl (fun s sl =>
    match s.group? ⟨core, sl⟩ with
    | some gr =>
      match gr.hold with
      | .response _ | .fence _ | .endFence _ => s
      | _ => s.stopGroup ⟨core, sl⟩
    | none => s) s

/-- A started LAUNCH is aborted, at this time and epoch: its record is written once its groups and operations have ended
(R75, R156, R198). -/
def State.abortLaunch (s : State) (l : Launch) : State :=
  let s := s.setLaunch { l with aborted := some (l.aborted.getD (s.clk.now, s.epoch 0)) }
  (s.launchHas l).foldl State.abortCore s

end Sys2Proof.Machine
end

