-- ==== Sys2Proof/Machine/Update.lean ====
section
/-!
DEFINITION. The parameter update engine (R314 to R336): rule slots, the recurrence, preconditioning, and UPDATE_STEP with its
commit.
-/

namespace Sys2Proof.Machine

/-! ### Rule slots (R314 to R316) -/

/-- A slot of the active bank. -/
structure RuleSlot where
  c : List Val
  wfmt : BitVec 4
  sfmt : BitVec 4
  ccw : BitVec 16
  precond : Nat
  rootP : Nat
  precT : Nat
  eps : Val
  iters : Nat

def State.rule (s : State) (i : Nat) : RuleSlot :=
  { c := (List.range 16).map fun j => s.odF32 (Od.ruleActiveCoef i j)
    wfmt := BitVec.ofNat 4 (s.odGet (Od.ruleActiveWfmt i)), sfmt := BitVec.ofNat 4 (s.odGet (Od.ruleActiveSfmt i))
    ccw := BitVec.ofNat 16 (s.odGet (Od.ruleActiveCcw i)), precond := s.odGet (Od.ruleActivePrecond i)
    rootP := s.odGet (Od.ruleActiveRootP i), precT := s.odGet (Od.ruleActivePrecondT i)
    eps := s.odF32 (Od.ruleActivePrecondEps i), iters := s.odGet (Od.ruleActiveNewtonIters i) }

def RuleSlot.co (r : RuleSlot) (i : Nat) : Val := r.c.getD i .zero
def RuleSlot.usesM (r : RuleSlot) : Bool := [2, 3, 6].any fun i => !(r.co i).isZero
def RuleSlot.usesV (r : RuleSlot) : Bool := [4, 5, 9].any fun i => !(r.co i).isZero

/-- Block size; 0 without preconditioning. -/
def RuleSlot.block (r : RuleSlot) : Nat := 128 * r.precond

/-! ### The recurrence (R319 to R321) -/

/-- `round_fp32` with its flags. No rule of the update engine defines INV for a product of zero and infinity or a difference
of infinities: the NaN that it gives is rounded, and reports NANIN, the model's choice (log 71). -/
def roundF (v : Val) : Val × FlagVec := (f32Round v, (Dest.fp32.encode true .rne v).2)

/-- `clamp` of R319. -/
def clampTo (x c : Val) : Val :=
  if c.isInf then x else if c.lt x then c else if x.lt c.neg then c.neg else x

/-- `sign` of R319; a NaN, of which R319 states no sign, stays a NaN. -/
def signOf (x : Val) : Val := if x.isZero || x.isNaN then x else if x.sign then Val.one.neg else Val.one

/-- `scale_grad` of R319. -/
def RuleSlot.scaleGrad (r : RuleSlot) (g : Val) : Val × FlagVec := roundF ((r.co 0).mul g)

/-- `update_element` of R319: the exact results, or none where R321 leaves the element unchanged, with the flags of the
roundings (R322). -/
def RuleSlot.element (r : RuleSlot) (w m v h : Val) : Option (Val × Val × Val) × FlagVec :=
  let g1 := roundF (h.add ((r.co 15).mul w))
  let gt := clampTo g1.1 (r.co 1)
  let gt := if (r.co 12).eq (Val.ofInt 2) then signOf gt else gt
  let mx := ((r.co 2).mul m).add ((r.co 3).mul gt)
  let vx := ((r.co 4).mul v).add ((r.co 5).mul (gt.mul gt))
  let old := (r.co 14).eq Val.one
  let mu := if old then (m, 0) else roundF mx
  let vu := if old then (v, 0) else roundF vx
  let q := roundF (((r.co 6).mul mu.1).add ((r.co 7).mul gt))
  let base := roundF (vu.1.add (r.co 8))
  let rr : Val × FlagVec :=
    if (r.co 9).isZero then (Val.one, 0)
    else
      let x := chainFunction (if (r.co 9).eq Val.one.neg then 3 else 4) (f32Of base.1)
      (f32Val x.1, base.2 ||| x.2)
  let u0 := roundF (q.1.mul rr.1)
  let u := clampTo (if (r.co 12).eq Val.one then signOf u0.1 else u0.1) (r.co 13)
  let a9 := roundF (Val.one.sub (r.co 10))
  let wx := (w.mul a9.1).sub ((r.co 11).mul u)
  let fl := g1.2 ||| mu.2 ||| vu.2 ||| q.2 ||| rr.2 ||| u0.2 ||| a9.2
  (if [w, m, v, h, g1.1, mu.1, vu.1, q.1, rr.1, u, wx].all Val.isFinite then some (wx, mx, vx) else none, fl)

/-! ### The list (R323, R324) -/

/-- An entry of the update list. -/
structure UpdEntry where
  tclass : BitVec 8
  gfmt : BitVec 4
  cols : Nat
  idxBase : BitVec 56
  count : Nat
  p : Nat
  v : Nat
  m : Nat
  g : Nat
  w : Nat
  key : BitVec 32
  reserved : Nat

def UpdEntry.ofNat (x : Nat) : UpdEntry :=
  let f (lo n : Nat) : Nat := x / 2 ^ lo % 2 ^ n
  { tclass := BitVec.ofNat 8 (f 504 8), gfmt := BitVec.ofNat 4 (f 500 4), cols := f 480 20, idxBase := BitVec.ofNat 56 (f 424 56)
    count := f 384 40, p := f 344 40, v := f 304 40, m := f 264 40, g := f 224 40, w := f 184 40
    key := BitVec.ofNat 32 (f 152 32), reserved := f 0 152 }

/-- A range of an entry: its code in UPD_POISON, its address and bytes, and whether the engine writes it. -/
structure UpdRange where
  code : Nat
  addr : Nat
  len : Nat
  written : Bool

/-- Blocks of a preconditioned entry: along rows, and along columns. -/
def UpdEntry.blocks (e : UpdEntry) (b : Nat) : Nat × Nat := (e.count / e.cols / b, e.cols / b)

def UpdEntry.ranges (e : UpdEntry) (r : RuleSlot) : List UpdRange :=
  let b := r.block
  [⟨0, e.w, 2 * e.count, true⟩, ⟨3, e.g, e.count * elemBytes e.gfmt, false⟩] ++
    (if r.usesM then [⟨1, e.m, 2 * e.count, true⟩] else []) ++ (if r.usesV then [⟨2, e.v, 2 * e.count, true⟩] else []) ++
    (if b = 0 then [] else [⟨4, e.p, (e.blocks b).1 * (e.blocks b).2 * 16 * b * b, true⟩])

/-- The region entry of an entry's weights. -/
def State.updRegion (s : State) (e : UpdEntry) : Option (BitVec 128) := s.region? e.w (2 * e.count)

/-- The rule slot of an entry; slot 0 where no region holds its weights, which the key check reports. -/
def State.updRule (s : State) (e : UpdEntry) : RuleSlot := s.rule (((s.updRegion e).map regSlot).getD 0)

def Cmd.upKey (c : Cmd) : BitVec 32 := BitVec.ofNat 32 (c.arg 480 32)
def Cmd.upMask (c : Cmd) : Nat := c.arg 472 8
def Cmd.upCount (c : Cmd) : Nat := c.arg 432 32
def Cmd.upList (c : Cmd) : Nat := c.arg 360 40

/-- Engines present on the job's side; those that take part. -/
def State.upPresent (s : State) (c : Cmd) : List Nat :=
  (List.range 8).filter fun n => decide (n < s.dev.clustersOn) && (s.jobSide c.job).sees (s.clusterSide n)
def State.upEngines (s : State) (c : Cmd) : List Nat :=
  if c.upMask = 0 then s.upPresent c else (s.upPresent c).filter fun n => c.upMask.testBit n

/-- The cores that a command occupies: all of its engines' clusters where an entry is preconditioned (R336). -/
def State.upCores (s : State) (c : Cmd) (es : List UpdEntry) : List Nat :=
  if es.any fun e => decide (0 < (s.updRule e).block) then
    (s.upEngines c).flatMap fun n => (List.range' (16 * n) 16).filter s.coreMapped
  else []

/-! ### Checks (R325) -/

/-- Entry fields and ranges that are REFUSED. -/
def State.entryRefused (s : State) (side : Side) (e : UpdEntry) (r : RuleSlot) : Bool :=
  let rs := e.ranges r
  let b := r.block
  decide (e.reserved ≠ 0) || !bucketFmt e.gfmt || decide (e.count % 32 ≠ 0) || decide (e.count < 32) ||
  (rs.any fun x => !s.inHbm side x.addr x.len || decide (x.addr % (if x.code = 4 then 256 else 64) ≠ 0)) ||
  (decide (0 < b) && (decide (e.cols = 0) || decide (e.cols % b ≠ 0) || decide (e.count % (e.cols * b) ≠ 0))) ||
  (rs.any fun x => rs.any fun y => decide (x.code < y.code) && overlaps x.addr x.len y.addr y.len)

/-- A written range of one entry overlaps a range of another. -/
def entriesOverlap (l : List (List UpdRange)) : Bool :=
  (l.zipIdx).any fun a => (l.zipIdx).any fun b => decide (a.2 ≠ b.2) && a.1.any fun x => x.written && b.1.any fun y =>
    overlaps x.addr x.len y.addr y.len

/-- Key checks of an entry. -/
def updKeys (e : UpdEntry) (r : RuleSlot) : List (Nat × Nat × BitVec 32 × Access) :=
  (e.ranges r).flatMap fun x => (x.addr, x.len, e.key, Access.read) ::
    if x.written then [(x.addr, x.len, e.key, Access.write)] else []

/-- The check of a command that found failures. -/
def State.failChecks (s : State) (c : Cmd) (ks : List (Nat × Status × BitVec 8)) (notFound refused frozen : Bool) :
    Option (Status × State) :=
  (firstStatus [(ks.any fun k => decide (k.2.1 = Status.denied), Status.denied), (notFound, Status.notFound),
    (ks.any fun k => decide (k.2.1 = Status.keyMismatch), Status.keyMismatch), (refused, Status.refused),
    (frozen, Status.frozen)]).map fun st =>
    (st, if st = Status.denied ∨ st = Status.keyMismatch then
        s.rangeRefused c.job (some st) ks else s)

/-- What the checks of an UPDATE_STEP come to: a status, or the list. -/
inductive UpdCheck where
  | fails (st : Status) (s : State)
  | ok (es : List UpdEntry) (s : State)

/-- The list is read and checked. A command that needs a failed core is REFUSED (R392). -/
def State.updCheck (s : State) (c : Cmd) : UpdCheck :=
  let side := s.jobSide c.job
  let len := 64 * c.upCount
  let engines := (List.range 8).any fun n => c.upMask.testBit n && !(s.upPresent c).contains n
  let argsBad := c.bad || decide (c.arg 464 8 ≠ 0) || decide (c.arg 400 32 ≠ 0) || decide (c.arg 192 168 ≠ 0) ||
    decide (c.upCount = 0) || decide (65536 < c.upCount) || decide (c.upList % 64 ≠ 0) || !s.inHbm side c.upList len
  match s.failChecks c (s.rangeChecks [(c.upList, len, c.upKey, .read)])
      (engines || (decide (0 < len) && !s.mapped side c.upList len)) argsBad false with
  | some f => .fails f.1 f.2
  | none =>
    let q := s.devRead (devAttr (0xE0 + (s.upEngines c).headD 0) 1) c.upList len
    let s := q.2
    if q.1.2.any id then .fails Status.poisoned s
    else
      let es := (chunks 64 q.1.1).map fun b => UpdEntry.ofNat (bytesNat b)
      let rs := es.map fun e => (e, s.updRule e)
      match s.failChecks c (s.rangeChecks (rs.flatMap fun e => updKeys e.1 e.2))
          (rs.any fun e => (e.1.ranges e.2).any fun x => decide (0 < x.len) && !s.mapped side x.addr x.len)
          ((rs.any fun e => s.entryRefused side e.1 e.2) || entriesOverlap (rs.map fun e => e.1.ranges e.2) ||
            (s.upCores c es).any s.coreFailed)
          (es.any fun e => ((s.updRegion e).map fun r => regFrozen r && regStrict r).getD false) with
      | some f => .fails f.1 f.2
      | none => .ok es s

/-! ### Spans (R328, R329) -/

/-- A span or block before its first element. -/
def UpdSpan.start (engine : Nat) (tclass : BitVec 8) : UpdSpan := ⟨engine, tclass, 0, 0, 0, 0, 0, none, 0, []⟩

/-- What stays the same over an entry: the command, its owner number, the slot, and the entry. -/
structure UpdCtx where
  cmd : Cmd
  rule : RuleSlot
  e : UpdEntry
  /-- number of the entry in the list -/
  idx : Nat

/-- The eight words of 32 elements of a 16-bit range, in two bursts, each with its poison; zeros where the range is not
used. -/
def State.lanes (s : State) (used : Bool) (a : Nat) : List (BitVec 64 × Bool) × State :=
  if used then s.readWords .demand (List.range' (a / 8) 8) else (List.replicate 8 (0, false), s)

/-- Bits of element `j` of a word of four. -/
def lane16 (w : BitVec 64) (j : Nat) : Nat := (w.extractLsb' (16 * j) 16).toNat

/-- A gradient as read: its value, or the address of its first poisoned word. -/
abbrev Grad := Except Nat Val

/-- The gradients of 32 elements from element `i`. -/
def State.gradRun (s : State) (e : UpdEntry) (i : Nat) : List Grad × State :=
  let n := elemBytes e.gfmt
  let a := e.g + i * n
  let q := s.readBytes a (32 * n) .demand
  (((chunks n q.1.1).zipIdx).map fun b =>
    let lo := b.2 * n
    match (List.range' (lo / 8) ((lo + n + 7) / 8 - lo / 8)).find? fun j => q.1.2.getD j false with
    | some j => .error (8 * (a / 8 + j))
    | none => .ok (fmtDecode e.gfmt (bytesNat b.1)), q.2)

/-- A 16-bit lane of a word in memory takes new bits. -/
def putLane (j bits : Nat) (x : CodeWord) : CodeWord :=
  codeWord (mergeBytes (deliver x).1 (2 * j) (natBytes 2 bits)) (deliver x).2

/-- One element of four: the new bits of w, m and v. -/
def UpdCtx.convert (u : UpdCtx) (e : Nat) (x : Val × Val × Val) : (Nat × Nat × Nat) × FlagVec :=
  let k := u.rule.ccw
  let st (d : Nat) : BitVec 16 := (ccwStream k + BitVec.ofNat 8 d) ++ k.extractLsb' 0 8
  let cv (d : Nat) (fmt : BitVec 4) (v : Val) : Nat × FlagVec :=
    fmtEncode fmt (ccwOvf k) (ccwMode (st d) u.cmd.seed u.cmd.step u.e.idxBase 0 0 e) v
  let w := cv 0 u.rule.wfmt x.1
  let m := cv 1 u.rule.sfmt x.2.1
  let v := cv 2 u.rule.sfmt x.2.2
  ((w.1, m.1, v.1),
    w.2 ||| (if u.rule.usesM then m.2 else 0) ||| if u.rule.usesV then v.2 else 0)

/-- A word of each range, as delivered. -/
structure UpdWords where
  w : BitVec 64 × Bool
  m : BitVec 64 × Bool
  v : BitVec 64 × Bool

/-- Four elements from element `i`, from their words and their gradients as scaled or preconditioned, with the flags of the
scaling. -/
def UpdCtx.four (u : UpdCtx) (i : Nat) (x : UpdWords) (hs : List (Grad × FlagVec)) (a : UpdSpan × State) :
    UpdSpan × State :=
  let e := u.e
  let bad : Option (Nat × Nat) :=
    if x.w.2 then some (e.w + 2 * i, 0) else if x.m.2 then some (e.m + 2 * i, 1)
    else if x.v.2 then some (e.v + 2 * i, 2) else none
  (hs.zipIdx).foldl (fun (a : UpdSpan × State) h =>
    let acc := a.1
    let j := h.2
    match bad, h.1.1 with
    | some f, _ => ({ acc with poison := acc.poison + 1, first := acc.first.or (some f) }, a.2)
    | none, .error ga => ({ acc with poison := acc.poison + 1, first := acc.first.or (some (ga, 3)) }, a.2)
    | none, .ok g =>
      let r := u.rule.element (fmtDecode u.rule.wfmt (lane16 x.w.1 j)) (fmtDecode u.rule.sfmt (lane16 x.m.1 j))
        (fmtDecode u.rule.sfmt (lane16 x.v.1 j)) g
      let acc := { acc with flags := acc.flags ||| h.1.2 ||| r.2 }
      match r.1 with
      | none => ({ acc with nonfin := acc.nonfin + 1 }, a.2)
      | some y =>
        let c := u.convert (i + j) y
        let s := a.2.engineWrite u.cmd.serial ((e.w + 2 * i) / 8) (putLane j c.1.1)
        let s := if u.rule.usesM then s.engineWrite u.cmd.serial ((e.m + 2 * i) / 8) (putLane j c.1.2.1) else s
        let s := if u.rule.usesV then s.engineWrite u.cmd.serial ((e.v + 2 * i) / 8) (putLane j c.1.2.2) else s
        ({ acc with elems := acc.elems + 1, flags := acc.flags ||| c.2 }, s)) a

/-- 32 elements from element `i`: their words are read burst by burst (R232), and four elements are taken at a time. -/
def UpdCtx.run (u : UpdCtx) (i : Nat) (hs : List (Grad × FlagVec)) (a : UpdSpan × State) : UpdSpan × State :=
  let w := a.2.lanes true (u.e.w + 2 * i)
  let m := w.2.lanes u.rule.usesM (u.e.m + 2 * i)
  let v := m.2.lanes u.rule.usesV (u.e.v + 2 * i)
  let none_ : BitVec 64 × Bool := (0, false)
  ((chunks 4 hs).zipIdx).foldl (fun a h =>
    u.four (i + 4 * h.2) ⟨w.1.getD h.2 none_, m.1.getD h.2 none_, v.1.getD h.2 none_⟩ h.1 a) (a.1, v.2)

/-- The span has met the gradients of a list: the non-finite ones count in its class (R321). -/
def UpdSpan.meets (a : UpdSpan) (gs : List Grad) : UpdSpan :=
  { a with grads := a.grads + (gs.filter fun g => match g with | .ok x => !x.isFinite | .error _ => false).length }

/-- Reads and writes of `n` elements from element `i` are counted at the memories (R452). -/
def UpdCtx.count (u : UpdCtx) (engine i n : Nat) (s : State) : State :=
  let at_ := devAttr (0xE0 + engine) 1
  let e := u.e
  let gb := elemBytes e.gfmt
  let st (used : Bool) (a : Nat) (s : State) : State :=
    if used then (s.countSpan at_ 0 (a + 2 * i) (2 * n)).countSpan at_ 1 (a + 2 * i) (2 * n) else s
  (st u.rule.usesV e.v (st u.rule.usesM e.m (st true e.w s))).countSpan at_ 0 (e.g + i * gb) (n * gb)

/-- A span of an entry without preconditioning: elements `i` to `i + n - 1`. -/
def UpdCtx.span (u : UpdCtx) (engine i n : Nat) (s : State) : UpdSpan × State :=
  (List.range (n / 32)).foldl (fun a k =>
    let g := a.2.gradRun u.e (i + 32 * k)
    let hs := g.1.map fun x => match x with
      | .error p => ((.error p : Grad), (0 : FlagVec))
      | .ok x =>
        let h := u.rule.scaleGrad x
        (.ok h.1, h.2)
    u.run (i + 32 * k) hs (a.1.meets g.1, g.2)) (UpdSpan.start engine u.e.tclass, u.count engine i n s)

/-! ### Preconditioning (R333 to R335) -/

abbrev Matrix' := List (List Val)

def matAt (m : Matrix') (i j : Nat) : Val := (m.getD i []).getD j .zero
def matT (m : Matrix') : Matrix' := (List.range m.length).map fun j => m.map fun r => r.getD j .zero

/-- The pair of a product's element: `reference_dot` in the FP32 class. -/
def dotPair (a b : List Val) : DotState × FlagVec :=
  let gs := (chunks 16 (a.zip b)).map fun ps => groupSum .fp32 ps 0
  let d := referenceDot .fp32 1 (gs.map (·.1)) .zero .zero
  (d, gs.foldl (fun f g => f ||| g.2) d.flags)

/-- Flags of a list of results. -/
def orFlags (l : List (Val × FlagVec)) : FlagVec := l.foldl (fun f x => f ||| x.2) 0

/-- A matrix whose element (i, j) is `f` of row i of `a` and column j of `b`. -/
def matWith (f : Nat → Nat → List Val → List Val → Val × FlagVec) (a b : Matrix') : Matrix' × FlagVec :=
  let bt := matT b
  let m := (a.zipIdx).map fun r => (bt.zipIdx).map fun c => f r.2 c.2 r.1 c.1
  (m.map fun r => r.map (·.1), m.foldl (fun x r => x ||| orFlags r) 0)

/-- A product (R334). -/
def matMul (a b : Matrix') : Matrix' × FlagVec :=
  matWith (fun _ _ r c =>
    let d := dotPair r c
    let v := roundF (pairVal d.1.head d.1.tail)
    (v.1, d.2 ||| v.2)) a b

/-- A product added to a matrix, one rounding per element (R163). -/
def matAddMul (l a b : Matrix') : Matrix' × FlagVec :=
  matWith (fun i j r c =>
    let d := dotPair r c
    let v := roundF ((pairVal d.1.head d.1.tail).add (matAt l i j))
    (v.1, d.2 ||| v.2)) a b

/-- A matrix changed element by element. -/
def matMap (f : Nat → Nat → Val → Val × FlagVec) (a : Matrix') : Matrix' × FlagVec :=
  let m := (a.zipIdx).map fun r => (r.1.zipIdx).map fun c => f r.2 c.2 c.1
  (m.map fun r => r.map (·.1), m.foldl (fun x r => x ||| orFlags r) 0)

def matId (n : Nat) : Matrix' := (List.range n).map fun i => (List.range n).map fun j => if i = j then .one else .zero

/-- The value divided by 2^k. -/
def scaleDown (v : Val) (k : Nat) : Val := v.mul (.pow2 (-(k : Int)))

/-- log2 of p, which is 1, 2 or 4. -/
def log2p (p : Nat) : Nat := if p = 4 then 2 else if p = 2 then 1 else 0

/-- The square of a matrix, `k` times (R335). -/
def matSquares : Nat → Matrix' × FlagVec → Matrix' × FlagVec
  | 0, x => x
  | k + 1, x =>
    let q := matMul x.1 x.1
    matSquares k (q.1, x.2 ||| q.2)

/-- One Newton iteration on (X, M). -/
def rootStep (p : Nat) (x : (Matrix' × Matrix') × FlagVec) : (Matrix' × Matrix') × FlagVec :=
  let t := matMap (fun i j m =>
    roundF (scaleDown ((if i = j then Val.ofInt (p + 1) else .zero).sub m) (log2p p))) x.1.2
  let x1 := matMul x.1.1 t.1
  let sq := matSquares (log2p p) (t.1, 0)
  let m1 := matMul sq.1 x.1.2
  ((x1.1, m1.1), x.2 ||| t.2 ||| x1.2 ||| sq.2 ||| m1.2)

/-- The iterations. -/
def rootIter (p : Nat) : Nat → (Matrix' × Matrix') × FlagVec → (Matrix' × Matrix') × FlagVec
  | 0, x => x
  | k + 1, x => rootIter p k (rootStep p x)

/-- The SUMSQ of a matrix read as one row, rounded (R212, R335). -/
def matSumsq (d : Matrix') : Val × FlagVec :=
  let r := (chunks 128 (d.flatMap id)).foldl (fun r b => rowBeat (BitVec.ofNat 256 (4 * 2 ^ 128)) r (b.map f32Of))
    ⟨0, .zero, .zero, 0⟩
  let v := roundF (pairVal r.h r.t)
  (v.1, r.flags ||| v.2)

/-- `inv_root` of R335; none where the recomputation fails. -/
def invRoot (a : Matrix') (p iters : Nat) (eps : Val) : Option Matrix' × FlagVec :=
  let d := matMap (fun i j x => if i = j then roundF (x.add eps) else (x, 0)) a
  let sm := matSumsq d.1
  let fl := d.2 ||| sm.2
  if sm.1.isZero then (none, fl)
  else
    let zn := chainFunction 4 (f32Of sm.1)
    let z := roundF ((scaleDown (Val.ofInt (p + 1)) 1).mul (f32Val zn.1))
    let lg := chainFunction 2 (f32Of z.1)
    let ex := roundF (scaleDown (f32Val lg.1) (log2p p))
    let xs := chainFunction 1 (f32Of ex.1)
    let x0 := matMap (fun _ _ v => if v.isZero then (v, 0) else (f32Val xs.1, 0)) (matId a.length)
    let m0 := matMap (fun _ _ v => roundF (z.1.mul v)) d.1
    let r := rootIter p iters ((x0.1, m0.1), fl ||| zn.2 ||| z.2 ||| lg.2 ||| ex.2 ||| xs.2 ||| m0.2)
    let bad := (r.1.1.any fun q => q.any fun v => !v.isFinite) || ((r.1.2.zipIdx).any fun q => (q.1.zipIdx).any fun v =>
      !v.1.isFinite || (Val.pow2 (-10)).lt (v.1.sub (if q.2 = v.2 then .one else .zero)).abs)
    (if bad then none else some r.1.1, r.2)

/-- An FP32 matrix of a record: its values, and the address of the first word that is delivered poisoned. -/
def State.readMatrix (s : State) (at_ : Attr) (addr b : Nat) : (Matrix' × Option Nat) × State :=
  let q := s.readElems at_ addr (b * b) 0
  ((chunks b (q.1.map fun e => fmtDecode 0 e.1), (q.1.findIdx? (·.2)).map fun i => (addr + 4 * i) / 8 * 8), q.2)

/-- An FP32 matrix is written to a record. -/
def State.writeMatrix (s : State) (at_ : Attr) (owner addr : Nat) (m : Matrix') : State :=
  s.writeElems at_ owner addr 0 ((m.flatMap id).map fun v => ((f32Of v).toNat, false))

/-- A root is recomputed: a failure is noted with its entry, block and side (R335). -/
def UpdSpan.root (a : UpdSpan) (entry blk side : Nat) (x : Option Matrix' × FlagVec) : UpdSpan :=
  { a with
    roots := a.roots + 1, flags := a.flags ||| x.2
    rootFails := if x.1.isNone then a.rootFails ++ [(entry, blk, side)] else a.rootFails }

/-- `precondition_block` of R334 on block (i, j) of the matrix view. -/
def UpdCtx.blockStep (u : UpdCtx) (engine i j : Nat) (s : State) : UpdSpan × State :=
  let e := u.e
  let b := u.rule.block
  let at_ := devAttr (0xE0 + engine) 1
  let blk := i * (e.cols / b) + j
  let addr := e.p + blk * 16 * b * b
  let elem (x : Nat) : Nat := (i * b + x) * e.cols + j * b
  -- the gradients, row by row
  let g := (List.range b).foldl (fun (acc : List (List Grad) × State) x =>
    let r := (List.range (b / 32)).foldl (fun (q : List Grad × State) k =>
      let f := q.2.gradRun e (elem x + 32 * k)
      (q.1 ++ f.1, f.2)) ([], u.count engine (elem x) b acc.2)
    (acc.1 ++ [r.1], r.2)) ([], s)
  let acc := (UpdSpan.start engine e.tclass).meets g.1.flatten
  let l := g.2.readMatrix at_ addr b
  let rs := l.2.readMatrix at_ (addr + 4 * b * b) b
  let pl := rs.2.readMatrix at_ (addr + 8 * b * b) b
  let pr := pl.2.readMatrix at_ (addr + 12 * b * b) b
  let s := pr.2
  let recBad := ((l.1.2.or rs.1.2).or pl.1.2).or pr.1.2
  let gBad := g.1.flatten.findSome? fun x => match x with
    | .error p => some p
    | .ok _ => none
  match (gBad.map fun p => (p, 3)).or (recBad.map fun p => (p, 4)) with
  | some f => ({ acc with poison := b * b, first := some f }, s)
  | none =>
    let gb := matMap (fun _ _ v => u.rule.scaleGrad v) (g.1.map fun r => r.filterMap Except.toOption)
    let gt := matT gb.1
    let l1 := matAddMul l.1.1 gb.1 gt
    let r1 := matAddMul rs.1.1 gt gb.1
    let acc := { acc with flags := gb.2 ||| l1.2 ||| r1.2 }
    let due := decide (u.cmd.step.toNat % u.rule.precT = 0)
    let xl := if due then invRoot l1.1 u.rule.rootP u.rule.iters u.rule.eps else (none, 0)
    let xr := if due then invRoot r1.1 u.rule.rootP u.rule.iters u.rule.eps else (none, 0)
    let acc := if due then (acc.root u.idx blk 0 xl).root u.idx blk 1 xr else acc
    let y := matMul gb.1 (xr.1.getD pr.1.1)
    let h := matMul (xl.1.getD pl.1.1) y.1
    let own := u.cmd.serial
    let s := (s.writeMatrix at_ own addr l1.1).writeMatrix at_ own (addr + 4 * b * b) r1.1
    let s := match xl.1 with | some m => s.writeMatrix at_ own (addr + 8 * b * b) m | none => s
    let s := match xr.1 with | some m => s.writeMatrix at_ own (addr + 12 * b * b) m | none => s
    (h.1.zipIdx).foldl (fun a r => ((chunks 32 r.1).zipIdx).foldl (fun a q =>
      u.run (elem r.2 + 32 * q.2) (q.1.map fun v => ((.ok v : Grad), (0 : FlagVec))) a) a)
      ({ acc with flags := acc.flags ||| y.2 ||| h.2 }, s)

/-! ### UPDATE_STEP (R325 to R329, R336) -/

/-- A span or block of `n` elements is done: the words that it has written bear its number, and its elements are counted, in
units of 64 (R331, R452). -/
def UpdCtx.spanDone (u : UpdCtx) (n : Nat) (l : List UpdSpan) (x : UpdSpan × State) : List UpdSpan × State :=
  let s := { x.2 with racy := x.2.racy.map fun (r : RacyWord) =>
    if r.owner = u.cmd.serial ∧ r.part = 0 then { r with part := l.length + 1 } else r }
  (l ++ [x.1], s.count (0x3200 + x.1.engine) 0x0206 ((n + 63) / 64) Attr.none)

/-- An entry's spans or blocks, after those in the list, each on the engine whose turn it is (R328). -/
def UpdCtx.entry (u : UpdCtx) (engines : List Nat) (a : List UpdSpan × State) : List UpdSpan × State :=
  let eng (l : List UpdSpan) : Nat := engines.getD (l.length % engines.length) 0
  let wr := ((u.e.ranges u.rule).filter (·.written)).foldl (fun s x => s.coherentWrite x.addr x.len) a.2
  if u.rule.block = 0 then
    (List.range ((u.e.count + 65535) / 65536)).foldl (fun a i =>
      let m := min 65536 (u.e.count - 65536 * i)
      u.spanDone m a.1 (u.span (eng a.1) (65536 * i) m a.2)) (a.1, wr)
  else
    let nb := u.e.blocks u.rule.block
    (List.range (nb.1 * nb.2)).foldl (fun a k =>
      u.spanDone (u.rule.block * u.rule.block) a.1 (u.blockStep (eng a.1) (k / nb.2) (k % nb.2) a.2)) (a.1, wr)

/-- Entries whose region is frozen are left whole (R327). -/
def State.updFrozen (s : State) (e : UpdEntry) : Bool := ((s.updRegion e).map regFrozen).getD false

/-- The cores are free, and nothing taken earlier waits for one of them (R172, R336). -/
def State.coresFree (s : State) (cmd : Nat) (cores : List Nat) : Bool :=
  (cores.all fun n => (s.core n).free) &&
  (!s.disp.launches.any fun q => !q.started && decide (q.cmd < cmd) && cores.any fun n => q.cores.contains n) &&
  (!s.disp.cmds.any fun c => decide (c.opcode = 0x0001) && decide (c.phase = .taken) && decide (c.serial < cmd) &&
    cores.any fun n => c.launchCores.contains n) &&
  !s.disp.updates.any fun u => decide (u.cmd ≠ cmd) && (u.applied || decide (u.cmd < cmd)) &&
    cores.any fun n => u.cores.contains n

/-- DETAIL of R330. -/
def UpdateRun.detail (u : UpdateRun) : BitVec 16 :=
  (if u.spans.any fun a => decide (0 < a.nonfin) then 1 else 0) |||
  (if u.spans.any fun a => decide (0 < a.poison) then 2 else 0) ||| (if u.frozen then 4 else 0) |||
  (if u.spans.any fun a => decide (0 < a.roots) then 8 else 0) |||
  (if u.spans.any fun a => !a.rootFails.isEmpty then 16 else 0)

/-- The flag vector of a command (R322). -/
def UpdateRun.flags (u : UpdateRun) : FlagVec := u.spans.foldl (fun f a => f ||| a.flags) 0

def State.setUpdate (s : State) (u : UpdateRun) : State :=
  { s with disp := { s.disp with updates := u :: s.disp.updates.filter fun q => decide (q.cmd ≠ u.cmd) } }
def State.update? (s : State) (cmd : Nat) : Option UpdateRun := s.disp.updates.find? fun u => decide (u.cmd = cmd)
def State.dropUpdate (s : State) (cmd : Nat) : State :=
  { s with disp := { s.disp with updates := s.disp.updates.filter fun u => decide (u.cmd ≠ cmd) } }

/-- The spans of a checked command are applied; they stay in flight until it commits (R332). -/
def State.applyUpdate (s : State) (c : Cmd) (es : List UpdEntry) (cores : List Nat) : State :=
  let engines := s.upEngines c
  let live := (es.zipIdx).filter fun e => !s.updFrozen e.1
  let cold := es.filter s.updFrozen
  let r := live.foldl (fun (a : List UpdSpan × State) e => UpdCtx.entry ⟨c, s.updRule e.1, e.1, e.2⟩ engines a) ([], s)
  let s := r.2.odAdd Od.updFrozenElems (cold.foldl (fun n e => n + e.count) 0)
  let s := if cold.isEmpty then s
    else s.event 0x06 (engines.headD 0) 0x0502 sevInfo [(16, 4, c.cmdId.toNat), (20, 4, cold.length)]
  s.setUpdate ⟨c.serial, true, false, !cold.isEmpty, r.1, cores⟩

/-- A command that has passed its checks starts: the flag is sampled, and the step is skipped or applied (R326). The sample
point ends its timestamp: what is served after it bears a later one, so that no setting of the flag ties with it (R345,
log 74). -/
def State.startUpdate (s : State) (c : Cmd) (es : List UpdEntry) (cores : List Nat) : State :=
  let q := s.startCmd c
  let c := q.1
  let s := q.2
  let f := match s.jobSlot? c.job with
    | some i => s.samplePoint i
    | none => (false, s)
  (if f.1 then f.2.setUpdate ⟨c.serial, true, true, false, [], cores⟩ else f.2.applyUpdate c es cores).pass 1

/-- A SNAPSHOT holds the job's UPDATE_STEPs from its switch time to its commit (R360). -/
def State.snapHolds (s : State) (job : BitVec 16) : Bool :=
  s.disp.snaps.any fun n => n.reached.isSome && decide (((s.cmd? n.cmd).map (·.job)) = some job)

/-- An UPDATE_STEP whose turn it is. -/
def State.updTurn (s : State) (c : Cmd) : Bool :=
  decide (c.opcode = 0x0020) && !s.snapHolds c.job &&
  (s.checkable c || (decide (c.phase = .waiting) && s.working))

/-- UPDATE_STEP (R325 to R329). A command with a preconditioned entry waits until its cores are free (R336). -/
def execUpdateStep (cmd : Nat) (s : State) : Outcome := withRoom (.updateStep cmd) s <|
  match s.cmd? cmd with
  | none => .next s
  | some c =>
    if s.updTurn c then
      match s.updCheck c with
      | .fails st s => .next (((s.dropUpdate cmd).commit c st 0).pump)
      | .ok es s1 =>
        let cores := s1.upCores c es
        if s1.coresFree cmd cores then .next (s1.startUpdate c es cores).pump
        else .next ((s1.setCmd { c with phase := .waiting }).setUpdate ⟨cmd, false, false, false, [], cores⟩).pump
    else .next s

/-- A commit point of an UPDATE_STEP at which SR_STEP advances: the job's ledger rolls (R102, R330, R352). -/
def State.stepDone (s : State) (job : BitVec 16) : State :=
  match s.jobSlot? job with
  | some i => ((s.odSet (Od.srStep i) ((s.odGet (Od.srStep i) + 1) % 2 ^ 64)).noteEnd i 1 0).rollLedger i
  | none => s

/-- What the spans of a command have come to is counted and logged: elements, non-finite gradients, roots, and the first
poisoned address (R321, R329, R335). -/
def State.countUpdate (s : State) (c : Cmd) (u : UpdateRun) : State :=
  let sum (f : UpdSpan → Nat) : Nat := u.spans.foldl (fun n a => n + f a) 0
  let s := ((((s.odAdd Od.updElems (sum (·.elems))).odAdd Od.updNonfiniteElems (sum (·.nonfin))).odAdd
    Od.updPoisonElems (sum (·.poison))).odAdd Od.rootRecomputes (sum (·.roots))).odAdd Od.rootFails (sum (·.rootFails.length))
  let s := u.spans.foldl (fun s a => s.nfCount a.tclass a.grads 0x06 a.engine) s
  let s := u.spans.foldl (fun s a => a.rootFails.foldl (fun s f => s.event 0x06 a.engine 0x0504 sevWarning
    [(16, 4, c.cmdId.toNat), (20, 4, f.1), (24, 4, f.2.1), (28, 1, f.2.2)]) s) s
  match u.spans.findSome? fun a => a.first.map fun f => (a.engine, f) with
  | none => s
  | some f => s.event 0x06 f.1 0x0503 sevError [(16, 5, f.2.1), (21, 1, f.2.2), (24, 4, c.cmdId.toNat)]

/-- A command that leaves its step out is counted and logged (R326). -/
def State.countSkip (s : State) (c : Cmd) : State :=
  (s.odAdd Od.updSkipCount 1).event 0x06 ((s.upEngines c).headD 0) 0x0501 sevWarning
    [(16, 4, c.cmdId.toNat), (20, 2, c.ring), (24, 8, c.step.toNat)]

/-- The end of an UPDATE_STEP that has started: what it has come to, its flags, SR_STEP and the ledger's roll (R322, R330,
R352). -/
def State.endUpdate (s : State) (c : Cmd) (u : UpdateRun) (st : Status) : State :=
  ((((s.countUpdate c u).dropUpdate c.serial).orJobFlags c.job u.flags).stepDone c.job).commit c st u.detail

/-- Every range that the command writes has its lines acknowledged (R274). -/
def State.updAcked (s : State) : Bool := !s.fab.invWaits.any fun v => v.response.isNone && !v.waiting.isEmpty

/-- UPDATE_STEP_COMMIT (R330). -/
def execUpdateStepCommit (cmd : Nat) (s : State) : Outcome := withRoom (.updateStepCommit cmd) s <|
  match s.update? cmd, s.cmd? cmd with
  | some u, some c =>
    if u.applied ∧ s.updAcked then
      .next (if u.skipped then ((s.settle cmd).countSkip c).endUpdate c u Status.nonfiniteSkip
        else (s.settle cmd).endUpdate c u Status.ok).pump
    else .next s
  | _, _ => .next s

/-- The spans that are done when an abort stops the engines, by number: of each engine's, in their order, a free number
(R331, log 54). -/
def State.spansDone (s : State) (u : UpdateRun) : List Nat × State :=
  (List.range 8).foldl (fun (a : List Nat × State) n =>
    let mine := (List.range u.spans.length).filter fun k => decide ((u.spans[k]?.map (·.engine)) = some n)
    if mine.isEmpty then a else (a.1 ++ mine.take (a.2.fresh.1 % (mine.length + 1)), a.2.fresh.2)) ([], s)

/-- A started UPDATE_STEP is stopped: the spans and blocks that are done keep their results, and elsewhere each word that it
writes holds its old or its new value (R331). -/
def State.abortUpdate (s : State) (c : Cmd) (u : UpdateRun) : State :=
  let d := s.spansDone u
  let s := { d.2 with racy := d.2.racy.filter fun r =>
    !(decide (r.owner = c.serial) && d.1.any fun k => decide (k + 1 = r.part)) }
  let done := (List.range u.spans.length).filterMap fun k => if d.1.contains k then u.spans[k]? else none
  (s.unsettle c.serial).endUpdate c { u with spans := done } Status.aborted

end Sys2Proof.Machine
end

