-- ==== Sys2Proof/Machine/Snapshot.lean ====
section
/-!
DEFINITION. SNAPSHOT: the copy of main-side memory into the evaluation partition at an epoch (R359 to R361).
-/

namespace Sys2Proof.Machine

def Cmd.snSrcKey (c : Cmd) : BitVec 32 := BitVec.ofNat 32 (c.arg 480 32)
def Cmd.snDstKey (c : Cmd) : BitVec 32 := BitVec.ofNat 32 (c.arg 448 32)
def Cmd.snEpoch (c : Cmd) : BitVec 32 := BitVec.ofNat 32 (c.arg 416 32)
def Cmd.snCtx (c : Cmd) : Nat := c.arg 412 4
def Cmd.snStamp (c : Cmd) : Nat := c.arg 360 40
def Cmd.snLen (c : Cmd) : Nat := c.arg 320 40
def Cmd.snDst (c : Cmd) : Nat := c.arg 272 40
def Cmd.snSrc (c : Cmd) : Nat := c.arg 232 40

/-- A range lies in the partition. -/
def State.inPartition (s : State) (a n : Nat) : Bool :=
  decide (s.evalBase ≤ a) && decide (a + n ≤ hbmEnd)

/-- The conditions under which a SNAPSHOT is REFUSED (R359, R360). -/
def State.snRefused (s : State) (c : Cmd) : Bool :=
  c.bad || decide (s.odGet Od.evalActiveClusters = 0) || decide (s.jobSide c.job = .eval) ||
  !s.inHbm .main c.snSrc c.snLen || !s.inPartition c.snDst c.snLen || !s.inPartition c.snStamp 32 ||
  overlaps c.snDst c.snLen c.snStamp 32 || decide (c.arg 400 12 ≠ 0) || decide (c.arg 312 8 ≠ 0) ||
  decide (c.arg 192 40 ≠ 0) || decide (c.snSrc % 256 ≠ 0) || decide (c.snDst % 256 ≠ 0) || decide (c.snStamp % 32 ≠ 0) ||
  decide (c.snLen % 256 ≠ 0) || decide (c.snLen < 256) || !epochLater (s.epoch c.snCtx) c.snEpoch

/-- SNAPSHOT: a checked command is started and waits for its epoch (R360). -/
def execSnapshot (cmd : Nat) (s : State) : Outcome := withRoom (.snapshot cmd) s <|
  .next (s.onCmd cmd 0x0030 fun s c =>
    let ranges := [(c.snSrc, c.snLen), (c.snDst, c.snLen), (c.snStamp, 32)]
    match s.failChecks c (s.rangeChecks [(c.snSrc, c.snLen, c.snSrcKey, .read), (c.snDst, c.snLen, c.snDstKey, .write),
        (c.snStamp, 32, c.snDstKey, .write)])
        (ranges.any fun r => (spanParts r.1 r.2).any fun p => decide (0 < p.2) && !s.mapped .both p.1 p.2)
        (s.snRefused c) false with
    | some f => f.2.commit c f.1 0
    | none =>
      let s := (s.startCmd c).2
      { s with disp := { s.disp with snaps := s.disp.snaps ++
        [{ cmd := c.serial, ctx := c.snCtx, epoch := c.snEpoch, src := c.snSrc, dst := c.snDst, len := c.snLen
           stamp := c.snStamp, reached := none, copying := false, poisoned := 0 }] } })

def State.snap? (s : State) (cmd : Nat) : Option SnapRun := s.disp.snaps.find? fun n => decide (n.cmd = cmd)
def State.setSnap (s : State) (n : SnapRun) : State :=
  { s with disp := { s.disp with snaps := s.disp.snaps.map fun q => if q.cmd = n.cmd then n else q } }
def State.dropSnap (s : State) (cmd : Nat) : State :=
  { s with disp := { s.disp with snaps := s.disp.snaps.filter fun n => decide (n.cmd ≠ cmd) } }

/-- Main-side Lighters. -/
def State.mainLighters (s : State) : List Nat :=
  (List.range 16).filter fun n => decide (n / 2 < s.dev.clustersOn) && !s.clusterEval (n / 2)

/-- The copy, in pieces of 256 bytes spread over the Lighters; poison is carried and counted. -/
def State.snapCopy (s : State) (n : SnapRun) : State :=
  let ls := s.mainLighters
  let r := (List.range (n.len / 256)).foldl (fun (a : Nat × State) i =>
    let l := ls.getD (i % ls.length) 0
    let at_ := devAttr (0x80 + l) 1
    let q := a.2.devRead at_ (n.src + 256 * i) 256
    let d := n.dst + 256 * i
    let s := (q.2.count (0x3200 + l / 2) 0x0205 8 { at_ with master := none, addr := some d }).countSpan at_ 1 d 256
    let ws := ((chunks 8 q.1.1).zip q.1.2).zipIdx
    (a.1 + (q.1.2.filter id).length,
      ws.foldl (fun s w => s.writeRacy n.cmd (d / 8 + w.2) (BitVec.ofNat 64 (bytesNat w.1.1)) w.1.2)
        (s.coherentWrite d 256))) (0, s)
  r.2.setSnap { n with copying := true, poisoned := r.1 }

/-- SNAPSHOT_COPY_START: the epoch is reached, and every UPDATE_STEP of the job that started before has committed. -/
def execSnapshotCopyStart (cmd : Nat) (s : State) : Outcome := withRoom (.snapshotCopyStart cmd) s <|
  match s.snap? cmd, s.cmd? cmd with
  | some n, some c =>
    let busy := s.disp.updates.any fun u => u.applied && decide (((s.cmd? u.cmd).map (·.job)) = some c.job)
    if n.reached.isSome ∧ !n.copying ∧ !busy ∧ s.working then .next (s.snapCopy n) else .next s
  | _, _ => .next s

/-- The stamp of R361. -/
def stampBytes (c : Cmd) (n : SnapRun) (t : Nat) (step : BitVec 64) (seq : Nat) : List Byte :=
  natBytes 4 c.cmdId.toNat ++ natBytes 1 n.ctx ++ natBytes 3 0 ++ natBytes 4 seq ++ natBytes 4 n.epoch.toNat ++
  natBytes 8 t ++ natBytes 8 step.toNat

/-- SNAPSHOT_COMMIT: the stamp is written and the held updates are released (R360). -/
def execSnapshotCommit (cmd : Nat) (s : State) : Outcome := withRoom (.snapshotCommit cmd) s <|
  match s.snap? cmd, s.cmd? cmd with
  | some n, some c =>
    match n.reached with
    | none => .next s
    | some (t, step) =>
      if n.copying ∧ s.linesAcked n.dst n.len then
        let s := ((s.settle cmd).dropSnap cmd).odAdd Od.snapshotsDone 1
        let s := s.devWrite watchAttr n.stamp (stampBytes c n t step (s.odGet Od.snapshotsDone))
        let s := s.event 0x15 0 0x0606 sevInfo [(16, 4, c.cmdId.toNat), (20, 4, n.epoch.toNat), (24, 8, step.toNat)]
        .next (s.commit c Status.ok (BitVec.ofNat 16 (256 * min n.poisoned 255))).pump
      else .next s
  | _, _ => .next s

/-- A SNAPSHOT is stopped: during the copy its destination is then undefined, and no stamp is written (R361). -/
def State.abortSnap (s : State) (c : Cmd) (n : SnapRun) : State :=
  let s := (s.settle n.cmd).dropSnap n.cmd
  (if n.copying then s.scramble n.dst n.len else s).commit c Status.aborted 0

end Sys2Proof.Machine
end

