-- ==== Sys2Proof/Machine/Eval.lean ====
section
/-!
DEFINITION. The Jarast table (R61 to R66) and the evaluation slice (R357, R358).
-/

namespace Sys2Proof.Machine

/-! ### The Jarast table -/

/-- Types whose instances are divided between the views. -/
def jarastSplit (t : Nat) : Bool := (decide (2 ≤ t) && decide (t ≤ 6)) || decide (t = 8)

/-- Visible instances of a type on the whole device, each with its cluster where it has one. -/
def State.instances (s : State) (t : Nat) : List (Nat × Option Nat) :=
  let cl := List.range s.dev.clustersOn
  match t with
  | 0x02 | 0x04 | 0x06 => cl.map fun c => (c, some c)
  | 0x03 => ((List.range 128).filter s.coreMapped).map fun n => (n, some (n / 16))
  | 0x05 => cl.flatMap fun c => [(2 * c, some c), (2 * c + 1, some c)]
  | 0x08 => (List.range s.dev.hbmDone).map fun n => (n, none)
  | 0x09 => (List.range 4).map fun n => (n, none)
  | _ => [(0, none)]

/-- The instances that a view shows: an instance of a cluster in the cluster's view, a stack in both while a slice is
reserved, and every other block in the main view (R64). -/
def State.viewInstances (s : State) (eval : Bool) (t : Nat) : List Nat :=
  ((s.instances t).filter fun e => match e.2 with
    | some c => s.clusterEval c == eval
    | none => !eval || (decide (t = 8) && decide (s.odGet Od.evalActiveClusters ≠ 0))).map (·.1)

/-- OD_BASE: the start of the range of R43 that holds the block's entries (log 32). -/
def jarastOdBase (t : Nat) : Nat :=
  match t with
  | 0x01 | 0x0F => 0x1000
  | 0x02 | 0x03 | 0x04 | 0x05 => 0x2100
  | 0x06 => 0x2700
  | 0x07 | 0x09 => 0x2300
  | 0x08 => 0x2200
  | 0x0A | 0x0B | 0x0C => 0x2600
  | 0x0D => 0x6000
  | 0x0E => 0x2400
  | 0x10 | 0x11 => 0x2900
  | 0x12 => 0x1400
  | 0x13 => 0x4000
  | 0x14 => 0x3000
  | _ => 0x2800

/-- ATTR, BASE and STRIDE of a type (R65). -/
def jarastPlace (t : Nat) : Nat × Nat × Nat :=
  match t with
  | 0x01 => (1, 0xE000000000, 0)
  | 0x03 => (5, 0xC100000000, 0x400000)
  | 0x04 => (5, 0xC000000000, 0x2000000)
  | 0x08 => (7, 0, 0)
  | _ => (if jarastSplit t then 4 else 0, 0, 0)

/-- The entry of a type in a view; a type that the view lacks has zeros. -/
def State.writeJarastEntry (s : State) (eval : Bool) (t : Nat) : State :=
  let b := (if eval then 0x1180 else 0x1100) + t
  let l := s.viewInstances eval t
  let all := s.instances t
  let mask := l.foldl (fun m n => m + 2 ^ n) 0
  let p := jarastPlace t
  let vals : List Nat :=
    if l.isEmpty then List.replicate 11 0
    else [t, (Config.jarastVersion (BitVec.ofNat 8 t)).toNat, p.1, l.length, (all.foldl (fun m e => max m (e.1 + 1)) 0),
      jarastOdBase t, if t = 8 ∨ t = 9 then 1 else 0, p.2.1, p.2.2, mask % 2 ^ 64, mask / 2 ^ 64]
  (vals.zipIdx).foldl (fun s v => s.odSet (Od.key b (v.2 + 1)) v.1) s

/-- The table is rewritten: GENERATION passes an odd value and is even again (R63). -/
def State.writeJarast (s : State) : State :=
  let s := (List.range' 1 21).foldl (fun s t => (s.writeJarastEntry false t).writeJarastEntry true t) s
  let n (eval : Bool) : Nat := ((List.range' 1 21).filter fun t => !(s.viewInstances eval t).isEmpty).length
  let gen := s.odGet Od.jarastGeneration + 2
  let s := ((s.odSet Od.jarastGeneration gen).odSet Od.jarastEntryCount (n false)).odSet Od.jarastUpdateTime s.clk.now
  ((s.odSet Od.evalJarastGeneration gen).odSet Od.evalJarastEntryCount (n true)).odSet Od.evalJarastUpdateTime s.clk.now

/-! ### EVAL_COMMIT (R357) -/

/-- The reservation written cannot take effect. -/
def State.evalRefused (s : State) : Bool :=
  let cl := s.odGet Od.evalClusters
  let gib := s.odGet Od.evalHbmGib
  decide (s.dev.state ≠ .ready) || decide (2 < bitCount cl 8) ||
  (decide (cl ≠ 0) && (decide (gib < 1) || decide (384 < gib) || decide (s.odGet Od.evalJob = 0))) ||
  (decide (cl = 0) && decide (gib ≠ 0))

/-- The reservation takes effect, or is released. -/
def State.applyEval (s : State) : State :=
  let cl := s.odGet Od.evalClusters
  let s := s.odSet Od.evalActiveClusters cl
  let s := s.odSet Od.evalHbmBase (if cl = 0 then 0 else hbmEnd - s.odGet Od.evalHbmGib * 2 ^ 30)
  { s with watch := { s.watch with evalJob := BitVec.ofNat 16 (if cl = 0 then 0 else s.odGet Od.evalJob) } }.writeJarast

/-- EVAL_COMMIT: 0x01 applies the reservation (R357). -/
def execEvalCommit (via : OdPath) (v : BitVec 8) (s : State) : Outcome := withRoom (.evalCommit via v) s <|
  .next (s.odRow via 0x2180 0x04 v.toNat (withAccess v.toNat fun s =>
    if v ≠ 1 ∨ s.evalRefused then (Status.refused, s) else (Status.ok, s.applyEval)))

end Sys2Proof.Machine
end

