-- ==== Sys2Proof/Machine/Handoff.lean ====
section
/-!
DEFINITION. SEND and RECV: their checks, the responses to their writes, and the stop and the timeout of a channel (R364,
R366 to R371, R378).
-/

namespace Sys2Proof.Machine

/-! ### Checks (R368) -/

/-- A channel entry that no HANDOFF can use (R366, R367). -/
def State.hoInvalid (s : State) (h : Nat) (side : Side) : Bool :=
  let p := s.hoPeer h
  let ring := s.odGet (Od.hoRingAddr h)
  let ctrl := s.odGet (Od.hoPeerCtrl h)
  decide (s.subst p = s.place) || decide (s.hoCtrl h % 256 ≠ 0) || !s.inHbm side (s.hoCtrl h) 256 ||
  decide (globalPlace ctrl ≠ p) || decide (2 ^ 52 ≤ ctrl) || !regValid (s.hoKey h) ||
  (if s.odGet (Od.hoRole h) = 0 then decide (globalPlace ring ≠ p) || decide (2 ^ 52 ≤ ring)
    else decide (ring % 65536 ≠ 0) || !s.inHbm side ring (s.hoRing h * s.hoChunkSize h))

/-- The peer, or the path to it, leaves the job's rectangle (R364). -/
def State.hoLeaves (s : State) (h : Nat) (job : BitVec 16) : Bool :=
  match s.route s.place (s.subst (s.hoPeer h)) with
  | none => true
  | some r => s.leavesRect job r.path

/-- The checks of a SEND or RECV; a checked command waits for its channel. -/
def State.handoff (s : State) (c : Cmd) (send : Bool) : State :=
  let h := c.hoChannel
  let side := s.jobSide c.job
  let len := c.hoLen
  let ks := if send then s.rangeChecks [(c.hoSrc, len, c.hoKey, .read)] else []
  let notFound := decide (s.odGet (Od.hoJob h) = 0) || (send && decide (0 < len) && !s.mapped side c.hoSrc len)
  let refused := c.bad || c.hoReserved || decide (4 < c.hoFunc) || decide (c.hoSeq = 0xFFFFFFFF) ||
    decide (c.job.toNat ≠ s.odGet (Od.hoJob h)) || decide (s.odGet (Od.hoRole h) ≠ c.hoFunc) ||
    (send && (decide (len % 256 ≠ 0) || decide (len < 256) || decide (c.hoSrc % 256 ≠ 0) || !s.inHbm side c.hoSrc len)) ||
    decide (s.odGet (Od.hoState h) ≠ 1) || s.hoInvalid h side
  match checkOrder (ks.any fun k => decide (k.2.1 = Status.denied)) notFound
      (ks.any fun k => decide (k.2.1 = Status.keyMismatch)) (s.hoLeaves h c.job) refused with
  | some st =>
    ((if st = Status.denied ∨ st = Status.keyMismatch then s.rangeRefused c.job (some st) ks
      else s).commit c st 0).hoNext h
  | none => (s.setCmd { c with phase := .waiting }).hoNext h

/-- CONSUMED_LIMIT: line 1 of a channel's control block is written, and the engine reads it. -/
def execConsumedLimit (channel : Nat) (limit : BitVec 64) (posted : BitVec 32) (s : State) : Outcome :=
    withRoom (.consumedLimit channel limit posted) s <|
  if channel < 16 ∧ s.odGet (Od.hoState channel) ≠ 0 ∧ s.working then
    let s := s.devWrite (devAttr 0xF3 1) (s.hoCtrl channel + 128)
      (natBytes 8 limit.toNat ++ natBytes 4 0 ++ natBytes 4 posted.toNat)
    .next (s.newLine1 channel limit.toNat posted)
  else .next s

/-! ### Responses to a HANDOFF's writes -/

/-- A response to a write of a chunk, or of line 1. -/
def State.hoWritten (s : State) (cmd : Nat) (x : Resp) : State :=
  match s.cmd? cmd with
  | none => s
  | some c =>
    let h := c.hoChannel
    if !s.hoRuns c then s
    else if x.status ≠ Status.ok then (s.hoFailed h c (some x)).hoNext h
    else if c.hoFunc = 0 then (s.hoGo h c).hoNext h
    else s

/-- A write of progress has failed: the receiver does not count its chunk, unless the outcome is not known (R9). -/
def State.untold (s : State) (h : Nat) (st : Status) : State :=
  if st = Status.timeout then s else s.setChannel h { s.channel h with told := (s.channel h).produced }

/-- A response to a write of progress: PRODUCED and the device's own line 0 go on, and with the last the SEND commits, with
ABORTED where an abort was to stop it at this chunk boundary (R371). -/
def State.hoProgressed (s : State) (cmd k : Nat) (x : Resp) : State :=
  match s.cmd? cmd with
  | none => s
  | some c =>
    let h := c.hoChannel
    if !s.hoRuns c then s
    else if x.status ≠ Status.ok then ((s.untold h x.status).hoFailed h c (some x)).hoNext h
    else
      let s := s.devWrite hoAttr (s.hoCtrl h) (s.hoLine0 h c k)
      let y := s.channel h
      let s := s.setChannel h { y with produced := y.base + k + 1, progressAt := s.clk.now }
      let s := (s.odAdd (Od.hoChunks h) 1).odAdd Od.hoChunksTotal 1
      if k + 1 = s.hoTotal h c then
        ((if y.stop.isSome then s else s.setChannel h { s.channel h with lastSent := some c.hoSeq }).endHandoff h c
          Status.ok 0).hoNext h
      else (s.hoGo h c).hoNext h

/-- A write from outside has reached a receiver's line 0: HO_CHUNKS follows PRODUCED, and the RECV is looked at. -/
def State.lineZeroWritten (s : State) (a n : Nat) : State :=
  (List.range 16).foldl (fun s h =>
    let b := s.hoCtrl h
    if s.odGet (Od.hoState h) = 1 ∧ s.odGet (Od.hoRole h) = 1 ∧ a < b + 128 ∧ b < a + n then
      let q := s.devRead hoAttr b 8
      let s := (q.2.setChannel h { q.2.channel h with progressAt := s.clk.now }).odSet (Od.hoChunks h) (bytesNat q.1.1)
      match (s.channel h).active.bind s.cmd? with
      | some c => (s.recvCheck h c).hoNext h
      | none => s
    else s) s

/-! ### Commands -/

/-- SEND; a HANDOFF of a reserved FUNC is refused here too (R368). -/
def execHoSend (cmd : Nat) (s : State) : Outcome := withRoom (.hoSend cmd) s <|
  .next (s.onCmd cmd 0x0040 fun s c => if c.hoFunc = 0 ∨ 4 < c.hoFunc then s.handoff c true else s)

/-- RECV; a started RECV commits once its line 0 shows the whole micro-batch. -/
def execHoRecv (cmd : Nat) (s : State) : Outcome := withRoom (.hoRecv cmd) s <|
  match s.cmd? cmd with
  | none => .next s
  | some c =>
    if c.opcode = 0x0040 ∧ c.hoFunc = 1 ∧ s.hoRuns c then .next ((s.recvCheck c.hoChannel c).hoNext c.hoChannel)
    else .next (s.onCmd cmd 0x0040 fun s c => if c.hoFunc = 1 then s.handoff c false else s)

/-- SEND_CHUNK: the next chunk is begun under credit, with at most two in flight (R369). -/
def execSendChunk (channel : Nat) (s : State) : Outcome := withRoom (.sendChunk channel) s <|
  let x := s.channel channel
  match x.active.bind s.cmd? with
  | none => .next s
  | some c =>
    if s.odGet (Od.hoRole channel) = 0 ∧ s.working ∧ x.matched ∧ x.stop = none ∧ x.begun < s.hoTotal channel c ∧
        x.base + x.begun < x.limit ∧ s.hoFlight channel c < 2 then
      .next (((s.setChannel channel { x with begun := x.begun + 1 }).hoGo channel c).hoNext channel)
    else .next s

/-- A HANDOFF ends with TIMEOUT (R371); one that an abort stops ends ABORTED, and no timeout of it is logged (R397). -/
def State.hoExpires (s : State) (c : Cmd) : State :=
  let h := c.hoChannel
  let q := if c.hoFunc = 0 then ((s.channel h).produced, s) else
    let q := s.devRead hoAttr (s.hoCtrl h) 8
    (bytesNat q.1.1, q.2)
  let s := if (s.channel h).stop.isSome then q.2
    else q.2.event 0x0C 0 0x0703 sevWarning [(16, 1, h), (17, 1, c.hoFunc), (20, 4, c.hoSeq.toNat), (24, 8, q.1)]
  (s.endHandoff h c Status.timeout 0).hoNext h

/-- HO_TIMEOUT (R371): no change in line 0 or line 1 for HANDOFF_TIMEOUT. -/
def execHoTimeout (cmd : Nat) (s : State) : Outcome := withRoom (.hoTimeout cmd) s <|
  match s.cmd? cmd with
  | none => .next s
  | some c =>
    if c.opcode = 0x0040 ∧ c.hoFunc < 2 ∧ s.hoRuns c ∧ (s.channel c.hoChannel).stop = none then
      .next ((s.advanceTo ((s.channel c.hoChannel).progressAt + 1000000 * s.odGet Od.handoffTimeout)).hoExpires c)
    else .next s

/-- A HANDOFF that holds its channel is aborted: a RECV at once, a SEND at its next chunk boundary (R371). -/
def State.abortHandoff (s : State) (c : Cmd) : State :=
  let h := c.hoChannel
  if c.hoFunc = 0 then (((s.setChannel h { s.channel h with stop := some (s.clk.now, s.epoch 0) }).hoProgress h c).hoStall h).hoNext h
  else (s.endHandoff h c Status.aborted 0).hoNext h

/-- HO_JOB: a non-zero write resets the channel; a HANDOFF that it finds started begins again (R366). -/
def execHoJob (via : OdPath) (channel : Nat) (job : BitVec 16) (s : State) : Outcome :=
    withRoom (.hoJob via channel job) s <|
  if 16 ≤ channel then .next s
  else
    .next (s.odRow via (0x2640 + channel) 0x01 job.toNat (withAccess job.toNat fun s =>
      let s := s.odSet (Od.hoJob channel) job.toNat
      if job = 0 then (Status.ok, (s.odSet (Od.hoState channel) 0).disarm (.handoff channel))
      else
        let x := s.channel channel
        let s := (s.setChannel channel { Channel.initial with active := x.active, stop := x.stop, progressAt := s.clk.now }).arm
          (.handoff channel) (s.hoCtrl channel + 128)
        (Status.ok, ((s.odSet (Od.hoState channel) 1).odSet (Od.hoChunks channel) 0).odSet (Od.hoCreditStallNs channel) 0)))

end Sys2Proof.Machine
end

