-- ==== Sys2Proof/Machine/Pools.lean ====
section
/-!
DEFINITION. The retention pool: GET, PUT and DROP (R374 to R376).
-/

namespace Sys2Proof.Machine

def Pool.initial : Pool := ⟨0, []⟩

/-- The pool of a numerics slot. -/
def State.pool (s : State) (i : Nat) : Pool := SMap.get Pool.initial s.pools i

/-- The pool becomes `p`; POOL_USED_BYTES follows. -/
def State.setPool (s : State) (i : Nat) (p : Pool) : State :=
  { s with pools := SMap.set Pool.initial s.pools i p }.odSet (Od.poolUsedBytes i)
    ((p.entries.map PoolEntry.bytes).sum)

def Pool.find? (p : Pool) (tag : BitVec 32) : Option PoolEntry := p.entries.find? fun e => decide (e.tag = tag)

/-- The directory is emptied and the pool's entries return to their defaults (R379). -/
def State.resetPool (s : State) (i : Nat) : State :=
  { s with pools := SMap.set Pool.initial s.pools i Pool.initial }.odResets
    [Od.poolBase i, Od.poolBytes i, Od.poolUsedBytes i, Od.poolHits i, Od.poolMisses i, Od.poolEvictions i, Od.poolBlocked i]

/-- An entry of the directory changes. -/
def Pool.put (p : Pool) (e : PoolEntry) : Pool :=
  { p with entries := p.entries.map fun q => if q.tag = e.tag then e else q }

/-- An entry is freed. -/
def Pool.free (p : Pool) (tag : BitVec 32) : Pool :=
  { p with entries := p.entries.filter fun q => decide (q.tag ≠ tag) }

/-- The range of an allocation is free, and the directory has room. -/
def Pool.fits (es : List PoolEntry) (at_ n : Nat) : Bool :=
  decide (es.length < 1024) && es.all fun e => decide (e.offset + e.bytes ≤ at_) || decide (at_ + n ≤ e.offset)

/-- Entries released, oldest first, until the allocation fits: how many, and those left; none where a pinned entry stands
in the way. -/
def Pool.release (at_ n : Nat) : List PoolEntry → Option (Nat × List PoolEntry)
  | [] => some (0, [])
  | e :: es =>
    if Pool.fits (e :: es) at_ n then some (0, e :: es)
    else if 0 < e.pins then none
    else (Pool.release at_ n es).map fun r => (r.1 + 1, r.2)

/-- The pool after a miss: entries released and the new entry; none where a pinned entry blocks it. -/
def Pool.alloc (p : Pool) (size len : Nat) (tag : BitVec 32) : Option (Nat × PoolEntry × Pool) :=
  let n := (len + 65535) / 65536 * 65536
  let at_ := if size < p.head + n then 0 else p.head
  (Pool.release at_ n p.entries).map fun r =>
    let e : PoolEntry := { tag := tag, offset := at_, bytes := n, length := len, pins := 1, filled := false }
    (r.1, e, ⟨at_ + n, r.2 ++ [e]⟩)

def Cmd.poolResult (c : Cmd) : Nat := c.arg 232 40

/-- The result record of a GET (R376). -/
def poolRecord (addr : Nat) (hit : Bool) : List Byte := natBytes 8 (addr % 2 ^ 40) ++ natBytes 8 (if hit then 1 else 0)

/-- A GET that completes OK: its record, then its commit. -/
def State.poolGot (s : State) (c : Cmd) (i : Nat) (e : PoolEntry) (hit : Bool) : State :=
  (s.devWrite hoAttr c.poolResult (poolRecord (s.odGet (Od.poolBase i) + e.offset) hit)).commit c Status.ok
    (if hit then 1 else 0)

/-- A GET that passed its checks (R375). -/
def State.poolGet (s : State) (c : Cmd) (i : Nat) : State :=
  let p := s.pool i
  match p.find? c.hoSeq with
  | some e =>
    if e.filled then
      let e := { e with pins := e.pins + 1 }
      ((s.setPool i (p.put e)).odAdd (Od.poolHits i) 1).poolGot c i e true
    else s.commit c Status.busy 0
  | none =>
    match p.alloc (s.odGet (Od.poolBytes i)) c.hoLen c.hoSeq with
    | none => (s.odAdd (Od.poolBlocked i) 1).commit c Status.busy 0
    | some (n, e, q) =>
      (((s.setPool i q).odAdd (Od.poolEvictions i) n).odAdd (Od.poolMisses i) 1).poolGot c i e false

/-- GET (R375). -/
def execPoolGet (cmd : Nat) (s : State) : Outcome := withRoom (.poolGet cmd) s <|
  .next (s.onCmd cmd 0x0040 fun s c =>
    if c.hoFunc ≠ 2 then s
    else
      let side := s.jobSide c.job
      let i := (s.jobSlot? c.job).getD 0
      let len := c.hoLen
      let differs := match (s.pool i).find? c.hoSeq with
        | some e => decide (e.length ≠ len)
        | none => false
      match s.failChecks c (s.rangeChecks [(c.poolResult, 16, c.hoKey, .write)]) (!s.mapped side c.poolResult 16)
          (c.bad || c.hoReserved || decide (len % 256 ≠ 0) || decide (len < 256) || decide (c.poolResult % 16 ≠ 0) ||
            !s.inHbm side c.poolResult 16 || decide (s.odGet (Od.poolBytes i) < len) || differs) false with
      | some f => f.2.commit c f.1 0
      | none => s.poolGet c i)

/-- The tag of a PUT or DROP in the pool of its job. -/
def State.poolTag (s : State) (c : Cmd) : Nat × Option PoolEntry :=
  let i := (s.jobSlot? c.job).getD 0
  (i, if s.jobOpen c.job then (s.pool i).find? c.hoSeq else none)

/-- PUT (R375). -/
def execPoolPut (cmd : Nat) (s : State) : Outcome := withRoom (.poolPut cmd) s <|
  .next (s.onCmd cmd 0x0040 fun s c =>
    if c.hoFunc ≠ 3 then s
    else
      match s.poolTag c with
      | (_, none) => s.commit c Status.notFound 0
      | (i, some e) =>
        if c.bad ∨ c.hoReserved ∨ e.pins = 0 then s.commit c Status.refused 0
        else
          let e := { e with pins := e.pins - 1, filled := e.filled || decide (c.arg 432 1 = 1) }
          let p := s.pool i
          (s.setPool i (if e.pins = 0 ∧ !e.filled then p.free e.tag else p.put e)).commit c Status.ok 0)

/-- DROP (R375). -/
def execPoolDrop (cmd : Nat) (s : State) : Outcome := withRoom (.poolDrop cmd) s <|
  .next (s.onCmd cmd 0x0040 fun s c =>
    if c.hoFunc ≠ 4 then s
    else
      match s.poolTag c with
      | (_, none) => s.commit c Status.notFound 0
      | (i, some e) =>
        if c.bad ∨ c.hoReserved then s.commit c Status.refused 0
        else if 0 < e.pins then s.commit c Status.busy 0
        else (s.setPool i ((s.pool i).free e.tag)).commit c Status.ok 0)

end Sys2Proof.Machine
end

