-- ==== Sys2Proof/Machine/Window.lean ====
section
/-!
DEFINITION. Loads from the window by the cores and the host (R44, R48, R49, R61, R62, R64).
-/

namespace Sys2Proof.Machine

/-- The header and the entries of a Jarast view, from its entries of the dictionary (R61, R62, R66). -/
def State.jarastBytes (s : State) (eval : Bool) : List Byte :=
  let h := if eval then 0x1180 else 0x1100
  let types := (List.range' 1 21).filter fun t => decide (s.odGet (Od.key (h + t) 0x04) ≠ 0)
  let n := types.length
  if n = 0 then []
  else
    natBytes 4 0x5453524A ++ [0x01, 64] ++ natBytes 2 n ++ natBytes 4 0 ++ natBytes 4 (64 + 64 * n) ++
    natBytes 8 (s.odGet (Od.key h 0x03)) ++ natBytes 8 (s.odGet (Od.key h 0x01)) ++ natBytes 32 0 ++
    types.flatMap fun t =>
      let f (sub : Nat) : Nat := s.odGet (Od.key (h + t) sub)
      natBytes 1 (f 0x01) ++ natBytes 2 (f 0x02) ++ natBytes 1 (f 0x03) ++ natBytes 2 (f 0x04) ++ natBytes 2 (f 0x05) ++
      natBytes 2 (f 0x06) ++ natBytes 2 (f 0x07) ++ natBytes 8 (f 0x08) ++ natBytes 8 (f 0x09) ++ s.typeData eval t ++
      natBytes 8 (f 0x0A) ++ natBytes 8 (f 0x0B)

/-- Index and subindex of a direct-map offset. -/
def directIndex (off : Nat) : Nat × Nat := (0x1000 + (off - 0x400000) / 0x200, (off - 0x400000) % 0x200 / 8)

/-- A core may load from the offset: not the mailboxes, the reserved area, or an index that user level may not read. -/
def windowReadable (off : Nat) : Bool :=
  if off < 0x10000 then true
  else if off < 0x400000 then false
  else match odRange? (directIndex off).1 with
    | none => true
    | some r => decide (2 ≤ r.read)

/-- Bytes of a failed direct read. -/
def onesBytes (n : Nat) : List Byte := List.replicate n 0xFF

/-- Bytes of a Jarast view; beyond the table they read as zero. -/
def viewBytes (tbl : List Byte) (off n : Nat) : List Byte := (List.range n).map fun i => tbl.getD (off + i) 0

/-- A load of `n` bytes of the direct map: the entry's value, or all ones with the failure logged (R49). -/
def State.directLoad (s : State) (via : OdPath) (off n : Nat) : List Byte × State :=
  let e := directIndex off
  if n ≠ 8 ∨ off % 8 ≠ 0 then (onesBytes n, s.odFailed via e.1 e.2 Status.refused)
  else
    match s.odReadStatus via e.1 e.2 with
    | (_, some r) =>
      if r.ty.numeric then (natBytes 8 (s.odValue e.1 e.2), s)
      else (onesBytes n, s.odFailed via e.1 e.2 Status.refused)
    | (st, none) => (onesBytes n, s.odFailed via e.1 e.2 st)

/-- A core's load of `n` bytes at a readable offset: served as a host read of the same offset, but that the main view's
offset shows the view of the core's side. -/
def State.windowLoad (s : State) (core slot off n : Nat) : List Byte × State :=
  if off < 0x8000 then (viewBytes (s.jarastBytes (s.clusterEval (core / 16))) off n, s)
  else if off < 0x10000 then (viewBytes (s.jarastBytes true) (off - 0x8000) n, s)
  else s.directLoad (.core core slot) off n

end Sys2Proof.Machine
end

