-- ==== Sys2Proof/Machine/Remote.lean ====
section
/-!
DEFINITION. The global loads and stores and the remote instructions (R190, R264 to R268, R272): their checks at issue,
their transactions, and what their responses do.
-/

namespace Sys2Proof

/-- Bytes of a global form (R190). -/
def GSize.bytes : GSize → Nat
  | .g32 => 4 | .g64 => 8

/-- Thread registers of a global form (R176). -/
def GSize.regs : GSize → Nat
  | .g32 => 1 | .g64 => 2

end Sys2Proof

namespace Sys2Proof.Machine

/-! ### Forms and fields (R190, R264, R265) -/

/-- A global or remote form: the OP it sends, bytes of its target, alignment, whether it loads, and whether its operand
is a multicast store's. -/
structure RemoteForm where
  op : BitVec 8
  n : Nat
  load : Bool
  deriving DecidableEq, Repr

def RemoteForm.mc (f : RemoteForm) : Bool := decide (f.op = 0x20)

/-- The uniform register that holds the key and the traffic class. -/
def fKeyReg (w : BitVec 64) : Nat := fld w 58 6
def remoteKey (w : BitVec 64) (gr : Group) : BitVec 32 := (gr.uGet (fKeyReg w)).setWidth 32
def remoteTc (w : BitVec 64) (gr : Group) : BitVec 3 := (gr.uGet (fKeyReg w)).extractLsb' 32 3

/-- MC_COUNT, MC_DIR and MC_AXIS of MC.ST.64. -/
def fMc (w : BitVec 64) : BitVec 6 × Bool × Bool := (w.extractLsb' 50 6, w.getLsbD 56, w.getLsbD 57)

/-- The register pair that holds a lane's address, before the offset. -/
def remoteBase (w : BitVec 64) (gr : Group) (lane : Nat) : BitVec 64 := gr.vPair lane (fVA w)

/-- The global address of a lane. -/
def remoteAddr (f : RemoteForm) (w : BitVec 64) (gr : Group) (lane : Nat) : BitVec 64 :=
  remoteBase w gr lane + (if f.mc then 0 else (w.extractLsb' 45 13).signExtend 64)

def addrPlace (a : BitVec 64) : Place := ⟨(a.extractLsb' 40 6).toNat, (a.extractLsb' 46 6).toNat⟩
def addrLocal (a : BitVec 64) : Nat := (a.extractLsb' 0 40).toNat

/-- Job of the LAUNCH of a core. -/
def State.coreJob (s : State) (core : Nat) : BitVec 16 :=
  (((s.core core).launch.bind s.cmd?).map (·.job)).getD 0



/-! ### Checks at issue (R265, R268) -/

/-- A multicast line that may be used: from a device of the same row along X, inside the plan, over no missing link and
no role that has a substitute (R268, R387). -/
def State.mcAllowed (s : State) (p : Place) (mc : BitVec 6 × Bool × Bool) : Bool :=
  let line := p :: mcLine p mc
  let fits := match mc.2.2, mc.2.1 with
    | false, true => decide (mc.1.toNat ≤ p.x)
    | true, true => decide (mc.1.toNat ≤ p.y)
    | _, _ => true
  (mc.2.2 || decide (s.place.y = p.y)) && fits && line.all s.inPlan && decide (s.missingHop line = none) &&
    !line.any s.isRole

/-- A load that user level makes of the window (R44). -/
def windowMay (f : RemoteForm) (loc : Nat) : Bool := f.load && windowReadable (loc - windowBase)

/-- The first KEY_FAULT that a lane's address meets at issue: detail and AUX. Bits [63:52] are 0 in the register pair and in
the address (R190, R265). -/
def State.remoteKeyFail (s : State) (core : Nat) (f : RemoteForm) (w : BitVec 64) (gr : Group) (lane : Nat) :
    Option (BitVec 8 × BitVec 8) :=
  let a := remoteAddr f w gr lane
  let p := addrPlace a
  let loc := addrLocal a
  if (remoteBase w gr lane).extractLsb' 52 12 ≠ 0 ∨ a.extractLsb' 52 12 ≠ 0 then some (0x01, 0xFF)
  else if p = s.place ∧ s.subst p = p ∧ regionOf loc = .window then (if windowMay f loc then none else some (0x04, 0xFF))
  else if !(if p = s.place ∧ s.subst p = p then s.mapped (s.clusterSide (core / 16)) loc f.n
      else s.inPlan p && decide (regionOf loc ≠ .unmapped)) then some (0x02, 0xFF)
  else if s.subst p ≠ s.place ∧ s.route s.place (s.subst p) = none then some (0x05, Status.planMismatch)
  else if opIsAdd f.op ∧ !(s.coreArrival core).testBit (remoteTc w gr).toNat then some (0x05, Status.refused)
  else if f.mc ∧ !s.mcAllowed p (fMc w) then some (0x05, Status.refused)
  else none

/-- The conditions of one lane. -/
def State.remoteFails (s : State) (core : Nat) (f : RemoteForm) (w : BitVec 64) (gr : Group) (lane : Nat) : List Fail :=
  let a := remoteAddr f w gr lane
  (if a.toNat % f.n ≠ 0 then [⟨lane, cAlignment, 0x01, 0xFF, a⟩] else []) ++
  match s.remoteKeyFail core f w gr lane with
  | some (d, aux) => [⟨lane, cKey, d, aux, a⟩]
  | none => []

/-! ### Responses (R190, R267) -/

/-- The exception of a failed response; loads are told apart by their OP. -/
def respExc (op : BitVec 8) (st : Status) (detail : BitVec 8) (addr : BitVec 64) (lane : Nat) : Option Exc :=
  let e (c : BitVec 4) (d aux : BitVec 8) : Option Exc :=
    some { cause := c, detail := d, position := 0, aux := aux, addr := addr, lanes := maskOf fun i => decide (i = lane) }
  if st = Status.ok then none
  else if st = Status.keyMismatch then e cKey detail 0xFF
  else if st = Status.poisoned then e cPoison (if op = 0x01 then 0x01 else 0x07) 0xFF
  else e cKey 0x05 st

/-- What a lane of a held instruction receives from a response: `off` is where its operand stands in the payload. -/
def laneResp (op : BitVec 8) (addr : BitVec 64) (n : Nat) (x : Resp) (lane off : Nat) : LaneResp :=
  let v := BitVec.ofNat 64 (bytesNat ((x.payload.drop off).take n))
  if op = 0x01 ∧ x.status = Status.poisoned then
    if x.pmask.getLsbD (off / 8) then ⟨lane, 0, respExc op x.status x.detail addr lane⟩ else ⟨lane, v, none⟩
  else ⟨lane, v, respExc op x.status x.detail addr lane⟩

/-- Responses kept by a held group. -/
def State.addResps (s : State) (g : GroupRef) (l : List LaneResp) : State :=
  match s.group? g with
  | some gr => s.setGroup g { gr with resp := gr.resp ++ l }
  | none => s

/-- A failed posted transaction is kept for the group's next FENCE.R. -/
def State.postFailed (s : State) (g : GroupRef) (seq : Nat) (e : Option Exc) : State :=
  match e, s.group? g with
  | some e, some gr => if gr.hold = .stopped then s else s.setGroup g { gr with fails := gr.fails ++ [⟨seq, e⟩] }
  | _, _ => s

/-- A transaction of a held instruction of the group is outstanding. -/
def State.holding (s : State) (g : GroupRef) : Bool :=
  s.fab.tracker.any fun t => match t.owner with
    | .held c sl _ => decide (c = g.core) && decide (sl = g.slot)
    | _ => false

/-- The opcode loads: a load writes VD, an atomic the VD pair, a store nothing. -/
def heldWrites (w : BitVec 64) : Nat :=
  match fld w 0 16 with
  | 0x2101 => 1
  | 0x2102 | 0x8001 | 0x8002 | 0x8003 => 2
  | _ => 0

/-- The registers that the responses write. -/
def heldWrite (w : BitVec 64) (gr : Group) : Group :=
  gr.resp.foldl (fun gr r =>
    match heldWrites w with
    | 0 => gr
    | 1 => gr.vSet r.lane (fVD w) (r.value.setWidth 32)
    | _ => gr.setPair r.lane (fVD w) r.value) gr

/-- The conditions that the responses of a held instruction show, in ascending lane order. -/
def heldFails (gr : Group) : List Fail :=
  (List.range 32).flatMap fun i => gr.resp.filterMap fun r =>
    match r.exc with
    | some e => if r.lane = i then some ⟨i, e.cause, e.detail, e.aux, e.addr⟩ else none
    | none => none

/-- A held instruction ends: its responses show an exception, or it writes its registers and the group goes on. -/
def State.heldEnd (s : State) (g : GroupRef) (w : BitVec 64) (gr : Group) : State :=
  match excOfFails (heldFails gr) with
  | some e => (s.setGroup g { gr with resp := [] }).takeExc g w e
  | none => s.setGroup g { heldWrite w gr with hold := .none, resp := [] }.advance

/-- The form of a held instruction. -/
def heldForm (w : BitVec 64) : RemoteForm :=
  match fld w 0 16 with
  | 0x2101 => ⟨0x01, 4, true⟩
  | 0x2102 => ⟨0x01, 8, true⟩
  | 0x2111 => ⟨0x02, 4, false⟩
  | 0x2112 => ⟨0x02, 8, false⟩
  | 0x8001 => ⟨0x03, 8, false⟩
  | 0x8002 => ⟨0x04, 8, false⟩
  | _ => ⟨0x05, 8, false⟩

/-! ### Transactions of an instruction (R266) -/

/-- A transaction to be opened for lanes of a group: its address, length, payload, the lanes with their places in the
payload, and its further packets. A later part of a transaction is counted with the first. -/
structure LaneTx where
  addr : BitVec 64
  len : Nat
  payload : List Byte
  lanes : List (Nat × Nat)
  more : List (BitVec 64 × List Byte)
  later : Bool
  deriving DecidableEq, Repr

/-- Lanes by the 128-byte line they address, in the order of their lowest lane. -/
def byLine (f : RemoteForm) (w : BitVec 64) (gr : Group) (lanes : List Nat) : List (Nat × List Nat) :=
  let line (i : Nat) : Nat := (remoteAddr f w gr i).toNat / 128
  (lanes.foldl (fun (acc : List (Nat × List Nat)) i =>
    if acc.any fun e => decide (e.1 = line i) then
      acc.map fun e => if e.1 = line i then (e.1, e.2 ++ [i]) else e
    else acc ++ [(line i, [i])]) [])

/-- LD.G: one READ of each line. -/
def loadTxs (f : RemoteForm) (w : BitVec 64) (gr : Group) (lanes : List Nat) : List LaneTx :=
  (byLine f w gr lanes).map fun e =>
    { addr := BitVec.ofNat 64 (128 * e.1), len := 128, payload := []
      lanes := e.2.map fun i => (i, (remoteAddr f w gr i).toNat % 128), more := [], later := false }

/-- The operand that a lane sends. -/
def lanePayload (f : RemoteForm) (w : BitVec 64) (gr : Group) (lane : Nat) : List Byte :=
  if f.op = 0x03 then natBytes 8 (gr.vPair lane (fVD w)).toNat ++ natBytes 8 (gr.vPair lane (fVB w)).toNat
  else if f.n = 16 then natBytes 16 (gr.vQuad lane (fVB w)).toNat
  else if f.n = 8 then natBytes 8 (gr.vPair lane (fVB w)).toNat
  else natBytes f.n (gr.vGet lane (fVB w)).toNat

/-- Stores of one line as runs of adjacent bytes: a later lane's value stands where two lanes name one address. -/
def storeRuns (n : Nat) : List (Nat × Nat × List Byte) → List (Nat × List Byte × List Nat)
  | [] => []
  | (a, lane, bs) :: r =>
    match storeRuns n r with
    | (b, cs, ls) :: q => if b = a + n then (a, bs ++ cs, lane :: ls) :: q else (a, bs, [lane]) :: (b, cs, ls) :: q
    | [] => [(a, bs, [lane])]

/-- ST.G: one transaction for each line, with one WRITE for each run of adjacent bytes of it (R266, log 70). -/
def storeTxs (f : RemoteForm) (w : BitVec 64) (gr : Group) (lanes : List Nat) : List LaneTx :=
  (byLine f w gr lanes).flatMap fun e =>
    let m : SMap (Nat × List Byte) := e.2.foldl (fun m i =>
      SMap.put m (remoteAddr f w gr i).toNat (i, lanePayload f w gr i)) []
    match storeRuns f.n m with
    | [] => []
    | r :: rs =>
      [{ addr := BitVec.ofNat 64 r.1, len := r.2.1.length, payload := r.2.1, lanes := e.2.map fun i => (i, 0)
         more := rs.map fun q => (BitVec.ofNat 64 q.1, q.2.1), later := false }]

/-- The other forms: one transaction for each lane. -/
def eachTx (f : RemoteForm) (w : BitVec 64) (gr : Group) (lanes : List Nat) : List LaneTx :=
  lanes.map fun i =>
    { addr := remoteAddr f w gr i, len := (lanePayload f w gr i).length, payload := lanePayload f w gr i
      lanes := [(i, 0)], more := [], later := false }

/-- Entries of the tracker that a group holds. -/
def State.groupTxs (s : State) (g : GroupRef) : Nat := (s.fab.tracker.filter fun t => t.ofGroup g).length

/-- An instruction of `k` transactions finds places in the tracker (R266). -/
def State.trackerRoom (s : State) (g : GroupRef) (k : Nat) : Bool :=
  decide (s.groupTxs g + k ≤ 256) && decide (s.fab.tracker.length + k ≤ 4096)

/-- A line of the domain cache that answers a load, while the home is in the device's domain (R275): where it may have been
evicted, a free value says so (R273, R274). -/
def State.cacheHit (s : State) (dst : Coord) (line : Nat) (key : BitVec 32) : Option CacheLine :=
  s.fab.lineCache.find? fun c => decide (c.home = dst) && decide (c.line = line) && decide (c.key = key) && s.sameDomain dst

/-- The transaction of one entry of the list. -/
def laneNewTx (s : State) (g : GroupRef) (f : RemoteForm) (w : BitVec 64) (gr : Group) (t : LaneTx) (own : TxOwner) :
    NewTx :=
  { dst := (addrPlace t.addr).coord, op := f.op, addr := t.addr.extractLsb' 0 40, len := t.len, key := remoteKey w gr
    job := s.coreJob g.core, master := BitVec.ofNat 8 g.core, tc := remoteTc w gr, priv := 2, payload := t.payload
    pmask := 0, mc := if f.mc then fMc w else (0, false, false), engine := false, owner := own }

/-- A response seen from the lanes of a transaction that was opened for the instruction. -/
def State.laneAnswer (s : State) (g : GroupRef) (f : RemoteForm) (w : BitVec 64) (gr : Group) (lanes : List (Nat × Nat))
    (x : Resp) : State :=
  s.addResps g (lanes.map fun l => laneResp f.op (remoteAddr f w gr l.1) f.n x l.1 l.2)

/-- Lanes whose operand lies in one of some ranges of local addresses. -/
def lanesIn (f : RemoteForm) (w : BitVec 64) (gr : Group) (rs : List (Nat × Nat)) (lanes : List (Nat × Nat)) :
    List (Nat × Nat) :=
  lanes.filter fun l =>
    let a := addrLocal (remoteAddr f w gr l.1)
    rs.any fun r => decide (r.1 ≤ a) && decide (a < r.1 + r.2)

/-- The device's own memory is asked for the place of an address. -/
def State.ownPlace (s : State) (a : BitVec 64) : Bool := decide (s.subst (addrPlace a) = s.place)

/-- The packets of a transaction, each with its own lanes, for the device's own memory. -/
def LaneTx.parts (t : LaneTx) (f : RemoteForm) (w : BitVec 64) (gr : Group) : List LaneTx :=
  if t.more.isEmpty then [t]
  else ((t.addr, t.payload) :: t.more).map fun q =>
    { addr := q.1, len := q.2.length, payload := q.2, lanes := lanesIn f w gr [(addrLocal q.1, q.2.length)] t.lanes
      more := [], later := decide (q.1 ≠ t.addr) }

/-- REMOTE_ISSUE (R452). -/
def State.countRemote (s : State) (core : Nat) (t : LaneTx) (tc : BitVec 3) : State :=
  s.count (coreSet core) 0x030D 1 { Attr.none with addr := some (addrLocal t.addr), cls := some tc.toNat }

/-- A transaction of a held instruction is opened; a load may be answered by the domain cache. -/
def State.openHeld (s : State) (g : GroupRef) (f : RemoteForm) (w : BitVec 64) (gr : Group) (t : LaneTx) : State :=
  let hit : Option CacheLine × State :=
    match if f.load then s.cacheHit (s.subst (addrPlace t.addr)).coord (addrLocal t.addr / 128) (remoteKey w gr) else none with
    | none => (none, s)
    | some c => (if s.fresh.1 % 2 = 1 then some c else none, s.fresh.2)
  let s := if hit.1.isSome || t.later then hit.2 else hit.2.countRemote g.core t (remoteTc w gr)
  match hit.1 with
  | some c =>
    let m := payloadMask 0 128 (c.words.map fun x => (deliver x).2)
    s.laneAnswer g f w gr t.lanes
      ⟨if m = 0 then Status.ok else Status.poisoned, 0, c.words.flatMap fun x => wordBytes (deliver x).1, m, false⟩
  | none =>
    let tag := (s.freeTag).getD 0
    let x := laneNewTx s g f w gr t (.held g.core g.slot t.lanes)
    let r := s.openTx tag x
    match r.1 with
    | some y => r.2.laneAnswer g f w gr t.lanes y
    | none => r.2.openMore tag x (t.more.map fun m => (m.1.extractLsb' 0 40, m.2))

/-- A posted transaction is opened. -/
def State.openPosted (s : State) (g : GroupRef) (f : RemoteForm) (w : BitVec 64) (gr : Group) (t : LaneTx) : State :=
  let lane := ((t.lanes.head?).map (·.1)).getD 0
  let seq := s.fab.nextSeq
  let s := s.countRemote g.core t (remoteTc w gr)
  let r := s.openTx ((s.freeTag).getD 0) (laneNewTx s g f w gr t (.posted g.core g.slot lane))
  match r.1 with
  | some x => r.2.postFailed g seq (respExc f.op x.status x.detail t.addr lane)
  | none => r.2

/-! ### Issue -/

/-- The checks that come before a global or remote instruction sends anything. -/
def remoteIssue (g : GroupRef) (w : BitVec 64) (cls : Nat) (f : RemoteForm) (regs : List (Nat × Nat))
    (k : State → Group → List Nat → Issue) (s : State) : Outcome :=
  issued g w cls (checked g false ((fVA w, 2) :: regs) fun s gr =>
    match excOfFails ((gr.execLanes w).flatMap (s.remoteFails g.core f w gr)) with
    | some e => .exc e
    | none => k s gr (gr.execLanes w)) s

/-- The devices that a lane of a store or multicast delivers to. -/
def State.laneReach (s : State) (f : RemoteForm) (w : BitVec 64) (gr : Group) (lane : Nat) : List Coord :=
  let d := s.subst (addrPlace (remoteAddr f w gr lane))
  d.coord :: if f.mc then (mcLine d (fMc w)).map Place.coord else []

/-- A store or multicast of the group would deliver at a device where an earlier MC.ST.64 of the group, which may go another
way, is not known to have delivered: it waits at issue, so that the order of R271 holds (log 70). -/
def State.storeWaits (s : State) (g : GroupRef) (f : RemoteForm) (w : BitVec 64) (gr : Group) (lanes : List Nat) : Bool :=
  (decide (f.op = 0x02) || f.mc) && lanes.any fun i =>
    let ds := s.laneReach f w gr i
    s.fab.tracker.any fun t => t.postedOf g && decide (t.op = 0x20) && decide (t.reach ≠ ds) && t.reach.any ds.contains

/-- A remote instruction of `n` transactions that meets no exception waits at issue: for places in the tracker, or for the
group's multicast stores (R266, R271). -/
def State.remoteWaits (s : State) (g : GroupRef) (f : RemoteForm) (w : BitVec 64) (gr : Group) (regs : List (Nat × Nat))
    (n : Nat) : Bool :=
  let lanes := gr.execLanes w
  (!s.trackerRoom g n || s.storeWaits g f w gr lanes) && (s.fetch g.core gr).1.isNone && !s.stopDue g.core &&
    regsOk (s.vregs g.core) ((fVA w, 2) :: regs) && (excOfFails (lanes.flatMap (s.remoteFails g.core f w gr))).isNone

/-- A load of the own object-dictionary window. -/
def State.windowLane (s : State) (f : RemoteForm) (w : BitVec 64) (gr : Group) (lane : Nat) : Bool :=
  let a := remoteAddr f w gr lane
  f.load && decide (addrPlace a = s.place) && decide (s.subst s.place = s.place) && decide (regionOf (addrLocal a) = .window)

/-- The lanes' loads of the window are served. -/
def State.windowLoads (s : State) (g : GroupRef) (f : RemoteForm) (w : BitVec 64) (gr : Group) (lanes : List Nat) : State :=
  lanes.foldl (fun s i =>
    let r := s.windowLoad g.core g.slot (addrLocal (remoteAddr f w gr i) - windowBase) f.n
    r.2.addResps g [⟨i, BitVec.ofNat 64 (bytesNat r.1), none⟩]) s

/-- The transaction, opened alone, is answered with a failure at once. -/
def State.failsAtOnce (s : State) (g : GroupRef) (f : RemoteForm) (w : BitVec 64) (gr : Group) (t : LaneTx) : Bool :=
  match (s.openHeld g f w gr t).group? g with
  | some q => (q.resp.drop gr.resp.length).any fun r => r.exc.isSome
  | none => false

/-- The transactions of a held instruction. A store or atomic of which the device's own memory fails a part changes nothing
(R12): only what fails is performed, and nothing is sent. Where it goes to other devices too, its part on the device's own
memory waits for their responses. What other devices do cannot be undone (log 70). -/
def State.openAll (s : State) (g : GroupRef) (f : RemoteForm) (w : BitVec 64) (gr : Group) (l : List LaneTx) : State :=
  let own := (l.filter fun t => s.ownPlace t.addr).flatMap fun t => t.parts f w gr
  let far := l.filter fun t => !s.ownPlace t.addr
  let bad := if f.load then [] else own.filter fun t => s.failsAtOnce g f w gr t
  let first := if !bad.isEmpty then bad else if f.load ∨ far.isEmpty then own ++ far else far
  first.foldl (fun s t => s.openHeld g f w gr t) s

/-- The lanes of a held store or atomic whose part, on the device's own memory, is still to be performed. -/
def State.heldLeft (s : State) (w : BitVec 64) (gr : Group) : List Nat :=
  if (heldForm w).load then []
  else (gr.execLanes w).filter fun i =>
    s.ownPlace (remoteAddr (heldForm w) w gr i) && !gr.resp.any fun r => decide (r.lane = i)

/-- A held instruction ends once every response has arrived. Where none of them is a failure, the part on the device's own
memory comes last (R12). -/
def State.heldDone (s : State) (g : GroupRef) : State :=
  match s.group? g with
  | none => s
  | some gr =>
    match gr.hold with
    | .response w =>
      let f := heldForm w
      let left := s.heldLeft w gr
      if s.holding g then s
      else if s.stopDue g.core then s.stopGroup g
      else if left.isEmpty ∨ (excOfFails (heldFails gr)).isSome then s.heldEnd g w gr
      else if !s.trackerRoom g left.length then s
      else
        let t := s.openAll g f w gr (if f.op = 0x02 then storeTxs f w gr left else eachTx f w gr left)
        match t.group? g with
        | some q => if t.holding g then t else t.heldEnd g w q
        | none => t
    | _ => s

/-- A held form: its transactions are opened and the group waits for their responses. With no executing thread it goes on
at once; without places in the tracker it waits at issue. -/
def heldIssue (g : GroupRef) (w : BitVec 64) (cls : Nat) (f : RemoteForm) (regs : List (Nat × Nat))
    (txs : Group → List Nat → List LaneTx) (s : State) : Outcome :=
  match s.issuer g with
  | none => .next s
  | some gr0 =>
    if s.remoteWaits g f w gr0 regs (txs gr0 (gr0.execLanes w)).length then .next s
    else
      remoteIssue g w cls f regs (fun s gr lanes =>
        let gr := { gr with hold := .response w, resp := [] }
        let s := (s.setGroup g gr).windowLoads g f w gr (lanes.filter (s.windowLane f w gr))
        let s := s.openAll g f w gr (txs gr (lanes.filter fun i => !s.windowLane f w gr i))
        .done (s.heldDone g).wakeUp) s

/-- A posted form. -/
def postedIssue (g : GroupRef) (w : BitVec 64) (f : RemoteForm) (regs : List (Nat × Nat)) (s : State) : Outcome :=
  match s.issuer g with
  | none => .next s
  | some gr0 =>
    if s.remoteWaits g f w gr0 regs (gr0.execLanes w).length then .next s
    else
      remoteIssue g w 8 f regs (fun s gr lanes =>
        let s := s.setGroup g gr.advance
        .done ((eachTx f w gr lanes).foldl (fun s t => s.openPosted g f w gr t) s).wakeUp) s

/-! ### The instructions -/

/-- The opcode of a global form. -/
def globalOpcode (store : Bool) : GSize → BitVec 16
  | .g32 => if store then 0x2111 else 0x2101
  | .g64 => if store then 0x2112 else 0x2102

/-- LD.G.32 and LD.G.64 (R190). -/
def execLdG (g : GroupRef) (sz : GSize) (f : BitVec 48) (s : State) : Outcome :=
  let w := f ++ globalOpcode false sz
  let fm : RemoteForm := ⟨0x01, sz.bytes, true⟩
  heldIssue g w 3 fm [(fVD w, sz.regs)] (loadTxs fm w) s

/-- ST.G.32 and ST.G.64 (R190). -/
def execStG (g : GroupRef) (sz : GSize) (f : BitVec 48) (s : State) : Outcome :=
  let w := f ++ globalOpcode true sz
  let fm : RemoteForm := ⟨0x02, sz.bytes, false⟩
  heldIssue g w 3 fm [(fVB w, sz.regs)] (storeTxs fm w) s

/-- A held atomic of 8 bytes. -/
def atomicIssue (g : GroupRef) (w : BitVec 64) (op : BitVec 8) (s : State) : Outcome :=
  let fm : RemoteForm := ⟨op, 8, false⟩
  heldIssue g w 8 fm [(fVB w, 2), (fVD w, 2)] (eachTx fm w) s

/-- AT.CAS.64 (R264). -/
def execAtCas64 (g : GroupRef) (f : BitVec 48) (s : State) : Outcome := atomicIssue g (f ++ (0x8001 : BitVec 16)) 0x03 s

/-- AT.SWP.64 (R264). -/
def execAtSwp64 (g : GroupRef) (f : BitVec 48) (s : State) : Outcome := atomicIssue g (f ++ (0x8002 : BitVec 16)) 0x04 s

/-- AT.ADD.64 (R264). -/
def execAtAdd64 (g : GroupRef) (f : BitVec 48) (s : State) : Outcome := atomicIssue g (f ++ (0x8003 : BitVec 16)) 0x05 s

/-- RED.ADD.W40 (R264, R265). -/
def execRedAddW40 (g : GroupRef) (f : BitVec 48) (s : State) : Outcome :=
  let w := f ++ (0x8011 : BitVec 16)
  postedIssue g w ⟨0x10, 16, false⟩ [(fVB w, 4)] s

/-- A posted reduction of one register. -/
def redIssue (g : GroupRef) (w : BitVec 64) (op : BitVec 8) (n : Nat) (s : State) : Outcome :=
  postedIssue g w ⟨op, n, false⟩ [(fVB w, 1)] s

/-- RED.ADD.F32 (R264). -/
def execRedAddF32 (g : GroupRef) (f : BitVec 48) (s : State) : Outcome := redIssue g (f ++ (0x8012 : BitVec 16)) 0x11 4 s

/-- RED.ADD.BF16 (R264). -/
def execRedAddBf16 (g : GroupRef) (f : BitVec 48) (s : State) : Outcome := redIssue g (f ++ (0x8013 : BitVec 16)) 0x12 2 s

/-- RED.MAX.F32 (R264). -/
def execRedMaxF32 (g : GroupRef) (f : BitVec 48) (s : State) : Outcome := redIssue g (f ++ (0x8014 : BitVec 16)) 0x13 4 s

/-- RED.MIN.F32 (R264). -/
def execRedMinF32 (g : GroupRef) (f : BitVec 48) (s : State) : Outcome := redIssue g (f ++ (0x8015 : BitVec 16)) 0x14 4 s

/-- RED.MAX.BF16 (R264). -/
def execRedMaxBf16 (g : GroupRef) (f : BitVec 48) (s : State) : Outcome := redIssue g (f ++ (0x8016 : BitVec 16)) 0x15 2 s

/-- RED.MIN.BF16 (R264). -/
def execRedMinBf16 (g : GroupRef) (f : BitVec 48) (s : State) : Outcome := redIssue g (f ++ (0x8017 : BitVec 16)) 0x16 2 s

/-- MC.ST.64 (R264, R268). -/
def execMcSt64 (g : GroupRef) (f : BitVec 48) (s : State) : Outcome :=
  let w := f ++ (0x8021 : BitVec 16)
  postedIssue g w ⟨0x20, 8, false⟩ [(fVB w, 2)] s

/-- FENCE.R: under any active mask, until the group's posted transactions have completed (R272). -/
def execFenceR (g : GroupRef) (f : BitVec 48) (s : State) : Outcome :=
  let w := f ++ (0x8030 : BitVec 16)
  issued g w 8 (fun s gr => s.fenceCheck g gr w) s

end Sys2Proof.Machine
end

