-- ==== Sys2Proof/Machine/Transactions.lean ====
section
/-!
DEFINITION. The ends of transactions: responses, timeouts, and what each owner does with them (R190, R266, R267, R272), and
the commands REMOTE_RESPONSE and REMOTE_TIMEOUT.
-/

namespace Sys2Proof.Machine

/-- SRC_MASTER of a transaction (R261). -/
def State.txMaster (s : State) (t : Tx) : BitVec 8 :=
  match t.owner with
  | .held c _ _ | .posted c _ _ => BitVec.ofNat 8 c
  | .copyRead c _ | .copyWrite c => BitVec.ofNat 8 (0x80 + ((s.copy? c).map (·.lighter)).getD 0)
  | .chunk _ _ | .progress _ _ | .line1 _ => 0xF2
  | .mirror _ => 0xF4



/-- A response for lanes of a held instruction (R190): those of the packets of its transaction that it answers (R266). -/
def State.heldAnswer (s : State) (g : GroupRef) (t : Tx) (lanes : List (Nat × Nat)) (x : Resp) : State :=
  match s.group? g with
  | none => s
  | some gr =>
    match gr.hold with
    | .response w =>
      let f := heldForm w
      let ls := if t.left.isEmpty then lanes else lanesIn f w gr t.left lanes
      (s.laneAnswer g f w gr ls x).heldDone g
    | .stopped => s.reap g
    | _ => s

/-- What an owner does with the end of its transaction. -/
def State.txEnded (s : State) (t : Tx) (x : Resp) : State :=
  match t.owner with
  | .held c sl lanes => s.heldAnswer ⟨c, sl⟩ t lanes x
  | .posted c sl lane => (s.postFailed ⟨c, sl⟩ t.seq (respExc t.op x.status x.detail t.addr lane)).wake ⟨c, sl⟩
  | .copyRead c d => s.copyReadDone c d x
  | .copyWrite c => s.copyWriteDone c x
  | .chunk c _ | .line1 c => s.hoWritten c x
  | .progress c k => s.hoProgressed c k x
  | .mirror i => s.mirrorDone i x.status

/-- The held instructions whose responses have arrived go on. -/
def State.heldGo (s : State) : State :=
  (s.cores.flatMap fun c => c.2.groups.filterMap fun g => match g.2.hold with
    | .response _ => some (⟨c.1, g.1⟩ : GroupRef)
    | _ => none).foldl State.heldDone s

/-- Places in the tracker go to the instructions and the engines that wait for them. -/
def State.txRoom (s : State) : State :=
  let s := s.copiesRun.heldGo
  let s := (List.range 16).foldl (fun s i => s.mirrorGo i) s
  (List.range 16).foldl (fun s h =>
    let s := s.lineGo h
    match (s.channel h).active.bind s.cmd? with
    | some c => if c.hoFunc = 0 then (s.hoGo h c).hoNext h else s
    | none => s) s

/-- A transaction completes: it leaves the tracker, a TIMEOUT is counted and logged, and its owner goes on. -/
def State.finishTx (s : State) (t : Tx) (x : Resp) : State :=
  let m := s.txMaster t
  let s := { s with fab := { s.fab with tracker := s.fab.tracker.filter fun q => decide (q.tag ≠ t.tag) } }
  let s := if x.status = Status.timeout then s.timeoutNoted t.tag t.dst t.op m else s
  (s.txEnded t x).txRoom

def State.tx? (s : State) (tag : Nat) : Option Tx := s.fab.tracker.find? fun t => decide (t.tag = tag)

/-- The transaction that a response packet answers: its tag, its OP, and its source, but for a multicast (R268), and for the
TIMEOUT of a device on the way whose fence cuts the request off (R382). -/
def State.answers? (s : State) (pk : Packet) : Option Tx :=
  match s.tx? pk.tag.toNat with
  | some t =>
    let from_ := pk.src = t.dst ∨ t.op = 0x20 ∨ (pk.status = Status.timeout ∧ pk.detail = 0x01)
    if pk.op = (t.op ||| 0x80) ∧ from_ ∧ s.clk.now < t.deadline then some t else none
  | none => none

def packetResp (pk : Packet) (coherent : Bool) : Resp := ⟨pk.status, pk.detail, pk.payload, pk.pmask, coherent⟩

/-- The domain line cache takes the line that a load read from a COHERENT region of its domain; it holds 16,384 lines
(R273, log 17). -/
def State.fillLine (s : State) (t : Tx) (x : Resp) : State :=
  let g? : Option Group := match t.owner with
    | .held c sl _ => s.group? ⟨c, sl⟩
    | _ => none
  match g? with
  | some gr =>
    match gr.hold with
    | .response w =>
      if x.coherent ∧ !t.stale ∧ t.op = 0x01 ∧ (x.status = Status.ok ∨ x.status = Status.poisoned) ∧
          x.payload.length = 128 ∧ s.sameDomain t.dst then
        let line := (t.addr.extractLsb' 0 40).toNat / 128
        let words := (pieceWords x.payload x.pmask).map fun q => codeWord q.1 q.2
        let l : CacheLine := { home := t.dst, line := line, key := remoteKey w gr, words := words }
        { s with fab := { s.fab with lineCache :=
          (l :: s.fab.lineCache.filter fun c => !(decide (c.home = t.dst) && decide (c.line = line) &&
            decide (c.key = l.key))).take 16384 } }
      else s
    | _ => s
  | none => s

/-- A response to one packet of a transaction of several: the others are still awaited (R266). -/
def State.partResponse (s : State) (t : Tx) (r : Nat × Nat) (x : Resp) : State :=
  let s := { s with fab := { s.fab with
    tracker := s.fab.tracker.map fun (q : Tx) => if q.tag = t.tag then { q with left := q.left.erase r } else q } }
  s.txEnded { t with left := [r] } x

/-- A response reaches its requester: before the deadline it completes its transaction, or its packet's part of it, and
otherwise it is discarded (R266, R267). -/
def State.takeResponse (s : State) (pk : Packet) (coherent : Bool) : State :=
  match s.answers? pk with
  | some t =>
    match t.left.find? fun r => decide (r.1 = pk.addr.toNat), decide (1 < t.left.length) with
    | some r, true => s.partResponse t r (packetResp pk coherent)
    | none, true => s.lateResponse pk.tag.toNat
    | _, false => (s.fillLine t (packetResp pk coherent)).finishTx t (packetResp pk coherent)
  | none => s.lateResponse pk.tag.toNat

/-- The port by which a response comes in: the one where it stands unserved, or else one that carries traffic. -/
def State.rxPort (s : State) (pk : Packet) : Nat :=
  match (List.range 4).find? fun p => (s.port p).rxOld.contains pk || (s.port p).rxq.contains pk with
  | some p => p
  | none => ((List.range 4).find? fun p => (s.port p).state.carries).getD 4

/-- REMOTE_RESPONSE. -/
def execRemoteResponse (pk : Packet) (coherent : Bool) (s : State) : Outcome :=
    withRoom (.remoteResponse pk coherent) s <|
  if pk.op.getLsbD 7 ∧ pk.op ≠ 0xB0 then
    .next (s.onPacket (s.rxPort pk) pk fun s => (s.takeResponse pk coherent).wakeUp)
  else .next s

/-- REMOTE_TIMEOUT: the transaction reaches its deadline. -/
def execRemoteTimeout (tag : Nat) (s : State) : Outcome := withRoom (.remoteTimeout tag) s <|
  match s.tx? tag with
  | none => .next s
  | some t => .next (((s.advanceTo t.deadline).leaveLate [t]).finishTx t (Resp.fail Status.timeout 0))

end Sys2Proof.Machine
end

