-- ==== Sys2Proof/Machine/Packets.lean ====
section
/-!
DEFINITION. Request packets that arrive at their target, and the acknowledgements of invalidations (R262, R268, R274).
-/

namespace Sys2Proof.Machine

/-- A multicast packet that has been served here moves on, or the last device of its line answers. -/
def State.mcGo (s : State) (pk : Packet) : State :=
  if pk.mcCount ≠ 0 then s.mcForward pk
  else
    let x := respPacket pk s.self ⟨pk.status, pk.detail, [], 0, false⟩
    if x.dst = s.self then s.takeResponse x false else s.sendResponse pk.vc x

/-- What waited for acknowledgements goes on: a multicast, a request of this device, or a response to another (R274). -/
def State.acked (s : State) (pk : Packet) : State :=
  if pk.op = 0x20 then s.mcGo pk
  else if pk.dst = s.self then s.takeResponse pk false
  else s.sendResponse pk.vc pk

/-- A request packet at its target: it is served, and answered now or after the acknowledgements it waits for. -/
def State.servePacket (s : State) (port : Nat) (pk : Packet) : State :=
  let r := s.serveReq (packetReq pk (some port))
  let out := if pk.op = 0x20 then mcStored pk r.1.status else respPacket pk s.self r.1
  let s1 := match if pk.op = 0x20 then s.mcWait pk r.2.1 else r.2.1 with
    | some w => r.2.2.awaitAcks w out
    | none => r.2.2.acked out
  (if pk.op ≠ 0x01 ∧ r.1.status = Status.ok then s1.lineZeroWritten pk.addr.toNat pk.payload.length else s1).wakeUp

/-- A request row: a packet of its OPs. -/
def reqRow (ok : BitVec 8 → Bool) (port : Nat) (pk : Packet) (s : State) : Outcome :=
  if ok pk.op then .next (s.onPacket port pk fun s => s.servePacket port pk) else .next s

/-- A request OP that R262 does not list; it is answered with REFUSED. -/
def opUnlisted (op : BitVec 8) : Bool :=
  !op.getLsbD 7 && (reqShape op 0).isNone && decide (op ≠ 0x30) && decide (op ≠ 0x40) && decide (op ≠ 0x41)

/-- READ; a request of an unlisted OP is answered here too (R262). -/
def execPktRead (port : Nat) (pk : Packet) (s : State) : Outcome := withRoom (.pktRead port pk) s <|
  reqRow (fun o => decide (o = 0x01) || opUnlisted o) port pk s

/-- WRITE. -/
def execPktWrite (port : Nat) (pk : Packet) (s : State) : Outcome :=
  withRoom (.pktWrite port pk) s (reqRow (fun o => decide (o = 0x02)) port pk s)

/-- CAS. -/
def execPktCas (port : Nat) (pk : Packet) (s : State) : Outcome :=
  withRoom (.pktCas port pk) s (reqRow (fun o => decide (o = 0x03)) port pk s)

/-- SWAP. -/
def execPktSwap (port : Nat) (pk : Packet) (s : State) : Outcome :=
  withRoom (.pktSwap port pk) s (reqRow (fun o => decide (o = 0x04)) port pk s)

/-- FETCH_ADD. -/
def execFetchAdd (port : Nat) (pk : Packet) (s : State) : Outcome :=
  withRoom (.fetchAdd port pk) s (reqRow (fun o => decide (o = 0x05)) port pk s)

/-- RED_ADD, RED_MAX and RED_MIN. -/
def execReductionRequest (port : Nat) (pk : Packet) (s : State) : Outcome := withRoom (.reductionRequest port pk) s <|
  reqRow (fun o => decide (0x10 ≤ o) && decide (o ≤ 0x16)) port pk s

/-- MCAST_WRITE. -/
def execMcastWrite (port : Nat) (pk : Packet) (s : State) : Outcome :=
  withRoom (.mcastWrite port pk) s (reqRow (fun o => decide (o = 0x20)) port pk s)

/-- The line of a home leaves the domain cache, and a load of it that is under way fills it no more (R274). -/
def State.loseLine (s : State) (home : Coord) (line : Nat) : State :=
  { s with fab := { s.fab with
    lineCache := s.fab.lineCache.filter fun c => !(decide (c.home = home) && decide (c.line = line))
    tracker := s.fab.tracker.map fun t =>
      if t.op = 0x01 ∧ t.dst = home ∧ (t.addr.extractLsb' 0 40).toNat / 128 = line then { t with stale := true } else t } }

/-- INVALIDATE: the line leaves the domain cache, and INV_ACK goes back (R274). -/
def execInvalidate (port : Nat) (pk : Packet) (s : State) : Outcome :=
  if pk.op = 0x30 then
    .next (s.onPacket port pk fun s =>
      (s.loseLine pk.src (pk.addr.toNat / 128)).sendResponse pk.vc (respPacket pk s.self Resp.ok))
  else .next s

/-- A sharer's acknowledgement is that of the oldest INVALIDATE of the line to it: it is taken off every wait, of which none
is for an older one. The waits left, and what waited where a wait is over, oldest first. -/
def ackTake (line : Nat) (c : Coord) : List InvWait → List InvWait × List Packet
  | [] => ([], [])
  | w :: ws =>
    let r := ackTake line c ws
    let left := w.waiting.erase (line, c)
    if left.isEmpty then (r.1, w.response.toList ++ r.2) else ({ w with waiting := left } :: r.1, r.2)

/-- A sharer has acknowledged, or is gone. -/
def State.ackFrom (s : State) (line : Nat) (c : Coord) : State :=
  let r := ackTake line c s.fab.invWaits
  r.2.foldl State.acked { s with fab := { s.fab with invWaits := r.1 } }

/-- INV_ACK; a device on the way whose fence cuts an INVALIDATE off answers it with TIMEOUT, for the sharer that its TAG names
(R382). -/
def execInvAck (port : Nat) (pk : Packet) (s : State) : Outcome := withRoom (.invAck port pk) s <|
  if pk.op = 0xB0 then
    .next (s.onPacket port pk fun s =>
      s.ackFrom (pk.addr.toNat / 128) (if pk.status = Status.timeout then pk.tag else pk.src))
  else .next s

end Sys2Proof.Machine
end

