-- ==== Sys2Proof/Machine/Rules.lean ====
section
/-!
DEFINITION. The rule banks of the update engine (R314 to R318): arming their switch at an epoch, and the copy at once.
-/

namespace Sys2Proof.Machine

/-- RULE_SWITCH_EPOCH arms the switch (R317). -/
def execRuleSwitchEpoch (via : OdPath) (v : BitVec 32) (s : State) : Outcome := withRoom (.ruleSwitchEpoch via v) s <|
  .next (s.odRow via 0x2780 0x02 v.toNat (withAccess v.toNat fun s =>
    if epochLater (s.epoch (s.odGet Od.ruleSwitchCtx)) v then
      (Status.ok, (s.odSet Od.ruleSwitchEpoch v.toNat).odSet Od.ruleSwitchArmed 1)
    else (Status.refused, s)))

/-- RULE_COMMIT_NOW: 0x01 copies the bank at once (R317). -/
def execRuleCommitNow (via : OdPath) (v : BitVec 8) (s : State) : Outcome := withRoom (.ruleCommitNow via v) s <|
  .next (s.odRow via 0x2780 0x04 v.toNat (withAccess v.toNat fun s =>
    if v ≠ 1 ∨ s.odGet Od.ruleSwitchArmed = 1 then (Status.refused, s)
    else
      let s := { s with disp := { s.disp with ruleTie := none } }
      (Status.ok, s.copyRules 1 (s.odGet Od.ruleSwitchCtx) (s.epoch (s.odGet Od.ruleSwitchCtx)) s.clk.now)))

end Sys2Proof.Machine
end

