-- ==== Sys2Proof/Machine/Barrier.lean ====
section
/-!
DEFINITION. Barriers (R309, R310), the switch of an epoch (R33, R389), and the exchange of arrivals and releases that a
PERMUTE shares with them (R306).
-/

namespace Sys2Proof.Machine

/-! ### The exchange -/

/-- An arrival from a member is taken in: one of failed status, or with another value than this member's, is a failure. -/
def BarrierRun.take (r : BarrierRun) (preds : List Coord) (f : CollFlit) : BarrierRun :=
  if preds.contains f.src && !r.arrived.contains f.src then
    { r with arrived := f.src :: r.arrived, failed := r.failed || decide (f.status ≠ Status.ok) || decide (f.value ≠ r.value) }
  else r

/-- The member may send its arrival, or the root decide. -/
def BarrierRun.complete (r : BarrierRun) (preds : List Coord) : Bool := !r.sent && preds.all fun d => r.arrived.contains d

def BarrierRun.status (r : BarrierRun) : Status := if r.failed then Status.refused else Status.ok

/-- The member's arrival goes to its successor. -/
def State.sendArrive (s : State) (r : BarrierRun) (d : Coord) (noEpoch : Bool) (ctx : Nat) : State :=
  s.sendCtrl 0x12 (s.flitTo (Place.ofCoord d) r.job r.group r.value r.status noEpoch ctx)

/-- The release goes back along every reverse edge. -/
def State.sendRelease (s : State) (r : BarrierRun) (st : Status) (noEpoch : Bool) (ctx : Nat) : State :=
  (s.chainPlace r.group).preds.foldl (fun s d =>
    s.sendCtrl 0x13 (s.flitTo (Place.ofCoord d) r.job r.group r.value st noEpoch ctx)) s

/-! ### Open barriers -/

def State.barrier? (s : State) (ctx : Nat) : Option BarrierRun := SMap.find? s.barriers ctx
def State.setBarrier (s : State) (ctx : Nat) (r : BarrierRun) : State := { s with barriers := SMap.put s.barriers ctx r }

/-- A barrier completes without an epoch change: its record, its count and its status (R310). -/
def State.barrierFails (s : State) (ctx : Nat) (r : BarrierRun) (st : Status) (orphan : Bool) : State :=
  let s := { s with
    barriers := SMap.erase s.barriers ctx
    disp := { s.disp with barEnds := SMap.put s.disp.barEnds ctx ⟨s.clk.now, r.job, r.group, r.value, r.arrived⟩ } }.odAdd
      Od.barriersFailed 1
  let s :=
    if orphan then s.event 0x0B 0 0x0412 sevError [(16, 1, ctx), (17, 1, r.group), (20, 4, r.value.toNat)]
    else s.event 0x0B 0 0x0411 sevWarning [(16, 1, ctx), (17, 1, r.group), (18, 1, st.toNat), (20, 4, r.value.toNat)]
  match s.cmd? r.cmd with
  | none => s
  | some c => (s.commit c st 0).pump

/-- A release is applied and passed on: with OK the switch is due at T, and otherwise the barrier completes (R33, R310). -/
def State.releaseBarrier (s : State) (ctx : Nat) (r : BarrierRun) (st : Status) : State :=
  if r.released then s
  else
    let s := s.sendRelease r st false ctx
    if st = Status.ok then
      { s.setBarrier ctx { r with released := true } with
        epochs := SMap.put s.epochs ctx (s.clk.now + s.odGet Od.epochLead, r.value + 1, some r.cmd) }
    else s.barrierFails ctx r st false

/-- An abort for the root's epoch came in before now (R310). -/
def BarrierRun.abortDue (r : BarrierRun) (now : Nat) : Bool :=
  match r.abortSeen with
  | some t => decide (t < now)
  | none => false

/-- A barrier goes on after an arrival of its own or of a predecessor. At the root the last arrival decides, also over an
abort of its own timestamp (R310). -/
def State.advanceBarrier (s : State) (ctx : Nat) (r : BarrierRun) : State :=
  let p := s.chainPlace r.group
  if r.complete p.preds then
    let r := { r with sent := true }
    match p.succ with
    | none => (s.setBarrier ctx r).releaseBarrier ctx r (if r.abortDue s.clk.now then Status.timeout else r.status)
    | some d => (s.setBarrier ctx r).sendArrive r d false ctx
  else s.setBarrier ctx r

/-- The root of an open barrier releases with TIMEOUT once the time of an abort is over without its last arrival, unless it
has released (R310, log 72). -/
def State.rootDecides (s : State) (ctx : Nat) : State :=
  match s.barrier? ctx with
  | some r =>
    if r.abortDue s.clk.now ∧ (s.chainPlace r.group).succ = none then s.releaseBarrier ctx r Status.timeout else s
  | none => s

def State.rootsDecide (s : State) : State := (List.range 16).foldl State.rootDecides s

/-- A flit belongs to a barrier: same job, group and context. -/
def flitOfBarrier (r : BarrierRun) (ctx : Nat) (f : CollFlit) : Bool :=
  !f.noEpoch && decide (f.job = r.job) && decide (f.group.toNat = r.group) && decide (f.context.toNat = ctx)

/-- Arrivals that came before, taken in: one of each member; the later ones are kept for what comes after (R306, R310). -/
def BarrierRun.takeKept (preds : List Coord) (own : CollFlit → Bool) :
    List CollFlit → BarrierRun × List CollFlit → BarrierRun × List CollFlit
  | [], a => a
  | f :: fs, (r, kept) =>
    if own f && !r.arrived.contains f.src then BarrierRun.takeKept preds own fs (r.take preds f, kept)
    else BarrierRun.takeKept preds own fs (r, kept ++ [f])

/-- A checked BARRIER starts: the member arrives, and takes in what has come before it; a release that has passed it already
ends its barrier (R310). -/
def State.startBarrier (s : State) (c : Cmd) (ctx g : Nat) : State :=
  let s := (s.startCmd c).2
  let r : BarrierRun :=
    { cmd := c.serial, group := g, job := c.job, value := s.epoch ctx, arrivedAt := s.clk.now, arrived := [], failed := false
      sent := false, abortAt := none, abortSeen := none, released := false }
  let q := BarrierRun.takeKept (s.chainPlace g).preds (flitOfBarrier r ctx) s.disp.arrivals (r, [])
  let aborts := s.disp.barAborts.filter fun f => flitOfBarrier r ctx f.2
  let r := { q.1 with abortSeen := (aborts.find? fun f => decide (f.2.value = r.value)).map (·.1) }
  let gone := s.disp.barReleases.find? (flitOfBarrier r ctx)
  let s := { s with disp := { s.disp with
    arrivals := q.2, barAborts := s.disp.barAborts.filter fun f => !flitOfBarrier r ctx f.2
    barReleases := s.disp.barReleases.filter fun f => !flitOfBarrier r ctx f } }
  match gone with
  | some f => s.barrierFails ctx r f.status false
  | none => (s.advanceBarrier ctx r).rootDecides ctx

/-- BARRIER (R309). -/
def execBarrier (cmd : Nat) (s : State) : Outcome := withRoom (.barrier cmd) s <|
  .next (s.onCmd cmd 0x0011 fun s c =>
    let ctx := c.arg 192 4
    let g := c.arg 196 4
    match s.collChecks c g [] (c.bad || decide (c.arg 200 312 ≠ 0) || decide (c.job.toNat ≠ (s.grp g).job))
        (s.barrier? ctx).isSome with
    | some r => r.2.commit c r.1 0
    | none => s.startBarrier c ctx g)

/-- A wait that passes BARRIER_TIMEOUT: BAR_ABORT goes to the root. The root's own counts as an abort that reaches it now,
over which a last arrival of the same timestamp wins (R310). -/
def State.barrierExpires (s : State) (ctx : Nat) (r : BarrierRun) : State :=
  if r.released ∨ r.abortAt.isSome then s
  else
    let r := { r with abortAt := some s.clk.now }
    let s := s.setBarrier ctx r
    if (s.chainPlace r.group).succ = none then
      (s.setBarrier ctx { r with abortSeen := r.abortSeen.or (some s.clk.now) }).rootDecides ctx
    else
      let g := s.grp r.group
      s.sendCtrl 0x14 (s.flitTo (s.memberOf g (g.size - 1)) r.job r.group r.value Status.timeout false ctx)

/-- BARRIER_TIMEOUT. -/
def execBarrierTimeout (ctx : Nat) (s : State) : Outcome := withRoom (.barrierTimeout ctx) s <|
  match s.barrier? ctx with
  | none => .next s
  | some r =>
    if r.released ∨ r.abortAt.isSome then .next s
    else .next ((s.advanceTo (r.arrivedAt + 1000000 * s.odGet Od.barrierTimeout)).barrierExpires ctx r)

/-- A flit is of the job and group of an exchange that ended less than `ms` ago. -/
def EndedExchange.covers (e : EndedExchange) (f : CollFlit) (now ms : Nat) : Bool :=
  decide (e.job = f.job) && decide (e.group = f.group.toNat) && decide (now < e.time + 1000000 * ms)

/-- The exchange has the arrival of one more member. -/
def EndedExchange.notes (e : EndedExchange) (f : CollFlit) : EndedExchange := { e with arrived := f.src :: e.arrived }

/-- A flit is for a barrier that has ended here without an epoch change: the members sent it before the release reached
them, which is less than BARRIER_TIMEOUT after it (R310, log 72). -/
def State.barOver (s : State) (f : CollFlit) : Bool :=
  match SMap.find? s.disp.barEnds f.context.toNat with
  | some e => e.covers f s.clk.now (s.odGet Od.barrierTimeout)
  | none => false

/-- An arrival that no open barrier takes is kept for one to come, unless it is of the barrier that has ended and to which
its member had not arrived (R310, log 72). -/
def State.keepBarArrive (s : State) (f : CollFlit) : State :=
  match SMap.find? s.disp.barEnds f.context.toNat with
  | some e =>
    if s.barOver f && !e.arrived.contains f.src then
      { s with disp := { s.disp with barEnds := SMap.put s.disp.barEnds f.context.toNat (e.notes f) } }
    else { s with disp := { s.disp with arrivals := s.disp.arrivals ++ [f] } }
  | none => { s with disp := { s.disp with arrivals := s.disp.arrivals ++ [f] } }

/-- An abort for a barrier that is not open here is kept for it, unless it is for one that has ended. -/
def State.keepAbort (s : State) (f : CollFlit) : State :=
  if s.barOver f then s else { s with disp := { s.disp with barAborts := s.disp.barAborts ++ [(s.clk.now, f)] } }

/-- BAR_ABORT at the root: it takes effect unless the last arrival comes at the same time; one for a barrier not yet open
there is kept (R310). -/
def execBarAbort (fl : CollFlit) (s : State) : Outcome := withRoom (.barAbort fl) s <|
  .next (s.onFlit 0x14 fl fun s =>
    let ctx := fl.context.toNat
    match s.barrier? ctx with
    | some r =>
      if flitOfBarrier r ctx fl then
        (if fl.value = r.value ∧ !r.released ∧ r.abortSeen = none then
          s.setBarrier ctx { r with abortSeen := some s.clk.now } else s).rootDecides ctx
      else s.keepAbort fl
    | none => s.keepAbort fl)

/-- BAR_ORPHANED: no release within a further timeout (R310). -/
def execBarOrphaned (ctx : Nat) (s : State) : Outcome := withRoom (.barOrphaned ctx) s <|
  match s.barrier? ctx with
  | none => .next s
  | some r =>
    match r.abortAt with
    | none => .next s
    | some t =>
      if r.released then .next s
      else .next ((s.advanceTo (t + 1000000 * s.odGet Od.barrierTimeout)).barrierFails ctx r Status.timeout true)

/-! ### The switch of an epoch (R33) -/

/-- EPOCH_SWITCH: once T is there, at which the epoch has changed, the barrier completes with OK. -/
def execEpochSwitch (ctx : Nat) (s : State) : Outcome := withRoom (.epochSwitch ctx) s <|
  match SMap.find? s.epochs ctx with
  | none => .next s
  | some (t, _, cmd) =>
    let s := s.advanceTo t
    let s := { s with epochs := SMap.erase s.epochs ctx, barriers := SMap.erase s.barriers ctx }.odAdd Od.barriersDone 1
    match cmd.bind s.cmd? with
    | none => .next s
    | some c => .next (s.commit c Status.ok 0).pump

/-- EPOCH_ADOPT sets a context's epoch as the write is served (R389). -/
def execEpochAdopt (via : OdPath) (v : BitVec 64) (s : State) : Outcome := withRoom (.epochAdopt via v) s <|
  .next (s.odRow via 0x2602 0x01 v.toNat (withAccess v.toNat fun s =>
    let ctx := (v.extractLsb' 32 4).toNat
    if (s.barrier? ctx).isSome then (Status.busy, s)
    else (Status.ok, s.switchEpoch ctx (v.extractLsb' 0 32) s.clk.now)))

end Sys2Proof.Machine
end

