-- ==== Sys2Proof/Machine/Permute.lean ====
section
/-!
DEFINITION. PERMUTE (R305 to R308), and the rows that buckets, barriers and PERMUTEs share: COLL_TIMEOUT, BAR_ARRIVE and
BAR_RELEASE.
-/

namespace Sys2Proof.Machine

/-! ### The command (R305, R306) -/

def Cmd.pmKey (c : Cmd) : BitVec 32 := BitVec.ofNat 32 (c.arg 480 32)
def Cmd.pmId (c : Cmd) : BitVec 32 := BitVec.ofNat 32 (c.arg 448 32)
def Cmd.pmGroup (c : Cmd) : Nat := c.arg 296 4
def Cmd.pmSegs (c : Cmd) : Nat := c.arg 288 8 + 1
def Cmd.pmUnits (c : Cmd) : Nat := c.arg 272 16
def Cmd.pmTable (c : Cmd) : Nat := c.arg 232 40
def Cmd.pmBase (c : Cmd) : Nat := c.arg 192 40

/-- Bytes of the buffer, and segments of the whole group. -/
def Cmd.pmBytes (c : Cmd) : Nat := c.pmSegs * c.pmUnits * 0x10000
def State.pmCount (s : State) (c : Cmd) : Nat := (s.grp c.pmGroup).size * c.pmSegs

/-- The destinations of a table's entries; none where one names no segment of the group, or two the same. -/
def permTable (n segs : Nat) (words : List Nat) : Option (List Nat) :=
  let d := words.map fun x => x % 2 ^ 12 * segs + x / 2 ^ 12 % 2 ^ 8
  if words.any (fun x => decide (2 ^ 20 ≤ x) || decide (segs ≤ x / 2 ^ 12 % 2 ^ 8)) ∨ d.any (fun x => decide (n ≤ x)) ∨
      !decide d.Nodup then none
  else some d

/-- The conditions under which a PERMUTE is REFUSED, its table apart. -/
def State.pmRefused (s : State) (c : Cmd) : Bool :=
  c.bad || decide (c.arg 300 148 ≠ 0) || decide (c.pmUnits = 0) || decide (c.job.toNat ≠ (s.grp c.pmGroup).job) ||
  s.disp.permutes.any fun p => decide (p.job = c.job) && decide (p.group = c.pmGroup) && decide (p.id = c.pmId)

/-! ### Steps (R307) -/

/-- The cycle of a segment under a table, from that segment (fuel: the segments). -/
def cycleFrom (t : List Nat) (h : Nat) : Nat → Nat → List Nat
  | 0, _ => []
  | k + 1, g => g :: (if t.getD g h = h then [] else cycleFrom t h k (t.getD g h))

/-- The cycles of a table that move something, by their lowest segment. -/
def permCycles (t : List Nat) : List (List Nat) :=
  (List.range t.length).filterMap fun h =>
    let c := cycleFrom t h t.length h
    if 1 < c.length ∧ c.all (fun g => decide (h ≤ g)) then some c else none

/-- A step of a member: the segment it acts on, whether it takes a received chunk, and the segment to which it sends its
own. -/
structure PermStep where
  seg : Nat
  takes : Bool
  next : Option Nat
  chunk : Nat
  deriving DecidableEq, Repr

/-- The steps of a member of a rank, in ascending order of (h, p, j). -/
def permSteps (t : List Nat) (segs units rank : Nat) : List PermStep :=
  (permCycles t).flatMap fun c =>
    let h := c.headD 0
    let pos := (c.zipIdx).map fun e => (e.1, decide (0 < e.2), some (t.getD e.1 h))
    ((pos ++ [(h, true, none)]).filter fun q => decide (q.1 / segs = rank)).flatMap fun q =>
      (List.range units).map fun j => ⟨q.1, q.2.1, q.2.2, j⟩

/-! ### Running -/

def State.permute? (s : State) (cmd : Nat) : Option PermuteRun := s.disp.permutes.find? fun p => decide (p.cmd = cmd)
def State.setPermute (s : State) (p : PermuteRun) : State :=
  { s with disp := { s.disp with permutes := s.disp.permutes.map fun q => if q.cmd = p.cmd then p else q } }
def State.dropPermute (s : State) (cmd : Nat) : State :=
  { s with disp := { s.disp with permutes := s.disp.permutes.filter fun p => decide (p.cmd ≠ cmd) } }

def State.permRank (s : State) (p : PermuteRun) : Nat := (s.rankIn? (s.grp p.group)).getD 0

/-- This member's steps. -/
def State.permStepsOf (s : State) (p : PermuteRun) : List PermStep := permSteps p.table p.segs p.units (s.permRank p)

/-- Local address of a chunk of a segment that this member holds. -/
def PermuteRun.addr (p : PermuteRun) (seg chunk : Nat) : Nat := p.base + (seg % p.segs * p.units + chunk) * 0x10000

/-- The packets of a received chunk, joined; none while one is missing. -/
def PermuteRun.image (p : PermuteRun) (seg chunk : Nat) : Option (List Byte) :=
  let mine := p.rx.filter fun r => decide (r.seg = seg) && decide (r.chunk = chunk)
  (List.range 256).foldl (fun acc i =>
    match acc, mine.find? (fun r => decide (r.index = i)) with
    | some l, some r => some (l ++ r.payload)
    | _, _ => none) (some [])

/-- A chunk read from this member's memory: PERM_DATA has no poison mark (R261), and the data of a poisoned word is a
free value (log 31). -/
def State.permRead (s : State) (a : Nat) : List Byte × State :=
  let q := s.devRead collAttr a 0x10000
  ((spanWords a 0x10000).zip q.1.2).foldl (fun acc e =>
    let lo := max a (8 * e.1)
    let hi := min (a + 0x10000) (8 * e.1 + 8)
    if e.2 then (acc.1 ++ natBytes (hi - lo) acc.2.fresh.1, acc.2.fresh.2)
    else (acc.1 ++ (q.1.1.drop (lo - a)).take (hi - lo), acc.2)) ([], q.2)

/-- A chunk goes to the holder of a segment; this member itself takes it at once. -/
def State.permSend (s : State) (p : PermuteRun) (seg chunk : Nat) (bs : List Byte) : State :=
  let g := s.grp p.group
  let d := s.memberOf g (seg / p.segs)
  let ps := (chunks 256 bs).zipIdx
  if d = s.place then
    match s.permute? p.cmd with
    | none => s
    | some q => s.setPermute { q with rx := q.rx ++ ps.map fun e => ⟨seg, chunk, e.2, e.1⟩ }
  else
    match s.route s.place d with
    | none => s
    | some r => ps.foldl (fun s e =>
        let pk : Packet :=
          { key := 0, addr := BitVec.ofNat 40 (seg * 256 + p.group * 16 + 3), job := p.job, tag := BitVec.ofNat 12 e.2
            srcMaster := 0xF0, tc := 0, priv := 1, len := e.1.length, waypoint := 0, wpValid := false, detour := false
            vc := 2, src := s.self, dst := d.coord, mcCount := 0, mcDir := false, mcAxis := false
            status := BitVec.ofNat 8 (chunk / 256), detail := BitVec.ofNat 8 chunk, op := 0x41, pmask := 0
            payload := e.1 }
        s.launchPacket pk r 2) s

/-- A chunk written by a command, in flight until it ends. -/
def State.permWrite (s : State) (cmd a : Nat) (bs : List Byte) : State :=
  ((s.countSpan collAttr 1 a bs.length).coherentWrite a bs.length).putPieces cmd
    (elemPieces a 1 (bs.map fun b => (b.toNat, false)))

/-- The next step of a member, if what it takes is there. -/
def State.permNext (s : State) (p : PermuteRun) : Option State :=
  if p.exchange.isSome then none
  else
    match (s.permStepsOf p)[p.stepsDone]? with
    | none => none
    | some t =>
      let a := p.addr t.seg t.chunk
      match if t.takes then p.image t.seg t.chunk else some [] with
      | none => none
      | some im =>
        let rx := p.rx.filter fun r => !(decide (r.seg = t.seg) && decide (r.chunk = t.chunk))
        let s := s.setPermute { p with stepsDone := p.stepsDone + 1, rx := if t.takes then rx else p.rx }
        let own := if t.next.isSome then s.permRead a else ([], s)
        let s := if t.takes then own.2.permWrite p.cmd a im else own.2
        match t.next with
        | some n => some (s.permSend p n t.chunk own.1)
        | none => some s

/-- A PERMUTE goes on as far as it can (fuel: its steps). -/
def State.permRun : Nat → State → Nat → State
  | 0, s, _ => s
  | k + 1, s, cmd =>
    match s.permute? cmd with
    | none => s
    | some p => match s.permNext p with
      | some s' => State.permRun k s' cmd
      | none => s

def State.permGo (s : State) (cmd : Nat) : State :=
  match s.permute? cmd with
  | none => s
  | some p => s.permRun ((s.permStepsOf p).length + 1) cmd

/-! ### The start exchange (R306) -/

/-- A release of the exchange is passed on: with OK data moves, and otherwise the PERMUTE completes with the status. -/
def State.releasePermute (s : State) (p : PermuteRun) (r : BarrierRun) (st : Status) : State :=
  let s := s.sendRelease r st true 0
  if st = Status.ok then (s.setPermute { p with exchange := none }).permGo p.cmd
  else
    match s.cmd? p.cmd with
    | none => s.dropPermute p.cmd
    | some c => ((s.dropPermute p.cmd).commit c st 0).pump

/-- The exchange goes on after an arrival. -/
def State.advanceExchange (s : State) (p : PermuteRun) (r : BarrierRun) : State :=
  let cp := s.chainPlace p.group
  if r.complete cp.preds then
    let r := { r with sent := true }
    let p := { p with exchange := some r }
    match cp.succ with
    | none => (s.setPermute p).releasePermute p r r.status
    | some d => (s.setPermute p).sendArrive r d true 0
  else s.setPermute { p with exchange := some r }

/-- A flit of the start exchange of a group's PERMUTE. -/
def flitOfPermute (job : BitVec 16) (group : Nat) (f : CollFlit) : Bool :=
  f.noEpoch && decide (f.job = job) && decide (f.group.toNat = group)

/-- A checked PERMUTE starts its exchange. -/
def State.startPermute (s : State) (c : Cmd) (table : List Nat) : State :=
  let s := (s.startCmd c).2
  let g := c.pmGroup
  let r : BarrierRun :=
    { cmd := c.serial, group := g, job := c.job, value := c.pmId, arrivedAt := s.clk.now, arrived := [], failed := false
      sent := false, abortAt := none, abortSeen := none, released := false }
  let p : PermuteRun :=
    { cmd := c.serial, group := g, job := c.job, id := c.pmId, segs := c.pmSegs, units := c.pmUnits, table := table
      base := c.pmBase, exchange := some r, stepsDone := 0, rx := []
      deadline := s.clk.now + 1000000 * s.odGet Od.collTimeout }
  let q := BarrierRun.takeKept (s.chainPlace g).preds (flitOfPermute c.job g) s.disp.arrivals (r, [])
  let s := { s with disp := { s.disp with permutes := s.disp.permutes ++ [p], arrivals := q.2 } }
  s.advanceExchange p q.1

/-- PERMUTE (R306). -/
def execPermute (cmd : Nat) (s : State) : Outcome := withRoom (.permute cmd) s <|
  .next (s.onCmd cmd 0x0012 fun s c =>
    let n := s.pmCount c
    let ranges := [(c.pmBase, c.pmBytes, c.pmKey, Access.read), (c.pmBase, c.pmBytes, c.pmKey, Access.write),
      (c.pmTable, 4 * n, c.pmKey, Access.read)]
    match s.collChecks c c.pmGroup ranges (s.pmRefused c) false with
    | some r => r.2.commit c r.1 0
    | none =>
      let q := s.readElems collAttr c.pmTable n 0
      if q.1.any (·.2) then q.2.commit c Status.poisoned 0
      else match permTable n c.pmSegs (q.1.map (·.1)) with
        | none => q.2.commit c Status.refused 0
        | some t => q.2.startPermute c t)

/-- PERM_DATA: a relayed chunk is taken in, and the member's steps go on (R301, R307). -/
def execPermData (port : Nat) (pk : Packet) (s : State) : Outcome := withRoom (.permData port pk) s <|
  if pk.op ≠ 0x41 then .next s
  else .next (s.onPacket port pk fun s =>
    let a := pk.addr.toNat
    let seg := a / 256
    let j := chunkNo pk
    let takes (p : PermuteRun) : Bool :=
      decide (p.job = pk.job) && decide (p.group = a / 16 % 16) && decide (a / 8 % 2 = 0) && decide (a % 8 = 3) &&
      decide (pk.payload.length = 256) && decide (pk.tag.toNat < 256) &&
      (((s.permStepsOf p).drop p.stepsDone).any fun t => t.takes && decide (t.seg = seg) && decide (t.chunk = j)) &&
      !p.rx.any fun r => decide (r.seg = seg) && decide (r.chunk = j) && decide (r.index = pk.tag.toNat)
    match s.disp.permutes.find? takes with
    | none => s.collDiscard pk
    | some p => (s.setPermute { p with rx := p.rx ++ [⟨seg, j, pk.tag.toNat, pk.payload⟩] }).permGo p.cmd)

/-- PERMUTE_COMMIT: every step of the member is done (R308). -/
def execPermuteCommit (cmd : Nat) (s : State) : Outcome := withRoom (.permuteCommit cmd) s <|
  match s.permute? cmd, s.cmd? cmd with
  | some p, some c =>
    if p.exchange = none ∧ p.stepsDone = (s.permStepsOf p).length ∧ s.linesAcked p.base c.pmBytes then
      .next (((((s.settle cmd).dropPermute cmd).odAdd Od.permutesDone 1).commit c Status.ok 0)).pump
    else .next s
  | _, _ => .next s

/-- A PERMUTE of a group ends without a result while arrivals of it may still come; with its exchange over, all have come
(R306, log 72). -/
def State.permEnded (s : State) (p : PermuteRun) : State :=
  let arrived := match p.exchange with
    | some r => r.arrived
    | none => (s.chainPlace p.group).preds
  { s with disp := { s.disp with
    permEnds := SMap.put s.disp.permEnds p.group ⟨s.clk.now, p.job, p.group, p.id, arrived⟩ } }

/-- An arrival that no open exchange takes is kept for a PERMUTE to come, unless it is of the one that has ended and to which
its member had not arrived (R306, log 72). -/
def State.keepPermArrive (s : State) (f : CollFlit) : State :=
  let g := f.group.toNat
  match SMap.find? s.disp.permEnds g with
  | some e =>
    if e.covers f s.clk.now (s.odGet Od.collTimeout) && decide (e.value = f.value) && !e.arrived.contains f.src then
      { s with disp := { s.disp with permEnds := SMap.put s.disp.permEnds g (e.notes f) } }
    else { s with disp := { s.disp with arrivals := s.disp.arrivals ++ [f] } }
  | none => { s with disp := { s.disp with arrivals := s.disp.arrivals ++ [f] } }

/-- The arrivals kept for a PERMUTE that this member has not started are dropped: it has ended. -/
def State.dropArrivals (s : State) (f : CollFlit) : State :=
  { s with disp := { s.disp with arrivals := s.disp.arrivals.filter fun a =>
      !(flitOfPermute f.job f.group.toNat a && decide (a.value = f.value)) } }

/-- A started PERMUTE ends without a result, as a bucket does (R292, R308). -/
def State.endPermute (s : State) (p : PermuteRun) (cause : BitVec 8) (starter : Coord) : State :=
  let s := (s.chainPlace p.group).all.foldl (fun s d =>
    if d = starter then s
    else s.sendCtrl 0x15 { s.flitTo (Place.ofCoord d) p.job p.group p.id Status.aborted false 0 with src := starter }) s
  let s := ((s.permEnded p).settle p.cmd).dropPermute p.cmd
  let s := s.scramble p.base (p.segs * p.units * 0x10000)
  let s := (s.odAdd Od.bucketsAborted 1).event 0x0A 0 0x0401 sevWarning
    [(16, 4, p.id.toNat), (20, 1, p.group), (21, 1, cause.toNat), (22, 2, starter.toNat)]
  match s.cmd? p.cmd with
  | none => s
  | some c => (s.commit c Status.aborted (BitVec.ofNat 16 (256 * cause.toNat))).pump

/-- PERM_ABORT ends the PERMUTE on a member that has not committed it (R308); its source is the starter, as for BKT_ABORT.
Where the member has not started it, its arrivals that have come here are over with it. -/
def execPermAbort (fl : CollFlit) (s : State) : Outcome := withRoom (.permAbort fl) s <|
  .next (s.onFlit 0x15 fl fun s =>
    match s.disp.permutes.find? fun p => flitIs fl p.job p.group p.id with
    | some p => s.endPermute p Status.aborted fl.src
    | none => s.dropArrivals fl)

/-- COLL_TIMEOUT: a bucket or PERMUTE reaches its time limit (R292, R308). -/
def execCollTimeout (cmd : Nat) (s : State) : Outcome := withRoom (.collTimeout cmd) s <|
  match s.bucketOf? cmd, s.permute? cmd with
  | some b, _ => .next ((s.advanceTo b.deadline).endBucket b Status.timeout s.self)
  | none, some p => .next ((s.advanceTo p.deadline).endPermute p Status.timeout s.self)
  | none, none => .next s

/-- BAR_ARRIVE: an arrival of a predecessor is taken in by the open barrier, or the open exchange, that it is for; an early
one is kept (R306, R310). -/
def execBarArrive (fl : CollFlit) (s : State) : Outcome := withRoom (.barArrive fl) s <|
  .next (s.onFlit 0x12 fl fun s =>
    if fl.noEpoch then
      match s.disp.permutes.find? fun p => flitOfPermute p.job p.group fl && p.exchange.any fun r =>
          !r.arrived.contains fl.src with
      | none => s.keepPermArrive fl
      | some p => match p.exchange with
        | none => s
        | some r => s.advanceExchange p (r.take (s.chainPlace p.group).preds fl)
    else
      let ctx := fl.context.toNat
      match s.barrier? ctx with
      | some r =>
        if flitOfBarrier r ctx fl && !r.released && !r.arrived.contains fl.src then
          s.advanceBarrier ctx (r.take (s.chainPlace r.group).preds fl)
        else s.keepBarArrive fl
      | none => s.keepBarArrive fl)

/-- A release that reaches a member with no such barrier open is passed on along its reverse edges, and kept for the
member's own barrier; an OK release never comes so, and one for a barrier that has ended is over (R310, log 72). -/
def State.releaseAhead (s : State) (f : CollFlit) : State :=
  if f.status = Status.ok ∨ s.barOver f then s
  else
    let s := (s.chainPlace f.group.toNat).preds.foldl (fun s d =>
      s.sendCtrl 0x13 (s.flitTo (Place.ofCoord d) f.job f.group.toNat f.value f.status false f.context.toNat)) s
    { s with disp := { s.disp with barReleases := s.disp.barReleases ++ [f] } }

/-- BAR_RELEASE from the successor is applied and passed on (R306, R310). -/
def execBarRelease (fl : CollFlit) (s : State) : Outcome := withRoom (.barRelease fl) s <|
  .next (s.onFlit 0x13 fl fun s =>
    if fl.noEpoch then
      match s.disp.permutes.find? fun p => flitOfPermute p.job p.group fl && p.exchange.any fun r => r.sent with
      | none => s
      | some p => match p.exchange with
        | none => s
        | some r => if (s.chainPlace p.group).succ = some fl.src then s.releasePermute p r fl.status else s
    else
      let ctx := fl.context.toNat
      if (s.chainPlace fl.group.toNat).succ ≠ some fl.src then s
      else match s.barrier? ctx with
        | some r => if flitOfBarrier r ctx fl then s.releaseBarrier ctx r fl.status else s.releaseAhead fl
        | none => s.releaseAhead fl)

end Sys2Proof.Machine
end

