-- ==== Sys2Proof/WellFormed.lean ====
section
/-!
DEFINITION. Which commands are well formed: every operand names something that an N9 has (R6, R17). A packet, flit or
frame is well formed when its parts have lengths that can arrive. `exec` is total and does not ask for it.
-/

namespace Sys2Proof

def GroupRef.wf (g : GroupRef) : Bool := decide (g.core < 128) && decide (g.slot < 16)

/-- A payload has at most 256 bytes (R262). -/
def Packet.wf (p : Packet) : Bool := decide (p.payload.length ≤ 256)

/-- A frame's payload has at most 1,480 bytes (R54). -/
def TheostFrame.wf (f : TheostFrame) : Bool := decide (f.body.length ≤ 1480)

def OdPath.wf : OdPath → Bool
  | .mailbox m => decide (m < 8)
  | .direct => true
  | .theost _ _ => true
  | .core c sl => decide (c < 128) && decide (sl < 16)

/-- A mailbox holds a value of up to 4,032 bytes (R50). -/
def MailboxReq.wf (r : MailboxReq) : Bool := decide (r.value.length ≤ 4032)

def ScrubUnit.wf : ScrubUnit → Bool
  | .hbm => true
  | .localMem c => decide (c < 128)
  | .clusterBuffer c => decide (c < 8)

def HwError.wf : HwError → Bool
  | .channelParity _ _ => true
  | .ringParity => true
  | .hbmReadParity st _ _ _ => decide (st < 8)
  | .hbmWriteParity st _ _ => decide (st < 8)
  | .hbmCommandParity st _ _ => decide (st < 8)
  | .icacheParity c => decide (c < 128)
  | .registerWord c sl lane n _ => decide (c < 128) && decide (sl < 16) && decide (lane < 32) && decide (n < 128)

/-- The cell is one that the device has: 128 cores of 16 slots and 32 lanes, the registers of R173, and the accumulators,
weights, scales and tags of R135 to R137. -/
def DebugCell.wf : DebugCell → Bool
  | .entry _ _ | .word _ => true
  | .v c s l r => decide (c < 128) && decide (s < 16) && decide (l < 32) && decide (r < 256)
  | .p c s l i => decide (c < 128) && decide (s < 16) && decide (l < 32) && decide (i < 8)
  | .u c s r => decide (c < 128) && decide (s < 16) && decide (r < 64)
  | .d c s r => decide (c < 128) && decide (s < 16) && decide (r < 16)
  | .pc c s => decide (c < 128) && decide (s < 16)
  | .accumulator c k => decide (c < 128) && decide (k < 81920)
  | .accumulatorMark c k => decide (c < 128) && decide (k < 65536)
  | .weights c k => decide (c < 128) && decide (k < 65536)
  | .weightPoison c k => decide (c < 128) && decide (k < 524288)
  | .weightScale c k => decide (c < 128) && decide (k < 32768)
  | .weightTag c k => decide (c < 128) && decide (k < 32)

def JtagReq.wf : JtagReq → Bool
  | .haltCore c => decide (c < 128)
  | .resumeCore c => decide (c < 128)
  | .read c => c.wf
  | .write c _ => c.wf
  | _ => true

/-- Lanes of a port: 40 on E and W, 24 on N and S (R242). -/
def portLanes (p : Nat) : Nat := if p < 2 then 40 else 24

/-- Indices of counter sets (R462). -/
def counterSet (i : BitVec 16) : Bool :=
  let n := i.toNat
  (decide (0x3100 ≤ n) && decide (n < 0x3180)) || (decide (0x3200 ≤ n) && decide (n < 0x3208)) ||
  (decide (0x3210 ≤ n) && decide (n < 0x3218)) || (decide (0x3220 ≤ n) && decide (n < 0x3224))

/-- Every operand is one that the device has. -/
def Instr.wf : Instr → Bool
  | .intAdd g _ => g.wf
  | .intSub g _ => g.wf
  | .intMul g _ => g.wf
  | .intMuladd g _ => g.wf
  | .intAnd g _ => g.wf
  | .intOr g _ => g.wf
  | .intXor g _ => g.wf
  | .intShl g _ => g.wf
  | .intShr g _ => g.wf
  | .intShra g _ => g.wf
  | .intMin g _ => g.wf
  | .intMax g _ => g.wf
  | .intCmp g _ => g.wf
  | .vPick g _ => g.wf
  | .vMov g _ => g.wf
  | .intAddi g _ => g.wf
  | .vLdi g _ => g.wf
  | .vLdhi g _ => g.wf
  | .fpAdd g _ => g.wf
  | .fpMul g _ => g.wf
  | .fpMuladd g _ => g.wf
  | .fpMin g _ => g.wf
  | .fpMax g _ => g.wf
  | .fpCmp g _ => g.wf
  | .cvtFtoi g _ => g.wf
  | .cvtItof g _ => g.wf
  | .uadd g _ => g.wf
  | .umovi g _ => g.wf
  | .u2v g _ => g.wf
  | .v2u g _ => g.wf
  | .s2u g _ => g.wf
  | .s2v g _ => g.wf
  | .dld g _ => g.wf
  | .nop g _ => g.wf
  | .bra g _ => g.wf
  | .rpush g _ => g.wf
  | .rjoin g _ => g.wf
  | .call g _ => g.wf
  | .ret g _ => g.wf
  | .endThreads g _ => g.wf
  | .cbar g _ => g.wf
  | .cbarRelease core => decide (core < 128)
  | .ldL g _ _ => g.wf
  | .stL g _ _ => g.wf
  | .lkacq g _ => g.wf
  | .lkrel g _ => g.wf
  | .ldG g _ _ => g.wf
  | .stG g _ _ => g.wf
  | .shflIdx g _ => g.wf
  | .shflUp g _ => g.wf
  | .shflDown g _ => g.wf
  | .shflXor g _ => g.wf
  | .voteAny g _ => g.wf
  | .voteAll g _ => g.wf
  | .voteBallot g _ => g.wf
  | .mxWld g _ => g.wf
  | .mxWldStart core tok => decide (core < 128) && decide (tok < 24)
  | .mxWldDone core tok => decide (core < 128) && decide (tok < 24)
  | .mxMma g _ => g.wf
  | .mxMmaStart core tok => decide (core < 128) && decide (tok < 24)
  | .mxMmaDone core tok => decide (core < 128) && decide (tok < 24)
  | .mxDrn g _ => g.wf
  | .mxDrnStart core tok => decide (core < 128) && decide (tok < 24)
  | .mxDrnDone core tok => decide (core < 128) && decide (tok < 24)
  | .arrayWake core array => decide (core < 128) && decide (array < 4)
  | .arrayGate core array => decide (core < 128) && decide (array < 4)
  | .twait g _ => g.wf
  | .ttest g _ => g.wf
  | .chRun g _ => g.wf
  | .chRunDone core tok => decide (core < 128) && decide (tok < 24)
  | .atCas64 g _ => g.wf
  | .atSwp64 g _ => g.wf
  | .atAdd64 g _ => g.wf
  | .redAddW40 g _ => g.wf
  | .redAddF32 g _ => g.wf
  | .redAddBf16 g _ => g.wf
  | .redMaxF32 g _ => g.wf
  | .redMinF32 g _ => g.wf
  | .redMaxBf16 g _ => g.wf
  | .redMinBf16 g _ => g.wf
  | .mcSt64 g _ => g.wf
  | .fenceR g _ => g.wf
  | .pktRead port pk => decide (port < 4) && pk.wf
  | .pktWrite port pk => decide (port < 4) && pk.wf
  | .pktCas port pk => decide (port < 4) && pk.wf
  | .pktSwap port pk => decide (port < 4) && pk.wf
  | .fetchAdd port pk => decide (port < 4) && pk.wf
  | .reductionRequest port pk => decide (port < 4) && pk.wf
  | .mcastWrite port pk => decide (port < 4) && pk.wf
  | .invalidate port pk => decide (port < 4) && pk.wf
  | .invAck port pk => decide (port < 4) && pk.wf
  | .remoteResponse pk _ => pk.wf
  | .remoteTimeout _ => true
  | .nopCommand _ => true
  | .tailLineWrite ring _ => decide (ring < 64)
  | .cqHeadWrite cq _ => decide (cq < 64)
  | .launch _ => true
  | .launchStart _ => true
  | .launchCommit _ => true
  | .copy _ => true
  | .copyStart lighter => decide (lighter < 16)
  | .copyCommit _ => true
  | .bucketPost _ => true
  | .bucketPostCommit _ => true
  | .bktReady _ => true
  | .bktAbort _ => true
  | .collData port pk => decide (port < 4) && pk.wf
  | .collTimeout _ => true
  | .permute _ => true
  | .permData port pk => decide (port < 4) && pk.wf
  | .permAbort _ => true
  | .permuteCommit _ => true
  | .barrier _ => true
  | .barArrive _ => true
  | .barRelease _ => true
  | .barAbort _ => true
  | .barrierTimeout ctx => decide (ctx < 16)
  | .barOrphaned ctx => decide (ctx < 16)
  | .epochSwitch ctx => decide (ctx < 16)
  | .updateStep _ => true
  | .updateStepCommit _ => true
  | .snapshot _ => true
  | .snapshotCopyStart _ => true
  | .snapshotCommit _ => true
  | .hoSend _ => true
  | .sendChunk channel => decide (channel < 16)
  | .hoRecv _ => true
  | .poolGet _ => true
  | .poolPut _ => true
  | .poolDrop _ => true
  | .consumedLimit channel _ _ => decide (channel < 16)
  | .hoTimeout _ => true
  | .hoJob via channel _ => via.wf && decide (channel < 16)
  | .abortTarget via _ => via.wf
  | .mailboxRequest m req => decide (m < 8) && req.wf
  | .odWrite via _ _ _ => via.wf
  | .bar2Access write _ len data => (!write || decide (data.length = len)) && decide (0 < len)
  | .readReq fr => fr.wf
  | .writeReq fr => fr.wf
  | .segStart fr => fr.wf
  | .segData fr => fr.wf
  | .segAck fr => fr.wf
  | .segAbort fr => fr.wf
  | .segResend _ => true
  | .segTimeout _ => true
  | .cyclic channel => decide (channel < 8)
  | .cycEnable via channel _ => via.wf && decide (channel < 8)
  | .presence => true
  | .drain via => via.wf
  | .drainComplete => true
  | .drainTimeout => true
  | .reinit via => via.wf
  | .reset via => via.wf
  | .resetDelayExpiry => true
  | .saveParameters via => via.wf
  | .restoreDefaults via => via.wf
  | .jobOpen via _ => via.wf
  | .jobClose via _ => via.wf
  | .ringEnable via n _ => via.wf && decide (n < 64)
  | .cqEnable via n _ => via.wf && decide (n < 64)
  | .portEnable via n _ => via.wf && decide (n < 4)
  | .meshPlanId via _ => via.wf
  | .fenceClear via _ => via.wf
  | .epochAdopt via _ => via.wf
  | .regionWrite via _ => via.wf
  | .ruleSwitchEpoch via _ => via.wf
  | .ruleCommitNow via _ => via.wf
  | .nfStepFlag via n _ => via.wf && decide (n < 16)
  | .lossValue via n _ => via.wf && decide (n < 16)
  | .ledgerCold via n => via.wf && decide (n < 16)
  | .ledgerRestored via n => via.wf && decide (n < 16)
  | .ledgerDetach via n => via.wf && decide (n < 16)
  | .evalCommit via _ => via.wf
  | .coreRetire via n _ => via.wf && decide (n < 8)
  | .coreFailed core _ => decide (core < 128)
  | .logRingEntries via _ => via.wf
  | .logRelease => true
  | .logHeadWrite _ => true
  | .eventInterrupt => true
  | .laneRecalibration via _ => via.wf
  | .sensorTrim via _ => via.wf
  | .coreSelfTest via _ => via.wf
  | .hbmPatternTest via _ => via.wf
  | .portLoopback via _ => via.wf
  | .timebaseDelayRemeasure via _ => via.wf
  | .selftestStart => true
  | .selftestWaitTimeout => true
  | .selftestDone _ _ => true
  | .fwUpdate via _ => via.wf
  | .configUpdate via _ => via.wf
  | .enrolmentAuthorisation via _ => via.wf
  | .debugUnlock via _ => via.wf
  | .debugRelock via => via.wf
  | .quoteNonce via _ => via.wf
  | .alarm _ _ => true
  | .eraseMarkerProgrammed => true
  | .helperOverwrite => true
  | .countFreeze via _ => via.wf
  | .countClear via => via.wf
  | .countSwitch => true
  | .psel via set n _ => counterSet set && via.wf && decide (n < 8)
  | .pctl via set _ => counterSet set && via.wf
  | .tallyEnable via _ => via.wf
  | .tallyDump => true
  | .tallyDumpWritten => true
  | .tallyHeadWrite _ => true
  | .scrubRead unit => unit.wf
  | .memCeLimit _ _ => true
  | .fatalError e => e.wf
  | .flitReceived port flit => decide (port < 4) && decide (flit.length = 256)
  | .idleFlit port => decide (port < 4)
  | .ident port _ => decide (port < 4)
  | .trainingTimeout port => decide (port < 4)
  | .linkRetry port _ => decide (port < 4)
  | .laneBad port lane => decide (port < 4) && decide (lane < portLanes port)
  | .resizeReq port _ _ => decide (port < 4)
  | .resizeAck port _ _ => decide (port < 4)
  | .groupRecover port laneGroup => decide (port < 4) && decide (laneGroup < 5)
  | .recal port _ _ => decide (port < 4)
  | .linkDown port _ => decide (port < 4)
  | .deviceFenced port => decide (port < 4)
  | .tbHoldoverEnter => true
  | .tbHoldoverExit => true
  | .resetRelease _ => true
  | .imageVerified => true
  | .hbmStackInit => true
  | .hbmInitFailed _ => true
  | .clusterEnable _ => true
  | .startComplete => true
  | .pwrGoodLow => true
  | .resetNLow => true
  | .perstNLow => true
  | .perstNRise => true
  | .railUndervoltage rail => decide (rail < 9)
  | .thermtrip => true
  | .thermalStep _ _ => true
  | .governorEstimate _ _ _ => true
  | .governorRaise _ _ _ => true
  | .pmbusTelemetry readings => decide (readings.length = 9)
  | .powerCap via _ => via.wf
  | .flashWriteDone => true
  | .configurationRequest _ _ _ => true
  | .jtagInstruction req => req.wf
  | .undefinedOpcode g _ => g.wf

end Sys2Proof
end

