-- ==== Sys2Proof/Machine/Ports.lean ====
section
/-!
DEFINITION. Fabric ports: their states (R250), lane health and resizes (R249, R251, R252), the tests of the mesh plan
(R253, R254), links that go down (R247, R260), and fences (R381 to R383).
-/

namespace Sys2Proof.Machine

/-! ### Lanes and groups (R242, R249) -/

/-- Every lane group of a port. -/
def portAll (p : Nat) : BitVec 5 := if p < 2 then 0b11111 else 0b00111

/-- Lanes of a lane group. -/
def groupLanes (g : Nat) : BitVec 40 := (0xFF : BitVec 40) <<< (8 * g)

/-- The good-group mask of a port: groups that hold no bad lane. -/
def goodGroups (p : Nat) (bad : BitVec 40) : BitVec 5 :=
  BitVec.ofNat 5 ((List.range 5).foldl (fun m g => if bad &&& groupLanes g = 0 then m + 2 ^ g else m) 0) &&& portAll p

/-- Lanes of a group mask. -/
def maskLanes (m : BitVec 5) : BitVec 40 := (List.range 5).foldl (fun b g => if m.getLsbD g then b ||| groupLanes g else b) 0

/-- Width of a link over a group mask. -/
def maskWidth (m : BitVec 5) : Nat := 8 * bitCount m.toNat 5

/-- Slots of the ten pools of an ingress buffer (R248). -/
def poolSlots (k : Nat) : Nat := [4096, 512, 4096, 512, 4096, 512, 1024, 256, 1024, 256].getD k 0

def fullCredits : SMap Nat := (List.range 10).map fun k => (k, poolSlots k)

/-- A port that has trained. -/
def PortState.linked : PortState → Bool
  | .up | .degraded | .resize | .parked => true
  | _ => false

/-- The link shows its width and groups (R280). -/
def State.showWidth (s : State) (p : Nat) (m : BitVec 5) : State :=
  (s.odSet (Od.portWidth p) (maskWidth m)).odSet (Od.portGroups p) m.toNat

/-- The state of a link over a mask. -/
def widthState (p : Nat) (m : BitVec 5) : PortState := if m = portAll p then .up else .degraded

/-! ### Control flits of the link (R253) -/

def State.queueCtrl (s : State) (p : Nat) (x : BitVec 128) : State :=
  let pt := s.port p
  s.setPort p { pt with ctrlq := pt.ctrlq ++ [x] }

/-- Slot 1 of this device's IDENT. -/
def State.identSlot (s : State) (p : Nat) : BitVec 128 :=
  BitVec.ofNat 128
    (0x01 + (goodGroups p (s.port p).badLanes).toNat * 2 ^ 13 + p * 2 ^ 18 + s.place.x * 2 ^ 20 + s.place.y * 2 ^ 26 +
      s.odGet Od.meshPlanId * 2 ^ 32 + s.odGet Od.serialNumber * 2 ^ 64)

/-- Slot 1 of RESIZE_REQ or RESIZE_ACK. -/
def resizeSlot (ctype : Nat) (seq : BitVec 12) (m : BitVec 5) : BitVec 128 :=
  BitVec.ofNat 128 (ctype + seq.toNat * 2 ^ 8 + m.toNat * 2 ^ 20)

/-- Slot 1 of RECAL. -/
def recalSlot (lane : BitVec 6) (start : Bool) : BitVec 128 :=
  BitVec.ofNat 128 (0x04 + lane.toNat * 2 ^ 8 + (if start then 2 ^ 14 else 0))

/-! ### A link is lost (R247, R260) -/

/-- The device's own transactions whose route leaves by the port complete with TIMEOUT. -/
def State.loseTxs (s : State) (p : Nat) : State :=
  (s.fab.tracker.filter fun t => decide (t.port = p)).foldl (fun s t =>
    match s.tx? t.tag with
    | some q => if q.seq = t.seq then (s.leaveLate [q]).finishTx q (Resp.fail Status.timeout 0) else s
    | none => s) s

/-- What came in by a port is forgotten as slots of its buffer: a new link begins with credits for all of it (R248). -/
def State.forgetInput (s : State) (p : Nat) : State :=
  (List.range 4).foldl (fun s k =>
    let pt := s.port k
    s.setPort k { pt with
      txq := pt.txq.map fun q => if q.input = p then { q with pool := none } else q
      txFrom := pt.txFrom.filter fun x => decide (x.1 ≠ p) }) s

/-- A port drops what is queued for it, a packet that it has sent in part among them, and counts it; the slots leave the
ingress buffers (R248, R260). -/
def State.flushPort (s : State) (p : Nat) : State :=
  let pt := s.port p
  let s := pt.txq.foldl State.dropQueued (s.setPort p { pt with txq := [], txSlots := [], txFrom := none })
  if pt.txSlots.isEmpty then s
  else
    (match pt.txFrom with
      | some (i, k) => s.oweSlots i k pt.txSlots.length
      | none => s).odAdd Od.packetsDropped 1

/-- A port leaves its link, for DOWN or DISABLED: it drops what is queued for it, and logs LINK_DOWN. -/
def State.portLeave (s : State) (p : Nat) (cause : BitVec 8) (target : PortState) : State :=
  let s := (s.flushPort p).forgetInput p
  let pt := s.port p
  let live := pt.state.carries
  let s := s.setPort p
    { Port.initial with
      state := target, accepted := pt.accepted, rxOld := pt.rxOld ++ pt.rxq, badLanes := pt.badLanes, ident := pt.ident
      expect := pt.expect, retryAt := pt.retryAt
      lostAt := if target = .down then (if live then some (s.clk.now, cause) else pt.lostAt) else none }
  let s := s.showWidth p 0
  let s := if pt.state.linked ∨ pt.state = .training then
      s.event 0x09 p 0x0302 sevWarning [(16, 1, cause.toNat), (17, 8, s.odGet (Od.peerSerial p))]
    else s
  s.loseTxs p

/-- Time without a flit of good CRC after which a port goes DOWN: 16 µs, or 1 µs of lost signal, in which no flit can come
(R247); the replay limit waits for nothing (R246). -/
def lossTime (cause : BitVec 8) : Nat := if cause = 0 then 16000 else if cause = 1 then 1000 else 0

/-- LINK_DOWN: heartbeat loss, signal loss or the replay limit. -/
def execLinkDown (port : Nat) (cause : BitVec 8) (s : State) : Outcome := withRoom (.linkDown port cause) s <|
  if port < 4 ∧ (s.port port).state.linked ∧ cause ≤ 2 then
    .next ((if cause = 2 then s else s.advanceTo ((s.port port).lastGood + lossTime cause)).portLeave port cause .down)
  else .next s

/-! ### Training (R250) -/

/-- The device trains its links: from the enable of cluster 7, and not in FAULT or ALARMED (R380, R411). -/
def State.linksOn (s : State) : Bool :=
  decide (s.dev.clustersOn = 8) && (s.working || s.dev.state = .init)

/-- A loopback test runs on the port (R399). -/
def State.loopback (s : State) (p : Nat) : Bool :=
  match s.selftest with
  | some t => t.running && decide (t.action = 0x12) && decide (t.target.toNat = p)
  | none => false

/-- LINK_RETRY: with signal on at least one group, a DOWN port trains, LINK_RETRY_MS after its last attempt or later. A
group without signal is bad. -/
def execLinkRetry (port : Nat) (signal : BitVec 5) (s : State) : Outcome :=
  let m := signal &&& portAll port
  if port < 4 ∧ (s.port port).state = .down ∧ s.linksOn ∧ !s.loopback port ∧ m ≠ 0 then
    let s := match (s.port port).retryAt with
      | some t => s.advanceTo (t + 1000000 * s.acting Od.linkRetryMs)
      | none => s
    let s := s.setPort port
      { s.port port with
        state := .training, badLanes := maskLanes (portAll port &&& ~~~m), lostAt := none, ident := none
        retryAt := some s.clk.now }
    .next (s.queueCtrl port (s.identSlot port))
  else .next s

/-- When the training of a port ends without success (R250). -/
def Port.trainingEnd (p : Port) : Nat := p.retryAt.getD 0 + 60000000

/-- TRAINING_TIMEOUT: no success within 60 ms. -/
def execTrainingTimeout (port : Nat) (s : State) : Outcome := withRoom (.trainingTimeout port) s <|
  if port < 4 ∧ (s.port port).state = .training then
    .next ((s.advanceTo (s.port port).trainingEnd).portLeave port 3 .down)
  else .next s

/-- Ports whose training ends without success at or before a time go DOWN then (R250). -/
def State.trainingOver (s : State) (t : Nat) : State :=
  (List.range 4).foldl (fun s p =>
    if (s.port p).state = .training ∧ (s.port p).trainingEnd ≤ t then
      (s.advanceTo (s.port p).trainingEnd).portLeave p 3 .down
    else s) s

/-! ### The plan's tests (R254) -/

/-- The port opposite: E with W, N with S. -/
def oppositePort (p : Nat) : Nat := if p % 2 = 0 then p + 1 else p - 1

def identPlace (id : IdentFlit) : Place := ⟨id.ownX.toNat, id.ownY.toNat⟩

/-- Why the plan does not accept a peer: no plan, an extra neighbour, or another test. -/
def State.planReason (s : State) (p : Nat) (id : IdentFlit) : Option Nat :=
  let plan := s.odGet Od.meshPlanId
  let want := (s.port p).expect
  if plan = 0 then some 3
  else if !s.inPlan (identPlace id) then some 1
  else if id.planId.toNat ≠ plan ∨ s.neighbour p ≠ some (identPlace id) ∨ id.port.toNat ≠ oppositePort p ∨
      (want ≠ 0 ∧ want ≠ id.serial.toNat) then some 2
  else none

/-- The tests are run on the last IDENT of a trained port. -/
def State.judgePort (s : State) (p : Nat) : State :=
  let pt := s.port p
  match pt.ident with
  | none => s
  | some id =>
    match s.planReason p id with
    | some r =>
      if pt.state = .parked then s
      else
        ((s.setPort p { pt with state := .parked }).flushPort p).event
          0x09 p 0x0304 sevWarning [(16, 1, r), (17, 8, id.serial.toNat), (25, 2, (identPlace id).coord.toNat)]
    | none =>
      let s1 := s.setPort p { pt with state := widthState p pt.groups, accepted := some (identPlace id).coord }
      if pt.state = .up ∨ pt.state = .degraded then s1
      else s1.event 0x09 p 0x0301 sevInfo
        [(16, 1, maskWidth pt.groups), (17, 1, pt.groups.toNat), (18, 8, id.serial.toNat)]

/-- Every trained port is tested again (R254). -/
def State.judgePorts (s : State) : State :=
  (List.range 4).foldl (fun s p =>
    match (s.port p).state with
    | .up | .degraded | .parked => s.judgePort p
    | _ => s) s

/-- The times at which groups left a link, with those of a mask at `now`. -/
def groupsLeft (m : BitVec 5) (now : Nat) (l : SMap Nat) : SMap Nat :=
  (List.range 5).foldl (fun l g => if m.getLsbD g then SMap.set 0 l g now else l) l

/-- A linked port goes on over fewer groups, without a resize; with none left it goes DOWN (R249, log 59). -/
def State.narrowTo (s : State) (p : Nat) (m : BitVec 5) : State :=
  let pt := s.port p
  if m = 0 then s.portLeave p 1 .down
  else
    ((s.setPort p
      { pt with groups := m, stripe := m, groupAt := groupsLeft (pt.groups &&& ~~~m) s.clk.now pt.groupAt }).showWidth p
        m).judgePort p

/-- IDENT: the port links, where it was training, and its peer is tested. A link that is up loses the groups that the peer's
mask no longer holds (R249). -/
def execIdent (port : Nat) (id : IdentFlit) (s : State) : Outcome := withRoom (.ident port id) s <|
  let pt := s.port port
  if port < 4 ∧ (pt.state = .training ∨ pt.state = .up ∨ pt.state = .degraded ∨ pt.state = .parked) then
    let s := ((s.odSet (Od.peerSerial port) id.serial.toNat).odSet (Od.peerCoord port) (identPlace id).coord.toNat).odSet
      (Od.peerPlanId port) id.planId.toNat
    let m := goodGroups port pt.badLanes &&& id.mask
    let pt := { pt with ident := some id, peerGroups := id.mask, expect := s.odGet (Od.portExpectSerial port), lastGood := s.clk.now }
    if pt.state = .training then
      if m = 0 ∨ pt.trainingEnd ≤ s.clk.now then .next (s.portLeave port 3 .down)
      else
        let s := s.setPort port
          { pt with groups := m, txSeq := 0, rxSeq := 0, nak := false, replay := [], resends := 0, credits := fullCredits
                    owed := [], stripe := m, switchAt := none, lanePos := 0
                    groupAt := groupsLeft (portAll port &&& ~~~m) s.clk.now [] }
        .next ((s.showWidth port m).judgePort port)
    else
      let s := s.setPort port pt
      .next (if pt.groups &&& m = pt.groups then s.judgePort port else s.narrowTo port (pt.groups &&& m))
  else .next s

/-! ### Resizes (R251) -/

/-- A resize begins: RESIZE_REQ carries this end's good-group mask and a switch SEQ 64 above its last. -/
def State.beginResize (s : State) (p : Nat) (lane : BitVec 8) : State :=
  let pt := s.port p
  let m := goodGroups p pt.badLanes
  if m = 0 then s.portLeave p 1 .down
  else
    let seq := pt.txSeq + 64
    (s.setPort p { pt with state := .resize, resizing := some (m, seq, lane) }).queueCtrl p (resizeSlot 0x02 seq m)

/-- The agreed mask is adopted: the stream goes over the new groups from the switch SEQ on, and with no group left the port
goes DOWN. A plan written during the resize is tested now (R254, log 59); a group that has gone bad since is the matter of
another resize (R249). -/
def State.adoptMask (s : State) (p : Nat) (m : BitVec 5) (seq : BitVec 12) (lane : BitVec 8) : State :=
  let pt := s.port p
  if m = 0 then s.portLeave p 1 .down
  else
    let s := (((s.setPort p
      { pt with state := if pt.state = .parked then .parked else widthState p m, groups := m, resizing := none, resends := 0, switchAt := some seq
                groupAt := groupsLeft (pt.groups &&& ~~~m) s.clk.now pt.groupAt }).showWidth p m).event
      0x09 p 0x0303 sevWarning [(16, 1, maskWidth pt.groups), (17, 1, maskWidth m), (18, 1, lane.toNat)]).judgePort p
    let pt := s.port p
    if (pt.state = .up ∨ pt.state = .degraded) ∧ m &&& ~~~goodGroups p pt.badLanes ≠ 0 then s.beginResize p 0xFF else s

/-- A PARKED link goes on without the groups that have gone bad, and tells the peer; with none left it goes DOWN (R249, log
59). -/
def State.narrowParked (s : State) (p : Nat) : State :=
  let pt := s.port p
  let s := s.narrowTo p (pt.groups &&& goodGroups p pt.badLanes)
  if (s.port p).state.linked then s.queueCtrl p (s.identSlot p) else s

/-- LANE_BAD: a bad lane removes its group from the link (R249). A group that is out has to be good for GROUP_RECOVER_MS from
then on (R251). -/
def execLaneBad (port lane : Nat) (s : State) : Outcome := withRoom (.laneBad port lane) s <|
  if port < 4 ∧ lane < portLanes port then
    let pt := s.port port
    let s := s.setPort port { pt with badLanes := pt.badLanes ||| ((1 : BitVec 40) <<< lane) }
    if pt.state = .training then
      if goodGroups port (s.port port).badLanes = 0 then .next (s.portLeave port 3 .down)
      else .next (s.queueCtrl port (s.identSlot port))
    else if pt.groups.getLsbD (lane / 8) then
      if pt.state = .up ∨ pt.state = .degraded then .next (s.beginResize port (BitVec.ofNat 8 lane))
      else if pt.state = .parked then .next (s.narrowParked port)
      else .next s
    else
      let pt := s.port port
      .next (s.setPort port { pt with groupAt := SMap.set 0 pt.groupAt (lane / 8) s.clk.now })
  else .next s

/-- RESIZE_REQ: the peer's request is answered with the agreed mask, which this end adopts. A PARKED port answers it too. -/
def execResizeReq (port : Nat) (seq : BitVec 12) (mask : BitVec 5) (s : State) : Outcome :=
    withRoom (.resizeReq port seq mask) s <|
  let pt := s.port port
  if port < 4 ∧ pt.state.linked then
    let m := goodGroups port pt.badLanes &&& mask
    let s := (s.setPort port { pt with peerGroups := mask }).queueCtrl port (resizeSlot 0x03 seq m)
    .next (s.adoptMask port m seq 0xFF)
  else .next s

/-- RESIZE_ACK: the agreed mask is adopted. -/
def execResizeAck (port : Nat) (seq : BitVec 12) (mask : BitVec 5) (s : State) : Outcome :=
    withRoom (.resizeAck port seq mask) s <|
  let pt := s.port port
  match pt.resizing with
  | some (_, sq, lane) =>
    if port < 4 ∧ pt.state = .resize ∧ sq = seq then
      .next ((s.setPort port { pt with peerGroups := mask }).adoptMask port (mask &&& portAll port) seq lane)
    else .next s
  | none => .next s

/-- GROUP_RECOVER: a removed group that has been good for GROUP_RECOVER_MS rejoins by a resize. -/
def execGroupRecover (port laneGroup : Nat) (s : State) : Outcome := withRoom (.groupRecover port laneGroup) s <|
  let pt := s.port port
  if port < 4 ∧ (pt.state = .up ∨ pt.state = .degraded) ∧ (portAll port).getLsbD laneGroup ∧
      !pt.groups.getLsbD laneGroup then
    let s := s.advanceTo (SMap.get 0 pt.groupAt laneGroup + 1000000 * s.acting Od.groupRecoverMs)
    .next ((s.setPort port { pt with badLanes := pt.badLanes &&& ~~~(groupLanes laneGroup) }).beginResize port 0xFF)
  else .next s

/-! ### In-band recalibration (R252) -/

/-- The device's own recalibration pass runs on the port. -/
def State.recalPass (s : State) (p : Nat) : Bool :=
  match s.selftest with
  | some t => t.running && decide (t.action = 0x01) && decide (t.target.toNat = p)
  | none => false

/-- RECAL: a lane goes into the spare-lane slot, or comes back, whatever has become of the link's width. In the device's own pass the flit goes to the peer. -/
def execRecal (port : Nat) (lane : BitVec 6) (start : Bool) (s : State) : Outcome :=
  let pt := s.port port
  if port < 4 ∧ (if start then pt.state = .up ∨ pt.state = .degraded else pt.state.linked) ∧ lane.toNat < portLanes port ∧
      (if start then pt.recalLane = none else pt.recalLane = some lane) then
    let s := s.setPort port { pt with
      recalLane := if start then some lane else none, recalDone := if start then pt.recalDone else pt.recalDone + 1 }
    .next (if s.recalPass port then s.queueCtrl port (recalSlot lane start) else s)
  else .next s

/-! ### Fences (R381, R382) -/

/-- A route from `a` to `b`, or back, passes the link of a port, whichever devices it runs between (R256, R257). -/
def State.passesPort (s : State) (p : Nat) (a b : Place) : Bool :=
  let onLink (r : Option Route) : Bool := match r, s.neighbour p with
    | some t, some q => (hops t.path).any fun h => decide (h = (s.place, q)) || decide (h = (q, s.place))
    | _, _ => false
  onLink (s.route a b) || onLink (s.route b a)

/-- A group that the fence of a port and its peer touches: the peer is a member, or a step of the chain passes the port. -/
def State.groupFenced (s : State) (p : Nat) (d : Coord) (i : Nat) : Bool :=
  let g := s.grp i
  (List.range g.size).any fun r => decide ((s.memberOf g r).coord = d) ||
    match g.succ? r with
    | some k => s.passesPort p (s.memberOf g r) (s.memberOf g k)
    | none => false

/-- A HANDOFF that the fence touches. -/
def State.handoffFenced (s : State) (p : Nat) (d : Coord) (h : Nat) : Bool :=
  let q := s.subst (s.hoPeer h)
  decide (q.coord = d) || s.passesPort p s.place q

/-- Started commands that the fence touches end (R382). -/
def State.fenceCommands (s : State) (p : Nat) (d : Coord) : State :=
  let s := (s.disp.buckets.filter fun b => s.groupFenced p d b.group).foldl (fun s b =>
    if s.disp.buckets.contains b then s.endBucket b Status.timeout s.self else s) s
  let s := (s.disp.permutes.filter fun q => s.groupFenced p d q.group).foldl (fun s q =>
    if s.disp.permutes.any fun r => decide (r.cmd = q.cmd) then s.endPermute q Status.timeout s.self else s) s
  let s := (List.filter (fun b => s.groupFenced p d b.2.group) s.barriers).foldl (fun s b => s.barrierExpires b.1 b.2) s
  (List.range 16).foldl (fun s h =>
    match (s.channel h).active.bind s.cmd? with
    | some c => if s.handoffFenced p d h then s.hoExpires c else s
    | none => s) s

/-- The coherence state of a device that is gone: its lines leave the domain cache, and it leaves the directory. -/
def State.fenceLines (s : State) (d : Coord) : State :=
  let s := { s with fab := { s.fab with
    lineCache := s.fab.lineCache.filter fun c => decide (c.home ≠ d)
    directory := (s.fab.directory.map fun (e : Nat × List Coord) => (e.1, e.2.filter fun c => decide (c ≠ d))).filter
      fun e => !e.2.isEmpty } }
  (s.fab.invWaits.flatMap fun w => w.waiting.filter fun x => decide (x.2 = d)).foldl (fun s x => s.ackFrom x.1 d) s

/-- DEVICE_FENCED: a port that has stayed DOWN for FENCE_DELAY_US fences the coordinates it last accepted. -/
def execDeviceFenced (port : Nat) (s : State) : Outcome := withRoom (.deviceFenced port) s <|
  let pt := s.port port
  match pt.lostAt, pt.accepted with
  | some (t, cause), some d =>
    if port < 4 ∧ pt.state = .down then
      let s := s.advanceTo (t + 1000 * s.acting Od.fenceDelayUs)
      let s := (s.setPort port { pt with lostAt := none }).odSet (Od.fencedCoord port) d.toNat
      let s := s.event 0x09 port 0x0801 sevError
        [(16, 1, port), (17, 1, cause.toNat), (18, 2, d.toNat), (20, 8, s.odGet (Od.peerSerial port))]
      .next ((s.fenceLines d).fenceCommands port d)
    else .next s
  | _, _ => .next s

/-- A fence is lifted (R383). -/
def State.liftFence (s : State) (p how : Nat) : State :=
  if s.fenced p then
    (s.odSet (Od.fencedCoord p) 0xFFFF).event 0x09 p 0x0802 sevInfo
      [(16, 1, p), (17, 1, how), (18, 2, s.odGet (Od.fencedCoord p))]
  else s

/-! ### Dictionary writes -/

/-- FENCE_CLEAR. -/
def execFenceClear (via : OdPath) (v : BitVec 8) (s : State) : Outcome := withRoom (.fenceClear via v) s <|
  .next (s.odRow via 0x2360 0x06 v.toNat (withAccess v.toNat fun s =>
    if 3 < v.toNat then (Status.refused, s) else (Status.ok, s.liftFence v.toNat 0)))

/-- PORT_ENABLE: false takes the port to DISABLED, true back to DOWN (R250). -/
def execPortEnable (via : OdPath) (n : Nat) (v : BitVec 8) (s : State) : Outcome := withRoom (.portEnable via n v) s <|
  if 4 ≤ n then .next s
  else
    .next (s.odRow via (0x2300 + n) 0x04 v.toNat (withAccess v.toNat fun s =>
      let s := s.odSet (Od.portEnable n) v.toNat
      let pt := s.port n
      if v = 0 then (Status.ok, if pt.state = .disabled then s else s.portLeave n 4 .disabled)
      else if pt.state = .disabled ∧ s.dev.state ≠ .fault then (Status.ok, s.setPort n { pt with state := .down })
      else (Status.ok, s)))

/-- A write to the plan: the tests are run again (R254). -/
def State.planWritten (s : State) : State := s.judgePorts

/-- MESH_PLAN_ID: the tests are run again, and every fence is lifted (R254, R383). -/
def execMeshPlanId (via : OdPath) (v : BitVec 32) (s : State) : Outcome := withRoom (.meshPlanId via v) s <|
  .next (s.odRow via 0x2310 0x01 v.toNat (withAccess v.toNat fun s =>
    let s := s.odSet Od.meshPlanId v.toNat
    (Status.ok, ((List.range 4).foldl (fun s p => s.liftFence p 1) s).planWritten)))

end Sys2Proof.Machine
end

