-- ==== Sys2Proof/Machine/DeviceState.lean ====
section
/-!
DEFINITION. The device states (R45, R46): how a state is entered, and what entering FAULT or ALARMED stops.
-/

namespace Sys2Proof.Machine

/-- The device enters a state: STATE_CAUSE and STATE_TIME are set and STATE_CHANGE is logged (R46, R78). The cause is a
source type and instance and a kind, 0 where a block and no record made the change. -/
def State.enter (s : State) (new : DevState) (ty inst kind : Nat) : State :=
  let old := s.dev.state
  let s := { s with dev := { s.dev with state := new } }
  let s := (s.odSet Od.stateCause (inst * 2 ^ 24 + ty * 2 ^ 16 + kind)).odSet Od.stateTime s.clk.now
  s.event 0x01 0 0x0001 (if new = .fault ∨ new = .alarmed then sevFatal else sevInfo)
    [(16, 1, old.code), (17, 1, new.code), (18, 2, kind), (20, 1, ty), (21, 1, inst)]

/-- Every port goes to DISABLED, and PORT_ENABLE keeps its value (R380). -/
def State.disablePorts (s : State) : State :=
  (List.range 4).foldl (fun s p => if (s.port p).state = .disabled then s else s.portLeave p 4 .disabled) s

/-- Every enabled command ring is stopped (R47). -/
def State.stopRings (s : State) : State :=
  (List.range 64).foldl (fun s r => if s.odGet (Od.ringEnable r) = 1 then s.setRingState r 3 else s) s

/-- A fatal error: the device enters FAULT, from BOOT to be served by the ROM alone (R46, R47, R380). In OFF, FAULT and
ALARMED it changes no state. -/
def State.enterFault (s : State) (ty inst kind : Nat) : State :=
  match s.dev.state with
  | .off | .fault | .alarmed => s
  | old =>
    let s := { s with dev := { s.dev with romFault := decide (old = DevState.boot), drainAt := none } }
    ((s.enter .fault ty inst kind).stopRings).disablePorts

/-- A lock by the Breakwater: the device enters ALARMED (R46, R380). -/
def State.enterAlarmed (s : State) (ty inst kind : Nat) : State :=
  match s.dev.state with
  | .off | .alarmed => s
  | _ => ({ s with dev := { s.dev with drainAt := none } }.enter .alarmed ty inst kind).disablePorts

/-- The levels of the two output pins (R417, R471): THERMTRIP_N is low from a thermal trip until PWR_GOOD goes low, and
ALARM_N is low in ALARMED and released in every other state, OFF included. -/
structure OutputPins where
  thermtripN : Bool
  alarmN : Bool
  deriving DecidableEq, Repr

def State.pins (s : State) : OutputPins := { thermtripN := !s.dev.thermtrip, alarmN := decide (s.dev.state ≠ .alarmed) }

/-- The device enters OFF, and stays there as `h` says (R407, R410). -/
def State.enterOff (s : State) (h : OffHold) : State := { s with dev := { s.dev with offHold := h } }.off

end Sys2Proof.Machine
end

