-- ==== Sys2Proof/Machine/Governor.lean ====
section
/-!
DEFINITION. The power and thermal governor (R417 to R424). The estimate of the package power and the sensor readings
come from outside the model: of an estimate, the power that does not depend on the core clock and the power of the core
rail at the present clock, both as the last regulator readings correct them (log 34).
-/

namespace Sys2Proof.Machine

/-- The governor runs once the firmware does. -/
def State.governs (s : State) : Bool := s.dev.state ≠ .off && s.dev.state ≠ .boot && !s.dev.romFault

/-- A power that can be: finite and not negative. -/
def powerOk (x : F32) : Bool := (f32Val x).isFinite && Val.le .zero (f32Val x)

/-- The predicted power at `f` MHz, with the core rail's share in proportion to the clock, against a level given in
fiftieths of a watt: fixed + core × f / f₀ ≤ level / 50, each side times 50 f₀. -/
def State.powerFits (s : State) (fixed core : F32) (f level : Nat) : Bool :=
  let f0 := s.coreMHz
  Val.le ((Val.mul (.ofInt (50 * f0)) (f32Val fixed)).add (Val.mul (.ofInt (50 * f)) (f32Val core))) (.ofInt (f0 * level))

/-- The target POWER_CAP - 0.02 × (1,100 - POWER_CAP), in fiftieths of a watt (R419). -/
def State.powerTarget (s : State) : Nat := 51 * s.acting Od.powerCap - 1100

/-- The core clocks from 2,250 MHz down to 400 MHz in steps of 25 MHz (R420, R422). -/
def coreClocks : List Nat := (List.range 75).map fun i => 2250 - 25 * i

/-- The highest core clock whose predicted power is at or below the target; the floor where none is. -/
def State.clockFor (s : State) (fixed core : F32) : Nat :=
  (coreClocks.find? fun f => s.powerFits fixed core f s.powerTarget).getD 400

/-- The core clock falls to `f` for a cause: GOV_LIMIT is logged at the first fall and at a change of cause (R423). -/
def State.lowerClock (s : State) (f cause : Nat) : State :=
  let old := s.coreMHz
  if old ≤ f then s
  else
    let told := decide (old = 2250) || decide (s.odGet Od.govLimitCause ≠ cause)
    let s := { s with gov := { s.gov with headroomAt := none, limitedAt := some (s.gov.limitedAt.getD s.clk.now) } }
    let s := ((s.odSet Od.coreClockMhz f).odAdd Od.govStepsDown ((old - f) / 25)).odSet Od.govLimitCause cause
    if told then s.event 0x0F 0 0x0902 sevWarning [(16, 1, cause), (18, 2, f), (20, 4, s.odGet Od.powerNow)] else s

/-- The estimate and the average are shown (R418, R424). -/
def State.notePower (s : State) (fixed core avg : F32) : State :=
  (s.odSet Od.powerNow (f32Of ((f32Val fixed).add (f32Val core))).toNat).odSet Od.powerAvg1ms avg.toNat

/-- The predicted power one step above `f` is at least 25 W below the target, and there is such a step (R421). -/
def State.headroom (s : State) (fixed core : F32) (f : Nat) : Bool :=
  decide (f < 2250) && decide (1250 ≤ s.powerTarget) && s.powerFits fixed core (f + 25) (s.powerTarget - 1250)

/-- Headroom goes on, begins or ends. -/
def State.noteHeadroom (s : State) (fixed core : F32) : State :=
  { s with gov := { s.gov with
    headroomAt := if s.headroom fixed core s.coreMHz then some (s.gov.headroomAt.getD s.clk.now) else none } }

/-- GOVERNOR_ESTIMATE: an estimate above the target lowers the core clock (R420). -/
def execGovernorEstimate (fixed : BitVec 32) (core : BitVec 32) (avg : BitVec 32) (s : State) : Outcome :=
    withRoom (.governorEstimate fixed core avg) s <|
  if s.governs ∧ powerOk fixed ∧ powerOk core ∧ powerOk avg then
    let s := s.notePower fixed core avg
    .next (if s.powerFits fixed core s.coreMHz s.powerTarget then s.noteHeadroom fixed core
      else s.lowerClock (s.clockFor fixed core) 1)
  else .next s

/-- A reading is at its limit or above, and is at least 2 °C below it (R417). -/
def atLimit (t limit : Nat) : Bool := Val.le (FP.fp32.ieee limit) (FP.fp32.ieee t)
def coolBelow (t limit : Nat) : Bool := Val.le ((FP.fp32.ieee t).add (.ofInt 2)) (FP.fp32.ieee limit)

/-- Every sensor is at least 2 °C below its limit. -/
def State.cool (s : State) : Bool :=
  coolBelow (s.odGet Od.dieTemp) (s.acting Od.dieTempLimit) && coolBelow (s.odGet Od.hbmTempMax) (s.acting Od.hbmTempLimit)

/-- The clock rises one step; at 2,250 MHz the limit is over (R421, R423). -/
def State.raiseClock (s : State) : State :=
  let f := s.coreMHz + 25
  let s := s.odSet Od.coreClockMhz f
  if f < 2250 then s
  else
    let spent := s.clk.now - s.gov.limitedAt.getD s.clk.now
    let s := (s.odSet Od.govLimitCause 0).event 0x0F 0 0x0903 sevInfo [(20, 8, spent)]
    { s with gov := { s.gov with headroomAt := none, limitedAt := none } }

/-- GOVERNOR_RAISE: after 100 µs of headroom, with every sensor cool, the clock rises one step; the next step needs
another 100 µs. -/
def execGovernorRaise (fixed : BitVec 32) (core : BitVec 32) (avg : BitVec 32) (s : State) : Outcome :=
    withRoom (.governorRaise fixed core avg) s <|
  match s.gov.headroomAt with
  | none => .next s
  | some t0 =>
    if s.governs ∧ powerOk fixed ∧ powerOk core ∧ powerOk avg then
      let s := (s.advanceTo (t0 + 100000)).notePower fixed core avg
      if s.headroom fixed core s.coreMHz then
        if s.cool then
          let more := s.headroom fixed core (s.coreMHz + 25)
          let s := s.raiseClock
          .next { s with gov := { s.gov with headroomAt := if more then some s.clk.now else none } }
        else .next s
      else .next (s.noteHeadroom fixed core)
    else .next s

/-- The trip points: 120 °C on a die sensor, 105 °C on a stack (R417). -/
def atTrip (die hbm : BitVec 32) : Bool := atLimit die.toNat 0x42F00000 || atLimit hbm.toNat 0x42D20000

/-- THERMTRIP_N is driven low, and the device is OFF until PWR_GOOD is taken low (R417). -/
def State.trip (s : State) : State := { s with dev := { s.dev with thermtrip := true } }.enterOff .untilPowerCycle

/-- THERMAL_STEP: the hottest die sensor and stack are read; at a trip point the device trips, and at a limit, the clock
falls one step every 100 µs (R417). -/
def execThermalStep (die : BitVec 32) (hbm : BitVec 32) (s : State) : Outcome :=
  if s.dev.state ≠ .off ∧ (f32Val die).isFinite ∧ (f32Val hbm).isFinite ∧ atTrip die hbm then .next s.trip
  else if s.governs ∧ (f32Val die).isFinite ∧ (f32Val hbm).isFinite then
    let dieHot := atLimit die.toNat (s.acting Od.dieTempLimit)
    let hot := dieHot || atLimit hbm.toNat (s.acting Od.hbmTempLimit)
    let s := match s.gov.thermalAt with
      | some t => if hot then s.advanceTo (t + 100000) else s
      | none => s
    let s := (s.odSet Od.dieTemp die.toNat).odSet Od.hbmTempMax hbm.toNat
    .next (if hot then
        let s := s.lowerClock (max 400 (s.coreMHz - 25)) (if dieHot then 2 else 3)
        { s with gov := { s.gov with thermalAt := some s.clk.now } }
      else s)
  else .next s

/-- One regulator's reading: its voltage and current, or no answer (R418). -/
def State.railRead (s : State) (r : Nat) : Option (BitVec 32 × BitVec 32) → State
  | some (v, i) =>
    ((s.odSet (Od.railVout r) v.toNat).odSet (Od.railIout r) i.toNat).odSet (Od.railTelemetryOk r) 1
  | none =>
    (s.odSet (Od.railTelemetryOk r) 0).event 0x0F 0 0x0904 sevWarning
      [(16, 1, r), (17, 1, s.acting (Od.railPmbusAddr r))]

/-- PMBUS_TELEMETRY: the nine regulators are read. The estimates that follow are corrected against the readings. -/
def execPmbusTelemetry (readings : List (Option (BitVec 32 × BitVec 32))) (s : State) : Outcome :=
    withRoom (.pmbusTelemetry readings) s <|
  if s.governs ∧ readings.length = 9 then
    .next ((List.range 9).foldl (fun s r => s.railRead r (readings.getD r none)) s)
  else .next s

/-- POWER_CAP: a new cap, which the next estimate is held against (R420, R422). -/
def execPowerCap (via : OdPath) (v : BitVec 16) (s : State) : Outcome := withRoom (.powerCap via v) s <|
  .next (s.odRow via 0x2000 0x01 v.toNat (withAccess v.toNat fun s => (Status.ok, s.odSet Od.powerCap v.toNat)))

end Sys2Proof.Machine
end

