-- ==== Sys2Proof/Machine/Records.lean ====
section
/-!
DEFINITION. Signed records and images (R425 to R435): their layout, their verification, the signed configuration area,
and the identity that a start derives.
-/

namespace Sys2Proof.Machine

/-! ### The flash (R41, R427) -/

/-- An area of the flash: its offset and its size in bytes. -/
structure FlashArea where
  offset : Nat
  bytes : Nat
  deriving DecidableEq, Repr

/-- The areas of R427, in ascending order. Nothing else is read or written. -/
def flashMap : List FlashArea :=
  [⟨0x0000000, 0x1000000⟩, ⟨0x1000000, 0x1000000⟩, ⟨0x2000000, 0x100000⟩, ⟨0x2100000, 0x100000⟩, ⟨0x2200000, 0x10000⟩,
   ⟨0x2210000, 0x10000⟩, ⟨0x2220000, 0x10000⟩, ⟨0x2300000, 0x100000⟩, ⟨0x2400000, 0x100000⟩]

/-- Numbers of the areas in the map: an image slot, a copy of the configuration area, of the helper data and of the saved
parameters, and the erase marker. -/
def slotArea (b : Bool) : Nat := if b then 1 else 0
def configArea (b : Bool) : Nat := if b then 3 else 2
def helperArea (b : Bool) : Nat := if b then 5 else 4
def markerArea : Nat := 6
def savedArea (b : Bool) : Nat := if b then 8 else 7

def flashArea (i : Nat) : FlashArea := flashMap.getD i ⟨0, 0⟩
/-- Bytes of area `i`. -/
def flashBytes (i : Nat) : Nat := (flashArea i).bytes

def Flash.byte (f : Flash) (a : Nat) : Byte := SMap.get 0xFF f.cells a

/-- `n` bytes of area `i` from byte `a` of it. -/
def Flash.read (f : Flash) (i a n : Nat) : List Byte := (List.range n).map fun k => f.byte ((flashArea i).offset + a + k)

/-- Area `i` is erased. -/
def Flash.eraseArea (f : Flash) (i : Nat) : Flash :=
  let x := flashArea i
  ⟨List.filter (fun c : Nat × Byte => decide (c.1 < x.offset) || decide (x.offset + x.bytes ≤ c.1)) f.cells⟩

/-- Area `i` is written whole: it is erased, and holds these bytes at its beginning. -/
def Flash.rewrite (f : Flash) (i : Nat) (bs : List Byte) : Flash :=
  ((bs.take (flashBytes i)).zipIdx).foldl (fun f b => ⟨SMap.set 0xFF f.cells ((flashArea i).offset + b.2) b.1⟩) (f.eraseArea i)

/-! ### The saved parameters (R41) -/

/-- A copy of the saved parameters: a sequence number, the number of entries, and each entry's key and value, eight bytes
each (log 84). -/
def savedBytes (seq : Nat) (m : SMap Nat) : List Byte :=
  natBytes 8 seq ++ natBytes 8 m.length ++ m.flatMap fun e => natBytes 8 e.1 ++ natBytes 8 e.2

/-- The sequence number of a copy; none where it is erased. -/
def Flash.savedSeq (f : Flash) (b : Bool) : Option Nat :=
  let q := bytesNat (f.read (savedArea b) 0 8)
  if q = 2 ^ 64 - 1 then none else some q

/-- The entries of a copy. -/
def Flash.savedIn (f : Flash) (b : Bool) : SMap Nat :=
  (List.range (bytesNat (f.read (savedArea b) 8 8))).map fun k =>
    (bytesNat (f.read (savedArea b) (16 + 16 * k) 8), bytesNat (f.read (savedArea b) (24 + 16 * k) 8))

/-- The copy that was written last, if there is one. -/
def Flash.savedNewest (f : Flash) : Option Bool :=
  match f.savedSeq false, f.savedSeq true with
  | none, none => none
  | some _, none => some false
  | none, some _ => some true
  | some a, some b => some (decide (a < b))

/-- The saved-parameter set in force: the copy that was written last. -/
def Flash.saved (f : Flash) : Option (SMap Nat) := f.savedNewest.map f.savedIn

/-- A saved-parameter set goes into the older copy, so that a save cut short leaves the complete set before it. -/
def Flash.save (f : Flash) (m : SMap Nat) : Flash :=
  match f.savedNewest with
  | none => f.rewrite (savedArea false) (savedBytes 0 m)
  | some b => f.rewrite (savedArea !b) (savedBytes (((f.savedSeq b).getD 0 + 1) % (2 ^ 64 - 1)) m)

/-- Both copies are erased. -/
def Flash.unsave (f : Flash) : Flash := (f.eraseArea (savedArea false)).eraseArea (savedArea true)

/-! ### Signed records (R431, R432) -/

/-- A signed record: the fields of its header that the device uses, its body, what is signed, and the signature. -/
structure SRec where
  raw : List Byte
  serial : Nat
  seq : Nat
  signer : Nat
  rtype : Nat
  body : List Byte
  signed : List Byte
  sig : BitVec 512
  deriving DecidableEq, Repr

/-- The record that bytes hold, where their header and length are those of one (R431). -/
def recOf (raw : List Byte) : Option SRec :=
  let h := bytesNat (raw.take 64)
  let n := h / 2 ^ 64 % 2 ^ 32
  if h % 2 ^ 32 = 0x46434E53 ∧ n % 16 = 0 ∧ n ≤ 65536 ∧ raw.length = 128 + n then
    some { raw := raw, serial := h / 2 ^ 448, seq := h / 2 ^ 384 % 2 ^ 64, signer := h / 2 ^ 40 % 256
           rtype := h / 2 ^ 32 % 256, body := raw.drop 64 |>.take n, signed := raw.take (64 + n)
           sig := BitVec.ofNat 512 (bytesNat (raw.drop (64 + n))) }
  else none

/-- Numbers of the 16-byte pieces of a body. -/
def sixteens : Nat → List Byte → List Nat
  | 0, _ => []
  | n + 1, bs => if bs.isEmpty then [] else bytesNat (bs.take 16) :: sixteens n (bs.drop 16)

/-- Bytes that are all zero. -/
def zeroBytes (bs : List Byte) : Bool := bs.all fun b => decide (b = 0)

/-- Signers that a type accepts, and whether the body has the type's length, and its zeros (R432). -/
def SRec.shaped (r : SRec) : Bool :=
  match r.rtype with
  | 1 => decide (r.signer = 0) && decide (r.body.length = 64)
  | 2 => decide (r.signer = 0) && decide (r.body.length = 80)
  | 3 => decide (r.signer ≤ 1) && (sixteens 4096 r.body).all fun e => decide (e / 2 ^ 32 % 2 ^ 32 = 0)
  | 4 => decide (r.signer = 2) && decide (r.body.length = 64) && zeroBytes (r.body.drop 32)
  | 5 => decide (r.signer ≤ 1) && decide (r.body.length = 48)
  | 6 => decide (r.signer = 2)
  | 7 => decide (r.signer = 0) && decide (r.body.length = 16) && zeroBytes r.body
  | _ => false

/-- The record's serial suits a device of serial `own`: 0 where the type allows it; no device of serial 0 has its own. -/
def SRec.serialOk (r : SRec) (own : Nat) : Bool :=
  match r.rtype with
  | 1 => decide (r.serial ≠ 0)
  | 2 | 3 => decide (r.serial = 0) || decide (r.serial = own)
  | _ => decide (own ≠ 0) && decide (r.serial = own)

/-- The keys by which a device verifies: owner and device, where it has them (R426). -/
structure Keys where
  serial : Nat
  owner : Option (BitVec 512)
  device : Option (BitVec 512)
  deriving DecidableEq, Repr

def Keys.of (k : Keys) (signer : Nat) : Option (BitVec 512) :=
  if signer = 0 then some Config.rootKey else if signer = 1 then k.owner else k.device

/-- Why a record does not verify, as the reason of SIG_FAILED: format 5, serial 2, signature 0. -/
def SRec.fails (r : SRec) (k : Keys) : Option Nat :=
  if !r.shaped then some 5
  else if !r.serialOk k.serial then some 2
  else match k.of r.signer with
    | none => some 0
    | some key => if sm2Verify key r.signed r.sig then none else some 0

/-! ### The signed configuration area (R433) -/

/-- The records of a copy from byte `a` of it, up to the first word that is not MAGIC (fuel: the records that fit). -/
def Flash.run (f : Flash) (b : Bool) : Nat → Nat → List SRec
  | 0, _ => []
  | k + 1, a =>
    let i := configArea b
    let n := bytesNat (f.read i (a + 8) 4)
    if bytesNat (f.read i a 4) ≠ 0x46434E53 ∨ 65536 < n ∨ flashBytes i < a + 128 + n then []
    else match recOf (f.read i a (128 + n)) with
      | none => []
      | some r => r :: Flash.run f b k (a + 128 + n)

/-- The records of a copy of the area. -/
def Flash.area (f : Flash) (b : Bool) : List SRec := f.run b (flashBytes (configArea b) / 128) 0

def Flash.records (f : Flash) : List SRec := f.area false ++ f.area true

/-- Copy 1 is the newer: it holds a record of a type that copy 0 lacks, or of a higher SEQ. -/
def Flash.newest (f : Flash) : Bool :=
  (f.area true).any fun r => !(f.area false).any fun q => decide (q.rtype = r.rtype) && decide (r.seq ≤ q.seq)

/-- The record of a type in force: the one of the highest SEQ that verifies in either copy. -/
def Flash.held (f : Flash) (t : Nat) (k : Keys) : Option SRec :=
  (f.records.filter fun r => decide (r.rtype = t) && decide (r.fails k = none)).foldl
    (fun b r => match b with
      | none => some r
      | some q => if q.seq < r.seq then some r else b) none

/-- SERIAL_NUMBER: the serial of the enrolment record, 0 where there is none (R432). -/
def Flash.serial (f : Flash) : Nat := ((f.held 1 ⟨0, none, none⟩).map SRec.serial).getD 0

/-- The public key of the enrolment record. -/
def Flash.enrolled (f : Flash) : Option (BitVec 512) :=
  (f.held 1 ⟨0, none, none⟩).map fun r => BitVec.ofNat 512 (bytesNat r.body)

/-- The owner key: that of the owner certificate in force (R426). -/
def Flash.owner (f : Flash) : Option (BitVec 512) :=
  (f.held 2 ⟨f.serial, none, none⟩).map fun r => BitVec.ofNat 512 (bytesNat (r.body.take 64))

/-- The keys by which this device verifies. Its own key counts while IDENTITY_STATE is 0 (R435). -/
def State.keys (s : State) : Keys :=
  { serial := s.odGet Od.serialNumber, owner := s.sec.ownerKey
    device := if s.odGet Od.identityState = 0 then s.sec.identityKey.map sm2Public else none }

/-- The device can sign: its identity is valid and the key register holds the key (R435, R438, R441). -/
def State.canSign (s : State) : Bool := decide (s.odGet Od.identityState = 0) && s.sec.identityKey.isSome

/-! ### SIG_FAILED (R439, R445) -/

/-- SIG_FAILED is logged: object, reason, and RTYPE or slot. -/
def State.sigFailed (s : State) (sev : BitVec 2) (obj reason what : Nat) : State :=
  s.event 0x10 0 0x0A02 sev [(16, 1, obj), (17, 1, reason), (18, 1, what)]

/-! ### A configuration record takes effect (R40, R433) -/

/-- The entries that a configuration record may set: FIELD_MAC and the signed-saved entries. -/
def configKeys : List Nat :=
  [Od.fieldMac, Od.alarmPolicy 0, Od.alarmPolicy 1, Od.alarmPolicy 2, Od.alarmPolicy 3, Od.alarmPolicy 4,
    Od.sigFailLimit, Od.fwFloor]

/-- Values of a signed-saved entry that its listing allows. -/
def configAccepts (k v : Nat) : Bool :=
  if k = Od.fieldMac then decide (v < 2 ^ 48)
  else if k = Od.sigFailLimit then decide (1 ≤ v) && decide (v ≤ 255)
  else if k = Od.fwFloor then decide (v < 2 ^ 32)
  else decide (v ≤ 2)

/-- One 16-byte entry of a configuration record; one that may not be set is ignored and logged, as fatal at start (R445). -/
def State.applyConfigEntry (s : State) (e : Nat) : State :=
  let sev := if s.dev.state = .boot then sevFatal else sevWarning
  let k := Od.key (e % 2 ^ 16) (e / 2 ^ 16 % 256)
  let v := e / 2 ^ 64
  match Sys2Proof.Machine.odRow? (e % 2 ^ 16) (e / 2 ^ 16 % 256) with
  | some r =>
    if configKeys.contains k ∧ r.ty.code.toNat = e / 2 ^ 24 % 256 ∧ configAccepts k v then s.odSet k v
    else s.sigFailed sev 1 5 3
  | none => s.sigFailed sev 1 5 3

/-- FIELD_MAC where no record gives it (R53). -/
def defaultMac (serial : Nat) : Nat := 0x02A5 * 2 ^ 32 + serial % 2 ^ 32

/-- The configuration record in force takes effect: signed-saved entries hold its values, or else their defaults. -/
def State.applyConfig (s : State) : State :=
  let s := (s.odResets configKeys).odSet Od.fieldMac (defaultMac (s.odGet Od.serialNumber))
  match s.flash.held 3 s.keys with
  | none => s.odSet Od.configSeq 0
  | some r => ((sixteens 4096 r.body).foldl State.applyConfigEntry s).odSet Od.configSeq r.seq

/-- The repair map that the record in force gives; a device that cannot sign ignores it (R435). -/
def State.repairRecord (s : State) : SMap Nat :=
  match if s.canSign then s.flash.held 4 s.keys else none with
  | none => []
  | some r => (List.range 8).foldl (fun m c =>
      SMap.set 0 m c (bytesNat ((r.body.drop (4 * c)).take 4) % 2 ^ 17)) []

/-- A record of this device, signed with its identity key (R431). -/
def State.signedRecord (s : State) (rtype seq : Nat) (body : List Byte) : List Byte :=
  let h := 0x46434E53 + rtype * 2 ^ 32 + 2 * 2 ^ 40 + body.length * 2 ^ 64 + seq * 2 ^ 384 +
    s.odGet Od.serialNumber * 2 ^ 448
  let m := natBytes 64 h ++ body
  m ++ natBytes 64 (sm2Sign (s.sec.identityKey.getD 0) m).toNat

/-- A repair-map record of the slots recorded so far goes to the flash, now or once the flash is free (R391). -/
def State.startRepair (s : State) : State :=
  if s.flashBusy then { s with hm := { s.hm with repairDue := true } }
  else
    let body := ((List.range 8).flatMap fun c => natBytes 4 (SMap.get 0 s.hm.repairMap c)) ++ List.replicate 32 0
    let seq := ((s.flash.held 4 s.keys).map SRec.seq).getD 0 + 1
    { s with hm := { s.hm with flashJob := some (.repair (s.signedRecord 4 seq body)), repairDue := false } }

/-- A record of the repair map that waits for the flash is written. -/
def State.nextRepair (s : State) : State := if s.hm.repairDue ∧ s.canSign then s.startRepair else s

/-- The repair map records slots of a cluster, where the device can sign a record of it (R391, R435). -/
def State.recordSlots (s : State) (c mask : Nat) : State :=
  if s.canSign ∧ mask ≠ 0 then
    { s with hm := { s.hm with
      repairMap := SMap.set 0 s.hm.repairMap c (SMap.get 0 s.hm.repairMap c ||| mask) } }.startRepair
  else s

/-! ### Images (R428, R429) -/

def imgMagic (h : BitVec 2048) : Nat := (h.extractLsb' 0 32).toNat
def imgSeq (h : BitVec 2048) : Nat := (h.extractLsb' 32 32).toNat
def imgVersion (h : BitVec 2048) : Nat := (h.extractLsb' 64 32).toNat
def imgBytes (h : BitVec 2048) : Nat := (h.extractLsb' 96 32).toNat
def imgDigest (h : BitVec 2048) : BitVec 256 := h.extractLsb' 1280 256
def imgSignature (h : BitVec 2048) : BitVec 512 := h.extractLsb' 1536 512

/-- The header qualifies for a start: MAGIC, and VERSION at or above FW_FLOOR. -/
def imgQualifies (floor : Nat) (h : BitVec 2048) : Bool :=
  decide (imgMagic h = 0x4D494E53) && decide (floor ≤ imgVersion h)

/-- Why an image does not verify: signature 0, digest 1, format 5. -/
def imgFails (h : BitVec 2048) (body : List Byte) : Option Nat :=
  if !sm2Verify Config.rootKey ((natBytes 256 h.toNat).take 192) (imgSignature h) then some 0
  else if imgBytes h ≠ body.length ∨ flashBytes 0 - 256 < body.length then some 5
  else if sm3 body ≠ imgDigest h then some 1
  else none

/-- The header and the body of a slot; a BODY_BYTES beyond the slot reads to its end. -/
def Flash.header (f : Flash) (b : Bool) : BitVec 2048 := BitVec.ofNat 2048 (bytesNat (f.read (slotArea b) 0 256))
def Flash.body (f : Flash) (b : Bool) : List Byte :=
  f.read (slotArea b) 256 (min (imgBytes (f.header b)) (flashBytes (slotArea b) - 256))

/-- An image is written into a slot. -/
def Flash.writeImage (f : Flash) (b : Bool) (h : BitVec 2048) (body : List Byte) : Flash :=
  f.rewrite (slotArea b) (natBytes 256 h.toNat ++ body)

/-- The slot that a start chooses: the higher SEQ of those that qualify, slot A on a tie. -/
def Flash.chosen (f : Flash) (floor : Nat) : Option (Bool × BitVec 2048 × List Byte) :=
  let a := f.header false
  let b := f.header true
  match imgQualifies floor a, imgQualifies floor b with
  | true, true => if imgSeq a < imgSeq b then some (true, b, f.body true) else some (false, a, f.body false)
  | true, false => some (false, a, f.body false)
  | false, true => some (true, b, f.body true)
  | false, false => none

/-- The reason where no slot qualifies: below the floor 4, else format 5. -/
def Flash.noSlotReason (f : Flash) : Nat :=
  if imgMagic (f.header false) = 0x4D494E53 ∨ imgMagic (f.header true) = 0x4D494E53 then 4 else 5

/-! ### Identity (R435, R437) -/

/-- The word by which a copy says that it holds helper data; an erased one, and one of zeros, does not (log 84). -/
def helperMagic : Nat := 0x50465550

/-- Helper data that maps the PUF response to a secret, followed by the SM3 check value of the public key that it gives: the
data is a code offset (log 83). -/
def helperBytes (secret : BitVec 256) : List Byte :=
  natBytes 4 helperMagic ++ natBytes 32 (secret ^^^ Config.pufResponse).toNat ++
    natBytes 32 (sm3 (natBytes 64 (sm2Public (Config.identityKey secret)).toNat)).toNat

/-- The key that a helper copy gives: the response is corrected to the secret, and the key's public key must have the check
value. -/
def Flash.helperKey (f : Flash) (b : Bool) : Option (BitVec 256) :=
  let v (a : Nat) : BitVec 256 := BitVec.ofNat 256 (bytesNat (f.read (helperArea b) a 32))
  let key := Config.identityKey (v 4 ^^^ Config.pufResponse)
  if bytesNat (f.read (helperArea b) 0 4) ≠ helperMagic then none
  else if sm3 (natBytes 64 (sm2Public key).toNat) = v 36 then some key else none

/-- Helper data for a secret goes into both copies. -/
def Flash.enrol (f : Flash) (secret : BitVec 256) : Flash :=
  (f.rewrite (helperArea false) (helperBytes secret)).rewrite (helperArea true) (helperBytes secret)

/-- Both copies are overwritten with zeros. -/
def Flash.zeroHelpers (f : Flash) : Flash :=
  (f.rewrite (helperArea false) (List.replicate 0x10000 0)).rewrite (helperArea true) (List.replicate 0x10000 0)

/-- Some byte of a helper copy is not zero. -/
def Flash.helpersLeft (f : Flash) : Bool :=
  (f.read (helperArea false) 0 0x10000).any (fun b => decide (b ≠ 0)) ||
    (f.read (helperArea true) 0 0x10000).any fun b => decide (b ≠ 0)

/-- The erase marker is set: its first byte has been programmed (log 84). -/
def Flash.eraseMarker (f : Flash) : Bool := decide (f.byte (flashArea markerArea).offset ≠ 0xFF)
def Flash.setMarker (f : Flash) : Flash := f.rewrite markerArea [0]
def Flash.clearMarker (f : Flash) : Flash := f.eraseArea markerArea

/-- The private key that the helper data gives: copy 0, or copy 1 when it fails; none where the erase marker is set. -/
def Flash.deriveKey (f : Flash) : Option (BitVec 256) :=
  if f.eraseMarker then none else (f.helperKey false).or (f.helperKey true)

/-- IDENTITY_STATE. -/
def Flash.identityState (f : Flash) : Nat :=
  if f.eraseMarker then 3
  else match f.deriveKey with
    | none => 2
    | some k => match f.enrolled with
      | none => 1
      | some p => if sm2Public k = p then 0 else 4

end Sys2Proof.Machine
end

