-- ==== Sys2Proof/Machine/Jobs.lean ====
section
/-!
DEFINITION. Jobs (R77, R101, R255, R388): JOB_OPEN with its mesh checks, JOB_CLOSE, and DRAIN with its end.
-/

namespace Sys2Proof.Machine

/-! ### The mesh checks (R255, R388) -/

/-- The rectangle entries of a job. -/
def State.rectsOf (s : State) (job : BitVec 16) : List Nat :=
  (List.range 16).filter fun i => decide (s.odGet (Od.rectJob i) = job.toNat)

/-- Corners of a rectangle entry: X0, Y0, X1, Y1. -/
def State.rectAt (s : State) (i : Nat) : Nat × Nat × Nat × Nat :=
  (s.odGet (Od.rectX0 i), s.odGet (Od.rectY0 i), s.odGet (Od.rectX1 i), s.odGet (Od.rectY1 i))

/-- The devices of a rectangle. -/
def rectPlaces (r : Nat × Nat × Nat × Nat) : List Place :=
  (List.range' r.1 (r.2.2.1 + 1 - r.1)).flatMap fun x => (List.range' r.2.1 (r.2.2.2 + 1 - r.2.1)).map fun y => ⟨x, y⟩

/-- Check 1: the corners lie in the plan and in order, and the rectangle holds the device. -/
def State.rectGood (s : State) (r : Nat × Nat × Nat × Nat) : Bool :=
  s.inPlan ⟨r.1, r.2.1⟩ && s.inPlan ⟨r.2.2.1, r.2.2.2⟩ && decide (r.1 ≤ r.2.2.1) && decide (r.2.1 ≤ r.2.2.2) &&
    inRect r s.place

/-- The own ports with a planned neighbour in the rectangle, over a link that is not missing. -/
def State.rectPorts (s : State) (r : Nat × Nat × Nat × Nat) : List Nat :=
  (List.range 4).filter fun p => match s.neighbour p with
    | some q => inRect r q && s.inPlan q && !s.missing.contains (linkOf s.place q)
    | none => false

/-- A missing link has an end inside the rectangle. -/
def State.missingIn (s : State) (r : Nat × Nat × Nat × Nat) : Bool :=
  s.missing.any fun l => inRect r ⟨l.x, l.y⟩ ||
    inRect r (if l.alongY then ⟨l.x, l.y + 1⟩ else ⟨l.x + 1, l.y⟩)

/-- The routes from this device to the devices of the rectangle, each role's to its substitute (R387). -/
def State.rectRoutes (s : State) (r : Nat × Nat × Nat × Nat) : List (Option Route) :=
  (rectPlaces r).map fun p => s.route s.place (s.subst p)

/-- The neighbours of a place in the plan. -/
def State.planNeighbours (s : State) (p : Place) : List Place :=
  let west : List Place := if 0 < p.x then [⟨p.x - 1, p.y⟩] else []
  let south : List Place := if 0 < p.y then [⟨p.x, p.y - 1⟩] else []
  let up : List Place := [⟨p.x + 1, p.y⟩, ⟨p.x, p.y + 1⟩]
  (up ++ west ++ south).filter s.inPlan

/-- A place is a lattice member of a group of the job. -/
def State.latticeMember (s : State) (job : BitVec 16) (p : Place) : Bool :=
  (List.range 16).any fun g => decide (s.odGet (Od.grpJob g) = job.toNat) &&
    let x := s.grp g
    (List.range x.size).any fun r => decide (x.member r = p)

/-- The check of R388 fails. -/
def State.substBad (s : State) (job : BitVec 16) (r : Nat × Nat × Nat × Nat) : Bool :=
  let l := s.substs
  l.any (fun e => !inRect r e.2 || s.latticeMember job e.2 ||
    (s.planNeighbours e.1).any fun q => !s.missing.contains (linkOf e.1 q)) ||
  decide (¬ (l.map (·.1)).Nodup) || decide (¬ (l.map (·.2)).Nodup)

/-- A mesh check of JOB_OPEN fails. -/
def State.meshFails (s : State) (job : BitVec 16) : Bool :=
  match s.rectsOf job with
  | [i] =>
    let r := s.rectAt i
    !s.rectGood r ||
    ((s.rectPorts r).any fun p => decide ((s.port p).state ≠ .up) && decide ((s.port p).state ≠ .degraded)) ||
    (s.missingIn r && decide (s.odGet Od.meshAllowDetour = 0)) ||
    (s.rectRoutes r).any (fun t => t.isNone) || s.substBad job r
  | _ => true

/-- JOB_OPEN succeeds with DEGRADED: a detour is needed, or a port toward the rectangle is narrow. -/
def State.meshDegraded (s : State) (job : BitVec 16) : Bool :=
  match s.rectsOf job with
  | [i] =>
    let r := s.rectAt i
    ((s.rectPorts r).any fun p => decide ((s.port p).state = .degraded)) ||
    (s.rectRoutes r).any fun t => match t with
      | some q => q.waypoint.isSome
      | none => false
  | _ => false

/-! ### Numerics slots (R101, R128, R343, R363) -/

/-- The slots with an open job. -/
def State.openSlots (s : State) : List Nat := (List.range 16).filter s.slotOpen

/-- The entries of a slot return to their defaults: SR_SEED, SR_STEP, the modes, the watch's entries, the pool. -/
def State.resetSlot (s : State) (i : Nat) : State :=
  let s := (s.detachLedger i).odResets
    ([Od.srSeed i, Od.srStep i, Od.heritageMode i, Od.promoP8 i, Od.promoP16 i, Od.arrivalClassMask i] ++
      (List.range 22).map fun j => Od.key (0x2820 + i) (1 + j))
  let s := { s with disp := { s.disp with ended := SMap.set (0, 0, 0) s.disp.ended i (0, 0, 0) } }
  s.resetPool i

/-- A job takes a slot. -/
def State.takeSlot (s : State) (i : Nat) (job : BitVec 16) : State :=
  (s.resetSlot i).odSet (Od.numSlotJob i) job.toNat

/-- A job leaves its slot. -/
def State.freeJobSlot (s : State) (i : Nat) : State := (s.resetSlot i).odReset (Od.numSlotJob i)

/-- Every open job is closed. -/
def State.closeJobs (s : State) : State := s.openSlots.foldl State.freeJobSlot s

/-! ### JOB_OPEN -/

/-- The status of a JOB_OPEN (R77), with the state after it. The mesh checks come before every refusal but that of the ROM,
which alone serves a FAULT entered from BOOT and has no plan to check (R11, R47). -/
def State.openJob (s : State) (job : BitVec 16) : Status × State :=
  if s.dev.romFault then (Status.refused, s)
  else if s.meshFails job then (Status.planMismatch, s)
  else if job = 0 ∨ s.jobOpen job ∨ (s.dev.state ≠ .ready ∧ s.dev.state ≠ .running) then (Status.refused, s)
  else match (List.range 16).find? fun i => !s.slotOpen i with
    | none => (Status.busy, s)
    | some i =>
      let st := if s.meshDegraded job then Status.degraded else Status.ok
      let s := s.takeSlot i job
      (st, if s.dev.state = .ready then s.enter .running 0x0F 0 0 else s)

/-- A disruptive self-test runs (R399). -/
def State.disrupted (s : State) : Bool :=
  match s.selftest with
  | some t => t.running && decide (0x10 ≤ t.action.toNat)
  | none => false

/-- JOB_OPEN: during a disruptive self-test it stops the action, and completes after that (R398). -/
def execJobOpen (via : OdPath) (v : BitVec 16) (s : State) : Outcome := withRoom (.jobOpen via v) s <|
  .next (s.odRow via 0x6001 0x01 v.toNat fun s _ =>
    if s.disrupted then .later { s with hm := { s.hm with jobOpenWait := s.hm.jobOpenWait ++ [(via, v)] } }
    else
      let q := s.openJob v
      .now q.1 q.2)

/-! ### JOB_CLOSE, DRAIN -/

/-- The device enters DRAINING, with its time limit (R46). -/
def State.startDrain (s : State) : State :=
  { s with dev := { s.dev with
    drainAt := some (s.clk.now + 1000000 * s.odGet Od.drainTimeout) } }.enter .draining 0x0F 0 0

/-- A command ring of the job is enabled, or disabling. -/
def State.jobHasRing (s : State) (job : BitVec 16) : Bool :=
  (List.range 64).any fun r => decide (s.odGet (Od.ringJob r) = job.toNat) &&
    (decide (s.odGet (Od.ringEnable r) = 1) || decide (s.odGet (Od.ringState r) = 2))

/-- JOB_CLOSE (R77): the last open job's takes a RUNNING device to DRAINING. A job that is not open is not found, in the
order of R11, before any refusal but the ROM's. -/
def execJobClose (via : OdPath) (v : BitVec 16) (s : State) : Outcome := withRoom (.jobClose via v) s <|
  .next (s.odRow via 0x6001 0x02 v.toNat fun s _ =>
    if s.dev.romFault then .now Status.refused s
    else match s.jobSlot? v with
      | none => .now Status.notFound s
      | some i =>
        if s.writesRefused ∨ s.jobHasRing v then .now Status.refused s
        else
          let s := s.freeJobSlot i
          .now Status.ok (if s.dev.state = .running ∧ s.openSlots = [] then s.startDrain else s))

/-- A DEVICE_COMMAND of value `v`, with the check of its state. -/
def State.deviceCommand (s : State) (via : OdPath) (v : Nat) (ok : State → Bool) (f : State → State) : State :=
  s.odRow via 0x1002 0x01 v fun s _ => if ok s then .now Status.ok (f s) else .now Status.refused s

/-- DEVICE_COMMAND DRAIN (R46). -/
def execDrain (via : OdPath) (s : State) : Outcome := withRoom (.drain via) s <|
  .next (s.deviceCommand via 1 (fun s => s.dev.state = .running) State.startDrain)

/-- DRAIN_COMPLETE: every dispatched command has committed; the jobs close and the device is READY. -/
def execDrainComplete (s : State) : Outcome := withRoom .drainComplete s <|
  if s.dev.state = .draining ∧ s.disp.cmds = [] then
    .next (({ s.closeJobs with dev := { s.dev with drainAt := none } }.enter .ready 0x0D 0 0).pump)
  else .next s

/-- DRAIN_TIMEOUT: the device enters FAULT. -/
def execDrainTimeout (s : State) : Outcome := withRoom .drainTimeout s <|
  match s.dev.drainAt with
  | some t => if s.dev.state = .draining then .next ((s.advanceTo t).enterFault 0x0D 0 0) else .next s
  | none => .next s

end Sys2Proof.Machine
end

