-- ==== Sys2Proof/Machine/Rings.lean ====
section
/-!
DEFINITION. The enabling of command rings and completion rings (R68, R76).
-/

namespace Sys2Proof.Machine

/-- A ring is enabled: HEAD starts at 0, line 1 is written, and the TAIL found in the tail line is taken (R76); a TAIL
outside the ring stops it (R68). -/
def State.enableRing (s : State) (r : Nat) : State :=
  let s := { s with disp := { s.disp with removed := s.disp.removed.filter fun e => decide (e.1 ≠ r) } }
  let s := (((s.setRing r ⟨0, 0⟩).odSet (Od.ringEnable r) 1).arm (.tail r) (s.odGet (Od.ringCtrl r))).setRingState r 1
  let q := s.devRead dispAttr (s.odGet (Od.ringCtrl r)) 4
  let tail := bytesNat q.1.1
  let s := q.2
  if tailValid (s.odGet (Od.ringEntries r)) 0 0 tail then (s.setRing r ⟨0, tail⟩).pump
  else (s.setRingState r 3).event 0x0D 0 0x0001 sevError [(16, 2, r), (18, 4, tail)]

/-- A ring is disabled: its state reads 2 until its started commands commit. -/
def State.disableRing (s : State) (r : Nat) : State :=
  if s.odGet (Od.ringEnable r) = 0 then s
  else ((((s.odSet (Od.ringEnable r) 0).disarm (.tail r)).odSet (Od.ringState r) 2).writeRingLine r).settleRing r

/-- RING_ENABLE. -/
def execRingEnable (via : OdPath) (n : Nat) (v : BitVec 8) (s : State) : Outcome := withRoom (.ringEnable via n v) s <|
  if 64 ≤ n then .next s
  else .next (s.odRow via (0x6100 + n) 0x01 v.toNat (withAccess v.toNat fun s =>
    let st := s.odGet (Od.ringState n)
    if v = 0 then (Status.ok, s.disableRing n)
    else if s.odGet (Od.ringEnable n) = 1 ∧ st = 1 then (Status.ok, s)
    else if !s.jobOpen (BitVec.ofNat 16 (s.odGet (Od.ringJob n))) ∨ s.odGet (Od.cqEnable (s.odGet (Od.ringCq n))) = 0 ∨
        st = 2 ∨ st = 3 then (Status.refused, s)
    else (Status.ok, s.enableRing n)))

/-- A completion ring is enabled: CQ_TAIL starts at 0 and is written, and PHASE at 1 (R76). CQ_HEAD is taken as 0 (log 50). -/
def State.enableCq (s : State) (q : Nat) : State :=
  let s := (s.setCq q { s.cq q with head := 0, tail := 0, phase := true, ties := [] }).odSet (Od.cqEnable q) 1
  let s := s.arm (.cqHead q) (s.odGet (Od.cqCtrl q) + 128)
  let s := s.devWrite dispAttr (s.odGet (Od.cqCtrl q)) (natBytes 4 0)
  (s.releaseCq q).pump

/-- CQ_ENABLE. -/
def execCqEnable (via : OdPath) (n : Nat) (v : BitVec 8) (s : State) : Outcome := withRoom (.cqEnable via n v) s <|
  if 64 ≤ n then .next s
  else .next (s.odRow via (0x6200 + n) 0x01 v.toNat (withAccess v.toNat fun s =>
    if v = 0 then (Status.ok, (s.odSet (Od.cqEnable n) 0).disarm (.cqHead n))
    else if s.odGet (Od.cqEnable n) = 1 then (Status.ok, s)
    else (Status.ok, s.enableCq n)))

end Sys2Proof.Machine
end

