-- ==== Sys2Proof/Machine/Start.lean ====
section
/-!
DEFINITION. Power, reset and the start sequence (R404 to R416): the pins, OFF, the boot, and every step from BOOT to
READY.
-/

namespace Sys2Proof.Machine

/-! ### Steps of a start -/

/-- START_PHASE is logged: the step, its instance and its duration (R423). -/
def State.startPhase (s : State) (step inst dur : Nat) : State :=
  s.event 0x0F 0 0x0901 sevInfo [(16, 1, step), (17, 1, inst), (20, 8, dur)]

/-- START_PHASE of a step that lies inside one command: its duration is a free value (log 33). -/
def State.startPhaseFree (s : State) (step : Nat) : State := s.fresh.2.startPhase step 0 s.fresh.1

/-- START_PHASE of a step that ends now, from the end of the step before it. -/
def State.endPhase (s : State) (step inst : Nat) : State :=
  { s.startPhase step inst (s.clk.now - s.dev.stepAt) with dev := { s.dev with stepAt := s.clk.now } }

/-- The words of addresses `lo` to below `hi` hold zero data with a valid code (R226). -/
def State.zeroMem (s : State) (lo hi : Nat) : State :=
  let out (a : Nat) : Bool := decide (a < lo) || decide (hi ≤ a)
  { s with mem := s.mem.filter fun e => out e.1
           side := List.filter (fun e => out (8 * e.1)) s.side
           racy := s.racy.filter fun w => out (8 * w.word) }

/-- HBM is zeroed. -/
def State.zeroHbm (s : State) : State := { s.zeroMem 0 hbmEnd with hbmNoise := none }

/-- HBM holds undefined contents. -/
def State.wildHbm (s : State) : State := { s.zeroMem 0 hbmEnd with hbmNoise := some s.free, free := s.free + 1 }

/-- The saved entries hold the last committed values or their defaults, a strap's before the ROM's (R40). -/
def State.loadSaved (s : State) : State :=
  let s := (s.odResets odSavedKeys).odSet Od.plcaNodeId (s.dev.straps.toNat % 32)
  match s.flash.saved with
  | none => s
  | some m => m.foldl (fun s e => s.odSet e.1 e.2) s

/-! ### OFF and the boot (R407 to R411, R435, R438) -/

/-- PERST_SCOPE. -/
def State.perstScope (s : State) : Bool := s.dev.straps.getLsbD 5

/-- The Pilot derives the identity, and draws a new challenge; a state other than valid is logged (R435, R438). -/
def State.deriveIdentity (s : State) : State :=
  let st := s.flash.identityState
  let key := s.flash.deriveKey
  let a := s.fresh
  let b := a.2.fresh
  let s := { b.2 with sec := { b.2.sec with
    identityKey := key, identityPub := (key.map sm2Public).getD 0
    pufBuffer := if st = 3 then 0 else Config.pufResponse, smRegs := if st = 3 then 0 else BitVec.ofNat 256 a.1
    challenge := BitVec.ofNat 256 b.1 } }
  let s := (s.odSet Od.serialNumber s.flash.serial).odSet Od.identityState st
  let s := { s with sec := { s.sec with ownerKey := s.flash.owner } }
  let s := s.odSet Od.fieldMac (defaultMac (s.odGet Od.serialNumber))
  if st = 0 then s else s.event 0x10 0 0x0A04 sevError [(16, 1, st)]

/-- The ROM starts: the timebase is zero, the straps are sampled, and the device enters BOOT. -/
def State.boot (s : State) : State :=
  let s := { s.off with dev := { s.off.dev with linkUp := s.dev.perstN, offHold := .none } }
  let s := (s.odSet Od.strapValue s.dev.straps.toNat).odSet Od.plcaNodeId (s.dev.straps.toNat % 32)
  (s.enter .boot 0x01 0 0).deriveIdentity.startPhaseFree 1

/-- RESET_RELEASE: the later of the rising edges of PWR_GOOD and RESET_N. A device that PERST_N holds under PERST_SCOPE 1,
or that a thermal trip holds, stays in OFF. -/
def execResetRelease (straps : BitVec 6) (s : State) : Outcome :=
  if s.dev.state = .off ∧ !(s.dev.pwrGood && s.dev.resetN) then
    let s := { s with dev := { s.dev with pwrGood := true, resetN := true, straps := straps } }
    if s.dev.offHold ≠ .none ∨ (s.perstScope ∧ !s.dev.perstN) then .next s else .next s.boot
  else .next s

/-- PWR_GOOD_LOW: OFF; THERMTRIP_N is released (R407, R417). -/
def execPwrGoodLow (s : State) : Outcome :=
  .next ({ s with dev := { s.dev with pwrGood := false, thermtrip := false } }.enterOff .none)

/-- RESET_N_LOW: OFF. A rail monitor's hold ends with it, a thermal trip's does not (R406, R417). -/
def execResetNLow (s : State) : Outcome :=
  .next ({ s with dev := { s.dev with resetN := false } }.enterOff
    (if s.dev.offHold = OffHold.untilPowerCycle then OffHold.untilPowerCycle else OffHold.none))

/-- PERST_N_LOW: the endpoint only, or OFF, as PERST_SCOPE selects. A hold of OFF that is due stays (R406). -/
def execPerstNLow (s : State) : Outcome :=
  let s := { s with dev := { s.dev with perstN := false, linkUp := false }, pcie := PcieCfg.initial }
  .next (if s.perstScope ∧ s.dev.state ≠ .off then s.enterOff s.dev.offHold else s)

/-- PERST_N_RISE: the endpoint trains again, or the device restarts. -/
def execPerstNRise (s : State) : Outcome :=
  let s := { s with dev := { s.dev with perstN := true } }
  if s.dev.state ≠ .off then .next { s with dev := { s.dev with linkUp := true } }
  else if s.perstScope ∧ s.dev.pwrGood ∧ s.dev.resetN ∧ s.dev.offHold = .none then .next s.boot
  else .next s

/-- Switches of epochs that wait for their T, without the commands that they were to complete (R33). -/
def State.looseEpochs (s : State) : SMap (Nat × BitVec 32 × Option Nat) :=
  List.map (fun e : Nat × Nat × BitVec 32 × Option Nat => (e.1, e.2.1, e.2.2.1, none)) s.epochs

/-- Every island but the management island is off, while an erase finishes (R442); a reset that was due is over, since OFF
is to be left by a toggle alone (R406). -/
def State.islandsOff (s : State) : State :=
  let o := s.off
  { o with clk := s.clk, od := s.od, epochs := s.looseEpochs, hm := s.hm, sec := s.sec, log := s.log, tally := s.tally, watch := s.watch
           gov := s.gov, pcie := PcieCfg.initial
           dev := { s.dev with
             offHold := .untilToggle, linkUp := false, hbmDone := 0, clustersOn := 0, resetAt := none, drainAt := none } }

/-- RAIL_UNDERVOLTAGE: OFF until PWR_GOOD or RESET_N is toggled (R406). With the marker of an erase still due, the
management island goes on until it is programmed, unless VDD_SOC or VDD_IO is the rail (R442). -/
def execRailUndervoltage (rail : Nat) (s : State) : Outcome :=
  if rail < 9 ∧ s.dev.state ≠ .off then
    if s.sec.erase = .marker ∧ s.dev.state = .alarmed ∧ rail ≠ 1 ∧ rail ≠ 5 then .next s.islandsOff else .next (s.enterOff .untilToggle)
  else .next s

/-- THERMTRIP: THERMTRIP_N low, and OFF until PWR_GOOD is taken low (R417). -/
def execThermtrip (s : State) : Outcome :=
  if s.dev.state ≠ .off then .next s.trip else .next s

/-! ### DEVICE_COMMAND RESET (R76, R407) -/

/-- RESET is accepted: it takes effect 1 ms after the response. -/
def execReset (via : OdPath) (s : State) : Outcome := withRoom (.reset via) s <|
  .next (s.odRow via 0x1002 0x01 3 fun s _ =>
    .now Status.ok { s with dev := { s.dev with resetAt := some (s.dev.resetAt.getD (s.clk.now + 1000000)) } })

/-- RESET_DELAY_EXPIRY: the device enters OFF and restarts by itself. -/
def execResetDelayExpiry (s : State) : Outcome :=
  match s.dev.resetAt with
  | some _ => if s.dev.state ≠ .off then .next (s.enterOff .none).boot else .next s
  | none => .next s

/-! ### The image (R429, R433) -/

/-- The duration of the firmware step: a free number of 8 to 15 ms (R411, log 33). -/
def State.firmwareNs (s : State) : Nat := 8000000 + s.fresh.1 % 7000001

/-- The firmware step: saved entries are loaded, and stacks and clusters are to start, the first stack when the step ends. -/
def State.firmware (s : State) : State :=
  let s := s.loadSaved
  let d := s.firmwareNs
  let s := s.fresh.2.startPhase 3 0 d
  { s with dev := { s.dev with hbmDone := 0, clustersOn := 0, stepAt := s.clk.now + d } }

/-- IMAGE_VERIFIED: the chosen image verifies and the device enters INIT, or it enters FAULT. -/
def execImageVerified (s : State) : Outcome := withRoom .imageVerified s <|
  if s.dev.state = .boot then
    let s := s.applyConfig
    match s.flash.chosen (s.odGet Od.fwFloor) with
    | none => .next ((s.sigFailed sevFatal 0 s.flash.noSlotReason 0).enterFault 0x10 0 0x0A02)
    | some (b, h, body) =>
      let slot := if b then 1 else 0
      match imgFails h body with
      | some r => .next ((s.sigFailed sevFatal 0 r slot).enterFault 0x10 0 0x0A02)
      | none =>
        let s := s.endPhase 2 0
        let s := s.event 0x10 0 0x0A01 sevInfo [(16, 1, slot), (20, 4, imgVersion h), (24, 4, imgSeq h)]
        let s := ((s.odSet Od.firmwareVersion (imgVersion h)).odSet Od.imageSlot slot).odSet Od.imageSeq (imgSeq h)
        let s := { s with sec := { s.sec with imageHeader := h }, hm := { s.hm with repairMap := s.repairRecord } }
        .next ((s.enter .init 0x10 0 0x0A01).odSet Od.tImageVerified s.clk.now).firmware
  else .next s

/-! ### HBM and clusters (R413, R414, R226) -/

/-- When the stack that initialises must have completed (R413). -/
def State.stackEnd (s : State) : Nat := s.dev.stepAt + 6000000

/-- The stack that initialises has not completed in time: INIT ends with a fatal error. -/
def State.stackFails (s : State) (phase : Nat) : State :=
  let n := s.dev.hbmDone
  let s := s.advanceTo s.stackEnd
  (s.event 0x08 n 0x0905 sevFatal [(16, 1, n), (17, 1, phase)]).enterFault 0x08 n 0x0905

/-- HBM_STACK_INIT: a stack completes, no earlier than it has started; after the last, HBM is zeroed. One that completes later
than 6 ms after its start has failed, in a phase that nothing gives: a free value. -/
def execHbmStackInit (s : State) : Outcome := withRoom .hbmStackInit s <|
  if s.dev.state = .init ∧ s.dev.hbmDone < 8 then
    if s.stackEnd < s.clk.now then .next (s.fresh.2.stackFails (s.fresh.1 % 3))
    else
      let n := s.dev.hbmDone
      let s := (s.advanceTo s.dev.stepAt).endPhase 4 n
      let s := { s with dev := { s.dev with hbmDone := n + 1 } }
      .next (if n = 7 then (s.odSet Od.tHbmDone s.clk.now).zeroHbm else s)
  else .next s

/-- HBM_INIT_FAILED: 6 ms pass without a stack's completion. -/
def execHbmInitFailed (phase : BitVec 8) (s : State) : Outcome := withRoom (.hbmInitFailed phase) s <|
  if s.dev.state = .init ∧ s.dev.hbmDone < 8 ∧ phase ≤ 2 then .next (s.stackFails phase.toNat) else .next s

/-- CORE_RETIRED is logged: cluster, physical slot, cause (R400). -/
def State.coreRetired (s : State) (c slot cause : Nat) : State :=
  s.event 0x0F 0 0x0803 sevWarning [(16, 1, c), (17, 1, slot), (18, 1, cause)]

/-- The slots of a mask, in ascending order. -/
def maskSlots (mask : Nat) : List Nat := (List.range 17).filter mask.testBit

/-- Every core of the cluster without work, with CYCLES at zero (R414, R448). -/
def State.freshCores (s : State) (c : Nat) : State :=
  (List.range 16).foldl (fun s i => s.setCore (16 * c + i) { Core.idle with cycBase := s.coreCycles }) s

/-- The counters of a cluster are zero when its islands are enabled (R448). -/
def State.freshCounters (s : State) (c : Nat) : State :=
  ((List.range 16).foldl (fun s i => s.zeroSet (0x3100 + 16 * c + i)) s).zeroSet (0x3200 + c)

/-- The slots of cluster `c` are tested, the map of its cores is fixed, and its memories are zeroed. -/
def State.prepareCluster (s : State) (c bad : Nat) : State :=
  let out := SMap.get 0 s.hm.repairMap c ||| bad
  let s := (maskSlots bad).foldl (fun s i => s.coreRetired c i 0) s
  let s := s.recordSlots c bad
  let s := (s.odSet (Od.repairLeftOut c) (if out = 0 then 0x10000 else out)).odSet (Od.repairPending c) 0
  let s := ((s.odSet (Od.coreFailed c) 0).freshCores c).freshCounters c
  (s.zeroMem (0xC000000000 + c * 0x2000000) (0xC000000000 + (c + 1) * 0x2000000)).zeroMem
    (localBase (16 * c)) (localBase (16 * (c + 1)))

/-- The ports train from DOWN, but that the hardware acts on a PORT_ENABLE that is false (R250). -/
def State.portsUp (s : State) : State :=
  (List.range 4).foldl (fun s p =>
    s.setPort p { s.port p with state := if s.acting (Od.portEnable p) = 1 then .down else .disabled }) s

/-- The saved entries that act on the hardware are applied: a port whose PORT_ENABLE is false goes to DISABLED (R411). The
other entries are read where they act. -/
def State.applySaved (s : State) : State :=
  (List.range 4).foldl (fun s p =>
    if s.odGet (Od.portEnable p) = 0 ∧ (s.port p).state ≠ .disabled then s.portLeave p 4 .disabled else s) s

/-- Every slot of the cluster is left out. -/
def State.clusterLost (s : State) (c : Nat) : Bool := decide ((maskSlots (s.leftOut c)).length = 17)

/-- Cluster `c` is on. With the last one the links begin to train (R250, R411). -/
def State.clusterOn (s : State) (c : Nat) : State :=
  let s := { s with dev := { s.dev with clustersOn := c + 1 } }.endPhase 6 c
  if c = 7 then s.portsUp else s

/-- CLUSTER_ENABLE: cluster `c` follows cluster 0 by 40 µs × c. A cluster of which no core slot is left has failed to
initialise: the device enters FAULT (R46, log 77). -/
def execClusterEnable (failedSlots : BitVec 17) (s : State) : Outcome := withRoom (.clusterEnable failedSlots) s <|
  let c := s.dev.clustersOn
  if s.dev.state = .init ∧ s.dev.hbmDone = 8 ∧ c < 8 then
    let s := (s.advanceTo (s.odGet Od.tHbmDone + 40000 * c)).prepareCluster c failedSlots.toNat
    .next (if s.clusterLost c then s.enterFault 0x0F 0 0 else s.clusterOn c)
  else .next s

/-- START_COMPLETE: the fill is complete, with it the training of the ports (R415); the Jarast table is written, the saved
entries are applied, and the device enters READY. An erase whose helper overwrite was cut short goes on (R441). -/
def execStartComplete (s : State) : Outcome := withRoom .startComplete s <|
  if s.dev.state = .init ∧ s.dev.clustersOn = 8 then
    let t := s.odGet Od.tHbmDone + 87500000
    let s := (s.trainingOver (max t s.clk.now)).advanceTo t
    let s := (s.startPhaseFree 7).startPhase 5 0 (s.clk.now - s.odGet Od.tHbmDone)
    let s := (s.writeJarast.applySaved.startPhaseFree 8).enter .ready 0x0F 0 0
    let s := s.odSet Od.tReady s.clk.now
    .next (if s.flash.eraseMarker ∧ s.flash.helpersLeft then
        { s with sec := { s.sec with erase := .helper } }
      else s)
  else .next s

/-! ### REINIT (R416) -/

/-- The monitor is of a ring of the management island, which goes on through a start (R395, R458). -/
def Monitor.management : Monitor → Bool
  | .logHead | .tallyHead => true
  | .tail _ | .cqHead _ | .handoff _ => false

/-- Command rings and completion rings are disabled, and every command and everything it had under way is dropped. What does
not belong to a command stays: the switches of epochs, and the monitors of the log ring and of the Tally's ring. -/
def State.dropWork (s : State) : State :=
  let s := (List.range 64).foldl (fun s r =>
    ((s.odSet (Od.ringEnable r) 0).odSet (Od.ringState r) 0).odSet (Od.cqEnable r) 0) s
  let s := (List.range 16).foldl (fun s h => s.odSet (Od.hoState h) 0) s
  let s := s.leaveLate s.fab.tracker
  { s with
    disp := { Disp.initial with
      nextSerial := s.disp.nextSerial, recent := s.disp.recent
      armed := s.disp.armed.filter fun e => e.2.management, woken := s.disp.woken.filter Monitor.management }
    barriers := [], epochs := s.looseEpochs, channels := [], racy := [], hbmReadFails := []
    scrub := .initial, watch := { s.watch with mirrors := [] }
    fab := { s.fab with tracker := [], invWaits := [], directory := [], lineCache := [] } }

/-- The start runs again from the firmware step: jobs close, work is dropped, and every port goes DOWN. -/
def State.reinit (s : State) : State :=
  let s := s.closeJobs.dropWork
  let s := (List.range 8).foldl State.freshCores s
  let s := (List.range 4).foldl (fun s p => s.portLeave p 3 .down) s
  (s.enter .init 0x0F 0 0).firmware

/-- DEVICE_COMMAND REINIT, from READY or FAULT. -/
def execReinit (via : OdPath) (s : State) : Outcome := withRoom (.reinit via) s <|
  .next (s.deviceCommand via 2 (fun s => s.stopped && !s.dev.romFault) State.reinit)

end Sys2Proof.Machine
end

