-- ==== Sys2Proof/Machine/Abort.lean ====
section
/-!
DEFINITION. ABORT_TARGET (R75, R397), and the failure and retirement of cores (R391, R392).
-/

namespace Sys2Proof.Machine

/-! ### ABORT_TARGET -/

/-- The oldest uncommitted command of a ring with a CMD_ID. -/
def State.abortTarget? (s : State) (ring : Nat) (id : BitVec 32) : Option Cmd :=
  s.disp.cmds.find? fun c => decide (c.ring = ring) && decide (c.cmdId = id)

/-- CMD_ABORTED is logged. -/
def State.cmdAborted (s : State) (c : Cmd) : State :=
  s.event 0x0D 0 0x0002 sevInfo [(16, 2, c.ring), (20, 4, c.cmdId.toNat)]

/-- A command that has not started is removed: it completes ABORTED with no effect. The commit point of an UPDATE_STEP
with ABORTED advances SR_STEP and rolls the ledger (R102, R330, R352). -/
def State.removeCmd (s : State) (c : Cmd) : State :=
  let s := (s.dropCopy c.serial).dropUpdate c.serial
  let s := s.dropLaunch c.serial
  let s := (if c.opcode = 0x0020 then s.stepDone c.job else s).commit c Status.aborted 0
  if c.opcode = 0x0040 then s.hoNext c.hoChannel else s

/-- A started command is aborted: the write's status, and the state; ALREADY_DONE for a command whose status is fixed,
and BUSY for a BARRIER (R309). -/
def State.abortStarted (s : State) (c : Cmd) : Status × State :=
  let done (f : State → State) : Status × State := (Status.ok, f (s.cmdAborted c))
  match c.opcode.toNat with
  | 0x0001 => match s.launch? c.serial with
    | some l => if l.aborted.isSome then (Status.alreadyDone, s) else done fun s => s.abortLaunch l
    | none => (Status.notFound, s)
  | 0x0002 => match s.copy? c.serial with
    | some j => done fun s => s.abortCopy j c
    | none => (Status.notFound, s)
  | 0x0010 => match s.bucketOf? c.serial with
    | some b => done fun s => s.endBucket b 0 s.self
    | none => (Status.notFound, s)
  | 0x0011 => (Status.busy, s)
  | 0x0012 => match s.permute? c.serial with
    | some p => done fun s => s.endPermute p 0 s.self
    | none => (Status.notFound, s)
  | 0x0020 => match s.update? c.serial with
    | some u => done fun s => s.abortUpdate c u
    | none => (Status.notFound, s)
  | 0x0030 => match s.disp.snaps.find? fun n => decide (n.cmd = c.serial) with
    | some n => done fun s => s.abortSnap c n
    | none => (Status.notFound, s)
  | _ => if (s.channel c.hoChannel).stop.isSome then (Status.alreadyDone, s) else done fun s => s.abortHandoff c

/-- A command is removed from its ring before it is taken: it completes ABORTED with no effect. -/
def State.removeWaiting (s : State) (ring pos : Nat) : State :=
  let q := s.readCmd ring pos
  let c := q.1.1
  let s := ({ q.2 with disp := { q.2.disp with removed := (ring, pos) :: q.2.disp.removed } }).cmdAborted c
  if c.job = s.jobOfRing ring then s.removeCmd c else s.commit c Status.aborted 0

/-- What an abort of a ring and a CMD_ID finds (R75). -/
inductive AbortFinds where
  | taken (c : Cmd)
  | waiting (pos : Nat)
  | committed
  | nothing

def State.abortFinds (s : State) (ring : Nat) (id : BitVec 32) : AbortFinds :=
  match s.abortTarget? ring id with
  | some c => .taken c
  | none =>
    match if ring < 64 then s.ringFind ring id else none with
    | some p => .waiting p
    | none => if s.disp.recent.contains (ring, id) then .committed else .nothing

/-- The abort of a command of a ring (R75). -/
def State.abortCmd (s : State) (ring : Nat) (id : BitVec 32) : Status × State :=
  match s.abortFinds ring id with
  | .taken c =>
    let q := if c.phase = .started then s.abortStarted c else (Status.ok, (s.cmdAborted c).removeCmd c)
    (q.1, q.2.pump)
  | .waiting p => (Status.ok, (s.removeWaiting ring p).pump)
  | .committed => (Status.alreadyDone, s)
  | .nothing => (Status.notFound, s)

/-- ABORT_TARGET; NOT_FOUND comes before the REFUSED of the access right and of the device state (R11). -/
def execAbortTarget (via : OdPath) (v : BitVec 64) (s : State) : Outcome := withRoom (.abortTarget via v) s <|
  let ring := (v.extractLsb' 32 16).toNat
  let id := v.extractLsb' 0 32
  .next (s.odRow via 0x6010 0x01 v.toNat fun s r =>
    if !s.dev.romFault ∧ (s.abortCmd ring id).1 = Status.notFound then .now Status.notFound s
    else withAccess v.toNat (fun s => s.abortCmd ring id) s r)

/-! ### CORE_RETIRE and CORE_FAILED -/

/-- The physical slot of a logical core of a cluster: the slots in use, in ascending order (R19). -/
def State.slotOfCore (s : State) (c i : Nat) : Option Nat :=
  ((List.range 17).filter fun k => !(s.leftOut c).testBit k)[i]?

/-- The slot is to be left out from the next start. -/
def State.retireSlot (s : State) (c slot cause : Nat) : State :=
  let s := if s.canSign then s.odSet (Od.repairPending c) (s.odGet (Od.repairPending c) ||| 2 ^ slot) else s
  (s.recordSlots c (2 ^ slot)).coreRetired c slot cause

/-- CORE_RETIRE: a logical core's slot is recorded, where the device can sign and the core is present (R391, R435). -/
def execCoreRetire (via : OdPath) (n : Nat) (v : BitVec 8) (s : State) : Outcome := withRoom (.coreRetire via n v) s <|
  if 8 ≤ n then .next s
  else .next (s.odRow via (0x2120 + n) 0x03 v.toNat (withAccess v.toNat fun s =>
    match if v.toNat < 16 ∧ s.canSign then s.slotOfCore n v.toNat else none with
    | some k => (Status.ok, s.retireSlot n k 1)
    | none => (Status.refused, s)))

/-- Everything on a failed core is discarded: groups, tokens, operations and accumulators. Its channels are closed, so no
master sees its local memory before the next start zeroes it (R392). -/
def State.discardCore (s : State) (n : Nat) : State :=
  let own (t : Tx) : Bool := match t.owner with
    | .held c _ _ | .posted c _ _ => decide (c = n)
    | _ => false
  let s := s.leaveLate (s.fab.tracker.filter own)
  let s := { s with fab := { s.fab with tracker := s.fab.tracker.filter fun t => !own t } }
  let c := s.core n
  s.setCore n { Core.idle with
    launch := c.launch, cycBase := c.cycBase, cycEnd := some s.coreCycles, flagSticky := c.flagSticky }

/-- Commands whose engine used the arrays of a failed core complete ABORTED (R392). -/
def State.failUpdates (s : State) (n : Nat) : State :=
  (s.disp.updates.filter fun u => u.cores.contains n && u.applied && !u.skipped).foldl (fun s u =>
    match s.cmd? u.cmd with
    | some c => s.abortUpdate c u
    | none => s) s

/-- CORE_FAILED: a core fails while running (R392). -/
def execCoreFailed (core : Nat) (cause : BitVec 8) (s : State) : Outcome := withRoom (.coreFailed core cause) s <|
  if s.coreMapped core ∧ !s.coreFailed core ∧ cause ≤ 1 ∧ s.dev.state ≠ .off then
    let c := core / 16
    let i := core % 16
    match s.slotOfCore c i with
    | none => .next s
    | some k =>
      let launch := (s.core core).launch.bind s.launch?
      let id := match launch.bind fun l => s.cmd? l.cmd with
        | some q => q.cmdId.toNat
        | none => 0
      let s := (s.discardCore core).odSet (Od.coreFailed c) (s.odGet (Od.coreFailed c) ||| 2 ^ i)
      let s := match launch with
        | some l =>
          let s := s.setLaunch { l with
            aborted := some (l.aborted.getD (s.clk.now, s.epoch 0)), excStop := true, firstCause := 0 }
          (s.launchHas l).foldl State.abortCore s
        | none => s
      let s := s.failUpdates core
      let s := s.event 0x0F 0 0x0806 sevError
        [(16, 1, c), (17, 1, k), (18, 1, i), (19, 1, cause.toNat), (20, 4, id)]
      .next ((s.retireSlot c k 3).pump)
  else .next s

end Sys2Proof.Machine
end

