-- ==== Sys2Proof/Machine/Control.lean ====
section
/-!
DEFINITION. The control instructions (R182 to R186) and the undefined opcode (R179).
-/

namespace Sys2Proof.Machine

/-- NOP (R182): does nothing. -/
def execNop (g : GroupRef) (f : BitVec 48) (s : State) : Outcome :=
  issued g (f ++ (0x4000 : BitVec 16)) 5 (groupOnly g fun gr => gr) s

/-- The stack holds its 32 entries (R184). -/
def Group.stackFull (gr : Group) : Bool := decide (32 ≤ gr.stack.length)

/-- BRA (R183): all, none, or some of the active threads branch. -/
def execBra (g : GroupRef) (f : BitVec 48) (s : State) : Outcome :=
  let w := f ++ (0x4001 : BitVec 16)
  issued g w 5 (fun s gr =>
    let t := gr.execMask w
    let n := gr.active &&& ~~~t
    if n = 0 then .done (s.setGroup g { gr with pc := gr.target w })
    else if t = 0 then .done (s.setGroup g gr.advance)
    else if gr.stackFull then .exc (gr.exc cIllegal 0x04)
    else .done (s.setGroup g { gr with
      pc := gr.target w, active := t, stack := ⟨true, gr.nextPc, n⟩ :: gr.stack })) s

/-- RPUSH (R183): pushes a reconvergence entry. -/
def execRpush (g : GroupRef) (f : BitVec 48) (s : State) : Outcome :=
  let w := f ++ (0x4002 : BitVec 16)
  issued g w 5 (fun s gr =>
    if gr.stackFull then .exc (gr.exc cIllegal 0x04)
    else .done (s.setGroup g { gr with stack := ⟨false, gr.target w, gr.active⟩ :: gr.stack }.advance)) s

/-- The entry that a pop continues at: entries whose mask is empty after the AND with the live mask are discarded. -/
def popStack (live : BitVec 32) : List StackEntry → Option (BitVec 40 × BitVec 32 × List StackEntry)
  | [] => none
  | e :: r => if e.mask &&& live = 0 then popStack live r else some (e.pc, e.mask &&& live, r)

/-- The group continues at the popped entry, if one is left. -/
def Group.pop (gr : Group) : Option Group :=
  (popStack gr.live gr.stack).map fun p => { gr with pc := p.1, active := p.2.1, stack := p.2.2 }

/-- RJOIN (R183): pops the reconvergence stack. -/
def execRjoin (g : GroupRef) (f : BitVec 48) (s : State) : Outcome :=
  issued g (f ++ (0x4003 : BitVec 16)) 5 (fun s gr =>
    match gr.pop with
    | none => .exc (gr.exc cIllegal 0x05)
    | some q => .done (s.setGroup g q)) s

/-- CALL (R182): UD := PC + 8; the group jumps. -/
def execCall (g : GroupRef) (f : BitVec 48) (s : State) : Outcome :=
  let w := f ++ (0x4004 : BitVec 16)
  issued g w 5 (fun s gr =>
    .done (s.setGroup g { gr.uSet (fUD w) (gr.nextPc.setWidth 64) with pc := gr.target w })) s

/-- RET (R182): the group jumps to the address in UD, of which the PC holds 40 bits (log 9). -/
def execRet (g : GroupRef) (f : BitVec 48) (s : State) : Outcome :=
  let w := f ++ (0x4005 : BitVec 16)
  issued g w 5 (fun s gr => .done (s.setGroup g { gr with pc := (gr.uGet (fUD w)).setWidth 40 })) s

/-- The group without the threads of `m`, in its live mask, its active mask and every mask of its stack (R185). -/
def Group.without (gr : Group) (m : BitVec 32) : Group :=
  { gr with
    live := gr.live &&& ~~~m
    active := gr.active &&& ~~~m
    stack := gr.stack.map fun e => { e with mask := e.mask &&& ~~~m } }

/-- END (R185): the executing threads end. The last ones end the group; otherwise a group with no active thread left
continues as at an RJOIN. -/
def execEndThreads (g : GroupRef) (f : BitVec 48) (s : State) : Outcome :=
  let w := f ++ (0x4006 : BitVec 16)
  issued g w 5 (fun s gr =>
    let q := gr.without (gr.execMask w)
    if q.live = 0 then s.endCheck g gr w
    else if q.active = 0 then
      match q.pop with
      | none => .exc (gr.exc cIllegal 0x05)
      | some q' => .done (s.setGroup g q')
    else .done (s.setGroup g q.advance)) s

/-- CBAR (R186): the group waits at the core barrier. -/
def execCbar (g : GroupRef) (f : BitVec 48) (s : State) : Outcome :=
  issued g (f ++ (0x4007 : BitVec 16)) 5 (fun s gr =>
    .done (s.setGroup g { gr with hold := .cbar, cbars := gr.cbars + 1 })) s

/-- A group counts as arrived at the core barrier: it waits there, has ended, or has stopped (R186). -/
def Group.arrived (gr : Group) : Bool :=
  match gr.hold with
  | .cbar | .stopped | .endFence _ | .endTokens _ => true
  | _ => false

/-- A group that waits at the core barrier goes on. -/
def Group.released (gr : Group) : Group :=
  if gr.hold = .cbar then { gr with hold := .none }.advance else gr

/-- CBAR_RELEASE (R186): once every group has arrived, every waiting group is released. -/
def execCbarRelease (core : Nat) (s : State) : Outcome :=
  let c := s.core core
  if s.working && c.groups.all fun e => e.2.arrived then
    .next (s.setCore core { c with groups := c.groups.map fun e => (e.1, e.2.released) })
  else .next s

/-- UNDEFINED_OPCODE (R179): an opcode that no table defines raises ILLEGAL_INSTRUCTION with detail 0x01. -/
def execUndefinedOpcode (g : GroupRef) (word : BitVec 64) (s : State) : Outcome :=
  issued g word 5 (fun _ gr => .exc (gr.exc cIllegal 0x01)) s

end Sys2Proof.Machine
end

