-- ==== Sys2Proof/Machine/Errors.lean ====
section
/-!
DEFINITION. The patrol scrubber, the second of a correction limit, and hardware errors outside the protected memories
(R46, R232, R236, R237, R240).
-/

namespace Sys2Proof.Machine

/-! ### SCRUB_READ -/

/-- The scrubber runs in these states (R236); it stops in BOOT, INIT and ALARMED. A FAULT from BOOT has no memory that
was brought up. -/
def State.scrubOn (s : State) : Bool :=
  decide (s.odGet Od.scrubEnable = 1) && (s.working || (s.dev.state = .fault && !s.dev.romFault))

/-- First address of a memory and its bytes; none where the device does not have it. -/
def State.scrubMemory (s : State) : ScrubUnit → Option (Nat × Nat)
  | .hbm => if s.dev.hbmDone = 8 then some (0, hbmEnd) else none
  | .localMem n => if s.coreMapped n && !s.coreFailed n then some (localBase n, 0x200000) else none
  | .clusterBuffer c => if c < s.dev.clustersOn then some (0xC000000000 + c * 0x2000000, 0x1000000) else none

/-- The pass over a memory. -/
def Scrub.pass? (x : Scrub) : ScrubUnit → Option ScrubPass
  | .hbm => x.hbm
  | .localMem n => SMap.find? x.locals n
  | .clusterBuffer c => SMap.find? x.buffers c

def Scrub.put (x : Scrub) (u : ScrubUnit) (p : ScrubPass) : Scrub :=
  match u with
  | .hbm => { x with hbm := some p }
  | .localMem n => { x with locals := SMap.put x.locals n p }
  | .clusterBuffer c => { x with buffers := SMap.put x.buffers c p }

/-- The period of a memory's passes, in ns, as its entry gives it now. -/
def State.scrubPeriod (s : State) : ScrubUnit → Nat
  | .hbm => 3600000000000 * s.odGet Od.scrubHbmHours
  | _ => 1000000000 * s.odGet Od.scrubSramSeconds

/-- The pass that the next read of a memory of `n` bytes belongs to. After a whole pass the next begins a period after it
began, with the period that the entry gives then; within a pass no pace is stated (log 73). -/
def State.scrubPass (s : State) (u : ScrubUnit) (n : Nat) : ScrubPass × State :=
  match s.scrub.pass? u with
  | none => (⟨0, s.clk.now, s.scrubPeriod u⟩, s)
  | some p =>
    if p.next < n then (p, s)
    else
      let s := s.advanceTo (p.since + p.period)
      (⟨0, s.clk.now, s.scrubPeriod u⟩, s)

/-- The end of an HBM pass: it is counted and logged (R240, R241). -/
def State.scrubPassDone (s : State) : State :=
  let s := (s.odAdd Od.scrubHbmPasses 1).odSet Od.scrubHbmLast s.clk.now
  let s := s.event 0x08 0 0x0205 sevInfo [(16, 8, s.odGet Od.scrubHbmPasses), (24, 4, min s.scrub.hbmCorrected (2 ^ 32 - 1))]
  { s with scrub := { s.scrub with hbmCorrected := 0 } }

/-- Words of an HBM granule corrected since `old`: its 256 bytes lie in one stack. -/
def State.scrubNoted (s : State) (old : State) (a : Nat) : State :=
  let k := Od.hbmCeCount (hbmStack a)
  let s := { s with scrub := { s.scrub with hbmCorrected := s.scrub.hbmCorrected + (s.odGet k - old.odGet k) } }
  s.count (0x3210 + hbmStack a) 0x0807 8 Attr.none

/-- SCRUB_READ: the next 256 bytes of a memory are read, and corrected or poisoned by R232. -/
def execScrubRead (unit : ScrubUnit) (s : State) : Outcome := withRoom (.scrubRead unit) s <|
  match if s.scrubOn then s.scrubMemory unit else none with
  | none => .next s
  | some (base, n) =>
    let p := s.scrubPass unit n
    let a := base + p.1.next
    let s1 := (p.2.readWords .scrub (spanWords a 256)).2
    let s2 := if unit = .hbm then s1.scrubNoted p.2 a else s1
    let q := { p.1 with next := p.1.next + 256 }
    let s3 := { s2 with scrub := s2.scrub.put unit q }
    .next (if n ≤ q.next ∧ unit = .hbm then s3.scrubPassDone else s3)

/-! ### MEM_CE_LIMIT -/

/-- MEM_CE_LIMIT: at the end of a second in which a block's MEM_CE records were suppressed, one record says how many. -/
def execMemCeLimit (srcType : BitVec 8) (srcInst : BitVec 8) (s : State) : Outcome :=
    withRoom (.memCeLimit srcType srcInst) s <|
  let k := 256 * srcType.toNat + srcInst.toNat
  let e := SMap.get ([], 0) s.log.ceRate k
  if e.2 = 0 ∨ s.dev.state = .off then .next s
  else
    let s := s.advanceTo (e.1.getLastD 0 + 1000000000)
    let s := s.event srcType.toNat srcInst.toNat 0x0203 sevWarning [(16, 4, min e.2 (2 ^ 32 - 1))]
    .next { s with log := { s.log with ceRate := SMap.set ([], 0) s.log.ceRate k (e.1, 0) } }

/-! ### FATAL_ERROR (R46, R232, R237) -/

/-- HBM_LINK_RETRY: the kind of transfer, the retries made, and whether one succeeded. -/
def State.linkRetry (s : State) (stack pc what tries : Nat) (recovered : Bool) : State :=
  (s.odAdd (Od.hbmLinkRetryCount stack) tries).event 0x08 stack 0x0204 sevWarning
    [(16, 1, pc), (17, 1, what), (18, 1, tries), (19, 1, recovered.toNat)]

/-- The stack has been initialised in this start. -/
def State.stackUp (s : State) (stack : Nat) : Bool := decide (stack < 8) && decide (stack < s.dev.hbmDone)

/-- A write or command that the stack rejected `failures` times: resent up to three times, and fatal at the fourth. -/
def State.resent (s : State) (stack pc what failures : Nat) : State :=
  if s.stackUp stack ∧ pc < 32 ∧ failures ≠ 0 then
    let s := s.linkRetry stack pc what (min failures 3) (decide (failures < 4))
    if failures < 4 then s else s.enterFault 0x08 stack 0x0204
  else s

/-- Index of a register-file code word: slot, lane and pair of registers (R237). -/
def regWord (slot lane n : Nat) : Nat := (slot * 32 + lane) * 128 + n

/-- An uncorrectable register word stops every group of the LAUNCH on that core, and the LAUNCH completes ABORTED. -/
def State.stopCore (s : State) (core : Nat) : State :=
  match s.launchOf core with
  | none => s
  | some l =>
    let s := s.setLaunch { l with aborted := some (l.aborted.getD (s.clk.now, s.epoch 0)) }
    (s.setCore core { s.core core with stopAt := some ((s.core core).stopAt.getD s.clk.now) }).abortCore core

/-- An error in a register word of a resident group. A correction's positions are free (log 24). -/
def State.registerError (s : State) (core slot lane n : Nat) (correctable : Bool) : State :=
  if (s.group? ⟨core, slot⟩).isNone ∨ 32 ≤ lane ∨ 128 ≤ n then s
  else if correctable then
    let p := s.fresh.1
    let q := s.fresh.2.fresh.1 % 81
    s.fresh.2.fresh.2.memCE .regs 0x03 core (regWord slot lane n) (p % 80) (if q = 80 then 0xFF else q) .demand
  else (s.memUE .regs 0x03 core (regWord slot lane n) .demand).stopCore core

/-- FATAL_ERROR: the effect of a hardware error; those that R46 calls fatal move the device to FAULT. -/
def execFatalError (e : HwError) (s : State) : Outcome := withRoom (.fatalError e) s <|
  if s.dev.state = .off then .next s
  else match e with
  | .channelParity ty inst => .next (s.enterFault ty.toNat inst.toNat 0)
  | .ringParity => .next (s.enterFault 0x07 0 0)
  | .hbmReadParity stack pc attempts recovered =>
    if s.stackUp stack ∧ pc < 32 ∧ 1 ≤ attempts ∧ attempts ≤ 3 ∧ (recovered ∨ attempts = 3) then
      let s := s.linkRetry stack pc.toNat 0 attempts recovered
      .next (if recovered then s else { s with hbmReadFails := (32 * stack + pc.toNat) :: s.hbmReadFails })
    else .next s
  | .hbmWriteParity stack pc failures => .next (s.resent stack pc.toNat 1 failures)
  | .hbmCommandParity stack pc failures => .next (s.resent stack pc.toNat 2 failures)
  | .icacheParity core => .next (if s.coreMapped core ∧ !s.coreFailed core then s.odAdd Od.icacheParityCount 1 else s)
  | .registerWord core slot lane n correctable => .next (s.registerError core slot lane n correctable)

end Sys2Proof.Machine
end

