-- ==== Sys2Proof/Machine/Field.lean ====
section
/-!
DEFINITION. The field port's own frames: PRESENCE and the cyclic channels (R53, R59, R60).
-/

namespace Sys2Proof.Machine

/-- The broadcast MAC address. -/
def broadcastMac : BitVec 48 := 0xFFFFFFFFFFFF

/-- The field port speaks: from INIT onward (R47, R53). -/
def State.fieldSpeaks (s : State) : Bool := s.dev.state ≠ .off && s.dev.state ≠ .boot && !s.dev.romFault

/-- PRESENCE: a broadcast frame with DEVICE_STATE and the serial number, every 1 ms. -/
def execPresence (s : State) : Outcome :=
  if s.fieldSpeaks then
    let s := match s.hm.presenceAt with
      | some t => s.advanceTo (t + 1000000)
      | none => s
    let f : OutFrame :=
      { dst := broadcastMac, ftype := 0x0A, seq := 0, index := 0, sub := 0, status := 0, flags := 0, dtype := 0, xfer := 0
        payload := natBytes 1 s.dev.state.code ++ natBytes 8 (s.odGet Od.serialNumber) }
    .next ({ s with hm := { s.hm with presenceAt := some s.clk.now } }.sendFrame f)
  else .next s

/-! ### Cyclic channels -/

/-- Index and subindex of a mapping word. -/
def mapEntry (w : Nat) : Nat × Nat := (w / 2 ^ 16 % 2 ^ 16, w / 2 ^ 8 % 2 ^ 8)

/-- The entries that a channel maps, in map order. -/
def State.cycEntries (s : State) (c : Nat) : List (Nat × Nat) :=
  (List.range (s.odGet (Od.cycMapCount c))).map fun i => mapEntry (s.odGet (Od.cycMap c i))

/-- Bytes of a mapped entry; none where no entry exists. An entry that is only written is sampled at its stored value (log
36). -/
def State.cycBytes (s : State) (e : Nat × Nat) : List Byte :=
  match s.odRow? e.1 e.2 with
  | some r => if r.ty.numeric then natBytes r.ty.size (s.odValue e.1 e.2) else []
  | none => []

/-- V of R59: the sum of the mapped sizes. -/
def State.cycSize (s : State) (c : Nat) : Nat := ((s.cycEntries c).map fun e => (s.cycBytes e).length).sum

/-- Bits that a channel puts on the wire in each period. -/
def State.cycBits (s : State) (c : Nat) : Nat := (max (24 + s.cycSize c) 46 + 38) * 8

/-- The load of a list of channels in bits per millisecond, as a fraction. -/
def State.cycLoad (s : State) : List Nat → Nat × Nat
  | [] => (0, 1)
  | c :: cs =>
    let q := State.cycLoad s cs
    let p := s.odGet (Od.cycPeriod c)
    (q.1 * p + s.cycBits c * q.2, q.2 * p)

/-- The enabled channels. -/
def State.cycOn (s : State) : List Nat := (List.range 8).filter fun c => decide (s.odGet (Od.cycEnable c) = 1)

/-- With channel `c` enabled too, the load stays within 2,500,000 bits per second. -/
def State.cycFits (s : State) (c : Nat) : Bool :=
  let l := s.cycLoad (c :: s.cycOn)
  decide (l.1 ≤ 2500 * l.2)

/-- CYC_ENABLE: a channel is enabled after the wire-load check; its frame count starts again. -/
def execCycEnable (via : OdPath) (channel : Nat) (v : BitVec 8) (s : State) : Outcome :=
    withRoom (.cycEnable via channel v) s <|
  if 8 ≤ channel then .next s
  else .next (s.odRow via (0x1220 + channel) 0x01 v.toNat (withAccess v.toNat fun s =>
    if v = 0 then (Status.ok, s.odSet (Od.cycEnable channel) 0)
    else if s.odGet (Od.cycEnable channel) = 1 then (Status.ok, s)
    else if !s.cycFits channel then (Status.refused, s)
    else (Status.ok, { s.odSet (Od.cycEnable channel) 1 with hm := { s.hm with
      cycCount := SMap.set 0 s.hm.cycCount channel 0, cycAt := SMap.set 0 s.hm.cycAt channel s.clk.now } })))

/-- CYCLIC: a period after the last sample, the channel samples its map and sends a frame. Whether the frame before it
could be sent in time is the segment's affair: a free value, by which the frame is dropped and counted. -/
def execCyclic (channel : Nat) (s : State) : Outcome :=
  if channel < 8 ∧ s.fieldSpeaks ∧ s.odGet (Od.cycEnable channel) = 1 then
    let s := s.advanceTo (SMap.get 0 s.hm.cycAt channel + 1000000 * s.odGet (Od.cycPeriod channel))
    let n := SMap.get 0 s.hm.cycCount channel + 1
    let s := { s with hm := { s.hm with
      cycCount := SMap.set 0 s.hm.cycCount channel n, cycAt := SMap.set 0 s.hm.cycAt channel s.clk.now } }
    let f : OutFrame :=
      { dst := BitVec.ofNat 48 (s.odGet (Od.cycDestMac channel)), ftype := 0x09, seq := 0, index := 0
        sub := BitVec.ofNat 8 channel, status := 0, flags := 0, dtype := 0, xfer := n
        payload := natBytes 8 s.clk.now ++ (s.cycEntries channel).flatMap s.cycBytes }
    let r := s.fresh
    .next (if r.1 % 2 = 1 then r.2.odSet (Od.cycDropped channel) ((s.odGet (Od.cycDropped channel) + 1) % 2 ^ 32)
      else r.2.sendFrame f)
  else .next s

end Sys2Proof.Machine
end

