-- ==== Sys2Proof/Machine/Security.lean ====
section
/-!
DEFINITION. The Pilot and the Breakwater on the running device (R430 to R444): image and configuration updates, debug,
quotes, the alarm and the erase, and the region entries.
-/

namespace Sys2Proof.Machine

/-- A signature failure is counted (R439), and SIG_FAILED logged. -/
def State.sigFailure (s : State) (obj reason what : Nat) : State :=
  { s with sec := { s.sec with sigFails := s.clk.now :: s.sec.sigFails } }.sigFailed sevWarning obj reason what

/-- A DOMAIN write served by a behaviour of its own; the direct window cannot reach one (R49). -/
def State.domainRow (s : State) (via : OdPath) (idx sub : Nat) (h : State → Served) : State :=
  s.odRow via idx sub 0 fun s _ => if s.writesRefused ∨ via = .direct then .now Status.refused s else h s

/-! ### FW_UPDATE (R430) -/

/-- Why an image written to FW_UPDATE is refused, as the reason of SIG_FAILED. -/
def State.updateFails (s : State) (h : BitVec 2048) (body : List Byte) : Option Nat :=
  if imgMagic h ≠ 0x4D494E53 then some 5
  else if imgVersion h < s.odGet Od.fwFloor then some 4
  else imgFails h body

/-- The header with SEQ replaced. -/
def imgWithSeq (h : BitVec 2048) (seq : Nat) : BitVec 2048 :=
  (h &&& ~~~((0xFFFFFFFF : BitVec 2048) <<< 32)) ||| (BitVec.ofNat 2048 (seq % 2 ^ 32) <<< 32)

/-- FW_UPDATE: the image is verified and written into the other slot, which is unqualified until its header stands. -/
def execFwUpdate (via : OdPath) (value : List (BitVec 8)) (s : State) : Outcome := withRoom (.fwUpdate via value) s <|
  .next (s.domainRow via 0x2901 0x01 fun s =>
    let h := BitVec.ofNat 2048 (bytesNat (value.take 256))
    let body := value.drop 256
    let slot := decide (s.odGet Od.imageSlot = 0)
    let r := if value.length < 256 then some 5 else s.updateFails h body
    match r with
    | some r => .now Status.refused (s.sigFailure 3 r (if slot then 1 else 0))
    | none =>
      if s.flashBusy then .now Status.busy s
      else
        let h' := imgWithSeq h (s.odGet Od.imageSeq + 1)
        .later { s with flash := s.flash.eraseArea (slotArea slot), hm := { s.hm with flashJob := some (.image slot h' body via) } })

/-! ### CONFIG_UPDATE (R434, R437) -/

/-- The SEQ that a record of the type must exceed, where one is held. -/
def State.heldSeq (s : State) (r : SRec) : Option Nat :=
  (s.flash.held (if r.rtype = 7 then 1 else r.rtype) s.keys).map SRec.seq

/-- A record written to CONFIG_UPDATE: stored once its flash write ends, or, an authorisation, acted on. -/
def State.configWrite (s : State) (via : OdPath) (value : List Byte) : State :=
  s.domainRow via 0x2901 0x02 fun s =>
    if !s.stopped then .now Status.refused s
    else match recOf value with
      | none => .now Status.refused (s.sigFailure 1 5 0)
      | some r =>
        if r.rtype = 5 ∨ r.rtype = 6 then .now Status.refused s
        else match r.fails s.keys with
          | some k => .now Status.refused (s.sigFailure 1 k r.rtype)
          | none =>
            if (match s.heldSeq r with
                | some q => decide (r.seq ≤ q)
                | none => false) then .now Status.refused (s.sigFailure 1 3 r.rtype)
            else if s.flashBusy then .now Status.busy s
            else if r.rtype = 7 then
              let f := s.fresh
              .later { f.2 with hm := { f.2.hm with
                flashJob := some (.enrol (BitVec.ofNat 256 f.1) (BitVec.ofNat 64 r.seq) via) } }
            else
              .later { s with hm := { s.hm with
                flashJob := some (.record (BitVec.ofNat 8 r.rtype) (BitVec.ofNat 64 r.seq) value via) } }

/-- CONFIG_UPDATE. -/
def execConfigUpdate (via : OdPath) (value : List (BitVec 8)) (s : State) : Outcome :=
  withRoom (.configUpdate via value) s (.next (s.configWrite via value))

/-- ENROLMENT_AUTHORISATION: a record of type 0x07 written to CONFIG_UPDATE. -/
def execEnrolmentAuthorisation (via : OdPath) (value : List (BitVec 8)) (s : State) : Outcome :=
    withRoom (.enrolmentAuthorisation via value) s <|
  match recOf value with
  | some r => if r.rtype = 7 then .next (s.configWrite via value) else .next s
  | none => .next s

/-! ### Debug and quotes (R436, R438) -/

/-- The level of a debug token for this start's challenge. -/
def State.tokenLevel (s : State) (r : SRec) : Option Nat :=
  let v := bytesNat (r.body.drop 32 |>.take 1)
  if r.rtype = 5 ∧ BitVec.ofNat 256 (bytesNat (r.body.take 32)) = sm3 (natBytes 32 s.sec.challenge.toNat) ∧
      (v = 1 ∨ v = 2) ∧ bytesNat (r.body.drop 33) = 0 then some v else none

/-- DEBUG_UNLOCK: a token that verifies sets DEBUG_LEVEL; level 2 zeroes the identity key register first. -/
def execDebugUnlock (via : OdPath) (value : List (BitVec 8)) (s : State) : Outcome :=
    withRoom (.debugUnlock via value) s <|
  .next (s.domainRow via 0x2902 0x02 fun s =>
    match recOf value with
    | none => .now Status.refused (s.sigFailure 2 5 0)
    | some r =>
      match r.fails s.keys with
      | some k => .now Status.refused (s.sigFailure 2 k r.rtype)
      | none => match s.tokenLevel r with
        | none => .now Status.refused (s.sigFailure 2 5 r.rtype)
        | some l =>
          let s := if l = 2 then { s with sec := { s.sec with identityKey := none } } else s
          .now Status.ok ((s.odSet Od.debugLevel l).event 0x10 0 0x0A05 sevWarning [(16, 1, l), (17, 1, r.signer)]))

/-- DEBUG_RELOCK. -/
def execDebugRelock (via : OdPath) (s : State) : Outcome := withRoom (.debugRelock via) s <|
  .next (s.odRow via 0x2902 0x04 1 (withAccess 1 fun s => (Status.ok, s.odSet Od.debugLevel 0)))

/-- The body of an identity quote (R432). -/
def State.quoteBody (s : State) (nonce : List Byte) : List Byte :=
  nonce ++ natBytes 4 (s.odGet Od.firmwareVersion) ++ natBytes 4 (s.odGet Od.imageSeq) ++
    natBytes 8 (s.odGet Od.configSeq) ++ natBytes 32 (sm3 (natBytes 256 s.sec.imageHeader.toNat)).toNat

/-- QUOTE_NONCE: a new quote for the nonce. -/
def execQuoteNonce (via : OdPath) (value : List (BitVec 8)) (s : State) : Outcome :=
    withRoom (.quoteNonce via value) s <|
  .next (s.domainRow via 0x2903 0x01 fun s =>
    if value.length ≠ 32 ∨ !s.canSign then .now Status.refused s
    else .now Status.ok { s with sec := { s.sec with quote := s.signedRecord 6 0 (s.quoteBody value) } })

/-! ### The alarm (R439 to R441) -/

/-- SIG_FAIL_LIMIT signature failures lie within the last 60 s. -/
def State.sigFailDue (s : State) : Bool :=
  decide (s.odGet Od.sigFailLimit ≤ (s.sec.sigFails.filter fun t => decide (s.clk.now < t + 60000000000)).length)

/-- The region entries without keys, none valid (R441, R444). -/
def eraseRegions (m : SMap (BitVec 128)) : SMap (BitVec 128) :=
  m.foldl (fun r e => SMap.set 0 r e.1 ((e.2.setWidth 96).setWidth 128 &&& ~~~1)) []

/-- The path of a flash write, where a request waits for it. -/
def FlashJob.path : FlashJob → Option (OdPath × Nat × Nat)
  | .save _ via => some (via, 0x1010, 0x01)
  | .erase via => some (via, 0x1010, 0x02)
  | .image _ _ _ via => some (via, 0x2901, 0x01)
  | .record _ _ _ via => some (via, 0x2901, 0x02)
  | .enrol _ _ via => some (via, 0x2901, 0x02)
  | .repair _ => none

/-- A flash write in progress is abandoned; its request is refused with DENIED (R441, R443). -/
def State.abandonFlash (s : State) : State :=
  match s.hm.flashJob with
  | none => s
  | some j =>
    let s := { s with hm := { s.hm with flashJob := none, repairDue := false } }
    match j.path with
    | some p => s.answerWrite p.1 p.2.1 p.2.2 Status.denied
    | none => s

/-- The first part of an erase: keys are zeroed, debug is locked, and the marker is due. -/
def State.eraseKeys (s : State) (cls : Nat) : State :=
  let s := { s with
    sec := { s.sec with identityKey := none, pufBuffer := 0, smRegs := 0, erase := .marker }
    fab := { s.fab with regions := eraseRegions s.fab.regions } }
  ((s.odSet Od.debugLevel 0).abandonFlash).event 0x11 0 0x0A07 sevFatal [(16, 1, cls)]

/-- The classes that fire, in ascending order: class 4 where its failures have come (R439). -/
def State.firedClasses (s : State) (classes : BitVec 5) : List Nat :=
  (List.range 5).filter fun c => classes.getLsbD c && (decide (c ≠ 4) || s.sigFailDue)

/-- ALARM: each class that fires is counted and logged with its own rail or sensor, byte `c` of the operand for class `c`, and
the strongest of their responses is taken. -/
def execAlarm (classes : BitVec 5) (sensors : BitVec 40) (s : State) : Outcome := withRoom (.alarm classes sensors) s <|
  let l := s.firedClasses classes
  if s.dev.state = .off ∨ l = [] then .next s
  else
    let resp := l.foldl (fun m c => max m (s.odGet (Od.alarmPolicy c))) 0
    let s := l.foldl (fun s c =>
      let s := s.odAdd (Od.alarmCount c) 1
      s.event 0x11 0 0x0A06 (if resp = 0 then sevWarning else sevFatal)
        [(16, 1, c), (17, 1, resp), (18, 1, (sensors.extractLsb' (8 * c) 8).toNat), (20, 4, s.odGet (Od.alarmCount c))]) s
    let s := if l.contains 4 then { s with sec := { s.sec with sigFails := [] } } else s
    let s := if resp = 0 then s else s.enterAlarmed 0x11 0 0x0A06
    .next (if resp = 2 then
        s.eraseKeys ((l.find? fun c => decide (s.odGet (Od.alarmPolicy c) = 2)).getD 0)
      else s)

/-- ERASE_MARKER_PROGRAMMED: the helper copies are due. A device that a rail monitor has stopped enters OFF (R442). -/
def execEraseMarkerProgrammed (s : State) : Outcome :=
  if s.sec.erase = .marker then
    let s := { s with flash := s.flash.setMarker, sec := { s.sec with erase := .helper } }
    .next (if s.dev.offHold = OffHold.none then s else s.enterOff s.dev.offHold)
  else .next s

/-- HELPER_OVERWRITE: both helper copies hold zeros, and the flash is free for a repair map that waits. -/
def execHelperOverwrite (s : State) : Outcome :=
  if s.sec.erase = .helper then
    .next { s with flash := s.flash.zeroHelpers, sec := { s.sec with erase := .none } }.nextRepair
  else .next s

/-! ### REGION_WRITE (R444) -/

/-- Bits of a region entry that are reserved. -/
def regReserved : BitVec 128 := 0xFFFFFE00

/-- The ranges of two entries overlap. -/
def regOverlap (a b : BitVec 128) : Bool := decide (regBase a < regEnd b) && decide (regBase b < regEnd a)

/-- A region entry that may not be written in place of entry `n`. -/
def State.regRefused (s : State) (n : Nat) (e : BitVec 128) : Bool :=
  (regValid e && (s.fab.regions.any fun q => decide (q.1 ≠ n) && regValid q.2 && regOverlap e q.2)) ||
  decide (regEnd e < regBase e + 4096) || decide (regLevel e = 3) || (regCoherent e && decide (hbmEnd < regEnd e))

/-- REGION_WRITE: one entry is replaced whole. -/
def execRegionWrite (via : OdPath) (value : List (BitVec 8)) (s : State) : Outcome :=
    withRoom (.regionWrite via value) s <|
  .next (s.odRow via 0x6020 0x01 0 fun s _ =>
    if via = .direct ∨ value.length ≠ 20 then .now Status.refused s
    else
      let n := bytesNat (value.take 2)
      let flags := (value.getD 2 0).toNat
      let old := SMap.get 0 s.fab.regions n
      let raw := BitVec.ofNat 128 (bytesNat (value.drop 4)) &&& ~~~regReserved
      let e := if flags % 2 = 1 then (regKey old) ++ (raw.setWidth 96) else raw
      let guarded := (regValid old && decide (regLevel old = 0)) || (regValid e && decide (regLevel e = 0))
      if guarded ∧ 0 < pathLevel via then .now Status.denied s
      else if 4096 ≤ n then .now Status.notFound s
      else if s.writesRefused ∨ flags / 2 ≠ 0 ∨ (value.getD 3 0) ≠ 0 ∨ s.regRefused n e then .now Status.refused s
      else .now Status.ok { s with fab := { s.fab with regions := SMap.set 0 s.fab.regions n e } })

end Sys2Proof.Machine
end

