-- ==== Sys2Proof/Machine/Flash.lean ====
section
/-!
DEFINITION. Flash writes (R41, R430, R434, R437): the saved parameters, and the end of every flash write.
-/

namespace Sys2Proof.Machine

/-- The current value of every saved entry. -/
def State.savedNow (s : State) : SMap Nat := odSavedKeys.map fun k => (k, s.odGet k)

/-- A write of 0x01 to an entry that starts a flash write: BUSY while one is in progress. -/
def State.flashRow (s : State) (via : OdPath) (sub : Nat) (j : State → FlashJob) : State :=
  s.odRow via 0x1010 sub 1 fun s _ =>
    if s.writesRefused then .now Status.refused s
    else if s.flashBusy then .now Status.busy s
    else .later { s with hm := { s.hm with flashJob := some (j s) } }

/-- SAVE_PARAMETERS: every saved entry is committed as one unit. -/
def execSaveParameters (via : OdPath) (s : State) : Outcome := withRoom (.saveParameters via) s <|
  .next (s.flashRow via 0x01 fun s => .save s.savedNow via)

/-- RESTORE_DEFAULTS: the saved set is erased. -/
def execRestoreDefaults (via : OdPath) (s : State) : Outcome :=
  withRoom (.restoreDefaults via) s (.next (s.flashRow via 0x02 fun _ => .erase via))

/-- The older copy of the configuration area is written whole: the records of the newer copy, with a new record in place
of its predecessor (R434). -/
def Flash.store (f : Flash) (raw : List Byte) : Flash :=
  let t := (recOf raw).map SRec.rtype
  let new := ((f.area f.newest).filter fun r => decide (some r.rtype ≠ t)).map SRec.raw ++ [raw]
  f.rewrite (configArea !f.newest) new.flatten

/-- CONFIG_ACCEPTED is logged. -/
def State.configAccepted (s : State) (rtype : Nat) (seq : BitVec 64) : State :=
  s.event 0x10 0 0x0A03 sevInfo [(16, 1, rtype), (24, 8, seq.toNat)]

/-- A stored record takes effect: a configuration at once, an owner certificate's key too, a repair map from the next
start (R434, R391). -/
def State.recordStored (s : State) (t : Nat) : State :=
  if t = 3 then s.applyConfig
  else if t = 2 then { s with sec := { s.sec with ownerKey := s.flash.owner } }.applyConfig
  else if t = 4 then { s with hm := { s.hm with repairMap := s.repairRecord } }
  else s

/-- What a flash write leaves when it ends. -/
def State.flashEffect (s : State) : FlashJob → State
  | .save m _ =>
    { s with flash := s.flash.save m }.event 0x0F 0 0x0004 sevInfo [(16, 4, m.length)]
  | .erase _ => { s with flash := s.flash.unsave }
  | .image slot h body _ =>
    { s with flash := s.flash.writeImage slot h body }
  | .record t seq raw _ =>
    ({ s with flash := s.flash.store raw }.recordStored t.toNat).configAccepted t.toNat seq
  | .enrol secret seq _ =>
    let s := { s with
      flash := (s.flash.enrol secret).clearMarker
      sec := { s.sec with identityPub := sm2Public (Config.identityKey secret) } }
    s.configAccepted 7 seq
  | .repair raw => { s with flash := s.flash.store raw }

/-- The write is the commit of a CONFIG_UPDATE. -/
def FlashJob.config : FlashJob → Bool
  | .record _ _ _ _ | .enrol _ _ _ => true
  | .save _ _ | .erase _ | .image _ _ _ _ | .repair _ => false

/-- FLASH_WRITE_DONE: the write ends, FLASH_BUSY clears, and its request completes; the commit of a CONFIG_UPDATE in ALARMED
is refused with DENIED and leaves the flash as it was (R443). A repair map that waits is next. -/
def execFlashWriteDone (s : State) : Outcome := withRoom .flashWriteDone s <|
  match s.hm.flashJob with
  | none => .next s
  | some j =>
    let s := { s with hm := { s.hm with flashJob := none } }
    let denied := j.config && decide (s.dev.state = .alarmed)
    let s := if denied then s else s.flashEffect j
    let s : State := match j.path with
      | some p => s.answerWrite p.1 p.2.1 p.2.2 (if denied then Status.denied else Status.ok)
      | none => s
    .next s.nextRepair

end Sys2Proof.Machine
end

