-- ==== Sys2Proof/Machine/SelfTest.lean ====
section
/-!
DEFINITION. Self-test and calibration (R398, R399).
-/

namespace Sys2Proof.Machine

/-- An action of R399 with a target that it may have. -/
def selftestValid (action target : BitVec 8) : Bool :=
  match action.toNat with
  | 0x01 | 0x12 => decide (target.toNat < 4)
  | 0x10 => decide (target.toNat < 8)
  | 0x02 | 0x11 | 0x13 => decide (target = 0)
  | _ => false

/-- A disruptive action. -/
def disruptive (action : BitVec 8) : Bool := decide (0x10 ≤ action.toNat)

/-- An action begins to run. -/
def State.runSelftest (s : State) (action target : BitVec 8) : State :=
  let s := { s with selftest := some ⟨action, target, true, s.clk.now⟩ }
  let p := target.toNat
  if action = 0x01 then s.setPort p { s.port p with recalDone := 0, recalLane := none }
  else if action = 0x11 then s.wildHbm
  else if action = 0x12 then
    (if (s.port p).state = .disabled then s else s.portLeave p 3 .down)
  else s

/-- A request for an action (R398). -/
def State.requestSelftest (s : State) (action target : BitVec 8) : Status × State :=
  if !selftestValid action target ∨
      (action = 0x01 ∧ (s.port target.toNat).state ≠ .up ∧ (s.port target.toNat).state ≠ .degraded) then
    (Status.refused, s)
  else if s.selftest.isSome ∨ (disruptive action ∧ s.openSlots ≠ [] ∧ s.odGet Od.selftestPolicy = 0) then
    (Status.busy, s)
  else if disruptive action ∧ s.dev.state ≠ .ready then
    (Status.ok, { s with selftest := some ⟨action, target, false, s.clk.now⟩ })
  else (Status.ok, s.runSelftest action target)

/-- A write of SELFTEST_REQUEST. -/
def State.selftestWrite (s : State) (via : OdPath) (action target : BitVec 8) : State :=
  let v := action.toNat + 256 * target.toNat
  s.odRow via 0x5000 0x03 v (withAccess v fun s => s.requestSelftest action target)

def execLaneRecalibration (via : OdPath) (target : BitVec 8) (s : State) : Outcome :=
  withRoom (.laneRecalibration via target) s (.next (s.selftestWrite via 0x01 target))
def execSensorTrim (via : OdPath) (target : BitVec 8) (s : State) : Outcome :=
  withRoom (.sensorTrim via target) s (.next (s.selftestWrite via 0x02 target))
def execCoreSelfTest (via : OdPath) (target : BitVec 8) (s : State) : Outcome :=
  withRoom (.coreSelfTest via target) s (.next (s.selftestWrite via 0x10 target))
def execHbmPatternTest (via : OdPath) (target : BitVec 8) (s : State) : Outcome :=
  withRoom (.hbmPatternTest via target) s (.next (s.selftestWrite via 0x11 target))
def execPortLoopback (via : OdPath) (target : BitVec 8) (s : State) : Outcome :=
  withRoom (.portLoopback via target) s (.next (s.selftestWrite via 0x12 target))
def execTimebaseDelayRemeasure (via : OdPath) (target : BitVec 8) (s : State) : Outcome :=
    withRoom (.timebaseDelayRemeasure via target) s <|
  .next (s.selftestWrite via 0x13 target)

/-- SELFTEST_START: a waiting action starts when the device is READY. -/
def execSelftestStart (s : State) : Outcome := withRoom .selftestStart s <|
  match s.selftest with
  | some t => if !t.running ∧ s.dev.state = .ready then .next (s.runSelftest t.action t.target) else .next s
  | none => .next s

/-- What an action leaves behind (R399). -/
def State.selftestEffect (s : State) (t : SelfTest) (st : Status) (detail : Nat) : State :=
  let p := t.target.toNat
  if t.action = 0x01 then
    (s.event 0x09 p 0x0307 sevInfo [(16, 4, (s.port p).recalDone), (20, 1, bitCount detail 32)]).setPort p
      { s.port p with recalLane := none }
  else if t.action = 0x10 then (maskSlots detail).foldl (fun s k => s.retireSlot p k 2) s
  else if t.action = 0x11 then (if st = Status.aborted then s.wildHbm else s.zeroHbm)
  else s

/-- The JOB_OPENs that waited for the action complete. -/
def State.openWaiting (s : State) : State :=
  let l := s.hm.jobOpenWait
  l.foldl (fun s q =>
    let r := s.openJob q.2
    r.2.answerWrite q.1 0x6001 0x01 r.1) { s with hm := { s.hm with jobOpenWait := [] } }

/-- An action ends: its result is set and SELFTEST_DONE is logged. -/
def State.endSelftest (s : State) (t : SelfTest) (st : Status) (d : Nat) : State :=
  let detail := if t.action = 0x02 ∨ t.action = 0x13 then 0 else d
  let s := if t.running then s.selftestEffect t st detail else s
  let s := { s with selftest := none }
  let s := ((s.odSet Od.selftestResult st.toNat).odSet Od.selftestDetail detail).odSet Od.selftestTime s.clk.now
  let s := s.event 0x0F 0 0x0805 (if st = Status.ok then sevInfo else sevWarning)
    [(16, 1, t.action.toNat), (17, 1, t.target.toNat), (18, 1, st.toNat), (20, 4, detail), (24, 8, s.clk.now - t.since)]
  s.openWaiting

/-- SELFTEST_DONE: with ABORTED exactly where a JOB_OPEN stopped the action. -/
def execSelftestDone (status : BitVec 8) (detail : BitVec 32) (s : State) : Outcome :=
    withRoom (.selftestDone status detail) s <|
  match s.selftest with
  | some t =>
    if t.running ∧ status ≤ 0x0E ∧ (status = Status.aborted ↔ s.hm.jobOpenWait ≠ []) then
      .next (s.endSelftest t status detail.toNat)
    else .next s
  | none => .next s

/-- SELFTEST_WAIT_TIMEOUT: a waiting action ends with TIMEOUT. -/
def execSelftestWaitTimeout (s : State) : Outcome := withRoom .selftestWaitTimeout s <|
  match s.selftest with
  | some t =>
    if t.running then .next s
    else .next ((s.advanceTo (t.since + 1000000 * s.odGet Od.selftestWaitMs)).endSelftest t Status.timeout 0)
  | none => .next s

end Sys2Proof.Machine
end

