-- ==== Sys2Proof/Machine/OdPaths.lean ====
section
/-!
DEFINITION. Writes to the object dictionary by their index and subindex (R36 to R39, R49), and mailbox requests (R50, R51,
R57). A write to an entry with a behaviour of its own is that entry's command on the same path.
-/

namespace Sys2Proof.Machine

/-- The state of an outcome that is a next state. -/
def Outcome.state (o : Outcome) (s : State) : State :=
  match o with
  | .next t => t
  | _ => s

/-! ### Entries without a behaviour of their own -/

/-- The entry of a job slot is written while no job holds the slot (R101, R128, R363). -/
def State.emptySlotEntry (s : State) (idx sub : Nat) : Bool :=
  if 0x2500 ≤ idx ∧ idx ≤ 0x2503 then decide (s.slotJob (sub - 1) = 0)
  else if 0x2520 ≤ idx ∧ idx ≤ 0x252F then decide (s.slotJob (idx - 0x2520) = 0)
  else if 0x2820 ≤ idx ∧ idx ≤ 0x282F then decide (s.slotJob (idx - 0x2820) = 0)
  else false

/-- A mapping word names a STR or DOMAIN entry (R59). -/
def mapsLong (w : Nat) : Bool :=
  match odRow? (mapEntry w).1 (mapEntry w).2 with
  | some r => !r.ty.numeric
  | none => false

/-- A write to a cyclic channel: not while it is enabled (R59). -/
def State.cycRefused (s : State) (c sub v : Nat) : Bool :=
  decide (s.odGet (Od.cycEnable c) = 1) || (decide (0x10 ≤ sub) && mapsLong v)

/-- The value that a write is to give the entry at `k`, in place of its present value. -/
def State.odWith (s : State) (k v k' : Nat) : Nat := if k' = k then v else s.odGet k'

/-- A write to the mesh plan: the extent exceeds the device's own coordinates (R280). -/
def State.planWriteRefused (s : State) (sub v : Nat) : Bool :=
  (decide (sub = 0x04) && decide (v ≤ s.odGet Od.meshSelfX)) || (decide (sub = 0x05) && decide (v ≤ s.odGet Od.meshSelfY))

/-- A write to a rectangle entry: not while its job is open, nor to name a job that another entry names (R255, R280). -/
def State.rectRefused (s : State) (i sub v : Nat) : Bool :=
  s.jobOpen (BitVec.ofNat 16 (s.odGet (Od.rectJob i))) ||
  (decide (sub = 0x01) && decide (v ≠ 0) &&
    (List.range 16).any fun j => decide (j ≠ i) && decide (s.odGet (Od.rectJob j) = v))

/-- A command that names the group runs. -/
def State.groupRuns (s : State) (g : Nat) : Bool :=
  (s.disp.buckets.any fun b => decide (b.group = g)) || (s.barriers.any fun b => decide (b.2.group = g)) ||
  s.disp.permutes.any fun p => decide (p.group = g)

/-- A write to a group entry: not while it runs, and no member lies above 63 (R281, R313). -/
def State.grpRefused (s : State) (g sub v : Nat) : Bool :=
  let w := s.odWith (Od.key (0x2610 + g) sub) v
  s.groupRuns g ||
  decide (63 < w (Od.grpX0 g) + (w (Od.grpNx g) - 1) * w (Od.grpSx g)) ||
  decide (63 < w (Od.grpY0 g) + (w (Od.grpNy g) - 1) * w (Od.grpSy g))

/-- A write to a pool entry: not while the directory holds entries, and the range lies in the HBM of the job's side
(R374). -/
def State.poolRefused (s : State) (i sub v : Nat) : Bool :=
  let w := s.odWith (Od.key (0x2660 + i) sub) v
  let side := if s.slotJob i = 0 then Side.both else s.jobSide (BitVec.ofNat 16 (s.slotJob i))
  decide ((s.pool i).entries ≠ []) ||
  (decide (w (Od.poolBytes i) ≠ 0) && !s.inHbm side (w (Od.poolBase i)) (w (Od.poolBytes i)))

/-- A write of LOSS_ADDR: 4-byte aligned, in the HBM of the job's side (R346). -/
def State.lossAddrRefused (s : State) (i v : Nat) : Bool :=
  decide (v % 4 ≠ 0) || !s.inHbm (s.jobSide (BitVec.ofNat 16 (s.slotJob i))) v 4

/-- A ring's base or control block: aligned, and in HBM (R68, R76). -/
def ringAddrOk (align v : Nat) : Bool := decide (v % align = 0) && decide (v < hbmEnd)

/-- A write to a command ring's entries, or to a completion ring's: not while it is enabled (R76). -/
def State.ringRefused (s : State) (r sub v : Nat) : Bool :=
  decide (s.odGet (Od.ringEnable r) = 1) || (decide (sub = 0x02) && !ringAddrOk 4096 v) ||
  (decide (sub = 0x04) && !ringAddrOk 256 v)
def State.cqRefused (s : State) (q sub v : Nat) : Bool :=
  decide (s.odGet (Od.cqEnable q) = 1) || (decide (sub = 0x02) && !ringAddrOk 4096 v) ||
  (decide (sub = 0x04) && !ringAddrOk 256 v)

/-- What the chapters refuse beyond an entry's type, access right and listed values. -/
def State.plainRefused (s : State) (idx sub v : Nat) : Bool :=
  s.emptySlotEntry idx sub ||
  if 0x1220 ≤ idx ∧ idx ≤ 0x1227 then s.cycRefused (idx - 0x1220) sub v
  else if idx = 0x2310 then s.planWriteRefused sub v
  else if 0x2340 ≤ idx ∧ idx ≤ 0x234F then s.rectRefused (idx - 0x2340) sub v
  else if 0x2610 ≤ idx ∧ idx ≤ 0x261F then s.grpRefused (idx - 0x2610) sub v
  else if 0x2640 ≤ idx ∧ idx ≤ 0x264F then (s.channel (idx - 0x2640)).active.isSome
  else if 0x2660 ≤ idx ∧ idx ≤ 0x266F then s.poolRefused (idx - 0x2660) sub v
  else if idx = 0x2780 then decide (s.odGet Od.ruleSwitchArmed = 1)
  else if 0x2820 ≤ idx ∧ idx ≤ 0x282F ∧ sub = 0x0B then s.lossAddrRefused (idx - 0x2820) v
  else if idx = 0x3000 then
    decide (s.odGet Od.tallyEnable = 1) || (decide (sub = 0x03) && !ringAddrOk 4096 v) ||
      (decide (sub = 0x05) && !ringAddrOk 256 v)
  else if 0x3010 ≤ idx ∧ idx ≤ 0x3017 then decide (sub = 0x02) && decide (v < s.odGet (Od.winBase (idx - 0x3010)))
  else if idx = 0x4000 ∧ sub = 0x01 then s.logOn || !ringAddrOk 4096 v
  else if idx = 0x4000 ∧ sub = 0x03 then s.logOn || !ringAddrOk 256 v
  else if 0x6100 ≤ idx ∧ idx ≤ 0x613F then s.ringRefused (idx - 0x6100) sub v
  else if 0x6200 ≤ idx ∧ idx ≤ 0x623F then s.cqRefused (idx - 0x6200) sub v
  else false

/-- The value stored: reserved bits read as zero (R8). -/
def plainStored (r : OdRow) (idx sub v : Nat) : Nat :=
  if 0x1220 ≤ idx ∧ idx ≤ 0x1227 ∧ 0x10 ≤ sub then v / 256 * 256 else r.check.stored v

/-- The value that a write leaves: the steps and flags of the slot's commit points at the write's own timestamp come after
it (R102, R343). -/
def State.plainLeft (s : State) (idx sub v : Nat) : Nat :=
  if 0x2520 ≤ idx ∧ idx ≤ 0x252F ∧ sub = 0x03 then (v + (s.tieAdds (idx - 0x2520)).1) % 2 ^ 64
  else if 0x2820 ≤ idx ∧ idx ≤ 0x282F ∧ sub = 0x03 then v ||| (s.tieAdds (idx - 0x2820)).2.toNat
  else v

/-- A write to a pending rule slot that is served at the T of an epoch's copy applies before the copy (R317). -/
def State.tieRule (s : State) (idx sub : Nat) : State :=
  if 0x2700 ≤ idx ∧ idx ≤ 0x273F ∧ 1 ≤ sub ∧ sub ≤ 24 ∧ s.disp.ruleTie = some s.clk.now then
    s.odSet (Od.key (idx + 0x40) sub) (s.odGet (Od.key idx sub))
  else s

/-- A write to an entry without a behaviour of its own. A write to the plan runs the tests of R254 again. -/
def State.writePlain (s : State) (via : OdPath) (idx sub v : Nat) : State :=
  s.odRow via idx sub v fun s r => withAccess v (fun s =>
    if s.plainRefused idx sub v then (Status.refused, s)
    else
      let s := (s.odSet (Od.key idx sub) (s.plainLeft idx sub (plainStored r idx sub v))).tieRule idx sub
      (Status.ok, if idx = 0x2310 ∨ idx = 0x2350 then s.planWritten else s)) s r

/-! ### Entries with a behaviour of their own -/

/-- A write that is refused once it has passed the checks of privilege and existence. -/
def State.writeRefused (s : State) (via : OdPath) (idx sub v : Nat) : State :=
  s.odRow via idx sub v fun s _ => .now Status.refused s

/-- Entries that act on one value alone: any other is refused. -/
def State.onlyOne (s : State) (via : OdPath) (idx sub v : Nat) (o : Outcome) : State :=
  if v = 1 then o.state s else s.writeRefused via idx sub v

/-- DEVICE_COMMAND by its value (R76). -/
def State.writeCommand (s : State) (via : OdPath) (v : Nat) : State :=
  if v = 1 then (execDrain via s).state s
  else if v = 2 then (execReinit via s).state s
  else if v = 3 then (execReset via s).state s
  else s.writeRefused via 0x1002 0x01 v

/-- LEDGER_ATTACH by its value (R356). -/
def State.writeAttach (s : State) (via : OdPath) (i v : Nat) : State :=
  if v = 0 then (execLedgerDetach via i s).state s
  else if v = 1 then (execLedgerCold via i s).state s
  else if v = 2 then (execLedgerRestored via i s).state s
  else s.writeRefused via (0x2820 + i) 0x08 v

/-- The numeric entries of single indices that have a behaviour of their own. -/
def State.writeSingle (s : State) (via : OdPath) (idx sub v : Nat) : State :=
  match idx, sub with
  | 0x1002, 0x01 => s.writeCommand via v
  | 0x1010, 0x01 => s.onlyOne via idx sub v (execSaveParameters via s)
  | 0x1010, 0x02 => s.onlyOne via idx sub v (execRestoreDefaults via s)
  | 0x2000, 0x01 => (execPowerCap via (BitVec.ofNat 16 v) s).state s
  | 0x2180, 0x04 => (execEvalCommit via (BitVec.ofNat 8 v) s).state s
  | 0x2310, 0x01 => (execMeshPlanId via (BitVec.ofNat 32 v) s).state s
  | 0x2360, 0x06 => (execFenceClear via (BitVec.ofNat 8 v) s).state s
  | 0x2602, 0x01 => (execEpochAdopt via (BitVec.ofNat 64 v) s).state s
  | 0x2780, 0x02 => (execRuleSwitchEpoch via (BitVec.ofNat 32 v) s).state s
  | 0x2780, 0x04 => (execRuleCommitNow via (BitVec.ofNat 8 v) s).state s
  | 0x2902, 0x04 => s.onlyOne via idx sub v (execDebugRelock via s)
  | 0x3000, 0x01 => (execTallyEnable via (BitVec.ofNat 8 v) s).state s
  | 0x3001, 0x01 => (execCountFreeze via (BitVec.ofNat 8 v) s).state s
  | 0x3001, 0x02 => s.onlyOne via idx sub v (execCountClear via s)
  | 0x4000, 0x02 => (execLogRingEntries via (BitVec.ofNat 32 v) s).state s
  | 0x5000, 0x03 => s.selftestWrite via (BitVec.ofNat 8 v) (BitVec.ofNat 8 (v / 256))
  | 0x6001, 0x01 => (execJobOpen via (BitVec.ofNat 16 v) s).state s
  | 0x6001, 0x02 => (execJobClose via (BitVec.ofNat 16 v) s).state s
  | 0x6010, 0x01 => (execAbortTarget via (BitVec.ofNat 64 v) s).state s
  | _, _ => s.writePlain via idx sub v

/-- A write of a numeric entry. -/
def State.writeNumeric (s : State) (via : OdPath) (idx sub v : Nat) : State :=
  if 0x1220 ≤ idx ∧ idx ≤ 0x1227 ∧ sub = 0x01 then (execCycEnable via (idx - 0x1220) (BitVec.ofNat 8 v) s).state s
  else if 0x2120 ≤ idx ∧ idx ≤ 0x2127 ∧ sub = 0x03 then (execCoreRetire via (idx - 0x2120) (BitVec.ofNat 8 v) s).state s
  else if 0x2300 ≤ idx ∧ idx ≤ 0x2303 ∧ sub = 0x04 then (execPortEnable via (idx - 0x2300) (BitVec.ofNat 8 v) s).state s
  else if 0x2640 ≤ idx ∧ idx ≤ 0x264F ∧ sub = 0x01 then (execHoJob via (idx - 0x2640) (BitVec.ofNat 16 v) s).state s
  else if 0x2820 ≤ idx ∧ idx ≤ 0x282F ∧ sub = 0x01 then (execNfStepFlag via (idx - 0x2820) (BitVec.ofNat 8 v) s).state s
  else if 0x2820 ≤ idx ∧ idx ≤ 0x282F ∧ sub = 0x08 then s.writeAttach via (idx - 0x2820) v
  else if 0x2820 ≤ idx ∧ idx ≤ 0x282F ∧ sub = 0x0C then (execLossValue via (idx - 0x2820) (BitVec.ofNat 32 v) s).state s
  else if (setType? idx).isSome ∧ 0x0A ≤ sub ∧ sub ≤ 0x11 then
    (execPsel via (BitVec.ofNat 16 idx) (sub - 0x0A) (BitVec.ofNat 64 v) s).state s
  else if (setType? idx).isSome ∧ sub = 0x12 then (execPctl via (BitVec.ofNat 16 idx) (BitVec.ofNat 32 v) s).state s
  else if 0x6100 ≤ idx ∧ idx ≤ 0x613F ∧ sub = 0x01 then (execRingEnable via (idx - 0x6100) (BitVec.ofNat 8 v) s).state s
  else if 0x6200 ≤ idx ∧ idx ≤ 0x623F ∧ sub = 0x01 then (execCqEnable via (idx - 0x6200) (BitVec.ofNat 8 v) s).state s
  else s.writeSingle via idx sub v

/-- A write of a STR or DOMAIN entry. -/
def State.writeBytesEntry (s : State) (via : OdPath) (idx sub : Nat) (bs : List Byte) : State :=
  match idx, sub with
  | 0x2901, 0x01 => (execFwUpdate via bs s).state s
  | 0x2901, 0x02 => (execConfigUpdate via bs s).state s
  | 0x2902, 0x02 => (execDebugUnlock via bs s).state s
  | 0x2903, 0x01 => (execQuoteNonce via bs s).state s
  | 0x6020, 0x01 => (execRegionWrite via bs s).state s
  | _, _ => s.writeRefused via idx sub 0

/-- A write to the dictionary on a path. A direct access is 8 bytes wide, whose upper bytes a narrower type ignores; the
other paths carry the value in its size (R49, R51). -/
def State.odWriteVia (s : State) (via : OdPath) (idx sub : Nat) (bs : List Byte) : State :=
  if !s.pathOpen via then s.unheard via
  else if via = .direct ∧ (0x3F < sub ∨ idx < 0x1000 ∨ 0x6FFF < idx) then s
  else if via = .direct ∧ bs.length ≠ 8 then s.answerWrite via idx sub Status.refused
  else match Sys2Proof.Machine.odRow? idx sub with
    | none => s.writeRefused via idx sub (bytesNat bs)
    | some r =>
      let n := r.ty.size
      let v := bytesNat (bs.take n)
      if r.ty.numeric then
        if via ≠ .direct ∧ bs.length ≠ n then s.writeRefused via idx sub v else s.writeNumeric via idx sub v
      else s.writeBytesEntry via idx sub bs

/-- OD_WRITE. -/
def execOdWrite (via : OdPath) (index : BitVec 16) (sub : BitVec 8) (value : List (BitVec 8)) (s : State) : Outcome :=
    withRoom (.odWrite via index sub value) s <|
  .next (s.odWriteVia via index.toNat sub.toNat value)

/-! ### MAILBOX_REQUEST -/

/-- A request of the path takes one of the 32 places: one of a mailbox or of Theost (R56, R57). -/
def pathPlaced : OdPath → Bool
  | .mailbox _ | .theost _ _ => true
  | .direct | .core _ _ => false

/-- Requests of mailboxes and of Theost that wait or are being served (R56). -/
def State.waitingPaths (s : State) : List OdPath :=
  ((match s.hm.flashJob.bind FlashJob.path with
    | some p => [p.1]
    | none => []) ++ s.hm.jobOpenWait.map (·.1)).filter pathPlaced

/-- The 32 places of R56 are taken. -/
def State.placesFull (s : State) : Bool := decide (32 ≤ s.waitingPaths.length)

def State.mailbox (s : State) (m : Nat) : Mailbox := SMap.get Mailbox.initial s.hm.mailboxes m
def State.setMailbox (s : State) (m : Nat) (b : Mailbox) : State :=
  { s with hm := { s.hm with mailboxes := SMap.set Mailbox.initial s.hm.mailboxes m b } }

/-- The buffer of a DOMAIN request that a check refuses (R51): unmapped, or misaligned or outside HBM. -/
def State.bufferFails (s : State) (a n : Nat) : Option Status :=
  if n ≠ 0 ∧ !s.mapped .both a n then some Status.notFound
  else if a % 256 ≠ 0 ∨ (n ≠ 0 ∧ regionOf a ≠ .hbm) then some Status.refused
  else none

/-- A mailbox read: the value goes into the mailbox, or, of a DOMAIN, into its buffer. -/
def State.mailboxRead (s : State) (m : Nat) (req : MailboxReq) : State :=
  let idx := req.index.toNat
  let sub := req.sub.toNat
  let via : OdPath := .mailbox m
  match s.odReadStatus via idx sub with
  | (st, none) => s.answerWrite via idx sub st
  | (_, some r) =>
    let bs := s.odRead r idx sub
    let b := s.mailbox m
    if r.ty = .domain then
      match s.bufferFails req.bufAddr.toNat bs.length with
      | some st => s.answerWrite via idx sub st
      | none =>
        let s := if bs = [] then s else s.devWrite mgmtAttr req.bufAddr.toNat bs
        (s.setMailbox m { b with length := bs.length }).answerWrite via idx sub Status.ok
    else
      (s.setMailbox m { b with length := bs.length, value := bs ++ b.value.drop bs.length }).answerWrite via idx sub
        Status.ok

/-- Smallest value of a DOMAIN entry that takes writes, and whether other lengths are refused (R430 to R432, R444, R446). -/
def domainLength (idx sub n : Nat) : Bool :=
  match idx, sub with
  | 0x2901, 0x01 => decide (256 ≤ n)
  | 0x2901, 0x02 => decide (128 ≤ n)
  | 0x2902, 0x02 => decide (128 ≤ n)
  | 0x2903, 0x01 => decide (n = 32)
  | 0x6020, 0x01 => decide (n = 20)
  | _, _ => false

/-- The access right and the device state let a DOMAIN entry be written, whatever its value (R38, R47, R435). -/
def State.domainOpen (s : State) (idx sub : Nat) : Bool :=
  !s.writesRefused && (decide (Od.key idx sub ≠ Od.configUpdate) || s.stopped) &&
    (decide (Od.key idx sub ≠ Od.quoteNonce) || s.canSign)

/-- A mailbox write of a DOMAIN: the checks of R51 in the order of R39, then its bytes from the buffer. Of a request that a
flash write in progress turns away, only the value's own checks have used the bytes: nothing else shows a read. -/
def State.mailboxDomain (s : State) (m : Nat) (req : MailboxReq) : State :=
  let idx := req.index.toNat
  let sub := req.sub.toNat
  let via : OdPath := .mailbox m
  let n := req.length
  let fails := s.bufferFails req.bufAddr.toNat n
  if s.writeDenied via idx sub 0 then s.answerWrite via idx sub Status.denied
  else if fails = some Status.notFound then s.answerWrite via idx sub Status.notFound
  else if fails.isSome ∨ !domainLength idx sub n ∨ !s.domainOpen idx sub then s.answerWrite via idx sub Status.refused
  else
    let r := if n = 0 then (([], []), s) else s.devRead mgmtAttr req.bufAddr.toNat n
    (if idx = 0x2901 ∧ s.flashBusy then s else r.2).writeBytesEntry via idx sub r.1.1

/-- A mailbox write. -/
def State.mailboxWrite (s : State) (m : Nat) (req : MailboxReq) : State :=
  let idx := req.index.toNat
  let sub := req.sub.toNat
  match s.odRow? idx sub with
  | some r =>
    if r.ty = .domain then s.mailboxDomain m req
    else s.odWriteVia (.mailbox m) idx sub ((List.range req.length).map fun i => req.value.getD i 0)
  | none => s.odWriteVia (.mailbox m) idx sub []

/-- MAILBOX_REQUEST: the host sets GO. A reserved OP is REFUSED after the checks of a write (log 74). -/
def execMailboxRequest (m : Nat) (req : MailboxReq) (s : State) : Outcome := withRoom (.mailboxRequest m req) s <|
  if s.pathOpen (.mailbox m) then
    let b := s.mailbox m
    if b.go then .next (s.event 0x0F 0 0x0002 sevWarning [(16, 1, m)])
    else
      let full := s.placesFull
      let s := s.setMailbox m { b with
        op := req.op, index := req.index, sub := req.sub, seq := req.seq, length := req.length, bufAddr := req.bufAddr
        value := req.value, go := true, done := false }
      .next (if full then s.answerWrite (.mailbox m) req.index.toNat req.sub.toNat Status.busy
        else if req.op = 0 then s.mailboxRead m req
        else if req.op = 1 then s.mailboxWrite m req
        else s.writeRefused (.mailbox m) req.index.toNat req.sub.toNat 0)
  else .next (s.unheard (.mailbox m))

end Sys2Proof.Machine
end

