-- ==== Sys2Proof/Machine/Pcie.lean ====
section
/-!
DEFINITION. The PCI Express endpoint: configuration requests, and host accesses through BAR0, the window (R48 to R51, R64),
and BAR2 (R47, R223, R234, R235, R473).
The layout of configuration space, beyond what R47 and R473 state, is that of PCI Express (log 19).
-/

namespace Sys2Proof.Machine

/-- Word `i` of the 64-bit base address `b` of a BAR of `2^n` bytes, with its type bits. -/
def barWord (b : BitVec 64) (i : Nat) (n : Nat) (typ : BitVec 32) : BitVec 32 :=
  let m := (b >>> n) <<< n
  if i = 0 then m.extractLsb' 0 32 ||| typ else m.extractLsb' 32 32

/-- A base address with its low or high word replaced; the bits below `2^n` stay zero. -/
def barPut (b : BitVec 64) (i : Nat) (n : Nat) (d : BitVec 32) : BitVec 64 :=
  let x : BitVec 64 := if i = 0 then b.extractLsb' 32 32 ++ d else d ++ b.extractLsb' 0 32
  (x >>> n) <<< n

/-- A register of configuration space, by its dword number: device and vendor, command and status, class and revision, the
BARs, the capabilities of power management and MSI-X (R473), and otherwise what was last written. -/
def PcieCfg.read (c : PcieCfg) (reg : Nat) : BitVec 32 :=
  match reg with
  | 0 => 0x09001FA4
  | 1 => 0x00100000 ||| (SMap.get 0 c.other 1 &&& 0xFFFD) ||| (if c.memEnable then 2 else 0)
  | 2 => 0x1200000A
  | 4 => barWord c.bar0 0 24 0x4
  | 5 => barWord c.bar0 1 24 0x4
  | 6 => barWord c.bar2 0 40 0xC
  | 7 => barWord c.bar2 1 40 0xC
  | 8 => barWord c.bar4 0 16 0x4
  | 9 => barWord c.bar4 1 16 0x4
  | 13 => 0x40
  | 16 => 0x00035001
  | 17 => 8 ||| (if c.d3hot then 3 else 0)
  | 20 => 0x00480011 ||| (if c.functionMask then 0x40000000 else 0) ||| (if c.msixEnable then 0x80000000 else 0)
  | 21 => 0x00000004
  | 22 => 0x00008004
  | n => SMap.get 0 c.other n

/-- A register of configuration space takes a write. A power state other than D0 and D3hot is not taken (R473, log 19). -/
def PcieCfg.write (c : PcieCfg) (reg : Nat) (d : BitVec 32) : PcieCfg :=
  match reg with
  | 0 | 2 | 13 | 16 | 21 | 22 => c
  | 1 => { c with memEnable := d.getLsbD 1, other := SMap.set 0 c.other 1 (d &&& 0xFFFF) }
  | 4 => { c with bar0 := barPut c.bar0 0 24 d }
  | 5 => { c with bar0 := barPut c.bar0 1 24 d }
  | 6 => { c with bar2 := barPut c.bar2 0 40 d }
  | 7 => { c with bar2 := barPut c.bar2 1 40 d }
  | 8 => { c with bar4 := barPut c.bar4 0 16 d }
  | 9 => { c with bar4 := barPut c.bar4 1 16 d }
  | 17 => if d.getLsbD 0 = d.getLsbD 1 then { c with d3hot := d.getLsbD 0 } else c
  | 20 => { c with functionMask := d.getLsbD 30, msixEnable := d.getLsbD 31 }
  | n => { c with other := SMap.set 0 c.other n d }

/-- A PCI Express request reaches the endpoint. -/
def State.hostReaches (s : State) : Bool := s.dev.state ≠ .off && s.dev.linkUp

/-- CONFIGURATION_REQUEST: Request Retry Status in BOOT, and otherwise a read or write of configuration space. -/
def execConfigurationRequest (write : Bool) (reg : BitVec 10) (data : BitVec 32) (s : State) : Outcome :=
  if s.hostReaches then
    if s.dev.state = .boot then .next (s.emit .cfgRetry)
    else if write then .next { s with pcie := s.pcie.write reg.toNat data }.sendPending
    else .next (s.emit (.cfgData (s.pcie.read reg.toNat)))
  else .next s

/-! ### BAR2_ACCESS -/

/-- Memory requests are claimed: not in BOOT, and only in D0 under Memory Space Enable. -/
def State.claims (s : State) : Bool := s.dev.state ≠ .boot && s.pcie.takes

/-- Attributes of a host access through BAR2: supervisor level. -/
def hostAttr : Attr := devAttr 0xF3 1

/-- Bytes of the access that lie in HBM. -/
def inBar2 (off n : Nat) : Nat := min n (hbmEnd - off)

/-- A host read: the HBM bytes, then all ones; Poisoned where a word of it is. -/
def State.bar2Read (s : State) (off n : Nat) : State :=
  let k := inBar2 off n
  let r := if k = 0 then (([], []), s) else s.devRead hostAttr off k
  r.2.emit (.hostRead (r.1.1 ++ List.replicate (n - k) 0xFF) (r.1.2.any id))

/-- A host write: bytes above HBM are dropped. The owner of a monitored line that it writes sees it at once (R67). -/
def State.bar2Write (s : State) (off : Nat) (bs : List Byte) : State :=
  let k := inBar2 off bs.length
  if k = 0 then s else (s.devWrite hostAttr off (bs.take k)).wakeUp

/-! ### The window (R48 to R51) -/

/-- The control block of a mailbox (R50). -/
def Mailbox.control (b : Mailbox) : BitVec 256 :=
  b.bufAddr ++ BitVec.ofNat 32 b.length ++ (0 : BitVec 32) ++ BitVec.ofNat 64 b.doneTime ++ b.status ++ b.sub ++ b.index ++
    b.seq ++ (0 : BitVec 12) ++ b.op ++ BitVec.ofBool b.done ++ BitVec.ofBool b.go

/-- The 4 KiB of a mailbox: its control block, 32 reserved bytes, and the value area. -/
def Mailbox.image (b : Mailbox) : List Byte :=
  natBytes 32 b.control.toNat ++ List.replicate 32 0 ++ (List.range 4032).map fun i => b.value.getD i 0

/-- Bytes with those from `off` on replaced. -/
def overlay (bs : List Byte) (off : Nat) (new : List Byte) : List Byte :=
  bs.take off ++ new.take (bs.length - off) ++ bs.drop (off + new.length)

/-- The request that a mailbox's image spells: its RW fields and its value area. -/
def requestOf (img : List Byte) : MailboxReq :=
  let c := BitVec.ofNat 256 (bytesNat (img.take 32))
  { op := c.extractLsb' 2 2, index := c.extractLsb' 32 16, sub := c.extractLsb' 48 8, seq := c.extractLsb' 16 16
    length := (c.extractLsb' 160 32).toNat, bufAddr := c.extractLsb' 192 64, value := img.drop 64 }

/-- A host write into a mailbox: its RW fields and its value area take it. Where it sets GO it submits the request, and
while GO reads 1 it is then ignored whole (R50, R51). -/
def State.mailboxStore (s : State) (m off : Nat) (bs : List Byte) : State :=
  let b := s.mailbox m
  let img := overlay b.image off bs
  let r := requestOf img
  if decide (off = 0) && (img.getD 0 0).getLsbD 0 then (execMailboxRequest m r s).state s
  else s.setMailbox m { b with
    op := r.op, index := r.index, sub := r.sub, seq := r.seq, length := r.length, bufAddr := r.bufAddr, value := r.value }

/-- A read of a Jarast view: naturally aligned, of 4 or 8 bytes (R49). -/
def viewTakes (off n : Nat) : Bool := (decide (n = 4) || decide (n = 8)) && decide (off % n = 0)

/-- Bytes of a host read of the window: a view, a mailbox, the reserved area, which reads as zero, or the direct map; none
where a view does not accept the access. The region is that of the first byte (log 75). A view is served in every state that
claims the access, ALARMED and a FAULT entered from BOOT among them (DESIGN CHOICE, log 86). -/
def State.hostLoad (s : State) (off n : Nat) : Option (List Byte) × State :=
  if off < 0x10000 then
    (if viewTakes off n then
        some (viewBytes (s.jarastBytes (decide (0x8000 ≤ off))) (off % 0x8000) n)
      else none, s)
  else if off < 0x18000 then (some (viewBytes (s.mailbox ((off - 0x10000) / 4096)).image (off % 4096) n), s)
  else if off < 0x400000 then (some (List.replicate n 0), s)
  else
    let q := s.directLoad .direct off n
    (some q.1, q.2)

/-- A host read through BAR0. -/
def State.windowRead (s : State) (off n : Nat) : State :=
  match s.hostLoad off n with
  | (some bs, t) => t.emit (.hostRead bs false)
  | (none, t) => t.emit .unsupported

/-- A host write through BAR0: a mailbox or an entry of the direct map takes it; the views and the reserved area drop it. -/
def State.windowWrite (s : State) (off : Nat) (bs : List Byte) : State :=
  if off < 0x10000 then s
  else if off < 0x18000 then s.mailboxStore ((off - 0x10000) / 4096) (off % 4096) bs
  else if off < 0x400000 then s
  else
    let e := directIndex off
    if off % 8 ≠ 0 then s.answerWrite .direct e.1 e.2 Status.refused else s.odWriteVia .direct e.1 e.2 bs

/-! ### BAR4: the MSI-X table and the pending bits (R473) -/

/-- A byte of BAR4: the table of 73 vectors at 0x0000, the pending bits at 0x8000, and zeros elsewhere. -/
def PcieCfg.msixByte (c : PcieCfg) (a : Nat) : Byte :=
  if a < 1168 then (c.msixWord (a / 4)).extractLsb' (8 * (a % 4)) 8
  else if 0x8000 ≤ a then BitVec.ofNat 8 (c.msixPending.toNat / 2 ^ (8 * (a - 0x8000)))
  else 0

/-- A byte of the table takes a write: of a vector's control word, the mask alone (log 19). Nothing else of BAR4 does. -/
def PcieCfg.msixPut (c : PcieCfg) (a : Nat) (b : Byte) : PcieCfg :=
  if a < 1168 then
    let i := a / 4
    let lo := 8 * (a % 4)
    let x := (c.msixWord i &&& ~~~((0xFF : BitVec 32) <<< lo)) ||| (b.setWidth 32 <<< lo)
    if i % 4 = 3 then { c with msixTable := SMap.set 1 c.msixTable i (x &&& 1) }
    else { c with msixTable := SMap.set 0 c.msixTable i x }
  else c

def State.msixRead (s : State) (off n : Nat) : State :=
  s.emit (.hostRead ((List.range n).map fun k => s.pcie.msixByte (off + k)) false)

def State.msixWrite (s : State) (off : Nat) (bs : List Byte) : State :=
  { s with pcie := bs.zipIdx.foldl (fun c (x : Byte × Nat) => c.msixPut (off + x.2) x.1) s.pcie }.sendPending

/-- Bytes of a BAR. -/
def barSize : Bar → Nat
  | .bar0 => 2 ^ 24
  | .bar2 => 2 ^ 40
  | .bar4 => 2 ^ 16

/-- BAR2_ACCESS: a host memory access, through BAR2, through BAR0 to the window, or through BAR4 to the MSI-X table. -/
def execBar2Access (write : Bool) (offset : BarOffset) (len : Nat) (data : List (BitVec 8)) (s : State) : Outcome :=
    withRoom (.bar2Access write offset len data) s <|
  if s.hostReaches then
    let a := offset.bytes.toNat
    if !s.claims ∨ barSize offset.bar ≤ a then .next (s.emit .unsupported)
    else
      .next (match offset.bar, write with
        | .bar0, true => s.windowWrite a data
        | .bar0, false => s.windowRead a len
        | .bar2, true => s.bar2Write a data
        | .bar2, false => s.bar2Read a len
        | .bar4, true => s.msixWrite a data
        | .bar4, false => s.msixRead a len)
  else .next s

end Sys2Proof.Machine
end

