-- ==== Sys2Proof/Machine/Jtag.lean ====
section
/-!
DEFINITION. The JTAG port (R438, R471): IDCODE and BYPASS always, observation from level 1, and memory access, halting
and writes from level 2.
-/

namespace Sys2Proof.Machine

/-- An entry as JTAG reads it: served as a read at platform level; no bytes where it is not served. -/
def State.jtagEntry (s : State) (idx sub : Nat) : List Byte :=
  match s.odReadStatus (.theost 0 0) idx sub with
  | (_, some r) => s.odRead r idx sub
  | _ => []

/-- Memory that JTAG reaches: mapped, not the window, and behind an open channel. -/
def State.jtagReach (s : State) (a : Nat) : Bool :=
  s.mapped .both a 8 && decide (a % 8 = 0) && decide (regionOf a ≠ .window) && !s.channelClosed a

/-- A debug access to memory: its attributes are those of the device's own accesses at platform level, and its traffic class
is 0, as of every access without one (R450). -/
def jtagAttr : Attr := { priv := some 0, master := none, addr := none, cls := some 0 }

/-- The level that a read of the cell needs: management-island state and counters are entries of the dictionary. -/
def cellLevel : DebugCell → Nat
  | .entry _ _ => 1
  | _ => 2

/-- A resident group's value; nothing of a slot that is empty. -/
def State.ofGroup (s : State) (core slot n : Nat) (f : Group → Nat) : List Byte × State :=
  (match s.group? ⟨core, slot⟩ with
    | some gr => natBytes n (f gr)
    | none => [], s)

/-- A resident group's new value. -/
def State.onGroup (s : State) (core slot : Nat) (f : Group → Group) : State :=
  match s.group? ⟨core, slot⟩ with
  | some gr => s.setGroup ⟨core, slot⟩ (f gr)
  | none => s

/-- A core's memory as JTAG reads it; nothing of a core that is not mapped. -/
def State.ofCore (s : State) (core n : Nat) (f : Core → Nat) : List Byte × State :=
  (if s.coreMapped core then natBytes n (f (s.core core)) else [], s)

def State.onCore (s : State) (core : Nat) (f : Core → Core) : State :=
  if s.coreMapped core then s.setCore core (f (s.core core)) else s

/-- A cell is read as it stands: code words with their check bits, unchecked (log 85). -/
def State.debugRead (s : State) : DebugCell → List Byte × State
  | .entry index sub => (s.jtagEntry index.toNat sub.toNat, s)
  | .word addr =>
    if s.jtagReach addr.toNat then
      let r := s.devRead jtagAttr addr.toNat 8
      (r.1.1, r.2)
    else ([], s)
  | .v core slot lane reg => s.ofGroup core slot 4 fun gr => (gr.vGet lane reg).toNat
  | .p core slot lane index => s.ofGroup core slot 1 fun gr => if gr.pGet lane index then 1 else 0
  | .u core slot reg => s.ofGroup core slot 8 fun gr => (gr.uGet reg).toNat
  | .d core slot reg => s.ofGroup core slot 32 fun gr => (gr.dGet reg).toNat
  | .pc core slot => s.ofGroup core slot 5 fun gr => gr.pc.toNat
  | .accumulator core key => s.ofCore core 10 fun c => (SMap.get 0 c.acc key).toNat
  | .accumulatorMark core key => s.ofCore core 1 fun c => if SMap.get false c.accMark key then 1 else 0
  | .weights core key => s.ofCore core 10 fun c => (SMap.get 0 c.wbuf key).toNat
  | .weightPoison core key => s.ofCore core 1 fun c => if SMap.get false c.wPoison key then 1 else 0
  | .weightScale core key => s.ofCore core 1 fun c => (SMap.get 0 c.wScale key).toNat
  | .weightTag core key => s.ofCore core 2 fun c => match SMap.find? c.wTags key with
    | some t => t.fmt.toNat + 16 * t.klen
    | none => 0

/-- A cell takes the low bits of the data. An entry takes a value that its type accepts, without the effect that a write of
the dictionary has (log 85). -/
def State.debugWrite (s : State) (cell : DebugCell) (data : BitVec 256) : State :=
  match cell with
  | .entry index sub =>
    let k := Od.key index.toNat sub.toNat
    let v := (data.setWidth 64).toNat
    match s.odRow? index.toNat sub.toNat with
    | some r => if r.ty.accepts v then s.odSet k v else s
    | none => s
  | .word addr =>
    if s.jtagReach addr.toNat then s.devWrite jtagAttr addr.toNat (natBytes 8 (data.setWidth 64).toNat) else s
  | .v core slot lane reg => s.onGroup core slot fun gr => gr.vSet lane reg (data.setWidth 32)
  | .p core slot lane index => s.onGroup core slot fun gr => gr.pSet lane index (data.getLsbD 0)
  | .u core slot reg => s.onGroup core slot fun gr => gr.uSet reg (data.setWidth 64)
  | .d core slot reg => s.onGroup core slot fun gr => gr.dSet reg data
  | .pc core slot => s.onGroup core slot fun gr => { gr with pc := data.setWidth 40 }
  | .accumulator core key => s.onCore core fun c => { c with acc := SMap.set 0 c.acc key (data.setWidth 80) }
  | .accumulatorMark core key => s.onCore core fun c => { c with accMark := SMap.set false c.accMark key (data.getLsbD 0) }
  | .weights core key => s.onCore core fun c => { c with wbuf := SMap.set 0 c.wbuf key (data.setWidth 80) }
  | .weightPoison core key => s.onCore core fun c => { c with wPoison := SMap.set false c.wPoison key (data.getLsbD 0) }
  | .weightScale core key => s.onCore core fun c => { c with wScale := SMap.set 0 c.wScale key (data.setWidth 8) }
  | .weightTag core key => s.onCore core fun c =>
    if data.toNat % 2 ^ 16 = 0 then { c with wTags := SMap.erase c.wTags key }
    else { c with wTags := SMap.put c.wTags key ⟨data.setWidth 4, (data.extractLsb' 4 12).toNat⟩ }

/-- What an instruction shows, and its effect. -/
def State.jtag (s : State) : JtagReq → List Byte × State
  | .idcode => (natBytes 4 0x1A590C6B, s)
  | .bypass => ([], s)
  | .readLog => (if 1 ≤ s.odGet Od.debugLevel then s.log.ondie.reverse.flatMap eventBytes else [], s)
  | .read cell => if cellLevel cell ≤ s.odGet Od.debugLevel ∧ cell.wf then s.debugRead cell else ([], s)
  | .write cell data => ([], if 2 ≤ s.odGet Od.debugLevel ∧ cell.wf then s.debugWrite cell data else s)
  | .haltCore core =>
    ([], if 2 ≤ s.odGet Od.debugLevel ∧ s.coreMapped core then s.setCore core { s.core core with halted := true } else s)
  | .resumeCore core =>
    ([], if 2 ≤ s.odGet Od.debugLevel ∧ s.coreMapped core then s.setCore core { s.core core with halted := false } else s)
  | .other _ => ([], s)

/-- JTAG_INSTRUCTION: an instruction on the TAP pins; in OFF the outputs are high-impedance (R410). -/
def execJtagInstruction (req : JtagReq) (s : State) : Outcome := withRoom (.jtagInstruction req) s <|
  if s.dev.state = .off then .next s
  else
    let r := s.jtag req
    .next (r.2.emit (.jtag r.1))

end Sys2Proof.Machine
end

