-- ==== Sys2Proof/Machine/Links.lean ====
section
/-!
DEFINITION. The link layer: packets as slots (R261), flits (R245), sequence, acknowledgement and replay (R246), and credits
(R248).
-/

namespace Sys2Proof.Machine

/-! ### CRC-32C (R245, log 20) -/

def crcBit (c : BitVec 32) : BitVec 32 := if c.getLsbD 0 then (c >>> 1) ^^^ 0x82F63B78 else c >>> 1
def crcByte (c : BitVec 32) (b : Byte) : BitVec 32 := (List.range 8).foldl (fun c _ => crcBit c) (c ^^^ b.setWidth 32)
def crc32c (bs : List Byte) : BitVec 32 := ~~~ bs.foldl crcByte 0xFFFFFFFF

/-! ### Packets as slots (R261) -/

/-- The 32-byte header. -/
def packetHeader (p : Packet) : List Byte :=
  natBytes 32
    (p.pmask.toNat * 2 ^ 24 + p.op.toNat * 2 ^ 56 + p.detail.toNat * 2 ^ 64 + p.status.toNat * 2 ^ 72 +
     p.mcAxis.toNat * 2 ^ 80 + p.mcDir.toNat * 2 ^ 81 + p.mcCount.toNat * 2 ^ 82 + p.dst.toNat * 2 ^ 88 +
     p.src.toNat * 2 ^ 100 + p.vc.toNat * 2 ^ 112 + p.detour.toNat * 2 ^ 114 + p.wpValid.toNat * 2 ^ 115 +
     p.waypoint.toNat * 2 ^ 116 + p.len % 512 * 2 ^ 134 + p.priv.toNat * 2 ^ 143 + p.tc.toNat * 2 ^ 145 +
     p.srcMaster.toNat * 2 ^ 148 + p.tag.toNat * 2 ^ 156 + p.job.toNat * 2 ^ 168 + p.addr.toNat * 2 ^ 184 +
     p.key.toNat * 2 ^ 224)

/-- Sixteen bytes, filled up with zeros. -/
def slotOf (bs : List Byte) : List Byte := (List.range 16).map fun i => bs.getD i 0

/-- The slots of a packet. -/
def packetSlotList (p : Packet) : List (List Byte) :=
  let h := packetHeader p
  [h.take 16, h.drop 16] ++ (chunks 16 p.payload).map slotOf

/-- LEN of a header. -/
def headerLen (h : Nat) : Nat := h / 2 ^ 134 % 512

/-- Slots of the packet that a header begins; LEN of a READ request counts the bytes of the response (R262). -/
def headerSlots (h : Nat) : Nat := 2 + if h / 2 ^ 56 % 256 = 0x01 then 0 else (headerLen h + 15) / 16

/-- The packet of a header and its payload slots. -/
def packetOf (h : Nat) (body : List Byte) : Packet :=
  let f (lo n : Nat) : Nat := h / 2 ^ lo % 2 ^ n
  { key := BitVec.ofNat 32 (f 224 32), addr := BitVec.ofNat 40 (f 184 40), job := BitVec.ofNat 16 (f 168 16)
    tag := BitVec.ofNat 12 (f 156 12), srcMaster := BitVec.ofNat 8 (f 148 8), tc := BitVec.ofNat 3 (f 145 3)
    priv := BitVec.ofNat 2 (f 143 2), len := headerLen h, waypoint := BitVec.ofNat 12 (f 116 12)
    wpValid := decide (f 115 1 = 1), detour := decide (f 114 1 = 1), vc := BitVec.ofNat 2 (f 112 2)
    src := BitVec.ofNat 12 (f 100 12), dst := BitVec.ofNat 12 (f 88 12), mcCount := BitVec.ofNat 6 (f 82 6)
    mcDir := decide (f 81 1 = 1), mcAxis := decide (f 80 1 = 1), status := BitVec.ofNat 8 (f 72 8)
    detail := BitVec.ofNat 8 (f 64 8), op := BitVec.ofNat 8 (f 56 8), pmask := BitVec.ofNat 32 (f 24 32)
    payload := if h / 2 ^ 56 % 256 = 0x01 then [] else body.take (headerLen h) }

/-! ### Flits (R245) -/

/-- A flit but for its CRC. -/
structure Flit where
  ftype : BitVec 4
  seq : BitVec 12
  ack : BitVec 12
  nak : Bool
  creditA : Nat × Nat
  creditB : Nat × Nat
  starts : BitVec 15
  slots : List (List Byte)
  deriving DecidableEq, Repr

/-- The 256 bytes of a flit with its CRC field as given. -/
def Flit.raw (f : Flit) (crc : Nat) : List Byte :=
  natBytes 16
    (f.starts.toNat + f.creditB.2 * 2 ^ 40 + f.creditB.1 * 2 ^ 48 + f.creditA.2 * 2 ^ 52 + f.creditA.1 * 2 ^ 60 +
     f.nak.toNat * 2 ^ 67 + f.ftype.toNat * 2 ^ 68 + f.ack.toNat * 2 ^ 72 + f.seq.toNat * 2 ^ 84 + crc * 2 ^ 96) ++
  (List.range 15).flatMap fun i => slotOf (f.slots.getD i [])

def Flit.bytes (f : Flit) : List Byte := f.raw (crc32c (f.raw 0)).toNat

/-- The flit of 256 bytes. -/
def flitOf (bs : List Byte) : Flit :=
  let h := bytesNat (bs.take 16)
  let g (lo n : Nat) : Nat := h / 2 ^ lo % 2 ^ n
  { ftype := BitVec.ofNat 4 (g 68 4), seq := BitVec.ofNat 12 (g 84 12), ack := BitVec.ofNat 12 (g 72 12)
    nak := decide (g 67 1 = 1), creditA := (g 60 4, g 52 8), creditB := (g 48 4, g 40 8), starts := BitVec.ofNat 15 (g 0 15)
    slots := chunks 16 (bs.drop 16) }

/-- The CRC of 256 bytes is good. -/
def crcGood (bs : List Byte) : Bool :=
  decide (bs.length = 256) &&
    decide (crc32c (bs.take 12 ++ [0, 0, 0, 0] ++ bs.drop 16) = BitVec.ofNat 32 (bytesNat ((bs.drop 12).take 4)))

/-- CTYPE of a control flit (R253). -/
def Flit.ctype (f : Flit) : Nat := ((f.slots.getD 0 []).getD 0 0).toNat

/-- Control flits that the spec names; other codes are reserved (R253, R302). -/
def ctypeKnown (c : Nat) : Bool := (decide (1 ≤ c) && decide (c ≤ 4)) || (decide (0x10 ≤ c) && decide (c ≤ 0x15))

/-- A resize flit, of which every lane group carries a whole copy (R251). -/
def Flit.copied (f : Flit) : Bool := decide (f.ftype = 0x2) && (decide (f.ctype = 2) || decide (f.ctype = 3))

/-! ### Lanes (R245, R251, R252) -/

/-- The active lanes of a port, ascending: those of the groups that the stream goes over, but for one that is in the
spare-lane slot. -/
def Port.lanes (p : Port) : List Nat :=
  (List.range 40).filter fun l => p.stripe.getLsbD (l / 8) && decide (p.recalLane ≠ some (BitVec.ofNat 6 l))

/-- From the switch SEQ of a resize on, the stream goes over the agreed groups; its slots begin at the lowest lane again (log
70). -/
def Port.switched (p : Port) (seq : BitVec 12) : Port :=
  match p.switchAt with
  | some q => if (seq - q).toNat < 2048 then { p with stripe := p.groups, switchAt := none, lanePos := 0 } else p
  | none => p

/-- The flit of a port goes out: its 16 slots go to successive active lanes, or, of a resize flit, a whole copy to each lane
group. -/
def State.emitFlit (s : State) (p : Nat) (f : Flit) : State :=
  if f.copied then
    (List.range 5).foldl (fun s g =>
      if (portAll p).getLsbD g then s.emit (.flit p f.bytes ((List.range 16).map fun i => 8 * g + i % 8)) else s) s
  else
    let pt := (s.port p).switched f.seq
    let l := pt.lanes
    let n := max 1 l.length
    (s.setPort p { pt with lanePos := (pt.lanePos + 16) % n }).emit
      (.flit p f.bytes ((List.range 16).map fun i => l.getD ((pt.lanePos + i) % n) 0))

/-! ### Receiving (R246, R248) -/

/-- Flits that ACK covers leave the replay buffer. -/
def Port.acked (p : Port) (ack : BitVec 12) : Port :=
  match p.replay.findIdx? fun e => decide (e.1 = ack) with
  | some i => { p with replay := p.replay.drop (i + 1), resends := 0 }
  | none => p

/-- Credits come back for a pool. -/
def Port.credit (p : Port) (c : Nat × Nat) : Port :=
  if 10 ≤ c.1 then p else { p with credits := SMap.set 0 p.credits c.1 (SMap.get 0 p.credits c.1 + c.2) }

/-- Slots of a data flit in order: the slots of the packet being received, and the packets completed. -/
def takeSlots : List (List Byte) → List (Bool × List Byte) → List Packet → List (List Byte) × List Packet
  | cur, [], done => (cur, done)
  | cur, (start, x) :: r, done =>
    let cur := if start then [x] else if cur.isEmpty then [] else cur ++ [x]
    let h := bytesNat ((cur.take 2).flatten)
    if 2 ≤ cur.length ∧ headerSlots h ≤ cur.length then
      takeSlots [] r (done ++ [packetOf h (cur.drop 2).flatten])
    else takeSlots cur r done

/-- A data flit is delivered. -/
def State.deliverData (s : State) (p : Nat) (f : Flit) : State :=
  let pt := s.port p
  let r := takeSlots pt.rxSlots (f.slots.zipIdx.map fun x => (f.starts.getLsbD x.2, x.1)) []
  let s := s.setPort p { pt with rxSlots := r.1, rxq := pt.rxq ++ r.2 }
  r.2.foldl (fun s pk => s.count (portSet p) 0x0902 (packetSlots pk) (packetAttr pk)) s

/-- The next credit return: at most 255 slots of the first pool that is owed any. -/
def Port.takeOwed (p : Port) : (Nat × Nat) × Port :=
  match p.owed with
  | [] => ((0, 0), p)
  | (k, n) :: _ => ((k, min n 255), { p with owed := SMap.set 0 p.owed k (n - min n 255) })

/-- A flit leaves: a numbered one goes into the replay buffer. -/
def State.sendFlit (s : State) (p : Nat) (pt : Port) (ftype : BitVec 4) (numbered : Bool) (starts : BitVec 15)
    (slots : List (List Byte)) : State :=
  let a := pt.takeOwed
  let b := a.2.takeOwed
  let seq := if numbered then pt.txSeq + 1 else pt.txSeq
  let f : Flit :=
    { ftype := ftype, seq := seq, ack := pt.rxSeq, nak := pt.nak, creditA := a.1, creditB := b.1, starts := starts
      slots := slots }
  (s.setPort p { b.2 with
    txSeq := seq, replay := if numbered then pt.replay ++ [(seq, f.bytes)] else pt.replay
    sinceIdle := if ftype = 0x0 then 0 else pt.sinceIdle + 1 }).emitFlit p f

/-- An idle flit leaves, and is counted (R452). -/
def State.sendIdle (s : State) (p : Nat) (pt : Port) : State :=
  (s.sendFlit p pt 0x0 false 0 []).count (portSet p) 0x0905 1 Attr.none

/-- Flits that are sent again, with the ACK of now; an idle flit goes first where without it more than 2,048 would go without
one (R469). -/
def State.resend (s : State) (p : Nat) : State :=
  let pt := s.port p
  let s := if pt.sinceIdle + pt.replay.length < 2048 then s else s.sendIdle p pt
  let s := s.setPort p { s.port p with sinceIdle := (s.port p).sinceIdle + pt.replay.length }
  let s := pt.replay.foldl (fun s e => s.emitFlit p { flitOf e.2 with ack := pt.rxSeq, nak := pt.nak }) s
  (s.odAdd (Od.portReplays p) pt.replay.length).count (portSet p) 0x0904 pt.replay.length Attr.none

/-- The peer asks for what follows ACK; a flit that fails after 8 resends takes the port DOWN. -/
def State.nakReceived (s : State) (p : Nat) : State :=
  let pt := s.port p
  if pt.replay.isEmpty then s
  else if 8 ≤ pt.resends then s.portLeave p 2 .down
  else (s.setPort p { pt with resends := pt.resends + 1 }).resend p

/-- A flit with a good CRC: delivered once, in sequence, or discarded with NAK. -/
def State.acceptFlit (s : State) (p : Nat) (f : Flit) : State :=
  let pt := s.port p
  let inform (s : State) : State :=
    let q := s.port p
    s.setPort p ((q.credit f.creditA).credit f.creditB)
  if f.ftype = 0x0 then
    inform (s.setPort p { pt with nak := decide (f.seq ≠ pt.rxSeq) })
  else if f.ftype = 0x2 ∧ f.ctype = 0x01 then inform s
  else if (f.ftype = 0x1 ∨ f.ftype = 0x2) ∧ f.seq = pt.rxSeq + 1 then
    let s := inform (s.setPort p { pt with rxSeq := f.seq, nak := false })
    if f.ftype = 0x1 then (if pt.state.carries then s.deliverData p f else s)
    else if ctypeKnown f.ctype then s
    else s.odAdd (Od.portReplays p) 1
  else s.setPort p { pt with nak := true }

/-- FLIT_RECEIVED: the packets of a data flit stand in the port's queue until their own commands serve them; a control
flit that is delivered is acted on by its own command (log 25). The later copies of a resize flit are discarded (R251). -/
def execFlitReceived (port : Nat) (flit : List (BitVec 8)) (s : State) : Outcome :=
    withRoom (.flitReceived port flit) s <|
  let pt := s.port port
  if port < 4 ∧ (pt.state.linked ∨ pt.state = .training) then
    if crcGood flit then
      let f := flitOf flit
      if f.copied ∧ f.seq = pt.rxSeq then .next (s.setPort port { pt with lastGood := s.clk.now }) else
      let s := (s.setPort port ({ pt with lastGood := s.clk.now }.acked f.ack)).acceptFlit port f
      .next (if f.nak then s.nakReceived port else s)
    else .next (s.setPort port { pt with nak := true })
  else .next s

/-! ### Sending -/

/-- The weight of a pool's virtual channel, and the parts among which its pools share it: the two route classes equally, and
the request and response pools of a class of VC 3 too (R259, log 70). -/
def State.poolWeight (s : State) (k : Nat) : Nat :=
  s.odGet (if k < 2 then Od.vcWeightReq else if k < 4 then Od.vcWeightResp else if k < 6 then Od.vcWeightColl
    else Od.vcWeightTransit)
def poolShare (k : Nat) : Nat := if k < 6 then 2 else 4

/-- The packet of a pool to be sent next: of the oldest of each input, the first after the input served last whose slots
all have credits (R248, R259). -/
def Port.ready (p : Port) (k : Nat) : Option Queued :=
  (List.range 5).findSome? fun i =>
    let n := (SMap.get 4 p.lastInput k + 1 + i) % 5
    (p.txq.find? fun q => decide (q.input = n) && decide (packetPool q.packet = k)).filter fun q =>
      decide ((packetSlotList q.packet).length ≤ SMap.get 0 p.credits k)

/-- The pool to be served: from the one served last on, the first that is ready and has some of its weight left in its round;
where none has, the next rounds begin. With what each pool has used after it. -/
def Port.pick (w : Nat → Nat) (p : Port) : Option (Nat × Queued × (Nat → Nat)) :=
  let rd := (List.range 10).filterMap fun i => (p.ready ((p.wrrLast + i) % 10)).map fun q => ((p.wrrLast + i) % 10, q)
  let spent (k : Nat) : Nat := SMap.get 0 p.wrrUsed k / max 1 (w k)
  match rd with
  | [] => none
  | x :: _ =>
    let n := rd.foldl (fun m y => min m (spent y.1)) (spent x.1)
    let used (k : Nat) : Nat := SMap.get 0 p.wrrUsed k - n * w k
    (rd.find? fun y => decide (used y.1 < w y.1)).map fun y => (y.1, y.2, used)

/-- A port that begins to send a packet of pool `k`. -/
def Port.start (p : Port) (k : Nat) (q : Queued) (used : Nat → Nat) : Port :=
  let l := packetSlotList q.packet
  let u := (List.range 10).foldl (fun u j =>
    SMap.set 0 u j (used j + if j = k then poolShare k * l.length else 0)) p.wrrUsed
  { p with
    txq := p.txq.erase q, txSlots := l.zipIdx.map fun x => (decide (x.2 = 0), x.1)
    txFrom := q.pool.map fun j => (q.input, j), wrrUsed := u, wrrLast := k, lastInput := SMap.set 4 p.lastInput k q.input
    credits := SMap.set 0 p.credits k (SMap.get 0 p.credits k - l.length) }

/-- What fills a data flit: the port after it, the slots with their start marks, the input buffers that they leave, and the
packets that it begins. -/
structure TxFill where
  port : Port
  slots : List (Bool × List Byte)
  left : List (Nat × Nat)
  begun : List Packet

/-- Slots for a data flit (fuel: slots and packets). -/
def fillFlit (w : Nat → Nat) : Nat → TxFill → TxFill
  | 0, x => x
  | k + 1, x =>
    if 15 ≤ x.slots.length then x
    else match x.port.txSlots with
      | y :: r =>
        fillFlit w k { x with
          port := { x.port with txSlots := r }, slots := x.slots ++ [y], left := x.left ++ x.port.txFrom.toList }
      | [] =>
        match x.port.pick w with
        | none => x
        | some (j, q, used) => fillFlit w k { x with port := x.port.start j q used, begun := x.begun ++ [q.packet] }

/-- The next data flit of a port. -/
def State.fill (s : State) (p : Nat) : TxFill := fillFlit s.poolWeight 64 ⟨s.port p, [], [], []⟩

/-- The slots of a data flit leave their buffers, and are counted as sent (R248, R452). -/
def State.slotsSent (s : State) (p : Nat) (x : TxFill) : State :=
  let s := x.left.foldl (fun s e => s.oweSlots e.1 e.2 1) s
  x.begun.foldl (fun s pk => s.count (portSet p) 0x0901 (packetSlots pk) (packetAttr pk)) s

/-- The start bits of a data flit. -/
def startBits (l : List (Bool × List Byte)) : BitVec 15 :=
  BitVec.ofNat 15 (l.zipIdx.foldl (fun v x => if x.1.1 then v + 2 ^ x.2 else v) 0)

/-- IDLE_FLIT: the port sends its next flit: a control flit, else packets, else an idle flit; of every 2,048 at least one is
idle (R247, R253, R469). -/
def execIdleFlit (port : Nat) (s : State) : Outcome :=
  let pt := s.port port
  if port < 4 ∧ (pt.state.linked ∨ pt.state = .training) then
    if 2047 ≤ pt.sinceIdle then .next (s.sendIdle port pt) else
    let room := decide (pt.replay.length < 1024)
    match pt.ctrlq with
    | x :: r =>
      let ident := decide (x.toNat % 256 = 0x01)
      if ident ∨ room then
        .next (s.sendFlit port { pt with ctrlq := r } 0x2 (!ident) 0 [natBytes 16 x.toNat])
      else .next (s.sendIdle port pt)
    | [] =>
      let r := s.fill port
      if room ∧ (pt.state = .up ∨ pt.state = .degraded) ∧ !r.slots.isEmpty then
        .next ((s.sendFlit port r.port 0x1 true (startBits r.slots) (r.slots.map (·.2))).slotsSent port r)
      else .next (s.sendIdle port pt)
  else .next s

end Sys2Proof.Machine
end

