-- ==== Sys2Proof/Machine/LocalMem.lean ====
section
/-!
DEFINITION. Thread accesses to local memory and the lock instructions (R188 to R194). Each distinct word is read once
per access, in ascending lane order (R189).
-/

namespace Sys2Proof

/-- Bytes of a size (R188). -/
def LSize.bytes : LSize → Nat
  | .b8 => 1 | .b16 => 2 | .b32 => 4 | .b64 => 8 | .b128 => 16

/-- Thread registers of a size (R176). -/
def LSize.regs : LSize → Nat
  | .b8 | .b16 | .b32 => 1
  | .b64 => 2
  | .b128 => 4

/-- The place of a size among the five opcodes of a form. -/
def LSize.step : LSize → Nat
  | .b8 => 0 | .b16 => 1 | .b32 => 2 | .b64 => 3 | .b128 => 4

end Sys2Proof

namespace Sys2Proof.Machine

/-- The address of a lane: VA + IMM19. -/
def localAddr (w : BitVec 64) (gr : Group) (lane : Nat) : Int := ((gr.vGet lane (fVA w)).toNat : Int) + fImm19 w

/-- ALIGNMENT and KEY_FAULT of an access of `n` bytes by a lane (R188). -/
def localFails (w : BitVec 64) (n : Nat) (gr : Group) (lane : Nat) : List Fail :=
  let a := localAddr w gr lane
  (if a % n ≠ 0 then [⟨lane, cAlignment, 0x01, 0xFF, BitVec.ofInt 64 a⟩] else []) ++
  (if a < 0 ∨ (localEnd : Int) ≤ a then [⟨lane, cKey, 0x01, 0xFF, BitVec.ofInt 64 a⟩] else [])

/-- The words of the core's local memory that an access of `n` bytes at offset `a` touches. -/
def localWords (core a n : Nat) : List Nat := spanWords (localBase core + a) n

/-- A list without repeats, each element kept at its first place. -/
def dedup : List Nat → List Nat → List Nat
  | _, [] => []
  | seen, x :: xs => if seen.contains x then dedup seen xs else x :: dedup (x :: seen) xs

/-- Distinct words read once each: what was read, by word, and the state after. -/
def State.readDistinct (s : State) (ws : List Nat) : SMap (BitVec 64 × Bool) × State :=
  (dedup [] ws).foldl (fun r w =>
    let q := r.2.readWord w .demand
    (SMap.put r.1 w q.1, q.2)) ([], s)

/-- Data of a word among those read. -/
def readData (m : SMap (BitVec 64 × Bool)) (w : Nat) : BitVec 64 := (SMap.get (0, false) m w).1
def readPoison (m : SMap (BitVec 64 × Bool)) (w : Nat) : Bool := (SMap.get (0, false) m w).2

/-- `n` bytes at local address `a` as a number, from the words read. -/
def readValue (m : SMap (BitVec 64 × Bool)) (a n : Nat) : Nat :=
  bytesNat (((spanWords a n).flatMap fun w => wordBytes (readData m w)).drop (a % 8) |>.take n)

/-- Passes of an access over the words it touches: the largest number of distinct words in one bank (R189). -/
def passes (ws : List Nat) : Nat :=
  let d := dedup [] ws
  (List.range 32).foldl (fun m b => max m (d.filter fun w => decide (w % 32 = b)).length) 0

/-- LM_THREAD_ACCESS and LM_EXTRA_PASS of an issued access (R452). Each extra pass wastes a slot, of the class of the access,
unless another group of the scheduler issues in it: of the extra passes a free number do (R197, log 22). -/
def State.countLocal (s : State) (core : Nat) (ws : List Nat) : State :=
  let extra := passes ws - 1
  let wasted := Config.timedCount (coreSet core) 0x0302 s.clk.now % (extra + 1)
  (List.range wasted).foldl (fun s _ => s.countSlot core 0x0302 2)
    ((s.count (coreSet core) 0x0306 1 .none).count (coreSet core) 0x0305 extra .none)

/-- Issue of a local-memory or lock instruction of `n` bytes per lane: the checks that come before the access. -/
def localIssue (g : GroupRef) (w : BitVec 64) (n : Nat) (regs : List (Nat × Nat))
    (k : State → Group → List Nat → Issue) (s : State) : Outcome :=
  issued g w 2 (checked g false ((fVA w, 1) :: regs) fun s gr =>
    match excOfFails ((gr.execLanes w).flatMap (localFails w n gr)) with
    | some e => .exc e
    | none =>
      let ws := (gr.execLanes w).flatMap fun i => localWords g.core (localAddr w gr i).toNat n
      k (s.countLocal g.core ws) gr ws) s

/-- POISON_CONSUMED of the lanes whose word is poisoned. -/
def poisonFails (w : BitVec 64) (core n : Nat) (detail : BitVec 8) (gr : Group) (m : SMap (BitVec 64 × Bool)) :
    List Fail :=
  (gr.execLanes w).flatMap fun i =>
    if (localWords core (localAddr w gr i).toNat n).any (readPoison m) then
      [⟨i, cPoison, detail, 0xFF, BitVec.ofInt 64 (localAddr w gr i)⟩]
    else []

/-- LD_L (R188): each executing thread loads; the 8-bit and 16-bit forms are zero-extended. -/
def execLdL (g : GroupRef) (sz : LSize) (f : BitVec 48) (s : State) : Outcome :=
  let w := f ++ BitVec.ofNat 16 (0x2001 + sz.step)
  localIssue g w sz.bytes [(fVD w, sz.regs)] (fun s gr ws =>
    let r := s.readDistinct ws
    match excOfFails (poisonFails w g.core sz.bytes 0x01 gr r.1) with
    | some e => .excAfter e r.2
    | none =>
      groupOnly g (fun gr => gr.eachLane (gr.execLanes w) fun i q =>
        let v := readValue r.1 (localBase g.core + (localAddr w gr i).toNat) sz.bytes
        match sz.regs with
        | 1 => q.vSet i (fVD w) (BitVec.ofNat 32 v)
        | 2 => q.setPair i (fVD w) (BitVec.ofNat 64 v)
        | _ => q.setQuad i (fVD w) (BitVec.ofNat 128 v)) r.2 gr) s

/-- The value that a lane stores. -/
def storeValue (w : BitVec 64) (regs : Nat) (gr : Group) (lane : Nat) : Nat :=
  match regs with
  | 1 => (gr.vGet lane (fVB w)).toNat
  | 2 => (gr.vPair lane (fVB w)).toNat
  | _ => (gr.vQuad lane (fVB w)).toNat

/-- ST_L (R188): each executing thread stores, in ascending lane order. -/
def execStL (g : GroupRef) (sz : LSize) (f : BitVec 48) (s : State) : Outcome :=
  let w := f ++ BitVec.ofNat 16 (0x2011 + sz.step)
  localIssue g w sz.bytes [(fVB w, sz.regs)] (fun s gr _ =>
    groupOnly g (fun gr => gr) ((gr.execLanes w).foldl (fun s i =>
      s.writeNat (localBase g.core + (localAddr w gr i).toNat) sz.bytes (storeValue w sz.regs gr i)) s) gr) s

/-! ### Locks (R191) -/

/-- The lock word of an acquiring thread. -/
def lockWord (core slot lane : Nat) : BitVec 64 :=
  BitVec.ofNat 64 (2 ^ 63 + core * 2 ^ 40 + slot * 2 ^ 32 + lane * 2 ^ 24)

/-- HELD. -/
def lockHeld (x : BitVec 64) : Bool := x.getLsbD 63

/-- The word is held by a thread of the group. -/
def lockOfGroup (x : BitVec 64) (g : GroupRef) : Bool :=
  lockHeld x && decide (fld x 40 7 = g.core) && decide (fld x 32 4 = g.slot)

/-- The word is held by the thread. -/
def lockOfThread (x : BitVec 64) (g : GroupRef) (lane : Nat) : Bool := lockOfGroup x g && decide (fld x 24 5 = lane)

/-- The word with HELD and its reserved fields 0 and its owner fields kept (R191, R193). -/
def lockFreed (x : BitVec 64) : BitVec 64 :=
  lockWord (fld x 40 7) (fld x 32 4) (fld x 24 5) &&& 0x7FFFFFFFFFFFFFFF

/-- Word of a lane's lock. -/
def lockIndex (w : BitVec 64) (core : Nat) (gr : Group) (lane : Nat) : Nat :=
  (localBase core + (localAddr w gr lane).toNat) / 8

/-- One lane's LKACQ: the words, the status, and whether it took the lock. -/
def lockAcquire (g : GroupRef) (lane k : Nat) (m : SMap (BitVec 64 × Bool)) :
    SMap (BitVec 64 × Bool) × BitVec 32 × Bool :=
  let x := readData m k
  if !lockHeld x then (SMap.put m k (lockWord g.core g.slot lane, false), 0, true)
  else if lockOfGroup x g then (m, Status.samegrp.setWidth 32, false)
  else (m, Status.busy.setWidth 32, false)

/-- One lane's LKREL: the words, the status, and whether it released its lock. -/
def lockRelease (g : GroupRef) (lane k : Nat) (m : SMap (BitVec 64 × Bool)) :
    SMap (BitVec 64 × Bool) × BitVec 32 × Bool :=
  let x := readData m k
  if lockOfThread x g lane then (SMap.put m k (lockFreed x, false), 0, true)
  else if lockHeld x then (m, Status.denied.setWidth 32, false)
  else (m, Status.refused.setWidth 32, false)

/-- A lock instruction: every lane's turn in ascending order on the words read, then the changed words written, in one
indivisible access. Of lanes that name one lock, each sees what those before it left (DESIGN CHOICE, log 88). -/
def lockIssue (g : GroupRef) (w : BitVec 64)
    (turn : Nat → Nat → SMap (BitVec 64 × Bool) → SMap (BitVec 64 × Bool) × BitVec 32 × Bool)
    (locks : Nat → Nat → Nat) (s : State) : Outcome :=
  localIssue g w 8 [(fVD w, 1)] (fun s gr ws =>
    let r := s.readDistinct ws
    match excOfFails (poisonFails w g.core 8 0x04 gr r.1) with
    | some e => .excAfter e r.2
    | none =>
      let t := (gr.execLanes w).foldl (fun (a : SMap (BitVec 64 × Bool) × Group × Nat × List Nat) i =>
        let k := lockIndex w g.core gr i
        let q := turn i k a.1
        (q.1, a.2.1.vSet i (fVD w) q.2.1, if q.2.2 then a.2.2.1 + 1 else a.2.2.1,
          if q.2.2 then k :: a.2.2.2 else a.2.2.2)) (r.1, gr, 0, [])
      let s' := (dedup [] t.2.2.2).foldl (fun s k => s.writeWord k (readData t.1 k) false) r.2
      groupOnly g (fun q => { q with locks := locks q.locks t.2.2.1 }) s' t.2.1) s

/-- LKACQ (R192): each executing thread tries to take its lock word; VD := OK, SAMEGRP or BUSY. -/
def execLkacq (g : GroupRef) (f : BitVec 48) (s : State) : Outcome :=
  lockIssue g (f ++ (0x2020 : BitVec 16)) (lockAcquire g) (fun n k => n + k) s

/-- LKREL (R193): each executing thread releases its lock word; VD := OK, DENIED or REFUSED. -/
def execLkrel (g : GroupRef) (f : BitVec 48) (s : State) : Outcome :=
  lockIssue g (f ++ (0x2021 : BitVec 16)) (lockRelease g) (fun n k => n - k) s

end Sys2Proof.Machine
end

