-- ==== Sys2Proof/Machine/Shuffle.lean ====
section
/-!
DEFINITION. Shuffles and votes (R187): group-wide, with all 32 threads active.
-/

namespace Sys2Proof.Machine

/-- A group-wide instruction of class `cls`: registers are checked, then the mask (R13, R187). -/
def groupWide (g : GroupRef) (w : BitVec 64) (cls : Nat) (regs : List (Nat × Nat)) (f : Group → Group) (s : State) :
    Outcome :=
  issued g w cls (checked g false regs fun s gr =>
    if gr.active ≠ 0xFFFFFFFF then .exc (gr.exc cDivergent 0x00) else groupOnly g f s gr) s

/-- The operand d of a lane: IMM12[4:0] when IMM12[11] is 1, VB[4:0] of the lane otherwise. -/
def shflD (w : BitVec 64) (gr : Group) (lane : Nat) : Nat :=
  if w.getLsbD 63 then fld w 52 5 else (gr.vGet lane (fVB w)).toNat % 32

/-- VD of each lane := VA of the lane `src lane d`, as it held before. -/
def shuffled (w : BitVec 64) (src : Nat → Nat → Nat) (gr : Group) : Group :=
  gr.eachLane (List.range 32) fun i q => q.vSet i (fVD w) (gr.vGet (src i (shflD w gr i)) (fVA w))

/-- The registers of a shuffle; VB is one where it gives d. -/
def shflRegs (w : BitVec 64) : List (Nat × Nat) :=
  if w.getLsbD 63 then [(fVD w, 1), (fVA w, 1)] else [(fVD w, 1), (fVA w, 1), (fVB w, 1)]

/-- SHFL_IDX (R187): lane d. -/
def execShflIdx (g : GroupRef) (f : BitVec 48) (s : State) : Outcome :=
  let w := f ++ (0x5001 : BitVec 16)
  groupWide g w 6 (shflRegs w) (shuffled w fun _ d => d) s

/-- SHFL_UP (R187): lane i - d, or the lane itself below 0. -/
def execShflUp (g : GroupRef) (f : BitVec 48) (s : State) : Outcome :=
  let w := f ++ (0x5002 : BitVec 16)
  groupWide g w 6 (shflRegs w) (shuffled w fun i d => if i < d then i else i - d) s

/-- SHFL_DOWN (R187): lane i + d, or the lane itself above 31. -/
def execShflDown (g : GroupRef) (f : BitVec 48) (s : State) : Outcome :=
  let w := f ++ (0x5003 : BitVec 16)
  groupWide g w 6 (shflRegs w) (shuffled w fun i d => if 31 < i + d then i else i + d) s

/-- SHFL_XOR (R187): lane i xor d. -/
def execShflXor (g : GroupRef) (f : BitVec 48) (s : State) : Outcome :=
  let w := f ++ (0x5004 : BitVec 16)
  groupWide g w 6 (shflRegs w) (shuffled w fun i d => i ^^^ d) s

/-- A lane's vote: p[PS] xor PSN. -/
def vote (w : BitVec 64) (gr : Group) (lane : Nat) : Bool := gr.pGet lane (fPS w) != fPSN w

/-- p[PD] of every lane := `x`. -/
def setAll (w : BitVec 64) (x : Bool) (gr : Group) : Group :=
  gr.eachLane (List.range 32) fun i q => q.pSet i (fPD w) x

/-- VOTE_ANY (R187). -/
def execVoteAny (g : GroupRef) (f : BitVec 48) (s : State) : Outcome :=
  let w := f ++ (0x5011 : BitVec 16)
  groupWide g w 6 [] (fun gr => setAll w ((List.range 32).any (vote w gr)) gr) s

/-- VOTE_ALL (R187). -/
def execVoteAll (g : GroupRef) (f : BitVec 48) (s : State) : Outcome :=
  let w := f ++ (0x5012 : BitVec 16)
  groupWide g w 6 [] (fun gr => setAll w ((List.range 32).all (vote w gr)) gr) s

/-- VOTE_BALLOT (R187): UD[31:0] := the lanes' votes. -/
def execVoteBallot (g : GroupRef) (f : BitVec 48) (s : State) : Outcome :=
  let w := f ++ (0x5013 : BitVec 16)
  groupWide g w 6 [] (fun gr => gr.uSet (fUD w) ((maskOf (vote w gr)).setWidth 64)) s

end Sys2Proof.Machine
end

