-- ==== Sys2Proof/Machine/Theost.lean ====
section
/-!
DEFINITION. Theost frames that reach the device (R54 to R58): reads and writes with their kept responses, and segmented
transfers.
-/

namespace Sys2Proof

/-! ### The header (R54) -/

def TheostFrame.version (f : TheostFrame) : BitVec 8 := f.header.extractLsb' 0 8
def TheostFrame.ftype (f : TheostFrame) : BitVec 8 := f.header.extractLsb' 8 8
def TheostFrame.seq (f : TheostFrame) : BitVec 16 := f.header.extractLsb' 16 16
def TheostFrame.index (f : TheostFrame) : BitVec 16 := f.header.extractLsb' 32 16
def TheostFrame.sub (f : TheostFrame) : BitVec 8 := f.header.extractLsb' 48 8
def TheostFrame.status (f : TheostFrame) : BitVec 8 := f.header.extractLsb' 56 8
def TheostFrame.length (f : TheostFrame) : BitVec 16 := f.header.extractLsb' 64 16
def TheostFrame.flags (f : TheostFrame) : BitVec 8 := f.header.extractLsb' 80 8
def TheostFrame.xfer (f : TheostFrame) : BitVec 32 := f.header.extractLsb' 96 32

/-- The payload: LENGTH bytes, without the padding of a short frame. -/
def TheostFrame.payload (f : TheostFrame) : List Byte := f.body.take f.length.toNat

end Sys2Proof

namespace Sys2Proof.Machine

/-! ### Which frames are heard (R47, R54 to R56) -/

/-- The types of frame that a client may send. -/
def clientType (t : BitVec 8) : Bool := t = 0x01 || t = 0x03 || t = 0x05 || t = 0x06 || t = 0x07 || t = 0x08

/-- A frame comes in: Theost is silent in OFF and BOOT, and a frame of another EtherType is none of its; a frame of another
version, or of a type that no client sends, is discarded and counted; `h` serves a frame of type `t`. -/
def State.frame (s : State) (t : BitVec 8) (fr : TheostFrame) (h : State → State) : Outcome :=
  if s.dev.state = .off ∨ s.dev.state = .boot ∨ fr.etherType ≠ 0x88B5 then .next s
  else if fr.version ≠ 0x01 then .next (s.odAdd Od.fieldBadVersion 1)
  else if !clientType fr.ftype then .next (s.odAdd Od.fieldBadType 1)
  else if fr.ftype = t then .next (h s)
  else .next s

/-- The response kept for a request (R56). -/
def State.keptFor (s : State) (fr : TheostFrame) : Option OutFrame :=
  (s.hm.kept.find? fun k => decide (k.1 = fr.srcMac) && decide (k.2.1 = fr.seq)).map (·.2.2)

/-- The request waits or is being served. -/
def State.inService (s : State) (fr : TheostFrame) : Bool :=
  s.waitingPaths.contains (.theost fr.srcMac fr.seq) ||
    s.hm.xfers.any fun x => decide (x.mac = fr.srcMac) && decide (x.seq = fr.seq)

/-- A request with the handling of repeats and of the 32 places: `rsp` is the type of its response. A BUSY for want of a
place is neither kept nor served, and the model logs none (R56, R78, log 76). -/
def State.request (s : State) (fr : TheostFrame) (rsp : BitVec 8) (h : State → State) : State :=
  match s.keptFor fr with
  | some f => s.sendFrame f
  | none =>
    if s.inService fr then s
    else if s.placesFull then
      s.sendFrame (rspFrame fr.srcMac rsp fr.seq fr.index.toNat fr.sub.toNat Status.busy 0 0 [])
    else h s

/-- An answer other than that to a write. -/
def State.answerFrame (s : State) (fr : TheostFrame) (rsp : BitVec 8) (st : Status) (dtype : BitVec 8) (xfer : BitVec 32)
    (payload : List Byte) : State :=
  let idx := fr.index.toNat
  let sub := fr.sub.toNat
  let s := if statusFails st then s.odFailed (.theost fr.srcMac fr.seq) idx sub st else s
  s.keepResponse fr.srcMac fr.seq (rspFrame fr.srcMac rsp fr.seq idx sub st dtype xfer payload)

/-! ### READ_REQ and WRITE_REQ -/

/-- A read: a value of more than 1,024 bytes is refused. -/
def State.serveRead (s : State) (fr : TheostFrame) : State :=
  match s.odReadStatus (.theost fr.srcMac fr.seq) fr.index.toNat fr.sub.toNat with
  | (st, none) => s.answerFrame fr 0x02 st 0 0 []
  | (_, some r) =>
    let bs := s.odRead r fr.index.toNat fr.sub.toNat
    if 1024 < bs.length then s.answerFrame fr 0x02 Status.refused 0 0 []
    else s.answerFrame fr 0x02 Status.ok r.ty.code 0 bs

/-- READ_REQ: a broadcast one is accepted for index 0x1000 alone. -/
def execReadReq (fr : TheostFrame) (s : State) : Outcome := withRoom (.readReq fr) s <|
  s.frame 0x01 fr fun s =>
    if fr.broadcast ∧ fr.index ≠ 0x1000 then s else s.request fr 0x02 fun s => s.serveRead fr

/-- WRITE_REQ. -/
def execWriteReq (fr : TheostFrame) (s : State) : Outcome := withRoom (.writeReq fr) s <|
  s.frame 0x03 fr fun s =>
    if fr.broadcast then s
    else s.request fr 0x04 fun s =>
      let via : OdPath := .theost fr.srcMac fr.seq
      if 1024 < fr.payload.length then s.writeRefused via fr.index.toNat fr.sub.toNat 0
      else s.odWriteVia via fr.index.toNat fr.sub.toNat fr.payload

/-! ### Segmented transfers (R58) -/

/-- Segments of a value: one at least. -/
def segCount (n : Nat) : Nat := max 1 ((n + 1023) / 1024)

def State.setXfer (s : State) (x : Xfer) : State :=
  { s with hm := { s.hm with xfers := s.hm.xfers.map fun y => if y.id = x.id then x else y } }

def State.xfer? (s : State) (id : BitVec 32) : Option Xfer := s.hm.xfers.find? fun x => decide (x.id = id)

/-- The transfer that a frame of its client names. -/
def State.xferOf (s : State) (fr : TheostFrame) : Option Xfer :=
  (s.xfer? fr.xfer).bind fun x => if x.mac = fr.srcMac then some x else none

def State.dropXfer (s : State) (id : BitVec 32) : State :=
  { s with hm := { s.hm with xfers := s.hm.xfers.filter fun x => decide (x.id ≠ id) } }

/-- A segment of an upload. -/
def segFrame (x : Xfer) (i : Nat) : OutFrame :=
  { dst := x.mac, ftype := 0x06, seq := BitVec.ofNat 16 i, index := x.index, sub := x.sub, status := 0
    flags := if i + 1 = segCount x.total then 0x02 else 0, dtype := 0, xfer := x.id
    payload := x.data.drop (1024 * i) |>.take 1024 }

/-- The segments from `i`, `n` of them, are sent. -/
def State.sendSegs (s : State) (x : Xfer) (i n : Nat) : State :=
  (List.range n).foldl (fun s k => s.sendFrame (segFrame x (i + k))) s

/-- An upload sends on, with up to 8 segments unacknowledged. -/
def State.sendMore (s : State) (x : Xfer) : State :=
  let hi := min (segCount x.total) (x.acked + 8)
  (s.setXfer { x with sent := max x.sent hi }).sendSegs x x.sent (hi - x.sent)

/-- The status of a SEG_START, in the order of R39: the value of an upload where it is OK. -/
def State.segStatus (s : State) (fr : TheostFrame) (upload : Bool) (total : Nat) : Status × List Byte :=
  let idx := fr.index.toNat
  let sub := fr.sub.toNat
  let via : OdPath := .theost fr.srcMac fr.seq
  let busyNow := decide (4 ≤ s.hm.xfers.length) ||
    s.hm.xfers.any fun x => !x.upload && !upload && decide (x.index = fr.index) && decide (x.sub = fr.sub)
  if upload then
    match s.odReadStatus via idx sub with
    | (st, none) => (st, [])
    | (_, some r) =>
      if r.ty ≠ .domain then (Status.refused, [])
      else if busyNow then (Status.busy, [])
      else (Status.ok, s.odBytes idx sub)
  else if s.writeDenied via idx sub 0 then (Status.denied, [])
  else match s.odRow? idx sub with
    | none => (Status.notFound, [])
    | some r =>
      if !s.accessOk r.access ∨ r.ty ≠ .domain ∨ fr.payload.length ≠ 4 ∨ 0x4000000 < total then (Status.refused, [])
      else if busyNow then (Status.busy, [])
      else (Status.ok, [])

/-- SEG_START: a transfer opens, and SEG_ACK carries its XFER and the total length. -/
def execSegStart (fr : TheostFrame) (s : State) : Outcome := withRoom (.segStart fr) s <|
  s.frame 0x05 fr fun s =>
    if fr.broadcast then s
    else s.request fr 0x07 fun s =>
      let upload := fr.flags.getLsbD 0
      let want := bytesNat (fr.payload.take 4)
      let q := s.segStatus fr upload want
      if q.1 ≠ Status.ok then s.answerFrame fr 0x07 q.1 0 0 []
      else
        let total := if upload then q.2.length else want
        let x : Xfer :=
          { id := s.hm.nextXfer, mac := fr.srcMac, seq := fr.seq, index := fr.index, sub := fr.sub, upload := upload
            total := total, data := q.2, acked := 0, sent := 0, committing := false, progressAt := s.clk.now
            heardAt := s.clk.now }
        let s := { s with hm := { s.hm with xfers := s.hm.xfers ++ [x], nextXfer := s.hm.nextXfer + 1 } }
        let s := s.answerFrame fr 0x07 Status.ok 0 x.id (natBytes 4 total)
        if upload then s.sendMore x else s

/-- The acknowledgement of a download's segments: the count received in order. -/
def State.segAcked (s : State) (x : Xfer) : State :=
  s.sendFrame (rspFrame x.mac 0x07 (BitVec.ofNat 16 x.acked) x.index.toNat x.sub.toNat Status.ok 0 x.id [])

/-- The last segment has come: the value is written as one, or refused where its length is not the total. -/
def State.commitXfer (s : State) (x : Xfer) : State :=
  let via : OdPath := .theost x.mac x.seq
  let s := s.setXfer { x with committing := true }
  if x.data.length ≠ x.total then s.writeRefused via x.index.toNat x.sub.toNat 0
  else s.odWriteVia via x.index.toNat x.sub.toNat x.data

/-- SEG_DATA: a segment of a download is taken where it is the next in order, and acknowledged; the LAST one commits. -/
def execSegData (fr : TheostFrame) (s : State) : Outcome := withRoom (.segData fr) s <|
  s.frame 0x06 fr fun s =>
    match s.xferOf fr with
    | none => s
    | some x =>
      if fr.broadcast ∨ x.upload ∨ x.committing then s
      else
        let last := fr.flags.getLsbD 1
        let next := decide (fr.seq = BitVec.ofNat 16 x.acked) &&
          (decide (fr.payload.length = 1024) || (last && decide (fr.payload.length < 1024))) && decide (x.acked < 65536)
        if next then
          let x := { x with
            data := x.data ++ fr.payload, acked := x.acked + 1, progressAt := s.clk.now, heardAt := s.clk.now }
          let s := (s.setXfer x).segAcked x
          if last then s.commitXfer x else s
        else
          let x := { x with heardAt := s.clk.now }
          (s.setXfer x).segAcked x

/-- SEG_ACK: the client's count moves an upload on; it ends with its last segment. -/
def execSegAck (fr : TheostFrame) (s : State) : Outcome :=
  s.frame 0x07 fr fun s =>
    match s.xferOf fr with
    | none => s
    | some x =>
      if fr.broadcast ∨ !x.upload then s
      else
        let d := (fr.seq - BitVec.ofNat 16 x.acked).toNat
        let x := { x with heardAt := s.clk.now }
        if d = 0 ∨ x.sent < x.acked + d then s.setXfer x
        else
          let x := { x with acked := x.acked + d, progressAt := s.clk.now }
          if segCount x.total ≤ x.acked then s.dropXfer x.id else (s.setXfer x).sendMore x

/-- A transfer ends by abort, and the entry is unchanged. -/
def State.abortXfer (s : State) (x : Xfer) (st : Status) : State :=
  (s.dropXfer x.id).event 0x0F 0 0x0003 sevWarning [(16, 4, x.id.toNat), (20, 1, st.toNat)]

/-- SEG_ABORT from the client. -/
def execSegAbort (fr : TheostFrame) (s : State) : Outcome := withRoom (.segAbort fr) s <|
  s.frame 0x08 fr fun s =>
    match s.xferOf fr with
    | none => s
    | some x => if fr.broadcast ∨ x.committing then s else s.abortXfer x fr.status

/-- SEG_RESEND: 20 ms after the last progress, an upload resends from its first unacknowledged segment. -/
def execSegResend (xfer : BitVec 32) (s : State) : Outcome :=
  match s.xfer? xfer with
  | none => .next s
  | some x =>
    if x.upload ∧ x.acked < x.sent then
      let s := s.advanceTo (x.progressAt + 20000000)
      .next ((s.setXfer { x with progressAt := s.clk.now }).sendSegs x x.acked (x.sent - x.acked))
    else .next s

/-- SEG_TIMEOUT: after 500 ms of silence the device ends the transfer with SEG_ABORT. -/
def execSegTimeout (xfer : BitVec 32) (s : State) : Outcome := withRoom (.segTimeout xfer) s <|
  match s.xfer? xfer with
  | none => .next s
  | some x =>
    if x.committing then .next s
    else
      let s := s.advanceTo (x.heardAt + 500000000)
      .next ((s.sendFrame (rspFrame x.mac 0x08 0 x.index.toNat x.sub.toNat Status.timeout 0 x.id [])).abortXfer x
        Status.timeout)

end Sys2Proof.Machine
end

