-- ==== Sys2Proof/Machine/ThreadArith.lean ====
section
/-!
DEFINITION. The thread arithmetic instructions (R180): each executing thread computes from its own registers. An
instruction word is `f` above the row's opcode.
-/

namespace Sys2Proof.Machine

/-- IMM19, sign-extended to a register. -/
def imm19 (w : BitVec 64) : BitVec 32 := BitVec.ofInt 32 (fImm19 w)

/-- VD := `x`. -/
def alu0 (g : GroupRef) (w : BitVec 64) (x : BitVec 32) : State → Group → Issue :=
  checked g false [(fVD w, 1)] (groupOnly g fun gr => gr.eachLane (gr.execLanes w) fun i q => q.vSet i (fVD w) x)

/-- VD := `op VA`. -/
def alu1 (g : GroupRef) (w : BitVec 64) (op : BitVec 32 → BitVec 32) : State → Group → Issue :=
  checked g false [(fVD w, 1), (fVA w, 1)]
    (groupOnly g fun gr => gr.eachLane (gr.execLanes w) fun i q => q.vSet i (fVD w) (op (q.vGet i (fVA w))))

/-- VD := `op VA VB`. -/
def alu2 (g : GroupRef) (w : BitVec 64) (op : BitVec 32 → BitVec 32 → BitVec 32) : State → Group → Issue :=
  checked g false [(fVD w, 1), (fVA w, 1), (fVB w, 1)]
    (groupOnly g fun gr => gr.eachLane (gr.execLanes w) fun i q =>
      q.vSet i (fVD w) (op (q.vGet i (fVA w)) (q.vGet i (fVB w))))

/-- VD := `op VA VB VC`. -/
def alu3 (g : GroupRef) (w : BitVec 64) (op : BitVec 32 → BitVec 32 → BitVec 32 → BitVec 32) : State → Group → Issue :=
  checked g false [(fVD w, 1), (fVA w, 1), (fVB w, 1), (fVC w, 1)]
    (groupOnly g fun gr => gr.eachLane (gr.execLanes w) fun i q =>
      q.vSet i (fVD w) (op (q.vGet i (fVA w)) (q.vGet i (fVB w)) (q.vGet i (fVC w))))

/-- VD := VA or VB, as p[VC[2:0]] selects. -/
def pick (g : GroupRef) (w : BitVec 64) : State → Group → Issue :=
  checked g false [(fVD w, 1), (fVA w, 1), (fVB w, 1)]
    (groupOnly g fun gr => gr.eachLane (gr.execLanes w) fun i q =>
      q.vSet i (fVD w) (if q.pGet i (fld w 45 3) then q.vGet i (fVA w) else q.vGet i (fVB w)))

/-- p[MOD[55:53]] := a comparison under MOD[58:56]; conditions 6 and 7 are undefined (R178). -/
def compare (g : GroupRef) (w : BitVec 64) (cond : Nat → BitVec 32 → BitVec 32 → Bool) : State → Group → Issue :=
  checked g (decide (5 < fCond w)) [(fVA w, 1), (fVB w, 1)]
    (groupOnly g fun gr => gr.eachLane (gr.execLanes w) fun i q =>
      q.pSet i (fModP w) (cond (fCond w) (q.vGet i (fVA w)) (q.vGet i (fVB w))))

/-- The conditions of R178 on an ordering: -1, 0 or 1. -/
def condHolds (cond : Nat) (c : Int) : Bool :=
  match cond with
  | 0 => decide (c = 0)
  | 1 => decide (c ≠ 0)
  | 2 => decide (c < 0)
  | 3 => decide (c ≤ 0)
  | 4 => decide (0 < c)
  | _ => decide (0 ≤ c)

/-- A signed comparison. -/
def intCond (cond : Nat) (a b : BitVec 32) : Bool :=
  condHolds cond (if a.toInt < b.toInt then -1 else if a.toInt = b.toInt then 0 else 1)

/-- An FP32 comparison: false when an operand is NaN, except NE. -/
def fpCond (cond : Nat) (a b : BitVec 32) : Bool :=
  if (f32Val a).isNaN || (f32Val b).isNaN then decide (cond = 1) else condHolds cond ((f32Val a).cmp (f32Val b))

/-- `a` ranks at or below `b`; -0 is below +0. -/
def fpLe (a b : BitVec 32) : Bool :=
  if (f32Val a).isZero && (f32Val b).isZero then (f32Val a).sign || !(f32Val b).sign
  else decide ((f32Val a).cmp (f32Val b) ≤ 0)

/-- FP.MIN and FP.MAX. Of two NaN operands the first gives the sign (DESIGN CHOICE, log 88). -/
def fpExtreme (largest : Bool) (a b : BitVec 32) : BitVec 32 :=
  if (f32Val a).isNaN then (if (f32Val b).isNaN then f32Of (f32Val a) else b)
  else if (f32Val b).isNaN then a
  else if largest then (if fpLe b a then a else b)
  else if fpLe a b then a else b

/-- FP32 to signed integer, toward zero, saturating. -/
def fpToInt (a : BitVec 32) : BitVec 32 :=
  match f32Val a with
  | .nan _ => 0
  | .inf n => if n then 0x80000000 else 0x7FFFFFFF
  | .fin n m e => BitVec.ofInt 32 (max (-(2 ^ 31)) (min (2 ^ 31 - 1) (Val.toIntTrunc (.fin n m e))))

/-- INT_ADD (R180): VD := VA + VB modulo 2^32. -/
def execIntAdd (g : GroupRef) (f : BitVec 48) (s : State) : Outcome :=
  issued g (f ++ (0x0001 : BitVec 16)) 0 (alu2 g (f ++ (0x0001 : BitVec 16)) (fun a b => a + b)) s

/-- INT_SUB (R180): VD := VA - VB modulo 2^32. -/
def execIntSub (g : GroupRef) (f : BitVec 48) (s : State) : Outcome :=
  issued g (f ++ (0x0002 : BitVec 16)) 0 (alu2 g (f ++ (0x0002 : BitVec 16)) (fun a b => a - b)) s

/-- INT_MUL (R180): the low 32 bits of the product. -/
def execIntMul (g : GroupRef) (f : BitVec 48) (s : State) : Outcome :=
  issued g (f ++ (0x0003 : BitVec 16)) 0 (alu2 g (f ++ (0x0003 : BitVec 16)) (fun a b => a * b)) s

/-- INT_MULADD (R180): the low 32 bits of VA × VB + VC. -/
def execIntMuladd (g : GroupRef) (f : BitVec 48) (s : State) : Outcome :=
  issued g (f ++ (0x0004 : BitVec 16)) 0 (alu3 g (f ++ (0x0004 : BitVec 16)) (fun a b c => a * b + c)) s

/-- INT_AND (R180): bitwise AND. -/
def execIntAnd (g : GroupRef) (f : BitVec 48) (s : State) : Outcome :=
  issued g (f ++ (0x0005 : BitVec 16)) 0 (alu2 g (f ++ (0x0005 : BitVec 16)) (fun a b => a &&& b)) s

/-- INT_OR (R180): bitwise OR. -/
def execIntOr (g : GroupRef) (f : BitVec 48) (s : State) : Outcome :=
  issued g (f ++ (0x0006 : BitVec 16)) 0 (alu2 g (f ++ (0x0006 : BitVec 16)) (fun a b => a ||| b)) s

/-- INT_XOR (R180): bitwise XOR. -/
def execIntXor (g : GroupRef) (f : BitVec 48) (s : State) : Outcome :=
  issued g (f ++ (0x0007 : BitVec 16)) 0 (alu2 g (f ++ (0x0007 : BitVec 16)) (fun a b => a ^^^ b)) s

/-- INT_SHL (R180): VA shifted left by VB[4:0]. -/
def execIntShl (g : GroupRef) (f : BitVec 48) (s : State) : Outcome :=
  issued g (f ++ (0x0008 : BitVec 16)) 0 (alu2 g (f ++ (0x0008 : BitVec 16)) (fun a b => a <<< (b.toNat % 32))) s

/-- INT_SHR (R180): VA shifted right by VB[4:0], zeros filled in. -/
def execIntShr (g : GroupRef) (f : BitVec 48) (s : State) : Outcome :=
  issued g (f ++ (0x0009 : BitVec 16)) 0 (alu2 g (f ++ (0x0009 : BitVec 16)) (fun a b => a >>> (b.toNat % 32))) s

/-- INT_SHRA (R180): VA shifted right by VB[4:0], the sign filled in. -/
def execIntShra (g : GroupRef) (f : BitVec 48) (s : State) : Outcome :=
  issued g (f ++ (0x000A : BitVec 16)) 0 (alu2 g (f ++ (0x000A : BitVec 16)) (fun a b => a.sshiftRight (b.toNat % 32))) s

/-- INT_MIN (R180): the signed minimum. -/
def execIntMin (g : GroupRef) (f : BitVec 48) (s : State) : Outcome :=
  issued g (f ++ (0x000B : BitVec 16)) 0 (alu2 g (f ++ (0x000B : BitVec 16)) (fun a b => if a.sle b then a else b)) s

/-- INT_MAX (R180): the signed maximum. -/
def execIntMax (g : GroupRef) (f : BitVec 48) (s : State) : Outcome :=
  issued g (f ++ (0x000C : BitVec 16)) 0 (alu2 g (f ++ (0x000C : BitVec 16)) (fun a b => if a.sle b then b else a)) s

/-- INT_CMP (R180): a predicate from the signed comparison under MOD. -/
def execIntCmp (g : GroupRef) (f : BitVec 48) (s : State) : Outcome :=
  issued g (f ++ (0x000D : BitVec 16)) 0 (compare g (f ++ (0x000D : BitVec 16)) intCond) s

/-- V_PICK (R180): VA where p[VC[2:0]] holds, VB otherwise. -/
def execVPick (g : GroupRef) (f : BitVec 48) (s : State) : Outcome :=
  issued g (f ++ (0x000E : BitVec 16)) 0 (pick g (f ++ (0x000E : BitVec 16))) s

/-- V_MOV (R180): VD := VA. -/
def execVMov (g : GroupRef) (f : BitVec 48) (s : State) : Outcome :=
  issued g (f ++ (0x000F : BitVec 16)) 0 (alu1 g (f ++ (0x000F : BitVec 16)) (fun a => a)) s

/-- INT_ADDI (R180): VD := VA + IMM19. -/
def execIntAddi (g : GroupRef) (f : BitVec 48) (s : State) : Outcome :=
  issued g (f ++ (0x0101 : BitVec 16)) 0 (alu1 g (f ++ (0x0101 : BitVec 16)) (fun a => a + imm19 (f ++ (0x0101 : BitVec 16)))) s

/-- V_LDI (R180): VD := IMM19. -/
def execVLdi (g : GroupRef) (f : BitVec 48) (s : State) : Outcome :=
  issued g (f ++ (0x0102 : BitVec 16)) 0 (alu0 g (f ++ (0x0102 : BitVec 16)) (imm19 (f ++ (0x0102 : BitVec 16)))) s

/-- V_LDHI (R180): VD := (VA and 0x7_FFFF) or (IMM19[12:0] × 2^19). -/
def execVLdhi (g : GroupRef) (f : BitVec 48) (s : State) : Outcome :=
  issued g (f ++ (0x0103 : BitVec 16)) 0 (alu1 g (f ++ (0x0103 : BitVec 16)) (fun a => (a &&& 0x7FFFF) ||| (imm19 (f ++ (0x0103 : BitVec 16)) <<< 19))) s

/-- FP_ADD (R180): the FP32 sum. -/
def execFpAdd (g : GroupRef) (f : BitVec 48) (s : State) : Outcome :=
  issued g (f ++ (0x1001 : BitVec 16)) 1 (alu2 g (f ++ (0x1001 : BitVec 16)) (fun a b => f32Of ((f32Val a).add (f32Val b)))) s

/-- FP_MUL (R180): the FP32 product. -/
def execFpMul (g : GroupRef) (f : BitVec 48) (s : State) : Outcome :=
  issued g (f ++ (0x1002 : BitVec 16)) 1 (alu2 g (f ++ (0x1002 : BitVec 16)) (fun a b => f32Of ((f32Val a).mul (f32Val b)))) s

/-- FP_MULADD (R180): VA × VB + VC with one rounding. -/
def execFpMuladd (g : GroupRef) (f : BitVec 48) (s : State) : Outcome :=
  issued g (f ++ (0x1003 : BitVec 16)) 1 (alu3 g (f ++ (0x1003 : BitVec 16)) (fun a b c => f32Of (((f32Val a).mul (f32Val b)).add (f32Val c)))) s

/-- FP_MIN (R180): the FP32 minimum; a NaN operand gives the other operand; -0 is below +0. -/
def execFpMin (g : GroupRef) (f : BitVec 48) (s : State) : Outcome :=
  issued g (f ++ (0x1004 : BitVec 16)) 1 (alu2 g (f ++ (0x1004 : BitVec 16)) (fun a b => fpExtreme false a b)) s

/-- FP_MAX (R180): the FP32 maximum; a NaN operand gives the other operand; -0 is below +0. -/
def execFpMax (g : GroupRef) (f : BitVec 48) (s : State) : Outcome :=
  issued g (f ++ (0x1005 : BitVec 16)) 1 (alu2 g (f ++ (0x1005 : BitVec 16)) (fun a b => fpExtreme true a b)) s

/-- FP_CMP (R180): a predicate from the FP32 comparison; false on NaN, except NE. -/
def execFpCmp (g : GroupRef) (f : BitVec 48) (s : State) : Outcome :=
  issued g (f ++ (0x1006 : BitVec 16)) 1 (compare g (f ++ (0x1006 : BitVec 16)) fpCond) s

/-- CVT_FTOI (R180): FP32 to signed integer, toward zero, saturating; NaN gives 0. -/
def execCvtFtoi (g : GroupRef) (f : BitVec 48) (s : State) : Outcome :=
  issued g (f ++ (0x1007 : BitVec 16)) 1 (alu1 g (f ++ (0x1007 : BitVec 16)) fpToInt) s

/-- CVT_ITOF (R180): signed integer to FP32, to nearest, ties to even. -/
def execCvtItof (g : GroupRef) (f : BitVec 48) (s : State) : Outcome :=
  issued g (f ++ (0x1008 : BitVec 16)) 1 (alu1 g (f ++ (0x1008 : BitVec 16)) (fun a => f32Of (Val.ofInt a.toInt))) s

end Sys2Proof.Machine
end

