-- ==== Sys2Proof/Machine/Timebase.lean ====
section
/-!
DEFINITION. Holdover of the timebase generator (R31, R32). The counter keeps counting and never steps.
-/

namespace Sys2Proof.Machine

/-- The generator runs, and its source is the one named: 0 the reference, 1 holdover. -/
def State.sourceIs (s : State) (n : Nat) : Bool := s.dev.state ≠ .off && decide (s.odGet Od.timebaseSource = n)

/-- TB_HOLDOVER_ENTER: the reference has been absent for more than 1 µs, so its last edge stands 1,001 ticks back. -/
def execTbHoldoverEnter (s : State) : Outcome := withRoom .tbHoldoverEnter s <|
  if s.sourceIs 0 then
    let last := s.clk.now - 1001
    let s := { s with clk := { s.clk with lastRef := last, holdoverAt := s.clk.now } }
    let s := (s.odSet Od.timebaseSource 1).odSet Od.timebaseHoldoverCount ((s.odGet Od.timebaseHoldoverCount + 1) % 2 ^ 32)
    .next (s.event 0x12 0 0x0001 sevWarning [(16, 8, last)])
  else .next s

/-- TB_HOLDOVER_EXIT: the reference has been stable for 1 ms again. -/
def execTbHoldoverExit (s : State) : Outcome := withRoom .tbHoldoverExit s <|
  if s.sourceIs 1 then
    let s := s.advanceTo (s.clk.holdoverAt + 1000000)
    .next ((s.odSet Od.timebaseSource 0).event 0x12 0 0x0002 sevInfo [(16, 8, s.clk.now - s.clk.holdoverAt)])
  else .next s

end Sys2Proof.Machine
end

