-- ==== Sys2Proof/Machine/Dispatch.lean ====
section
/-! DEFINITION. The dispatch of a command to its meaning: one arm per constructor of `Instr`. -/

namespace Sys2Proof.Machine

def exec (i : Instr) (s : State) : Host.Outcome State Fault Refusal :=
  match i with
  | .intAdd g f => Sys2Proof.Machine.execIntAdd g f s
  | .intSub g f => Sys2Proof.Machine.execIntSub g f s
  | .intMul g f => Sys2Proof.Machine.execIntMul g f s
  | .intMuladd g f => Sys2Proof.Machine.execIntMuladd g f s
  | .intAnd g f => Sys2Proof.Machine.execIntAnd g f s
  | .intOr g f => Sys2Proof.Machine.execIntOr g f s
  | .intXor g f => Sys2Proof.Machine.execIntXor g f s
  | .intShl g f => Sys2Proof.Machine.execIntShl g f s
  | .intShr g f => Sys2Proof.Machine.execIntShr g f s
  | .intShra g f => Sys2Proof.Machine.execIntShra g f s
  | .intMin g f => Sys2Proof.Machine.execIntMin g f s
  | .intMax g f => Sys2Proof.Machine.execIntMax g f s
  | .intCmp g f => Sys2Proof.Machine.execIntCmp g f s
  | .vPick g f => Sys2Proof.Machine.execVPick g f s
  | .vMov g f => Sys2Proof.Machine.execVMov g f s
  | .intAddi g f => Sys2Proof.Machine.execIntAddi g f s
  | .vLdi g f => Sys2Proof.Machine.execVLdi g f s
  | .vLdhi g f => Sys2Proof.Machine.execVLdhi g f s
  | .fpAdd g f => Sys2Proof.Machine.execFpAdd g f s
  | .fpMul g f => Sys2Proof.Machine.execFpMul g f s
  | .fpMuladd g f => Sys2Proof.Machine.execFpMuladd g f s
  | .fpMin g f => Sys2Proof.Machine.execFpMin g f s
  | .fpMax g f => Sys2Proof.Machine.execFpMax g f s
  | .fpCmp g f => Sys2Proof.Machine.execFpCmp g f s
  | .cvtFtoi g f => Sys2Proof.Machine.execCvtFtoi g f s
  | .cvtItof g f => Sys2Proof.Machine.execCvtItof g f s
  | .uadd g f => Sys2Proof.Machine.execUadd g f s
  | .umovi g f => Sys2Proof.Machine.execUmovi g f s
  | .u2v g f => Sys2Proof.Machine.execU2v g f s
  | .v2u g f => Sys2Proof.Machine.execV2u g f s
  | .s2u g f => Sys2Proof.Machine.execS2u g f s
  | .s2v g f => Sys2Proof.Machine.execS2v g f s
  | .dld g f => Sys2Proof.Machine.execDld g f s
  | .nop g f => Sys2Proof.Machine.execNop g f s
  | .bra g f => Sys2Proof.Machine.execBra g f s
  | .rpush g f => Sys2Proof.Machine.execRpush g f s
  | .rjoin g f => Sys2Proof.Machine.execRjoin g f s
  | .call g f => Sys2Proof.Machine.execCall g f s
  | .ret g f => Sys2Proof.Machine.execRet g f s
  | .endThreads g f => Sys2Proof.Machine.execEndThreads g f s
  | .cbar g f => Sys2Proof.Machine.execCbar g f s
  | .cbarRelease core => Sys2Proof.Machine.execCbarRelease core s
  | .ldL g sz f => Sys2Proof.Machine.execLdL g sz f s
  | .stL g sz f => Sys2Proof.Machine.execStL g sz f s
  | .lkacq g f => Sys2Proof.Machine.execLkacq g f s
  | .lkrel g f => Sys2Proof.Machine.execLkrel g f s
  | .ldG g sz f => Sys2Proof.Machine.execLdG g sz f s
  | .stG g sz f => Sys2Proof.Machine.execStG g sz f s
  | .shflIdx g f => Sys2Proof.Machine.execShflIdx g f s
  | .shflUp g f => Sys2Proof.Machine.execShflUp g f s
  | .shflDown g f => Sys2Proof.Machine.execShflDown g f s
  | .shflXor g f => Sys2Proof.Machine.execShflXor g f s
  | .voteAny g f => Sys2Proof.Machine.execVoteAny g f s
  | .voteAll g f => Sys2Proof.Machine.execVoteAll g f s
  | .voteBallot g f => Sys2Proof.Machine.execVoteBallot g f s
  | .mxWld g f => Sys2Proof.Machine.execMxWld g f s
  | .mxWldStart core tok => Sys2Proof.Machine.execMxWldStart core tok s
  | .mxWldDone core tok => Sys2Proof.Machine.execMxWldDone core tok s
  | .mxMma g f => Sys2Proof.Machine.execMxMma g f s
  | .mxMmaStart core tok => Sys2Proof.Machine.execMxMmaStart core tok s
  | .mxMmaDone core tok => Sys2Proof.Machine.execMxMmaDone core tok s
  | .mxDrn g f => Sys2Proof.Machine.execMxDrn g f s
  | .mxDrnStart core tok => Sys2Proof.Machine.execMxDrnStart core tok s
  | .mxDrnDone core tok => Sys2Proof.Machine.execMxDrnDone core tok s
  | .arrayWake core array => Sys2Proof.Machine.execArrayWake core array s
  | .arrayGate core array => Sys2Proof.Machine.execArrayGate core array s
  | .twait g f => Sys2Proof.Machine.execTwait g f s
  | .ttest g f => Sys2Proof.Machine.execTtest g f s
  | .chRun g f => Sys2Proof.Machine.execChRun g f s
  | .chRunDone core tok => Sys2Proof.Machine.execChRunDone core tok s
  | .atCas64 g f => Sys2Proof.Machine.execAtCas64 g f s
  | .atSwp64 g f => Sys2Proof.Machine.execAtSwp64 g f s
  | .atAdd64 g f => Sys2Proof.Machine.execAtAdd64 g f s
  | .redAddW40 g f => Sys2Proof.Machine.execRedAddW40 g f s
  | .redAddF32 g f => Sys2Proof.Machine.execRedAddF32 g f s
  | .redAddBf16 g f => Sys2Proof.Machine.execRedAddBf16 g f s
  | .redMaxF32 g f => Sys2Proof.Machine.execRedMaxF32 g f s
  | .redMinF32 g f => Sys2Proof.Machine.execRedMinF32 g f s
  | .redMaxBf16 g f => Sys2Proof.Machine.execRedMaxBf16 g f s
  | .redMinBf16 g f => Sys2Proof.Machine.execRedMinBf16 g f s
  | .mcSt64 g f => Sys2Proof.Machine.execMcSt64 g f s
  | .fenceR g f => Sys2Proof.Machine.execFenceR g f s
  | .pktRead port pk => Sys2Proof.Machine.execPktRead port pk s
  | .pktWrite port pk => Sys2Proof.Machine.execPktWrite port pk s
  | .pktCas port pk => Sys2Proof.Machine.execPktCas port pk s
  | .pktSwap port pk => Sys2Proof.Machine.execPktSwap port pk s
  | .fetchAdd port pk => Sys2Proof.Machine.execFetchAdd port pk s
  | .reductionRequest port pk => Sys2Proof.Machine.execReductionRequest port pk s
  | .mcastWrite port pk => Sys2Proof.Machine.execMcastWrite port pk s
  | .invalidate port pk => Sys2Proof.Machine.execInvalidate port pk s
  | .invAck port pk => Sys2Proof.Machine.execInvAck port pk s
  | .remoteResponse pk coherent => Sys2Proof.Machine.execRemoteResponse pk coherent s
  | .remoteTimeout tag => Sys2Proof.Machine.execRemoteTimeout tag s
  | .nopCommand cmd => Sys2Proof.Machine.execNopCommand cmd s
  | .tailLineWrite ring tail => Sys2Proof.Machine.execTailLineWrite ring tail s
  | .cqHeadWrite cq head => Sys2Proof.Machine.execCqHeadWrite cq head s
  | .launch cmd => Sys2Proof.Machine.execLaunch cmd s
  | .launchStart cmd => Sys2Proof.Machine.execLaunchStart cmd s
  | .launchCommit cmd => Sys2Proof.Machine.execLaunchCommit cmd s
  | .copy cmd => Sys2Proof.Machine.execCopy cmd s
  | .copyStart lighter => Sys2Proof.Machine.execCopyStart lighter s
  | .copyCommit cmd => Sys2Proof.Machine.execCopyCommit cmd s
  | .bucketPost cmd => Sys2Proof.Machine.execBucketPost cmd s
  | .bucketPostCommit cmd => Sys2Proof.Machine.execBucketPostCommit cmd s
  | .bktReady fl => Sys2Proof.Machine.execBktReady fl s
  | .bktAbort fl => Sys2Proof.Machine.execBktAbort fl s
  | .collData port pk => Sys2Proof.Machine.execCollData port pk s
  | .collTimeout cmd => Sys2Proof.Machine.execCollTimeout cmd s
  | .permute cmd => Sys2Proof.Machine.execPermute cmd s
  | .permData port pk => Sys2Proof.Machine.execPermData port pk s
  | .permAbort fl => Sys2Proof.Machine.execPermAbort fl s
  | .permuteCommit cmd => Sys2Proof.Machine.execPermuteCommit cmd s
  | .barrier cmd => Sys2Proof.Machine.execBarrier cmd s
  | .barArrive fl => Sys2Proof.Machine.execBarArrive fl s
  | .barRelease fl => Sys2Proof.Machine.execBarRelease fl s
  | .barAbort fl => Sys2Proof.Machine.execBarAbort fl s
  | .barrierTimeout ctx => Sys2Proof.Machine.execBarrierTimeout ctx s
  | .barOrphaned ctx => Sys2Proof.Machine.execBarOrphaned ctx s
  | .epochSwitch ctx => Sys2Proof.Machine.execEpochSwitch ctx s
  | .updateStep cmd => Sys2Proof.Machine.execUpdateStep cmd s
  | .updateStepCommit cmd => Sys2Proof.Machine.execUpdateStepCommit cmd s
  | .snapshot cmd => Sys2Proof.Machine.execSnapshot cmd s
  | .snapshotCopyStart cmd => Sys2Proof.Machine.execSnapshotCopyStart cmd s
  | .snapshotCommit cmd => Sys2Proof.Machine.execSnapshotCommit cmd s
  | .hoSend cmd => Sys2Proof.Machine.execHoSend cmd s
  | .sendChunk channel => Sys2Proof.Machine.execSendChunk channel s
  | .hoRecv cmd => Sys2Proof.Machine.execHoRecv cmd s
  | .poolGet cmd => Sys2Proof.Machine.execPoolGet cmd s
  | .poolPut cmd => Sys2Proof.Machine.execPoolPut cmd s
  | .poolDrop cmd => Sys2Proof.Machine.execPoolDrop cmd s
  | .consumedLimit channel limit posted => Sys2Proof.Machine.execConsumedLimit channel limit posted s
  | .hoTimeout cmd => Sys2Proof.Machine.execHoTimeout cmd s
  | .hoJob via channel job => Sys2Proof.Machine.execHoJob via channel job s
  | .abortTarget via v => Sys2Proof.Machine.execAbortTarget via v s
  | .mailboxRequest m req => Sys2Proof.Machine.execMailboxRequest m req s
  | .odWrite via index sub value => Sys2Proof.Machine.execOdWrite via index sub value s
  | .bar2Access write offset len data => Sys2Proof.Machine.execBar2Access write offset len data s
  | .readReq fr => Sys2Proof.Machine.execReadReq fr s
  | .writeReq fr => Sys2Proof.Machine.execWriteReq fr s
  | .segStart fr => Sys2Proof.Machine.execSegStart fr s
  | .segData fr => Sys2Proof.Machine.execSegData fr s
  | .segAck fr => Sys2Proof.Machine.execSegAck fr s
  | .segAbort fr => Sys2Proof.Machine.execSegAbort fr s
  | .segResend xfer => Sys2Proof.Machine.execSegResend xfer s
  | .segTimeout xfer => Sys2Proof.Machine.execSegTimeout xfer s
  | .cyclic channel => Sys2Proof.Machine.execCyclic channel s
  | .cycEnable via channel v => Sys2Proof.Machine.execCycEnable via channel v s
  | .presence => Sys2Proof.Machine.execPresence s
  | .drain via => Sys2Proof.Machine.execDrain via s
  | .drainComplete => Sys2Proof.Machine.execDrainComplete s
  | .drainTimeout => Sys2Proof.Machine.execDrainTimeout s
  | .reinit via => Sys2Proof.Machine.execReinit via s
  | .reset via => Sys2Proof.Machine.execReset via s
  | .resetDelayExpiry => Sys2Proof.Machine.execResetDelayExpiry s
  | .saveParameters via => Sys2Proof.Machine.execSaveParameters via s
  | .restoreDefaults via => Sys2Proof.Machine.execRestoreDefaults via s
  | .jobOpen via v => Sys2Proof.Machine.execJobOpen via v s
  | .jobClose via v => Sys2Proof.Machine.execJobClose via v s
  | .ringEnable via n v => Sys2Proof.Machine.execRingEnable via n v s
  | .cqEnable via n v => Sys2Proof.Machine.execCqEnable via n v s
  | .portEnable via n v => Sys2Proof.Machine.execPortEnable via n v s
  | .meshPlanId via v => Sys2Proof.Machine.execMeshPlanId via v s
  | .fenceClear via v => Sys2Proof.Machine.execFenceClear via v s
  | .epochAdopt via v => Sys2Proof.Machine.execEpochAdopt via v s
  | .regionWrite via value => Sys2Proof.Machine.execRegionWrite via value s
  | .ruleSwitchEpoch via v => Sys2Proof.Machine.execRuleSwitchEpoch via v s
  | .ruleCommitNow via v => Sys2Proof.Machine.execRuleCommitNow via v s
  | .nfStepFlag via n v => Sys2Proof.Machine.execNfStepFlag via n v s
  | .lossValue via n v => Sys2Proof.Machine.execLossValue via n v s
  | .ledgerCold via n => Sys2Proof.Machine.execLedgerCold via n s
  | .ledgerRestored via n => Sys2Proof.Machine.execLedgerRestored via n s
  | .ledgerDetach via n => Sys2Proof.Machine.execLedgerDetach via n s
  | .evalCommit via v => Sys2Proof.Machine.execEvalCommit via v s
  | .coreRetire via n v => Sys2Proof.Machine.execCoreRetire via n v s
  | .coreFailed core cause => Sys2Proof.Machine.execCoreFailed core cause s
  | .logRingEntries via v => Sys2Proof.Machine.execLogRingEntries via v s
  | .logRelease => Sys2Proof.Machine.execLogRelease s
  | .logHeadWrite head => Sys2Proof.Machine.execLogHeadWrite head s
  | .eventInterrupt => Sys2Proof.Machine.execEventInterrupt s
  | .laneRecalibration via target => Sys2Proof.Machine.execLaneRecalibration via target s
  | .sensorTrim via target => Sys2Proof.Machine.execSensorTrim via target s
  | .coreSelfTest via target => Sys2Proof.Machine.execCoreSelfTest via target s
  | .hbmPatternTest via target => Sys2Proof.Machine.execHbmPatternTest via target s
  | .portLoopback via target => Sys2Proof.Machine.execPortLoopback via target s
  | .timebaseDelayRemeasure via target => Sys2Proof.Machine.execTimebaseDelayRemeasure via target s
  | .selftestStart => Sys2Proof.Machine.execSelftestStart s
  | .selftestWaitTimeout => Sys2Proof.Machine.execSelftestWaitTimeout s
  | .selftestDone status detail => Sys2Proof.Machine.execSelftestDone status detail s
  | .fwUpdate via value => Sys2Proof.Machine.execFwUpdate via value s
  | .configUpdate via value => Sys2Proof.Machine.execConfigUpdate via value s
  | .enrolmentAuthorisation via value => Sys2Proof.Machine.execEnrolmentAuthorisation via value s
  | .debugUnlock via value => Sys2Proof.Machine.execDebugUnlock via value s
  | .debugRelock via => Sys2Proof.Machine.execDebugRelock via s
  | .quoteNonce via value => Sys2Proof.Machine.execQuoteNonce via value s
  | .alarm classes sensors => Sys2Proof.Machine.execAlarm classes sensors s
  | .eraseMarkerProgrammed => Sys2Proof.Machine.execEraseMarkerProgrammed s
  | .helperOverwrite => Sys2Proof.Machine.execHelperOverwrite s
  | .countFreeze via v => Sys2Proof.Machine.execCountFreeze via v s
  | .countClear via => Sys2Proof.Machine.execCountClear via s
  | .countSwitch => Sys2Proof.Machine.execCountSwitch s
  | .psel via set n v => Sys2Proof.Machine.execPsel via set n v s
  | .pctl via set v => Sys2Proof.Machine.execPctl via set v s
  | .tallyEnable via v => Sys2Proof.Machine.execTallyEnable via v s
  | .tallyDump => Sys2Proof.Machine.execTallyDump s
  | .tallyDumpWritten => Sys2Proof.Machine.execTallyDumpWritten s
  | .tallyHeadWrite head => Sys2Proof.Machine.execTallyHeadWrite head s
  | .scrubRead unit => Sys2Proof.Machine.execScrubRead unit s
  | .memCeLimit srcType srcInst => Sys2Proof.Machine.execMemCeLimit srcType srcInst s
  | .fatalError e => Sys2Proof.Machine.execFatalError e s
  | .flitReceived port flit => Sys2Proof.Machine.execFlitReceived port flit s
  | .idleFlit port => Sys2Proof.Machine.execIdleFlit port s
  | .ident port id => Sys2Proof.Machine.execIdent port id s
  | .trainingTimeout port => Sys2Proof.Machine.execTrainingTimeout port s
  | .linkRetry port signal => Sys2Proof.Machine.execLinkRetry port signal s
  | .laneBad port lane => Sys2Proof.Machine.execLaneBad port lane s
  | .resizeReq port seq mask => Sys2Proof.Machine.execResizeReq port seq mask s
  | .resizeAck port seq mask => Sys2Proof.Machine.execResizeAck port seq mask s
  | .groupRecover port laneGroup => Sys2Proof.Machine.execGroupRecover port laneGroup s
  | .recal port lane start => Sys2Proof.Machine.execRecal port lane start s
  | .linkDown port cause => Sys2Proof.Machine.execLinkDown port cause s
  | .deviceFenced port => Sys2Proof.Machine.execDeviceFenced port s
  | .tbHoldoverEnter => Sys2Proof.Machine.execTbHoldoverEnter s
  | .tbHoldoverExit => Sys2Proof.Machine.execTbHoldoverExit s
  | .resetRelease straps => Sys2Proof.Machine.execResetRelease straps s
  | .imageVerified => Sys2Proof.Machine.execImageVerified s
  | .hbmStackInit => Sys2Proof.Machine.execHbmStackInit s
  | .hbmInitFailed phase => Sys2Proof.Machine.execHbmInitFailed phase s
  | .clusterEnable failedSlots => Sys2Proof.Machine.execClusterEnable failedSlots s
  | .startComplete => Sys2Proof.Machine.execStartComplete s
  | .pwrGoodLow => Sys2Proof.Machine.execPwrGoodLow s
  | .resetNLow => Sys2Proof.Machine.execResetNLow s
  | .perstNLow => Sys2Proof.Machine.execPerstNLow s
  | .perstNRise => Sys2Proof.Machine.execPerstNRise s
  | .railUndervoltage rail => Sys2Proof.Machine.execRailUndervoltage rail s
  | .thermtrip => Sys2Proof.Machine.execThermtrip s
  | .thermalStep die hbm => Sys2Proof.Machine.execThermalStep die hbm s
  | .governorEstimate fixed core avg => Sys2Proof.Machine.execGovernorEstimate fixed core avg s
  | .governorRaise fixed core avg => Sys2Proof.Machine.execGovernorRaise fixed core avg s
  | .pmbusTelemetry readings => Sys2Proof.Machine.execPmbusTelemetry readings s
  | .powerCap via v => Sys2Proof.Machine.execPowerCap via v s
  | .flashWriteDone => Sys2Proof.Machine.execFlashWriteDone s
  | .configurationRequest write reg data => Sys2Proof.Machine.execConfigurationRequest write reg data s
  | .jtagInstruction req => Sys2Proof.Machine.execJtagInstruction req s
  | .undefinedOpcode g word => Sys2Proof.Machine.execUndefinedOpcode g word s

end Sys2Proof.Machine
end

