-- ==== Sys2Proof/Machine/Idle.lean ====
section
/-!
DEFINITION. What happens while no command waits (R67, R310, R393, log 1).
-/

namespace Sys2Proof.Machine

/-- What `t` has logged since `s`, and what it holds since, keeps the stamp of the action that was held (R29, R393). -/
def State.restamp (s t : State) (h : HeldAction) : State :=
  let n := s.log.ingress.length
  let k := s.log.held.length
  { t with log := { t.log with
    ingress := t.log.ingress.take n ++ (t.log.ingress.drop n).map fun e => { e with epoch := h.epoch, time := h.time }
    held := t.log.held.take k ++ (t.log.held.drop k).map fun x => { x with epoch := h.epoch, time := h.time } } }

/-- A held command acts now. -/
def State.runOne (s : State) (h : HeldAction) : State :=
  match h.cmd with
  | some c =>
    if c.throughOff then s
    else match exec c s with
      | .next t => s.restamp t h
      | _ => s
  | none => s

/-- The first held command that may act does (R393). -/
def State.runHeld (s : State) : State :=
  match firstHeld s.log [] s.log.held with
  | some (before, h, after) =>
    let t := (s.setHeld before).runOne h
    t.setHeld (t.log.held ++ if t.dev.state = .off then [] else after)
  | none => s

/-- One nanosecond passes, the owners of the monitored lines that have been written see them, the roots of barriers that an
abort has reached decide, and a command that its source held acts. -/
def State.idle (s : State) : State :=
  let s := s.tick
  let s := s.ifRoom s.wakeUp
  (s.ifRoom s.rootsDecide).runHeld

end Sys2Proof.Machine
end

