-- ==== Sys2Proof/Safety.lean ====
section
/-! DEFINITION. What counts as a safe step and a safe run: none ends in a fault or a refusal. -/

namespace Sys2Proof

/-- A step that ends in a next state. -/
def Safe (s : Machine.State) : Prop := ∃ s', Machine.step s = .next s'

/-- `k` steps all end in a next state. -/
def SafeFor : Nat → Machine.State → Prop
  | 0, _ => True
  | k + 1, s => ∃ s', Machine.step s = .next s' ∧ SafeFor k s'

/-- The canonical forms of the state: of memory, of its check bits and of the object dictionary's store. -/
abbrev Canonical (s : Machine.State) : Prop := Machine.Memory.wf s ∧ SMap.Wf Machine.odDefault s.od

namespace Machine

/-- The start has come no further than its order allows (R411, R413, R414): no cluster before the last stack, and no work
before the last cluster. -/
structure Dev.Staged (d : Dev) : Prop where
  hbm : d.hbmDone ≤ 8
  clusters : d.clustersOn ≤ 8
  order : 0 < d.clustersOn → d.hbmDone = 8
  works : d.state = .ready ∨ d.state = .running ∨ d.state = .draining → d.clustersOn = 8

/-- What every step keeps. -/
structure Invariant (s : State) : Prop where
  canonical : Canonical s
  staged : s.dev.Staged

/-! ### The terms of the statements about thread instructions -/

/-- A group that issues its next instruction: it is resident and not held, its core is not halted and the device works,
no stop is due, fetching at its PC raises nothing and finds its word clean, and its core's event buffer has room (R393). -/
structure Ready (s : State) (g : GroupRef) (gr : Group) : Prop where
  issuer : s.issuer g = some gr
  run : s.stopDue g.core = false
  fetch : s.fetch g.core gr = (none, s)
  room : s.log.closed (coreSource g.core) = false

/-- An instruction word: the bits above the opcode, and the opcode. -/
abbrev opWord (f : BitVec 48) (opcode : Nat) : BitVec 64 := f ++ BitVec.ofNat 16 opcode

/-- The lane executes the guarded instruction: it is active and passes the guard (R177). -/
def Group.runs (gr : Group) (w : BitVec 64) (i : Nat) : Bool := gr.active.getLsbD i && gr.guard w i

/-- From `s` to `t` the counters of core `n` may have counted, and no other counter or entry has changed: its set, and the
slots that its instructions have used. -/
structure CoreCounts (s t : State) (n : Nat) : Prop where
  tally : t.tally = { s.tally with slots := t.tally.slots }
  slots : ∃ us : List SlotUse, t.tally.slots = s.tally.slots ++ us ∧ ∀ u ∈ us, u.core = n
  od : ∀ k, (∀ i < 8, k ≠ Od.key (coreSet n) (0x02 + i)) → k ≠ Od.key (coreSet n) 0x12 → t.odGet k = s.odGet k

/-- From `s` to `t` nothing changes but cores and the performance counters of core `n`; of the cores only `n`. -/
structure CoreFrame (s t : State) (n : Nat) : Prop extends CoreCounts s t n where
  rest : t = { s with cores := t.cores, od := t.od, tally := t.tally }
  memory : ∀ a, t.memByte a = s.memByte a
  cores : ∀ m, m ≠ n → t.core m = s.core m

/-- From `s` to `t` nothing changes but one group and the performance counters of its core. -/
structure GroupFrame (s t : State) (g : GroupRef) : Prop extends CoreFrame s t g.core where
  core : t.core g.core = { s.core g.core with groups := (t.core g.core).groups }
  groups : ∀ sl, sl ≠ g.slot → t.group? ⟨g.core, sl⟩ = s.group? ⟨g.core, sl⟩

/-- The command ends in a next state in which the group is `q` and, beside it, only counters of its core changed. -/
def GroupBecomes (c : Instr) (s : State) (g : GroupRef) (q : Group) : Prop :=
  ∃ t, exec c s = .next t ∧ t.group? g = some q ∧ GroupFrame s t g

/-- The same, for a group of which only the PC and v registers are told: PC + 8, and VD of each executing lane. -/
def LanesBecome (c : Instr) (s : State) (g : GroupRef) (gr : Group) (vd : Nat) (runs : Nat → Bool) (x : Nat → BitVec 32) :
    Prop :=
  ∃ q, GroupBecomes c s g q ∧ q = { gr with pc := gr.pc + 8, v := q.v } ∧
    ∀ i < 32, ∀ r < 256, q.vGet i r = if r = vd ∧ runs i then x i else gr.vGet i r

/-- The same for predicates. -/
def PredsBecome (c : Instr) (s : State) (g : GroupRef) (gr : Group) (pd : Nat) (runs : Nat → Bool) (x : Nat → Bool) :
    Prop :=
  ∃ q, GroupBecomes c s g q ∧ q = { gr with pc := gr.pc + 8, p := q.p } ∧
    ∀ i < 32, ∀ k < 8, q.pGet i k = if k = pd ∧ runs i then x i else gr.pGet i k

/-- The same for one u register. -/
def UniformBecomes (c : Instr) (s : State) (g : GroupRef) (gr : Group) (ud : Nat) (x : BitVec 64) : Prop :=
  ∃ q, GroupBecomes c s g q ∧ q = { gr with pc := gr.pc + 8, u := q.u } ∧
    ∀ r, q.uGet r = if r = ud then x else gr.uGet r

/-- The command raises an exception: the group has taken `e` for the word, and nothing else is done but the count of a
slot that did not issue. -/
def Raises (c : Instr) (s : State) (g : GroupRef) (cls : Nat) (w : BitVec 64) (e : Exc) : Prop :=
  exec c s = .next ((s.countSlot g.core 0x0302 cls).takeExc g w e)

/-- `n` bytes of memory from address `a`. -/
def State.memBytes (s : State) (a n : Nat) : List Byte := (List.range n).map fun k => s.memByte (a + k)

/-- A word that reads clean and unpoisoned, and in which no engine write is in flight (R231, R232). -/
structure CleanWord (s : State) (w : Nat) : Prop where
  code : checkWord (s.rawWord w) = .clean
  poison : codePoison (s.rawWord w) = false
  still : s.racyAt w = none

/-- Every word that the bytes `a` to `a + n - 1` touch is clean. -/
def CleanBytes (s : State) (a n : Nat) : Prop := ∀ w ∈ spanWords a n, CleanWord s w

/-- The local address that a lane of a local-memory instruction names, where it is aligned and inside local memory. -/
structure LocalAt (w : BitVec 64) (g : GroupRef) (gr : Group) (n : Nat) (i a : Nat) : Prop where
  addr : localAddr w gr i = ((a - localBase g.core : Nat) : Int)
  base : localBase g.core ≤ a
  inside : a < localBase g.core + localEnd
  aligned : (a - localBase g.core) % n = 0

/-- As `GroupFrame`, for an instruction that stores: memory outside `P` reads as before, running operations of the core may
note what a word held before (R151), and a monitor of a line that it stores to sees that (R67). -/
structure StoreFrame (s t : State) (g : GroupRef) (P : Nat → Prop) : Prop extends CoreCounts s t g.core where
  rest : t = { s with
    cores := t.cores, od := t.od, tally := t.tally, mem := t.mem, side := t.side
    disp := { s.disp with woken := t.disp.woken } }
  seen : ∀ m ∈ t.disp.woken, m ∈ s.disp.woken ∨ ∃ a, P a ∧ (a / 128, m) ∈ s.disp.armed
  memory : ∀ a, ¬P a → t.memByte a = s.memByte a
  cores : ∀ m, m ≠ g.core → t.core m = s.core m
  core : t.core g.core = { s.core g.core with groups := (t.core g.core).groups, ops := (t.core g.core).ops }
  groups : ∀ sl, sl ≠ g.slot → t.group? ⟨g.core, sl⟩ = s.group? ⟨g.core, sl⟩

/-- The token that an instruction takes: the FREE one it names, or with TOK = 31 the lowest FREE one (R152). -/
def TakesToken (s : State) (core : Nat) (w : BitVec 64) (tok : Nat) : Prop :=
  (s.core core).token? tok = none ∧ tok < 24 ∧
    (fTok w = tok ∨ (fTok w = 31 ∧ ∀ k < tok, (s.core core).token? k ≠ none))

/-- From `s` to `t` an operation of the group joins the queue of its core with token `tok`, which is BUSY; it holds copies of
its descriptors; the group goes on at PC + 8, and u[UDST] holds the token's number where TOK was 31. -/
structure JoinsQueue (s t : State) (g : GroupRef) (gr : Group) (w : BitVec 64) (kind : OpKind) (tok : Nat) : Prop where
  rest : t = { s with cores := t.cores }
  cores : ∀ m, m ≠ g.core → t.core m = s.core m
  core : t.core g.core = { s.core g.core with
    groups := (t.core g.core).groups, tokens := (t.core g.core).tokens, ops := (t.core g.core).ops
    wTags := (t.core g.core).wTags }
  groups : ∀ sl, sl ≠ g.slot → t.group? ⟨g.core, sl⟩ = s.group? ⟨g.core, sl⟩
  group : ∃ q, t.group? g = some q ∧ q = { gr with pc := gr.pc + 8, u := q.u } ∧
    ∀ r, q.uGet r = if fTok w = 31 ∧ r = fUDST w then BitVec.ofNat 64 tok else gr.uGet r
  tokens : ∀ k, (t.core g.core).token? k = if k = tok then some ⟨false, g.slot, 0, 0⟩ else (s.core g.core).token? k
  op : ∃ o, (t.core g.core).ops = (s.core g.core).ops ++ [o] ∧ o.kind = kind ∧ o.tok = tok ∧ o.owner = g.slot ∧
    o.word = w ∧ o.started = false ∧ o.d0 = gr.dGet (fD0 w) ∧ (kind = .drn ∨ kind = .chRun → o.d1 = gr.dGet (fD1 w))

/-! ### The terms of the statements about remote instructions -/

/-- No executing lane meets a condition of a remote instruction at issue (R265), none waits there for an earlier multicast
store of the group (R271), and no monitored line has been written that its owner has yet to see. -/
structure RemoteOk (s : State) (g : GroupRef) (f : RemoteForm) (w : BitVec 64) (gr : Group) : Prop where
  lanes : ∀ i < 32, gr.runs w i = true →
    (remoteAddr f w gr i).toNat % f.n = 0 ∧ s.remoteKeyFail g.core f w gr i = none
  order : s.storeWaits g f w gr (gr.execLanes w) = false
  seen : s.disp.woken = []

/-- Traffic of any job passes a port: its link carries packets, no fence stands on it, and the plan does not list it as
missing (R250, R260, R382). -/
def State.opens (s : State) (p : Nat) : Prop :=
  (s.port p).state.carries = true ∧ s.fenced p = false ∧ s.listedMissing p = false

/-- Every executing lane names another device, which the plan reaches by a port that its traffic passes. -/
def Elsewhere (s : State) (f : RemoteForm) (w : BitVec 64) (gr : Group) : Prop :=
  ∀ i < 32, gr.runs w i = true →
    let d := (s.subst (addrPlace (remoteAddr f w gr i))).coord
    d ≠ s.self ∧ ∃ r, s.route s.place (Place.ofCoord d) = some r ∧ s.opens r.port

/-- A packet of this device waits in a port. -/
def State.waitsIn (s : State) (p : Nat) (P : Packet → Prop) : Prop := ∃ q ∈ (s.port p).txq, P q.packet

/-- From `s` to `t` a transaction has been opened for each element of `l`, in order: the tracker holds it, and its packets
wait in the port by which its route leaves, one for its first bytes and one for each further run. Nothing else has changed
but the group and counters: those of its core, and that of the packets that take a detour (R257). -/
structure TxsOpened (s t : State) (g : GroupRef) (op : BitVec 8) (own : LaneTx → TxOwner) (l : List LaneTx) : Prop where
  tally : t.tally = { s.tally with slots := t.tally.slots }
  slots : ∃ us : List SlotUse, t.tally.slots = s.tally.slots ++ us ∧ ∀ u ∈ us, u.core = g.core
  od : ∀ k, (∀ i < 8, k ≠ Od.key (coreSet g.core) (0x02 + i)) → k ≠ Od.key (coreSet g.core) 0x12 →
    k ≠ Od.detourPackets → t.odGet k = s.odGet k
  detours : (∀ d r, s.route s.place d = some r → r.waypoint = none) → t.odGet Od.detourPackets = s.odGet Od.detourPackets
  opened : ∃ es : List Tx, t.fab.tracker = s.fab.tracker ++ es ∧ es.length = l.length ∧
    ∀ (i : Nat) (x : LaneTx) (e : Tx), l[i]? = some x → es[i]? = some e →
      e.op = op ∧ e.size = x.len ∧ e.addr.extractLsb' 0 40 = x.addr.extractLsb' 0 40 ∧ e.owner = own x ∧
      e.dst = (s.subst (addrPlace x.addr)).coord ∧ e.deadline = s.clk.now + 1000 * s.odGet Od.remoteTimeout ∧
      (e.left = if x.more = [] then []
        else ((x.addr, x.payload) :: x.more).map fun m => (addrLocal m.1, m.2.length)) ∧
      (t.waitsIn e.port fun pk => pk.tag = BitVec.ofNat 12 e.tag ∧ pk.op = op ∧ pk.addr = x.addr.extractLsb' 0 40 ∧
        pk.payload = x.payload ∧ pk.len = x.len ∧ pk.dst = e.dst ∧ pk.src = s.self) ∧
      ∀ m ∈ x.more, t.waitsIn e.port fun pk => pk.tag = BitVec.ofNat 12 e.tag ∧ pk.op = op ∧
        pk.addr = m.1.extractLsb' 0 40 ∧ pk.payload = m.2 ∧ pk.len = m.2.length ∧ pk.dst = e.dst ∧ pk.src = s.self
  rest : t = { s with cores := t.cores, od := t.od, tally := t.tally, fab := t.fab }
  cores : ∀ m, m ≠ g.core → t.core m = s.core m
  core : t.core g.core = { s.core g.core with groups := (t.core g.core).groups }
  groups : ∀ sl, sl ≠ g.slot → t.group? ⟨g.core, sl⟩ = s.group? ⟨g.core, sl⟩
  memory : ∀ a, t.memByte a = s.memByte a

/-- A request that passes every check at its target, of `n` bytes of clean words outside the COHERENT regions (R262, R269,
R270). -/
structure Accepted (s : State) (r : Req) (n : Nat) : Prop where
  shape : ∃ acc align, reqShape r.op r.len = some (n, acc, align, r.payload.length) ∧ r.addr % align = 0 ∧
    s.keyCheck r.addr n r.key acc r.priv.toNat r.inport.isSome = none
  mapped : s.mapped (s.jobSide r.job) r.addr n = true
  size : 0 < n ∧ n ≤ 256
  granule : r.addr / 256 = (r.addr + n - 1) / 256
  level : r.priv ≠ 3
  channel : s.channelClosed r.addr = false
  memory : regionOf r.addr ≠ .window
  adds : opIsAdd r.op = true → (s.addMask r).testBit r.tc.toNat = true
  plain : ∀ e, s.region? r.addr n = some e → regCoherent e = false
  clean : CleanBytes s r.addr n
  reads : s.hbmReadFails = []

/-- The request of a part of an instruction's transaction, as the device's own memory takes it (R261, R264). -/
def State.laneReq (s : State) (g : GroupRef) (f : RemoteForm) (w : BitVec 64) (gr : Group) (q : LaneTx) : Req :=
  packetReq ((laneNewTx s g f w gr q (.held g.core g.slot q.lanes)).packet s.self 0) none

/-- Bytes that a request of a part acts on: a CAS sends the value to compare beside the new one. -/
def LaneTx.target (q : LaneTx) (f : RemoteForm) : Nat := if f.op = 0x03 then 8 else q.len

/-- Every transaction of the instruction is for the device's own memory, which accepts each part of it. -/
def OwnMemory (s : State) (g : GroupRef) (f : RemoteForm) (w : BitVec 64) (gr : Group) (txs : List LaneTx) : Prop :=
  ∀ t ∈ txs, s.ownPlace t.addr = true ∧ ∀ q ∈ t.parts f w gr, Accepted s (s.laneReq g f w gr q) (q.target f)

/-- What `n` bytes hold after a request of an OP that found `before` there (R262, R268). -/
def opLeaves (op : BitVec 8) (n : Nat) (before payload : List Byte) : List Byte :=
  if op = 0x01 then before
  else if op = 0x03 then (if before = payload.take 8 then payload.drop 8 else before)
  else if op = 0x05 then natBytes 8 (bytesNat before + bytesNat payload)
  else if 0x10 ≤ op ∧ op ≤ 0x16 then natBytes n (reduceBits op (bytesNat before) (bytesNat payload))
  else payload

/-- Requests of an OP, each with its address, bytes and payload, that a memory serves one after the other: what each found,
and the memory at the end. -/
def servedInOrder (op : BitVec 8) : List (Nat × Nat × List Byte) → (Nat → Byte) → List (List Byte) × (Nat → Byte)
  | [], m => ([], m)
  | (a, n, p) :: l, m =>
    let before := (List.range n).map fun k => m (a + k)
    let after := opLeaves op n before p
    let r := servedInOrder op l fun b => if a ≤ b ∧ b < a + n then after.getD (b - a) 0 else m b
    (before :: r.1, r.2)

/-- The parts of transactions, served in order by the device's own memory. -/
def State.ownServed (s : State) (f : RemoteForm) (w : BitVec 64) (gr : Group) (txs : List LaneTx) :
    List (List Byte) × (Nat → Byte) :=
  servedInOrder f.op ((txs.flatMap fun t => t.parts f w gr).map fun q => (addrLocal q.addr, q.target f, q.payload)) s.memByte

/-- From `s` to `t` nothing changes but the group, memory, what sees a store, and counts: those of the performance counters
and of the arrival-order adds. -/
structure OwnFrame (s t : State) (g : GroupRef) : Prop where
  rest : t = { s with
    cores := t.cores, od := t.od, mem := t.mem, side := t.side, fab := { s.fab with nextSeq := t.fab.nextSeq }
    disp := { s.disp with woken := t.disp.woken } }
  od : ∀ k, k / 256 < 0x3100 ∨ 0x3300 ≤ k / 256 → k ≠ Od.arrivalAddCount → t.odGet k = s.odGet k
  cores : ∀ n, t.core n = { s.core n with groups := (t.core n).groups, ops := (t.core n).ops }
  groups : ∀ h, h ≠ g → t.group? h = s.group? h

/-- The command is taken from its ring, of the opcode, and its checks are next (R72); every log has room (R393). -/
structure DueCmd (s : State) (cmd : Nat) (op : BitVec 16) (c : Cmd) : Prop where
  room : s.log.roomy = true
  taken : s.cmd? cmd = some c
  opcode : c.opcode = op
  turn : s.checkable c = true

/-- A control flit for this device, from coordinates that no port has fenced (R302, R382); every log has room (R393). -/
structure FlitHere (s : State) (fl : CollFlit) : Prop where
  room : s.log.roomy = true
  on : s.fabricOn = true
  unfenced : s.fencedPlace fl.src = false
  here : fl.dest = s.self

/-- A packet for this device that comes in by a port, from coordinates that no port has fenced; `t` is the state with it
taken from the port; every log has room (R393). -/
structure PacketHere (s : State) (p : Nat) (pk : Packet) (t : State) : Prop where
  room : s.log.roomy = true
  taken : s.takeRx p pk = some t
  unfenced : t.fencedPlace pk.src = false
  here : pk.dst = t.self
  routed : pk.wpValid = false

/-! ### The terms of the statements about handoffs -/

/-- A global address of another device, which the plan reaches by a port that its traffic passes. -/
def Reaches (s : State) (a : Nat) : Prop :=
  let d := (s.subst (Place.ofCoord (globalPlace a).coord)).coord
  d ≠ s.self ∧ ∃ r, s.route s.place (Place.ofCoord d) = some r ∧ s.opens r.port

/-- In `t` a WRITE of `bs` to the global address is under way: the tracker holds it, and its packet waits in a port. -/
def Opens (s t : State) (a : Nat) (bs : List Byte) (own : TxOwner) : Prop :=
  ∃ e ∈ t.fab.tracker, e.op = 0x02 ∧ e.addr.extractLsb' 0 40 = BitVec.ofNat 40 a ∧ e.size = bs.length ∧ e.owner = own ∧
    e.dst = (s.subst (Place.ofCoord (globalPlace a).coord)).coord ∧
    t.waitsIn e.port fun pk => pk.tag = BitVec.ofNat 12 e.tag ∧ pk.op = 0x02 ∧ pk.addr = BitVec.ofNat 40 a ∧ pk.payload = bs

/-- A SEND or RECV that meets no condition of R368, on a channel that runs no HANDOFF and for which none waits. -/
structure HandoffOk (s : State) (c : Cmd) : Prop where
  fields : c.bad = false ∧ c.hoReserved = false ∧ c.hoSeq ≠ 0xFFFFFFFF
  job : c.job ≠ 0 ∧ c.job.toNat = s.odGet (Od.hoJob c.hoChannel)
  role : s.odGet (Od.hoRole c.hoChannel) = c.hoFunc
  running : s.odGet (Od.hoState c.hoChannel) = 1
  entry : s.hoInvalid c.hoChannel (s.jobSide c.job) = false
  inside : s.hoLeaves c.hoChannel c.job = false
  source : c.hoFunc = 0 → c.hoLen % 256 = 0 ∧ 256 ≤ c.hoLen ∧ c.hoSrc % 256 = 0 ∧
    s.inHbm (s.jobSide c.job) c.hoSrc c.hoLen = true ∧ s.mapped (s.jobSide c.job) c.hoSrc c.hoLen = true ∧
    s.rangeChecks [(c.hoSrc, c.hoLen, c.hoKey, .read)] = []
  idle : (s.channel c.hoChannel).active = none
  alone : ∀ q ∈ s.disp.cmds, q.opcode = 0x0040 → q.hoFunc < 2 → q.hoChannel = c.hoChannel → q.serial = c.serial ∨ q.phase = .started

/-- Line 0 of a receiver's control block shows the whole micro-batch of a SEQ (R369). -/
def State.wholeBatch (s : State) (h : Nat) (seq : BitVec 32) : Prop :=
  let field := fun lo n => bytesNat (s.memBytes (s.hoCtrl h + lo) n)
  field 16 4 = seq.toNat ∧ field 20 4 = (field 24 8 + s.hoChunkSize h - 1) / s.hoChunkSize h

/-! ### The terms of the statements about writes to the object dictionary -/

/-- A write is heard on its path, its level allows it, and its entry exists (R39, R43, R44); every log has room (R393). -/
structure Reached (s : State) (via : OdPath) (idx sub v : Nat) : Prop where
  room : s.log.roomy = true
  heard : s.pathOpen via = true
  level : s.writeDenied via idx sub v = false
  range : (odRange? idx).isSome = true
  entry : ∃ r, s.odRow? idx sub = some r

/-- The access right, the state of the device and the value allow it too (R37, R38, R39, R47). -/
structure Admitted (s : State) (via : OdPath) (idx sub v : Nat) : Prop extends Reached s via idx sub v where
  value : ∀ r, s.odRow? idx sub = some r → s.accessOk r.access = true ∧ r.ty.accepts v = true ∧ r.check.accepts v = true

/-- The write is answered with the status on its path; `P` holds of the state that its effect leaves. -/
def Answers (c : Instr) (s : State) (via : OdPath) (idx sub : Nat) (st : Status) (P : State → Prop) : Prop :=
  ∃ u : State, exec c s = .next (u.answerWrite via idx sub st) ∧ P u

/-- A write that no entry can take, for its form, is still answered DENIED or NOT_FOUND where its level or its entry is
wrong, and else REFUSED (R11, R39); `u` is the state that the answer is given in. -/
structure Refuses (c : Instr) (s u : State) (via : OdPath) (idx sub : Nat) : Prop where
  denied : s.log.roomy = true → s.writeDenied via idx sub 0 = true →
    exec c s = .next (u.answerWrite via idx sub Status.denied)
  notFound : s.log.roomy = true → s.writeDenied via idx sub 0 = false → odRange? idx = none ∨ s.odRow? idx sub = none →
    exec c s = .next (u.answerWrite via idx sub Status.notFound)
  refused : Reached s via idx sub 0 → exec c s = .next (u.answerWrite via idx sub Status.refused)

/-- One event is logged, of the kind and severity. -/
def Logs (s t : State) (kind : BitVec 14) (sev : BitVec 2) : Prop :=
  ∃ e, t.log.ingress = s.log.ingress ++ [e] ∧ e.kind = kind ∧ e.severity = sev

/-! ### The terms of the statements about power and start -/

/-- From `f` to `g` area `i` of the flash is written: it holds these bytes at its beginning and is else erased, and every byte
outside it is as it was (R427). -/
def Flash.Written (f g : Flash) (i : Nat) (bs : List Byte) : Prop :=
  let o := (flashArea i).offset
  ∀ x, g.byte x = if o ≤ x ∧ x < o + flashBytes i then bs.getD (x - o) 0xFF else f.byte x

/-- From `s` the device goes into OFF: nothing volatile is left, and the flash and what came out of the device stay (R410). -/
structure GoesOff (s u : State) : Prop where
  state : u.dev.state = .off
  clock : u.clk.now = 0
  empty : u.od = [] ∧ u.mem = [] ∧ u.side = [] ∧ u.cores = [] ∧ u.disp.cmds = [] ∧ u.fab.tracker = [] ∧
    u.log.ingress = [] ∧ u.log.ondie = [] ∧ u.selftest = none
  kept : u.flash = s.flash ∧ u.out = s.out ∧ u.pending = s.pending

/-- From `s` the device starts: BOOT, with the timebase at zero, nothing volatile kept, the straps sampled, the identity
derived, and PCI Express training unless PERST_N is low (R408 to R410, R435). -/
structure Boots (s u : State) : Prop where
  state : u.dev.state = .boot
  clock : u.clk.now = 0
  empty : u.mem = [] ∧ u.side = [] ∧ u.cores = [] ∧ u.disp.cmds = [] ∧ u.fab.tracker = [] ∧ u.selftest = none
  straps : u.odGet Od.strapValue = s.dev.straps.toNat ∧ u.odGet Od.plcaNodeId = s.dev.straps.toNat % 32
  link : u.dev.linkUp = s.dev.perstN
  identity : u.sec.identityKey = s.flash.deriveKey ∧ u.odGet Od.identityState = s.flash.identityState
  kept : u.flash = s.flash ∧ u.out = s.out ∧ u.pending = s.pending

/-- An event of the kind is among those that wait for the collector. -/
def Logged (t : State) (kind : BitVec 14) (P : Event → Prop) : Prop := ∃ e ∈ t.log.ingress, e.kind = kind ∧ P e

/-- A Theost frame comes in from a client, of a version and type that the device serves (R54); every log has room (R393). -/
structure Heard (s : State) (fr : TheostFrame) (ftype : BitVec 8) : Prop where
  room : s.log.roomy = true
  speaks : s.dev.state ≠ .off ∧ s.dev.state ≠ .boot
  ether : fr.etherType = 0x88B5
  version : fr.version = 0x01
  ftype : fr.ftype = ftype

/-- And it is a new request, for which there is a place (R56). -/
structure Fresh (s : State) (fr : TheostFrame) (ftype : BitVec 8) : Prop extends Heard s fr ftype where
  kept : s.keptFor fr = none
  idle : s.inService fr = false
  place : s.placesFull = false

/-- The command sends one frame; nothing else comes out of the device. -/
def Sends (c : Instr) (s : State) (P : State → OutFrame → Prop) : Prop :=
  ∃ u f, exec c s = .next u ∧ u.out = .frame f.dst f.bytes :: s.out ∧ P u f

end Machine

end Sys2Proof
end

