-- ==== Sys2Proof/Certificates/Slice0/Obligations.lean ====
section
/-! DEFINITION. The statements for the provers. Each docstring names the rules that the statement rests on. -/

open Sys2Proof Sys2Proof.Machine

/-! ### Thread arithmetic (R177, R178, R180) -/

/-- R180: the two-operand integer instructions. In every executing lane VD takes the value of the table from VA and VB;
nothing else of the group changes but its PC, and nothing outside the group but counters of its core.
R180: the other instructions that write VD with an integer value. IMM19 is bits [63:45], sign-extended (R178). -/
def Obligations.IntegerResults : Prop :=
  (∀ (g : GroupRef) (f : BitVec 48) (s : State) (gr : Group), Ready s g gr →
    let w := opWord f 0
    let a := fun i => gr.vGet i (fVA w)
    let b := fun i => gr.vGet i (fVB w)
    let result := fun c x => LanesBecome c s g gr (fVD w) (gr.runs w) x
    fVD w < s.vregs g.core → fVA w < s.vregs g.core → fVB w < s.vregs g.core →
    result (.intAdd g f) (fun i => a i + b i) ∧
    result (.intSub g f) (fun i => a i - b i) ∧
    result (.intMul g f) (fun i => a i * b i) ∧
    result (.intAnd g f) (fun i => a i &&& b i) ∧
    result (.intOr g f) (fun i => a i ||| b i) ∧
    result (.intXor g f) (fun i => a i ^^^ b i) ∧
    result (.intShl g f) (fun i => a i <<< ((b i).toNat % 32)) ∧
    result (.intShr g f) (fun i => a i >>> ((b i).toNat % 32)) ∧
    result (.intShra g f) (fun i => (a i).sshiftRight ((b i).toNat % 32)) ∧
    result (.intMin g f) (fun i => if (a i).toInt ≤ (b i).toInt then a i else b i) ∧
    result (.intMax g f) (fun i => if (a i).toInt ≤ (b i).toInt then b i else a i)) ∧
  ∀ (g : GroupRef) (f : BitVec 48) (s : State) (gr : Group), Ready s g gr →
    let w := opWord f 0
    let a := fun i => gr.vGet i (fVA w)
    let b := fun i => gr.vGet i (fVB w)
    let c := fun i => gr.vGet i (fVC w)
    let imm : BitVec 32 := (w.extractLsb' 45 19).signExtend 32
    let result := fun k x => LanesBecome k s g gr (fVD w) (gr.runs w) x
    fVD w < s.vregs g.core →
    result (.vLdi g f) (fun _ => imm) ∧
    (fVA w < s.vregs g.core →
      result (.vMov g f) a ∧
      result (.intAddi g f) (fun i => a i + imm) ∧
      result (.vLdhi g f) (fun i => (w.extractLsb' 45 13) ++ ((a i).extractLsb' 0 19 : BitVec 19)) ∧
      (fVB w < s.vregs g.core →
        result (.vPick g f) (fun i => if gr.pGet i (fld w 45 3) then a i else b i) ∧
        (fVC w < s.vregs g.core → result (.intMuladd g f) (fun i => a i * b i + c i))))

/-- R180: the FP32 instructions. A sum, product or fused sum is exact and is then rounded once to nearest, ties to even. A
minimum or maximum gives the other operand where one is NaN, and ranks -0 below +0. A conversion to integer truncates and
saturates, and gives 0 for NaN. -/
def Obligations.FloatResults : Prop :=
  ∀ (g : GroupRef) (f : BitVec 48) (s : State) (gr : Group), Ready s g gr →
    let w := opWord f 0
    let a := fun i => gr.vGet i (fVA w)
    let b := fun i => gr.vGet i (fVB w)
    let c := fun i => gr.vGet i (fVC w)
    let result := fun k x => LanesBecome k s g gr (fVD w) (gr.runs w) x
    fVD w < s.vregs g.core → fVA w < s.vregs g.core →
    result (.cvtItof g f) (fun i => f32Of (.ofInt (a i).toInt)) ∧
    (∃ x, result (.cvtFtoi g f) x ∧ ∀ i,
      (∀ p, f32Val (a i) = .nan p → x i = 0) ∧
      (f32Val (a i) = .inf false → (x i).toInt = 2 ^ 31 - 1) ∧ (f32Val (a i) = .inf true → (x i).toInt = -2 ^ 31) ∧
      ∀ n m e, f32Val (a i) = .fin n m e → (x i).toInt = max (-2 ^ 31) (min (2 ^ 31 - 1) (Val.toIntTrunc (.fin n m e)))) ∧
    (fVB w < s.vregs g.core →
      result (.fpAdd g f) (fun i => f32Of ((f32Val (a i)).add (f32Val (b i)))) ∧
      result (.fpMul g f) (fun i => f32Of ((f32Val (a i)).mul (f32Val (b i)))) ∧
      (∃ lo hi, result (.fpMin g f) lo ∧ result (.fpMax g f) hi ∧ ∀ i,
        let x := f32Val (a i)
        let y := f32Val (b i)
        (x.isNaN → ¬y.isNaN → lo i = b i ∧ hi i = b i) ∧ (¬x.isNaN → y.isNaN → lo i = a i ∧ hi i = a i) ∧
        (¬x.isNaN → ¬y.isNaN → x.cmp y < 0 → lo i = a i ∧ hi i = b i) ∧
        (¬x.isNaN → ¬y.isNaN → 0 < x.cmp y → lo i = b i ∧ hi i = a i) ∧
        (a i = 0x80000000 → b i = 0 → lo i = 0x80000000 ∧ hi i = 0) ∧
        (a i = 0 → b i = 0x80000000 → lo i = 0x80000000 ∧ hi i = 0)) ∧
      (fVC w < s.vregs g.core →
        result (.fpMuladd g f) (fun i => f32Of (((f32Val (a i)).mul (f32Val (b i))).add (f32Val (c i))))))

/-- R178, R180: INT.CMP and FP.CMP write the predicate that MOD [55:53] names, under the condition of MOD [58:56]. An FP.CMP
of a NaN is false, except NE. -/
def Obligations.CompareResults : Prop :=
  ∀ (g : GroupRef) (f : BitVec 48) (s : State) (gr : Group), Ready s g gr →
    let w := opWord f 0
    let a := fun i => gr.vGet i (fVA w)
    let b := fun i => gr.vGet i (fVB w)
    let cond := fld w 56 3
    let holds := fun (lt eq : Prop) =>
      (cond = 0 ∧ eq) ∨ (cond = 1 ∧ ¬eq) ∨ (cond = 2 ∧ lt) ∨ (cond = 3 ∧ (lt ∨ eq)) ∨ (cond = 4 ∧ ¬lt ∧ ¬eq) ∨ (cond = 5 ∧ ¬lt)
    fVA w < s.vregs g.core → fVB w < s.vregs g.core → cond ≤ 5 →
    (∃ x, PredsBecome (.intCmp g f) s g gr (fld w 53 3) (gr.runs w) x ∧
      ∀ i, x i = true ↔ holds ((a i).toInt < (b i).toInt) (a i = b i)) ∧
    (∃ x, PredsBecome (.fpCmp g f) s g gr (fld w 53 3) (gr.runs w) x ∧ ∀ i,
      let p := f32Val (a i)
      let q := f32Val (b i)
      (p.isNaN ∨ q.isNaN → (x i = true ↔ cond = 1)) ∧
      (¬p.isNaN → ¬q.isNaN → (x i = true ↔ holds (p.cmp q < 0) (p.cmp q = 0))))

/-- R176, R178, R179, R12: an instruction that names a register at or above VREGS raises ILLEGAL_INSTRUCTION with detail
0x03, a compare under the condition 6 or 7 with detail 0x02; the group takes the exception and nothing is written. An opcode
that no table defines completes in the one way that R179 gives it: its group takes ILLEGAL_INSTRUCTION with detail 0x01.
R198, R199, R174, R12: a group that raises an exception issues nothing further, and its exception is counted and logged.
In its LAUNCH the exceptions are counted and the first cause is kept, as LAUNCH_COMMIT reports them. Under EXC_POLICY 0 every
group of the LAUNCH on every core is due to stop at its next issue; under EXC_POLICY 1 the others run on. The 64-byte record
of R199 stands in the next slot of the exception area, or, where that is full, EXC_AREA_FULL is logged once. -/
def Obligations.Exceptions : Prop :=
  (∀ (g : GroupRef) (f : BitVec 48) (s : State) (gr : Group), Ready s g gr →
    let w := opWord f 0
    let vregs := s.vregs g.core
    (∀ word, exec (.undefinedOpcode g word) s =
      .next ((s.countSlot g.core 0x0302 5).takeExc g word (gr.exc cIllegal 0x01))) ∧
    (vregs ≤ fVD w ∨ vregs ≤ fVA w ∨ vregs ≤ fVB w →
      Raises (.intAdd g f) s g 0 (opWord f 0x0001) (gr.exc cIllegal 0x03) ∧
      Raises (.fpMul g f) s g 1 (opWord f 0x1002) (gr.exc cIllegal 0x03)) ∧
    (vregs ≤ fVD w → Raises (.vLdi g f) s g 0 (opWord f 0x0102) (gr.exc cIllegal 0x03)) ∧
    (5 < fld w 56 3 →
      Raises (.intCmp g f) s g 0 (opWord f 0x000D) (gr.exc cIllegal 0x02) ∧
      Raises (.fpCmp g f) s g 1 (opWord f 0x1006) (gr.exc cIllegal 0x02))) ∧
  (∀ (g : GroupRef) (w : BitVec 64) (e : Exc) (s : State) (gr : Group), s.group? g = some gr →
    let t := s.takeExc g w e
    (∀ q, t.group? g = some q → q.hold = .stopped) ∧ t.issuer g = none ∧
    t.odGet Od.thrExcCount = (s.odGet Od.thrExcCount + 1) % 2 ^ 64 ∧
    ∃ ev, ev ∈ t.log.ingress ∧ ev.kind = 0x0102 ∧ ev.srcType = 0x03 ∧ ev.severity = sevError ∧
      ev.payload.extractLsb' 0 8 = e.cause.setWidth 8 ∧ ev.payload.extractLsb' 8 8 = e.detail) ∧
  ∀ (g : GroupRef) (w : BitVec 64) (e : Exc) (s : State) (gr : Group) (l : Launch), s.group? g = some gr →
    s.launchOf g.core = some l →
    let t := s.takeExc g w e
    (∃ u, t.launchOf g.core = some u ∧ u.excCount = l.excCount + 1 ∧
      u.firstCause = (if l.excCount = 0 then e.cause else l.firstCause) ∧ u.aborted = l.aborted) ∧
    (l.excPolicy = false → ∀ core, (s.core core).launch = (s.core g.core).launch → t.stopDue core = true) ∧
    (l.excPolicy = true → ∀ core, t.stopDue core = s.stopDue core) ∧
    (l.excTime ≠ s.clk.now → l.excWritten < l.excSlots → l.excAddr % 64 = 0 → l.excAddr + 64 * l.excSlots ≤ hbmEnd →
      let r := BitVec.ofNat 512 (bytesNat (t.memBytes (l.excAddr + 64 * l.excWritten) 64))
      r.extractLsb' 448 64 = BitVec.ofNat 64 s.clk.now ∧ r.extractLsb' 416 32 = s.epoch 0 ∧
      (∀ c, s.cmd? l.cmd = some c → r.extractLsb' 384 32 = c.cmdId ∧ r.extractLsb' 368 16 = BitVec.ofNat 16 c.ring) ∧
      r.extractLsb' 360 8 = BitVec.ofNat 8 g.core ∧ r.extractLsb' 352 8 = BitVec.ofNat 8 g.slot ∧
      r.extractLsb' 320 32 = gr.active ∧ r.extractLsb' 288 32 = e.lanes ∧ r.extractLsb' 256 32 = 0 ∧
      r.extractLsb' 192 64 = w ∧ r.extractLsb' 128 64 = e.addr ∧ r.extractLsb' 64 64 = gr.pc.setWidth 64 ∧
      r.extractLsb' 40 24 = 0 ∧ r.extractLsb' 32 8 = e.aux ∧ r.extractLsb' 24 8 = e.detail ∧
      r.extractLsb' 16 8 = e.position.setWidth 8 ∧ r.extractLsb' 0 16 = e.cause.setWidth 16) ∧
    (l.excSlots ≤ l.excWritten → l.areaFull = false →
      ∃ ev ∈ t.log.ingress, ev.kind = 0x0104 ∧ ev.severity = sevWarning)

/-! ### Uniform, control, group-wide (R181 to R187) -/

/-- R181: the uniform and special instructions act on group state under any active mask. IMM25 is bits [63:39],
sign-extended. S2U of a defined code gives its value: the active mask, the slot, the core, the cluster, the time of the
timebase, the epoch of context 0, the core flag word. -/
def Obligations.UniformResults : Prop :=
  ∀ (g : GroupRef) (f : BitVec 48) (s : State) (gr : Group), Ready s g gr →
    let w := opWord f 0
    let code := fld w 39 8
    UniformBecomes (.uadd g f) s g gr (fUD w) (gr.uGet (fUA w) + gr.uGet (fUB w)) ∧
    UniformBecomes (.umovi g f) s g gr (fUD w) ((w.extractLsb' 39 25).signExtend 64) ∧
    (fVA w < s.vregs g.core → ∀ i < 32, gr.active.getLsbD i = true → (∀ j < i, gr.active.getLsbD j = false) →
      UniformBecomes (.v2u g f) s g gr (fUD w) ((gr.vGet i (fVA w)).setWidth 64)) ∧
    (fVD w < s.vregs g.core →
      LanesBecome (.u2v g f) s g gr (fVD w) (fun i => gr.active.getLsbD i) (fun _ => (gr.uGet (fUB w)).setWidth 32)) ∧
    (fVD w < s.vregs g.core → w.extractLsb' 39 25 = 0 →
      LanesBecome (.s2v g f) s g gr (fVD w) (fun i => gr.active.getLsbD i) (fun i => BitVec.ofNat 32 i)) ∧
    (∀ x, (code = 0x00 ∧ x = gr.active.setWidth 64) ∨ (code = 0x01 ∧ x = BitVec.ofNat 64 g.slot) ∨
        (code = 0x02 ∧ x = BitVec.ofNat 64 g.core) ∨ (code = 0x03 ∧ x = BitVec.ofNat 64 (g.core / 16)) ∨
        (code = 0x07 ∧ x = BitVec.ofNat 64 s.clk.now) ∨ (code = 0x08 ∧ x = (s.epoch 0).setWidth 64) ∨
        (code = 0x0A ∧ x = (s.core g.core).flagWord) →
      UniformBecomes (.s2u g f) s g gr (fUD w) x) ∧
    (0x0B < code → Raises (.s2u g f) s g 4 (opWord f 0x3005) (gr.exc cIllegal 0x02))

/-- R181: DLD takes 32 bytes of local memory at UA + IMM25 into a d register, lowest byte first. A misaligned address raises
ALIGNMENT and one outside local memory KEY_FAULT. -/
def Obligations.DescriptorLoad : Prop :=
  ∀ (g : GroupRef) (f : BitVec 48) (s : State) (gr : Group), Ready s g gr →
    let w := opWord f 0
    let a : Int := ((gr.uGet (fUA w)).toNat : Int) + (w.extractLsb' 39 25).toInt
    (∀ n : Nat, a = n → n % 32 = 0 → n < localEnd → CleanBytes s (localBase g.core + n) 32 →
      ∃ q, GroupBecomes (.dld g f) s g q ∧ q = { gr with pc := gr.pc + 8, d := q.d } ∧
        ∀ r, q.dGet r = if r = fDD w then BitVec.ofNat 256 (bytesNat (s.memBytes (localBase g.core + n) 32)) else gr.dGet r) ∧
    (a % 32 ≠ 0 → Raises (.dld g f) s g 4 (opWord f 0x3007) { gr.exc cAlignment 0x01 with addr := BitVec.ofInt 64 a }) ∧
    (a % 32 = 0 → a < 0 ∨ (localEnd : Int) ≤ a →
      Raises (.dld g f) s g 4 (opWord f 0x3007) { gr.exc cKey 0x01 with addr := BitVec.ofInt 64 a })

/-- R182, R183, R184: NOP, BRA, CALL, RPUSH and RJOIN. A BRA that divides the active threads pushes a pending entry and
goes on at the target with the branching ones; a push on a full stack and an RJOIN that finds no entry raise
ILLEGAL_INSTRUCTION. The target is PC + 8 × OFFSET. -/
def Obligations.ControlFlow : Prop :=
  ∀ (g : GroupRef) (f : BitVec 48) (s : State) (gr : Group), Ready s g gr →
    let w := opWord f 0
    let target : BitVec 40 := gr.pc + 8 * (w.extractLsb' 32 32).signExtend 40
    let taken := maskOf (gr.runs w)
    let rest := gr.active &&& ~~~taken
    GroupBecomes (.nop g f) s g { gr with pc := gr.pc + 8 } ∧
    (rest = 0 → GroupBecomes (.bra g f) s g { gr with pc := target }) ∧
    (rest ≠ 0 → taken = 0 → GroupBecomes (.bra g f) s g { gr with pc := gr.pc + 8 }) ∧
    (rest ≠ 0 → taken ≠ 0 → gr.stack.length < 32 →
      GroupBecomes (.bra g f) s g { gr with pc := target, active := taken, stack := ⟨true, gr.pc + 8, rest⟩ :: gr.stack }) ∧
    (gr.stack.length < 32 →
      GroupBecomes (.rpush g f) s g { gr with pc := gr.pc + 8, stack := ⟨false, target, gr.active⟩ :: gr.stack }) ∧
    (∀ dead e st, gr.stack = dead ++ e :: st → (∀ d ∈ dead, d.mask &&& gr.live = 0) → e.mask &&& gr.live ≠ 0 →
      GroupBecomes (.rjoin g f) s g { gr with pc := e.pc, active := e.mask &&& gr.live, stack := st }) ∧
    (∃ q, GroupBecomes (.call g f) s g q ∧ q = { gr with pc := target, u := q.u } ∧
      ∀ r, q.uGet r = if r = fUD w then (gr.pc + 8).setWidth 64 else gr.uGet r) ∧
    (32 ≤ gr.stack.length → Raises (.rpush g f) s g 5 (opWord f 0x4002) (gr.exc cIllegal 0x04)) ∧
    ((∀ d ∈ gr.stack, d.mask &&& gr.live = 0) → Raises (.rjoin g f) s g 5 (opWord f 0x4003) (gr.exc cIllegal 0x05) ∧
      ∀ t q, exec (.rjoin g f) s = .next t → t.group? g = some q → q.stack = gr.stack)

/-- R185: END takes its executing threads from the live mask, the active mask and every mask of the stack. The group
ends with its last live thread: where it has no token, no operation, no posted transaction, no failed one and no lock, it
leaves its slot at once. A group with no active thread left goes on as at an RJOIN, and raises what that raises.
R182: RET jumps to the address in UD, of which the PC keeps 40 bits (log 9). -/
def Obligations.EndAndReturn : Prop :=
  ∀ (g : GroupRef) (f : BitVec 48) (s : State) (gr : Group), Ready s g gr →
    let w := opWord f 0
    let gone := maskOf (gr.runs w)
    let live := gr.live &&& ~~~gone
    let active := gr.active &&& ~~~gone
    let stack := gr.stack.map fun e => { e with mask := e.mask &&& ~~~gone }
    (live ≠ 0 → active ≠ 0 →
      GroupBecomes (.endThreads g f) s g { gr with pc := gr.pc + 8, live := live, active := active, stack := stack }) ∧
    (live ≠ 0 → active = 0 → ∀ dead e st, stack = dead ++ e :: st → (∀ d ∈ dead, d.mask &&& live = 0) → e.mask &&& live ≠ 0 →
      GroupBecomes (.endThreads g f) s g { gr with pc := e.pc, live := live, active := e.mask &&& live, stack := st }) ∧
    (live = 0 → s.groupPosting g = false → gr.fails = [] → gr.locks = 0 → (s.core g.core).tokens = [] →
      ∃ t, exec (.endThreads g f) s = .next t ∧ t.group? g = none ∧ GroupFrame s t g) ∧
    (live ≠ 0 → active = 0 → (∀ d ∈ stack, d.mask &&& live = 0) →
      Raises (.endThreads g f) s g 5 (opWord f 0x4006) (gr.exc cIllegal 0x05)) ∧
    GroupBecomes (.ret g f) s g { gr with pc := (gr.uGet (fUD w)).setWidth 40 }

/-- R186: CBAR holds its group. Once every group of the core waits at the barrier, has ended or has stopped, CBAR_RELEASE
lets every waiting group go on at its next instruction; before that it does nothing (log 2). -/
def Obligations.CoreBarrier : Prop :=
  (∀ (g : GroupRef) (f : BitVec 48) (s : State) (gr : Group), Ready s g gr →
    GroupBecomes (.cbar g f) s g { gr with hold := .cbar, cbars := gr.cbars + 1 }) ∧
  ∀ (core : Nat) (s : State), s.working = true → ∃ t, exec (.cbarRelease core) s = .next t ∧
    t = { s with cores := t.cores } ∧ (∀ m, m ≠ core → t.core m = s.core m) ∧
    ((∀ e ∈ (s.core core).groups, e.2.arrived) → ∀ sl gr, s.group? ⟨core, sl⟩ = some gr →
      t.group? ⟨core, sl⟩ = some (if gr.hold = .cbar then { gr with hold := .none, pc := gr.pc + 8 } else gr)) ∧
    ((∃ e ∈ (s.core core).groups, e.2.hold = .none) → t = s)

/-- R187: shuffles with all 32 threads active. d is IMM12[4:0], or VB[4:0] of each lane; VD takes VA of the lane that the
mnemonic names, as it held before. With any other mask DIVERGENT_COLLECTIVE is raised.
Votes: any, all, or the ballot of p[PS] xor PSN of the 32 lanes, under the same condition. -/
def Obligations.ShufflesAndVotes : Prop :=
  (∀ (g : GroupRef) (f : BitVec 48) (s : State) (gr : Group), Ready s g gr →
    let w := opWord f 0
    let d := fun i => if w.getLsbD 63 then fld w 52 5 else (gr.vGet i (fVB w)).toNat % 32
    let result := fun c x => LanesBecome c s g gr (fVD w) (fun _ => true) fun i => gr.vGet (x i) (fVA w)
    fVD w < s.vregs g.core → fVA w < s.vregs g.core → (w.getLsbD 63 = false → fVB w < s.vregs g.core) →
    (gr.active = 0xFFFFFFFF →
      result (.shflIdx g f) d ∧
      result (.shflUp g f) (fun i => if d i ≤ i then i - d i else i) ∧
      result (.shflDown g f) (fun i => if i + d i ≤ 31 then i + d i else i) ∧
      result (.shflXor g f) (fun i => i ^^^ d i)) ∧
    (gr.active ≠ 0xFFFFFFFF →
      Raises (.shflIdx g f) s g 6 (opWord f 0x5001) (gr.exc cDivergent 0x00) ∧
      Raises (.shflUp g f) s g 6 (opWord f 0x5002) (gr.exc cDivergent 0x00) ∧
      Raises (.shflDown g f) s g 6 (opWord f 0x5003) (gr.exc cDivergent 0x00) ∧
      Raises (.shflXor g f) s g 6 (opWord f 0x5004) (gr.exc cDivergent 0x00))) ∧
  ∀ (g : GroupRef) (f : BitVec 48) (s : State) (gr : Group), Ready s g gr →
    let w := opWord f 0
    let v := fun i => gr.pGet i (fld w 49 3) ^^ w.getLsbD 48
    (gr.active = 0xFFFFFFFF →
      (∃ x, PredsBecome (.voteAny g f) s g gr (fld w 45 3) (fun _ => true) (fun _ => x) ∧ (x = true ↔ ∃ i < 32, v i = true)) ∧
      (∃ x, PredsBecome (.voteAll g f) s g gr (fld w 45 3) (fun _ => true) (fun _ => x) ∧ (x = true ↔ ∀ i < 32, v i = true)) ∧
      (∃ x, UniformBecomes (.voteBallot g f) s g gr (fUD w) x ∧ ∀ i < 64, x.getLsbD i = (decide (i < 32) && v i))) ∧
    (gr.active ≠ 0xFFFFFFFF →
      Raises (.voteAny g f) s g 6 (opWord f 0x5011) (gr.exc cDivergent 0x00) ∧
      Raises (.voteAll g f) s g 6 (opWord f 0x5012) (gr.exc cDivergent 0x00) ∧
      Raises (.voteBallot g f) s g 6 (opWord f 0x5013) (gr.exc cDivergent 0x00))

/-! ### Local memory (R188 to R193) -/

/-- R188: LD.L in every size. Register VD + j of each executing lane takes bytes 4j to 4j + 3 of the access, lowest byte
first; the 8-bit and 16-bit forms are zero-extended. All of memory is unchanged.
R188: ST.L in every size. Byte k of the access takes byte k mod 4 of register VB + k / 4; where lanes write the same byte
the highest lane's stays. Every other byte of memory is unchanged. -/
def Obligations.LocalAccesses : Prop :=
  (∀ (sz : LSize) (g : GroupRef) (f : BitVec 48) (s : State) (gr : Group) (addr : Nat → Nat), Ready s g gr →
    let w := opWord f 0
    regsOk (s.vregs g.core) [(fVA w, 1), (fVD w, sz.regs)] = true →
    (∀ i < 32, gr.runs w i = true → LocalAt w g gr sz.bytes i (addr i) ∧ CleanBytes s (addr i) sz.bytes) →
    ∃ q, GroupBecomes (.ldL g sz f) s g q ∧ q = { gr with pc := gr.pc + 8, v := q.v } ∧
      (∀ i < 32, gr.runs w i = true → ∀ j < sz.regs,
        q.vGet i (fVD w + j) = BitVec.ofNat 32 (bytesNat (s.memBytes (addr i + 4 * j) (min 4 sz.bytes)))) ∧
      ∀ i < 32, ∀ r < 256, (gr.runs w i = false ∨ r < fVD w ∨ fVD w + sz.regs ≤ r) → q.vGet i r = gr.vGet i r) ∧
  ∀ (sz : LSize) (g : GroupRef) (f : BitVec 48) (s : State) (gr : Group) (addr : Nat → Nat), Ready s g gr →
    let w := opWord f 0
    regsOk (s.vregs g.core) [(fVA w, 1), (fVB w, sz.regs)] = true →
    (∀ i < 32, gr.runs w i = true → LocalAt w g gr sz.bytes i (addr i) ∧ CleanBytes s (addr i) sz.bytes) →
    ∃ t, exec (.stL g sz f) s = .next t ∧ t.group? g = some { gr with pc := gr.pc + 8 } ∧
      StoreFrame s t g (fun a => ∃ i < 32, gr.runs w i = true ∧ addr i ≤ a ∧ a < addr i + sz.bytes) ∧
      ∀ i < 32, gr.runs w i = true → (∀ j < 32, gr.runs w j = true → i < j → addr j ≠ addr i) → ∀ k < sz.bytes,
        t.memByte (addr i + k) = (gr.vGet i (fVB w + k / 4)).extractLsb' (8 * (k % 4)) 8

/-- R191, R192, R193: LKACQ and LKREL of one executing lane. A free lock is taken, and a thread's own lock released; else the
status says why not and the word is unchanged. -/
def Obligations.Locks : Prop :=
  ∀ (g : GroupRef) (f : BitVec 48) (s : State) (gr : Group) (i a : Nat), Ready s g gr → g.core < 128 → g.slot < 16 →
    let w := opWord f 0
    let x := s.memWord (a / 8)
    let status := fun c st locks (P : State → Prop) => ∃ t q, exec c s = .next t ∧ t.group? g = some q ∧
      q = { gr with pc := gr.pc + 8, v := q.v, locks := locks } ∧
      (∀ j < 32, ∀ r < 256, q.vGet j r = if j = i ∧ r = fVD w then st else gr.vGet j r) ∧
      StoreFrame s t g (fun b => b / 8 = a / 8) ∧ P t
    fVD w < s.vregs g.core → fVA w < s.vregs g.core → i < 32 → (∀ j < 32, gr.runs w j = true ↔ j = i) →
    LocalAt w g gr 8 i a → CleanWord s (a / 8) →
    let mine := x.getLsbD 63 ∧ fld x 40 7 = g.core ∧ fld x 32 4 = g.slot
    let same := fun t : State => t.memWord (a / 8) = x
    (¬x.getLsbD 63 → status (.lkacq g f) 0x00 (gr.locks + 1) fun t =>
      t.memWord (a / 8) = BitVec.ofNat 64 (2 ^ 63 + g.core * 2 ^ 40 + g.slot * 2 ^ 32 + i * 2 ^ 24)) ∧
    (mine → status (.lkacq g f) 0x0D gr.locks same) ∧
    (x.getLsbD 63 → ¬mine → status (.lkacq g f) 0x01 gr.locks same) ∧
    (mine → fld x 24 5 = i → status (.lkrel g f) 0x00 (gr.locks - 1) fun t =>
      (t.memWord (a / 8)).getLsbD 63 = false ∧ fld (t.memWord (a / 8)) 40 7 = g.core ∧
        fld (t.memWord (a / 8)) 32 4 = g.slot ∧ fld (t.memWord (a / 8)) 24 5 = i) ∧
    (x.getLsbD 63 → ¬(mine ∧ fld x 24 5 = i) → status (.lkrel g f) 0x0C gr.locks same) ∧
    (¬x.getLsbD 63 → status (.lkrel g f) 0x02 gr.locks same)

/-! ### Matrix arrays and the stage chain (R136 to R155, R206, R207) -/

/-- R147, R148, R152, R207: an asynchronous instruction that passes its checks with all 32 threads active copies its
descriptors, marks its token BUSY and completes; its operation waits in the queue. A WLD sets the tags of the blocks that it
fills (R136). After CH.RUN the oldest CH.RUN of the core starts if none runs (R208).
R145, R147, R152, R207: an asynchronous instruction under a partial mask raises DIVERGENT_COLLECTIVE, one that names a
token in use, or any token where none is FREE, TOKEN_EXHAUSTED, and an AMASK of 0 is undefined; in each case the group takes
the exception and nothing else is done. -/
def Obligations.OperationsIssue : Prop :=
  (∀ (g : GroupRef) (f : BitVec 48) (s : State) (gr : Group) (tok : Nat), Ready s g gr → gr.active = 0xFFFFFFFF →
    let w := opWord f 0
    let d := gr.dGet (fD0 w)
    TakesToken s g.core w tok →
    (fAmask w ≠ 0 → wldFault w d = none → tensorMisaligned d = false →
      ∃ t, exec (.mxWld g f) s = .next (t.countSlot g.core 0x0301 9) ∧
        JoinsQueue s t g gr (opWord f 0xC001) .wld tok ∧
        ∀ a c r, (a, c, r) ∈ wldColumns w (tRows d) → c % 32 = 0 →
          SMap.find? (t.core g.core).wTags (tagKey a (fWhalf w) (c / 32)) = some ⟨tFmt d, tLen d⟩) ∧
    (fAmask w ≠ 0 → mmaFault w d ((s.core g.core).tagsRead w) (s.heritage g.core) = none → tensorMisaligned d = false →
      ∃ t, exec (.mxMma g f) s = .next (t.countSlot g.core 0x0301 9) ∧
        JoinsQueue s t g gr (opWord f 0xC002) .mma tok ∧ (t.core g.core).wTags = (s.core g.core).wTags) ∧
    (fAmask w ≠ 0 → drnFault w d (gr.dGet (fD1 w)) = none → drnMisaligned d (gr.dGet (fD1 w)) = false →
      ∃ t, exec (.mxDrn g f) s = .next (t.countSlot g.core 0x0301 9) ∧
        JoinsQueue s t g gr (opWord f 0xC003) .drn tok ∧ (t.core g.core).wTags = (s.core g.core).wTags) ∧
    (chainFault d (gr.dGet (fD1 w)) (gr.dGet (fD2 w)) (gr.dGet (fld w 48 4)) (gr.dGet (fld w 52 4)) = none →
      chainMisaligned d (gr.dGet (fD1 w)) (gr.dGet (fD2 w)) (gr.dGet (fld w 48 4)) (gr.dGet (fld w 52 4)) = false →
      ∃ t, exec (.chRun g f) s = .next ((t.startChain g.core).countSlot g.core 0x0301 7) ∧
        JoinsQueue s t g gr (opWord f 0x7001) .chRun tok ∧ (t.core g.core).wTags = (s.core g.core).wTags)) ∧
  ∀ (g : GroupRef) (f : BitVec 48) (s : State) (gr : Group), Ready s g gr →
    let w := opWord f 0
    let each := fun (P : Instr → Nat → Nat → Prop) =>
      P (.mxWld g f) 9 0xC001 ∧ P (.mxMma g f) 9 0xC002 ∧ P (.mxDrn g f) 9 0xC003
    (fAmask w = 0 → each fun c cls op => Raises c s g cls (opWord f op) (gr.exc cIllegal 0x02)) ∧
    (fAmask w ≠ 0 → fTok w < 24 → gr.active ≠ 0xFFFFFFFF →
      each (fun c cls op => Raises c s g cls (opWord f op) (gr.exc cDivergent 0x00)) ∧
      Raises (.chRun g f) s g 7 (opWord f 0x7001) (gr.exc cDivergent 0x00)) ∧
    (fAmask w ≠ 0 → gr.active = 0xFFFFFFFF → fTok w < 24 → (s.core g.core).token? (fTok w) ≠ none →
      each fun c cls op => Raises c s g cls (opWord f op) { gr.exc cToken 0x01 with aux := BitVec.ofNat 8 (fTok w) }) ∧
    (fAmask w ≠ 0 → gr.active = 0xFFFFFFFF → fTok w = 31 → (∀ k < 24, (s.core g.core).token? k ≠ none) →
      each fun c cls op => Raises c s g cls (opWord f op) { gr.exc cToken 0x02 with aux := 31 })

/-- R140, R149, R150, R161: a queued operation starts only once the operations that it waits for have started or ended: a WLD
after the WLDs before it and the MMAs that read its half, an MMA after the MMAs before it and the WLDs of its half, with
its arrays awake and no DRN of its rows before it, a DRN after the DRNs before it and with no MMA into its rows before it.
Their reads are over then. Where they have not, nothing happens (log 2). -/
def Obligations.OperationsStart : Prop :=
  (∀ (s : State) (core tok : Nat) (o : MxOp), (s.core core).op? tok = some o →
    ((s.startOp core tok).core core).op? tok = some { o with started := true } ∧
    s.startOp core tok = { s with cores := (s.startOp core tok).cores }) ∧
  ∀ (s : State) (core tok : Nat) (o : MxOp) (before : List MxOp), s.log.roomy = true →
    (s.queued core tok .wld = some (o, before) →
      let wait := before.filter fun q => q.kind = .wld ∨ (q.kind = .mma ∧ q.sharesHalf o)
      ((∀ q ∈ wait, q.started) → exec (.mxWldStart core tok) s = .next ((s.runOps core wait).startOp core tok)) ∧
      ((∃ q ∈ wait, ¬q.started) → exec (.mxWldStart core tok) s = .next s)) ∧
    (s.queued core tok .mma = some (o, before) →
      let wait := before.filter fun q => q.kind = .mma ∨ (q.kind = .wld ∧ q.sharesHalf o)
      let clear := (s.core core).allAwake o ∧ ∀ q ∈ before, q.kind = .drn → ¬q.sharesRows o
      ((∀ q ∈ wait, q.started) → clear →
        exec (.mxMmaStart core tok) s = .next ((s.runOps core wait).startOp core tok)) ∧
      (¬clear ∨ (∃ q ∈ wait, ¬q.started) → exec (.mxMmaStart core tok) s = .next s)) ∧
    (s.queued core tok .drn = some (o, before) →
      let clear := (∀ q ∈ before, q.kind = .drn → q.started) ∧ ∀ q ∈ before, q.kind = .mma → ¬q.sharesRows o
      (clear → ∃ r, r = runDrn core o (s.startOp core tok) ∧
        exec (.mxDrnStart core tok) s = .next (r.2.putPieces (opOwner core tok) r.1.pieces)) ∧
      (¬clear → exec (.mxDrnStart core tok) s = .next s))

/-- R140, R152, R153, R161, R208, R213: an operation that has started ends once those of its kind before it have: it runs to
its end, and `State.endOp` makes its token DONE with its status and flags. What that does is the last part.
R152, R153, R154, R214: the end of an operation, on a core of which no group waits: its token is DONE with OK or POISONED
and its flag vector, it leaves the queue, and its flags enter the core flag word; an end with OK changes nothing else, and a
POISONED one is counted and logged. -/
def Obligations.OperationsEnd : Prop :=
  (∀ (s : State) (core tok : Nat) (o : MxOp), s.log.roomy = true →
    (s.running core tok .wld = some o → ∀ u, u = (s.runOps core (((s.core core).earlier tok).filter (·.kind = .wld))).runOp core o →
      ∀ r, ((u.core core).op? tok).bind (·.result) = some r → exec (.mxWldDone core tok) s = .next (u.endOp core o r)) ∧
    (s.running core tok .mma = some o → (∀ q ∈ (s.core core).earlier tok, q.kind ≠ .mma) →
      ∀ r, (((s.runOp core o).core core).op? tok).bind (·.result) = some r →
        ∃ u : State, exec (.mxMmaDone core tok) s = .next (u.endOp core o r) ∧ u = { s.runOp core o with cores := u.cores } ∧
          ∀ a < 4, SMap.get 0 (u.core core).streamAt a =
            if o.result.isNone ∧ o.amask.getLsbD a then (s.runOp core o).clk.now - s.cyclesNs 8
            else SMap.get 0 ((s.runOp core o).core core).streamAt a) ∧
    (s.running core tok .drn = some o → (∀ q ∈ (s.core core).earlier tok, q.kind ≠ .drn) →
      ∃ (u : State) (r : OpResult), exec (.mxDrnDone core tok) s = .next (u.endOp core o r) ∧
        let x := (runDrn core o (s.undo (opOwner core tok))).1
        (r.poisoned = true ↔ x.bad.isSome) ∧ r.flags = reportedFlags (s.heritage core) x.flags) ∧
    (s.running core tok .chRun = some o →
      ∃ (u : State) (r : OpResult), exec (.chRunDone core tok) s = .next ((u.endOp core o r).startChain core) ∧
        let x := (runChain core o (s.undo (opOwner core tok))).1
        (r.poisoned = true ↔ x.bad.isSome) ∧ r.flags = x.flags)) ∧
  ∀ (s : State) (core : Nat) (o : MxOp) (r : OpResult), (∀ sl gr, s.group? ⟨core, sl⟩ = some gr → gr.hold = .none) →
    let t := s.endOp core o r
    let c := s.core core
    (∀ k, (t.core core).token? k =
      if k = o.tok then some ⟨true, o.owner, if r.poisoned then Status.poisoned else Status.ok, r.flags⟩ else c.token? k) ∧
    (t.core core).ops = c.ops.filter (fun q => q.tok ≠ o.tok) ∧
    (t.core core).flagLast = r.flags ∧ (t.core core).flagSticky = c.flagSticky ||| r.flags ∧
    (∀ sl, t.group? ⟨core, sl⟩ = s.group? ⟨core, sl⟩) ∧ (∀ m, m ≠ core → t.core m = s.core m) ∧
    (∀ a, t.memByte a = s.memByte a) ∧
    (r.poisoned = false → t = { s with cores := t.cores }) ∧
    (r.poisoned = true → o.kind ≠ .chRun → t.odGet Od.mxPoisonOpCount = (s.odGet Od.mxPoisonOpCount + 1) % 2 ^ 64 ∧
      ∃ e, t.log.ingress = s.log.ingress ++ [e] ∧ e.kind = 0x0101 ∧ e.severity = sevError)

/-- R154, R155: TWAIT by the state of its token, and TTEST. A TOK of 24 or more is undefined. -/
def Obligations.TokenWaits : Prop :=
  ∀ (g : GroupRef) (f : BitVec 48) (s : State) (gr : Group), Ready s g gr →
    let w := opWord f 0
    let tk := (s.core g.core).token? (fTok w)
    (fTok w < 24 →
      (tk = none → UniformBecomes (.twait g f) s g gr (fUDST w) 0x05) ∧
      (∀ k, tk = some k → k.owner ≠ g.slot → UniformBecomes (.twait g f) s g gr (fUDST w) 0x0C) ∧
      (∀ k, tk = some k → k.owner = g.slot → k.done = false →
        GroupBecomes (.twait g f) s g { gr with hold := .token (fTok w) (opWord f 0xC008) }) ∧
      (∀ k, tk = some k → k.owner = g.slot → k.done = true → k.status ≠ Status.poisoned →
        ∃ t q, exec (.twait g f) s = .next t ∧ t.group? g = some q ∧ q = { gr with pc := gr.pc + 8, u := q.u } ∧
          (∀ r, q.uGet r = if r = fUDST w then BitVec.ofNat 64 (k.status.toNat + 2 ^ 8 * k.flags.toNat) else gr.uGet r) ∧
          CoreFrame s t g.core ∧ (∀ n, (t.core g.core).token? n = if n = fTok w then none else (s.core g.core).token? n) ∧
          t.core g.core = { s.core g.core with groups := (t.core g.core).groups, tokens := (t.core g.core).tokens }) ∧
      (∀ k, tk = some k → k.owner = g.slot → k.done = true → k.status = Status.poisoned →
        Raises (.twait g f) s g 9 (opWord f 0xC008) { gr.exc cPoison 0x02 with aux := BitVec.ofNat 8 (fTok w) }) ∧
      ∃ x, PredsBecome (.ttest g f) s g gr (fld w 48 3) (fun i => gr.active.getLsbD i) (fun _ => x) ∧
        (x = true ↔ ∃ k, tk = some k ∧ k.done = true ∧ k.owner = g.slot)) ∧
    (24 ≤ fTok w → Raises (.twait g f) s g 9 (opWord f 0xC008) (gr.exc cIllegal 0x02) ∧
      Raises (.ttest g f) s g 9 (opWord f 0xC009) (gr.exc cIllegal 0x02))

/-- R141: a gated array for which an MMA waits is woken, the lowest of them first, and no sooner than 64 core cycles after
the wake before the last; an array that no MMA asks for is gated once it has taken no stream cycle for MX_GATE_IDLE
cycles. -/
def Obligations.ArrayPower : Prop :=
  ∀ (s : State) (core array : Nat), array < 4 →
    let c := s.core core
    let asks := fun a => c.wakeAsked a ∧ c.awake.getLsbD a = false
    (asks array → (∀ a < array, ¬asks a) → ∃ t, exec (.arrayWake core array) s = .next t ∧
      (∀ a < 4, (t.core core).awake.getLsbD a = (c.awake.getLsbD a || decide (a = array))) ∧
      (t.core core).wakes.head? = some t.clk.now ∧ s.clk.now ≤ t.clk.now ∧
      (∀ x y l, c.wakes = x :: y :: l → y + s.cyclesNs 64 ≤ t.clk.now) ∧
      (∀ m, m ≠ core → t.core m = { s.core m with cycBase := (t.core m).cycBase }) ∧ ∀ a, t.memByte a = s.memByte a) ∧
    (¬asks array → exec (.arrayWake core array) s = .next s) ∧
    (c.awake.getLsbD array = true → ¬c.wakeAsked array → ∃ t, exec (.arrayGate core array) s = .next t ∧
      (∀ a < 4, (t.core core).awake.getLsbD a = (c.awake.getLsbD a && decide (a ≠ array))) ∧
      SMap.get 0 c.streamAt array + s.cyclesNs (s.gateIdle core) ≤ t.clk.now ∧ s.clk.now ≤ t.clk.now ∧
      (∀ m, m ≠ core → t.core m = { s.core m with cycBase := (t.core m).cycBase }) ∧ ∀ a, t.memByte a = s.memByte a) ∧
    (c.wakeAsked array → exec (.arrayGate core array) s = .next s)

/-! ### Memory words (R229 to R234) -/

/-- R229 to R231: the code of every word. A word as written checks clean and gives its data and its poison bit back; every
error of one or two bits is corrected to the word as it was, and every error of three bits is found. -/
def Obligations.CodeCorrects : Prop :=
  ∀ (d : BitVec 64) (p : Bool),
    let x := codeWord d p
    checkWord x = .clean ∧ codeData x = d ∧ codePoison x = p ∧
    (∀ a < 80, checkWord (flipPosition x a) = .corrected x a 0xFF) ∧
    (∀ a b, a < b → b < 80 → checkWord (flipPosition (flipPosition x a) b) = .corrected x a b) ∧
    (∀ a b c, a < b → b < c → c < 80 → checkWord (flipPosition (flipPosition (flipPosition x a) b) c) = .uncorrectable)

/-- R226, R232, R240, R241: a read of a word whose checker finds what it finds, in a word that no engine is writing. It
delivers the corrected data, or the data poisoned where the word is uncorrectable, and memory then holds what it
delivered. A correction and an uncorrectable word are counted, and an uncorrectable one is logged.
R234: a write of a whole word replaces it; a write of fewer bytes merges them into the word read and keeps that word's
poison. Every other word is unchanged.
R7, R234: what is written to clean words is what is read back, at every address and length; every other byte keeps its
value. -/
def Obligations.MemoryWords : Prop :=
  (checkWord 0 = .clean ∧ codePoison 0 = false ∧
  ∀ (s : State) (w : Nat) (det : Detect), s.racyAt w = none → s.readFails w = false →
    let x := s.rawWord w
    let r := s.readWord w det
    let src := memSource (8 * w)
    r.1 = deliver x ∧ r.2.rawWord w = checkedWord x ∧ (∀ v, v ≠ w → r.2.rawWord v = s.rawWord v) ∧
    (∀ y p q, checkWord x = .corrected y p q → r.1.1 = codeData y ∧
      r.2.odGet (ceCounter src.1 src.2.2) = (s.odGet (ceCounter src.1 src.2.2) + 1) % 2 ^ 64) ∧
    (checkWord x = .uncorrectable → r.1 = (codeData x, true) ∧
      r.2.odGet (ueCounter src.1 src.2.2) = (s.odGet (ueCounter src.1 src.2.2) + 1) % 2 ^ 64 ∧
      ∃ e, r.2.log.ingress = s.log.ingress ++ [e] ∧ e.kind = 0x0202 ∧ e.severity = sevError ∧
        e.payload.extractLsb' 0 64 = BitVec.ofNat 64 (8 * w))) ∧
  (∀ (s : State) (w : Nat), s.racyAt w = none →
    let x := s.rawWord w
    (∀ d p, (s.writeWord w d p).rawWord w = codeWord d p ∧ ∀ v, v ≠ w → (s.writeWord w d p).rawWord v = s.rawWord v) ∧
    ∀ i bs, i + bs.length ≤ 8 → s.readFails w = false →
      let t := s.mergeWord w i bs
      codePoison (t.rawWord w) = codePoison (checkedWord x) ∧ checkWord (t.rawWord w) = .clean ∧
      (∀ v, v ≠ w → t.rawWord v = s.rawWord v) ∧
      ∀ k < 8, (codeData (t.rawWord w)).extractLsb' (8 * k) 8 =
        if i ≤ k ∧ k < i + bs.length then bs.getD (k - i) 0 else (codeData (checkedWord x)).extractLsb' (8 * k) 8) ∧
  ∀ (s : State) (a : Nat) (bs : List Byte), CleanBytes s a bs.length → s.hbmReadFails = [] →
    let t := s.writeBytes a bs
    t.memBytes a bs.length = bs ∧ (∀ b, b < a ∨ a + bs.length ≤ b → t.memByte b = s.memByte b) ∧
    CleanBytes t a bs.length ∧ (t.readBytes a bs.length .demand).1.1 = bs ∧
    (∀ q ∈ (t.readBytes a bs.length .demand).1.2, q = false)

/-! ### Remote instructions (R190, R264 to R268, R272) -/

/-- R190, R264, R266: the held forms, where every executing lane names another device that the plan reaches. The group waits
at the instruction, and its transactions are open: one READ of each whole line (log 16), for a store one transaction of each
line with one WRITE of each run of adjacent bytes (log 70), and one request for each lane of an atomic. With no executing
lane the group goes on at once.
R264, R266, R268: the posted forms. The group goes on at once, and each executing lane has sent its request: the quad, pair
or low bytes of VB, lowest byte first.
R190, R224, R264, R268: all of these where every executing lane names the device's own memory, which accepts its requests,
cut in the same way: they are served in lane order, the group goes on at once, a load has its bytes and an atomic's pair VD
what it found. A multicast then goes on along its line (log 53).
R44, R48, R49: LD.G where every executing lane names the dictionary window: the entry's value, or all ones and an event. -/
def Obligations.RemoteRequests : Prop :=
  (∀ (g : GroupRef) (f : BitVec 48) (s : State) (gr : Group), Ready s g gr → s.holding g = false → s.fab.lineCache = [] →
    let w := opWord f 0
    let lanes := gr.execLanes w
    let each := fun (payload : Nat → List Byte) (len : Nat) => lanes.map fun i =>
      (⟨remoteAddr ⟨0x03, 8, false⟩ w gr i, len, payload i, [(i, 0)], [], false⟩ : LaneTx)
    let held := fun (c : Instr) (opcode : Nat) (fm : RemoteForm) (regs : List (Nat × Nat)) (txs : List LaneTx) =>
      regsOk (s.vregs g.core) ((fVA w, 2) :: regs) = true → RemoteOk s g fm w gr → s.trackerRoom g txs.length = true →
      (lanes = [] → GroupBecomes c s g { gr with pc := gr.pc + 8, resp := [] }) ∧
      (lanes ≠ [] → Elsewhere s fm w gr → ∃ t, exec c s = .next t ∧
        t.group? g = some { gr with hold := .response (opWord f opcode), resp := [] } ∧
        TxsOpened s t g fm.op (fun x => .held g.core g.slot x.lanes) txs)
    (∀ sz, held (.ldG g sz f) (globalOpcode false sz).toNat ⟨0x01, sz.bytes, true⟩ [(fVD w, sz.regs)]
      (loadTxs ⟨0x01, sz.bytes, true⟩ w gr lanes)) ∧
    (∀ sz, held (.stG g sz f) (globalOpcode true sz).toNat ⟨0x02, sz.bytes, false⟩ [(fVB w, sz.regs)]
      (storeTxs ⟨0x02, sz.bytes, false⟩ w gr lanes)) ∧
    held (.atCas64 g f) 0x8001 ⟨0x03, 8, false⟩ [(fVB w, 2), (fVD w, 2)]
      (each (fun i => natBytes 8 (gr.vPair i (fVD w)).toNat ++ natBytes 8 (gr.vPair i (fVB w)).toNat) 16) ∧
    held (.atSwp64 g f) 0x8002 ⟨0x04, 8, false⟩ [(fVB w, 2), (fVD w, 2)]
      (each (fun i => natBytes 8 (gr.vPair i (fVB w)).toNat) 8) ∧
    held (.atAdd64 g f) 0x8003 ⟨0x05, 8, false⟩ [(fVB w, 2), (fVD w, 2)]
      (each (fun i => natBytes 8 (gr.vPair i (fVB w)).toNat) 8)) ∧
  (∀ (g : GroupRef) (f : BitVec 48) (s : State) (gr : Group), Ready s g gr →
    let w := opWord f 0
    let lanes := gr.execLanes w
    let vb := fVB w
    let posted := fun (c : Instr) (fm : RemoteForm) (regs : Nat) (payload : Nat → List Byte) =>
      regsOk (s.vregs g.core) [(fVA w, 2), (vb, regs)] = true → RemoteOk s g fm w gr →
      s.trackerRoom g lanes.length = true → Elsewhere s fm w gr →
      ∃ t, exec c s = .next t ∧ t.group? g = some { gr with pc := gr.pc + 8 } ∧
        TxsOpened s t g fm.op (fun x => .posted g.core g.slot ((x.lanes.head?.map (·.1)).getD 0)) (lanes.map fun i =>
          ⟨remoteAddr fm w gr i, fm.n, payload i, [(i, 0)], [], false⟩)
    posted (.redAddW40 g f) ⟨0x10, 16, false⟩ 4 (fun i => natBytes 16 (gr.vQuad i vb).toNat) ∧
    posted (.redAddF32 g f) ⟨0x11, 4, false⟩ 1 (fun i => natBytes 4 (gr.vGet i vb).toNat) ∧
    posted (.redAddBf16 g f) ⟨0x12, 2, false⟩ 1 (fun i => natBytes 2 (gr.vGet i vb).toNat) ∧
    posted (.redMaxF32 g f) ⟨0x13, 4, false⟩ 1 (fun i => natBytes 4 (gr.vGet i vb).toNat) ∧
    posted (.redMinF32 g f) ⟨0x14, 4, false⟩ 1 (fun i => natBytes 4 (gr.vGet i vb).toNat) ∧
    posted (.redMaxBf16 g f) ⟨0x15, 2, false⟩ 1 (fun i => natBytes 2 (gr.vGet i vb).toNat) ∧
    posted (.redMinBf16 g f) ⟨0x16, 2, false⟩ 1 (fun i => natBytes 2 (gr.vGet i vb).toNat) ∧
    posted (.mcSt64 g f) ⟨0x20, 8, false⟩ 2 (fun i => natBytes 8 (gr.vPair i vb).toNat)) ∧
  (∀ (g : GroupRef) (f : BitVec 48) (s : State) (gr : Group), Ready s g gr → s.holding g = false →
    let w := opWord f 0
    let lanes := gr.execLanes w
    let own := fun (c : Instr) (cls : Nat) (fm : RemoteForm) (regs : List (Nat × Nat)) (txs : List LaneTx)
        (vds : Nat) (value : Nat → Nat → BitVec 32) =>
      regsOk (s.vregs g.core) ((fVA w, 2) :: regs) = true → RemoteOk s g fm w gr → s.trackerRoom g txs.length = true →
      OwnMemory s g fm w gr txs → (fm.mc = true → (fMc w).1 = 0) →
      ∃ (u : State) (q : Group), exec c s = .next (u.wakeUp.countSlot g.core 0x0301 cls) ∧ OwnFrame s u g ∧
        (∀ b, u.memByte b = (s.ownServed fm w gr txs).2 b) ∧
        u.odGet Od.arrivalAddCount = (s.odGet Od.arrivalAddCount + if opIsAdd fm.op then lanes.length else 0) % 2 ^ 64 ∧
        u.group? g = some q ∧ q = { gr with pc := gr.pc + 8, v := q.v, resp := q.resp } ∧
        ∀ i < 32, ∀ r < 256, q.vGet i r =
          if gr.runs w i ∧ fVD w ≤ r ∧ r < fVD w + vds then value i (r - fVD w) else gr.vGet i r
    let found := fun (fm : RemoteForm) (txs : List LaneTx) (i k : Nat) =>
      (BitVec.ofNat 64 (bytesNat ((s.ownServed fm w gr txs).1.getD (lanes.idxOf i) []))).extractLsb' (32 * k) 32
    let loaded := fun (fm : RemoteForm) (i k : Nat) =>
      BitVec.ofNat 32 (bytesNat (s.memBytes (addrLocal (remoteAddr fm w gr i) + 4 * k) 4))
    let atomic := fun (c : Instr) (op : BitVec 8) =>
      let fm : RemoteForm := ⟨op, 8, false⟩
      own c 8 fm [(fVB w, 2), (fVD w, 2)] (eachTx fm w gr lanes) 2 (found fm (eachTx fm w gr lanes))
    let posted := fun (c : Instr) (op : BitVec 8) (n regs : Nat) =>
      own c 8 ⟨op, n, false⟩ [(fVB w, regs)] (eachTx ⟨op, n, false⟩ w gr lanes) 0 fun _ _ => 0
    (∀ sz, own (.ldG g sz f) 3 ⟨0x01, sz.bytes, true⟩ [(fVD w, sz.regs)] (loadTxs ⟨0x01, sz.bytes, true⟩ w gr lanes) sz.regs
      (loaded ⟨0x01, sz.bytes, true⟩)) ∧
    (∀ sz, own (.stG g sz f) 3 ⟨0x02, sz.bytes, false⟩ [(fVB w, sz.regs)] (storeTxs ⟨0x02, sz.bytes, false⟩ w gr lanes) 0
      fun _ _ => 0) ∧
    atomic (.atCas64 g f) 0x03 ∧ atomic (.atSwp64 g f) 0x04 ∧ atomic (.atAdd64 g f) 0x05 ∧
    posted (.redAddW40 g f) 0x10 16 4 ∧ posted (.redAddF32 g f) 0x11 4 1 ∧ posted (.redAddBf16 g f) 0x12 2 1 ∧
    posted (.redMaxF32 g f) 0x13 4 1 ∧ posted (.redMinF32 g f) 0x14 4 1 ∧ posted (.redMaxBf16 g f) 0x15 2 1 ∧
    posted (.redMinBf16 g f) 0x16 2 1 ∧ posted (.mcSt64 g f) 0x20 8 2 ∧
    let fm : RemoteForm := ⟨0x20, 8, false⟩
    let line := mcLine s.place (fMc w)
    let port := firstPort (s.place :: line)
    ((fMc w).1 ≠ 0 → regsOk (s.vregs g.core) [(fVA w, 2), (fVB w, 2)] = true → RemoteOk s g fm w gr →
      s.trackerRoom g lanes.length = true → OwnMemory s g fm w gr (eachTx fm w gr lanes) → s.fab.invWaits = [] → s.opens port →
      ∃ u : State, exec (.mcSt64 g f) s = .next (u.wakeUp.countSlot g.core 0x0301 8) ∧
        (∀ b, u.memByte b = (s.ownServed fm w gr (eachTx fm w gr lanes)).2 b) ∧ u.group? g = some { gr with pc := gr.pc + 8 } ∧
        ∃ es : List Tx, u.fab.tracker = s.fab.tracker ++ es ∧ es.length = lanes.length ∧ ∀ (k i : Nat) (e : Tx),
          lanes[k]? = some i → es[k]? = some e → e.op = 0x20 ∧ e.owner = .posted g.core g.slot i ∧
          u.waitsIn port fun pk => pk.tag = BitVec.ofNat 12 e.tag ∧ pk.op = 0x20 ∧ pk.mcCount = (fMc w).1 - 1 ∧
            pk.dst = (line.headD s.place).coord ∧ pk.payload = natBytes 8 (gr.vPair i (fVB w)).toNat)) ∧
  ∀ (g : GroupRef) (f : BitVec 48) (s : State) (gr : Group), Ready s g gr → s.holding g = false →
    let w := opWord f 0
    let lanes := gr.execLanes w
    ∀ sz : GSize,
    let fm : RemoteForm := ⟨0x01, sz.bytes, true⟩
    let off := fun i => addrLocal (remoteAddr fm w gr i) - windowBase
    regsOk (s.vregs g.core) [(fVA w, 2), (fVD w, sz.regs)] = true → RemoteOk s g fm w gr →
    s.trackerRoom g (loadTxs fm w gr lanes).length = true → (∀ i ∈ lanes, s.windowLane fm w gr i = true) → lanes ≠ [] →
    let view := fun i => if off i < 0x8000 then viewBytes (s.jarastBytes (s.clusterEval (g.core / 16))) (off i) sz.bytes
      else viewBytes (s.jarastBytes true) (off i - 0x8000) sz.bytes
    let entry := fun i => directIndex (off i)
    let served := fun i => sz = .g64 ∧ ∃ r, s.odReadStatus (.core g.core g.slot) (entry i).1 (entry i).2 = (Status.ok, some r) ∧
      r.ty.numeric = true
    let value := fun i => BitVec.ofNat 64
      (if off i < 0x10000 then bytesNat (view i) else s.odValue (entry i).1 (entry i).2)
    let writes := fun (q : Group) (x : Nat → BitVec 64) => q = { gr with pc := gr.pc + 8, v := q.v, resp := [] } ∧
      ∀ i < 32, ∀ r < 256, q.vGet i r = if gr.runs w i ∧ fVD w ≤ r ∧ r < fVD w + sz.regs then
        (x i).extractLsb' (32 * (r - fVD w)) 32 else gr.vGet i r
    ((∀ i ∈ lanes, 0x10000 ≤ off i → served i) → ∃ q, GroupBecomes (.ldG g sz f) s g q ∧ writes q value) ∧
    ∀ i, lanes = [i] → 0x10000 ≤ off i → ¬served i → ∃ (t : State) (q : Group), exec (.ldG g sz f) s = .next t ∧
      t.group? g = some q ∧ writes q (fun _ => BitVec.allOnes 64) ∧ Logs s t 0x0001 sevInfo ∧ ∀ a, t.memByte a = s.memByte a

/-- R13, R265, R272: what a remote instruction of one executing lane is stopped by at issue, and FENCE.R: it waits for the
group's posted transactions, raises the exception of the failed one that issued first, and otherwise goes on. -/
def Obligations.RemoteChecksAndFence : Prop :=
  ∀ (g : GroupRef) (f : BitVec 48) (s : State) (gr : Group), Ready s g gr →
    let w := opWord f 0
    (∀ i < 32, (∀ j < 32, gr.runs w j = true ↔ j = i) → regsOk (s.vregs g.core) [(fVA w, 2), (fVB w, 2), (fVD w, 2)] = true →
      let a := remoteAddr ⟨0x04, 8, false⟩ w gr i
      let raised := fun c d aux => Raises (.atSwp64 g f) s g 8 (opWord f 0x8002)
        ⟨c, d, 0, aux, a, BitVec.ofNat 32 (2 ^ i)⟩
      let global := (remoteBase w gr i).extractLsb' 52 12 = 0 ∧ a.extractLsb' 52 12 = 0
      (a.toNat % 8 ≠ 0 → raised cAlignment 0x01 0xFF) ∧
      (a.toNat % 8 = 0 → ¬global → raised cKey 0x01 0xFF) ∧
      (a.toNat % 8 = 0 → global → addrPlace a ≠ s.place → s.inPlan (addrPlace a) = false → raised cKey 0x02 0xFF) ∧
      (a.toNat % 8 = 0 → global → addrPlace a ≠ s.place → s.inPlan (addrPlace a) = true →
        regionOf (addrLocal a) ≠ .unmapped → s.subst (addrPlace a) ≠ s.place → s.route s.place (s.subst (addrPlace a)) = none →
        raised cKey 0x05 Status.planMismatch)) ∧
    (s.groupPosting g = true → GroupBecomes (.fenceR g f) s g { gr with hold := .fence (opWord f 0x8030) }) ∧
    (s.groupPosting g = false → gr.fails = [] → GroupBecomes (.fenceR g f) s g { gr with pc := gr.pc + 8 }) ∧
    (s.groupPosting g = false → ∀ x y q, gr.fails = x ++ q :: y → (∀ z ∈ x, q.seq < z.seq) → (∀ z ∈ y, q.seq ≤ z.seq) →
      ∃ u : State, exec (.fenceR g f) s = .next ((u.countSlot g.core 0x0302 8).takeExc g (opWord f 0x8030) q.exc) ∧
        u = (s.setGroup g { gr with fails := [] }).odAdd Od.thrFenceUnreportedCount (x.length + y.length))

/-- R190, R267: a response that answers a transaction of a held instruction before its deadline, the last that the group waits
for: an atomic's pair VD takes the value returned, a load's VD the bytes at its place in the line, and the group goes on,
also where other words of the line are poisoned. A failed one raises POISON for POISONED, KEY_FAULT with the response's
DETAIL for KEY_MISMATCH, and KEY_FAULT with detail 0x05 and its status for any other. The engines that wait for a place in the tracker go on after it
(`State.txRoom`), and monitors see what was written (`State.wakeUp`). A response that answers no transaction is counted and
discarded.
R267, R280: a transaction that reaches its deadline leaves the tracker, is counted and logged, and ends for its owner
with TIMEOUT: a posted one is kept for the group's FENCE.R as a KEY_FAULT. -/
def Obligations.TransactionsEnd : Prop :=
  (∀ (s : State) (pk : Packet) (coherent : Bool) (p : Nat), pk.op.getLsbD 7 = true → pk.op ≠ 0xB0 →
    s.log.roomy = true → s.rxPort pk = p → ∀ s1, s.takeRx p pk = some s1 → s1.fencedPlace pk.src = false → pk.dst = s1.self → pk.wpValid = false →
    (s1.answers? pk = none → ∃ late, exec (.remoteResponse pk coherent) s =
      .next ({ s1 with fab := { s1.fab with late := late } }.odAdd Od.lateResponseCount 1).wakeUp) ∧
    ∀ (t : Tx) (g : GroupRef) (gr : Group) (w : BitVec 64) (lane off : Nat), s1.answers? pk = some t → t.left = [] →
      t.owner = .held g.core g.slot [(lane, off)] → s1.group? g = some gr → gr.hold = .response w → gr.resp = [] →
      (∀ q ∈ s1.fab.tracker, q.tag ≠ t.tag → Tx.ofGroup q g = false) → s1.stopDue g.core = false → lane < 32 →
      (∀ i ∈ s1.heldLeft w gr, i = lane) →
      let fm := heldForm w
      let lost := pk.status = Status.poisoned ∧ (fm.op = 0x01 → pk.pmask.getLsbD (off / 8) = true)
      ∃ u : State, exec (.remoteResponse pk coherent) s = .next u.txRoom.wakeUp ∧
        u.fab.tracker = s1.fab.tracker.filter (fun q => q.tag ≠ t.tag) ∧
        (pk.status = Status.ok ∨ (pk.status = Status.poisoned ∧ ¬lost) →
          let value := BitVec.ofNat 64 (bytesNat ((pk.payload.drop off).take fm.n))
          u.group? g = some (match heldWrites w with
            | 0 => { gr with hold := .none, pc := gr.pc + 8 }
            | 1 => { gr with hold := .none, pc := gr.pc + 8 }.vSet lane (fVD w) (value.setWidth 32)
            | _ => { gr with hold := .none, pc := gr.pc + 8 }.setPair lane (fVD w) value)) ∧
        let raised := fun cause detail aux => ∃ v : State, v.group? g = some gr ∧ u = v.takeExc g w
          ⟨cause, detail, 0, aux, remoteAddr fm w gr lane, BitVec.ofNat 32 (2 ^ lane)⟩
        (lost → raised cPoison (if fm.op = 0x01 then 0x01 else 0x07) 0xFF) ∧
        (pk.status = Status.keyMismatch → raised cKey pk.detail 0xFF) ∧
        (pk.status ≠ Status.ok → pk.status ≠ Status.poisoned → pk.status ≠ Status.keyMismatch → raised cKey 0x05 pk.status)) ∧
  ∀ (s : State) (tag : Nat),
    (s.tx? tag = none → exec (.remoteTimeout tag) s = .next s) ∧
    ∀ t, s.tx? tag = some t → s.log.roomy = true → ∃ u : State, exec (.remoteTimeout tag) s = .next u.txRoom ∧
      let late := s.advanceTo t.deadline
      (∀ gc sl lane gr, t.owner = .posted gc sl lane → s.group? ⟨gc, sl⟩ = some gr → gr.hold = .none →
        u.group? ⟨gc, sl⟩ = some { gr with fails := gr.fails ++ [⟨t.seq, cKey, 0x05, 0, Status.timeout, t.addr,
          maskOf fun i => decide (i = lane)⟩] } ∧
        u.fab.tracker = s.fab.tracker.filter (fun q => q.tag ≠ t.tag) ∧ t.deadline ≤ u.clk.now ∧
        u.odGet Od.remoteTimeoutCount = (s.odGet Od.remoteTimeoutCount + 1) % 2 ^ 64 ∧ Logs late u 0x0306 sevWarning)

/-! ### Requests at their target (R262, R268 to R274) -/

/-- R262, R268: what a request that passes its checks does at its memory, in one step: a READ gives the bytes, a WRITE stores
its payload, a CAS stores its second value where the target equals its first, a SWAP its value and a FETCH_ADD the sum, each
with the earlier value as its response; a reduction stores the combined value (R123) and counts an add. Every byte outside
the target keeps its value.
R123, R268: the combination of a reduction: an FP32 sum rounded once, and the NaN where it is none; the greater or the
lesser, the NaN where either is one, and -0 below +0. -/
def Obligations.TargetEffects : Prop :=
  (∀ (s : State) (r : Req) (n : Nat), Accepted s r n →
    let before := s.memBytes r.addr n
    let q := s.serveReq r
    let leaves := fun (bs : List Byte) => q.2.2.memBytes r.addr n = bs ∧
      ∀ b, b < r.addr ∨ r.addr + n ≤ b → q.2.2.memByte b = s.memByte b
    let gives := fun (bs : List Byte) => q.1 = ⟨Status.ok, 0, bs, 0, false⟩
    q.2.1 = none ∧
    (r.op = 0x01 → gives before ∧ leaves before) ∧
    (r.op = 0x02 ∨ r.op = 0x20 → r.pmask = 0 → gives [] ∧ leaves r.payload) ∧
    (r.op = 0x03 → gives before ∧ leaves (if before = r.payload.take 8 then r.payload.drop 8 else before)) ∧
    (r.op = 0x04 → gives before ∧ leaves r.payload) ∧
    (r.op = 0x05 → gives before ∧ leaves (natBytes 8 (bytesNat before + bytesNat r.payload))) ∧
    (0x10 ≤ r.op ∧ r.op ≤ 0x16 → gives [] ∧ leaves (natBytes n (reduceBits r.op (bytesNat before) (bytesNat r.payload))) ∧
      (r.op ≤ 0x12 → q.2.2.odGet Od.arrivalAddCount = (s.odGet Od.arrivalAddCount + 1) % 2 ^ 64))) ∧
  ∀ a b : BitVec 32,
    let x := f32Val a
    let y := f32Val b
    reduceBits 0x11 a.toNat b.toNat = (if (x.add y).isNaN then 0x7FC00000 else (f32Of (x.add y)).toNat) ∧
    (x.isNaN ∨ y.isNaN → reduceBits 0x13 a.toNat b.toNat = 0x7FC00000 ∧ reduceBits 0x14 a.toNat b.toNat = 0x7FC00000) ∧
    (x.lt y → reduceBits 0x13 a.toNat b.toNat = b.toNat ∧ reduceBits 0x14 a.toNat b.toNat = a.toNat) ∧
    (y.lt x → reduceBits 0x13 a.toNat b.toNat = a.toNat ∧ reduceBits 0x14 a.toNat b.toNat = b.toNat) ∧
    reduceBits 0x13 0x80000000 0 = 0 ∧ reduceBits 0x14 0 0x80000000 = 0x80000000

/-- R262, R268, R382: a request packet of another device that comes in for this one is served (`State.serveReq`), and the
answer goes back with the response OP, the request's tag, and the status and payload of the service. A multicast is
answered by the last device of its line, and otherwise goes on to the next with one device fewer, which its DST then names
(log 53). A write of line 0 of a handoff channel is seen by the channel (R368). -/
def Obligations.RequestPackets : Prop :=
  ∀ (s : State) (p : Nat) (pk : Packet) (s1 : State), PacketHere s p pk s1 → pk.src ≠ s1.self → pk.status = Status.ok →
    let q := s1.serveReq (packetReq pk (some p))
    q.2.1 = none → (pk.op = 0x20 → s1.mcWait pk none = none) → q.2.2.self = s1.self →
    let row := fun (c : Instr) (last : Bool) => ∃ u : State,
      exec c s = .next
        (if pk.op ≠ 0x01 ∧ q.1.status = Status.ok then u.lineZeroWritten pk.addr.toNat pk.payload.length else u).wakeUp ∧
      (∀ a, u.memByte a = q.2.2.memByte a) ∧
      (last = true → ∀ r, q.2.2.route q.2.2.place (Place.ofCoord pk.src) = some r → q.2.2.opens r.port →
        u.waitsIn r.port fun x => x.op = pk.op ||| 0x80 ∧ x.tag = pk.tag ∧ x.src = s1.self ∧ x.dst = pk.src ∧
          x.status = q.1.status ∧ (pk.op ≠ 0x20 → x.payload = q.1.payload))
    (pk.op = 0x01 → row (.pktRead p pk) true) ∧ (pk.op = 0x02 → row (.pktWrite p pk) true) ∧
    (pk.op = 0x03 → row (.pktCas p pk) true) ∧ (pk.op = 0x04 → row (.pktSwap p pk) true) ∧
    (pk.op = 0x05 → row (.fetchAdd p pk) true) ∧
    (0x10 ≤ pk.op ∧ pk.op ≤ 0x16 → row (.reductionRequest p pk) true) ∧
    (pk.op = 0x20 → row (.mcastWrite p pk) (pk.mcCount = 0)) ∧
    (pk.op = 0x20 → pk.mcCount ≠ 0 → q.1.status = Status.ok → pk.mcAxis = false → pk.mcDir = false →
      q.2.2.opens 0 → ∃ u : State,
        exec (.mcastWrite p pk) s = .next (u.lineZeroWritten pk.addr.toNat pk.payload.length).wakeUp ∧
        u.waitsIn 0 fun x => x.op = 0x20 ∧ x.dst = (⟨q.2.2.place.x + 1, q.2.2.place.y⟩ : Place).coord ∧
          x.mcCount = pk.mcCount - 1 ∧ x.payload = pk.payload ∧ x.tag = pk.tag)

/-- R11, R261, R262, R269, R270, R273: why a request is not performed, in the order of R11: a level or a permission that is
missing is DENIED, an unmapped range, and one of no bytes (log 48), NOT_FOUND, and a range that no region entry covers or whose
key differs KEY_MISMATCH with its DETAIL; a request whose shape does not fit its OP, an OP that R262 does not list, or the
level 0b11, is REFUSED where its range is mapped and its key no other (log 48). Memory is unchanged, and a failed key check is
counted. -/
def Obligations.RequestsNotPerformed : Prop :=
  ∀ (s : State) (r : Req),
    let q := s.serveReq r
    let m := ((reqShape r.op r.len).map (·.1)).getD (max 1 r.len)
    (reqShape r.op r.len = none ∨ r.priv = 3 →
      (m = 0 ∨ s.mapped (s.jobSide r.job) r.addr m = false → q = (Resp.fail Status.notFound 0, none, s)) ∧
      (0 < m → s.mapped (s.jobSide r.job) r.addr m = true →
        (∀ d, s.keyCheck r.addr m r.key .read 0 false = some (Status.keyMismatch, d) →
          q.1 = Resp.fail Status.keyMismatch d ∧ q.2.1 = none ∧ ∀ a, q.2.2.memByte a = s.memByte a) ∧
        ((∀ d, s.keyCheck r.addr m r.key .read 0 false ≠ some (Status.keyMismatch, d)) →
          q = (Resp.fail Status.refused 0, none, s)))) ∧
    ∀ n acc align plen, reqShape r.op r.len = some (n, acc, align, plen) → r.priv ≠ 3 →
      let key := s.keyCheck r.addr n r.key acc r.priv.toNat r.inport.isSome
      (n = 0 → q = (Resp.fail Status.notFound 0, none, s)) ∧
      (0 < n → s.mapped (s.jobSide r.job) r.addr n = false → (∀ d, key ≠ some (Status.denied, d)) →
        q = (Resp.fail Status.notFound 0, none, s)) ∧
      (0 < n → ∀ st d, key = some (st, d) → s.mapped (s.jobSide r.job) r.addr n = true ∨ st = Status.denied →
        q.1 = Resp.fail st d ∧ q.2.1 = none ∧ (∀ a, q.2.2.memByte a = s.memByte a) ∧
        ∀ p, r.inport = some p → q.2.2.odGet (Od.portKeyMismatch p) = (s.odGet (Od.portKeyMismatch p) + 1) % 2 ^ 64) ∧
      (0 < n → key = none → s.mapped (s.jobSide r.job) r.addr n = true → r.payload.length ≠ plen ∨ r.addr % align ≠ 0 →
        q = (Resp.fail Status.refused 0, none, s)) ∧
      (0 < n → s.mapped (s.jobSide r.job) r.addr n = true →
        (s.region? r.addr n = none → q.1 = Resp.fail Status.keyMismatch 0x02) ∧
        ∀ e, s.region? r.addr n = some e →
          (r.key = 0 ∨ regKey e ≠ r.key → q.1 = Resp.fail Status.keyMismatch 0x03) ∧
          (r.key ≠ 0 → regKey e = r.key → regLevel e < r.priv.toNat ∨ (r.inport.isSome ∧ e.getLsbD 5 = false) ∨
            e.getLsbD acc.bit = false → q.1 = Resp.fail Status.denied 0))

/-- R274: INVALIDATE takes the line of its home from the domain cache, also from a load of it that is under way, and is
answered with INV_ACK; an INV_ACK is taken off every operation that waits for it, and the last that an operation waits for
releases its response. A TIMEOUT in its place counts for the sharer that its TAG names (R382, log 82). A packet for another device goes
on, and keeps the slots of the buffer that it stood in until it is sent (R248); one from fenced coordinates is discarded and
counted (R257, R382). -/
def Obligations.CoherencePackets : Prop :=
  ∀ (s : State) (p : Nat) (pk : Packet) (s1 : State), s.log.roomy = true → s.takeRx p pk = some s1 →
    let here := s1.fencedPlace pk.src = false ∧ pk.dst = s1.self ∧ pk.wpValid = false
    (here → pk.op = 0x30 → ∃ u : State,
      exec (.invalidate p pk) s = .next (u.sendResponse pk.vc (respPacket pk s1.self Resp.ok)) ∧
      u = { s1 with fab := { s1.fab with lineCache := u.fab.lineCache, tracker := u.fab.tracker } } ∧
      (∀ c, c ∈ u.fab.lineCache ↔ c ∈ s1.fab.lineCache ∧ ¬(c.home = pk.src ∧ c.line = pk.addr.toNat / 128)) ∧
      u.fab.tracker = s1.fab.tracker.map fun t =>
        if t.op = 0x01 ∧ t.dst = pk.src ∧ (t.addr.extractLsb' 0 40).toNat / 128 = pk.addr.toNat / 128 then
          { t with stale := true } else t) ∧
    (here → pk.op = 0xB0 →
      let ack := (pk.addr.toNat / 128, if pk.status = Status.timeout then pk.tag else pk.src)
      let waits := s1.fab.invWaits.map fun w => { w with waiting := w.waiting.erase ack }
      exec (.invAck p pk) s = .next (((waits.filter fun w => w.waiting.isEmpty).filterMap (·.response)).foldl State.acked
        { s1 with fab := { s1.fab with invWaits := waits.filter fun w => !w.waiting.isEmpty } })) ∧
    (∀ c, (pk.op = 0x30 ∧ c = .invalidate p pk) ∨ (pk.op = 0xB0 ∧ c = .invAck p pk) ∨ (pk.op = 0x01 ∧ c = .pktRead p pk) →
      (s1.fencedPlace pk.src = true → exec c s = .next (s1.odAdd Od.fenceDiscards 1)) ∧
      (s1.fencedPlace pk.src = false → pk.dst ≠ s1.self → ∀ w u, s.pullRx p pk = some (w, u) →
        exec c s = .next (u.forward p (if w = .buffer then some (packetPool pk) else none) pk)))

/-! ### The dispatcher (R67 to R76) -/

/-- R72: the dispatcher serves the ring of the highest priority (the lowest number) that has a command it may take, and among
those of one priority the next after the one served last.
R69, R71: the command at HEAD is taken: HEAD goes on, and its fields are those of the 64 bytes. One of another job than
its ring's is DENIED, one of an undefined opcode REFUSED; any other waits for its own checks. One that an abort has removed
from the ring is passed over (R75). -/
def Obligations.RingService : Prop :=
  (∀ s : State, (∀ r < 64, s.odGet (Od.ringPriority r) < 4) →
    (s.nextRing = none ↔ ∀ r < 64, s.takeable r = false) ∧
    ∀ r, s.nextRing = some r → r < 64 ∧ s.takeable r = true ∧
      let p := s.odGet (Od.ringPriority r)
      let far := fun k => (k + 63 - SMap.get 63 s.disp.served p) % 64
      SMap.get 63 s.disp.served p < 64 →
      ∀ k < 64, s.takeable k = true → p ≤ s.odGet (Od.ringPriority k) ∧ (s.odGet (Od.ringPriority k) = p → far r ≤ far k)) ∧
  ∀ (s : State) (r : Nat),
    let a := s.odGet (Od.ringBase r) + 64 * (s.ring r).head
    let x := BitVec.ofNat 512 (bytesNat (s.memBytes a 64))
    let ringJob := BitVec.ofNat 16 (s.odGet (Od.ringJob r))
    let next : Ring := ⟨((s.ring r).head + 1) % s.odGet (Od.ringEntries r), (s.ring r).tail⟩
    let removed := s.disp.removed.contains (r, (s.ring r).head)
    (removed = true → (s.takeCmd r).ring r = next ∧ (s.takeCmd r).disp.cmds = s.disp.cmds ∧ (s.takeCmd r).out = s.out ∧
      (s.takeCmd r).disp.removed.contains (r, (s.ring r).head) = false) ∧
    (removed = false → CleanBytes s a 64 → s.hbmReadFails = [] → ∃ (u : State) (c : Cmd),
      c.serial = s.disp.nextSerial ∧ c.ring = r ∧ c.phase = .taken ∧ c.opcode = x.extractLsb' 0 16 ∧
      c.flags = x.extractLsb' 32 16 ∧ c.job = x.extractLsb' 48 16 ∧ c.cmdId = x.extractLsb' 96 32 ∧
      c.tag = x.extractLsb' 128 64 ∧ c.args = x.extractLsb' 192 320 ∧
      u.disp.cmds = s.disp.cmds ++ [c] ∧ u.ring r = next ∧
      (c.job ≠ ringJob → s.takeCmd r = u.commit c Status.denied 0) ∧
      (c.job = ringJob → opcodeDefined c.opcode = false → s.takeCmd r = u.commit c Status.refused 0) ∧
      (c.job = ringJob → opcodeDefined c.opcode = true → s.takeCmd r = u))

/-- R73, R74, R75, R202: a commit. The command is gone and remembered; its record, with the phase bit of the ring, is at
CQ_TAIL, which goes on, and the ring's interrupt is signalled (`State.signal`, R473); QUIET leaves the record of an OK out;
without room the record waits, and so it does while the record of a command that was aborted before is to come (R73, log 51).
A full ring stalls the command rings that report to it. A LAUNCH is counted.
R73: records of one commit point, here none but this one, stand in the order of their rings and positions. -/
def Obligations.CommitPoint : Prop :=
  ∀ (s : State) (c : Cmd) (st : Status) (detail : BitVec 16), s.odGet (Od.ringState c.ring) ≠ 2 →
    let q := s.odGet (Od.ringCq c.ring)
    let t := s.commit c st detail
    let record := s.odGet (Od.cqBase q) + 32 * (s.cq q).tail
    let ctrl := s.odGet (Od.cqCtrl q)
    let quiet := st = Status.ok ∧ c.flags.getLsbD 1 = true
    let alone := (∀ y ∈ (s.cq q).ties, y.time ≠ s.clk.now) ∧ ∀ y ∈ (s.cq q).waiting, y.time ≠ s.clk.now
    (∀ k, t.cmd? k = if k = c.serial then none else s.cmd? k) ∧ t.disp.recent.head? = some (c.ring, c.cmdId) ∧
    t.odGet Od.thrLaunchCount =
      (if c.opcode = 0x0001 then (s.odGet Od.thrLaunchCount + 1) % 2 ^ 64 else s.odGet Od.thrLaunchCount) ∧
    (quiet → t.out = s.out ∧ ∀ a, t.memByte a = s.memByte a) ∧
    let held := s.cqHeld q s.clk.now
    let asWaiting := placeRecord ⟨s.clk.now, c.ring, c.pos, cqRecord s c st detail⟩ (s.cq q).waiting
    (¬quiet → alone → (s.cq q).waiting = [] → s.cqRoom q = true → held = false →
      t.out = (s.signal (8 + q)).out ∧ t.pcie = (s.signal (8 + q)).pcie ∧ (t.cq q).tail = ((s.cq q).tail + 1) % s.odGet (Od.cqEntries q) ∧
      (t.cqRoom q = false → (t.cq q).stalled = true) ∧
      (CleanBytes s record 32 → CleanBytes s ctrl 4 → s.hbmReadFails = [] → ctrl + 4 ≤ record ∨ record + 32 ≤ ctrl →
        t.memBytes record 32 = natBytes 32 ((cqRecord s c st detail).toNat + if (s.cq q).phase then 1 else 0) ∧
        ∀ a, (a < record ∨ record + 32 ≤ a) → (a < ctrl ∨ ctrl + 4 ≤ a) → t.memByte a = s.memByte a)) ∧
    (¬quiet → alone → s.cqRoom q = false ∨ (held = true ∧ (s.cq q).waiting = []) →
      (t.cq q).waiting = asWaiting ∧ (t.cq q).tail = (s.cq q).tail ∧ t.out = s.out) ∧
    (¬quiet → s.cqRoom q = false → (t.cq q).stalled = true) ∧
    ∀ (x : CqRecord) (l : List CqRecord), l.Pairwise (fun a b => b.before a = false) →
      (placeRecord x l).Perm (x :: l) ∧ (placeRecord x l).Pairwise fun a b => b.before a = false

/-- R67, R68, R71, R74: NOP commits; a write of the tail line makes new commands known, or stops a ring whose TAIL is not
valid and logs it; a write of CQ_HEAD ends the stall unless the ring is still full. `State.pump` is the dispatcher taking what it then may (R72). -/
def Obligations.RingCommands : Prop :=
  (∀ (s : State) (cmd : Nat) (c : Cmd), DueCmd s cmd 0x0000 c →
    exec (.nopCommand cmd) s = .next (s.commit c (if c.bad then Status.refused else Status.ok) 0).pump) ∧
  (∀ (s : State) (r : Nat) (tail : BitVec 32), s.log.roomy = true → r < 64 → s.odGet (Od.ringEnable r) = 1 → s.odGet (Od.ringState r) = 1 →
    let ok := tailValid (s.odGet (Od.ringEntries r)) (s.ring r).head (s.ring r).tail tail.toNat
    (ok = true → ∃ u : State, exec (.tailLineWrite r tail) s = .next u.pump ∧ u.ring r = ⟨(s.ring r).head, tail.toNat⟩) ∧
    (ok = false → ∃ t : State, exec (.tailLineWrite r tail) s = .next t ∧ t.odGet (Od.ringState r) = 3 ∧
      t.ring r = s.ring r ∧ ∃ e, t.log.ingress.getLast? = some e ∧ e.kind = 0x0001 ∧ e.severity = sevError)) ∧
  ∀ (s : State) (q : Nat) (head : BitVec 32), s.log.roomy = true → q < 64 → s.odGet (Od.cqEnable q) = 1 →
    ∃ u : State, exec (.cqHeadWrite q head) s = .next u.pump ∧ (u.cq q).head = head.toNat ∧
      ((s.cq q).waiting = [] → (u.cq q).waiting = [] ∧ ((u.cq q).stalled = true ↔ u.cqRoom q = false) ∧ (u.cq q).tail = (s.cq q).tail)

/-! ### LAUNCH and COPY (R172 to R175, R238, R239) -/

/-- R174, R175, R198, R215: LAUNCH is refused or waits for its cores with the parameters that its block holds. At its start
each of its cores holds its groups at ENTRY with all threads active, registers zero but u0 to u31, no token and no tag; it
commits once they have ended, with OK, or ABORTED where it met an exception or an abort; an aborted one as of the time of
its abort (R75, log 51). A LAUNCH of which a core has failed meanwhile is REFUSED (R392). -/
def Obligations.Launches : Prop :=
  (∀ (s : State) (cmd : Nat) (c : Cmd), DueCmd s cmd 0x0001 c →
    (s.launchRefused c = true → exec (.launch cmd) s = .next (s.commit c Status.refused 0).pump) ∧
    (s.launchRefused c = false → CleanBytes s c.paramAddr 256 → s.hbmReadFails = [] → ∃ u : State,
      exec (.launch cmd) s = .next u.pump ∧ ∃ l : Launch, u.disp.launches = s.disp.launches ++ [l] ∧
        l.cmd = c.serial ∧ l.cores = c.launchCores ∧ l.entry = BitVec.ofNat 40 c.entry ∧ l.started = false ∧
        l.groups = c.groupsField + 1 ∧
        ∀ i < 32, l.params.getD i 0 = BitVec.ofNat 64 (bytesNat (s.memBytes (c.paramAddr + 8 * i) 8)))) ∧
  (∀ (s : State) (cmd : Nat) (l : Launch) (c : Cmd), s.log.roomy = true → s.launch? cmd = some l → s.cmd? cmd = some c →
    (s.launchMay l = true → l.cores.any s.coreFailed = true →
      exec (.launchStart cmd) s = .next ((s.dropLaunch cmd).commit c Status.refused 0).pump) ∧
    (s.launchMay l = true → l.cores.any s.coreFailed = false → l.cores.Nodup →
      ∃ u : State, exec (.launchStart cmd) s = .next u.pump ∧
      (∀ n ∈ l.cores, (u.core n).tokens = [] ∧ (u.core n).ops = [] ∧ (u.core n).wTags = [] ∧ (u.core n).acc = [] ∧
        ∀ sl < l.groups, ∃ q, u.group? ⟨n, sl⟩ = some q ∧ q.pc = l.entry ∧ q.active = 0xFFFFFFFF ∧
          q.live = 0xFFFFFFFF ∧ q.hold = .none ∧ q.stack = [] ∧ (∀ i r, q.vGet i r = 0) ∧ (∀ i k, q.pGet i k = false) ∧
          ∀ r < 64, q.uGet r = if r < 32 then l.params.getD r 0 else 0) ∧
      (∀ n, n ∉ l.cores → u.core n = s.core n) ∧ ∀ a, u.memByte a = s.memByte a) ∧
    (s.launchMay l = false → exec (.launchStart cmd) s = .next s) ∧
    (s.launchOver l = true → ∃ u : State,
      (let detail := BitVec.ofNat 16 (l.firstCause.toNat + 16 * min l.excCount 4095)
      exec (.launchCommit cmd) s = .next (match l.aborted with
        | some (time, epoch) => u.commitAt c Status.aborted detail time epoch
        | none => u.commit c (if l.excCount = 0 then Status.ok else Status.aborted) detail).pump) ∧
      (∀ n ∈ l.cores, (u.core n).launch ≠ some cmd) ∧ u.launch? cmd = none) ∧
    (s.launchOver l = false → exec (.launchCommit cmd) s = .next s))

/-- R11, R238, R239: a COPY that fails a check gets the status of the first one in the order of R11; else it joins its
Lighter's queue. A copy inside the device of one piece carries its bytes, and commits OK with nothing poisoned. -/
def Obligations.Copies : Prop :=
  (∀ (s : State) (cmd : Nat) (c : Cmd), DueCmd s cmd 0x0002 c →
    let keys := s.copyKeys c
    let missing := s.copyMissing (s.jobSide c.job) c.copySrc c.copyLen || s.copyMissing (s.jobSide c.job) c.copyDst c.copyLen
    let refused := fun st => exec (.copy cmd) s = .next ((s.rangeRefused c.job (some st) keys).commit c st 0).pump
    let denied := keys.any fun k => k.2.1 = Status.denied
    let mismatch := keys.any fun k => k.2.1 = Status.keyMismatch
    let cut := s.copyCut c.copySrc || s.copyCut c.copyDst
    (denied = true → refused Status.denied) ∧
    (denied = false → missing = true → refused Status.notFound) ∧
    (denied = false → missing = false → mismatch = true → refused Status.keyMismatch) ∧
    (denied = false → missing = false → mismatch = false → cut = true → refused Status.planMismatch) ∧
    (denied = false → missing = false → mismatch = false → cut = false → s.copyRefused c = true → refused Status.refused) ∧
    (denied = false → missing = false → mismatch = false → cut = false → s.copyRefused c = false →
      s.lighterLoad (s.pickLighter c) < 16 → ∃ (u : State) (j : CopyJob), exec (.copy cmd) s = .next u.pump ∧
        u.disp.copies = s.disp.copies ++ [j] ∧ j.cmd = c.serial ∧ j.lighter = s.pickLighter c ∧
        j.src = BitVec.ofNat 64 c.copySrc ∧ j.dst = BitVec.ofNat 64 c.copyDst ∧ j.len = c.copyLen ∧ j.running = false)) ∧
  (∀ (s : State) (n : Nat) (j : CopyJob) (c : Cmd) (rest : List CopyJob), s.log.roomy = true →
    s.disp.copies.filter (fun j => j.lighter = n) = j :: rest → s.copy? j.cmd = some j → s.cmd? j.cmd = some c →
    j.running = false → j.issued = 0 → j.fail = none → s.working = true → s.isOwn j.src.toNat = true → s.isOwn j.dst.toNat = true →
    let src := globalLocal j.src.toNat
    let dst := globalLocal j.dst.toNat
    0 < j.len → src % 8 = 0 → dst % 8 = 0 → j.len % 8 = 0 → src % 256 + j.len ≤ 256 → dst % 256 + j.len ≤ 256 →
    j.src.toNat % 256 = src % 256 → s.channelClosed src = false → s.channelClosed dst = false →
    CleanBytes s src j.len → s.hbmReadFails = [] → (src + j.len ≤ dst ∨ dst + j.len ≤ src) →
    ∃ u : State, exec (.copyStart n) s = .next u.wakeUp.pump ∧ u.memBytes dst j.len = s.memBytes src j.len ∧
      (∀ a, a < dst ∨ dst + j.len ≤ a → u.memByte a = s.memByte a) ∧
      ∃ k, u.copy? j.cmd = some k ∧ k.running = true ∧ k.issued = j.len ∧ k.poisoned = j.poisoned ∧ k.fail = none) ∧
  ∀ (s : State) (cmd : Nat) (j : CopyJob) (c : Cmd), s.log.roomy = true → s.copy? cmd = some j → s.cmd? cmd = some c → j.running = true →
    s.copyOut cmd = 0 → j.poisoned = 0 → ∃ u : State, u.copy? cmd = none ∧
      (j.fail = none → j.issued = j.len → (s.isOwn j.dst.toNat = true → s.linesAcked (globalLocal j.dst.toNat) j.len = true) →
        exec (.copyCommit cmd) s = .next (u.commit c Status.ok 0).pump ∧ ∀ a, u.memByte a = s.memByte a) ∧
      (∀ st, j.fail = some st → exec (.copyCommit cmd) s = .next (u.commit c Status.aborted (st.setWidth 16)).pump)

/-! ### Collectives (R281 to R310) -/

/-- R285, R286, R287, R301: BUCKET_POST gets the status of its first failing check, waits while no slot is free, and else starts
in a free slot with what its ARGS say; BKT_READY lets its chunks go, or is kept for a bucket not yet posted; a COLL_DATA
packet that no started bucket takes is discarded, counted and logged. `State.bucketGo` does what of R289 is then due.
R290, R292: a bucket commits with OK once every chunk is gathered, and says whether its result holds a non-finite or a
poisoned element; a peer's abort and the time limit end it with ABORTED, the cause in DETAIL [15:8], and log it. What is in
DST and RES then is free (log 18). -/
def Obligations.Buckets : Prop :=
  ((∀ (s : State) (cmd : Nat) (c : Cmd), DueCmd s cmd 0x0010 c →
    let checks := s.collChecks c c.bkGroup ((s.bkRanges c).map fun r => (r.1, r.2.1, c.bkKey, r.2.2)) (s.bkRefused c) false
    (∀ st u, checks = some (st, u) → exec (.bucketPost cmd) s = .next (u.commit c st 0).pump) ∧
    (checks = none → s.freeSlot = none → exec (.bucketPost cmd) s = .next s.pump) ∧
    ∀ i, checks = none → s.freeSlot = some i → ∃ (u : State) (b : Bucket),
      exec (.bucketPost cmd) s = .next (u.bucketGo c.serial).pump ∧ u.disp.buckets = s.disp.buckets ++ [b] ∧
      b.cmd = c.serial ∧ b.slot = i ∧ b.job = c.job ∧ b.group = c.bkGroup ∧ b.id = c.bkId ∧ b.elems = s.bkElems c ∧
      b.src = c.bkSrc ∧ b.dst = c.bkDst ∧ b.wire = c.bkWire ∧ b.sfmt = c.bkSfmt ∧ b.dfmt = c.bkDfmt ∧ b.reduced = 0 ∧
      b.gathered = 0 ∧ b.deadline = s.clk.now + 1000000 * s.odGet Od.collTimeout) ∧
  (∀ (s : State) (fl : CollFlit), FlitHere s fl →
    (∀ b, s.bucket? fl.job fl.group.toNat fl.value = some b →
      exec (.bktReady fl) s = .next ((s.setBucket { b with ready := fl.src :: b.ready }).bucketGo b.cmd)) ∧
    (s.bucket? fl.job fl.group.toNat fl.value = none → ∃ t : State, exec (.bktReady fl) s = .next t ∧
      t.disp.readies = s.disp.readies ++ [fl] ∧ t = { s with disp := t.disp })) ∧
  ∀ (s : State) (p : Nat) (pk : Packet) (s1 : State), PacketHere s p pk s1 → pk.op = 0x40 →
    let a := pk.addr.toNat
    let found := s1.bucket? pk.job (a / 16 % 16) (BitVec.ofNat 32 (a / 256))
    (∀ b, found = some b → s1.bucketTakes b pk = true → ∃ x : RxPkt,
      exec (.collData p pk) s = .next ((s1.setBucket { b with rx := b.rx ++ [x] }).bucketGo b.cmd) ∧ x.src = pk.src ∧
      x.payload = pk.payload ∧ x.index = pk.tag.toNat ∧ x.chunk = 256 * pk.status.toNat + pk.detail.toNat) ∧
    (found = none ∨ (∃ b, found = some b ∧ s1.bucketTakes b pk = false) → ∃ t : State,
      exec (.collData p pk) s = .next t ∧ t.odGet Od.collDiscarded = (s1.odGet Od.collDiscarded + 1) % 2 ^ 64 ∧
      t.disp = s1.disp ∧ ∃ e, t.log.ingress = s1.log.ingress ++ [e] ∧ e.kind = 0x0402)) ∧
  ∀ (s : State) (b : Bucket) (c : Cmd), s.log.roomy = true → s.bucketOf? b.cmd = some b → s.cmd? b.cmd = some c →
    let ends := fun (command : Instr) (cause : Status) (from_ : State) => ∃ u : State,
      exec command s = .next (u.commit c Status.aborted (BitVec.ofNat 16 (256 * cause.toNat))).pump ∧
      u.bucketOf? b.cmd = none ∧ u.odGet Od.bucketsAborted = (from_.odGet Od.bucketsAborted + 1) % 2 ^ 64 ∧
      u.clk = from_.clk ∧ ∃ e, u.log.ingress = from_.log.ingress ++ [e] ∧ e.kind = 0x0401 ∧ e.severity = sevWarning
    (b.gathered = b.chunks → s.linesAcked b.dst (b.elems * elemBytes b.dfmt) = true → s.linesAcked b.res (4 * b.elems) = true →
      b.ledger = 0xFF → ∃ u : State, exec (.bucketPostCommit b.cmd) s = .next (u.commit c Status.ok
          ((if b.nonfinite then 1 else 0) ||| if b.poison then 2 else 0)).pump ∧ u.bucketOf? b.cmd = none ∧
        u.odGet Od.bucketsDone = (s.odGet Od.bucketsDone + 1) % 2 ^ 64 ∧ ∀ a, u.memByte a = s.memByte a) ∧
    (b.gathered ≠ b.chunks → exec (.bucketPostCommit b.cmd) s = .next s) ∧
    (∀ fl, FlitHere s fl → s.bucket? fl.job fl.group.toNat fl.value = some b → ends (.bktAbort fl) Status.aborted s) ∧
    ends (.collTimeout b.cmd) Status.timeout (s.advanceTo b.deadline) ∧ b.deadline ≤ (s.advanceTo b.deadline).clk.now

/-- R33, R309, R310: a barrier from its start to its release. A member without predecessors sends its arrival to its successor
at once; the root, once all have arrived with its own epoch, releases with OK, and the switch is due EPOCH_LEAD later; a
failure releases with REFUSED, a time-out with TIMEOUT, and without a release within a further BARRIER_TIMEOUT the member
ends by itself. A BAR_ABORT at the root, and the root's own time-out, is held for its timestamp, in which a last arrival still
decides, and releases with TIMEOUT after it (that it waits for the end of its timestamp is log 72).
R33, R34: at the time T that a release fixed, the epoch of its context changes, the switch time is T and the barrier
commits with OK. -/
def Obligations.BarriersAndEpochs : Prop :=
  ((∀ (s : State) (cmd : Nat) (c : Cmd), DueCmd s cmd 0x0011 c →
    let ctx := c.arg 192 4
    let g := c.arg 196 4
    let checks := s.collChecks c g [] (c.bad || decide (c.arg 200 312 ≠ 0) || decide (c.job.toNat ≠ (s.grp g).job))
      (s.barrier? ctx).isSome
    let p := s.chainPlace g
    (∀ st u, checks = some (st, u) → exec (.barrier cmd) s = .next (u.commit c st 0).pump) ∧
    (checks = none → s.disp.arrivals = [] → s.disp.barAborts = [] → s.disp.barReleases = [] → ∃ u : State, exec (.barrier cmd) s = .next u.pump ∧
      (p.preds = [] → p.succ = none → SMap.find? u.epochs ctx = some (s.clk.now + s.odGet Od.epochLead, s.epoch ctx + 1,
        some c.serial)) ∧
      (p.succ ≠ none ∨ p.preds ≠ [] → ∃ b, u.barrier? ctx = some b ∧ b.cmd = c.serial ∧
        b.value = s.epoch ctx ∧ b.arrivedAt = s.clk.now ∧ b.released = false ∧ (b.sent = true ↔ p.preds = [])) ∧
      ∀ d r, p.preds = [] → p.succ = some d → s.route s.place (Place.ofCoord d) = some r → (s.port r.port).state.carries = true →
        s.fenced r.port = false → (u.port r.port).ctrlq = (s.port r.port).ctrlq ++
          [ctrlSlot 0x12 (s.flitTo (Place.ofCoord d) c.job g (s.epoch ctx) Status.ok false ctx)])) ∧
  (∀ (s : State) (ctx : Nat) (r : BarrierRun) (c : Cmd), s.log.roomy = true → s.barrier? ctx = some r →
    s.cmd? r.cmd = some c → r.released = false →
    let root := (s.chainPlace r.group).succ = none
    let due := fun (t : State) => SMap.find? t.epochs ctx = some (s.clk.now + s.odGet Od.epochLead, r.value + 1, some r.cmd)
    let ends := fun (command : Instr) (st : Status) => ∃ u : State, exec command s = .next (u.commit c st 0).pump ∧
      u.barrier? ctx = none ∧ u.odGet Od.barriersFailed = (s.odGet Od.barriersFailed + 1) % 2 ^ 64 ∧
      ∃ e, u.log.ingress = s.log.ingress ++ [e] ∧ (e.kind = 0x0411 ∨ e.kind = 0x0412)
    (∀ fl, FlitHere s fl → fl.context.toNat = ctx → flitOfBarrier r ctx fl = true →
      ((s.chainPlace r.group).succ = some fl.src → fl.status = Status.ok →
        ∃ t, exec (.barRelease fl) s = .next t ∧ due t ∧ t.barrier? ctx = some { r with released := true }) ∧
      ((s.chainPlace r.group).succ = some fl.src → fl.status ≠ Status.ok → ends (.barRelease fl) fl.status) ∧
      (root → r.sent = false → r.failed = false → fl.src ∈ (s.chainPlace r.group).preds → fl.src ∉ r.arrived →
        (∀ d ∈ (s.chainPlace r.group).preds, d = fl.src ∨ d ∈ r.arrived) →
        (r.abortDue s.clk.now = true → ends (.barArrive fl) Status.timeout) ∧
        (r.abortDue s.clk.now = false → fl.status = Status.ok → fl.value = r.value →
          ∃ t, exec (.barArrive fl) s = .next t ∧ due t) ∧
        (r.abortDue s.clk.now = false → fl.status ≠ Status.ok ∨ fl.value ≠ r.value → ends (.barArrive fl) Status.refused)) ∧
      (root → r.abortSeen = none → fl.value = r.value → ∃ t, exec (.barAbort fl) s = .next t ∧
        t.barrier? ctx = some { r with abortSeen := some s.clk.now }) ∧
      (root → r.abortDue s.clk.now = true → ends (.barAbort fl) Status.timeout)) ∧
    (r.abortAt = none → r.arrivedAt + 1000000 * s.odGet Od.barrierTimeout ≤ s.clk.now →
      (root → r.abortDue s.clk.now = true → ends (.barrierTimeout ctx) Status.timeout) ∧
      (root → r.abortDue s.clk.now = false → ∃ t, exec (.barrierTimeout ctx) s = .next t ∧
        t.barrier? ctx = some { r with abortAt := some s.clk.now, abortSeen := r.abortSeen.or (some s.clk.now) }) ∧
      (¬root → ∃ t, exec (.barrierTimeout ctx) s = .next t ∧ t.barrier? ctx = some { r with abortAt := some s.clk.now })) ∧
    (∀ at_, r.abortAt = some at_ → at_ + 1000000 * s.odGet Od.barrierTimeout ≤ s.clk.now →
      ends (.barOrphaned ctx) Status.timeout) ∧
    (root → r.abortDue s.clk.now = true → ∃ u : State, s.rootDecides ctx = (u.commit c Status.timeout 0).pump ∧
      u.barrier? ctx = none))) ∧
  ∀ (s : State) (ctx t : Nat) (e : BitVec 32) (k : Nat) (c : Cmd), s.log.roomy = true →
    SMap.find? s.epochs ctx = some (t, e, some k) → s.cmd? k = some c →
    ∃ u : State, exec (.epochSwitch ctx) s = .next (u.commit c Status.ok 0).pump ∧ t ≤ u.clk.now ∧
      (s.clk.now < t → (∀ x ∈ s.epochs, x.1 < 16 ∧ (x.1 = ctx → x.2 = (t, e, some k))) →
        u.epoch ctx = e ∧ u.odGet (Od.epochSwitchTime ctx) = t) ∧
      (∀ k < 16, k ≠ ctx → u.epoch k = (s.advanceTo t).epoch k) ∧
      u.barrier? ctx = none ∧ u.odGet Od.barriersDone = (s.odGet Od.barriersDone + 1) % 2 ^ 64

/-- R307: the cycles that a PERMUTE follows: every segment that a permutation moves stands in exactly one of them, one that
stays in none, and a cycle begins with its lowest segment and visits each of its segments once, in the order of the table.
R305, R306, R308: PERMUTE gets the status of its first failing check, REFUSED for a table that is no permutation, or starts
its exchange; PERM_DATA is taken by the PERMUTE that waits for it; the end is OK, or ABORTED as for a bucket.
`State.permGo` does the steps of R307 that are then due. -/
def Obligations.Permutes : Prop :=
  (∀ t : List Nat, (∀ x ∈ t, x < t.length) → t.Nodup →
    (∀ g < t.length, t.getD g 0 ≠ g → ∃ c ∈ permCycles t, g ∈ c ∧ ∀ d ∈ permCycles t, g ∈ d → d = c) ∧
    (∀ g < t.length, t.getD g 0 = g → ∀ c ∈ permCycles t, g ∉ c) ∧
    ∀ c ∈ permCycles t, c.Nodup ∧ (∀ x ∈ c, c.headD 0 ≤ x) ∧ ∀ i, i + 1 < c.length → t.getD (c.getD i 0) 0 = c.getD (i + 1) 0) ∧
  (∀ (s : State) (cmd : Nat) (c : Cmd), DueCmd s cmd 0x0012 c →
    let n := s.pmCount c
    let checks := s.collChecks c c.pmGroup [(c.pmBase, c.pmBytes, c.pmKey, Access.read),
      (c.pmBase, c.pmBytes, c.pmKey, Access.write), (c.pmTable, 4 * n, c.pmKey, Access.read)] (s.pmRefused c) false
    let table := (List.range n).map fun i => bytesNat (s.memBytes (c.pmTable + 4 * i) 4)
    (∀ st u, checks = some (st, u) → exec (.permute cmd) s = .next (u.commit c st 0).pump) ∧
    (checks = none → CleanBytes s c.pmTable (4 * n) → s.hbmReadFails = [] →
      (permTable n c.pmSegs table = none → ∃ u : State, exec (.permute cmd) s = .next (u.commit c Status.refused 0).pump ∧
        u.disp = s.disp ∧ ∀ a, u.memByte a = s.memByte a) ∧
      ∀ t, permTable n c.pmSegs table = some t → s.disp.arrivals = [] → (s.chainPlace c.pmGroup).preds ≠ [] →
        (∀ q ∈ s.disp.permutes, q.cmd ≠ c.serial) →
        ∃ (u : State) (p : PermuteRun), exec (.permute cmd) s = .next u.pump ∧ u.disp.permutes = s.disp.permutes ++ [p] ∧
          p.cmd = c.serial ∧ p.table = t ∧ p.stepsDone = 0 ∧ p.exchange.isSome = true ∧ ∀ a, u.memByte a = s.memByte a)) ∧
  ∀ (s : State) (p : PermuteRun) (c : Cmd), s.log.roomy = true → s.permute? p.cmd = some p → s.cmd? p.cmd = some c → s.bucketOf? p.cmd = none →
    (∀ q ∈ s.disp.permutes, q = p) →
    (∀ port pk s1, PacketHere s port pk s1 → pk.op = 0x41 → p.job = pk.job → pk.addr.toNat / 16 % 16 = p.group →
      pk.addr.toNat % 16 = 3 → pk.payload.length = 256 → pk.tag.toNat < 256 → p.rx = [] →
      (∃ x ∈ (s1.permStepsOf p).drop p.stepsDone, x.takes = true ∧ x.seg = pk.addr.toNat / 256 ∧
        x.chunk = 256 * pk.status.toNat + pk.detail.toNat) →
      exec (.permData port pk) s = .next ((s1.setPermute { p with rx :=
        [⟨pk.addr.toNat / 256, 256 * pk.status.toNat + pk.detail.toNat, pk.tag.toNat, pk.payload⟩] }).permGo p.cmd)) ∧
    (p.exchange = none → p.stepsDone = (s.permStepsOf p).length → s.linesAcked p.base c.pmBytes = true → ∃ u : State,
      exec (.permuteCommit p.cmd) s = .next (u.commit c Status.ok 0).pump ∧ u.permute? p.cmd = none ∧
      u.odGet Od.permutesDone = (s.odGet Od.permutesDone + 1) % 2 ^ 64 ∧ ∀ a, u.memByte a = s.memByte a) ∧
    (∀ fl, FlitHere s fl → fl.job = p.job → fl.group.toNat = p.group → fl.value = p.id → ∃ u : State,
      exec (.permAbort fl) s = .next (u.commit c Status.aborted 0x0400).pump ∧ u.permute? p.cmd = none) ∧
    ∃ u : State, exec (.collTimeout p.cmd) s = .next (u.commit c Status.aborted 0x0B00).pump ∧ u.permute? p.cmd = none ∧
      p.deadline ≤ u.clk.now

/-! ### UPDATE_STEP and SNAPSHOT (R319 to R332, R345, R359 to R361) -/

/-- R319, R321: one element of an update: an operand that is not finite leaves it unchanged; a clamp gives a value between the
bounds and an infinite bound changes nothing; a sign is 1, -1 or the zero it is taken of.
R322, R325, R326, R330, R345: UPDATE_STEP gets the status of its first failing check; with the job's NF_STEP_FLAG set it
writes no element and will end with NONFINITE_SKIP; else its entries are applied, in one step (log 54). The flag's sample
point ends its timestamp: a nanosecond passes after it (log 74). Its commit advances the job's SR_STEP by one, and counts a
step that was left out. -/
def Obligations.UpdateSteps : Prop :=
  ((∀ (r : RuleSlot) (w m v h : Val), (w.isFinite && m.isFinite && v.isFinite && h.isFinite) = false →
    (r.element w m v h).1 = none) ∧
  (∀ (r : RuleSlot) (w m v h wx mx vx : Val) (fl : FlagVec), r.element w m v h = (some (wx, mx, vx), fl) →
    wx.isFinite = true ∧
    ((r.co 10).isZero = true → (r.co 11).isZero = true → wx.cmp w = 0)) ∧
  (∀ x c : Val, c.isInf = true → clampTo x c = x) ∧
  (∀ x c : Val, x.isFinite = true → c.isFinite = true → c.lt .zero = false → (c.lt (clampTo x c)) = false ∧
    (clampTo x c).lt c.neg = false ∧ (c.lt x = false → x.lt c.neg = false → clampTo x c = x)) ∧
  ∀ x : Val, x.isFinite = true → (signOf x).cmp .zero = x.cmp .zero ∧ (signOf x).abs.cmp (if x.isZero then .zero else .one) = 0) ∧
  (∀ (s : State) (cmd : Nat) (c : Cmd), DueCmd s cmd 0x0020 c → s.snapHolds c.job = false →
    (∀ st u, s.updCheck c = .fails st u → exec (.updateStep cmd) s = .next ((u.dropUpdate cmd).commit c st 0).pump) ∧
    ∀ es u, s.updCheck c = .ok es u → u.upCores c es = [] →
      ∀ i, u.jobSlot? c.job = some i → u.odGet (Od.lossMode i) = 0 → ∃ t : State, exec (.updateStep cmd) s = .next t.pump ∧
        (u.odGet (Od.nfStepFlag i) = 1 → (∀ a, t.memByte a = u.memByte a) ∧
          t.update? cmd = some ⟨c.serial, true, true, false, [], []⟩ ∧ t.odGet (Od.nfStepFlag i) = 0) ∧
        (u.odGet (Od.nfStepFlag i) ≠ 1 → ∃ q : State, t = (q.applyUpdate (u.startCmd c).1 es []).pass 1 ∧
          q.odGet (Od.nfStepFlag i) = 0 ∧ ∀ a, q.memByte a = u.memByte a)) ∧
  ∀ (s : State) (cmd : Nat) (r : UpdateRun) (c : Cmd), s.log.roomy = true → s.update? cmd = some r → s.cmd? cmd = some c → c.serial = cmd →
    r.applied = true → s.updAcked = true → ∀ i, s.jobSlot? c.job = some i → s.ledger? i = none → ∃ u : State,
      exec (.updateStepCommit cmd) s =
        .next (u.commit c (if r.skipped then Status.nonfiniteSkip else Status.ok) r.detail).pump ∧
      u.odGet (Od.srStep i) = (s.odGet (Od.srStep i) + 1) % 2 ^ 64 ∧ u.update? cmd = none ∧
      u.odGet Od.updSkipCount = (if r.skipped then (s.odGet Od.updSkipCount + 1) % 2 ^ 64 else s.odGet Od.updSkipCount) ∧
      ∀ a, u.memByte a = s.memByte a

/-- R359 to R361: SNAPSHOT is refused or waits for its epoch; its copy carries the source to the partition; its commit writes
the stamp and counts it. -/
def Obligations.Snapshots : Prop :=
  (∀ (s : State) (cmd : Nat) (c : Cmd), DueCmd s cmd 0x0030 c →
    let checks := s.failChecks c (s.rangeChecks [(c.snSrc, c.snLen, c.snSrcKey, .read), (c.snDst, c.snLen, c.snDstKey, .write),
        (c.snStamp, 32, c.snDstKey, .write)])
      ([(c.snSrc, c.snLen), (c.snDst, c.snLen), (c.snStamp, 32)].any fun r => (spanParts r.1 r.2).any fun p =>
        decide (0 < p.2) && !s.mapped .both p.1 p.2)
      (s.snRefused c) false
    (∀ st u, checks = some (st, u) → exec (.snapshot cmd) s = .next (u.commit c st 0).pump) ∧
    (checks = none → ∃ (u : State) (n : SnapRun), exec (.snapshot cmd) s = .next u.pump ∧
      u.disp.snaps = s.disp.snaps ++ [n] ∧ n.cmd = c.serial ∧ n.ctx = c.snCtx ∧ n.epoch = c.snEpoch ∧ n.src = c.snSrc ∧
      n.dst = c.snDst ∧ n.len = c.snLen ∧ n.stamp = c.snStamp ∧ n.reached = none ∧ n.copying = false)) ∧
  ∀ (s : State) (cmd : Nat) (n : SnapRun) (c : Cmd) (t : Nat) (step : BitVec 64), s.log.roomy = true → s.snap? cmd = some n → n.cmd = cmd →
    s.cmd? cmd = some c → n.reached = some (t, step) →
    (n.copying = false → s.working = true → s.disp.updates = [] → n.len = 256 → n.src % 256 = 0 → n.dst % 256 = 0 →
      CleanBytes s n.src 256 → s.hbmReadFails = [] → n.src ≠ n.dst → ∃ t : State,
        exec (.snapshotCopyStart cmd) s = .next t ∧ t.memBytes n.dst 256 = s.memBytes n.src 256 ∧
        (∀ a, a < n.dst ∨ n.dst + 256 ≤ a → t.memByte a = s.memByte a) ∧
        ∃ q, t.snap? cmd = some q ∧ q.copying = true ∧ q.poisoned = 0) ∧
    (n.copying = true → s.linesAcked n.dst n.len = true → n.stamp % 32 = 0 → CleanBytes s n.stamp 32 → s.hbmReadFails = [] →
      ∃ u : State, exec (.snapshotCommit cmd) s =
          .next (u.commit c Status.ok (BitVec.ofNat 16 (256 * min n.poisoned 255))).pump ∧
        u.odGet Od.snapshotsDone = (s.odGet Od.snapshotsDone + 1) % 2 ^ 64 ∧ u.snap? cmd = none ∧
        u.memBytes n.stamp 4 = natBytes 4 c.cmdId.toNat ∧ u.memBytes (n.stamp + 12) 4 = natBytes 4 n.epoch.toNat ∧
        u.memBytes (n.stamp + 16) 8 = natBytes 8 t ∧ u.memBytes (n.stamp + 24) 8 = natBytes 8 step.toNat)

/-! ### The stage-handoff engine and the retention pool (R364 to R376) -/

/-- R368, R369: the start of a SEND and of a RECV on a free channel. A SEND takes POSTED_SEQ and LIMIT from line 1: it waits
where nothing is posted, matches its own SEQ, and is REFUSED and logged for any other. A RECV posts its SEQ and LIMIT to
the sender's line 1, and commits with OK once line 0 shows its whole micro-batch. SEND_CHUNK, under credit and with fewer
than two chunks in flight, sends the next chunk as 256-byte WRITEs to its slot; `State.hoProgress` does what is then due.
R369, R370, R371: the receiver sends every change of CONSUMED on to the sender's line 1, and a sender's LIMIT follows
what is written there; a value that decreases, or goes beyond what PRODUCED allows (at a sender, the highest written toward
the receiver: log 56), sets HO_STATE to 2, is logged, and ends the started HANDOFF with ABORTED and DETAIL REFUSED. A HANDOFF without progress for HANDOFF_TIMEOUT ends with TIMEOUT
and is logged. -/
def Obligations.Handoffs : Prop :=
  ((∀ (s : State) (cmd : Nat) (c : Cmd), DueCmd s cmd 0x0040 c → s.hbmReadFails = [] →
    let h := c.hoChannel
    let x := s.channel h
    let line1 := s.hoCtrl h + 128
    let posted := BitVec.ofNat 32 (bytesNat (s.memBytes (line1 + 12) 4))
    let started := fun m => ∃ u : State, exec (.hoSend cmd) s = .next u.pump ∧
      u.channel h = { x with
        active := some c.serial, base := x.told, produced := x.told, begun := 0, issued := 0, matched := m, stop := none
        posted := posted, limit := bytesNat (s.memBytes line1 8), progressAt := s.clk.now
        stallAt := (u.channel h).stallAt }
    (c.hoFunc = 0 → HandoffOk s c → CleanBytes s line1 16 →
      (posted = 0xFFFFFFFF ∨ some posted = x.lastSent → started false) ∧
      (posted = c.hoSeq → some posted ≠ x.lastSent → started true) ∧
      (posted ≠ 0xFFFFFFFF → some posted ≠ x.lastSent → posted ≠ c.hoSeq → ∃ u : State,
        exec (.hoSend cmd) s = .next ((u.commit c Status.refused 0).pump).pump ∧
        ∃ e, u.log.ingress = s.log.ingress ++ [e] ∧ e.kind = 0x0702 ∧ e.severity = sevWarning)) ∧
    (c.hoFunc = 1 → (x.active = none → ∀ q ∈ s.disp.cmds, q.opcode = 0x0040 → q.hoFunc < 2 → q.hoChannel = h →
        q.serial = c.serial ∨ q.phase = .started) →
      (s.odGet (Od.hoJob h) = 0 → exec (.hoRecv cmd) s = .next (s.commit c Status.notFound 0).pump) ∧
      (s.odGet (Od.hoJob h) ≠ 0 → s.hoLeaves h c.job = true →
        exec (.hoRecv cmd) s = .next (s.commit c Status.planMismatch 0).pump) ∧
      (s.odGet (Od.hoJob h) ≠ 0 → s.hoLeaves h c.job = false → s.odGet (Od.hoState h) ≠ 1 ∨ c.hoSeq = 0xFFFFFFFF →
        exec (.hoRecv cmd) s = .next (s.commit c Status.refused 0).pump) ∧
      (HandoffOk s c → CleanBytes s (s.hoCtrl h) 32 →
        let a := s.odGet (Od.hoPeerCtrl h) + 128
        let line := natBytes 8 (x.limit + s.hoRing h) ++ natBytes 4 0 ++ natBytes 4 c.hoSeq.toNat
        Reaches s a → s.fab.tracker.length < 4096 →
        (¬s.wholeBatch h c.hoSeq → ∃ u : State, exec (.hoRecv cmd) s = .next u.pump ∧
          (u.channel h).active = some c.serial ∧ Opens s u a line (.line1 c.serial)) ∧
        (s.wholeBatch h c.hoSeq → ∃ u : State, exec (.hoRecv cmd) s = .next ((u.commit c Status.ok 0).pump).pump ∧
          Opens s u a line (.line1 c.serial))))) ∧
  ∀ (s : State) (c : Cmd) (n : Nat), s.log.roomy = true → s.cmd? n = some c → c.opcode = 0x0040 →
    let h := c.hoChannel
    let x := s.channel h
    let size := s.hoChunkSize h
    x.active = some c.serial → n = c.serial →
    (c.hoFunc = 1 → x.stop = none → CleanBytes s (s.hoCtrl h) 32 → s.hbmReadFails = [] → s.wholeBatch h c.hoSeq → ∃ u : State,
      exec (.hoRecv n) s = .next (((u.commit c Status.ok 0).pump).hoNext h)) ∧
    (s.odGet (Od.hoRole h) = 0 → x.limit ≤ x.base + x.begun ∨ 2 ≤ s.hoFlight h c → exec (.sendChunk h) s = .next s) ∧
    (s.odGet (Od.hoRole h) = 0 → s.working = true → x.matched = true → x.stop = none → x.begun < s.hoTotal h c →
      x.base + x.begun < x.limit → s.hoFlight h c < 2 → x.issued = x.begun * size → 0 < size → size % 256 = 0 →
      c.hoLen % 256 = 0 → c.hoSrc % 256 = 0 → CleanBytes s c.hoSrc c.hoLen → s.hbmReadFails = [] →
      s.fab.tracker.length + size / 256 ≤ 4096 → 0 < s.hoRing h →
      let slot := s.odGet (Od.hoRingAddr h) + (x.base + x.begun) % s.hoRing h * size
      (∀ a, slot ≤ a → a < slot + size → Reaches s a) →
      let last := min c.hoLen ((x.begun + 1) * size)
      ∃ u : State, exec (.sendChunk h) s = .next (((u.hoProgress h c).hoStall h).hoNext h) ∧
        u.channel h = { x with begun := x.begun + 1, issued := last } ∧
        ∀ i, x.issued + 256 * i < last →
          Opens s u (slot + 256 * i) (s.memBytes (c.hoSrc + x.issued + 256 * i) 256) (.chunk c.serial x.begun))) ∧
  (∀ (s : State) (h : Nat) (v : BitVec 64) (posted : BitVec 32) (c : Cmd), s.log.roomy = true → h < 16 → s.working = true →
    s.odGet (Od.hoState h) = 1 → (s.channel h).stop = none → (s.channel h).active = some c.serial → s.cmd? c.serial = some c →
    CleanBytes s (s.hoCtrl h) 8 → CleanBytes s (s.hoCtrl h + 128) 16 → s.hbmReadFails = [] →
    let x := s.channel h
    let stops := ∃ u : State,
      exec (.consumedLimit h v posted) s = .next (((u.commit c Status.aborted 0x0002).pump).hoNext h) ∧
      u.odGet (Od.hoState h) = 2 ∧ ∃ e ∈ u.log.ingress, e.kind = 0x0701 ∧ e.severity = sevError
    let a := s.odGet (Od.hoPeerCtrl h) + 128
    (s.odGet (Od.hoRole h) = 1 → Reaches s a → s.fab.tracker.length < 4096 →
      let produced := bytesNat (s.memBytes (s.hoCtrl h) 8)
      (x.limit < v.toNat → v.toNat ≤ produced → ∃ t : State, exec (.consumedLimit h v posted) s = .next t ∧
        t.channel h = { x with limit := v.toNat, progressAt := s.clk.now, lineDue := false } ∧
        Opens s t a (natBytes 8 (v.toNat + s.hoRing h) ++ natBytes 4 0 ++ natBytes 4 c.hoSeq.toNat) (.line1 c.serial) ∧
        t.memBytes (s.hoCtrl h + 128) 8 = natBytes 8 v.toNat) ∧
      (v.toNat < x.limit ∨ (x.limit < v.toNat ∧ produced < v.toNat) → stops)) ∧
    (s.odGet (Od.hoRole h) = 0 →
      let most := x.told + s.hoRing h
      (x.limit ≤ v.toNat → v.toNat ≤ most → x.matched = true → ∃ t : State, exec (.consumedLimit h v posted) s = .next t ∧
        (t.channel h).limit = v.toNat ∧ (t.channel h).posted = posted ∧ (t.channel h).active = x.active) ∧
      (x.limit ≤ v.toNat → v.toNat ≤ most → x.matched = false → posted = c.hoSeq → posted ≠ 0xFFFFFFFF →
        some posted ≠ x.lastSent → ∃ t : State, exec (.consumedLimit h v posted) s = .next t ∧
          (t.channel h).limit = v.toNat ∧ (t.channel h).matched = true) ∧
      (v.toNat < x.limit ∨ most < v.toNat → stops))) ∧
  ∀ (s : State) (c : Cmd), s.log.roomy = true → s.cmd? c.serial = some c → c.opcode = 0x0040 → c.hoFunc < 2 →
    (s.channel c.hoChannel).stop = none → (s.channel c.hoChannel).active = some c.serial → ∃ u : State,
      exec (.hoTimeout c.serial) s = .next (((u.commit c Status.timeout 0).pump).hoNext c.hoChannel) ∧
      (s.channel c.hoChannel).progressAt + 1000000 * s.odGet Od.handoffTimeout ≤ u.clk.now ∧
      ∃ e, u.log.ingress.getLast? = some e ∧ e.kind = 0x0703 ∧ e.severity = sevWarning

/-- R375, R376: GET, PUT and DROP. A hit pins the entry; a miss releases entries, oldest first and no more than it must, and
is blocked by a pinned one; PUT unpins, fills and frees; DROP frees an entry without pins. Of a GET that completes OK the
result record gives the address and the hit. -/
def Obligations.Pools : Prop :=
  ∀ (s : State) (cmd : Nat) (c : Cmd) (i : Nat), DueCmd s cmd 0x0040 c → s.jobSlot? c.job = some i →
    let p := s.pool i
    let tag := c.hoSeq
    let base := s.odGet (Od.poolBase i)
    let one := fun (k : Nat) (u : State) (n : Nat) => u.odGet k = (s.odGet k + n) % 2 ^ 64
    let got := fun (e : PoolEntry) (hit : Nat) (P : State → Prop) => ∃ u : State,
      exec (.poolGet cmd) s = .next (u.commit c Status.ok (BitVec.ofNat 16 hit)).pump ∧ P u ∧
      u.memBytes c.poolResult 16 = natBytes 8 ((base + e.offset) % 2 ^ 40) ++ natBytes 8 hit ∧
      ∀ a, a < c.poolResult ∨ c.poolResult + 16 ≤ a → u.memByte a = s.memByte a
    (c.hoFunc = 2 → s.rangeChecks [(c.poolResult, 16, c.hoKey, .write)] = [] → s.mapped (s.jobSide c.job) c.poolResult 16 = true →
      s.inHbm (s.jobSide c.job) c.poolResult 16 = true → c.poolResult % 16 = 0 → c.bad = false → c.hoReserved = false →
      c.hoLen % 256 = 0 → 256 ≤ c.hoLen →
      (s.odGet (Od.poolBytes i) < c.hoLen → exec (.poolGet cmd) s = .next (s.commit c Status.refused 0).pump) ∧
      (c.hoLen ≤ s.odGet (Od.poolBytes i) →
        (∀ e, p.find? tag = some e →
          (e.length ≠ c.hoLen → exec (.poolGet cmd) s = .next (s.commit c Status.refused 0).pump) ∧
          (e.length = c.hoLen → e.filled = false → exec (.poolGet cmd) s = .next (s.commit c Status.busy 0).pump) ∧
          (e.length = c.hoLen → e.filled = true → CleanBytes s c.poolResult 16 → s.hbmReadFails = [] →
            got e 1 fun u => one (Od.poolHits i) u 1 ∧ (u.pool i).find? tag = some { e with pins := e.pins + 1 })) ∧
        (p.find? tag = none →
          let n := (c.hoLen + 65535) / 65536 * 65536
          let at_ := if s.odGet (Od.poolBytes i) < p.head + n then 0 else p.head
          ∀ dead kept, p.entries = dead ++ kept → Pool.fits kept at_ n = true →
            (∀ x y, dead = x ++ y → y ≠ [] → Pool.fits (y ++ kept) at_ n = false) →
            ((∃ e ∈ dead, 0 < e.pins) → exec (.poolGet cmd) s =
              .next ((s.odAdd (Od.poolBlocked i) 1).commit c Status.busy 0).pump) ∧
            ((∀ e ∈ dead, e.pins = 0) → CleanBytes s c.poolResult 16 → s.hbmReadFails = [] →
              let e : PoolEntry := { tag := tag, offset := at_, bytes := n, length := c.hoLen, pins := 1, filled := false }
              got e 0 fun u => u.pool i = ⟨at_ + n, kept ++ [e]⟩ ∧ one (Od.poolMisses i) u 1 ∧
                one (Od.poolEvictions i) u dead.length)))) ∧
    (c.hoFunc = 3 →
      (p.find? tag = none → exec (.poolPut cmd) s = .next (s.commit c Status.notFound 0).pump) ∧
      ∀ e, p.find? tag = some e → c.bad = false → c.hoReserved = false →
        let filled := e.filled = true ∨ c.arg 432 1 = 1
        (e.pins = 0 → exec (.poolPut cmd) s = .next (s.commit c Status.refused 0).pump) ∧
        (0 < e.pins → ∃ u : State, exec (.poolPut cmd) s = .next (u.commit c Status.ok 0).pump ∧
          (e.pins = 1 → ¬filled → (u.pool i).find? tag = none) ∧
          (e.pins ≠ 1 ∨ filled → ∃ q, (u.pool i).find? tag = some q ∧ q = { e with pins := e.pins - 1, filled := q.filled } ∧
            (q.filled = true ↔ filled)))) ∧
    (c.hoFunc = 4 →
      (p.find? tag = none → exec (.poolDrop cmd) s = .next (s.commit c Status.notFound 0).pump) ∧
      ∀ e, p.find? tag = some e → c.bad = false → c.hoReserved = false →
        (0 < e.pins → exec (.poolDrop cmd) s = .next (s.commit c Status.busy 0).pump) ∧
        (e.pins = 0 → ∃ u : State, exec (.poolDrop cmd) s = .next (u.commit c Status.ok 0).pump ∧
          (u.pool i).find? tag = none ∧ ∀ k, k ≠ tag → (u.pool i).find? k = p.find? k))

/-! ### The object dictionary (R36 to R51) -/

/-- R11, R37 to R39, R43, R44: a write to an entry on a path that is heard, with its value in the size of the entry's type. A
level that is missing gives DENIED, before the existence of the entry is looked at, which gives NOT_FOUND. A plain entry,
of which ten stand here, is REFUSED for its access right, the device's state, the length or the value, and else takes
the value; nothing else of the device changes but what the answer on the path is. -/
def Obligations.DictionaryWrites : Prop :=
  ∀ (s : State) (via : OdPath) (index : BitVec 16) (sub : BitVec 8) (bs : List Byte), s.log.roomy = true →
    s.pathOpen via = true → via ≠ .direct →
    let idx := index.toNat
    let sb := sub.toNat
    let row := odRow? idx sb
    let v := bytesNat (match row with
      | some r => bs.take r.ty.size
      | none => bs)
    let answer := fun st (t : State) => exec (.odWrite via index sub bs) s = .next (t.answerWrite via idx sb st)
    (s.writeDenied via idx sb v = true → answer Status.denied s) ∧
    (s.writeDenied via idx sb v = false → odRange? idx = none ∨ s.odRow? idx sb = none → answer Status.notFound s) ∧
    ((idx, sb) ∈ [(0x1003, 0x01), (0x1200, 0x05), (0x2001, 0x02), (0x2140, 0x01), (0x2201, 0x01), (0x2320, 0x01), (0x2320, 0x02),
        (0x2360, 0x01), (0x2600, 0x02), (0x2600, 0x03)] → s.writeDenied via idx sb v = false →
      ∀ r, s.odRow? idx sb = some r →
        let fits := s.accessOk r.access = true ∧ bs.length = r.ty.size ∧ r.ty.accepts v = true ∧ r.check.accepts v = true
        (¬fits → answer Status.refused s) ∧ (fits → answer Status.ok (s.odSet (Od.key idx sb) v)))

/-- R47 to R51, R57, R436, R438, R473: what the host and a debug adapter do outside the dictionary's writes. A mailbox
request: GO that reads 1 is ignored and logged, without a place it is BUSY, a reserved OP is REFUSED after the checks of a
write (log 74), and a read puts the value of its entry into the mailbox, which is done, and signals vector m. A signal sends
the message of its vector, or sets its pending bit where the vector is masked (log 19). BAR2 reads and writes the HBM; above it
reads are ones and writes dropped; without Memory Space Enable, or in D3hot, the answer is Unsupported Request. BAR0 shows the
views, the mailboxes and the direct map (its edges: log 75), BAR4 the MSI-X table and the pending bits. A configuration request
is retried in BOOT (the registers: log 19). The TAP shows the IDCODE, from level 1 the dictionary, and from level 2 memory,
groups and core memories (log 27, log 85). -/
def Obligations.HostAccesses : Prop :=
  (∀ (s : State) (m : Nat) (q : MailboxReq), s.log.roomy = true → s.pathOpen (.mailbox m) = true →
    let via : OdPath := .mailbox m
    let b := s.mailbox m
    let idx := q.index.toNat
    let sub := q.sub.toNat
    let s1 := s.setMailbox m { b with
      op := q.op, index := q.index, sub := q.sub, seq := q.seq, length := q.length, bufAddr := q.bufAddr
      value := q.value, go := true, done := false }
    let answer := fun st => exec (.mailboxRequest m q) s = .next (s1.answerWrite via idx sub st)
    (b.go = true → ∃ t : State, exec (.mailboxRequest m q) s = .next t ∧ Logs s t 0x0002 sevWarning ∧
      t = { s with log := t.log }) ∧
    (b.go = false → 32 ≤ s.waitingPaths.length → answer Status.busy) ∧
    (b.go = false → s.waitingPaths.length < 32 →
      (2 ≤ q.op → Refuses (.mailboxRequest m q) s s1 via idx sub) ∧
      (∀ st, q.op = 0 → s.odReadStatus via idx sub = (st, none) → answer st) ∧
      (∀ r, q.op = 0 → s.odReadStatus via idx sub = (Status.ok, some r) → r.ty ≠ .domain → ∃ t : State,
        exec (.mailboxRequest m q) s = .next t ∧ t = { s with hm := t.hm, out := t.out, pcie := t.pcie } ∧
        t.out = (s.signal m).out ∧ t.pcie = (s.signal m).pcie ∧ t.mailbox m = { s1.mailbox m with
          length := (s.odRead r idx sub).length
          value := s.odRead r idx sub ++ q.value.drop (s.odRead r idx sub).length
          status := Status.ok, doneTime := s.clk.now, done := true, go := false }) ∧
      (∀ r, q.op = 1 → s.odRow? idx sub = some r → r.ty ≠ .domain → exec (.mailboxRequest m q) s =
        exec (.odWrite via q.index q.sub ((List.range q.length).map fun i => q.value.getD i 0)) s1))) ∧
  (∀ (s : State) (v : Nat), v < 73 →
    (s.dev.linkUp = false ∨ s.pcie.msixEnable = false → s.signal v = s) ∧
    (s.dev.linkUp = true → s.pcie.msixEnable = true →
      (s.pcie.masked v = false → s.signal v = s.emit (.msix v
        (s.pcie.msixWord (4 * v + 1) ++ s.pcie.msixWord (4 * v)) (s.pcie.msixWord (4 * v + 2)))) ∧
      (s.pcie.masked v = true → (s.signal v).out = s.out ∧
        ∀ i < 73, (s.signal v).pcie.msixPending.getLsbD i = (s.pcie.msixPending.getLsbD i || decide (i = v))))) ∧
  (∀ (s : State) (off : BitVec 40) (n : Nat) (bs : List Byte), s.log.roomy = true → s.hostReaches = true →
    let a := off.toNat
    (s.claims = false → ∀ bar w, exec (.bar2Access w ⟨bar, off⟩ n bs) s = .next (s.emit .unsupported)) ∧
    (s.claims = true → hbmEnd ≤ a → exec (.bar2Access true ⟨.bar2, off⟩ n bs) s = .next s ∧
      exec (.bar2Access false ⟨.bar2, off⟩ n bs) s = .next (s.emit (.hostRead (List.replicate n 0xFF) false))) ∧
    (s.claims = true → a + n ≤ hbmEnd → CleanBytes s a n → s.hbmReadFails = [] →
      (∃ t : State, exec (.bar2Access false ⟨.bar2, off⟩ n bs) s = .next t ∧ t.out = .hostRead (s.memBytes a n) false :: s.out ∧
        ∀ b, t.memByte b = s.memByte b) ∧
      (bs.length = n → 0 < n → ∃ t : State, exec (.bar2Access true ⟨.bar2, off⟩ n bs) s = .next t.wakeUp ∧ t.memBytes a n = bs ∧
        ∀ b, b < a ∨ a + n ≤ b → t.memByte b = s.memByte b)) ∧
    -- the window of BAR0
    (s.claims = true →
      let reads := fun (xs : List Byte) => exec (.bar2Access false ⟨.bar0, off⟩ n bs) s = .next (s.emit (.hostRead xs false))
      let view := s.jarastBytes (decide (0x8000 ≤ a))
      let m := (a - 0x10000) / 0x1000
      let e := directIndex a
      (0x1000000 ≤ a → ∀ w, exec (.bar2Access w ⟨.bar0, off⟩ n bs) s = .next (s.emit .unsupported)) ∧
      (a < 0x10000 → n = 4 ∨ n = 8 → a % n = 0 → reads ((List.range n).map fun i => view.getD (a % 0x8000 + i) 0)) ∧
      (0x10000 ≤ a → a < 0x18000 → reads ((List.range n).map fun i => (s.mailbox m).image.getD (a % 0x1000 + i) 0)) ∧
      (0x18000 ≤ a → a < 0x400000 → reads (List.replicate n 0)) ∧
      (a < 0x10000 ∨ 0x18000 ≤ a ∧ a < 0x400000 → exec (.bar2Access true ⟨.bar0, off⟩ n bs) s = .next s) ∧
      (0x400000 ≤ a → a < 0x1000000 →
        (∀ r, n = 8 → a % 8 = 0 → s.odReadStatus .direct e.1 e.2 = (Status.ok, some r) → r.ty.numeric = true →
          reads (natBytes 8 (s.odValue e.1 e.2))) ∧
        (a % 8 = 0 → exec (.bar2Access true ⟨.bar0, off⟩ n bs) s =
          exec (.odWrite .direct (BitVec.ofNat 16 e.1) (BitVec.ofNat 8 e.2) bs) s) ∧
        (a % 8 ≠ 0 → exec (.bar2Access true ⟨.bar0, off⟩ n bs) s = .next (s.answerWrite .direct e.1 e.2 Status.refused) ∧
          ∃ t : State, exec (.bar2Access false ⟨.bar0, off⟩ n bs) s = .next (t.emit (.hostRead (List.replicate n 0xFF) false)) ∧
            Logs s t 0x0001 sevInfo))) ∧
    -- BAR4
    (s.claims = true →
      let reads := fun (xs : List Byte) => exec (.bar2Access false ⟨.bar4, off⟩ n bs) s = .next (s.emit (.hostRead xs false))
      (0x10000 ≤ a → ∀ w, exec (.bar2Access w ⟨.bar4, off⟩ n bs) s = .next (s.emit .unsupported)) ∧
      (n = 4 → a % 4 = 0 → a < 1168 → reads (natBytes 4 (s.pcie.msixWord (a / 4)).toNat)) ∧
      (n = 8 → a = 0x8000 → reads (natBytes 8 s.pcie.msixPending.toNat)) ∧
      (bs.length = 4 → a % 4 = 0 → a < 1168 → ∃ p : PcieCfg,
        exec (.bar2Access true ⟨.bar4, off⟩ n bs) s = .next { s with pcie := p }.sendPending ∧
        p = { s.pcie with msixTable := p.msixTable } ∧ ∀ i < 292, p.msixWord i =
          if i ≠ a / 4 then s.pcie.msixWord i
          else if i % 4 = 3 then BitVec.ofNat 32 (bytesNat bs % 2) else BitVec.ofNat 32 (bytesNat bs)) ∧
      (1168 ≤ a → a < 0x10000 → exec (.bar2Access true ⟨.bar4, off⟩ n bs) s = .next s.sendPending))) ∧
  (∀ (s : State) (v : Nat), v < 73 → s.pcie.msixEnable = true →
    (∀ i < 73, s.pcie.msixPending.getLsbD i = decide (i = v)) →
    (s.pcie.masked v = true → s.sendPending = s) ∧
    (s.pcie.masked v = false → s.sendPending = { s with pcie := { s.pcie with msixPending := 0 } }.emit (s.pcie.message v))) ∧
  (∀ (s : State) (reg : BitVec 10) (d : BitVec 32), s.hostReaches = true →
    (s.dev.state = .boot → ∀ w, exec (.configurationRequest w reg d) s = .next (s.emit .cfgRetry)) ∧
    (s.dev.state ≠ .boot →
      exec (.configurationRequest false reg d) s = .next (s.emit (.cfgData (s.pcie.read reg.toNat))) ∧
      ∃ p : PcieCfg, exec (.configurationRequest true reg d) s = .next { s with pcie := p }.sendPending ∧
        (reg = 1 → p.memEnable = d.getLsbD 1) ∧
        (reg = 17 → p.d3hot = if d.getLsbD 0 = d.getLsbD 1 then d.getLsbD 0 else s.pcie.d3hot) ∧
        (reg = 20 → p.msixEnable = d.getLsbD 31 ∧ p.functionMask = d.getLsbD 30) ∧
        (reg = 4 → ∀ i < 64, p.bar0.getLsbD i =
          (decide (24 ≤ i) && if i < 32 then d.getLsbD i else s.pcie.bar0.getLsbD i)))) ∧
  ∀ s : State, s.log.roomy = true → s.dev.state ≠ .off →
    let shows := fun (q : JtagReq) (bs : List Byte) (u : State) =>
      exec (.jtagInstruction q) s = .next { u with out := .jtag bs :: u.out }
    let level := s.odGet Od.debugLevel
    shows .idcode [0x6B, 0x0C, 0x59, 0x1A] s ∧
    (∀ cell, level < cellLevel cell → shows (.read cell) [] s) ∧ (level < 2 → ∀ cell d, shows (.write cell d) [] s) ∧
    (1 ≤ level → ∀ (i : BitVec 16) (sub : BitVec 8) r, s.odReadStatus (.theost 0 0) i.toNat sub.toNat = (Status.ok, some r) →
      shows (.read (.entry i sub)) (s.odRead r i.toNat sub.toNat) s) ∧
    (2 ≤ level → ∀ (i : BitVec 16) (sub : BitVec 8) (d : BitVec 256) r, s.odRow? i.toNat sub.toNat = some r →
      r.ty.accepts (d.toNat % 2 ^ 64) = true →
      shows (.write (.entry i sub) d) [] (s.odSet (Od.key i.toNat sub.toNat) (d.toNat % 2 ^ 64))) ∧
    (2 ≤ level → ∀ a : BitVec 40, s.jtagReach a.toNat = true → CleanBytes s a.toNat 8 → s.hbmReadFails = [] →
      (∃ u : State, shows (.read (.word a)) (s.memBytes a.toNat 8) u ∧ ∀ b, u.memByte b = s.memByte b) ∧
      ∀ d : BitVec 256, ∃ u : State, shows (.write (.word a) d) [] u ∧ u.memBytes a.toNat 8 = natBytes 8 (d.toNat % 2 ^ 64) ∧
        ∀ b, b < a.toNat ∨ a.toNat + 8 ≤ b → u.memByte b = s.memByte b) ∧
    (2 ≤ level → ∀ core < 128, ∀ slot < 16, ∀ gr, s.group? ⟨core, slot⟩ = some gr →
      let holds := fun (cell : DebugCell) (bs : List Byte) (put : BitVec 256 → Group) =>
        shows (.read cell) bs s ∧ ∀ d, shows (.write cell d) [] (s.setGroup ⟨core, slot⟩ (put d))
      (∀ lane < 32, ∀ reg < 256, holds (.v core slot lane reg) (natBytes 4 (gr.vGet lane reg).toNat) fun d =>
        gr.vSet lane reg (d.setWidth 32)) ∧
      (∀ lane < 32, ∀ i < 8, holds (.p core slot lane i) [if gr.pGet lane i then 1 else 0] fun d => gr.pSet lane i (d.getLsbD 0)) ∧
      (∀ reg < 64, holds (.u core slot reg) (natBytes 8 (gr.uGet reg).toNat) fun d => gr.uSet reg (d.setWidth 64)) ∧
      (∀ reg < 16, holds (.d core slot reg) (natBytes 32 (gr.dGet reg).toNat) fun d => gr.dSet reg d) ∧
      holds (.pc core slot) (natBytes 5 gr.pc.toNat) fun d => { gr with pc := d.setWidth 40 }) ∧
    (2 ≤ level → ∀ core < 128, s.coreMapped core = true →
      let c := s.core core
      let holds := fun (cell : DebugCell) (bs : List Byte) (put : BitVec 256 → Core) =>
        shows (.read cell) bs s ∧ ∀ d, shows (.write cell d) [] (s.setCore core (put d))
      (∀ k < 81920, holds (.accumulator core k) (natBytes 10 (SMap.get 0 c.acc k).toNat) fun d =>
        { c with acc := SMap.set 0 c.acc k (d.setWidth 80) }) ∧
      (∀ k < 65536, holds (.weights core k) (natBytes 10 (SMap.get 0 c.wbuf k).toNat) fun d =>
        { c with wbuf := SMap.set 0 c.wbuf k (d.setWidth 80) })) ∧
    (2 ≤ level → ∀ core, s.coreMapped core = true → ∃ u v : State, shows (.haltCore core) [] u ∧ shows (.resumeCore core) [] v ∧
      u.core core = { s.core core with halted := true } ∧ v.core core = { s.core core with halted := false })

/-! ### Jobs, rings and contexts (R46, R75 to R77, R366, R389) -/

/-- R77, R101, R46, R398: JOB_OPEN is refused, or gives the job a numerics slot with default modes, and takes READY to RUNNING;
JOB_CLOSE frees it, and the last one, like DRAIN, starts draining with its time limit; DRAIN_COMPLETE closes every job and
enters READY, DRAIN_TIMEOUT enters FAULT. The mesh checks of R255 and R388 are `State.meshFails`. -/
def Obligations.Jobs : Prop :=
  (∀ (s : State) (via : OdPath) (job : BitVec 16), Reached s via 0x6001 0x01 job.toNat →
    let c : Instr := .jobOpen via job
    let refused := fun st => exec c s = .next (s.answerWrite via 0x6001 0x01 st)
    let open_ := s.dev.state = .ready ∨ s.dev.state = .running
    (s.disrupted = true → ∃ t : State, exec c s = .next t ∧ t.hm.jobOpenWait = s.hm.jobOpenWait ++ [(via, job)] ∧
      t = { s with hm := t.hm }) ∧
    (s.disrupted = false →
      (s.dev.romFault = true → refused Status.refused) ∧
      (s.dev.romFault = false → s.meshFails job = true → refused Status.planMismatch) ∧
      (s.dev.romFault = false → s.meshFails job = false →
        (job = 0 ∨ s.jobOpen job = true ∨ ¬open_ → refused Status.refused) ∧
        (job ≠ 0 → s.jobOpen job = false → open_ →
          ((∀ i < 16, s.slotOpen i = true) → refused Status.busy) ∧
          ∀ i < 16, s.slotOpen i = false → (∀ k < i, s.slotOpen k = true) →
            Answers c s via 0x6001 0x01 (if s.meshDegraded job then Status.degraded else Status.ok) fun u =>
              u.jobSlot? job = some i ∧ u.dev.state = .running ∧ u.odGet (Od.srStep i) = 0 ∧ u.odGet (Od.heritageMode i) = 0 ∧
              (∀ k < 16, k ≠ i → u.slotJob k = s.slotJob k) ∧ ∀ a, u.memByte a = s.memByte a)))) ∧
  (∀ (s : State) (via : OdPath) (job : BitVec 16), Reached s via 0x6001 0x02 job.toNat → s.dev.romFault = false →
    let c : Instr := .jobClose via job
    (s.jobSlot? job = none → exec c s = .next (s.answerWrite via 0x6001 0x02 Status.notFound)) ∧
    ∀ i, s.jobSlot? job = some i →
      (s.writesRefused = true ∨ s.jobHasRing job = true → exec c s = .next (s.answerWrite via 0x6001 0x02 Status.refused)) ∧
      (s.writesRefused = false → s.jobHasRing job = false → Answers c s via 0x6001 0x02 Status.ok fun u =>
        u.slotJob i = 0 ∧ (∀ k < 16, k ≠ i → u.slotJob k = s.slotJob k) ∧
        let last := s.dev.state = .running ∧ ∀ k < 16, k ≠ i → s.slotOpen k = false
        (last → u.dev.state = .draining ∧ u.dev.drainAt = some (s.clk.now + 1000000 * s.odGet Od.drainTimeout)) ∧
        (¬last → u.dev = s.dev))) ∧
  (∀ (s : State) (via : OdPath), Reached s via 0x1002 0x01 1 →
    (s.dev.state = .running → Answers (.drain via) s via 0x1002 0x01 Status.ok fun u => u.dev.state = .draining ∧
      u.dev.drainAt = some (s.clk.now + 1000000 * s.odGet Od.drainTimeout) ∧ Logs s u 0x0001 sevInfo) ∧
    (s.dev.state ≠ .running → exec (.drain via) s = .next (s.answerWrite via 0x1002 0x01 Status.refused))) ∧
  ∀ s : State, s.log.roomy = true → s.dev.state = .draining →
    (s.disp.cmds = [] → ∃ u : State, exec .drainComplete s = .next u.pump ∧ u.dev.state = .ready ∧ u.dev.drainAt = none ∧
      ∀ i < 16, u.slotOpen i = false) ∧
    (s.disp.cmds ≠ [] → exec .drainComplete s = .next s) ∧
    ∀ t, s.dev.drainAt = some t → ∃ u : State, exec .drainTimeout s = .next u ∧ u.dev.state = .fault ∧ t ≤ u.clk.now ∧
      u.dev.drainAt = none ∧ ∀ p < 4, (u.port p).state = .disabled

/-- R75, R76, R366, R389: RING_ENABLE starts a ring with HEAD 0 and the TAIL that its tail line holds, and disables it; CQ_ENABLE
starts a completion ring with CQ_TAIL 0 and PHASE 1 (with CQ_HEAD 0: log 50); RING_STATE reads 2 while any taken command of a
disabled ring is uncommitted (log 50); ABORT_TARGET removes a command that has not started, taken or in its ring, which ends
with ABORTED (an UPDATE_STEP then advances SR_STEP: log 54), says why it aborts no other, and stops a started LAUNCH as of
now, once (log 51); HO_JOB resets its channel and keeps the running handoff (log 56); EPOCH_ADOPT sets an epoch at once, but
not during a barrier. -/
def Obligations.RingWrites : Prop :=
  (∀ (s : State) (via : OdPath) (n : Nat) (v : BitVec 8), n < 64 → Admitted s via (0x6100 + n) 0x01 v.toNat →
    let c : Instr := .ringEnable via n v
    let refused := exec c s = .next (s.answerWrite via (0x6100 + n) 0x01 Status.refused)
    let able := s.jobOpen (BitVec.ofNat 16 (s.odGet (Od.ringJob n))) = true ∧ s.odGet (Od.cqEnable (s.odGet (Od.ringCq n))) ≠ 0
    let ctrl := s.odGet (Od.ringCtrl n)
    (v = 1 → s.odGet (Od.ringEnable n) ≠ 1 →
      (¬able ∨ s.odGet (Od.ringState n) = 2 ∨ s.odGet (Od.ringState n) = 3 → refused) ∧
      (able → s.odGet (Od.ringState n) = 0 → CleanBytes s ctrl 4 → s.hbmReadFails = [] →
        let tail := bytesNat (s.memBytes ctrl 4)
        (tail < s.odGet (Od.ringEntries n) → ∃ u : State,
          exec c s = .next (u.pump.answerWrite via (0x6100 + n) 0x01 Status.ok) ∧ u.ring n = ⟨0, tail⟩ ∧
          u.odGet (Od.ringEnable n) = 1 ∧ u.odGet (Od.ringState n) = 1) ∧
        (s.odGet (Od.ringEntries n) ≤ tail → Answers c s via (0x6100 + n) 0x01 Status.ok fun u =>
          u.odGet (Od.ringState n) = 3 ∧ ∃ e ∈ u.log.ingress, e.kind = 0x0001 ∧ e.severity = sevError))) ∧
    (v = 0 → s.odGet (Od.ringEnable n) ≠ 0 → Answers c s via (0x6100 + n) 0x01 Status.ok fun u =>
      u.odGet (Od.ringEnable n) = 0 ∧
      u.odGet (Od.ringState n) = if (∃ q ∈ s.disp.cmds, q.ring = n) then 2 else 0)) ∧
  (∀ (s : State) (via : OdPath) (n : Nat) (v : BitVec 8), n < 64 → Admitted s via (0x6200 + n) 0x01 v.toNat →
    (v = 1 → s.odGet (Od.cqEnable n) = 1 → exec (.cqEnable via n v) s =
      .next (s.answerWrite via (0x6200 + n) 0x01 Status.ok)) ∧
    (v = 1 → s.odGet (Od.cqEnable n) ≠ 1 → (s.cq n).waiting = [] → ∃ u : State,
      exec (.cqEnable via n v) s = .next (u.pump.answerWrite via (0x6200 + n) 0x01 Status.ok) ∧
      (u.cq n).head = 0 ∧ (u.cq n).tail = 0 ∧ (u.cq n).phase = true ∧ (u.cq n).waiting = [] ∧
      u.odGet (Od.cqEnable n) = 1) ∧
    (v = 0 → exec (.cqEnable via n v) s =
      .next (((s.odSet (Od.cqEnable n) 0).disarm (.cqHead n)).answerWrite via (0x6200 + n) 0x01 Status.ok))) ∧
  (∀ (s : State) (via : OdPath) (v : BitVec 64), Admitted s via 0x6010 0x01 v.toNat →
    let ring := (v.extractLsb' 32 16).toNat
    let id : BitVec 32 := v.extractLsb' 0 32
    let c : Instr := .abortTarget via v
    let found := s.disp.cmds.find? fun q => decide (q.ring = ring) && decide (q.cmdId = id)
    let waiting := if ring < 64 then s.ringFind ring id else none
    (found = none → waiting = none → exec c s = .next (s.answerWrite via 0x6010 0x01
      (if (ring, id) ∈ s.disp.recent then Status.alreadyDone else Status.notFound))) ∧
    (∀ p, found = none → waiting = some p → ∃ (u : State) (q : Cmd), q.ring = ring ∧ q.pos = p ∧ q.cmdId = id ∧
      let t := u.commit q Status.aborted 0
      exec c s = .next (((if q.opcode = 0x0040 ∧ q.job = s.jobOfRing ring then t.hoNext q.hoChannel
        else t).pump).answerWrite via 0x6010 0x01 Status.ok) ∧
      (ring, p) ∈ u.disp.removed ∧ u.ring ring = s.ring ring ∧ (∃ e ∈ u.log.ingress, e.kind = 0x0002 ∧ e.severity = sevInfo)) ∧
    (∀ q, found = some q → q.phase ≠ .started → ∃ u : State,
      let t := u.commit q Status.aborted 0
      exec c s = .next (((if q.opcode = 0x0040 then t.hoNext q.hoChannel else t).pump).answerWrite via 0x6010 0x01 Status.ok) ∧
      (∃ e ∈ u.log.ingress, e.kind = 0x0002 ∧ e.severity = sevInfo) ∧ u.clk = s.clk ∧
      ∀ i, q.opcode = 0x0020 → s.jobSlot? q.job = some i → s.ledger? i = none →
        u.odGet (Od.srStep i) = (s.odGet (Od.srStep i) + 1) % 2 ^ 64) ∧
    (∀ q, found = some q → q.phase = .started →
      let done := exec c s = .next (s.pump.answerWrite via 0x6010 0x01 Status.alreadyDone)
      (q.opcode = 0x0011 → exec c s = .next (s.pump.answerWrite via 0x6010 0x01 Status.busy)) ∧
      (q.opcode = 0x0040 → (s.channel q.hoChannel).stop.isSome = true → done) ∧
      ∀ l, q.opcode = 0x0001 → s.launch? q.serial = some l → l.cmd = q.serial →
        (l.aborted.isSome = true → done) ∧
        (l.aborted = none → ∃ u : State, exec c s = .next (u.pump.answerWrite via 0x6010 0x01 Status.ok) ∧
          Logs s u 0x0002 sevInfo ∧ ∃ k, u.launch? q.serial = some k ∧ k.aborted = some (s.clk.now, s.epoch 0)))) ∧
  (∀ (s : State) (via : OdPath) (h : Nat) (job : BitVec 16), h < 16 → Admitted s via (0x2640 + h) 0x01 job.toNat →
    Answers (.hoJob via h job) s via (0x2640 + h) 0x01 Status.ok fun u => u.odGet (Od.hoJob h) = job.toNat ∧
      (job = 0 → u.odGet (Od.hoState h) = 0 ∧ u.channels = s.channels) ∧
      (job ≠ 0 → u.odGet (Od.hoState h) = 1 ∧ u.odGet (Od.hoChunks h) = 0 ∧ (u.channel h).produced = 0 ∧
        (u.channel h).limit = 0 ∧ (u.channel h).lastSent = none ∧ (u.channel h).active = (s.channel h).active ∧
        ∀ k, k ≠ h → u.channel k = s.channel k)) ∧
  ∀ (s : State) (via : OdPath) (v : BitVec 64), Admitted s via 0x2602 0x01 v.toNat →
    let ctx := (v.extractLsb' 32 4).toNat
    ((s.barrier? ctx).isSome = true → exec (.epochAdopt via v) s = .next (s.answerWrite via 0x2602 0x01 Status.busy)) ∧
    (s.barrier? ctx = none → Answers (.epochAdopt via v) s via 0x2602 0x01 Status.ok fun u =>
      u.epoch ctx = v.extractLsb' 0 32 ∧ u.odGet (Od.epochCtx ctx) = (v.extractLsb' 0 32).toNat ∧ u.odGet (Od.epochSwitchTime ctx) = s.clk.now ∧
      (∀ k < 16, k ≠ ctx → u.epoch k = s.epoch k) ∧ ∀ a, u.memByte a = s.memByte a)

/-! ### The training watch, the rule banks and the evaluation slice (R317, R343 to R358) -/

/-- R317, R344, R346, R347, R356, R357: the writes by which host software steers a training step. A switch of the rules is armed
for a later epoch, or made at once; NF_STEP_FLAG is set and cleared; LOSS_VALUE is one sample; a ledger is attached cold or
restored, here with one record, and detached; EVAL_COMMIT applies the reservation and rewrites the Jarast table. That
EVAL_COMMIT and RULE_COMMIT_NOW refuse a value other than 0x01 is the model's reading (log 41). -/
def Obligations.TrainingWrites : Prop :=
  (∀ (s : State) (via : OdPath) (v : BitVec 32), Admitted s via 0x2780 0x02 v.toNat →
    let later := 0 < (v - s.epoch (s.odGet Od.ruleSwitchCtx)).toInt
    let answer := fun st (t : State) => exec (.ruleSwitchEpoch via v) s = .next (t.answerWrite via 0x2780 0x02 st)
    (later → answer Status.ok ((s.odSet Od.ruleSwitchEpoch v.toNat).odSet Od.ruleSwitchArmed 1)) ∧
    (¬later → answer Status.refused s)) ∧
  (∀ (s : State) (via : OdPath) (v : BitVec 8), Admitted s via 0x2780 0x04 v.toNat →
    let armed := s.odGet Od.ruleSwitchArmed = 1
    (v ≠ 1 ∨ armed → exec (.ruleCommitNow via v) s = .next (s.answerWrite via 0x2780 0x04 Status.refused)) ∧
    (v = 1 → ¬armed → Answers (.ruleCommitNow via v) s via 0x2780 0x04 Status.ok fun u =>
      (∀ i < 64, ∀ j < 24, u.odGet (Od.key (0x2740 + i) (1 + j)) = s.odGet (Od.key (0x2700 + i) (1 + j))) ∧
      u.odGet Od.ruleBankTime = s.clk.now ∧ Logs s u 0x0505 sevInfo ∧
      u = { s with od := u.od, log := u.log, disp := { s.disp with ruleTie := none } } ∧
      ∀ k, k / 256 < 0x2740 ∨ 0x2780 < k / 256 → u.odGet k = s.odGet k)) ∧
  (∀ (s : State) (via : OdPath) (n : Nat), n < 16 →
    let idx := 0x2820 + n
    let refused := fun (c : Instr) sub => exec c s = .next (s.answerWrite via idx sub Status.refused)
    (∀ v : BitVec 8, Admitted s via idx 0x01 v.toNat →
      (s.slotOpen n = false → refused (.nfStepFlag via n v) 0x01) ∧
      (s.slotOpen n = true → Answers (.nfStepFlag via n v) s via idx 0x01 Status.ok fun u =>
        u.odGet (Od.nfStepFlag n) = v.toNat ∧ (v = 1 → s.odGet (Od.nfStepFlag n) ≠ 1 → Logs s u 0x0602 sevWarning) ∧
        u = { s with od := u.od, log := u.log } ∧ ∀ k, k ≠ Od.nfStepFlag n → u.odGet k = s.odGet k)) ∧
    (∀ v : BitVec 32, Admitted s via idx 0x0C v.toNat →
      let x := f32Val v
      let count := s.odGet (Od.lossCount n)
      let shown := fun (u : State) mean var k => u.odGet (Od.lossMean n) = mean ∧ u.odGet (Od.lossVar n) = var ∧
        u.odGet (Od.lossCount n) = k
      (s.slotOpen n = false ∨ s.odGet (Od.lossMode n) ≠ 2 → refused (.lossValue via n v) 0x0C) ∧
      (s.slotOpen n = true → s.odGet (Od.lossMode n) = 2 → Answers (.lossValue via n v) s via idx 0x0C Status.ok fun u =>
        (x.isFinite = false → shown u (s.odGet (Od.lossMean n)) (s.odGet (Od.lossVar n)) count ∧
          u.odGet (Od.lossSpikeCount n) = (s.odGet (Od.lossSpikeCount n) + 1) % 2 ^ 64 ∧
          ∃ e ∈ u.log.ingress, e.kind = 0x0603 ∧ e.severity = sevWarning) ∧
        (x.isFinite = true → count = 0 → shown u v.toNat 0 1) ∧
        (x.isFinite = true → 0 < count → count < s.odGet (Od.lossWarmup n) →
          let mean := s.odF32 (Od.lossMean n)
          let alpha := s.odF32 (Od.lossAlpha n)
          let d := f32Round (x.sub mean)
          shown u (f32Of (mean.add (alpha.mul d))).toNat
            (f32Of ((Val.one.sub alpha).mul ((s.odF32 (Od.lossVar n)).add (alpha.mul (d.mul d))))).toNat (count + 1)))) ∧
    (∀ v c, v = 1 ∧ c = Instr.ledgerCold via n ∨ v = 2 ∧ c = Instr.ledgerRestored via n → Admitted s via idx 0x08 v →
      let base := s.odGet (Od.ledgerBase n)
      let step := s.odGet (Od.srStep n)
      let rec_ : LedgerRec := ⟨bytesNat (s.memBytes base 256), []⟩
      let cold := rec_.enabled = true ∧ (v = 2 → rec_.untrusted (s.odGet Od.ledgerDepth) step = true)
      (s.attachBad n = true → refused c 0x08) ∧
      (s.attachBad n = false → s.odGet (Od.ledgerCount n) = 1 → base % 256 = 0 → CleanBytes s base 256 → s.hbmReadFails = [] →
        Answers c s via idx 0x08 Status.ok fun u => u.odGet (Od.ledgerAttached n) = 1 ∧
          u.ledger? n = some s.sampledLedger ∧ (∀ a, a < base ∨ base + 256 ≤ a → u.memByte a = s.memByte a) ∧
          (cold → u.memBytes base 256 = natBytes 256 (rec_.cold (s.odGet Od.ledgerWarmup) step).image ∧
            Logs s u 0x0604 sevWarning) ∧
          (¬cold → u.memBytes base 256 = s.memBytes base 256))) ∧
    (Admitted s via idx 0x08 0 →
      (s.slotOpen n = false → refused (.ledgerDetach via n) 0x08) ∧
      (s.slotOpen n = true → Answers (.ledgerDetach via n) s via idx 0x08 Status.ok fun u =>
        u.ledger? n = none ∧ u.odGet (Od.ledgerAttached n) = 0 ∧ ∀ k, k ≠ n → u.ledger? k = s.ledger? k))) ∧
  ∀ (s : State) (via : OdPath) (v : BitVec 8), Admitted s via 0x2180 0x04 v.toNat →
    let cl := s.odGet Od.evalClusters
    let gib := s.odGet Od.evalHbmGib
    let bad := s.dev.state ≠ .ready ∨ 2 < bitCount cl 8 ∨ (cl ≠ 0 ∧ (gib < 1 ∨ 384 < gib ∨ s.odGet Od.evalJob = 0)) ∨
      (cl = 0 ∧ gib ≠ 0)
    (v ≠ 1 ∨ bad → exec (.evalCommit via v) s = .next (s.answerWrite via 0x2180 0x04 Status.refused)) ∧
    (v = 1 → ¬bad → Answers (.evalCommit via v) s via 0x2180 0x04 Status.ok fun u =>
      u.odGet Od.evalActiveClusters = cl ∧ u.odGet Od.evalHbmBase = (if cl = 0 then 0 else hbmEnd - gib * 2 ^ 30) ∧
      u.watch.evalJob = BitVec.ofNat 16 (if cl = 0 then 0 else s.odGet Od.evalJob) ∧
      u.odGet Od.jarastGeneration = s.odGet Od.jarastGeneration + 2 ∧
      u.odGet (Od.jtInstCount 0x01) = ((List.range s.dev.clustersOn).filter fun c => !cl.testBit c).length ∧
      u.odGet (Od.evalJtInstCount 0x01) = ((List.range s.dev.clustersOn).filter fun c => cl.testBit c).length)

/-! ### Counters and the Tally (R447 to R461) -/

/-- R448, R451, R453, R454, R456, R457 to R460: a select word zeroes its counter and its OVF bit, or is refused; PCTL clears what
its bits name; as time passes, the counters of the four classes of slots advance together by four a cycle of CYCLES, the
retired and wasted ones by the slots that instructions have used (log 22); a device-wide switch is due 64 ns on, BUSY until
then, and acts at that time. The Tally begins with TAIL and HEAD at 0 (log 63), dumps at every multiple of its period, or skips
a dump, which it counts; TAIL goes on once a dump is written. -/
def Obligations.CountersAndTally : Prop :=
  (∀ (s : State) (via : OdPath) (set : BitVec 16) (n ty : Nat) (v : BitVec 64), setType? set.toNat = some ty → n < 8 →
    Admitted s via set.toNat (0x0A + n) v.toNat →
    let k := fun sub => Od.key set.toNat sub
    (pselRefused ty v = true →
      exec (.psel via set n v) s = .next (s.answerWrite via set.toNat (0x0A + n) Status.refused)) ∧
    (pselRefused ty v = false → Answers (.psel via set n v) s via set.toNat (0x0A + n) Status.ok fun u =>
      u.odGet (k (0x0A + n)) = v.toNat ∧ u.odGet (k (0x02 + n)) = 0 ∧
      (∀ i < 32, (u.odGet (k 0x12)).testBit i = ((s.odGet (k 0x12)).testBit i && decide (i ≠ 8 + n))) ∧
      u.pmcValue set.toNat n = 0 ∧ u = { s with od := u.od } ∧
      ∀ j, j ≠ k (0x0A + n) → j ≠ k (0x02 + n) → j ≠ k 0x12 → u.odGet j = s.odGet j)) ∧
  (∀ (s : State) (via : OdPath) (set : BitVec 16) (v : BitVec 32), (setType? set.toNat).isSome = true →
    Admitted s via set.toNat 0x12 v.toNat →
    let k := fun sub => Od.key set.toNat sub
    Answers (.pctl via set v) s via set.toNat 0x12 Status.ok fun u =>
      (∀ i < 8, u.odGet (k (0x02 + i)) = if v.getLsbD i then 0 else s.odGet (k (0x02 + i))) ∧
      (∀ i < 32, (u.odGet (k 0x12)).testBit i =
        ((s.odGet (k 0x12)).testBit i && !(decide (8 ≤ i) && decide (i < 16) && v.getLsbD i))) ∧
      u = { s with od := u.od }) ∧
  -- the four classes of slots
  (∀ (s : State) (core dt : Nat), core < 128 → Invariant s → s.tally.frozen = false → s.coreCounts core = true →
    (s.core core).cycEnd = none → (s.core core).cycBase ≤ s.coreCycles →
    let set := coreSet core
    (∀ i < 4, s.odGet (Od.key set (0x0A + i)) = 2 ^ 63 + 0xFFFF * 2 ^ 42 + 7 * 2 ^ 30 + (0x0301 + i)) →
    let t := s.flow dt
    let cycles := t.cyclesOf core - s.cyclesOf core
    let uses := (s.tally.slots.filter fun u => decide (u.core = core)).take (4 * cycles)
    s.cyclesOf core ≤ t.cyclesOf core ∧ ∃ a : Nat → Nat, a 0 + a 1 + a 2 + a 3 = 4 * cycles ∧
      a 0 = (uses.filter fun u => decide (u.ev = 0x0301)).length ∧ a 0 + a 1 = uses.length ∧
      ∀ i < 4, t.odGet (Od.key set (0x02 + i)) = (s.odGet (Od.key set (0x02 + i)) + a i) % 2 ^ 48) ∧
  (∀ (s : State) (via : OdPath),
    let due := fun (u : State) op => u.tally.countPending = some (s.clk.now + 64, op) ∧
      u.odGet Od.countSwitchTime = s.clk.now + 64
    (∀ v : BitVec 8, Admitted s via 0x3001 0x01 v.toNat →
      (s.tally.countPending = none → Answers (.countFreeze via v) s via 0x3001 0x01 Status.ok fun u =>
        due u (if v = 0 then .restart else .freeze) ∧ u.odGet Od.countFreeze = v.toNat) ∧
      (∀ t op, s.tally.countPending = some (t, op) → s.clk.now < t →
        exec (.countFreeze via v) s = .next (s.answerWrite via 0x3001 0x01 Status.busy))) ∧
    (Admitted s via 0x3001 0x02 1 →
      (s.tally.countPending = none → Answers (.countClear via) s via 0x3001 0x02 Status.ok fun u => due u .clear) ∧
      (∀ t op, s.tally.countPending = some (t, op) → s.clk.now < t →
        exec (.countClear via) s = .next (s.answerWrite via 0x3001 0x02 Status.busy)))) ∧
  (∀ s : State, s.dev.state ≠ .off → ∀ t op, s.tally.countPending = some (t, op) → s.clk.now < t → ∃ u : State,
    exec .countSwitch s = .next u ∧ u.tally.countPending = none ∧ u.clk.now = t ∧
    u.tally.frozen = (match op with
      | .freeze => true
      | .restart => false
      | .clear => s.tally.frozen) ∧
    (op = .clear → (∀ idx ∈ counterSets, ∀ i < 8, u.odGet (Od.key idx (0x02 + i)) = 0) ∧ ∀ n < 128, u.cyclesOf n = 0)) ∧
  (∀ (s : State) (via : OdPath) (v : BitVec 8), Admitted s via 0x3000 0x01 v.toNat →
    let p := s.odGet Od.tallyPeriodNs
    (v = 0 → Answers (.tallyEnable via v) s via 0x3000 0x01 Status.ok fun u => u.odGet Od.tallyEnable = 0 ∧
      u.odGet Od.tallyNext = 0) ∧
    (v = 1 → s.odGet Od.tallyEnable ≠ 1 →
      (s.odGet Od.tallyRingRecords < s.tallyBlocks.length →
        exec (.tallyEnable via v) s = .next (s.answerWrite via 0x3000 0x01 Status.refused)) ∧
      (s.tallyBlocks.length ≤ s.odGet Od.tallyRingRecords → 0 < p →
        Answers (.tallyEnable via v) s via 0x3000 0x01 Status.ok fun u =>
          let t := u.odGet Od.tallyNext
          t % p = 0 ∧ s.clk.now + 1000 ≤ t ∧ t < s.clk.now + 1000 + p ∧ u.odGet Od.tallyEnable = 1 ∧
          u.tally.dumpNo = 0 ∧ u.tally.tail = 0 ∧ u.tally.head = 0))) ∧
  ∀ (s : State) (head : BitVec 32), s.log.roomy = true → s.odGet Od.tallyEnable = 1 →
    let skipped := fun (u : State) => u.odGet Od.tallySkipped = (s.odGet Od.tallySkipped + 1) % 2 ^ 64 ∧
      u.tally.writing = s.tally.writing ∧ ∀ a, u.memByte a = s.memByte a
    (∃ u : State, exec .tallyDump s = .next u ∧ s.odGet Od.tallyNext ≤ u.clk.now ∧ u.tally.dumpNo = s.tally.dumpNo + 1 ∧
      u.odGet Od.tallyNext = s.odGet Od.tallyNext + s.odGet Od.tallyPeriodNs ∧ u.tally.latch = none ∧
      let dumps := fun n => u.tally.writing = some (s.tally.dumpNo, n) ∧ u.odGet Od.tallySkipped = s.odGet Od.tallySkipped
      (s.tally.latch = none → s.clk.now < s.odGet Od.tallyNext →
        (s.tally.writing ≠ none ∨ s.tallyRoom s.tallyBlocks.length = false → skipped u) ∧
        (s.tally.writing = none → s.tallyRoom s.tallyBlocks.length = true → dumps s.tallyBlocks.length)) ∧
      (s.tally.latch = none → s.odGet Od.tallyNext ≤ s.clk.now → skipped u) ∧
      ∀ l, s.tally.latch = some l → s.odGet Od.tallyNext ≤ s.clk.now →
        (l.room = false → skipped u) ∧ (l.room = true → dumps l.records.length)) ∧
    (∀ k n, s.tally.writing = some (k, n) → ∃ u : State, exec .tallyDumpWritten s = .next u ∧ u.tally.writing = none ∧
      u.tally.tail = (s.tally.tail + n) % s.odGet Od.tallyRingRecords ∧
      u.odGet Od.tallyDumps = (s.odGet Od.tallyDumps + 1) % 2 ^ 64) ∧
    ∃ u : State, exec (.tallyHeadWrite head) s = .next u ∧ u.tally.head = head.toNat

/-! ### Power, temperature and time (R31, R32, R417 to R424) -/

/-- R31, R417 to R423: POWER_CAP; an estimate above the target lowers the core clock to the highest step that fits it, and
headroom of 100 µs with every sensor cool raises it one step; a sensor at its limit lowers it one step each 100 µs, never
below 400 MHz; the regulators' readings are shown; the timebase goes into holdover and back and never steps. The powers and
readings are inputs (log 34). -/
def Obligations.PowerAndTime : Prop :=
  (∀ (s : State) (via : OdPath) (v : BitVec 16), Admitted s via 0x2000 0x01 v.toNat →
    exec (.powerCap via v) s = .next ((s.odSet Od.powerCap v.toNat).answerWrite via 0x2000 0x01 Status.ok)) ∧
  (∀ (s : State) (fixed core avg : BitVec 32), s.log.roomy = true → s.governs = true → powerOk fixed = true →
    powerOk core = true → powerOk avg = true →
    let fits := fun f => s.powerFits fixed core f s.powerTarget = true
    (∃ u : State, exec (.governorEstimate fixed core avg) s = .next u ∧
      u.odGet Od.powerNow = (f32Of ((f32Val fixed).add (f32Val core))).toNat ∧ u.odGet Od.powerAvg1ms = avg.toNat ∧
      (fits s.coreMHz → u.coreMHz = s.coreMHz) ∧
      (¬fits s.coreMHz → ∃ f ∈ coreClocks, u.coreMHz = min s.coreMHz f ∧ (∀ g ∈ coreClocks, fits g → g ≤ f) ∧
        (fits f ∨ f = 400) ∧ (f < s.coreMHz → u.odGet Od.govLimitCause = 1)) ∧
      ∀ a, u.memByte a = s.memByte a) ∧
    ∀ t0, s.gov.headroomAt = some t0 →
      (s.headroom fixed core s.coreMHz = true → s.cool = true → ∃ u : State,
        exec (.governorRaise fixed core avg) s = .next u ∧ t0 + 100000 ≤ u.clk.now ∧ u.coreMHz = s.coreMHz + 25 ∧
        (s.coreMHz = 2225 → u.odGet Od.govLimitCause = 0 ∧ Logs (s.advanceTo (t0 + 100000)) u 0x0903 sevInfo)) ∧
      (s.headroom fixed core s.coreMHz = false ∨ s.cool = false → ∃ u : State,
        exec (.governorRaise fixed core avg) s = .next u ∧ u.coreMHz = s.coreMHz)) ∧
  (∀ (s : State) (die hbm : BitVec 32), s.governs = true → (f32Val die).isFinite = true → (f32Val hbm).isFinite = true →
    let dieHot := (FP.fp32.ieee (s.acting Od.dieTempLimit)).le (f32Val die) = true
    let hbmHot := (FP.fp32.ieee (s.acting Od.hbmTempLimit)).le (f32Val hbm) = true
    400 < s.coreMHz → atTrip die hbm = false →
    ∃ u : State, exec (.thermalStep die hbm) s = .next u ∧ u.odGet Od.dieTemp = die.toNat ∧ u.odGet Od.hbmTempMax = hbm.toNat ∧
      (dieHot ∨ hbmHot → u.coreMHz = max 400 (s.coreMHz - 25) ∧ u.odGet Od.govLimitCause = (if dieHot then 2 else 3) ∧
        ∀ t, s.gov.thermalAt = some t → t + 100000 ≤ u.clk.now) ∧
      (¬dieHot → ¬hbmHot → u.coreMHz = s.coreMHz)) ∧
  -- 120 °C on the die, 105 °C on a stack
  (∀ (s : State) (die hbm : BitVec 32), s.dev.state ≠ .off → (f32Val die).isFinite = true → (f32Val hbm).isFinite = true →
    (FP.fp32.ieee 0x42F00000).le (f32Val die) = true ∨ (FP.fp32.ieee 0x42D20000).le (f32Val hbm) = true →
    ∃ u : State, exec (.thermalStep die hbm) s = .next u ∧ GoesOff s u ∧ u.dev.thermtrip = true ∧
      u.dev.offHold = .untilPowerCycle) ∧
  (∀ (s : State) (l : List (Option (BitVec 32 × BitVec 32))), s.log.roomy = true → s.governs = true → l.length = 9 → ∃ u : State,
    exec (.pmbusTelemetry l) s = .next u ∧ ∀ r < 9,
      (∀ v i, l[r]? = some (some (v, i)) → u.odGet (Od.railVout r) = v.toNat ∧ u.odGet (Od.railIout r) = i.toNat ∧
        u.odGet (Od.railTelemetryOk r) = 1) ∧
      (l[r]? = some none → u.odGet (Od.railTelemetryOk r) = 0 ∧ u.odGet (Od.railVout r) = s.odGet (Od.railVout r))) ∧
  ∀ s : State, s.log.roomy = true → s.dev.state ≠ .off →
    (s.odGet Od.timebaseSource = 0 → ∃ u : State, exec .tbHoldoverEnter s = .next u ∧ u.odGet Od.timebaseSource = 1 ∧
      u.clk.now = s.clk.now ∧ Logs s u 0x0001 sevWarning) ∧
    (s.odGet Od.timebaseSource = 1 → exec .tbHoldoverEnter s = .next s ∧ ∃ u : State, exec .tbHoldoverExit s = .next u ∧
      u.odGet Od.timebaseSource = 0 ∧ s.clk.holdoverAt + 1000000 ≤ u.clk.now ∧ s.clk.now ≤ u.clk.now ∧
      Logs (s.advanceTo (s.clk.holdoverAt + 1000000)) u 0x0002 sevInfo) ∧
    (s.odGet Od.timebaseSource = 0 → exec .tbHoldoverExit s = .next s)

/-! ### Self-test and cores (R391, R392, R398, R399) -/

/-- R391, R392, R398, R399: a request for an action is REFUSED for an action or target that is none, BUSY while one waits or
runs or jobs are open, waits where the device is not READY, and else runs; a waiting one starts in READY or ends with
TIMEOUT; the end sets the result and is logged. CORE_RETIRE and a core's failure put its slot on the list to be left out;
a failed core holds nothing. -/
def Obligations.SelfTestsAndCores : Prop :=
  (∀ (s : State) (via : OdPath) (target : BitVec 8) (action : BitVec 8) (c : Instr),
    (action, c) ∈ [((0x01 : BitVec 8), Instr.laneRecalibration via target), (0x02, .sensorTrim via target),
      (0x10, .coreSelfTest via target), (0x11, .hbmPatternTest via target), (0x12, .portLoopback via target),
      (0x13, .timebaseDelayRemeasure via target)] →
    Admitted s via 0x5000 0x03 (action.toNat + 256 * target.toNat) →
    let answer := fun st => exec c s = .next (s.answerWrite via 0x5000 0x03 st)
    let port := (s.port target.toNat).state
    let valid := ((action = 0x01 ∨ action = 0x12) ∧ target.toNat < 4 ∧ (action = 0x01 → port = .up ∨ port = .degraded)) ∨
      (action = 0x10 ∧ target.toNat < 8) ∨ ((action = 0x02 ∨ action = 0x11 ∨ action = 0x13) ∧ target = 0)
    let stops := 0x10 ≤ action.toNat
    let busy := s.selftest ≠ none ∨ (stops ∧ (∃ i < 16, s.slotOpen i = true) ∧ s.odGet Od.selftestPolicy = 0)
    (¬valid → answer Status.refused) ∧ (valid → busy → answer Status.busy) ∧
    (valid → ¬busy → Answers c s via 0x5000 0x03 Status.ok fun u =>
      u.selftest = some ⟨action, target, decide (¬stops ∨ s.dev.state = .ready), s.clk.now⟩ ∧
      (stops → s.dev.state ≠ .ready → u = { s with selftest := u.selftest }))) ∧
  (∀ (s : State) (t : SelfTest), s.log.roomy = true → s.selftest = some t →
    (t.running = false → s.dev.state = .ready → ∃ u : State, exec .selftestStart s = .next u ∧
      u.selftest = some ⟨t.action, t.target, true, s.clk.now⟩) ∧
    (t.running = true ∨ s.dev.state ≠ .ready → exec .selftestStart s = .next s) ∧
    (t.running = false → ∃ u : State, exec .selftestWaitTimeout s = .next u ∧ u.selftest = none ∧
      t.since + 1000000 * s.odGet Od.selftestWaitMs ≤ u.clk.now ∧ u.odGet Od.selftestResult = Status.timeout.toNat) ∧
    ∀ (st : BitVec 8) (d : BitVec 32), t.running = true → st ≤ 0x0E → st ≠ Status.aborted → s.hm.jobOpenWait = [] →
      ∃ u : State, exec (.selftestDone st d) s = .next u ∧ u.selftest = none ∧ u.odGet Od.selftestResult = st.toNat ∧
        u.odGet Od.selftestDetail = (if t.action = 0x02 ∨ t.action = 0x13 then 0 else d.toNat) ∧
        u.odGet Od.selftestTime = u.clk.now ∧
        (∃ e ∈ u.log.ingress, e.kind = 0x0805 ∧ e.severity = if st = Status.ok then sevInfo else sevWarning) ∧
        (t.action = 0x10 → s.canSign = true → ∀ k < 17, d.getLsbD k = true →
          (u.odGet (Od.repairPending t.target.toNat)).testBit k = true)) ∧
  (∀ (s : State) (via : OdPath) (n : Nat) (v : BitVec 8), n < 8 → Admitted s via (0x2120 + n) 0x03 v.toNat →
    let ok := v.toNat < 16 ∧ s.canSign = true
    (¬ok ∨ s.slotOfCore n v.toNat = none →
      exec (.coreRetire via n v) s = .next (s.answerWrite via (0x2120 + n) 0x03 Status.refused)) ∧
    ∀ k, ok → s.slotOfCore n v.toNat = some k → Answers (.coreRetire via n v) s via (0x2120 + n) 0x03 Status.ok fun u =>
      (u.odGet (Od.repairPending n)).testBit k = true ∧ Logs s u 0x0803 sevWarning ∧
      u.odGet (Od.repairLeftOut n) = s.odGet (Od.repairLeftOut n)) ∧
  ∀ (s : State) (core : Nat) (cause : BitVec 8) (k : Nat), s.log.roomy = true → s.coreMapped core = true → 
    s.coreFailed core = false → cause ≤ 1 → s.dev.state ≠ .off → s.slotOfCore (core / 16) (core % 16) = some k → s.disp.updates = [] → ∃ u : State,
      exec (.coreFailed core cause) s = .next u.pump ∧ u.coreFailed core = true ∧ (u.core core).groups = [] ∧
      (u.core core).ops = [] ∧ (u.core core).tokens = [] ∧ (∃ e ∈ u.log.ingress, e.kind = 0x0806 ∧ e.severity = sevError) ∧
      (s.canSign = true → (u.odGet (Od.repairPending (core / 16))).testBit k = true)

/-! ### Security (R41, R430 to R445) -/

/-- R41, R430, R433, R434, R436 to R438: what the signed and saved writes come to. One that does not verify is REFUSED, counted as a
signature failure and logged; FW_UPDATE and CONFIG_UPDATE start a flash write, BUSY while one runs, and are answered when
FLASH_WRITE_DONE ends it, the commit of a CONFIG_UPDATE in ALARMED with DENIED; an enrolment leaves helper data that gives
the new key; a token sets DEBUG_LEVEL, and level 2 zeroes the identity key; a nonce gives a new quote, and is REFUSED where
the device cannot sign (log 61). SM2, SM3 and the PUF are uninterpreted (log 11, log 83). -/
def Obligations.SecurityWrites : Prop :=
  (∀ (s : State) (via : OdPath) (c : Instr) (sub : Nat),
    (c = .saveParameters via ∧ sub = 0x01) ∨ (c = .restoreDefaults via ∧ sub = 0x02) → Reached s via 0x1010 sub 1 →
    (s.writesRefused = true → exec c s = .next (s.answerWrite via 0x1010 sub Status.refused)) ∧
    (s.writesRefused = false → s.hm.flashJob ≠ none ∨ s.sec.erase ≠ .none →
      exec c s = .next (s.answerWrite via 0x1010 sub Status.busy)) ∧
    (s.writesRefused = false → s.hm.flashJob = none → s.sec.erase = .none → exec c s = .next { s with hm := { s.hm with
      flashJob := some (if sub = 0x01 then .save (odSavedKeys.map fun k => (k, s.odGet k)) via else .erase via) } })) ∧
  (∀ (s : State) (via : OdPath) (bs : List Byte), via ≠ .direct → s.writesRefused = false →
    let busy := s.hm.flashJob ≠ none ∨ s.sec.erase ≠ .none
    let fails := fun (c : Instr) idx sub => Answers c s via idx sub Status.refused fun u =>
      u.sec.sigFails = s.clk.now :: s.sec.sigFails ∧ Logs s u 0x0A02 sevWarning ∧ u = { s with sec := u.sec, log := u.log }
    let later := fun (c : Instr) (j : FlashJob) => ∃ u : State, exec c s = .next u ∧ u.hm.flashJob = some j ∧ u.od = s.od ∧
      ∀ a, u.memByte a = s.memByte a
    (Reached s via 0x2901 0x01 0 →
      let c : Instr := .fwUpdate via bs
      let h := BitVec.ofNat 2048 (bytesNat (bs.take 256))
      let bad := bs.length < 256 ∨ imgMagic h ≠ 0x4D494E53 ∨ imgVersion h < s.odGet Od.fwFloor ∨
        (imgFails h (bs.drop 256)).isSome = true
      (bad → fails c 0x2901 0x01) ∧
      (¬bad → busy → exec c s = .next (s.answerWrite via 0x2901 0x01 Status.busy)) ∧
      (¬bad → ¬busy → ∃ u : State, exec c s = .next u ∧
        (∃ slot h', u.hm.flashJob = some (.image slot h' (bs.drop 256) via) ∧ imgVersion h' = imgVersion h ∧
          imgSeq h' = (s.odGet Od.imageSeq + 1) % 2 ^ 32 ∧ (slot = true ↔ s.odGet Od.imageSlot = 0) ∧
          s.flash.Written u.flash (slotArea slot) []))) ∧
    (Reached s via 0x2901 0x02 0 → ∀ c, c = Instr.configUpdate via bs ∨
        (c = Instr.enrolmentAuthorisation via bs ∧ (recOf bs).map SRec.rtype = some 7) →
      (s.stopped = false → exec c s = .next (s.answerWrite via 0x2901 0x02 Status.refused)) ∧
      (s.stopped = true → recOf bs = none → fails c 0x2901 0x02) ∧
      ∀ r, s.stopped = true → recOf bs = some r → r.rtype ≠ 5 → r.rtype ≠ 6 →
        let old := ∃ q, s.heldSeq r = some q ∧ r.seq ≤ q
        ((r.fails s.keys).isSome = true ∨ old → fails c 0x2901 0x02) ∧
        (r.fails s.keys = none → ¬old → busy →
          exec c s = .next (s.answerWrite via 0x2901 0x02 Status.busy)) ∧
        (r.fails s.keys = none → ¬old → ¬busy →
          (r.rtype ≠ 7 → later c (.record (BitVec.ofNat 8 r.rtype) (BitVec.ofNat 64 r.seq) bs via)) ∧
          (r.rtype = 7 → ∃ secret, later c (.enrol secret (BitVec.ofNat 64 r.seq) via)))) ∧
    (Reached s via 0x2902 0x02 0 →
      let c : Instr := .debugUnlock via bs
      let level := fun l => ∃ r, recOf bs = some r ∧ r.fails s.keys = none ∧ s.tokenLevel r = some l
      ((∀ l, ¬level l) → fails c 0x2902 0x02) ∧
      ∀ l, level l → Answers c s via 0x2902 0x02 Status.ok fun u => u.odGet Od.debugLevel = l ∧ Logs s u 0x0A05 sevWarning ∧
        u.sec.identityKey = (if l = 2 then none else s.sec.identityKey) ∧ ∀ a, u.memByte a = s.memByte a) ∧
    (Reached s via 0x2903 0x01 0 →
      let c : Instr := .quoteNonce via bs
      (bs.length ≠ 32 ∨ s.canSign = false → exec c s = .next (s.answerWrite via 0x2903 0x01 Status.refused)) ∧
      (bs.length = 32 → s.canSign = true → Answers c s via 0x2903 0x01 Status.ok fun u =>
        u.sec.quote = s.signedRecord 6 0 (s.quoteBody bs) ∧ (u.sec.quote.drop 64).take 32 = bs ∧
        u = { s with sec := u.sec }))) ∧
  (∀ (s : State) (via : OdPath), Admitted s via 0x2902 0x04 1 →
    exec (.debugRelock via) s = .next ((s.odSet Od.debugLevel 0).answerWrite via 0x2902 0x04 Status.ok)) ∧
  ∀ (s : State), (s.hm.flashJob = none → exec .flashWriteDone s = .next s) ∧
    ∀ j, s.log.roomy = true → s.hm.flashJob = some j → s.hm.repairDue = false →
      let ends := fun (via : OdPath) idx sub (P : State → Prop) => ∃ u : State,
        exec .flashWriteDone s = .next (u.answerWrite via idx sub Status.ok) ∧ u.hm.flashJob = none ∧ P u
      let accepted := fun (u : State) => ∃ e, u.log.ingress.getLast? = some e ∧ e.kind = 0x0A03 ∧ e.severity = sevInfo
      (∀ m via, j = .save m via → ends via 0x1010 0x01 fun u =>
        (∃ b bs, s.flash.Written u.flash (savedArea b) bs) ∧ Logs s u 0x0004 sevInfo ∧
        ((∀ e ∈ m, e.1 < 2 ^ 64 ∧ e.2 < 2 ^ 64) → m.length < 65536 → (∀ b q, s.flash.savedSeq b = some q → q < 2 ^ 64 - 2) →
          u.flash.saved = some m)) ∧
      (∀ via, j = .erase via → ends via 0x1010 0x02 fun u => u.flash.saved = none ∧
        ∃ f : Flash, s.flash.Written f (savedArea false) [] ∧ f.Written u.flash (savedArea true) []) ∧
      (∀ slot h body via, j = .image slot h body via → ends via 0x2901 0x01 fun u =>
        s.flash.Written u.flash (slotArea slot) (natBytes 256 h.toNat ++ body)) ∧
      (s.dev.state ≠ .alarmed → ∀ t seq raw via, j = .record t seq raw via → ends via 0x2901 0x02 fun u => accepted u ∧
        let kept := (s.flash.area s.flash.newest).filter fun r => decide (some r.rtype ≠ (recOf raw).map SRec.rtype)
        s.flash.Written u.flash (configArea !s.flash.newest) ((kept.map SRec.raw).flatten ++ raw)) ∧
      (s.dev.state ≠ .alarmed → ∀ secret seq via, j = .enrol secret seq via → ends via 0x2901 0x02 fun u => accepted u ∧
        u.flash.eraseMarker = false ∧ u.flash.deriveKey = some (Config.identityKey secret) ∧
        u.sec.identityPub = sm2Public (Config.identityKey secret) ∧
        (∀ b, u.flash.header b = s.flash.header b) ∧ u.flash.records = s.flash.records) ∧
      (s.dev.state = .alarmed → ∀ via, (∃ t seq raw, j = .record t seq raw via) ∨ (∃ secret seq, j = .enrol secret seq via) →
        exec .flashWriteDone s = .next ({ s with hm := { s.hm with flashJob := none } }.answerWrite via 0x2901 0x02
          Status.denied))

/-- R380, R439 to R442: an alarm counts and logs each class that fires, a class 4 only once its failures have come; the
strongest policy decides: report alone, lock (ALARMED), or lock and erase. An erase zeroes every key of the device and
leaves no region entry valid, then programs the marker, then overwrites the helper copies with zeros. The window of signature
failures begins anew after a class 4 alarm (log 62). -/
def Obligations.AlarmAndErase : Prop :=
  (∀ (s : State) (classes : BitVec 5) (sensors : BitVec 40), s.log.roomy = true → s.dev.state ≠ .off →
    let recent := s.sec.sigFails.filter fun t => decide (s.clk.now < t + 60000000000)
    let fires := fun c => c < 5 ∧ classes.getLsbD c = true ∧ (c = 4 → s.odGet Od.sigFailLimit ≤ recent.length)
    let policy := fun c => s.odGet (Od.alarmPolicy c)
    let c : Instr := .alarm classes sensors
    ((∀ k, ¬fires k) → exec c s = .next s) ∧
    ((∃ k, fires k) → (∀ k < 5, policy k ≤ 2) → ∃ u : State, exec c s = .next u ∧
      (∀ k, fires k → u.odGet (Od.alarmCount k) = (s.odGet (Od.alarmCount k) + 1) % 2 ^ 64 ∧
        ∃ e ∈ u.log.ingress, e.kind = 0x0A06 ∧ e.payload.extractLsb' 0 8 = BitVec.ofNat 8 k ∧
          e.payload.extractLsb' 16 8 = sensors.extractLsb' (8 * k) 8) ∧
      (fires 4 → u.sec.sigFails = []) ∧
      ((∀ k, fires k → policy k = 0) → u.dev.state = s.dev.state) ∧
      ((∃ k, fires k ∧ policy k ≠ 0) → u.dev.state = .alarmed ∧ u.pins.alarmN = false ∧
        (s.dev.state ≠ .alarmed → ∀ p < 4, (u.port p).state = .disabled)) ∧
      ((∃ k, fires k ∧ policy k = 2) → u.sec.identityKey = none ∧ u.sec.pufBuffer = 0 ∧ u.sec.smRegs = 0 ∧
        u.sec.erase = .marker ∧ u.odGet Od.debugLevel = 0 ∧ u.hm.flashJob = none ∧
        ∀ e ∈ u.fab.regions, regValid e.2 = false ∧ regKey e.2 = 0))) ∧
  ∀ s : State,
    let marked := fun (f : Flash) => f.eraseMarker = true ∧ f.deriveKey = none ∧ s.flash.Written f markerArea [0]
    (s.sec.erase = .marker → s.dev.offHold = .none → ∃ f, marked f ∧ exec .eraseMarkerProgrammed s =
      .next { s with flash := f, sec := { s.sec with erase := .helper } }) ∧
    (s.sec.erase = .marker → s.dev.offHold ≠ .none → ∃ u : State, exec .eraseMarkerProgrammed s = .next u ∧
      u.dev.state = .off ∧ marked u.flash) ∧
    (s.sec.erase ≠ .marker → exec .eraseMarkerProgrammed s = .next s) ∧
    (s.sec.erase = .helper → s.hm.repairDue = false → ∃ f : Flash,
      exec .helperOverwrite s = .next { s with flash := f, sec := { s.sec with erase := .none } } ∧ f.deriveKey = none ∧
      ∀ x, f.byte x = if 0x2200000 ≤ x ∧ x < 0x2220000 then 0 else s.flash.byte x) ∧
    (s.sec.erase ≠ .helper → exec .helperOverwrite s = .next s)

/-! ### The event log and hardware errors (R46, R232, R236, R237, R240, R393 to R396) -/

/-- R30, R393 to R396: of the records in the collector's ingress, the first 256 of those that wait (log 14), the lowest goes
first: none of its epoch has an earlier time, and of one source and edge none a lower KIND. It enters the on-die log, and the
log ring where that is on and has room, no sooner than 100 ns after its timestamp. An action whose source has no place for its
event is held, and acts when there is one, with the stamp of the time when it was due (log 14). The ring is turned on where
it fits, its HEAD 0, and turning it off ends a drop period (log 63); room ends one too; a deferred interrupt comes 10 µs
after the one before. -/
def Obligations.EventLog : Prop :=
  (∀ (l : List Event) (e : Event) (r : List Event), lowestEvent l = some (e, r) → l.Perm (e :: r) ∧
    ((∀ x ∈ l, x.epoch = e.epoch) → ∀ x ∈ l, e.time ≤ x.time ∧ (x.time = e.time → e.source.toNat ≤ x.source.toNat ∧
      (x.source = e.source → oneEdge x.srcType = true → e.kind.toNat ≤ x.kind.toNat)))) ∧
  (∀ (s : State) (e : Event) (r : List Event), lowestEvent (s.log.ingress.take 256) = some (e, r) →
    (s.logWaits e = true ∨ s.dev.state = .off → exec .logRelease s = .next s) ∧
    (s.logWaits e = false → s.dev.state ≠ .off → ∃ u : State, exec .logRelease s = .next u ∧
      (∃ l, u.log.ingress = r ++ s.log.ingress.drop 256 ++ l ∧ (s.logOn = false → s.dues = [] → l = [])) ∧
      u.log.ondie = (e :: s.log.ondie).take 4096 ∧ u.odGet Od.logRecords = (s.odGet Od.logRecords + 1) % 2 ^ 64 ∧
      (s.log.ingress.length < 256 → s.log.lastKey = none → e.time + 100 ≤ u.clk.now) ∧
      (s.logOn = false → ∀ a, u.memByte a = s.memByte a) ∧
      let slot := s.odGet Od.logRingBase + 32 * s.log.ringTail
      let ctrl := s.odGet Od.logRingCtrl
      (s.logOn = true → s.logRoom = true → CleanBytes s slot 32 → CleanBytes s ctrl 4 → s.hbmReadFails = [] →
        (ctrl + 4 ≤ slot ∨ slot + 32 ≤ ctrl) → u.memBytes slot 32 = eventBytes e ∧
        u.log.ringTail = (s.log.ringTail + 1) % s.odGet Od.logRingEntries))) ∧
  (∀ (s : State) (head : BitVec 32), s.logOn = true → ∃ u : State, exec (.logHeadWrite head) s = .next u ∧
    u.log.ringHead = head.toNat ∧
    (u.logRoom = true → 0 < s.log.dropping → u.log.dropping = 0 ∧ ∃ e, u.log.ingress.getLast? = some e ∧ e.kind = 0x0804)) ∧
  (∀ (s : State) (t : Nat), s.log.lastSignal = some t → s.log.deferred = true → s.dev.state ≠ .off → ∃ u : State,
    exec .eventInterrupt s = .next u ∧ t + 10000 ≤ u.clk.now ∧ u.log.deferred = false ∧
    u.log.lastSignal = some u.clk.now ∧ u.out = (s.signal 72).out ∧ u.pcie = (s.signal 72).pcie) ∧
  (∀ (s : State) (via : OdPath) (v : BitVec 32), Admitted s via 0x4000 0x02 v.toNat →
    let c : Instr := .logRingEntries via v
    let able := (∃ k, v.toNat = 2 ^ k) ∧ 1024 ≤ v.toNat ∧ v.toNat ≤ 1048576 ∧ s.logFits v.toNat = true
    (v = 0 → Answers c s via 0x4000 0x02 Status.ok fun u => u.odGet Od.logRingEntries = 0 ∧ u.log.dropping = 0) ∧
    (v ≠ 0 → s.logOn = true ∨ ¬able → exec c s = .next (s.answerWrite via 0x4000 0x02 Status.refused)) ∧
    (v ≠ 0 → s.logOn = false → able → Answers c s via 0x4000 0x02 Status.ok fun u =>
      u.odGet Od.logRingEntries = v.toNat ∧ u.log.ringTail = 0 ∧ u.log.ringHead = 0)) ∧
  (∀ s : State, s.dev.state ≠ .off → s.odGet Od.timebaseSource = 0 →
    (s.log.closed 0x1200 = true → exec .tbHoldoverEnter s =
      .next (s.setHeld (s.log.held ++ [⟨[0x1200], some .tbHoldoverEnter, s.epoch 0, s.clk.now⟩]))) ∧
    ∀ ep t, s.log.held = [⟨[0x1200], some .tbHoldoverEnter, ep, t⟩] → s.log.full 0x1200 = false →
      s.runHeld.log.held = [] ∧ s.runHeld.odGet Od.timebaseSource = 1 ∧
      ∃ e, s.runHeld.log.ingress = s.log.ingress ++ [e] ∧ e.kind = 0x0001 ∧ e.epoch = ep ∧ e.time = t) ∧
  ∀ (s : State) (ty inst : BitVec 8), s.log.roomy = true → s.dev.state ≠ .off →
    let e := SMap.get ([], 0) s.log.ceRate (256 * ty.toNat + inst.toNat)
    (e.2 = 0 → exec (.memCeLimit ty inst) s = .next s) ∧
    (e.2 ≠ 0 → ∃ u : State, exec (.memCeLimit ty inst) s = .next u ∧ e.1.getLastD 0 + 1000000000 ≤ u.clk.now ∧
      Logs (s.advanceTo (e.1.getLastD 0 + 1000000000)) u 0x0203 sevWarning ∧ SMap.get ([], 0) u.log.ceRate (256 * ty.toNat + inst.toNat) = (e.1, 0))

/-- R46, R232, R236, R237, R240: the scrubber reads the next 256 bytes of a memory: every word of them then holds what its
checker delivered, no other word changes, and the position moves on or the pass ends. A parity error of a channel or of
the management ring moves the device to FAULT, and so does a write or command that fails four times; retries are counted
and logged; an uncorrectable register word stops its core. -/
def Obligations.ScrubAndErrors : Prop :=
  (∀ (s : State) (unit : ScrubUnit), s.log.roomy = true → s.scrubOn = true → ∀ base n, s.scrubMemory unit = some (base, n) →
    let old := s.scrub.pass? unit
    let at_ := match old with
      | some o => if o.next < n then o.next else 0
      | none => 0
    let words := spanWords (base + at_) 256
    (∀ w ∈ words, s.racyAt w = none) → s.hbmReadFails = [] → ∃ u : State, exec (.scrubRead unit) s = .next u ∧
      (∀ w ∈ words, u.rawWord w = checkedWord (s.rawWord w)) ∧ (∀ w, w ∉ words → u.rawWord w = s.rawWord w) ∧
      (∃ p, u.scrub.pass? unit = some p ∧ p.next = at_ + 256 ∧
        (∀ o, old = some o → o.next < n → p.since = o.since ∧ p.period = o.period) ∧
        (at_ = 0 → old = none ∨ (∃ o, old = some o ∧ n ≤ o.next ∧ o.since + o.period ≤ p.since) →
          p.since = u.clk.now ∧ p.period = s.scrubPeriod unit)) ∧
      (∀ o, old = some o → n ≤ o.next → o.since + o.period ≤ u.clk.now) ∧
      (unit = .hbm → n ≤ at_ + 256 → u.odGet Od.scrubHbmPasses = (s.odGet Od.scrubHbmPasses + 1) % 2 ^ 64 ∧
        u.odGet Od.scrubHbmLast = u.clk.now)) ∧
  ∀ s : State, s.log.roomy = true → s.dev.state ≠ .off →
    let fault := fun (e : HwError) => ∃ u : State, exec (.fatalError e) s = .next u ∧ u.dev.state = .fault ∧
      ∀ p < 4, (u.port p).state = .disabled
    (s.working = true → (∀ ty inst, fault (.channelParity ty inst)) ∧ fault .ringParity ∧
      ∀ stack pc, s.stackUp stack = true → pc < 32 → ∀ k, 4 ≤ k →
        fault (.hbmWriteParity stack pc k) ∧ fault (.hbmCommandParity stack pc k)) ∧
    (∀ stack pc, s.stackUp stack = true → pc < 32 →
      let retried := fun (e : HwError) n (u : State) => exec (.fatalError e) s = .next u ∧ Logs s u 0x0204 sevWarning ∧
        u.dev = s.dev ∧ u.odGet (Od.hbmLinkRetryCount stack) = (s.odGet (Od.hbmLinkRetryCount stack) + n) % 2 ^ 64
      (∀ k, 1 ≤ k → k ≤ 3 → ∃ u v w : State, retried (.hbmWriteParity stack pc k) k u ∧
        retried (.hbmCommandParity stack pc k) k v ∧ retried (.hbmReadParity stack pc k true) k w ∧
        w.hbmReadFails = s.hbmReadFails) ∧
      ∃ u : State, retried (.hbmReadParity stack pc 3 false) 3 u ∧
        u.hbmReadFails = (32 * stack + pc.toNat) :: s.hbmReadFails) ∧
    (∀ core, s.coreMapped core = true → s.coreFailed core = false →
      exec (.fatalError (.icacheParity core)) s = .next (s.odAdd Od.icacheParityCount 1)) ∧
    ∀ core slot lane n gr l, s.group? ⟨core, slot⟩ = some gr → lane < 32 → n < 128 → s.launchOf core = some l →
      ∃ u : State, exec (.fatalError (.registerWord core slot lane n false)) s = .next u ∧
        (∀ sl < 16, ∀ q, u.group? ⟨core, sl⟩ = some q → q.hold = .stopped ∨
          ∃ word, q.hold = .response word ∨ q.hold = .fence word ∨ q.hold = .endFence word) ∧
        (u.core core).stopAt.isSome = true ∧
        u.odGet Od.sramUeCount = (s.odGet Od.sramUeCount + 1) % 2 ^ 64

/-! ### Power, reset and start (R406 to R416, R429, R442) -/

/-- R406, R407, R409, R410, R417, R442, R46: what the pins, the rails and DEVICE_COMMAND RESET do. PWR_GOOD or RESET_N low, a rail out of
tolerance, a thermal trip and, where a strap selects it, PERST_N take the device into OFF, in which nothing volatile is
left; the rise of the pins starts it from BOOT, unless it is held. RESET takes effect 1 ms after its answer. With an erase's
marker still due in ALARMED, any rail but VDD_SOC and VDD_IO leaves the management island on (log 60). -/
def Obligations.PinsAndResets : Prop :=
  (∀ (s : State) (straps : BitVec 6),
    let low := s.dev.state = .off ∧ ¬(s.dev.pwrGood = true ∧ s.dev.resetN = true)
    let held := s.dev.offHold ≠ .none ∨ (straps.getLsbD 5 = true ∧ s.dev.perstN = false)
    let s' : State := { s with dev := { s.dev with pwrGood := true, resetN := true, straps := straps } }
    (¬low → exec (.resetRelease straps) s = .next s) ∧
    (low → held → exec (.resetRelease straps) s = .next s') ∧
    (low → ¬held → ∃ u : State, exec (.resetRelease straps) s = .next u ∧ Boots s' u)) ∧
  (∀ (s : State),
    let scope := s.dev.straps.getLsbD 5 = true
    let off := fun (c : Instr) (P : State → Prop) => ∃ u : State, exec c s = .next u ∧ GoesOff s u ∧ P u
    let restarts := scope ∧ s.dev.pwrGood = true ∧ s.dev.resetN = true ∧ s.dev.offHold = .none
    let risen : State := { s with dev := { s.dev with perstN := true } }
    (off .pwrGoodLow fun u => u.dev.pwrGood = false ∧ u.dev.thermtrip = false ∧ u.dev.offHold = .none) ∧
    (off .resetNLow fun u => u.dev.resetN = false ∧ u.dev.offHold ≠ .untilToggle ∧
      (u.dev.offHold = .untilPowerCycle ↔ s.dev.offHold = .untilPowerCycle)) ∧
    (scope → s.dev.state ≠ .off → off .perstNLow fun u => u.dev.perstN = false ∧ u.dev.offHold = s.dev.offHold) ∧
    (¬scope ∨ s.dev.state = .off → ∃ u : State, exec .perstNLow s = .next u ∧
      u = { s with dev := { s.dev with perstN := false, linkUp := false }, pcie := u.pcie } ∧
      u.pcie.bar0 = 0 ∧ u.pcie.bar2 = 0 ∧ u.pcie.bar4 = 0 ∧ u.pcie.memEnable = false ∧ u.pcie.d3hot = false ∧
      u.pcie.msixEnable = false ∧ u.pcie.msixPending = 0) ∧
    (s.dev.state ≠ .off → exec .perstNRise s = .next { risen with dev := { risen.dev with linkUp := true } }) ∧
    (s.dev.state = .off → restarts → ∃ u : State, exec .perstNRise s = .next u ∧ Boots risen u) ∧
    (s.dev.state = .off → ¬restarts → exec .perstNRise s = .next risen) ∧
    (∀ rail : Nat,
      let erasing := s.sec.erase = .marker ∧ s.dev.state = .alarmed ∧ rail ≠ 1 ∧ rail ≠ 5
      let c : Instr := .railUndervoltage rail
      (9 ≤ rail ∨ s.dev.state = .off → exec c s = .next s) ∧
      (rail < 9 → s.dev.state ≠ .off → ¬erasing → off c fun u => u.dev.offHold = .untilToggle) ∧
      (rail < 9 → erasing → ∃ u : State, exec c s = .next u ∧ u.dev.state = .alarmed ∧ u.dev.offHold = .untilToggle ∧
        u.dev.resetAt = none ∧
        u.mem = [] ∧ u.cores = [] ∧ u.disp.cmds = [] ∧ u.sec = s.sec ∧ u.log = s.log ∧ u.flash = s.flash)) ∧
    (s.dev.state ≠ .off → off .thermtrip fun u => u.dev.thermtrip = true ∧ u.dev.offHold = .untilPowerCycle) ∧
    (s.dev.state = .off → exec .thermtrip s = .next s) ∧
    (∀ via : OdPath, Reached s via 0x1002 0x01 3 → Answers (.reset via) s via 0x1002 0x01 Status.ok fun u =>
      u = { s with dev := { s.dev with resetAt := u.dev.resetAt } } ∧
      (s.dev.resetAt = none → u.dev.resetAt = some (s.clk.now + 1000000)) ∧
      (s.dev.resetAt ≠ none → u.dev.resetAt = s.dev.resetAt)) ∧
    (s.dev.resetAt ≠ none → s.dev.state ≠ .off → ∃ u : State, exec .resetDelayExpiry s = .next u ∧ Boots s u) ∧
    (s.dev.resetAt = none ∨ s.dev.state = .off → exec .resetDelayExpiry s = .next s))

/-- R40, R226, R391, R411, R413, R414, R416, R429: the start from BOOT to READY, step by step. The chosen image is
verified or the device is in FAULT; saved entries are loaded; each stack is initialised, HBM holds zeros after the last;
each cluster follows with its map of slots fixed, its memories zero and its cores without work; after cluster 7 the ports
train; READY is entered 87.5 ms after HBM was done. A cluster of which every slot is left out takes the device to FAULT
(log 77). REINIT runs the start again, from READY or FAULT, and keeps the epochs that wait and the Tally's monitor. -/
def Obligations.DeviceStart : Prop :=
  ∀ (s : State), s.log.roomy = true → (∀ m, s.flash.saved = some m → ∀ e ∈ m, e.1 ∈ odSavedKeys) →
    let init := s.dev.state = .init
    (s.dev.state ≠ .boot → exec .imageVerified s = .next s) ∧
    (s.dev.state = .boot →
      let chosen := s.flash.chosen (s.applyConfig.odGet Od.fwFloor)
      let fault := ∃ u : State, exec .imageVerified s = .next u ∧ u.dev.state = .fault ∧ u.dev.romFault = true ∧
        Logged u 0x0A02 fun e => e.severity = sevFatal
      (chosen = none → fault) ∧ ∀ b h body, chosen = some (b, h, body) →
        ((imgFails h body).isSome = true → fault) ∧
        (imgFails h body = none → ∃ u : State, exec .imageVerified s = .next u ∧ u.dev.state = .init ∧ u.dev.hbmDone = 0 ∧
          u.dev.clustersOn = 0 ∧ u.odGet Od.firmwareVersion = imgVersion h ∧ u.odGet Od.imageSlot = (if b then 1 else 0) ∧
          u.odGet Od.imageSeq = imgSeq h ∧ u.odGet Od.tImageVerified = s.clk.now ∧
          s.clk.now + 8000000 ≤ u.dev.stepAt ∧ u.dev.stepAt ≤ s.clk.now + 15000000 ∧
          (Logged u 0x0A01 fun e => e.severity = sevInfo) ∧
          (s.flash.saved = none → ∀ k ∈ odSavedKeys, k ≠ Od.plcaNodeId → u.odGet k = odDefault k) ∧
          (∀ m, s.flash.saved = some m → (m.map (·.1)).Nodup → ∀ e ∈ m, u.odGet e.1 = e.2))) ∧
    (¬(init ∧ s.dev.hbmDone < 8) → exec .hbmStackInit s = .next s ∧ ∀ phase, exec (.hbmInitFailed phase) s = .next s) ∧
    (init → s.dev.hbmDone < 8 →
      let last := s.dev.stepAt + 6000000
      let fails := fun (u : State) => u.dev.state = .fault ∧ last ≤ u.clk.now
      (last < s.clk.now → ∃ u : State, exec .hbmStackInit s = .next u ∧ fails u ∧ Logged u 0x0905 fun e => e.severity = sevFatal) ∧
      (s.clk.now ≤ last → ∃ u : State, exec .hbmStackInit s = .next u ∧ u.dev.hbmDone = s.dev.hbmDone + 1 ∧
        s.dev.stepAt ≤ u.clk.now ∧ u.clk.now ≤ last ∧ u.dev.stepAt = u.clk.now ∧
        Logs (s.advanceTo s.dev.stepAt) u 0x0901 sevInfo ∧
        (s.dev.hbmDone = 7 → u.odGet Od.tHbmDone = u.clk.now ∧ (∀ a < hbmEnd, u.memByte a = 0) ∧
          ∀ w < hbmEnd / 8, CleanWord u w)) ∧
      ∀ phase : BitVec 8, phase ≤ 2 → ∃ u : State, exec (.hbmInitFailed phase) s = .next u ∧ fails u ∧
        u.dev.romFault = false ∧ Logged u 0x0905 fun e => e.severity = sevFatal ∧ e.payload.extractLsb' 8 8 = phase) ∧
    (∀ bad : BitVec 17,
      let c := s.dev.clustersOn
      let able := init ∧ s.dev.hbmDone = 8 ∧ c < 8
      let out := SMap.get 0 s.hm.repairMap c ||| bad.toNat
      (¬able → exec (.clusterEnable bad) s = .next s) ∧
      let lost := ∀ k < 17, out.testBit k = true
      (able → lost → ∃ u : State, exec (.clusterEnable bad) s = .next u ∧ u.dev.state = .fault ∧ u.dev.clustersOn = c) ∧
      (able → ¬lost → ∃ u : State, exec (.clusterEnable bad) s = .next u ∧ u.dev.clustersOn = c + 1 ∧
        s.odGet Od.tHbmDone + 40000 * c ≤ u.clk.now ∧
        u.odGet (Od.repairLeftOut c) = (if out = 0 then 0x10000 else out) ∧ u.odGet (Od.repairPending c) = 0 ∧
        u.odGet (Od.coreFailed c) = 0 ∧
        (∀ k < 17, bad.getLsbD k = true → Logged u 0x0803 fun e => e.payload.extractLsb' 8 8 = BitVec.ofNat 8 k) ∧
        (∀ i < 16, let q := u.core (16 * c + i)
          q.groups = [] ∧ q.ops = [] ∧ q.tokens = [] ∧ q.launch = none) ∧
        (∀ a, (0xC000000000 + c * 0x2000000 ≤ a ∧ a < 0xC000000000 + (c + 1) * 0x2000000) ∨
          (localBase (16 * c) ≤ a ∧ a < localBase (16 * (c + 1))) → u.memByte a = 0) ∧
        (c = 7 → ∀ p < 4, (u.port p).state = .down))) ∧
    (¬(init ∧ s.dev.clustersOn = 8) → exec .startComplete s = .next s) ∧
    (init → s.dev.clustersOn = 8 → ∃ u : State, exec .startComplete s = .next u ∧ u.dev.state = .ready ∧
      s.odGet Od.tHbmDone + 87500000 ≤ u.clk.now ∧ u.odGet Od.tReady = u.clk.now ∧
      (s.fab.tracker = [] → (∀ a, u.memByte a = s.memByte a) ∧
        ∀ p < 4, ((u.port p).state = .training → u.clk.now < (s.port p).trainingEnd) ∧
          (s.odGet (Od.portEnable p) = 0 → (u.port p).state = .disabled)) ∧
      let left := ∃ x, 0x2200000 ≤ x ∧ x < 0x2220000 ∧ s.flash.byte x ≠ 0
      (s.flash.eraseMarker = true ∧ left → u.sec.erase = .helper) ∧
      (¬(s.flash.eraseMarker = true ∧ left) → u.sec.erase = s.sec.erase)) ∧
    ∀ via : OdPath, Reached s via 0x1002 0x01 2 →
      let able := (s.dev.state = .ready ∨ s.dev.state = .fault) ∧ s.dev.romFault = false
      (¬able → exec (.reinit via) s = .next (s.answerWrite via 0x1002 0x01 Status.refused)) ∧
      (able → Answers (.reinit via) s via 0x1002 0x01 Status.ok fun u => u.dev.state = .init ∧ u.dev.hbmDone = 0 ∧
        u.dev.clustersOn = 0 ∧ u.disp.cmds = [] ∧ u.fab.tracker = [] ∧ (∀ i < 16, u.slotOpen i = false) ∧
        (∀ r < 64, u.odGet (Od.ringEnable r) = 0 ∧ u.odGet (Od.cqEnable r) = 0) ∧ (∀ n < 128, (u.core n).groups = []) ∧
        (∀ p < 4, (u.port p).state = .down) ∧ u.fab.regions = s.fab.regions ∧ u.flash = s.flash ∧
        (u.epochs.map fun e => (e.1, e.2.1, e.2.2.1)) = (s.epochs.map fun e => (e.1, e.2.1, e.2.2.1)) ∧
        ∀ a, (a, Monitor.tallyHead) ∈ s.disp.armed → (a, Monitor.tallyHead) ∈ u.disp.armed)

/-! ### Ports, fences and regions (R250, R254, R380 to R383, R444) -/

/-- R250, R254, R380 to R383, R444: a port trains, links and parks as the plan's tests say, goes DOWN when its link is
lost, loses the groups that its peer's new mask lacks (R249), and is enabled and disabled; a port that stays DOWN fences its peer, and a fence is lifted by FENCE_CLEAR and by a new
plan; a region entry is replaced whole, or refused. -/
def Obligations.PortsFencesAndRegions : Prop :=
  (∀ (s : State) (p : Nat), p < 4 → s.log.roomy = true →
    let pt := s.port p
    let judged := s.setPort p { pt with expect := s.odGet (Od.portExpectSerial p) }
    let down := fun (c : Instr) (cause : BitVec 8) (t : Nat) => ∃ u : State, exec c s = .next u ∧ (u.port p).state = .down ∧
      t ≤ u.clk.now ∧ (u.port p).txq = [] ∧ Logged u 0x0302 fun e => e.severity = sevWarning ∧ e.payload.extractLsb' 0 8 = cause
    (∀ signal : BitVec 5,
      let m := signal &&& portAll p
      let trains := pt.state = .down ∧ s.linksOn = true ∧ s.loopback p = false ∧ m ≠ 0
      (¬trains → exec (.linkRetry p signal) s = .next s) ∧
      (trains → ∃ u : State, exec (.linkRetry p signal) s = .next u ∧ (u.port p).state = .training ∧
        (u.port p).badLanes = maskLanes (portAll p &&& ~~~m) ∧ (u.port p).retryAt = some u.clk.now ∧
        (∀ t, pt.retryAt = some t → t + 1000000 * s.acting Od.linkRetryMs ≤ u.clk.now) ∧
        ∃ x : BitVec 128, (u.port p).ctrlq = pt.ctrlq ++ [x] ∧ x.extractLsb' 0 8 = 0x01)) ∧
    (pt.state = .training → down (.trainingTimeout p) 3 (pt.retryAt.getD 0 + 60000000)) ∧
    (pt.state ≠ .training → exec (.trainingTimeout p) s = .next s) ∧
    (∀ id : IdentFlit,
      let c : Instr := .ident p id
      let m := goodGroups p pt.badLanes &&& id.mask
      let again := pt.state = .up ∨ pt.state = .degraded ∨ pt.state = .parked
      let late := pt.retryAt.getD 0 + 60000000 ≤ s.clk.now
      let parks := ∃ u : State, exec c s = .next u ∧ (u.port p).state = .parked ∧
        (pt.state ≠ .parked → (u.port p).txq = [] ∧
          Logged u 0x0304 fun e => some (e.payload.extractLsb' 0 8).toNat = judged.planReason p id)
      let links := fun groups => ∃ u : State, exec c s = .next u ∧ (u.port p).state = widthState p groups ∧
        (u.port p).groups = groups ∧ (u.port p).accepted = some (identPlace id).coord ∧
        u.odGet (Od.peerSerial p) = id.serial.toNat ∧
        (pt.state ≠ .up → pt.state ≠ .degraded → Logged u 0x0301 fun e => e.severity = sevInfo)
      (pt.state ≠ .training → ¬again → exec c s = .next s) ∧
      (pt.state = .training → m = 0 ∨ late → down c 3 s.clk.now) ∧
      (pt.state = .training ∧ m ≠ 0 ∧ ¬late ∨ again ∧ pt.groups &&& m ≠ 0 → judged.planReason p id ≠ none → parks) ∧
      (pt.state = .training → m ≠ 0 → ¬late → judged.planReason p id = none → links m) ∧
      (again → pt.groups &&& m = 0 → pt.groups ≠ 0 → down c 1 s.clk.now) ∧
      (again → pt.groups &&& m ≠ 0 → judged.planReason p id = none → links (pt.groups &&& m))) ∧
    (∀ cause : BitVec 8,
      (pt.state.linked = true → cause ≤ 2 → down (.linkDown p cause) cause
        (if cause = 0 then pt.lastGood + 16000 else if cause = 1 then pt.lastGood + 1000 else s.clk.now)) ∧
      (pt.state.linked = false ∨ 2 < cause → exec (.linkDown p cause) s = .next s)) ∧
    (∀ (via : OdPath) (v : BitVec 8), Admitted s via (0x2300 + p) 0x04 v.toNat →
      Answers (.portEnable via p v) s via (0x2300 + p) 0x04 Status.ok fun u => u.odGet (Od.portEnable p) = v.toNat ∧
        (v = 0 → (u.port p).state = .disabled) ∧
        (v ≠ 0 → pt.state = .disabled → s.dev.state ≠ .fault → (u.port p).state = .down) ∧
        (v ≠ 0 → pt.state ≠ .disabled → u.port p = pt)) ∧
    (∀ t cause d, pt.lostAt = some (t, cause) → pt.accepted = some d → pt.state = .down → ∃ u : State,
      exec (.deviceFenced p) s = .next u ∧ t + 1000 * s.acting Od.fenceDelayUs ≤ u.clk.now ∧
      u.odGet (Od.fencedCoord p) = d.toNat ∧ (u.port p).lostAt = none ∧ Logged u 0x0801 fun e => e.severity = sevError) ∧
    (pt.lostAt = none ∨ pt.accepted = none ∨ pt.state ≠ .down → exec (.deviceFenced p) s = .next s) ∧
    (∀ via : OdPath, Admitted s via 0x2360 0x06 p → ∀ v : BitVec 8, v.toNat = p →
      Answers (.fenceClear via v) s via 0x2360 0x06 Status.ok fun u => s.fenced p = false ∧ u = s ∨
        s.fenced p = true ∧ u.fenced p = false ∧ Logs s u 0x0802 sevInfo ∧ u.fab = s.fab)) ∧
  (∀ (s : State) (via : OdPath) (v : BitVec 8), Admitted s via 0x2360 0x06 v.toNat → 3 < v.toNat →
    exec (.fenceClear via v) s = .next (s.answerWrite via 0x2360 0x06 Status.refused)) ∧
  (∀ (s : State) (via : OdPath) (v : BitVec 32), Admitted s via 0x2310 0x01 v.toNat →
    Answers (.meshPlanId via v) s via 0x2310 0x01 Status.ok fun u => u.odGet Od.meshPlanId = v.toNat ∧
      ∀ p < 4, u.fenced p = false ∧
        (s.fenced p = true → Logged u 0x0802 fun e => e.payload.extractLsb' 0 16 = BitVec.ofNat 16 (256 + p)) ∧
        ∀ id, (s.port p).ident = some id →
          (s.port p).state = .up ∨ (s.port p).state = .degraded ∨ (s.port p).state = .parked →
          (u.planReason p id = none → (u.port p).state = widthState p (s.port p).groups) ∧
          (u.planReason p id ≠ none → (u.port p).state = .parked)) ∧
  ∀ (s : State) (via : OdPath) (bs : List Byte), Reached s via 0x6020 0x01 0 → via ≠ .direct → s.writesRefused = false →
    let n := bytesNat (bs.take 2)
    let flags := (bs.getD 2 0).toNat
    let old := SMap.get 0 s.fab.regions n
    let raw := BitVec.ofNat 128 (bytesNat (bs.drop 4)) &&& ~~~regReserved
    let e : BitVec 128 := if flags % 2 = 1 then regKey old ++ raw.setWidth 96 else raw
    let guarded := (regValid old = true ∧ regLevel old = 0) ∨ (regValid e = true ∧ regLevel e = 0)
    let denied := guarded ∧ 0 < pathLevel via
    let bad := 2 ≤ flags ∨ bs.getD 3 0 ≠ 0 ∨ s.regRefused n e = true
    let answer := fun st => exec (.regionWrite via bs) s = .next (s.answerWrite via 0x6020 0x01 st)
    (bs.length ≠ 20 → answer Status.refused) ∧
    (bs.length = 20 → denied → answer Status.denied) ∧
    (bs.length = 20 → ¬denied → 4096 ≤ n → answer Status.notFound) ∧
    (bs.length = 20 → ¬denied → n < 4096 → bad → answer Status.refused) ∧
    (bs.length = 20 → ¬denied → n < 4096 → ¬bad → Answers (.regionWrite via bs) s via 0x6020 0x01 Status.ok fun u =>
      SMap.get 0 u.fab.regions n = e ∧ (∀ k, k ≠ n → SMap.get 0 u.fab.regions k = SMap.get 0 s.fab.regions k) ∧
      u = { s with fab := { s.fab with regions := u.fab.regions } })

/-! ### Lanes, resizes and flits (R245 to R249, R251, R252) -/

/-- R245 to R249, R251, R252: a bad lane takes its group out of the link by a resize, and a group that is good again for
GROUP_RECOVER_MS comes back by one; both ends adopt the agreed mask from the switch SEQ on, or go DOWN with no group left; a
port whose peer the plan no longer accepts is then PARKED (R254), and narrows without a resize (log 59). The slots of a flit
go over successive active lanes, a resize flit whole over each group (log 70). A flit with a bad CRC is answered with
NAK; one with a good CRC releases what it acknowledges, and is delivered once, in sequence; NAK makes this end send again
what is not acknowledged, at most 8 times; a later copy of a resize flit is discarded. A port sends a control flit first,
then packets, else an idle flit, and an idle one after 2,047 others (R469); of these only a numbered flit waits for its
acknowledgement. -/
def Obligations.LanesAndFlits : Prop :=
  ∀ (s : State) (p : Nat), p < 4 → s.log.roomy = true →
    let pt := s.port p
    let working := pt.state = .up ∨ pt.state = .degraded
    let active := pt.state.linked = true ∨ pt.state = .training
    let resizes := fun (c : Instr) (bad : BitVec 40) (t : Nat) => ∃ u : State, exec c s = .next u ∧
      (u.port p).badLanes = bad ∧ t ≤ u.clk.now ∧
      (goodGroups p bad = 0 → (u.port p).state = .down) ∧
      (goodGroups p bad ≠ 0 → (u.port p).state = .resize ∧ (∃ lane, (u.port p).resizing = some (goodGroups p bad, pt.txSeq + 64, lane)) ∧
        (u.port p).ctrlq = pt.ctrlq ++ [resizeSlot 0x02 (pt.txSeq + 64) (goodGroups p bad)])
    let accepts := ∃ id, pt.ident = some id ∧ s.planReason p id = none
    let goesOn := accepts ∨ (pt.ident = none ∧ pt.state ≠ .parked)
    let adopts := fun (u : State) (m : BitVec 5) (seq : BitVec 12) => (m = 0 → (u.port p).state = .down) ∧
      (m ≠ 0 → (goesOn → (u.port p).state = widthState p m) ∧ (¬goesOn → (u.port p).state = .parked) ∧ (u.port p).groups = m ∧ (u.port p).resizing = none ∧
        (u.port p).switchAt = some seq ∧ u.odGet (Od.portWidth p) = maskWidth m ∧ Logged u 0x0303 fun e => e.payload.extractLsb' 8 8 = BitVec.ofNat 8 (maskWidth m))
    (∀ lane, lane < portLanes p →
      let bad := pt.badLanes ||| ((1 : BitVec 40) <<< lane)
      let mine := pt.groups.getLsbD (lane / 8) = true
      let left := pt.groups &&& goodGroups p bad
      (working → mine → resizes (.laneBad p lane) bad s.clk.now) ∧
      (pt.state = .training → ∃ u : State, exec (.laneBad p lane) s = .next u ∧ (u.port p).badLanes = bad ∧
        (goodGroups p bad = 0 → (u.port p).state = .down) ∧
        (goodGroups p bad ≠ 0 → (u.port p).state = .training ∧
          ∃ x : BitVec 128, (u.port p).ctrlq = pt.ctrlq ++ [x] ∧ x.extractLsb' 0 8 = 0x01)) ∧
      (pt.state = .parked → mine → ∃ u : State, exec (.laneBad p lane) s = .next u ∧ (u.port p).badLanes = bad ∧
        (left = 0 → (u.port p).state = .down) ∧
        (left ≠ 0 → (accepts → (u.port p).state = widthState p left) ∧ (¬accepts → (u.port p).state = .parked) ∧
          (u.port p).groups = left ∧ u.odGet (Od.portWidth p) = maskWidth left ∧
          ∃ x : BitVec 128, (u.port p).ctrlq = pt.ctrlq ++ [x] ∧ x.extractLsb' 0 8 = 0x01)) ∧
      (pt.state ≠ .training → ¬working → pt.state ≠ .parked → mine →
        exec (.laneBad p lane) s = .next (s.setPort p { pt with badLanes := bad })) ∧
      (pt.state ≠ .training → ¬mine → ∃ u : State, exec (.laneBad p lane) s = .next u ∧
        u = { s with fab := { s.fab with ports := u.fab.ports } } ∧ (∀ k, k ≠ p → u.port k = s.port k) ∧
        u.port p = { pt with badLanes := bad, groupAt := SMap.set 0 pt.groupAt (lane / 8) s.clk.now })) ∧
    (∀ lane, portLanes p ≤ lane → exec (.laneBad p lane) s = .next s) ∧
    (∀ group,
      let back := working ∧ (portAll p).getLsbD group = true ∧ pt.groups.getLsbD group = false
      (back → resizes (.groupRecover p group) (pt.badLanes &&& ~~~(groupLanes group))
        (SMap.get 0 pt.groupAt group + 1000000 * s.acting Od.groupRecoverMs)) ∧
      (¬back → exec (.groupRecover p group) s = .next s)) ∧
    (∀ (seq : BitVec 12) (mask : BitVec 5),
      let m := goodGroups p pt.badLanes &&& mask
      (pt.state.linked = true → ∃ u : State, exec (.resizeReq p seq mask) s = .next u ∧ adopts u m seq ∧
        (m ≠ 0 → (u.port p).ctrlq = pt.ctrlq ++ [resizeSlot 0x03 seq m])) ∧
      (pt.state.linked = false → exec (.resizeReq p seq mask) s = .next s) ∧
      let mine := pt.state = .resize ∧ ∃ k lane, pt.resizing = some (k, seq, lane)
      let agreed := mask &&& portAll p
      let good := goodGroups p pt.badLanes
      let again := goesOn ∧ agreed &&& ~~~good ≠ 0
      (mine → ∃ u : State, exec (.resizeAck p seq mask) s = .next u ∧ (¬again → adopts u agreed seq) ∧
        (again → good = 0 → (u.port p).state = .down) ∧
        (again → good ≠ 0 → (u.port p).state = .resize ∧ (u.port p).groups = agreed ∧ (u.port p).switchAt = some seq ∧
          (u.port p).resizing = some (good, pt.txSeq + 64, 0xFF))) ∧
      (¬mine → exec (.resizeAck p seq mask) s = .next s)) ∧
    (∀ (lane : BitVec 6) (start : Bool),
      let fits := (working ∨ (start = false ∧ pt.state.linked = true)) ∧ lane.toNat < portLanes p ∧ (if start = true then pt.recalLane = none else pt.recalLane = some lane)
      (¬fits → exec (.recal p lane start) s = .next s) ∧
      (fits → ∃ u : State, exec (.recal p lane start) s = .next u ∧ (u.port p).recalLane = (if start then some lane else none) ∧
        (u.port p).recalDone = pt.recalDone + (if start then 0 else 1) ∧ (u.port p).ctrlq =
          (if s.recalPass p = true then pt.ctrlq ++ [recalSlot lane start] else pt.ctrlq) ∧ (u.port p).state = pt.state)) ∧
    (∀ bs : List Byte,
      let c : Instr := .flitReceived p bs
      let f := flitOf bs
      let q := pt.acked f.ack
      (¬active → exec c s = .next s) ∧
      (active → crcGood bs = false → exec c s = .next (s.setPort p { pt with nak := true })) ∧
      let copy := f.copied = true ∧ f.seq = pt.rxSeq
      (active → crcGood bs = true → copy → exec c s = .next (s.setPort p { pt with lastGood := s.clk.now })) ∧
      (active → crcGood bs = true → ¬copy → f.nak = false → ∃ u : State, exec c s = .next u ∧ u.out = s.out ∧
        (u.port p).replay = q.replay ∧
        (f.ftype = 0x0 → (u.port p).nak = decide (f.seq ≠ pt.rxSeq) ∧ (u.port p).rxq = pt.rxq) ∧
        (f.ftype = 0x1 → f.seq = pt.rxSeq + 1 → (u.port p).rxSeq = f.seq ∧ (u.port p).nak = false ∧
          (pt.state.carries = true → (u.port p).rxq =
            pt.rxq ++ (takeSlots pt.rxSlots (f.slots.zipIdx.map fun x => (f.starts.getLsbD x.2, x.1)) []).2)) ∧
        (f.ftype = 0x1 → f.seq ≠ pt.rxSeq + 1 → u.port p = { q with nak := true, lastGood := s.clk.now })) ∧
      (active → crcGood bs = true → ¬copy → f.nak = true → ∃ u : State, exec c s = .next u ∧
        (q.replay ≠ [] → 8 ≤ q.resends → (u.port p).state = .down) ∧
        (q.replay ≠ [] → q.resends < 8 → (u.port p).resends = q.resends + 1 ∧ (u.port p).replay = q.replay ∧
          s.out.length + q.replay.length ≤ u.out.length ∧
          let n := pt.sinceIdle + q.replay.length
          (u.port p).sinceIdle = if n < 2048 then n else q.replay.length))) ∧
    (¬active → exec (.idleFlit p) s = .next s) ∧
    (active →
      let room := pt.replay.length < 1024
      let sends := fun (numbered copied : Bool) (P : State → Prop) => ∃ (u : State) (bytes : List Byte),
        let seq := if numbered then pt.txSeq + 1 else pt.txSeq
        let q := pt.switched seq
        let lanes := q.lanes
        exec (.idleFlit p) s = .next u ∧ u.out = (if copied
            then ((List.range 5).filter (portAll p).getLsbD).reverse.map fun g =>
              .flit p bytes ((List.range 16).map fun i => 8 * g + i % 8)
            else [.flit p bytes ((List.range 16).map fun i => lanes.getD ((q.lanePos + i) % max 1 lanes.length) 0)]) ++ s.out ∧
        bytes.length = 256 ∧ (u.port p).txSeq = seq ∧
        (u.port p).replay = (if numbered then pt.replay ++ [(pt.txSeq + 1, bytes)] else pt.replay) ∧ P u
      let packets := room ∧ working ∧ (s.fill p).slots ≠ []
      let idles := sends false false fun u => (u.port p).ctrlq = pt.ctrlq ∧ (u.port p).txq = pt.txq ∧ (u.port p).sinceIdle = 0
      let other := fun (u : State) => (u.port p).sinceIdle = pt.sinceIdle + 1
      (2047 ≤ pt.sinceIdle → idles) ∧
      (∀ x r, pt.sinceIdle < 2047 → pt.ctrlq = x :: r →
        let ident := x.extractLsb' 0 8 = 0x01
        let copied := x.extractLsb' 0 8 = 0x02 ∨ x.extractLsb' 0 8 = 0x03
        (ident ∨ room → sends (decide ¬ident) (decide copied) fun u => (u.port p).ctrlq = r ∧ other u) ∧
        (¬ident → ¬room → idles)) ∧
      (pt.sinceIdle < 2047 → pt.ctrlq = [] → packets → sends true false fun u => other u ∧ (u.port p).txq = (s.fill p).port.txq ∧
        (u.port p).txSlots = (s.fill p).port.txSlots) ∧
      (pt.sinceIdle < 2047 → pt.ctrlq = [] → ¬packets → idles))

/-! ### Theost (R53 to R60) -/

/-- R47, R54 to R56: which frames are heard, and how reads and writes are answered. A repeat of a request gets its kept
response again; without a place it gets BUSY, which is not logged (log 76) and not kept (log 37); a new read is answered with the value, and a new write is served as a write
of the dictionary by its path. A frame that the device sends has the header that it reads, after an EtherType of
the high byte first (log 76): its own fields come back.
R53, R59, R60: the frames that the device sends by itself. PRESENCE goes to every station each millisecond, with the
state and the serial number; an enabled cyclic channel samples its map each period, the first time one period after its
enable (log 36), and its frame, numbered from 1 (log 36), is sent, or dropped and counted; a channel is enabled only where
the load of all stays within its limit, and an enable of an enabled one changes nothing (log 36). -/
def Obligations.FieldPort : Prop :=
  (∀ (s : State) (fr : TheostFrame),
    let silent := s.dev.state = .off ∨ s.dev.state = .boot ∨ fr.etherType ≠ 0x88B5
    let idx := fr.index.toNat
    let sub := fr.sub.toNat
    let via : OdPath := .theost fr.srcMac fr.seq
    (∀ t c, (t, c) ∈ [((0x01 : BitVec 8), Instr.readReq fr), (0x03, .writeReq fr), (0x05, .segStart fr), (0x06, .segData fr),
        (0x07, .segAck fr), (0x08, .segAbort fr)] →
      (silent → exec c s = .next s) ∧
      (¬silent → fr.version ≠ 0x01 → exec c s = .next (s.odAdd Od.fieldBadVersion 1)) ∧
      (¬silent → fr.version = 0x01 → fr.ftype ∉ [(0x01 : BitVec 8), 0x03, 0x05, 0x06, 0x07, 0x08] →
        exec c s = .next (s.odAdd Od.fieldBadType 1))) ∧
    (∀ (t rsp : BitVec 8) (c : Instr), (t, rsp, c) ∈ [((0x01 : BitVec 8), (0x02 : BitVec 8), Instr.readReq fr),
        (0x03, 0x04, .writeReq fr), (0x05, 0x07, .segStart fr)] → Heard s fr t → fr.broadcast = false →
      (∀ f, s.keptFor fr = some f → exec c s = .next { s with out := .frame f.dst f.bytes :: s.out }) ∧
      (s.keptFor fr = none → s.inService fr = true → exec c s = .next s) ∧
      (s.keptFor fr = none → s.inService fr = false → s.placesFull = true → Sends c s fun u f => f.ftype = rsp ∧
        f.dst = fr.srcMac ∧ f.seq = fr.seq ∧ f.status = Status.busy ∧ u = { s with out := u.out })) ∧
    (Heard s fr 0x01 → fr.broadcast = true → fr.index ≠ 0x1000 → exec (.readReq fr) s = .next s) ∧
    (∀ t c, (t, c) ∈ [((0x03 : BitVec 8), Instr.writeReq fr), (0x05, .segStart fr)] → Heard s fr t → fr.broadcast = true →
      exec c s = .next s) ∧
    (Fresh s fr 0x01 → fr.broadcast = false ∨ fr.index = 0x1000 → Sends (.readReq fr) s fun u f =>
      f.ftype = 0x02 ∧ f.dst = fr.srcMac ∧ f.seq = fr.seq ∧ f.index = fr.index ∧ f.sub = fr.sub ∧ f.xfer = 0 ∧
      u.keptFor fr = some f ∧ u = { s with hm := u.hm, log := u.log, out := u.out } ∧
      (∀ st, s.odReadStatus via idx sub = (st, none) → f.status = st ∧ f.payload = []) ∧
      ∀ st r, s.odReadStatus via idx sub = (st, some r) →
        let bs := s.odRead r idx sub
        (1024 < bs.length → f.status = Status.refused ∧ f.payload = []) ∧
        (bs.length ≤ 1024 → f.status = Status.ok ∧ f.dtype = r.ty.code ∧ f.payload = bs)) ∧
    (Fresh s fr 0x03 → fr.broadcast = false →
      (1024 < fr.payload.length → Refuses (.writeReq fr) s s via idx sub) ∧
      (fr.payload.length ≤ 1024 → exec (.writeReq fr) s = exec (.odWrite via fr.index fr.sub fr.payload) s)) ∧
    ∀ st : Status, ∃ u f, s.answerWrite via idx sub st = u ∧ u.out = .frame f.dst f.bytes :: s.out ∧ f.ftype = 0x04 ∧
      f.dst = fr.srcMac ∧ f.seq = fr.seq ∧ f.status = st ∧ f.payload = [] ∧ u.keptFor fr = some f) ∧
  (∀ (f : OutFrame) (mac : BitVec 48) (b : Bool), f.payload.length < 65536 →
    let fr : TheostFrame := ⟨mac, b, 0x88B5, BitVec.ofNat 128 (bytesNat ((f.bytes.drop 2).take 16)), f.bytes.drop 18⟩
    f.bytes.take 2 = [0x88, 0xB5] ∧ fr.version = 0x01 ∧ fr.ftype = f.ftype ∧ fr.seq = f.seq ∧ fr.index = f.index ∧
      fr.sub = f.sub ∧ fr.status = f.status ∧ fr.flags = f.flags ∧ fr.xfer = f.xfer ∧ fr.payload = f.payload) ∧
  (∀ (s : State),
    (s.fieldSpeaks = false → exec .presence s = .next s) ∧
    (s.fieldSpeaks = true → Sends .presence s fun u f => f.ftype = 0x0A ∧ f.dst = broadcastMac ∧
      f.payload = natBytes 1 s.dev.state.code ++ natBytes 8 (s.odGet Od.serialNumber) ∧
      u.hm.presenceAt = some u.clk.now ∧ ∀ t, s.hm.presenceAt = some t → t + 1000000 ≤ u.clk.now)) ∧
  (∀ (s : State) (n : Nat),
    let on := n < 8 ∧ s.fieldSpeaks = true ∧ s.odGet (Od.cycEnable n) = 1
    (¬on → exec (.cyclic n) s = .next s) ∧
    (on → ∃ u : State, exec (.cyclic n) s = .next u ∧
      SMap.get 0 s.hm.cycAt n + 1000000 * s.odGet (Od.cycPeriod n) ≤ u.clk.now ∧ SMap.get 0 u.hm.cycAt n = u.clk.now ∧
      SMap.get 0 u.hm.cycCount n = SMap.get 0 s.hm.cycCount n + 1 ∧
      ((u.out = s.out ∧ u.odGet (Od.cycDropped n) = (s.odGet (Od.cycDropped n) + 1) % 2 ^ 32) ∨
        ∃ (f : OutFrame) (v : State), u.out = .frame f.dst f.bytes :: s.out ∧ f.ftype = 0x09 ∧ f.sub = BitVec.ofNat 8 n ∧
          f.dst = BitVec.ofNat 48 (s.odGet (Od.cycDestMac n)) ∧ f.xfer = SMap.get 0 s.hm.cycCount n + 1 ∧
          u = { v with free := u.free, out := u.out } ∧
          f.payload = natBytes 8 u.clk.now ++ (v.cycEntries n).flatMap v.cycBytes))) ∧
  ∀ (s : State) (via : OdPath) (n : Nat) (v : BitVec 8), n < 8 → Admitted s via (0x1220 + n) 0x01 v.toNat →
    let on := s.odGet (Od.cycEnable n) = 1
    let answers := fun P => Answers (.cycEnable via n v) s via (0x1220 + n) 0x01 Status.ok P
    (v = 0 → answers fun u => u.odGet (Od.cycEnable n) = 0 ∧ u = { s with od := u.od }) ∧
    (v ≠ 0 → on → answers fun u => u = s) ∧
    (v ≠ 0 → ¬on → s.cycFits n = false →
      exec (.cycEnable via n v) s = .next (s.answerWrite via (0x1220 + n) 0x01 Status.refused)) ∧
    (v ≠ 0 → ¬on → s.cycFits n = true → answers fun u => u.odGet (Od.cycEnable n) = 1 ∧
      SMap.get 0 u.hm.cycCount n = 0 ∧ SMap.get 0 u.hm.cycAt n = s.clk.now)

/-- R58: a segmented transfer. SEG_START opens one, or is answered with why not; a download takes its segments in order,
acknowledges each, and is written as one value with the last; an upload sends at most 8 segments ahead of the client's
acknowledgements and ends with the last of them; either is ended by SEG_ABORT, or by 500 ms of silence. XFER 0 on a failed
SEG_START, REFUSED for a total that does not match, the repeated acknowledgement of a segment out of order, and what is
ignored while the write is served are the model's choices (log 37). -/
def Obligations.SegmentedTransfers : Prop :=
  ∀ (s : State) (fr : TheostFrame),
    let upload := fr.flags.getLsbD 0
    let q := s.segStatus fr upload (bytesNat (fr.payload.take 4))
    (Fresh s fr 0x05 → fr.broadcast = false → (∀ y ∈ s.hm.xfers, y.id ≠ s.hm.nextXfer) →
      (q.1 ≠ Status.ok → Sends (.segStart fr) s fun u f => f.ftype = 0x07 ∧ f.dst = fr.srcMac ∧ f.seq = fr.seq ∧
        f.status = q.1 ∧ f.xfer = 0 ∧ u.hm.xfers = s.hm.xfers) ∧
      (q.1 = Status.ok →
        let total := if upload then q.2.length else bytesNat (fr.payload.take 4)
        ∃ (u : State) (x : Xfer) (out : List Output) (f : OutFrame), exec (.segStart fr) s = .next u ∧
          u.xfer? s.hm.nextXfer = some x ∧ u.hm.nextXfer = s.hm.nextXfer + 1 ∧
          x.mac = fr.srcMac ∧ x.index = fr.index ∧ x.sub = fr.sub ∧ x.upload = upload ∧ x.total = total ∧ x.acked = 0 ∧
          u.out = out ++ .frame f.dst f.bytes :: s.out ∧ f.ftype = 0x07 ∧ f.status = Status.ok ∧ f.xfer = x.id ∧
          f.payload = natBytes 4 total ∧ out.length = x.sent ∧
          x.sent = (if upload then min (segCount total) 8 else 0) ∧ x.data = (if upload then q.2 else []))) ∧
    (∀ x, s.xferOf fr = some x →
      let acks := fun (u : State) n => ∃ f : OutFrame, u.out = .frame f.dst f.bytes :: s.out ∧ f.ftype = 0x07 ∧
        f.dst = x.mac ∧ f.seq = BitVec.ofNat 16 n ∧ f.xfer = x.id ∧ f.status = Status.ok
      let last := fr.flags.getLsbD 1 = true
      let next := fr.seq = BitVec.ofNat 16 x.acked ∧ x.acked < 65536 ∧
        (fr.payload.length = 1024 ∨ (last ∧ fr.payload.length < 1024))
      let taken : Xfer := { x with
        data := x.data ++ fr.payload, acked := x.acked + 1, progressAt := s.clk.now, heardAt := s.clk.now }
      (Heard s fr 0x06 → fr.broadcast = true ∨ x.upload = true ∨ x.committing = true → exec (.segData fr) s = .next s) ∧
      (Heard s fr 0x06 → fr.broadcast = false → x.upload = false → x.committing = false →
        (¬next → ∃ u : State, exec (.segData fr) s = .next u ∧ acks u x.acked ∧
          u.xfer? x.id = some { x with heardAt := s.clk.now }) ∧
        (next → ¬last → ∃ u : State, exec (.segData fr) s = .next u ∧ acks u (x.acked + 1) ∧ u.xfer? x.id = some taken) ∧
        (next → last →
          let via : OdPath := .theost x.mac x.seq
          ∃ u : State, acks u (x.acked + 1) ∧ u.xfer? x.id = some { taken with committing := true } ∧
            u = { s with hm := u.hm, out := u.out } ∧
            (taken.data.length ≠ x.total → Refuses (.segData fr) s u via x.index.toNat x.sub.toNat) ∧
            (taken.data.length = x.total →
              exec (.segData fr) s = exec (.odWrite via x.index x.sub taken.data) u))) ∧
      (Heard s fr 0x07 → fr.broadcast = false → x.upload = true →
        let d := (fr.seq - BitVec.ofNat 16 x.acked).toNat
        (d = 0 ∨ x.sent < x.acked + d → ∃ u : State, exec (.segAck fr) s = .next u ∧ u.out = s.out ∧
          u.xfer? x.id = some { x with heardAt := s.clk.now }) ∧
        (0 < d → x.acked + d ≤ x.sent → segCount x.total ≤ x.acked + d → ∃ u : State, exec (.segAck fr) s = .next u ∧
          u.xfer? x.id = none ∧ u.out = s.out) ∧
        (0 < d → x.acked + d ≤ x.sent → x.acked + d < segCount x.total → ∃ u y, exec (.segAck fr) s = .next u ∧
          u.xfer? x.id = some y ∧ y.acked = x.acked + d ∧ y.sent = max x.sent (min (segCount x.total) (x.acked + d + 8)) ∧
          u.out.length = s.out.length + (y.sent - x.sent))) ∧
      (Heard s fr 0x08 → fr.broadcast = false → x.committing = false → ∃ u : State, exec (.segAbort fr) s = .next u ∧
        u.xfer? x.id = none ∧ u.out = s.out ∧ Logs s u 0x0003 sevWarning ∧ u.od = s.od)) ∧
    (s.log.roomy = true → ∀ id, (s.xfer? id = none → exec (.segResend id) s = .next s ∧ exec (.segTimeout id) s = .next s) ∧
      ∀ x, s.xfer? id = some x →
        (x.upload = true → x.acked < x.sent → ∃ u : State, exec (.segResend id) s = .next u ∧
          x.progressAt + 20000000 ≤ u.clk.now ∧ u.out.length = s.out.length + (x.sent - x.acked)) ∧
        (x.upload = false ∨ x.sent ≤ x.acked → exec (.segResend id) s = .next s) ∧
        (x.committing = true → exec (.segTimeout id) s = .next s) ∧
        (x.committing = false → Sends (.segTimeout id) s fun u f => f.ftype = 0x08 ∧ f.dst = x.mac ∧ f.xfer = x.id ∧
          f.status = Status.timeout ∧ x.heardAt + 500000000 ≤ u.clk.now ∧ u.xfer? id = none ∧
          Logs (s.advanceTo (x.heardAt + 500000000)) u 0x0003 sevWarning))

/-! ### Steps, reset and what every step keeps -/

/-- A step runs the command at the front of the queue, on the state with the rest of the queue. On an empty queue one
nanosecond passes, but in OFF; the owners of monitored lines see what was written, and a barrier whose abort is over is
released (log 1), each unless a source has no place for what it would log (log 14); and a held command acts. Where nothing
is due, the nanosecond changes counters and times alone. Every step answers a next state. No command of this device has an
encoding. -/
def Obligations.StepRunsTheFrontCommand : Prop :=
  (∀ (c : Instr) (rest : List Instr) (s : State), step { s with pending := c :: rest } = exec c { s with pending := rest }) ∧
  (∀ (s : State), s.pending = [] → ∃ u v w : State, step s = .next w.runHeld ∧ (s.dev.state = .off → u = s) ∧
    (v = if u.noRoom u.wakeUp then u else u.wakeUp) ∧ (s.disp.woken = [] → v = u) ∧
    (w = if v.noRoom v.rootsDecide then v else v.rootsDecide) ∧
    ((∀ ctx < 16, ∀ r, v.barrier? ctx = some r → r.abortDue v.clk.now = false) → w = v) ∧
    (w.log.held = [] → w.runHeld = w) ∧
    (s.dev.state ≠ .off → u.clk.now = s.clk.now + 1 ∧
      (s.dues = [] →
        u = { s with
          clk := u.clk, od := u.od, tally := { s.tally with slots := u.tally.slots }, fab := { s.fab with fec := u.fab.fec } } ∧
        ∀ k, k / 256 < 0x3100 ∨ 0x3300 ≤ k / 256 → k ≠ Od.govLimitedNs → k ≠ Od.logHoldNs → u.odGet k = s.odGet k))) ∧
  (∀ s : State, Safe s) ∧
  ∀ (s : State) (nbits w : Nat), s.withFetchWord nbits w = s

/-- R407, R410, R47: after reset the device is in OFF, with nothing volatile held, no command waiting and every entry of
the object dictionary at its default; the invariant holds. The pins low and the flash blank are the model's choices
(log 4, log 6). -/
def Obligations.ResetState : Prop :=
  Invariant State.reset ∧ State.reset.dev.state = .off ∧ State.reset.clk.now = 0 ∧ State.reset.pending = [] ∧
  (∀ k, State.reset.odGet k = odDefault k) ∧ (∀ a, State.reset.memByte a = 0) ∧ (∀ n, State.reset.core n = Core.idle) ∧
  State.reset.disp.cmds = [] ∧ State.reset.log.ingress = [] ∧ State.reset.log.ondie = [] ∧ State.reset.out = [] ∧
  State.reset.sec.identityKey = none ∧ State.reset.flash = Flash.blank ∧
  State.reset.dev.pwrGood = false ∧ State.reset.dev.resetN = false ∧ State.reset.dev.perstN = false

/-- R413, R414, R411 and the model's canonical forms (log 7): every step keeps the invariant. Memory, its check bits and the
object dictionary's store keep one canonical form; a cluster is on only where every stack is initialised; and the device
is READY, RUNNING or DRAINING only with all eight clusters on. -/
def Obligations.StepKeepsTheInvariant : Prop := ∀ s t : State, Invariant s → step s = .next t → Invariant t

/-- R46: ALARMED is left only through OFF. From ALARMED a command leaves the device in ALARMED, or in OFF, or, where a
command takes it through OFF, in BOOT with the timebase at zero and no work left. -/
def Obligations.AlarmedLeftThroughOff : Prop :=
  ∀ (s t : State) (c : Instr), s.dev.state = .alarmed → exec c s = .next t →
    t.dev.state = .alarmed ∨ (c.throughOff = true ∧ (t.dev.state = .off ∨
      (t.dev.state = .boot ∧ t.clk.now = 0 ∧ t.disp.cmds = [] ∧ t.cores = [] ∧ t.mem = [])))
end

