-- ==== Sys2Proof/Laws/Dictionary.lean ====
section
/-! SUPPORT. What a write of the object dictionary comes to once it is reached, or admitted. -/

namespace Sys2Proof.Machine

/-- A write that is reached is served by the behaviour of its entry, and answered on its path. -/
theorem State.odRow_reached {s : State} {via : OdPath} {idx sub v : Nat} (h : Reached s via idx sub v)
    (f : State → OdRow → Served) :
    ∃ r, s.odRow? idx sub = some r ∧ s.odRow via idx sub v f = (f s r).answer via idx sub := by
  obtain ⟨r, hr⟩ := h.entry
  refine ⟨r, hr, ?_⟩
  unfold State.odRow State.serveWrite
  simp only [h.heard, h.level, hr, if_true, Bool.false_eq_true, if_false]
  have : ¬(Sys2Proof.Machine.odRange? idx).isNone = true := by
    have := h.range
    cases e : odRange? idx <;> simp_all
  rw [if_neg this]

/-- A write that is admitted is answered with the status of its effect. -/
theorem State.odRow_admitted {s : State} {via : OdPath} {idx sub v : Nat} (h : Admitted s via idx sub v)
    (f : State → Status × State) :
    s.odRow via idx sub v (withAccess v f) = (f s).2.answerWrite via idx sub (f s).1 := by
  obtain ⟨r, hr, e⟩ := State.odRow_reached h.toReached (withAccess v f)
  obtain ⟨ha, ht, hc⟩ := h.value r hr
  rw [e]
  unfold withAccess
  simp only [ha, ht, hc, Bool.not_true, Bool.false_eq_true, or_self, if_false]
  rfl

end Sys2Proof.Machine
end

