-- ==== Sys2Proof/Laws/SparseMap.lean ====
section
/-! SUPPORT. The canonical form of a sparse map, and what a read gives after a write. -/

namespace Sys2Proof

theorem SMap.Wf.nil {β : Type} (d : Nat → β) : SMap.Wf d [] := ⟨.nil, by simp⟩
theorem SMap.Wf.filter {β : Type} {d : Nat → β} {m : List (Nat × β)} (p : Nat × β → Bool) (h : SMap.Wf d m) :
    SMap.Wf d (m.filter p) := ⟨h.1.filter p, fun e he => h.2 e (List.mem_filter.mp he).1⟩
theorem SMap.mem_erase {β : Type} {e : Nat × β} {i : Nat} : ∀ {m : SMap β}, e ∈ SMap.erase m i → e ∈ m ∧ e.1 ≠ i
  | [], h => by simp [SMap.erase] at h
  | (k, v) :: m, h => by
    unfold SMap.erase at h
    split at h
    · exact ⟨.tail _ (SMap.mem_erase h).1, (SMap.mem_erase h).2⟩
    · rename_i hk
      cases h with
      | head => exact ⟨.head _, hk⟩
      | tail _ h => exact ⟨.tail _ (SMap.mem_erase h).1, (SMap.mem_erase h).2⟩
theorem SMap.Wf.erase {β : Type} {d : Nat → β} (i : Nat) : ∀ {m : List (Nat × β)}, SMap.Wf d m → SMap.Wf d (SMap.erase m i)
  | [], h => h
  | (k, v) :: m, ⟨h1, h2⟩ => by
    have ht : SMap.Wf d m := ⟨(List.pairwise_cons.mp h1).2, fun e he => h2 e (.tail _ he)⟩
    have ih := SMap.Wf.erase i ht
    unfold SMap.erase
    split
    · exact ih
    · refine ⟨List.pairwise_cons.mpr ⟨fun e he => (List.pairwise_cons.mp h1).1 e (SMap.mem_erase he).1, ih.1⟩, ?_⟩
      intro e he
      cases he with
      | head => exact h2 _ (.head _)
      | tail _ he => exact ih.2 e he
theorem SMap.mem_insert {β : Type} {e : Nat × β} {i : Nat} {x : β} : ∀ {m : SMap β}, e ∈ SMap.insert m i x → e = (i, x) ∨ e ∈ m
  | [], h => by simpa [SMap.insert] using h
  | (k, v) :: m, h => by
    unfold SMap.insert at h
    split at h
    · cases h with
      | head => exact .inl rfl
      | tail _ h => exact .inr h
    · cases h with
      | head => exact .inr (.head _)
      | tail _ h => exact (SMap.mem_insert h).imp id (.tail _)
theorem SMap.Wf.insert {β : Type} {d : Nat → β} {i : Nat} {x : β} (hx : x ≠ d i) :
    ∀ {m : List (Nat × β)}, SMap.Wf d m → (∀ e ∈ m, e.1 ≠ i) → SMap.Wf d (SMap.insert m i x)
  | [], _, _ => ⟨List.pairwise_singleton _ _, by intro e he; simp [SMap.insert] at he; subst he; exact hx⟩
  | (k, v) :: m, h, hi => by
    have hp := List.pairwise_cons.mp h.1
    unfold SMap.insert
    split
    · rename_i hk
      refine ⟨List.pairwise_cons.mpr ⟨?_, h.1⟩, ?_⟩
      · intro e he
        cases he with
        | head => exact hk
        | tail _ he => exact Nat.lt_trans hk (hp.1 e he)
      · intro e he
        cases he with
        | head => exact hx
        | tail _ he => exact h.2 e he
    · rename_i hk
      have ht : SMap.Wf d m := ⟨hp.2, fun e he => h.2 e (.tail _ he)⟩
      have ih := SMap.Wf.insert hx ht fun e he => hi e (.tail _ he)
      have hki : k < i := Nat.lt_of_le_of_ne (Nat.not_lt.mp hk) (hi (k, v) (.head _))
      refine ⟨List.pairwise_cons.mpr ⟨?_, ih.1⟩, ?_⟩
      · intro e he
        rcases SMap.mem_insert he with rfl | he
        · exact hki
        · exact hp.1 e he
      · intro e he
        cases he with
        | head => exact h.2 _ (.head _)
        | tail _ he => exact ih.2 e he
theorem SMap.Wf.set {β : Type} [DecidableEq β] {d : Nat → β} {m : List (Nat × β)} (i : Nat) (x : β) (h : SMap.Wf d m) :
    SMap.Wf d (SMap.set (d i) m i x) := by
  unfold SMap.set
  split
  · exact h.erase i
  · rename_i hx
    exact (h.erase i).insert hx fun e he => (SMap.mem_erase he).2

theorem SMap.Wf.weaken {β : Type} {d d' : Nat → β} {m : List (Nat × β)} (h : SMap.Wf d m) (e : ∀ x ∈ m, d' x.1 = d x.1) :
    SMap.Wf d' m := ⟨h.1, fun x hx => by rw [e x hx]; exact h.2 x hx⟩

theorem SMap.get_erase {β : Type} (d : β) {i j : Nat} (h : j ≠ i) : ∀ m : SMap β, SMap.get d (SMap.erase m i) j = SMap.get d m j
  | [] => rfl
  | (k, v) :: m => by
    unfold SMap.erase
    split
    · rename_i hk
      rw [SMap.get_erase d h m, SMap.get, if_neg (by omega)]
    · rw [SMap.get, SMap.get, SMap.get_erase d h m]
theorem SMap.get_erase_self {β : Type} (d : β) (i : Nat) : ∀ m : SMap β, SMap.get d (SMap.erase m i) i = d
  | [] => rfl
  | (k, v) :: m => by
    unfold SMap.erase
    split
    · exact SMap.get_erase_self d i m
    · rename_i hk
      rw [SMap.get, if_neg hk, SMap.get_erase_self d i m]
theorem SMap.get_insert {β : Type} (d x : β) {i j : Nat} (h : j ≠ i) : ∀ m : SMap β, SMap.get d (SMap.insert m i x) j = SMap.get d m j
  | [] => by simp [SMap.insert, SMap.get, h.symm]
  | (k, v) :: m => by
    unfold SMap.insert
    split
    · rw [SMap.get, if_neg h.symm]
    · rw [SMap.get, SMap.get, SMap.get_insert d x h m]
theorem SMap.get_insert_self {β : Type} (d x : β) {i : Nat} : ∀ m : SMap β, (∀ e ∈ m, e.1 ≠ i) → SMap.get d (SMap.insert m i x) i = x
  | [], _ => by simp [SMap.insert, SMap.get]
  | (k, v) :: m, h => by
    unfold SMap.insert
    split
    · rw [SMap.get, if_pos rfl]
    · rw [SMap.get, if_neg (h (k, v) (.head _)), SMap.get_insert_self d x m fun e he => h e (.tail _ he)]
theorem SMap.get_set_self {β : Type} [DecidableEq β] (d x : β) (i : Nat) (m : SMap β) : SMap.get d (SMap.set d m i x) i = x := by
  unfold SMap.set
  split
  · rename_i h
    rw [SMap.get_erase_self, h]
  · exact SMap.get_insert_self d x _ fun e he => (SMap.mem_erase he).2
theorem SMap.get_set_other {β : Type} [DecidableEq β] (d d' x : β) {i j : Nat} (h : j ≠ i) (m : SMap β) :
    SMap.get d' (SMap.set d m i x) j = SMap.get d' m j := by
  unfold SMap.set
  split
  · exact SMap.get_erase d' h m
  · rw [SMap.get_insert d' x h, SMap.get_erase d' h]
theorem SMap.get_set {β : Type} [DecidableEq β] (d x : β) (i j : Nat) (m : SMap β) :
    SMap.get d (SMap.set d m i x) j = if j = i then x else SMap.get d m j := by
  split
  · rename_i h
    rw [h, SMap.get_set_self]
  · rename_i h
    exact SMap.get_set_other d d x h m
theorem SMap.find?_erase {β : Type} {i j : Nat} : ∀ m : SMap β, SMap.find? (SMap.erase m i) j = if j = i then none else SMap.find? m j
  | [] => by simp [SMap.erase, SMap.find?]
  | (k, v) :: m => by
    unfold SMap.erase
    split
    · rename_i hk
      rw [SMap.find?_erase m, SMap.find?]
      split
      · rfl
      · rw [if_neg (by omega)]
    · rename_i hk
      rw [SMap.find?, SMap.find?, SMap.find?_erase m]
      split
      · rw [if_neg (by omega)]
      · rfl
theorem SMap.find?_insert {β : Type} {i j : Nat} (x : β) : ∀ m : SMap β, (∀ e ∈ m, e.1 ≠ i) →
    SMap.find? (SMap.insert m i x) j = if j = i then some x else SMap.find? m j
  | [], _ => by simp [SMap.insert, SMap.find?, eq_comm]
  | (k, v) :: m, h => by
    have hk := h (k, v) (.head _)
    unfold SMap.insert
    split
    · simp [SMap.find?, eq_comm]
    · rw [SMap.find?, SMap.find?, SMap.find?_insert x m fun e he => h e (.tail _ he)]
      split <;> split <;> first | rfl | omega
theorem SMap.find?_put {β : Type} (i j : Nat) (x : β) (m : SMap β) :
    SMap.find? (SMap.put m i x) j = if j = i then some x else SMap.find? m j := by
  unfold SMap.put
  rw [SMap.find?_insert x _ fun e he => (SMap.mem_erase he).2, SMap.find?_erase]
  split <;> rfl

end Sys2Proof
end

