-- ==== Sys2Proof/Laws/State.lean ====
section
/-!
SUPPORT. The fields of a state after each plain update: every field that the update does not write is as it was, and the field
that it writes reads back. With these no proof unfolds a record update.
-/

namespace Sys2Proof.Machine

/-! ### odSet -/

@[simp] theorem State.odSet_pending (s : State) (k v : Nat) : (s.odSet k v).pending = s.pending := rfl
@[simp] theorem State.odSet_free (s : State) (k v : Nat) : (s.odSet k v).free = s.free := rfl
@[simp] theorem State.odSet_clk (s : State) (k v : Nat) : (s.odSet k v).clk = s.clk := rfl
@[simp] theorem State.odSet_dev (s : State) (k v : Nat) : (s.odSet k v).dev = s.dev := rfl
@[simp] theorem State.odSet_pcie (s : State) (k v : Nat) : (s.odSet k v).pcie = s.pcie := rfl
@[simp] theorem State.odSet_mem (s : State) (k v : Nat) : (s.odSet k v).mem = s.mem := rfl
@[simp] theorem State.odSet_side (s : State) (k v : Nat) : (s.odSet k v).side = s.side := rfl
@[simp] theorem State.odSet_hbmNoise (s : State) (k v : Nat) : (s.odSet k v).hbmNoise = s.hbmNoise := rfl
@[simp] theorem State.odSet_racy (s : State) (k v : Nat) : (s.odSet k v).racy = s.racy := rfl
@[simp] theorem State.odSet_hbmReadFails (s : State) (k v : Nat) : (s.odSet k v).hbmReadFails = s.hbmReadFails := rfl
@[simp] theorem State.odSet_cores (s : State) (k v : Nat) : (s.odSet k v).cores = s.cores := rfl
@[simp] theorem State.odSet_disp (s : State) (k v : Nat) : (s.odSet k v).disp = s.disp := rfl
@[simp] theorem State.odSet_barriers (s : State) (k v : Nat) : (s.odSet k v).barriers = s.barriers := rfl
@[simp] theorem State.odSet_epochs (s : State) (k v : Nat) : (s.odSet k v).epochs = s.epochs := rfl
@[simp] theorem State.odSet_fab (s : State) (k v : Nat) : (s.odSet k v).fab = s.fab := rfl
@[simp] theorem State.odSet_channels (s : State) (k v : Nat) : (s.odSet k v).channels = s.channels := rfl
@[simp] theorem State.odSet_pools (s : State) (k v : Nat) : (s.odSet k v).pools = s.pools := rfl
@[simp] theorem State.odSet_hm (s : State) (k v : Nat) : (s.odSet k v).hm = s.hm := rfl
@[simp] theorem State.odSet_flash (s : State) (k v : Nat) : (s.odSet k v).flash = s.flash := rfl
@[simp] theorem State.odSet_sec (s : State) (k v : Nat) : (s.odSet k v).sec = s.sec := rfl
@[simp] theorem State.odSet_log (s : State) (k v : Nat) : (s.odSet k v).log = s.log := rfl
@[simp] theorem State.odSet_watch (s : State) (k v : Nat) : (s.odSet k v).watch = s.watch := rfl
@[simp] theorem State.odSet_tally (s : State) (k v : Nat) : (s.odSet k v).tally = s.tally := rfl
@[simp] theorem State.odSet_gov (s : State) (k v : Nat) : (s.odSet k v).gov = s.gov := rfl
@[simp] theorem State.odSet_selftest (s : State) (k v : Nat) : (s.odSet k v).selftest = s.selftest := rfl
@[simp] theorem State.odSet_scrub (s : State) (k v : Nat) : (s.odSet k v).scrub = s.scrub := rfl
@[simp] theorem State.odSet_out (s : State) (k v : Nat) : (s.odSet k v).out = s.out := rfl

/-! ### setCore -/

@[simp] theorem State.setCore_pending (s : State) (n : Nat) (c : Core) : (s.setCore n c).pending = s.pending := rfl
@[simp] theorem State.setCore_free (s : State) (n : Nat) (c : Core) : (s.setCore n c).free = s.free := rfl
@[simp] theorem State.setCore_clk (s : State) (n : Nat) (c : Core) : (s.setCore n c).clk = s.clk := rfl
@[simp] theorem State.setCore_dev (s : State) (n : Nat) (c : Core) : (s.setCore n c).dev = s.dev := rfl
@[simp] theorem State.setCore_pcie (s : State) (n : Nat) (c : Core) : (s.setCore n c).pcie = s.pcie := rfl
@[simp] theorem State.setCore_od (s : State) (n : Nat) (c : Core) : (s.setCore n c).od = s.od := rfl
@[simp] theorem State.setCore_mem (s : State) (n : Nat) (c : Core) : (s.setCore n c).mem = s.mem := rfl
@[simp] theorem State.setCore_side (s : State) (n : Nat) (c : Core) : (s.setCore n c).side = s.side := rfl
@[simp] theorem State.setCore_hbmNoise (s : State) (n : Nat) (c : Core) : (s.setCore n c).hbmNoise = s.hbmNoise := rfl
@[simp] theorem State.setCore_racy (s : State) (n : Nat) (c : Core) : (s.setCore n c).racy = s.racy := rfl
@[simp] theorem State.setCore_hbmReadFails (s : State) (n : Nat) (c : Core) : (s.setCore n c).hbmReadFails = s.hbmReadFails := rfl
@[simp] theorem State.setCore_disp (s : State) (n : Nat) (c : Core) : (s.setCore n c).disp = s.disp := rfl
@[simp] theorem State.setCore_barriers (s : State) (n : Nat) (c : Core) : (s.setCore n c).barriers = s.barriers := rfl
@[simp] theorem State.setCore_epochs (s : State) (n : Nat) (c : Core) : (s.setCore n c).epochs = s.epochs := rfl
@[simp] theorem State.setCore_fab (s : State) (n : Nat) (c : Core) : (s.setCore n c).fab = s.fab := rfl
@[simp] theorem State.setCore_channels (s : State) (n : Nat) (c : Core) : (s.setCore n c).channels = s.channels := rfl
@[simp] theorem State.setCore_pools (s : State) (n : Nat) (c : Core) : (s.setCore n c).pools = s.pools := rfl
@[simp] theorem State.setCore_hm (s : State) (n : Nat) (c : Core) : (s.setCore n c).hm = s.hm := rfl
@[simp] theorem State.setCore_flash (s : State) (n : Nat) (c : Core) : (s.setCore n c).flash = s.flash := rfl
@[simp] theorem State.setCore_sec (s : State) (n : Nat) (c : Core) : (s.setCore n c).sec = s.sec := rfl
@[simp] theorem State.setCore_log (s : State) (n : Nat) (c : Core) : (s.setCore n c).log = s.log := rfl
@[simp] theorem State.setCore_watch (s : State) (n : Nat) (c : Core) : (s.setCore n c).watch = s.watch := rfl
@[simp] theorem State.setCore_tally (s : State) (n : Nat) (c : Core) : (s.setCore n c).tally = s.tally := rfl
@[simp] theorem State.setCore_gov (s : State) (n : Nat) (c : Core) : (s.setCore n c).gov = s.gov := rfl
@[simp] theorem State.setCore_selftest (s : State) (n : Nat) (c : Core) : (s.setCore n c).selftest = s.selftest := rfl
@[simp] theorem State.setCore_scrub (s : State) (n : Nat) (c : Core) : (s.setCore n c).scrub = s.scrub := rfl
@[simp] theorem State.setCore_out (s : State) (n : Nat) (c : Core) : (s.setCore n c).out = s.out := rfl

/-! ### setGroup -/

@[simp] theorem State.setGroup_pending (s : State) (g : GroupRef) (q : Group) : (s.setGroup g q).pending = s.pending := rfl
@[simp] theorem State.setGroup_free (s : State) (g : GroupRef) (q : Group) : (s.setGroup g q).free = s.free := rfl
@[simp] theorem State.setGroup_clk (s : State) (g : GroupRef) (q : Group) : (s.setGroup g q).clk = s.clk := rfl
@[simp] theorem State.setGroup_dev (s : State) (g : GroupRef) (q : Group) : (s.setGroup g q).dev = s.dev := rfl
@[simp] theorem State.setGroup_pcie (s : State) (g : GroupRef) (q : Group) : (s.setGroup g q).pcie = s.pcie := rfl
@[simp] theorem State.setGroup_od (s : State) (g : GroupRef) (q : Group) : (s.setGroup g q).od = s.od := rfl
@[simp] theorem State.setGroup_mem (s : State) (g : GroupRef) (q : Group) : (s.setGroup g q).mem = s.mem := rfl
@[simp] theorem State.setGroup_side (s : State) (g : GroupRef) (q : Group) : (s.setGroup g q).side = s.side := rfl
@[simp] theorem State.setGroup_hbmNoise (s : State) (g : GroupRef) (q : Group) : (s.setGroup g q).hbmNoise = s.hbmNoise := rfl
@[simp] theorem State.setGroup_racy (s : State) (g : GroupRef) (q : Group) : (s.setGroup g q).racy = s.racy := rfl
@[simp] theorem State.setGroup_hbmReadFails (s : State) (g : GroupRef) (q : Group) : (s.setGroup g q).hbmReadFails = s.hbmReadFails := rfl
@[simp] theorem State.setGroup_disp (s : State) (g : GroupRef) (q : Group) : (s.setGroup g q).disp = s.disp := rfl
@[simp] theorem State.setGroup_barriers (s : State) (g : GroupRef) (q : Group) : (s.setGroup g q).barriers = s.barriers := rfl
@[simp] theorem State.setGroup_epochs (s : State) (g : GroupRef) (q : Group) : (s.setGroup g q).epochs = s.epochs := rfl
@[simp] theorem State.setGroup_fab (s : State) (g : GroupRef) (q : Group) : (s.setGroup g q).fab = s.fab := rfl
@[simp] theorem State.setGroup_channels (s : State) (g : GroupRef) (q : Group) : (s.setGroup g q).channels = s.channels := rfl
@[simp] theorem State.setGroup_pools (s : State) (g : GroupRef) (q : Group) : (s.setGroup g q).pools = s.pools := rfl
@[simp] theorem State.setGroup_hm (s : State) (g : GroupRef) (q : Group) : (s.setGroup g q).hm = s.hm := rfl
@[simp] theorem State.setGroup_flash (s : State) (g : GroupRef) (q : Group) : (s.setGroup g q).flash = s.flash := rfl
@[simp] theorem State.setGroup_sec (s : State) (g : GroupRef) (q : Group) : (s.setGroup g q).sec = s.sec := rfl
@[simp] theorem State.setGroup_log (s : State) (g : GroupRef) (q : Group) : (s.setGroup g q).log = s.log := rfl
@[simp] theorem State.setGroup_watch (s : State) (g : GroupRef) (q : Group) : (s.setGroup g q).watch = s.watch := rfl
@[simp] theorem State.setGroup_tally (s : State) (g : GroupRef) (q : Group) : (s.setGroup g q).tally = s.tally := rfl
@[simp] theorem State.setGroup_gov (s : State) (g : GroupRef) (q : Group) : (s.setGroup g q).gov = s.gov := rfl
@[simp] theorem State.setGroup_selftest (s : State) (g : GroupRef) (q : Group) : (s.setGroup g q).selftest = s.selftest := rfl
@[simp] theorem State.setGroup_scrub (s : State) (g : GroupRef) (q : Group) : (s.setGroup g q).scrub = s.scrub := rfl
@[simp] theorem State.setGroup_out (s : State) (g : GroupRef) (q : Group) : (s.setGroup g q).out = s.out := rfl

/-! ### setMemByte -/

@[simp] theorem State.setMemByte_pending (s : State) (a : Nat) (b : Byte) : (s.setMemByte a b).pending = s.pending := rfl
@[simp] theorem State.setMemByte_free (s : State) (a : Nat) (b : Byte) : (s.setMemByte a b).free = s.free := rfl
@[simp] theorem State.setMemByte_clk (s : State) (a : Nat) (b : Byte) : (s.setMemByte a b).clk = s.clk := rfl
@[simp] theorem State.setMemByte_dev (s : State) (a : Nat) (b : Byte) : (s.setMemByte a b).dev = s.dev := rfl
@[simp] theorem State.setMemByte_pcie (s : State) (a : Nat) (b : Byte) : (s.setMemByte a b).pcie = s.pcie := rfl
@[simp] theorem State.setMemByte_od (s : State) (a : Nat) (b : Byte) : (s.setMemByte a b).od = s.od := rfl
@[simp] theorem State.setMemByte_side (s : State) (a : Nat) (b : Byte) : (s.setMemByte a b).side = s.side := rfl
@[simp] theorem State.setMemByte_hbmNoise (s : State) (a : Nat) (b : Byte) : (s.setMemByte a b).hbmNoise = s.hbmNoise := rfl
@[simp] theorem State.setMemByte_racy (s : State) (a : Nat) (b : Byte) : (s.setMemByte a b).racy = s.racy := rfl
@[simp] theorem State.setMemByte_hbmReadFails (s : State) (a : Nat) (b : Byte) : (s.setMemByte a b).hbmReadFails = s.hbmReadFails := rfl
@[simp] theorem State.setMemByte_cores (s : State) (a : Nat) (b : Byte) : (s.setMemByte a b).cores = s.cores := rfl
@[simp] theorem State.setMemByte_disp (s : State) (a : Nat) (b : Byte) : (s.setMemByte a b).disp = s.disp := rfl
@[simp] theorem State.setMemByte_barriers (s : State) (a : Nat) (b : Byte) : (s.setMemByte a b).barriers = s.barriers := rfl
@[simp] theorem State.setMemByte_epochs (s : State) (a : Nat) (b : Byte) : (s.setMemByte a b).epochs = s.epochs := rfl
@[simp] theorem State.setMemByte_fab (s : State) (a : Nat) (b : Byte) : (s.setMemByte a b).fab = s.fab := rfl
@[simp] theorem State.setMemByte_channels (s : State) (a : Nat) (b : Byte) : (s.setMemByte a b).channels = s.channels := rfl
@[simp] theorem State.setMemByte_pools (s : State) (a : Nat) (b : Byte) : (s.setMemByte a b).pools = s.pools := rfl
@[simp] theorem State.setMemByte_hm (s : State) (a : Nat) (b : Byte) : (s.setMemByte a b).hm = s.hm := rfl
@[simp] theorem State.setMemByte_flash (s : State) (a : Nat) (b : Byte) : (s.setMemByte a b).flash = s.flash := rfl
@[simp] theorem State.setMemByte_sec (s : State) (a : Nat) (b : Byte) : (s.setMemByte a b).sec = s.sec := rfl
@[simp] theorem State.setMemByte_log (s : State) (a : Nat) (b : Byte) : (s.setMemByte a b).log = s.log := rfl
@[simp] theorem State.setMemByte_watch (s : State) (a : Nat) (b : Byte) : (s.setMemByte a b).watch = s.watch := rfl
@[simp] theorem State.setMemByte_tally (s : State) (a : Nat) (b : Byte) : (s.setMemByte a b).tally = s.tally := rfl
@[simp] theorem State.setMemByte_gov (s : State) (a : Nat) (b : Byte) : (s.setMemByte a b).gov = s.gov := rfl
@[simp] theorem State.setMemByte_selftest (s : State) (a : Nat) (b : Byte) : (s.setMemByte a b).selftest = s.selftest := rfl
@[simp] theorem State.setMemByte_scrub (s : State) (a : Nat) (b : Byte) : (s.setMemByte a b).scrub = s.scrub := rfl
@[simp] theorem State.setMemByte_out (s : State) (a : Nat) (b : Byte) : (s.setMemByte a b).out = s.out := rfl

/-! ### event -/

@[simp] theorem State.event_pending (s : State) (ty inst kind : Nat) (sev : BitVec 2) (l : List (Nat × Nat × Nat)) : (s.event ty inst kind sev l).pending = s.pending := rfl
@[simp] theorem State.event_free (s : State) (ty inst kind : Nat) (sev : BitVec 2) (l : List (Nat × Nat × Nat)) : (s.event ty inst kind sev l).free = s.free := rfl
@[simp] theorem State.event_clk (s : State) (ty inst kind : Nat) (sev : BitVec 2) (l : List (Nat × Nat × Nat)) : (s.event ty inst kind sev l).clk = s.clk := rfl
@[simp] theorem State.event_dev (s : State) (ty inst kind : Nat) (sev : BitVec 2) (l : List (Nat × Nat × Nat)) : (s.event ty inst kind sev l).dev = s.dev := rfl
@[simp] theorem State.event_pcie (s : State) (ty inst kind : Nat) (sev : BitVec 2) (l : List (Nat × Nat × Nat)) : (s.event ty inst kind sev l).pcie = s.pcie := rfl
@[simp] theorem State.event_od (s : State) (ty inst kind : Nat) (sev : BitVec 2) (l : List (Nat × Nat × Nat)) : (s.event ty inst kind sev l).od = s.od := rfl
@[simp] theorem State.event_mem (s : State) (ty inst kind : Nat) (sev : BitVec 2) (l : List (Nat × Nat × Nat)) : (s.event ty inst kind sev l).mem = s.mem := rfl
@[simp] theorem State.event_side (s : State) (ty inst kind : Nat) (sev : BitVec 2) (l : List (Nat × Nat × Nat)) : (s.event ty inst kind sev l).side = s.side := rfl
@[simp] theorem State.event_hbmNoise (s : State) (ty inst kind : Nat) (sev : BitVec 2) (l : List (Nat × Nat × Nat)) : (s.event ty inst kind sev l).hbmNoise = s.hbmNoise := rfl
@[simp] theorem State.event_racy (s : State) (ty inst kind : Nat) (sev : BitVec 2) (l : List (Nat × Nat × Nat)) : (s.event ty inst kind sev l).racy = s.racy := rfl
@[simp] theorem State.event_hbmReadFails (s : State) (ty inst kind : Nat) (sev : BitVec 2) (l : List (Nat × Nat × Nat)) : (s.event ty inst kind sev l).hbmReadFails = s.hbmReadFails := rfl
@[simp] theorem State.event_cores (s : State) (ty inst kind : Nat) (sev : BitVec 2) (l : List (Nat × Nat × Nat)) : (s.event ty inst kind sev l).cores = s.cores := rfl
@[simp] theorem State.event_disp (s : State) (ty inst kind : Nat) (sev : BitVec 2) (l : List (Nat × Nat × Nat)) : (s.event ty inst kind sev l).disp = s.disp := rfl
@[simp] theorem State.event_barriers (s : State) (ty inst kind : Nat) (sev : BitVec 2) (l : List (Nat × Nat × Nat)) : (s.event ty inst kind sev l).barriers = s.barriers := rfl
@[simp] theorem State.event_epochs (s : State) (ty inst kind : Nat) (sev : BitVec 2) (l : List (Nat × Nat × Nat)) : (s.event ty inst kind sev l).epochs = s.epochs := rfl
@[simp] theorem State.event_fab (s : State) (ty inst kind : Nat) (sev : BitVec 2) (l : List (Nat × Nat × Nat)) : (s.event ty inst kind sev l).fab = s.fab := rfl
@[simp] theorem State.event_channels (s : State) (ty inst kind : Nat) (sev : BitVec 2) (l : List (Nat × Nat × Nat)) : (s.event ty inst kind sev l).channels = s.channels := rfl
@[simp] theorem State.event_pools (s : State) (ty inst kind : Nat) (sev : BitVec 2) (l : List (Nat × Nat × Nat)) : (s.event ty inst kind sev l).pools = s.pools := rfl
@[simp] theorem State.event_hm (s : State) (ty inst kind : Nat) (sev : BitVec 2) (l : List (Nat × Nat × Nat)) : (s.event ty inst kind sev l).hm = s.hm := rfl
@[simp] theorem State.event_flash (s : State) (ty inst kind : Nat) (sev : BitVec 2) (l : List (Nat × Nat × Nat)) : (s.event ty inst kind sev l).flash = s.flash := rfl
@[simp] theorem State.event_sec (s : State) (ty inst kind : Nat) (sev : BitVec 2) (l : List (Nat × Nat × Nat)) : (s.event ty inst kind sev l).sec = s.sec := rfl
@[simp] theorem State.event_watch (s : State) (ty inst kind : Nat) (sev : BitVec 2) (l : List (Nat × Nat × Nat)) : (s.event ty inst kind sev l).watch = s.watch := rfl
@[simp] theorem State.event_tally (s : State) (ty inst kind : Nat) (sev : BitVec 2) (l : List (Nat × Nat × Nat)) : (s.event ty inst kind sev l).tally = s.tally := rfl
@[simp] theorem State.event_gov (s : State) (ty inst kind : Nat) (sev : BitVec 2) (l : List (Nat × Nat × Nat)) : (s.event ty inst kind sev l).gov = s.gov := rfl
@[simp] theorem State.event_selftest (s : State) (ty inst kind : Nat) (sev : BitVec 2) (l : List (Nat × Nat × Nat)) : (s.event ty inst kind sev l).selftest = s.selftest := rfl
@[simp] theorem State.event_scrub (s : State) (ty inst kind : Nat) (sev : BitVec 2) (l : List (Nat × Nat × Nat)) : (s.event ty inst kind sev l).scrub = s.scrub := rfl
@[simp] theorem State.event_out (s : State) (ty inst kind : Nat) (sev : BitVec 2) (l : List (Nat × Nat × Nat)) : (s.event ty inst kind sev l).out = s.out := rfl

/-! ### setPort -/

@[simp] theorem State.setPort_pending (s : State) (p : Nat) (x : Port) : (s.setPort p x).pending = s.pending := rfl
@[simp] theorem State.setPort_free (s : State) (p : Nat) (x : Port) : (s.setPort p x).free = s.free := rfl
@[simp] theorem State.setPort_clk (s : State) (p : Nat) (x : Port) : (s.setPort p x).clk = s.clk := rfl
@[simp] theorem State.setPort_dev (s : State) (p : Nat) (x : Port) : (s.setPort p x).dev = s.dev := rfl
@[simp] theorem State.setPort_pcie (s : State) (p : Nat) (x : Port) : (s.setPort p x).pcie = s.pcie := rfl
@[simp] theorem State.setPort_od (s : State) (p : Nat) (x : Port) : (s.setPort p x).od = s.od := rfl
@[simp] theorem State.setPort_mem (s : State) (p : Nat) (x : Port) : (s.setPort p x).mem = s.mem := rfl
@[simp] theorem State.setPort_side (s : State) (p : Nat) (x : Port) : (s.setPort p x).side = s.side := rfl
@[simp] theorem State.setPort_hbmNoise (s : State) (p : Nat) (x : Port) : (s.setPort p x).hbmNoise = s.hbmNoise := rfl
@[simp] theorem State.setPort_racy (s : State) (p : Nat) (x : Port) : (s.setPort p x).racy = s.racy := rfl
@[simp] theorem State.setPort_hbmReadFails (s : State) (p : Nat) (x : Port) : (s.setPort p x).hbmReadFails = s.hbmReadFails := rfl
@[simp] theorem State.setPort_cores (s : State) (p : Nat) (x : Port) : (s.setPort p x).cores = s.cores := rfl
@[simp] theorem State.setPort_disp (s : State) (p : Nat) (x : Port) : (s.setPort p x).disp = s.disp := rfl
@[simp] theorem State.setPort_barriers (s : State) (p : Nat) (x : Port) : (s.setPort p x).barriers = s.barriers := rfl
@[simp] theorem State.setPort_epochs (s : State) (p : Nat) (x : Port) : (s.setPort p x).epochs = s.epochs := rfl
@[simp] theorem State.setPort_channels (s : State) (p : Nat) (x : Port) : (s.setPort p x).channels = s.channels := rfl
@[simp] theorem State.setPort_pools (s : State) (p : Nat) (x : Port) : (s.setPort p x).pools = s.pools := rfl
@[simp] theorem State.setPort_hm (s : State) (p : Nat) (x : Port) : (s.setPort p x).hm = s.hm := rfl
@[simp] theorem State.setPort_flash (s : State) (p : Nat) (x : Port) : (s.setPort p x).flash = s.flash := rfl
@[simp] theorem State.setPort_sec (s : State) (p : Nat) (x : Port) : (s.setPort p x).sec = s.sec := rfl
@[simp] theorem State.setPort_log (s : State) (p : Nat) (x : Port) : (s.setPort p x).log = s.log := rfl
@[simp] theorem State.setPort_watch (s : State) (p : Nat) (x : Port) : (s.setPort p x).watch = s.watch := rfl
@[simp] theorem State.setPort_tally (s : State) (p : Nat) (x : Port) : (s.setPort p x).tally = s.tally := rfl
@[simp] theorem State.setPort_gov (s : State) (p : Nat) (x : Port) : (s.setPort p x).gov = s.gov := rfl
@[simp] theorem State.setPort_selftest (s : State) (p : Nat) (x : Port) : (s.setPort p x).selftest = s.selftest := rfl
@[simp] theorem State.setPort_scrub (s : State) (p : Nat) (x : Port) : (s.setPort p x).scrub = s.scrub := rfl
@[simp] theorem State.setPort_out (s : State) (p : Nat) (x : Port) : (s.setPort p x).out = s.out := rfl

/-! ### setLaunch -/

@[simp] theorem State.setLaunch_pending (s : State) (l : Launch) : (s.setLaunch l).pending = s.pending := rfl
@[simp] theorem State.setLaunch_free (s : State) (l : Launch) : (s.setLaunch l).free = s.free := rfl
@[simp] theorem State.setLaunch_clk (s : State) (l : Launch) : (s.setLaunch l).clk = s.clk := rfl
@[simp] theorem State.setLaunch_dev (s : State) (l : Launch) : (s.setLaunch l).dev = s.dev := rfl
@[simp] theorem State.setLaunch_pcie (s : State) (l : Launch) : (s.setLaunch l).pcie = s.pcie := rfl
@[simp] theorem State.setLaunch_od (s : State) (l : Launch) : (s.setLaunch l).od = s.od := rfl
@[simp] theorem State.setLaunch_mem (s : State) (l : Launch) : (s.setLaunch l).mem = s.mem := rfl
@[simp] theorem State.setLaunch_side (s : State) (l : Launch) : (s.setLaunch l).side = s.side := rfl
@[simp] theorem State.setLaunch_hbmNoise (s : State) (l : Launch) : (s.setLaunch l).hbmNoise = s.hbmNoise := rfl
@[simp] theorem State.setLaunch_racy (s : State) (l : Launch) : (s.setLaunch l).racy = s.racy := rfl
@[simp] theorem State.setLaunch_hbmReadFails (s : State) (l : Launch) : (s.setLaunch l).hbmReadFails = s.hbmReadFails := rfl
@[simp] theorem State.setLaunch_cores (s : State) (l : Launch) : (s.setLaunch l).cores = s.cores := rfl
@[simp] theorem State.setLaunch_barriers (s : State) (l : Launch) : (s.setLaunch l).barriers = s.barriers := rfl
@[simp] theorem State.setLaunch_epochs (s : State) (l : Launch) : (s.setLaunch l).epochs = s.epochs := rfl
@[simp] theorem State.setLaunch_fab (s : State) (l : Launch) : (s.setLaunch l).fab = s.fab := rfl
@[simp] theorem State.setLaunch_channels (s : State) (l : Launch) : (s.setLaunch l).channels = s.channels := rfl
@[simp] theorem State.setLaunch_pools (s : State) (l : Launch) : (s.setLaunch l).pools = s.pools := rfl
@[simp] theorem State.setLaunch_hm (s : State) (l : Launch) : (s.setLaunch l).hm = s.hm := rfl
@[simp] theorem State.setLaunch_flash (s : State) (l : Launch) : (s.setLaunch l).flash = s.flash := rfl
@[simp] theorem State.setLaunch_sec (s : State) (l : Launch) : (s.setLaunch l).sec = s.sec := rfl
@[simp] theorem State.setLaunch_log (s : State) (l : Launch) : (s.setLaunch l).log = s.log := rfl
@[simp] theorem State.setLaunch_watch (s : State) (l : Launch) : (s.setLaunch l).watch = s.watch := rfl
@[simp] theorem State.setLaunch_tally (s : State) (l : Launch) : (s.setLaunch l).tally = s.tally := rfl
@[simp] theorem State.setLaunch_gov (s : State) (l : Launch) : (s.setLaunch l).gov = s.gov := rfl
@[simp] theorem State.setLaunch_selftest (s : State) (l : Launch) : (s.setLaunch l).selftest = s.selftest := rfl
@[simp] theorem State.setLaunch_scrub (s : State) (l : Launch) : (s.setLaunch l).scrub = s.scrub := rfl
@[simp] theorem State.setLaunch_out (s : State) (l : Launch) : (s.setLaunch l).out = s.out := rfl

/-! ### fresh -/

@[simp] theorem State.fresh_pending (s : State) : s.fresh.2.pending = s.pending := rfl
@[simp] theorem State.fresh_clk (s : State) : s.fresh.2.clk = s.clk := rfl
@[simp] theorem State.fresh_dev (s : State) : s.fresh.2.dev = s.dev := rfl
@[simp] theorem State.fresh_pcie (s : State) : s.fresh.2.pcie = s.pcie := rfl
@[simp] theorem State.fresh_od (s : State) : s.fresh.2.od = s.od := rfl
@[simp] theorem State.fresh_mem (s : State) : s.fresh.2.mem = s.mem := rfl
@[simp] theorem State.fresh_side (s : State) : s.fresh.2.side = s.side := rfl
@[simp] theorem State.fresh_hbmNoise (s : State) : s.fresh.2.hbmNoise = s.hbmNoise := rfl
@[simp] theorem State.fresh_racy (s : State) : s.fresh.2.racy = s.racy := rfl
@[simp] theorem State.fresh_hbmReadFails (s : State) : s.fresh.2.hbmReadFails = s.hbmReadFails := rfl
@[simp] theorem State.fresh_cores (s : State) : s.fresh.2.cores = s.cores := rfl
@[simp] theorem State.fresh_disp (s : State) : s.fresh.2.disp = s.disp := rfl
@[simp] theorem State.fresh_barriers (s : State) : s.fresh.2.barriers = s.barriers := rfl
@[simp] theorem State.fresh_epochs (s : State) : s.fresh.2.epochs = s.epochs := rfl
@[simp] theorem State.fresh_fab (s : State) : s.fresh.2.fab = s.fab := rfl
@[simp] theorem State.fresh_channels (s : State) : s.fresh.2.channels = s.channels := rfl
@[simp] theorem State.fresh_pools (s : State) : s.fresh.2.pools = s.pools := rfl
@[simp] theorem State.fresh_hm (s : State) : s.fresh.2.hm = s.hm := rfl
@[simp] theorem State.fresh_flash (s : State) : s.fresh.2.flash = s.flash := rfl
@[simp] theorem State.fresh_sec (s : State) : s.fresh.2.sec = s.sec := rfl
@[simp] theorem State.fresh_log (s : State) : s.fresh.2.log = s.log := rfl
@[simp] theorem State.fresh_watch (s : State) : s.fresh.2.watch = s.watch := rfl
@[simp] theorem State.fresh_tally (s : State) : s.fresh.2.tally = s.tally := rfl
@[simp] theorem State.fresh_gov (s : State) : s.fresh.2.gov = s.gov := rfl
@[simp] theorem State.fresh_selftest (s : State) : s.fresh.2.selftest = s.selftest := rfl
@[simp] theorem State.fresh_scrub (s : State) : s.fresh.2.scrub = s.scrub := rfl
@[simp] theorem State.fresh_out (s : State) : s.fresh.2.out = s.out := rfl
@[simp] theorem State.fresh_free (s : State) : s.fresh.2.free = s.free + 1 := rfl

/-! ### What is written reads back -/

theorem State.odGet_odSet (s : State) (k j v : Nat) : (s.odSet k v).odGet j = if j = k then v else s.odGet j := by
  unfold State.odSet State.odGet
  by_cases h : j = k
  · subst h
    rw [if_pos rfl]
    exact SMap.get_set_self _ _ _ _
  · rw [if_neg h]
    exact SMap.get_set_other _ _ _ h _
theorem State.core_setCore (s : State) (n m : Nat) (c : Core) : (s.setCore n c).core m = if m = n then c else s.core m :=
  SMap.get_set Core.idle c n m s.cores
theorem State.port_setPort (s : State) (p q : Nat) (x : Port) : (s.setPort p x).port q = if q = p then x else s.port q :=
  SMap.get_set Port.initial x p q s.fab.ports
theorem State.memByte_setMemByte (s : State) (a b : Nat) (x : Byte) :
    (s.setMemByte a x).memByte b = if b = a then x else s.memByte b := by
  have e : (s.setMemByte a x).memDflt b = s.memDflt b := rfl
  unfold State.memByte
  rw [e]
  unfold State.setMemByte
  by_cases h : b = a
  · subst h
    rw [if_pos rfl]
    exact SMap.get_set_self _ _ _ _
  · rw [if_neg h]
    exact SMap.get_set_other _ _ _ h _
theorem State.event_ingress (s : State) (ty inst kind : Nat) (sev : BitVec 2) (l : List (Nat × Nat × Nat)) :
    ∃ e, (s.event ty inst kind sev l).log.ingress = s.log.ingress ++ [e] ∧ e.kind = BitVec.ofNat 14 kind ∧ e.severity = sev :=
  ⟨_, rfl, rfl, rfl⟩

/-! ### Reset -/

/-- Memory, its check bits and the store of the object dictionary are canonical in reset. -/
theorem reset_canonical : Canonical State.reset := ⟨⟨SMap.Wf.nil _, SMap.Wf.nil _⟩, SMap.Wf.nil _⟩

end Sys2Proof.Machine
end

