-- ==== Sys2Proof/Laws/Hold.lean ====
section
/-! SUPPORT. When a source holds a command (R393), said once for every command. -/

namespace Sys2Proof.Machine

open Sys2Proof

/-- A full source has a record behind the 256 of the ingress. -/
theorem Log.full_false {l : Log} (h : l.anyFull = false) (src : BitVec 16) : l.full src = false := by
  cases hf : l.full src with
  | false => rfl
  | true =>
    unfold Log.full at hf
    have hp := of_decide_eq_true hf
    obtain ⟨e, he⟩ := List.exists_mem_of_length_pos (Nat.lt_of_lt_of_le (by decide) hp)
    have hm := List.mem_filter.mp he
    have := List.any_eq_false.mp h e hm.1
    rw [of_decide_eq_true hm.2] at this
    exact absurd (by unfold Log.full; exact hf) this

/-- With room at every source, none is closed. -/
theorem Log.closed_false {l : Log} (h : l.roomy = true) (src : BitVec 16) : l.closed src = false := by
  unfold Log.roomy at h
  obtain ⟨h1, h2⟩ := Bool.and_eq_true_iff.mp h
  unfold Log.closed
  rw [Log.full_false (Bool.not_eq_true' _ ▸ h1)]
  refine Bool.or_eq_false_iff.mpr ⟨rfl, List.any_eq_false.mpr fun x hx => ?_⟩
  have := List.all_eq_true.mp h2 x hx
  rw [Option.isNone_iff_eq_none] at this
  simp [this]

/-- With room at every source, a command acts. -/
theorem withRoom_roomy {s : State} (h : s.log.roomy = true) (c : Instr) (o : Outcome) : withRoom c s o = o := by
  unfold withRoom
  split
  · split
    · rename_i t hn
      have : s.noRoom t = false := List.any_eq_false.mpr fun e _ => by simp [Log.closed_false h]
      rw [this] at hn
      exact absurd hn (by decide)
    · rfl
  · rfl

/-- A command that logs nothing acts. -/
theorem withRoom_quiet {s t : State} (h : t.log.ingress = s.log.ingress) (c : Instr) :
    withRoom c s (.next t) = .next t := by
  have : s.noRoom t = false := by
    unfold State.noRoom State.logged
    rw [h, List.drop_length]
    rfl
  simp [withRoom, this]

/-- Otherwise its source holds it, and only the holds change. -/
theorem withRoom_held {s t : State} (h : s.noRoom t = true) (c : Instr) :
    ∃ x : HeldAction, withRoom c s (.next t) = .next (s.setHeld (s.log.held ++ [x])) ∧ x.cmd = some c ∧
      x.sources = (s.logged t).map Event.source :=
  ⟨_, by simp only [withRoom, h, if_true]; rfl, rfl, rfl⟩

end Sys2Proof.Machine
end

