-- ==== Sys2Proof/Laws/Keeps.lean ====
section
/-!
SUPPORT. What an operation of the device never loses: `Grows` of every operation, and `Keeps` of every operation that does
not pass through OFF; with the lemmas that put operations together.
-/

namespace Sys2Proof.Machine

open Sys2Proof

/-- From `s` to `t`: the queue is the same, the canonical forms are kept, free values are only used up, and what came out
of the device stays out. -/
structure Grows (s t : State) : Prop where
  pending : t.pending = s.pending
  mem : SMap.Wf s.memDflt s.mem → SMap.Wf t.memDflt t.mem
  side : SMap.Wf s.sideDflt s.side → SMap.Wf t.sideDflt t.side
  od : SMap.Wf odDefault s.od → SMap.Wf odDefault t.od
  free : s.free ≤ t.free
  out : s.out <:+ t.out

/-- As `Grows`; ALARMED and OFF are not left; and the start stays in its order. -/
structure Holds (s t : State) : Prop extends Grows s t where
  locked : s.dev.state = .alarmed → t.dev.state = .alarmed
  off : s.dev.state = .off → t.dev.state = .off
  staged : s.dev.Staged → t.dev.Staged

/-- As `Holds`; and no cluster starts or stops. -/
structure Keeps (s t : State) : Prop extends Holds s t where
  clusters : t.dev.clustersOn = s.dev.clustersOn

theorem Dev.Staged.enter {d : Dev} (h : d.Staged) {new : DevState}
    (hw : new = .ready ∨ new = .running ∨ new = .draining → d.clustersOn = 8) : Dev.Staged { d with state := new } :=
  ⟨h.hbm, h.clusters, h.order, hw⟩
theorem Dev.Staged.like {d e : Dev} (h : d.Staged) (hs : e.state = d.state) (hh : e.hbmDone = d.hbmDone)
    (hc : e.clustersOn = d.clustersOn) : e.Staged := by
  refine ⟨hh ▸ h.hbm, hc ▸ h.clusters, ?_, ?_⟩
  · rw [hh, hc]; exact h.order
  · rw [hs, hc]; exact h.works

theorem Grows.refl (s : State) : Grows s s := ⟨rfl, id, id, id, Nat.le_refl _, List.suffix_refl _⟩
theorem Grows.trans {r s t : State} (h : Grows r s) (k : Grows s t) : Grows r t :=
  ⟨k.pending.trans h.pending, k.mem ∘ h.mem, k.side ∘ h.side, k.od ∘ h.od, Nat.le_trans h.free k.free, h.out.trans k.out⟩
theorem Holds.trans {r s t : State} (h : Holds r s) (k : Holds s t) : Holds r t :=
  ⟨h.toGrows.trans k.toGrows, k.locked ∘ h.locked, k.off ∘ h.off, k.staged ∘ h.staged⟩
theorem Keeps.refl (s : State) : Keeps s s := ⟨⟨.refl s, id, id, id⟩, rfl⟩
theorem Keeps.trans {r s t : State} (h : Keeps r s) (k : Keeps s t) : Keeps r t :=
  ⟨h.toHolds.trans k.toHolds, k.clusters.trans h.clusters⟩
theorem Keeps.then {r s t : State} (h : Keeps r s) (k : Grows s t) (e : t.dev = s.dev) : Keeps r t :=
  h.trans ⟨⟨k, (e ▸ ·), (e ▸ ·), (e ▸ ·)⟩, e ▸ rfl⟩
theorem Grows.plain {r s t : State} (h : Grows r s) (hp : t.pending = s.pending) (hm : t.mem = s.mem)
    (hs : t.side = s.side) (ho : t.od = s.od) (hn : t.hbmNoise = s.hbmNoise)
    (hf : t.free = s.free) (ho' : t.out = s.out) : Grows r t := by
  refine h.trans ⟨hp, ?_, ?_, ?_, Nat.le_of_eq hf.symm, ho' ▸ List.suffix_refl _⟩
  · have : t.memDflt = s.memDflt := by funext a; simp only [State.memDflt, hn]
    intro w; rw [this, hm]; exact w
  · have : t.sideDflt = s.sideDflt := by funext a; simp only [State.sideDflt, hn]
    intro w; rw [this, hs]; exact w
  · intro w; rw [ho]; exact w
theorem Grows.upd {r s : State} (h : Grows r s) (x2 : Clock) (x3 : Dev) (x4 : PcieCfg) (x9 : List RacyWord) (x10 : List Nat) (x11 : SMap Core) (x12 : Disp) (x13 : SMap BarrierRun) (x14 : SMap (Nat × BitVec 32 × Option Nat)) (x15 : Fabric) (x16 : SMap Channel) (x17 : SMap Pool) (x18 : Harbour) (x19 : Flash) (x20 : Sec) (x21 : Log) (x22 : Watch) (x23 : Tally) (x24 : Gov) (x25 : Option SelfTest) (x26 : Scrub) :
    Grows r (State.mk s.pending s.free x2 x3 x4 s.od s.mem s.side s.hbmNoise x9 x10 x11 x12 x13 x14 x15 x16 x17 x18 x19 x20 x21 x22 x23 x24 x25 x26 s.out) :=
  h.plain rfl rfl rfl rfl rfl rfl rfl
theorem Keeps.upd {r s : State} (h : Keeps r s) (x2 : Clock) (x4 : PcieCfg) (x9 : List RacyWord) (x10 : List Nat) (x11 : SMap Core) (x12 : Disp) (x13 : SMap BarrierRun) (x14 : SMap (Nat × BitVec 32 × Option Nat)) (x15 : Fabric) (x16 : SMap Channel) (x17 : SMap Pool) (x18 : Harbour) (x19 : Flash) (x20 : Sec) (x21 : Log) (x22 : Watch) (x23 : Tally) (x24 : Gov) (x25 : Option SelfTest) (x26 : Scrub) :
    Keeps r (State.mk s.pending s.free x2 s.dev x4 s.od s.mem s.side s.hbmNoise x9 x10 x11 x12 x13 x14 x15 x16 x17 x18 x19 x20 x21 x22 x23 x24 x25 x26 s.out) :=
  h.then (Grows.upd (.refl s) ..) rfl
theorem Keeps.dev {r s : State} (h : Keeps r s) (x2 : Clock) (b1 b2 b3 b4 : Bool) (o : OffHold) (v : BitVec 6) (n1 n2 : Option Nat) (b5 b6 : Bool) (k3 : Nat) (x4 : PcieCfg) (x9 : List RacyWord) (x10 : List Nat) (x11 : SMap Core) (x12 : Disp) (x13 : SMap BarrierRun) (x14 : SMap (Nat × BitVec 32 × Option Nat)) (x15 : Fabric) (x16 : SMap Channel) (x17 : SMap Pool) (x18 : Harbour) (x19 : Flash) (x20 : Sec) (x21 : Log) (x22 : Watch) (x23 : Tally) (x24 : Gov) (x25 : Option SelfTest) (x26 : Scrub) :
    Keeps r (State.mk s.pending s.free x2 ⟨s.dev.state, b1, b2, b3, b4, o, v, n1, n2, b5, b6, s.dev.hbmDone, s.dev.clustersOn, k3⟩ x4 s.od s.mem s.side s.hbmNoise x9 x10 x11 x12 x13 x14 x15 x16 x17 x18 x19 x20 x21 x22 x23 x24 x25 x26 s.out) :=
  h.trans ⟨⟨Grows.upd (.refl s) .., id, id, fun k => k.like rfl rfl rfl⟩, rfl⟩
theorem keeps_foldl {α : Type} {r : State} (f : State → α → State) (hf : ∀ s x, Keeps r s → Keeps r (f s x)) :
    ∀ (l : List α) (s : State), Keeps r s → Keeps r (l.foldl f s)
  | [], _, h => h
  | x :: l, s, h => keeps_foldl f hf l _ (hf s x h)
theorem keeps_ite {r s t : State} {c : Prop} [Decidable c] (a : Keeps r s) (b : Keeps r t) : Keeps r (if c then s else t) := by
  split <;> assumption

theorem keeps_else {r s t : State} {c : Prop} [Decidable c] (a : Keeps r t) (b : Keeps t s) : Keeps r (if c then s else t) := by
  split
  · exact a.trans b
  · exact a
theorem keeps_then {r s t : State} {c : Prop} [Decidable c] (a : Keeps r s) (b : Keeps s t) : Keeps r (if c then s else t) := by
  split
  · exact a
  · exact a.trans b
theorem keeps_foldl2 {α γ : Type} {r : State} (f : γ × State → α → γ × State) (hf : ∀ s x, Keeps r s.2 → Keeps r (f s x).2) :
    ∀ (l : List α) (s : γ × State), Keeps r s.2 → Keeps r (l.foldl f s).2
  | [], _, h => h
  | x :: l, s, h => keeps_foldl2 f hf l _ (hf s x h)
theorem keeps_foldl3 {α γ δ : Type} {r : State} (f : γ × δ × State → α → γ × δ × State)
    (hf : ∀ s x, Keeps r s.2.2 → Keeps r (f s x).2.2) :
    ∀ (l : List α) (s : γ × δ × State), Keeps r s.2.2 → Keeps r (l.foldl f s).2.2
  | [], _, h => h
  | x :: l, s, h => keeps_foldl3 f hf l _ (hf s x h)
structure IssueKeeps (r : State) (i : Issue) : Prop where
  all : ∀ t, i = .done t → Keeps r t
  after : ∀ e t, i = .excAfter e t → Keeps r t
structure OutKeeps (r : State) (i : Outcome) : Prop where
  all : ∀ t, i = .next t → Keeps r t
structure OutHolds (r : State) (i : Outcome) : Prop where
  all : ∀ t, i = .next t → Holds r t
theorem OutKeeps.holds {r : State} {i : Outcome} (h : OutKeeps r i) : OutHolds r i := ⟨fun t e => (h.all t e).toHolds⟩
def ServedKeeps (r : State) : Served → Prop
  | .now _ s => Keeps r s
  | .later s => Keeps r s
structure OptKeeps (r : State) (o : Option State) : Prop where
  all : ∀ t, o = some t → Keeps r t
structure Opt2Keeps {γ : Type} (r : State) (o : Option (γ × State)) : Prop where
  all : ∀ t, o = some t → Keeps r t.2
theorem issue_exc {r : State} (e : Exc) : IssueKeeps r (.exc e) := by
  refine ⟨?_, ?_⟩
  · intro t h; cases h
  · intro e t h; cases h
theorem issue_excAfter {r s : State} {e : Exc} (k : Keeps r s) : IssueKeeps r (.excAfter e s) := by
  refine ⟨?_, ?_⟩
  · intro t h; cases h
  · intro e t h; cases h; exact k
theorem issue_done {r s : State} (k : Keeps r s) : IssueKeeps r (.done s) := by
  refine ⟨?_, ?_⟩
  · intro t h; cases h; exact k
  · intro e t h; cases h
theorem out_next {r s : State} (h : Keeps r s) : OutKeeps r (.next s) :=
  ⟨by intro t h; cases h; assumption⟩
theorem out_holds {r s : State} (h : Holds r s) : OutHolds r (.next s) :=
  ⟨by intro t h; cases h; assumption⟩
theorem served_now {r s : State} {x : Status} (h : Keeps r s) : ServedKeeps r (.now x s) := h
theorem served_later {r s : State} (h : Keeps r s) : ServedKeeps r (.later s) := h
theorem opt_none {r : State} : OptKeeps r none :=
  ⟨by intro t h; cases h⟩
theorem opt_some {r s : State} (h : Keeps r s) : OptKeeps r (some s) :=
  ⟨by intro t h; cases h; assumption⟩
theorem opt2_none {γ : Type} {r : State} : Opt2Keeps (γ := γ) r none :=
  ⟨by intro t h; cases h⟩
theorem opt2_some {γ : Type} {r s : State} {x : γ} (h : Keeps r s) : Opt2Keeps r (some (x, s)) :=
  ⟨by intro t h; cases h; assumption⟩
theorem OptKeeps.get {r t : State} {o : Option State} (h : OptKeeps r o) (e : o = some t) : Keeps r t := h.all t e
theorem Opt2Keeps.get {γ : Type} {r : State} {t : γ × State} {o : Option (γ × State)} (h : Opt2Keeps r o) (e : o = some t) : Keeps r t.2 := h.all t e
theorem Opt2Keeps.get' {γ : Type} {r t : State} {x : γ} {o : Option (γ × State)} (h : Opt2Keeps r o) (e : o = some (x, t)) : Keeps r t := h.all _ e
theorem IssueKeeps.get {r t : State} {o : Issue} (h : IssueKeeps r o) (e : o = .done t) : Keeps r t := h.all t e
theorem IssueKeeps.get_after {r t : State} {x : Exc} {o : Issue} (h : IssueKeeps r o) (e : o = .excAfter x t) : Keeps r t :=
  h.after x t e
theorem OutKeeps.get {r t : State} {o : Outcome} (h : OutKeeps r o) (e : o = .next t) : Keeps r t := h.all t e
theorem ServedKeeps.get_now {r t : State} {x : Status} {o : Served} (h : ServedKeeps r o) (e : o = .now x t) : Keeps r t := by subst e; exact h
theorem ServedKeeps.get_later {r t : State} {o : Served} (h : ServedKeeps r o) (e : o = .later t) : Keeps r t := by subst e; exact h
theorem opt_map {α : Type} {r : State} {f : α → State} {o : Option α} (h : ∀ x, Keeps r (f x)) : OptKeeps r (o.map f) := by
  refine ⟨fun t e => ?_⟩; cases o <;> simp at e; subst e; exact h _
theorem opt2_map {α γ : Type} {r : State} {f : α → γ × State} {o : Option α} (h : ∀ x, Keeps r (f x).2) : Opt2Keeps r (o.map f) := by
  refine ⟨fun t e => ?_⟩; cases o <;> simp at e; subst e; exact h _
theorem pair_keeps {γ : Type} {r s : State} {x : γ} (h : Keeps r s) : Keeps r (x, s).2 := h

end Sys2Proof.Machine
end

