-- ==== Sys2Proof/Laws/KeepsOps.lean ====
section
/-!
SUPPORT. `Keeps` (Sys2Proof/Laws/Keeps.lean) for each operation over registers, memory, the object dictionary, the fabric and thread groups: one lemma per definition,
named after it.
-/

namespace Sys2Proof.Machine

open Sys2Proof

theorem State.off_grows {r s : State} (h : Grows r s) : Grows r s.off :=
  h.trans ⟨rfl, fun _ => SMap.Wf.nil _, fun _ => SMap.Wf.nil _, fun _ => SMap.Wf.nil _, Nat.le_refl _, List.suffix_refl _⟩

theorem State.fresh_keeps {r s : State} (h : Keeps r s) : Keeps r s.fresh.2 :=
  h.then ⟨rfl, id, id, id, Nat.le_succ _, List.suffix_refl _⟩ rfl

theorem State.odSet_keeps {r s : State} (h : Keeps r s) (k v : Nat) : Keeps r (s.odSet k v) :=
  h.then ⟨rfl, id, id, fun w => SMap.Wf.set k v w, Nat.le_refl _, List.suffix_refl _⟩ rfl

theorem State.odAdd_keeps {r₀ s : State} (h0 : Keeps r₀ s) (k n : Nat) :
    Keeps r₀ (State.odAdd s k n) := by
  unfold State.odAdd
  repeat' first
    | with_reducible assumption | with_reducible apply State.odSet_keeps

theorem State.odReset_keeps {r₀ s : State} (h0 : Keeps r₀ s) (k : Nat) :
    Keeps r₀ (State.odReset s k) := by
  unfold State.odReset
  repeat' first
    | with_reducible assumption | with_reducible apply State.odSet_keeps

theorem State.odResets_keeps {r₀ s : State} (h0 : Keeps r₀ s) (ks : List Nat) :
    Keeps r₀ (State.odResets s ks) := by
  unfold State.odResets
  repeat' first
    | with_reducible assumption | with_reducible apply State.odReset_keeps | with_reducible refine keeps_foldl _ ?_ _ _ ?_
       | with_reducible intro _

theorem State.emit_keeps {r s : State} (h : Keeps r s) (o : Output) : Keeps r (s.emit o) :=
  h.trans ((Keeps.refl s).then ⟨rfl, id, id, id, Nat.le_refl _, List.suffix_cons _ _⟩ rfl)

theorem State.signal_keeps {r₀ s : State} (h0 : Keeps r₀ s) (v : Nat) :
    Keeps r₀ (State.signal s v) := by
  unfold State.signal
  extract_lets
  repeat' first
    | with_reducible assumption | with_reducible apply State.emit_keeps | with_reducible refine keeps_ite ?_ ?_
      | with_reducible apply Keeps.upd

theorem State.sendPending_keeps {r₀ s : State} (h0 : Keeps r₀ s) :
    Keeps r₀ (State.sendPending s) := by
  unfold State.sendPending
  repeat' first
    | with_reducible assumption | with_reducible apply State.emit_keeps | with_reducible refine keeps_foldl _ ?_ _ _ ?_
      | dsimp only | split | with_reducible intro _ | with_reducible apply Keeps.upd

theorem State.event_keeps {r₀ s : State} (h0 : Keeps r₀ s) (srcType srcInst kind : Nat) (sev : BitVec 2) (fields : List (Nat × Nat × Nat)) :
    Keeps r₀ (State.event s srcType srcInst kind sev fields) := by
  unfold State.event
  extract_lets
  repeat' first
    | with_reducible assumption | with_reducible apply Keeps.upd

theorem State.ifRoom_keeps {r₀ s t : State} (h0 : Keeps r₀ s) (h1 : Keeps r₀ t) :
    Keeps r₀ (State.ifRoom s t) := by
  unfold State.ifRoom
  repeat' first
    | with_reducible assumption | with_reducible refine keeps_ite ?_ ?_

theorem State.setHeld_keeps {r₀ s : State} (h0 : Keeps r₀ s) (l : List HeldAction) :
    Keeps r₀ (State.setHeld s l) := by
  unfold State.setHeld
  try extract_lets
  repeat' first
    | with_reducible assumption
    | with_reducible exact Keeps.refl _
    | with_reducible exact issue_exc _
    | with_reducible exact opt_none
    | with_reducible exact opt2_none
    | with_reducible refine keeps_ite ?_ ?_
    | with_reducible refine out_next ?_
    | with_reducible refine issue_done ?_
    | with_reducible refine issue_excAfter ?_
    | with_reducible refine served_now ?_
    | with_reducible refine served_later ?_
    | with_reducible refine opt_map ?_
    | with_reducible refine opt2_map ?_
    | with_reducible refine opt_some ?_
    | with_reducible refine opt2_some ?_
    | with_reducible refine keeps_foldl _ ?_ _ _ ?_
    | with_reducible refine keeps_foldl2 _ ?_ _ _ ?_
    | with_reducible refine keeps_foldl3 _ ?_ _ _ ?_
    | dsimp only
    | split
    | with_reducible intro _
    | with_reducible refine OptKeeps.get ?_ (by with_reducible assumption)
    | with_reducible refine Opt2Keeps.get ?_ (by with_reducible assumption)
    | with_reducible refine Opt2Keeps.get' ?_ (by with_reducible assumption)
    | with_reducible refine IssueKeeps.get ?_ (by with_reducible assumption)
    | with_reducible refine IssueKeeps.get_after ?_ (by with_reducible assumption)
    | with_reducible refine ServedKeeps.get_now ?_ (by with_reducible assumption)
    | with_reducible refine ServedKeeps.get_later ?_ (by with_reducible assumption)
    | dsimp only
    | with_reducible apply Keeps.upd
    | with_reducible apply Keeps.dev

theorem withRoom_keeps {r₀ s : State} (h0 : Keeps r₀ s) (c : Instr) {o : Outcome} (ho : OutKeeps r₀ o) :
    OutKeeps r₀ (withRoom c s o) := by
  unfold withRoom
  split
  · split
    · exact out_next (State.setHeld_keeps h0 _)
    · exact ho
  · exact ho
theorem withRoom_holds {r₀ s : State} (h0 : Keeps r₀ s) (c : Instr) {o : Outcome} (ho : OutHolds r₀ o) :
    OutHolds r₀ (withRoom c s o) := by
  unfold withRoom
  split
  · split
    · exact (out_next (State.setHeld_keeps h0 _)).holds
    · exact ho
  · exact ho

theorem State.holdIssue_keeps {r₀ s : State} (h0 : Keeps r₀ s) (core : Nat) :
    Keeps r₀ (State.holdIssue s core) := by
  unfold State.holdIssue
  try extract_lets
  repeat' first
    | with_reducible assumption
    | with_reducible exact Keeps.refl _
    | with_reducible exact issue_exc _
    | with_reducible exact opt_none
    | with_reducible exact opt2_none
    | with_reducible apply State.setHeld_keeps
    | with_reducible refine keeps_ite ?_ ?_
    | with_reducible refine out_next ?_
    | with_reducible refine issue_done ?_
    | with_reducible refine issue_excAfter ?_
    | with_reducible refine served_now ?_
    | with_reducible refine served_later ?_
    | with_reducible refine opt_map ?_
    | with_reducible refine opt2_map ?_
    | with_reducible refine opt_some ?_
    | with_reducible refine opt2_some ?_
    | with_reducible refine keeps_foldl _ ?_ _ _ ?_
    | with_reducible refine keeps_foldl2 _ ?_ _ _ ?_
    | with_reducible refine keeps_foldl3 _ ?_ _ _ ?_
    | dsimp only
    | split
    | with_reducible intro _
    | with_reducible refine OptKeeps.get ?_ (by with_reducible assumption)
    | with_reducible refine Opt2Keeps.get ?_ (by with_reducible assumption)
    | with_reducible refine Opt2Keeps.get' ?_ (by with_reducible assumption)
    | with_reducible refine IssueKeeps.get ?_ (by with_reducible assumption)
    | with_reducible refine IssueKeeps.get_after ?_ (by with_reducible assumption)
    | with_reducible refine ServedKeeps.get_now ?_ (by with_reducible assumption)
    | with_reducible refine ServedKeeps.get_later ?_ (by with_reducible assumption)
    | dsimp only
    | with_reducible apply Keeps.upd
    | with_reducible apply Keeps.dev

theorem State.freeIssues_keeps {r₀ s : State} (h0 : Keeps r₀ s) :
    Keeps r₀ (State.freeIssues s) := by
  unfold State.freeIssues
  try extract_lets
  repeat' first
    | with_reducible assumption
    | with_reducible exact Keeps.refl _
    | with_reducible exact issue_exc _
    | with_reducible exact opt_none
    | with_reducible exact opt2_none
    | with_reducible apply State.setHeld_keeps
    | with_reducible refine keeps_ite ?_ ?_
    | with_reducible refine out_next ?_
    | with_reducible refine issue_done ?_
    | with_reducible refine issue_excAfter ?_
    | with_reducible refine served_now ?_
    | with_reducible refine served_later ?_
    | with_reducible refine opt_map ?_
    | with_reducible refine opt2_map ?_
    | with_reducible refine opt_some ?_
    | with_reducible refine opt2_some ?_
    | with_reducible refine keeps_foldl _ ?_ _ _ ?_
    | with_reducible refine keeps_foldl2 _ ?_ _ _ ?_
    | with_reducible refine keeps_foldl3 _ ?_ _ _ ?_
    | dsimp only
    | split
    | with_reducible intro _
    | with_reducible refine OptKeeps.get ?_ (by with_reducible assumption)
    | with_reducible refine Opt2Keeps.get ?_ (by with_reducible assumption)
    | with_reducible refine Opt2Keeps.get' ?_ (by with_reducible assumption)
    | with_reducible refine IssueKeeps.get ?_ (by with_reducible assumption)
    | with_reducible refine IssueKeeps.get_after ?_ (by with_reducible assumption)
    | with_reducible refine ServedKeeps.get_now ?_ (by with_reducible assumption)
    | with_reducible refine ServedKeeps.get_later ?_ (by with_reducible assumption)
    | dsimp only
    | with_reducible apply Keeps.upd
    | with_reducible apply Keeps.dev

theorem State.setCore_keeps {r₀ s : State} (h0 : Keeps r₀ s) (n : Nat) (c : Core) :
    Keeps r₀ (State.setCore s n c) := by
  unfold State.setCore
  repeat' first
    | with_reducible assumption | with_reducible apply Keeps.upd

theorem State.setGroup_keeps {r₀ s : State} (h0 : Keeps r₀ s) (g : GroupRef) (gr : Group) :
    Keeps r₀ (State.setGroup s g gr) := by
  unfold State.setGroup
  extract_lets
  repeat' first
    | with_reducible assumption | with_reducible apply State.setCore_keeps

theorem State.removeGroup_keeps {r₀ s : State} (h0 : Keeps r₀ s) (g : GroupRef) :
    Keeps r₀ (State.removeGroup s g) := by
  unfold State.removeGroup
  extract_lets
  repeat' first
    | with_reducible assumption | with_reducible apply State.setCore_keeps

theorem State.setMemByte_keeps {r s : State} (h : Keeps r s) (k : Nat) (v : Byte) : Keeps r (s.setMemByte k v) :=
  h.then ⟨rfl, fun w => SMap.Wf.set k v w, id, id, Nat.le_refl _, List.suffix_refl _⟩ rfl

theorem State.setMemWord_keeps {r₀ s : State} (h0 : Keeps r₀ s) (w : Nat) (d : BitVec 64) :
    Keeps r₀ (State.setMemWord s w d) := by
  unfold State.setMemWord
  repeat' first
    | with_reducible assumption | with_reducible apply State.setMemByte_keeps | with_reducible refine keeps_foldl _ ?_ _ _ ?_
       | with_reducible intro _

theorem State.setSide_keeps {r s : State} (h : Keeps r s) (w : Nat) (y : BitVec 16) :
    Keeps r { s with side := SMap.set (s.sideDflt w) s.side w y } :=
  h.then ⟨rfl, id, fun q => SMap.Wf.set w y q, id, Nat.le_refl _, List.suffix_refl _⟩ rfl
theorem State.setRaw_keeps {r s : State} (h : Keeps r s) (w : Nat) (x : CodeWord) : Keeps r (s.setRaw w x) := by
  unfold State.setRaw
  exact State.setSide_keeps (State.setMemWord_keeps h w (codeData x)) w _

theorem State.pickWord_keeps {r₀ s : State} (h0 : Keeps r₀ s) (w : Nat) :
    Keeps r₀ (State.pickWord s w).2 := by
  unfold State.pickWord
  repeat' first
    | with_reducible assumption | with_reducible apply State.fresh_keeps | split

theorem State.memCE_keeps {r₀ s : State} (h0 : Keeps r₀ s) (st : Storage) (ty inst addr p q : Nat) (det : Detect) :
    Keeps r₀ (State.memCE s st ty inst addr p q det) := by
  unfold State.memCE
  extract_lets
  repeat' first
    | with_reducible assumption | with_reducible apply State.event_keeps | with_reducible apply State.odAdd_keeps
       | with_reducible refine keeps_ite ?_ ?_ | with_reducible apply Keeps.upd

theorem State.memUE_keeps {r₀ s : State} (h0 : Keeps r₀ s) (st : Storage) (ty inst addr : Nat) (det : Detect) :
    Keeps r₀ (State.memUE s st ty inst addr det) := by
  unfold State.memUE
  repeat' first
    | with_reducible assumption | with_reducible apply State.event_keeps | with_reducible apply State.odAdd_keeps

theorem State.countPoisonRead_keeps {r₀ s : State} (h0 : Keeps r₀ s) (w : Nat) (p : Bool) :
    Keeps r₀ (State.countPoisonRead s w p) := by
  unfold State.countPoisonRead
  repeat' first
    | with_reducible assumption | with_reducible apply State.odAdd_keeps | with_reducible refine keeps_ite ?_ ?_

theorem State.readWord_keeps {r₀ s : State} (h0 : Keeps r₀ s) (w : Nat) (det : Detect) :
    Keeps r₀ (State.readWord s w det).2 := by
  unfold State.readWord
  extract_lets
  repeat' first
    | with_reducible assumption | with_reducible apply State.countPoisonRead_keeps | with_reducible apply State.memCE_keeps
       | with_reducible apply State.memUE_keeps | with_reducible apply State.pickWord_keeps
       | with_reducible apply State.setRaw_keeps | with_reducible refine keeps_ite ?_ ?_ | dsimp only | split
       | with_reducible apply Keeps.upd

theorem State.lostWord_keeps {r₀ s : State} (h0 : Keeps r₀ s) (w : Nat) (det : Detect) :
    Keeps r₀ (State.lostWord s w det).2 := by
  unfold State.lostWord
  repeat' first
    | with_reducible assumption | with_reducible apply State.countPoisonRead_keeps | with_reducible refine keeps_ite ?_ ?_

theorem State.readRun_keeps {r₀ : State} (det : Detect) : ∀ (l : List Nat) (o : Option Nat) {s : State}, Keeps r₀ s →
    Keeps r₀ (s.readRun det o l).2 := by
  intro l
  induction l with
  | nil => intro o s h; exact h
  | cons w ws ih =>
    intro o s h
    apply ih
    split
    · exact State.lostWord_keeps h ..
    · exact State.readWord_keeps h ..

theorem State.readWords_keeps {r : State} (det : Detect) (l : List Nat) {s : State} (h : Keeps r s) :
    Keeps r (s.readWords det l).2 := State.readRun_keeps det l none h

theorem State.readBytes_keeps {r₀ s : State} (h0 : Keeps r₀ s) (a n : Nat) (det : Detect) :
    Keeps r₀ (State.readBytes s a n det).2 := by
  unfold State.readBytes
  extract_lets
  repeat' first
    | with_reducible assumption | with_reducible apply State.readWords_keeps

theorem State.readNat_keeps {r₀ s : State} (h0 : Keeps r₀ s) (a n : Nat) :
    Keeps r₀ (State.readNat s a n).2 := by
  unfold State.readNat
  extract_lets
  repeat' first
    | with_reducible assumption | with_reducible apply State.readBytes_keeps

theorem State.noteOld_keeps {r₀ s : State} (h0 : Keeps r₀ s) (w : Nat) (x : CodeWord) :
    Keeps r₀ (State.noteOld s w x) := by
  unfold State.noteOld
  repeat' first
    | with_reducible assumption | with_reducible apply State.setCore_keeps | with_reducible refine keeps_ite ?_ ?_
      | dsimp only | split

theorem State.noteStore_keeps {r₀ s : State} (h0 : Keeps r₀ s) (w : Nat) :
    Keeps r₀ (State.noteStore s w) := by
  unfold State.noteStore
  repeat' first
    | with_reducible assumption | with_reducible apply State.noteOld_keeps

theorem State.seenWrite_keeps {r₀ s : State} (h0 : Keeps r₀ s) (w : Nat) :
    Keeps r₀ (State.seenWrite s w) := by
  unfold State.seenWrite
  extract_lets
  repeat' first
    | with_reducible assumption | split | with_reducible apply Keeps.upd

theorem State.disarm_keeps {r₀ s : State} (h0 : Keeps r₀ s) (m : Monitor) :
    Keeps r₀ (State.disarm s m) := by
  unfold State.disarm
  extract_lets
  repeat' first
    | with_reducible assumption | with_reducible apply Keeps.upd

theorem State.arm_keeps {r₀ s : State} (h0 : Keeps r₀ s) (m : Monitor) (a : Nat) :
    Keeps r₀ (State.arm s m a) := by
  unfold State.arm
  extract_lets
  repeat' first
    | with_reducible assumption | with_reducible apply State.disarm_keeps | with_reducible apply Keeps.upd

theorem State.updWord_keeps {r₀ s : State} (h0 : Keeps r₀ s) (w : Nat) (f : CodeWord → CodeWord) :
    Keeps r₀ (State.updWord s w f) := by
  unfold State.updWord
  extract_lets
  repeat' first
    | with_reducible assumption | with_reducible apply State.fresh_keeps | with_reducible apply State.noteStore_keeps
      | with_reducible apply State.seenWrite_keeps | with_reducible apply State.setRaw_keeps
      | with_reducible refine keeps_ite ?_ ?_ | split | with_reducible apply Keeps.upd

theorem State.writeWord_keeps {r₀ s : State} (h0 : Keeps r₀ s) (w : Nat) (d : BitVec 64) (poison : Bool) :
    Keeps r₀ (State.writeWord s w d poison) := by
  unfold State.writeWord
  repeat' first
    | with_reducible assumption | with_reducible apply State.updWord_keeps

theorem State.mergeWord_keeps {r₀ s : State} (h0 : Keeps r₀ s) (w i : Nat) (bs : List Byte) :
    Keeps r₀ (State.mergeWord s w i bs) := by
  unfold State.mergeWord
  extract_lets
  repeat' first
    | with_reducible assumption | with_reducible apply State.readWord_keeps | with_reducible apply State.updWord_keeps

theorem State.writeFuel_keeps {r : State} : ∀ (k : Nat) {s : State} (a : Nat) (bs : List Byte) (p : Bool), Keeps r s →
    Keeps r (State.writeFuel k s a bs p)
  | 0, _, _, _, _, h => h
  | k + 1, s, a, bs, p, h => by
    unfold State.writeFuel
    split
    · exact h
    · refine State.writeFuel_keeps k _ _ _ ?_
      refine keeps_ite ?_ ?_
      · exact State.writeWord_keeps h _ _ _
      · exact State.mergeWord_keeps h _ _ _

theorem State.writeBytes_keeps {r₀ s : State} (h0 : Keeps r₀ s) (a : Nat) (bs : List Byte) :
    Keeps r₀ (State.writeBytes s a bs) := by
  unfold State.writeBytes
  repeat' first
    | with_reducible assumption | with_reducible apply State.writeFuel_keeps

theorem State.writeNat_keeps {r₀ s : State} (h0 : Keeps r₀ s) (a n v : Nat) :
    Keeps r₀ (State.writeNat s a n v) := by
  unfold State.writeNat
  repeat' first
    | with_reducible assumption | with_reducible apply State.writeBytes_keeps

theorem State.writeWords_keeps {r : State} : ∀ (l : List (BitVec 64 × Bool)) {s : State} (w : Nat), Keeps r s →
    Keeps r (s.writeWords w l)
  | [], _, _, h => h
  | x :: xs, _, w, h => State.writeWords_keeps xs (w + 1) (State.writeWord_keeps h w x.1 x.2)

theorem State.engineWrite_keeps {r₀ s : State} (h0 : Keeps r₀ s) (owner w : Nat) (f : CodeWord → CodeWord) :
    Keeps r₀ (State.engineWrite s owner w f) := by
  unfold State.engineWrite
  extract_lets
  repeat' first
    | with_reducible assumption | with_reducible apply State.noteStore_keeps | with_reducible apply State.seenWrite_keeps
      | with_reducible apply State.setRaw_keeps | with_reducible apply Keeps.upd

theorem State.writeRacy_keeps {r₀ s : State} (h0 : Keeps r₀ s) (owner w : Nat) (d : BitVec 64) (poison : Bool) :
    Keeps r₀ (State.writeRacy s owner w d poison) := by
  unfold State.writeRacy
  repeat' first
    | with_reducible assumption | with_reducible apply State.engineWrite_keeps

theorem State.mergeRead_keeps {r₀ s : State} (h0 : Keeps r₀ s) (w : Nat) :
    Keeps r₀ (State.mergeRead s w).2 := by
  unfold State.mergeRead
  extract_lets
  repeat' first
    | with_reducible assumption | with_reducible apply State.memCE_keeps | with_reducible apply State.memUE_keeps
      | with_reducible apply State.setRaw_keeps | dsimp only | split | with_reducible apply Keeps.upd

theorem State.settle_keeps {r₀ s : State} (h0 : Keeps r₀ s) (owner : Nat) :
    Keeps r₀ (State.settle s owner) := by
  unfold State.settle
  repeat' first
    | with_reducible assumption | with_reducible apply Keeps.upd

theorem State.unsettle_keeps {r₀ s : State} (h0 : Keeps r₀ s) (owner : Nat) :
    Keeps r₀ (State.unsettle s owner) := by
  unfold State.unsettle
  repeat' first
    | with_reducible assumption | with_reducible apply State.fresh_keeps | with_reducible apply State.setRaw_keeps
       | with_reducible apply State.settle_keeps | with_reducible refine keeps_foldl _ ?_ _ _ ?_ | split | with_reducible intro _

theorem State.pmcAdd_keeps {r₀ s : State} (h0 : Keeps r₀ s) (set i n : Nat) :
    Keeps r₀ (State.pmcAdd s set i n) := by
  unfold State.pmcAdd
  extract_lets
  repeat' first
    | with_reducible assumption | with_reducible apply State.odSet_keeps | with_reducible refine keeps_ite ?_ ?_

theorem State.count_keeps {r₀ s : State} (h0 : Keeps r₀ s) (set ev n : Nat) (a : Attr) :
    Keeps r₀ (State.count s set ev n a) := by
  unfold State.count
  repeat' first
    | with_reducible assumption | with_reducible apply State.pmcAdd_keeps | with_reducible refine keeps_ite ?_ ?_
       | with_reducible refine keeps_foldl _ ?_ _ _ ?_ | dsimp only | split | with_reducible intro _

theorem State.copyRules_keeps {r₀ s : State} (h0 : Keeps r₀ s) (cause ctx : Nat) (epoch : BitVec 32) (t : Nat) :
    Keeps r₀ (State.copyRules s cause ctx epoch t) := by
  unfold State.copyRules
  extract_lets
  repeat' first
    | with_reducible assumption | with_reducible apply State.event_keeps | with_reducible apply State.odSet_keeps
       | with_reducible refine keeps_foldl _ ?_ _ _ ?_ | with_reducible intro _

theorem State.rulesAtEpoch_keeps {r₀ s : State} (h0 : Keeps r₀ s) (ctx : Nat) (epoch : BitVec 32) (t : Nat) :
    Keeps r₀ (State.rulesAtEpoch s ctx epoch t) := by
  unfold State.rulesAtEpoch
  extract_lets
  repeat' first
    | with_reducible assumption | with_reducible apply State.copyRules_keeps | with_reducible apply State.odSet_keeps
      | with_reducible refine keeps_ite ?_ ?_ | with_reducible apply Keeps.upd

theorem State.snapsAtEpoch_keeps {r₀ s : State} (h0 : Keeps r₀ s) (ctx : Nat) (epoch : BitVec 32) (t : Nat) :
    Keeps r₀ (State.snapsAtEpoch s ctx epoch t) := by
  unfold State.snapsAtEpoch
  extract_lets
  repeat' first
    | with_reducible assumption | dsimp only | with_reducible apply Keeps.upd

theorem State.switchEpoch_keeps {r₀ s : State} (h0 : Keeps r₀ s) (ctx : Nat) (epoch : BitVec 32) (t : Nat) :
    Keeps r₀ (State.switchEpoch s ctx epoch t) := by
  unfold State.switchEpoch
  extract_lets
  repeat' first
    | with_reducible assumption | with_reducible apply State.event_keeps | with_reducible apply State.odSet_keeps
       | with_reducible apply State.rulesAtEpoch_keeps | with_reducible apply State.snapsAtEpoch_keeps

theorem State.zeroPmc_keeps {r₀ s : State} (h0 : Keeps r₀ s) (idx n : Nat) :
    Keeps r₀ (State.zeroPmc s idx n) := by
  unfold State.zeroPmc
  repeat' first
    | with_reducible assumption | with_reducible apply State.odSet_keeps

theorem State.zeroSet_keeps {r₀ s : State} (h0 : Keeps r₀ s) (idx : Nat) :
    Keeps r₀ (State.zeroSet s idx) := by
  unfold State.zeroSet
  repeat' first
    | with_reducible assumption | with_reducible apply State.odSet_keeps | with_reducible apply State.zeroPmc_keeps
       | with_reducible refine keeps_foldl _ ?_ _ _ ?_ | with_reducible intro _

theorem State.clearCounters_keeps {r₀ s : State} (h0 : Keeps r₀ s) :
    Keeps r₀ (State.clearCounters s) := by
  unfold State.clearCounters
  extract_lets
  repeat' first
    | with_reducible assumption | with_reducible apply State.setCore_keeps | with_reducible apply State.zeroSet_keeps
       | with_reducible refine keeps_foldl _ ?_ _ _ ?_ | dsimp only | with_reducible intro _

theorem State.slotEdges_keeps {r₀ s : State} (h0 : Keeps r₀ s) (cycles core : Nat) :
    Keeps r₀ (State.slotEdges s cycles core) := by
  unfold State.slotEdges
  extract_lets
  repeat' first
    | with_reducible assumption | with_reducible apply State.count_keeps | with_reducible refine keeps_foldl _ ?_ _ _ ?_
      | dsimp only | with_reducible intro _ | with_reducible apply Keeps.upd

theorem State.countEdges_keeps {r₀ s : State} (h0 : Keeps r₀ s) (now cycles : Nat) :
    Keeps r₀ (State.countEdges s now cycles) := by
  unfold State.countEdges
  extract_lets
  repeat' first
    | with_reducible assumption | with_reducible apply State.pmcAdd_keeps | with_reducible apply State.slotEdges_keeps
      | with_reducible refine keeps_foldl _ ?_ _ _ ?_ | with_reducible intro _

theorem State.flow_keeps {r₀ s : State} (h0 : Keeps r₀ s) (dt : Nat) :
    Keeps r₀ (State.flow s dt) := by
  unfold State.flow
  extract_lets
  repeat' first
    | with_reducible assumption | with_reducible apply State.countEdges_keeps | with_reducible apply State.odAdd_keeps
      | with_reducible refine keeps_ite ?_ ?_ | with_reducible apply Keeps.upd

theorem State.latchDump_keeps {r₀ s : State} (h0 : Keeps r₀ s) :
    Keeps r₀ (State.latchDump s) := by
  unfold State.latchDump
  extract_lets
  repeat' first
    | with_reducible assumption | with_reducible refine keeps_ite ?_ ?_ | with_reducible apply Keeps.upd

theorem State.countApply_keeps {r₀ s : State} (h0 : Keeps r₀ s) (op : CountOp) :
    Keeps r₀ (State.countApply s op) := by
  unfold State.countApply
  extract_lets
  repeat' first
    | with_reducible assumption | with_reducible apply State.clearCounters_keeps | split | with_reducible apply Keeps.upd

theorem State.arrive_keeps {r₀ s : State} (h0 : Keeps r₀ s) :
    Keeps r₀ (State.arrive s) := by
  unfold State.arrive
  extract_lets
  repeat' first
    | with_reducible assumption | with_reducible apply State.countApply_keeps | with_reducible apply State.latchDump_keeps
      | with_reducible apply State.switchEpoch_keeps | with_reducible refine keeps_ite ?_ ?_
      | with_reducible refine keeps_foldl _ ?_ _ _ ?_ | split | with_reducible intro _

theorem State.passTo_keeps {r₀ : State} : ∀ (k : Nat) {s : State} (_ : Keeps r₀ s) (t : Nat), Keeps r₀ (State.passTo k s t)
  | 0, _, h, _ => State.flow_keeps h _
  | k + 1, s, h, t => by
    unfold State.passTo
    split
    · exact keeps_ite (State.passTo_keeps k (State.arrive_keeps (State.flow_keeps h _)) t) (State.flow_keeps h _)
    · exact State.flow_keeps h _

theorem State.pass_keeps {r₀ s : State} (h0 : Keeps r₀ s) (dt : Nat) :
    Keeps r₀ (State.pass s dt) := by
  unfold State.pass
  repeat' first
    | with_reducible assumption | with_reducible apply State.passTo_keeps

theorem State.tick_keeps {r₀ s : State} (h0 : Keeps r₀ s) :
    Keeps r₀ (State.tick s) := by
  unfold State.tick
  repeat' first
    | with_reducible assumption | with_reducible apply State.pass_keeps | with_reducible refine keeps_ite ?_ ?_

theorem State.advanceTo_keeps {r₀ s : State} (h0 : Keeps r₀ s) (t : Nat) :
    Keeps r₀ (State.advanceTo s t) := by
  unfold State.advanceTo
  repeat' first
    | with_reducible assumption | with_reducible apply State.pass_keeps | with_reducible refine keeps_ite ?_ ?_

theorem State.setPort_keeps {r₀ s : State} (h0 : Keeps r₀ s) (p : Nat) (x : Port) :
    Keeps r₀ (State.setPort s p x) := by
  unfold State.setPort
  extract_lets
  repeat' first
    | with_reducible assumption | with_reducible apply Keeps.upd

theorem State.oweSlots_keeps {r₀ s : State} (h0 : Keeps r₀ s) (p k n : Nat) :
    Keeps r₀ (State.oweSlots s p k n) := by
  unfold State.oweSlots
  extract_lets
  repeat' first
    | with_reducible assumption | with_reducible apply State.setPort_keeps

theorem State.dropQueued_keeps {r₀ s : State} (h0 : Keeps r₀ s) (q : Queued) :
    Keeps r₀ (State.dropQueued s q) := by
  unfold State.dropQueued
  extract_lets
  repeat' first
    | with_reducible assumption | with_reducible apply State.odAdd_keeps | with_reducible apply State.oweSlots_keeps | split

theorem State.queuePacket_keeps {r₀ s : State} (h0 : Keeps r₀ s) (p : Nat) (q : Queued) :
    Keeps r₀ (State.queuePacket s p q) := by
  unfold State.queuePacket
  extract_lets
  repeat' first
    | with_reducible assumption | with_reducible apply State.dropQueued_keeps | with_reducible apply State.setPort_keeps
      | with_reducible refine keeps_ite ?_ ?_

theorem State.sendPacket_keeps {r₀ s : State} (h0 : Keeps r₀ s) (p : Nat) (pk : Packet) :
    Keeps r₀ (State.sendPacket s p pk) := by
  unfold State.sendPacket
  repeat' first
    | with_reducible assumption | with_reducible apply State.queuePacket_keeps

theorem State.launchPacket_keeps {r₀ s : State} (h0 : Keeps r₀ s) (pk : Packet) (r : Route) (vc : BitVec 2) :
    Keeps r₀ (State.launchPacket s pk r vc) := by
  unfold State.launchPacket
  extract_lets
  repeat' first
    | with_reducible assumption | with_reducible apply State.odAdd_keeps | with_reducible apply State.sendPacket_keeps
       | with_reducible refine keeps_ite ?_ ?_

theorem State.sendResponse_keeps {r₀ s : State} (h0 : Keeps r₀ s) (vc : BitVec 2) (pk : Packet) :
    Keeps r₀ (State.sendResponse s vc pk) := by
  unfold State.sendResponse
  repeat' first
    | with_reducible assumption | with_reducible apply State.launchPacket_keeps | split

theorem State.keyRefused_keeps {r₀ s : State} (h0 : Keeps r₀ s) (inport : Option Nat) (addr : Nat) (st : Status) (detail : BitVec 8) (src : Coord) (master : BitVec 8) (priv : BitVec 2) (job : BitVec 16) :
    Keeps r₀ (State.keyRefused s inport addr st detail src master priv job) := by
  unfold State.keyRefused
  extract_lets
  repeat' first
    | with_reducible assumption | with_reducible apply State.count_keeps | with_reducible apply State.event_keeps
      | with_reducible apply State.odAdd_keeps | with_reducible refine keeps_ite ?_ ?_ | split
      | with_reducible apply Keeps.upd

theorem State.closedEvent_keeps {r₀ s : State} (h0 : Keeps r₀ s) (block : Nat × Nat) (addr : Nat) :
    Keeps r₀ (State.closedEvent s block addr) := by
  unfold State.closedEvent
  repeat' first
    | with_reducible assumption | with_reducible apply State.event_keeps

theorem State.countMem_keeps {r₀ s : State} (h0 : Keeps r₀ s) (a n ev : Nat) (at_ : Attr) :
    Keeps r₀ (State.countMem s a n ev at_) := by
  unfold State.countMem
  extract_lets
  repeat' first
    | with_reducible assumption | with_reducible apply State.count_keeps | with_reducible refine keeps_ite ?_ ?_ | split

theorem State.writePart_keeps {r₀ s : State} (h0 : Keeps r₀ s) (w i : Nat) (bs : List Byte) (poison : Bool) :
    Keeps r₀ (State.writePart s w i bs poison) := by
  unfold State.writePart
  extract_lets
  repeat' first
    | with_reducible assumption | with_reducible apply State.mergeWord_keeps | with_reducible apply State.updWord_keeps
       | with_reducible apply State.writeWord_keeps | with_reducible refine keeps_ite ?_ ?_

theorem State.writeMasked_keeps {r₀ s : State} (h0 : Keeps r₀ s) (a : Nat) (bs : List Byte) (pmask : BitVec 32) :
    Keeps r₀ (State.writeMasked s a bs pmask) := by
  unfold State.writeMasked
  repeat' first
    | with_reducible assumption | with_reducible apply State.writePart_keeps | with_reducible refine keeps_foldl _ ?_ _ _ ?_
       | dsimp only | with_reducible intro _

theorem State.perform_keeps {r₀ s : State} (h0 : Keeps r₀ s) (r : Req) (n : Nat) :
    Keeps r₀ (State.perform s r n).2 := by
  unfold State.perform
  extract_lets
  repeat' first
    | with_reducible assumption | with_reducible apply State.countMem_keeps | with_reducible apply State.odAdd_keeps
       | with_reducible apply State.readBytes_keeps | with_reducible apply State.readNat_keeps
       | with_reducible apply State.writeMasked_keeps | with_reducible apply State.writeNat_keeps
       | with_reducible refine keeps_ite ?_ ?_ | split

theorem State.sendInvalidate_keeps {r₀ s : State} (h0 : Keeps r₀ s) (line : Nat) (c : Coord) :
    Keeps r₀ (State.sendInvalidate s line c) := by
  unfold State.sendInvalidate
  extract_lets
  repeat' first
    | with_reducible assumption | with_reducible apply State.launchPacket_keeps | split

theorem State.invalidateLine_keeps {r₀ s : State} (h0 : Keeps r₀ s) (line : Nat) :
    Keeps r₀ (State.invalidateLine s line) := by
  unfold State.invalidateLine
  extract_lets
  repeat' first
    | with_reducible assumption | with_reducible apply State.sendInvalidate_keeps
       | with_reducible refine keeps_foldl _ ?_ _ _ ?_ | with_reducible intro _ | with_reducible apply Keeps.upd

theorem State.recordSharer_keeps {r₀ s : State} (h0 : Keeps r₀ s) (line : Nat) (c : Coord) :
    Keeps r₀ (State.recordSharer s line c) := by
  unfold State.recordSharer
  extract_lets
  repeat' first
    | with_reducible assumption | with_reducible apply Keeps.upd

theorem State.coherentWrite_keeps {r₀ s : State} (h0 : Keeps r₀ s) (a n : Nat) :
    Keeps r₀ (State.coherentWrite s a n) := by
  unfold State.coherentWrite
  extract_lets
  repeat' first
    | with_reducible assumption | with_reducible apply State.invalidateLine_keeps
      | with_reducible refine keeps_foldl _ ?_ _ _ ?_ | dsimp only | split | with_reducible intro _
      | with_reducible apply Keeps.upd

theorem State.countSpan_keeps {r₀ s : State} (h0 : Keeps r₀ s) (at_ : Attr) (ev a n : Nat) :
    Keeps r₀ (State.countSpan s at_ ev a n) := by
  unfold State.countSpan
  repeat' first
    | with_reducible assumption | with_reducible apply State.countMem_keeps | with_reducible refine keeps_foldl _ ?_ _ _ ?_
       | with_reducible intro _

theorem State.devRead_keeps {r₀ s : State} (h0 : Keeps r₀ s) (at_ : Attr) (a n : Nat) :
    Keeps r₀ (State.devRead s at_ a n).2 := by
  unfold State.devRead
  repeat' first
    | with_reducible assumption | with_reducible apply State.countSpan_keeps | with_reducible apply State.readBytes_keeps

theorem State.devWrite_keeps {r₀ s : State} (h0 : Keeps r₀ s) (at_ : Attr) (a : Nat) (bs : List Byte) :
    Keeps r₀ (State.devWrite s at_ a bs) := by
  unfold State.devWrite
  repeat' first
    | with_reducible assumption | with_reducible apply State.coherentWrite_keeps | with_reducible apply State.countSpan_keeps
       | with_reducible apply State.writeBytes_keeps

theorem State.shareLine_keeps {r₀ s : State} (h0 : Keeps r₀ s) (r : Req) :
    Keeps r₀ (State.shareLine s r).2 := by
  unfold State.shareLine
  extract_lets
  repeat' first
    | with_reducible assumption | with_reducible apply State.invalidateLine_keeps
       | with_reducible apply State.recordSharer_keeps | (dsimp +zetaDelta only; split)

theorem State.claimLines_keeps {r₀ s : State} (h0 : Keeps r₀ s) (a n : Nat) :
    Keeps r₀ (State.claimLines s a n).2 := by
  unfold State.claimLines
  repeat' first
    | with_reducible assumption | with_reducible apply State.invalidateLine_keeps
      | with_reducible refine keeps_foldl _ ?_ _ _ ?_ | with_reducible intro _

theorem State.refuseReq_keeps {r₀ s : State} (h0 : Keeps r₀ s) (r : Req) :
    Keeps r₀ (State.refuseReq s r).2.2 := by
  unfold State.refuseReq
  extract_lets
  repeat' first
    | with_reducible assumption | with_reducible apply State.keyRefused_keeps | split

theorem State.serveReq_keeps {r₀ s : State} (h0 : Keeps r₀ s) (r : Req) :
    Keeps r₀ (State.serveReq s r).2.2 := by
  unfold State.serveReq
  repeat' first
    | with_reducible assumption | with_reducible apply State.claimLines_keeps | with_reducible apply State.closedEvent_keeps
      | with_reducible apply State.keyRefused_keeps | with_reducible apply State.perform_keeps
      | with_reducible apply State.refuseReq_keeps | with_reducible apply State.shareLine_keeps | dsimp only | split

theorem State.leaveLate_keeps {r₀ s : State} (h0 : Keeps r₀ s) (l : List Tx) :
    Keeps r₀ (State.leaveLate s l) := by
  unfold State.leaveLate
  extract_lets
  repeat' first
    | with_reducible assumption | with_reducible apply Keeps.upd

theorem State.lateResponse_keeps {r₀ s : State} (h0 : Keeps r₀ s) (tag : Nat) :
    Keeps r₀ (State.lateResponse s tag) := by
  unfold State.lateResponse
  extract_lets
  repeat' first
    | with_reducible assumption | with_reducible apply State.odAdd_keeps | with_reducible apply Keeps.upd

theorem State.awaitAcks_keeps {r₀ s : State} (h0 : Keeps r₀ s) (w : List (Nat × Coord)) (pk : Packet) :
    Keeps r₀ (State.awaitAcks s w pk) := by
  unfold State.awaitAcks
  extract_lets
  repeat' first
    | with_reducible assumption | with_reducible apply Keeps.upd

theorem State.sendOnward_keeps {r₀ s : State} (h0 : Keeps r₀ s) (p : Nat) (q : Queued) :
    Keeps r₀ (State.sendOnward s p q) := by
  unfold State.sendOnward
  extract_lets
  repeat' first
    | with_reducible assumption | with_reducible apply State.queuePacket_keeps
      | with_reducible apply State.sendResponse_keeps | with_reducible refine keeps_ite ?_ ?_

theorem State.mcForward_keeps {r₀ s : State} (h0 : Keeps r₀ s) (pk : Packet) :
    Keeps r₀ (State.mcForward s pk) := by
  unfold State.mcForward
  repeat' first
    | with_reducible assumption | with_reducible apply State.sendOnward_keeps | split

theorem State.trackTx_keeps {r₀ s : State} (h0 : Keeps r₀ s) (tag port : Nat) (t : NewTx) :
    Keeps r₀ (State.trackTx s tag port t) := by
  unfold State.trackTx
  extract_lets
  repeat' first
    | with_reducible assumption | with_reducible apply Keeps.upd

theorem State.timeoutNoted_keeps {r₀ s : State} (h0 : Keeps r₀ s) (tag : Nat) (dst : Coord) (op master : BitVec 8) :
    Keeps r₀ (State.timeoutNoted s tag dst op master) := by
  unfold State.timeoutNoted
  repeat' first
    | with_reducible assumption | with_reducible apply State.event_keeps | with_reducible apply State.odAdd_keeps

theorem State.openLocal_keeps {r₀ s : State} (h0 : Keeps r₀ s) (tag : Nat) (t : NewTx) (pk : Packet) :
    Keeps r₀ (State.openLocal s tag t pk).2 := by
  unfold State.openLocal
  extract_lets
  repeat' first
    | with_reducible assumption | with_reducible apply State.awaitAcks_keeps | with_reducible apply State.mcForward_keeps
      | with_reducible apply State.odAdd_keeps | with_reducible apply State.serveReq_keeps
      | with_reducible apply State.timeoutNoted_keeps | with_reducible apply State.trackTx_keeps | split

theorem State.openTx_keeps {r₀ s : State} (h0 : Keeps r₀ s) (tag : Nat) (t : NewTx) :
    Keeps r₀ (State.openTx s tag t).2 := by
  unfold State.openTx
  extract_lets
  repeat' first
    | with_reducible assumption | with_reducible apply State.launchPacket_keeps | with_reducible apply State.odAdd_keeps
       | with_reducible apply State.openLocal_keeps | with_reducible apply State.timeoutNoted_keeps
       | with_reducible apply State.trackTx_keeps | dsimp only | split | (dsimp +zetaDelta only; split)
       | with_reducible apply Keeps.upd

theorem State.openMore_keeps {r₀ s : State} (h0 : Keeps r₀ s) (tag : Nat) (t : NewTx) (more : List (BitVec 40 × List Byte)) :
    Keeps r₀ (State.openMore s tag t more) := by
  unfold State.openMore
  extract_lets
  repeat' first
    | with_reducible assumption | with_reducible apply State.launchPacket_keeps
      | with_reducible refine keeps_foldl _ ?_ _ _ ?_ | dsimp only | split | with_reducible intro _
      | with_reducible apply Keeps.upd

theorem State.pullRx_keeps {r₀ s : State} (h0 : Keeps r₀ s) (port : Nat) (pk : Packet) :
    Opt2Keeps r₀ (State.pullRx s port pk) := by
  unfold State.pullRx
  extract_lets
  repeat' first
    | with_reducible assumption | with_reducible exact opt2_none | with_reducible apply State.count_keeps
      | with_reducible apply State.setPort_keeps | with_reducible refine opt2_some ?_ | split

theorem State.takeRx_keeps {r₀ s : State} (h0 : Keeps r₀ s) (port : Nat) (pk : Packet) :
    OptKeeps r₀ (State.takeRx s port pk) := by
  unfold State.takeRx
  refine ⟨fun t e => ?_⟩
  cases q : s.pullRx port pk with
  | none => rw [q] at e; cases e
  | some r =>
    rw [q] at e; cases e
    have k := (State.pullRx_keeps h0 port pk).get q
    dsimp only
    split
    · exact State.oweSlots_keeps k ..
    · exact k

theorem State.forward_keeps {r₀ s : State} (h0 : Keeps r₀ s) (port : Nat) (pool : Option Nat) (pk : Packet) :
    Keeps r₀ (State.forward s port pool pk) := by
  unfold State.forward
  extract_lets
  repeat' first
    | with_reducible assumption | with_reducible apply State.count_keeps | with_reducible apply State.sendOnward_keeps
      | with_reducible refine keeps_ite ?_ ?_ | split

theorem State.onPacket_keeps {r₀ s : State} (h0 : Keeps r₀ s) (port : Nat) (pk : Packet) (f : State → State) (hf_f : ∀ (x0 : State), Keeps r₀ x0 → Keeps r₀ (f x0)) :
    Keeps r₀ (State.onPacket s port pk f) := by
  unfold State.onPacket
  repeat' first
    | with_reducible assumption | with_reducible apply hf_f | with_reducible apply State.forward_keeps
      | with_reducible apply State.odAdd_keeps | with_reducible apply State.pullRx_keeps
      | with_reducible apply State.takeRx_keeps | with_reducible refine keeps_ite ?_ ?_ | split
      | with_reducible refine OptKeeps.get ?_ (by with_reducible assumption)
      | with_reducible refine Opt2Keeps.get ?_ (by with_reducible assumption)

theorem State.sendCtrl_keeps {r₀ s : State} (h0 : Keeps r₀ s) (ctype : Nat) (f : CollFlit) :
    Keeps r₀ (State.sendCtrl s ctype f) := by
  unfold State.sendCtrl
  repeat' first
    | with_reducible assumption | with_reducible apply State.odAdd_keeps | with_reducible apply State.setPort_keeps
       | with_reducible refine keeps_ite ?_ ?_ | dsimp only | split

theorem State.onFlit_keeps {r₀ s : State} (h0 : Keeps r₀ s) (ctype : Nat) (f : CollFlit) (k : State → State) (hf_k : ∀ (x0 : State), Keeps r₀ x0 → Keeps r₀ (k x0)) :
    Keeps r₀ (State.onFlit s ctype f k) := by
  unfold State.onFlit
  repeat' first
    | with_reducible assumption | with_reducible apply hf_k | with_reducible apply State.odAdd_keeps
       | with_reducible apply State.sendCtrl_keeps | with_reducible refine keeps_ite ?_ ?_

theorem State.setLaunch_keeps {r₀ s : State} (h0 : Keeps r₀ s) (l : Launch) :
    Keeps r₀ (State.setLaunch s l) := by
  unfold State.setLaunch
  extract_lets
  repeat' first
    | with_reducible assumption | with_reducible apply Keeps.upd

theorem State.locksLeft_keeps {r₀ s : State} (h0 : Keeps r₀ s) (g : GroupRef) (n : Nat) :
    Keeps r₀ (State.locksLeft s g n) := by
  unfold State.locksLeft
  repeat' first
    | with_reducible assumption | with_reducible apply State.event_keeps | with_reducible apply State.odAdd_keeps
       | with_reducible refine keeps_ite ?_ ?_

theorem State.freeTokens_keeps {r₀ s : State} (h0 : Keeps r₀ s) (g : GroupRef) :
    Keeps r₀ (State.freeTokens s g) := by
  unfold State.freeTokens
  extract_lets
  repeat' first
    | with_reducible assumption | with_reducible apply State.setCore_keeps

theorem State.dropGroup_keeps {r₀ s : State} (h0 : Keeps r₀ s) (g : GroupRef) :
    Keeps r₀ (State.dropGroup s g) := by
  unfold State.dropGroup
  repeat' first
    | with_reducible assumption | with_reducible apply State.freeTokens_keeps | with_reducible apply State.locksLeft_keeps
       | with_reducible apply State.removeGroup_keeps | split

theorem State.reap_keeps {r₀ s : State} (h0 : Keeps r₀ s) (g : GroupRef) :
    Keeps r₀ (State.reap s g) := by
  unfold State.reap
  repeat' first
    | with_reducible assumption | with_reducible apply State.dropGroup_keeps | with_reducible refine keeps_ite ?_ ?_ | split

theorem State.stopGroup_keeps {r₀ s : State} (h0 : Keeps r₀ s) (g : GroupRef) :
    Keeps r₀ (State.stopGroup s g) := by
  unfold State.stopGroup
  repeat' first
    | with_reducible assumption | with_reducible apply State.reap_keeps | with_reducible apply State.setGroup_keeps | split

theorem State.writeTies_keeps {r₀ : State} (core : Nat) (l : Launch) : ∀ (rs : List (Nat × List Byte)) (i : Nat) {s : State},
    Keeps r₀ s → Keeps r₀ (s.writeTies core l i rs) := by
  intro rs
  induction rs with
  | nil => intro i s h; exact h
  | cons r rs ih =>
    intro i s h
    unfold State.writeTies
    split
    · exact ih _ (State.devWrite_keeps h ..)
    · exact h

theorem State.recordExc_keeps {r₀ s : State} (h0 : Keeps r₀ s) (g : GroupRef) (gr : Group) (word : BitVec 64) (e : Exc) (l : Launch) :
    Keeps r₀ (State.recordExc s g gr word e l) := by
  unfold State.recordExc
  extract_lets
  apply State.setLaunch_keeps
  refine keeps_ite (State.event_keeps ?_ ..) ?_ <;> exact State.writeTies_keeps _ _ _ _ h0

theorem State.countDescFault_keeps {r₀ s : State} (h0 : Keeps r₀ s) (opcode : Nat) :
    Keeps r₀ (State.countDescFault s opcode) := by
  unfold State.countDescFault
  extract_lets
  repeat' first
    | with_reducible assumption | with_reducible apply State.odAdd_keeps | with_reducible refine keeps_ite ?_ ?_

theorem State.takeExc_keeps {r₀ s : State} (h0 : Keeps r₀ s) (g : GroupRef) (word : BitVec 64) (e : Exc) :
    Keeps r₀ (State.takeExc s g word e) := by
  unfold State.takeExc
  repeat' first
    | with_reducible assumption | with_reducible apply State.countDescFault_keeps | with_reducible apply State.event_keeps
      | with_reducible apply State.odAdd_keeps | with_reducible apply State.recordExc_keeps
      | with_reducible apply State.stopGroup_keeps | with_reducible refine keeps_ite ?_ ?_ | dsimp only | split

theorem State.fetch_keeps {r₀ s : State} (h0 : Keeps r₀ s) (core : Nat) (gr : Group) :
    Keeps r₀ (State.fetch s core gr).2 := by
  unfold State.fetch
  extract_lets
  repeat' first
    | with_reducible assumption | with_reducible apply State.readWord_keeps | split

theorem State.countSlot_keeps {r₀ s : State} (h0 : Keeps r₀ s) (core ev cls : Nat) :
    Keeps r₀ (State.countSlot s core ev cls) := by
  unfold State.countSlot
  extract_lets
  repeat' first
    | with_reducible assumption | with_reducible apply State.count_keeps | with_reducible refine keeps_ite ?_ ?_
      | with_reducible apply Keeps.upd

theorem issueFree_keeps {r₀ s : State} (h0 : Keeps r₀ s) (g : GroupRef) (word : BitVec 64) (cls : Nat) (body : State → Group → Issue) (hf_body : ∀ (x0 : State) (x1 : Group), Keeps r₀ x0 → IssueKeeps r₀ (body x0 x1)) :
    Keeps r₀ (issueFree g word cls body s) := by
  unfold issueFree
  split
  · exact h0
  split
  · exact State.stopGroup_keeps h0 ..
  rename_i gr _ _
  have k := State.fetch_keeps h0 g.core gr
  split
  · rename_i q; rw [q] at k
    exact State.takeExc_keeps (State.countSlot_keeps k ..) ..
  · rename_i q; rw [q] at k
    split
    · exact State.takeExc_keeps (State.countSlot_keeps k ..) ..
    · exact State.takeExc_keeps (State.countSlot_keeps ((hf_body _ _ k).get_after (by assumption)) ..) ..
    · exact State.countSlot_keeps ((hf_body _ _ k).get (by assumption)) ..

theorem issue_keeps {r₀ s : State} (h0 : Keeps r₀ s) (g : GroupRef) (word : BitVec 64) (cls : Nat) (body : State → Group → Issue) (hf_body : ∀ (x0 : State) (x1 : Group), Keeps r₀ x0 → IssueKeeps r₀ (body x0 x1)) :
    Keeps r₀ (issue g word cls body s) := by
  unfold issue
  extract_lets
  repeat' first
    | with_reducible assumption | with_reducible apply State.holdIssue_keeps | with_reducible apply issueFree_keeps
      | with_reducible refine keeps_ite ?_ ?_

theorem issued_keeps {r₀ s : State} (h0 : Keeps r₀ s) (g : GroupRef) (word : BitVec 64) (cls : Nat) (body : State → Group → Issue) (hf_body : ∀ (x0 : State) (x1 : Group), Keeps r₀ x0 → IssueKeeps r₀ (body x0 x1)) :
    OutKeeps r₀ (issued g word cls body s) := by
  unfold issued
  repeat' first
    | with_reducible assumption | with_reducible apply issue_keeps | with_reducible refine out_next ?_

theorem checked_keeps {r₀ s : State} (h0 : Keeps r₀ s) (g : GroupRef) (bad : Bool) (regs : List (Nat × Nat)) (k : State → Group → Issue) (gr : Group) (hf_k : ∀ (x0 : State) (x1 : Group), Keeps r₀ x0 → IssueKeeps r₀ (k x0 x1)) :
    IssueKeeps r₀ (checked g bad regs k s gr) := by
  unfold checked
  repeat' first
    | with_reducible assumption | with_reducible exact issue_exc _ | with_reducible apply hf_k | split

theorem groupOnly_keeps {r₀ s : State} (h0 : Keeps r₀ s) (g : GroupRef) (f : Group → Group) (gr : Group) :
    IssueKeeps r₀ (groupOnly g f s gr) := by
  unfold groupOnly
  repeat' first
    | with_reducible assumption | with_reducible apply State.setGroup_keeps | with_reducible refine issue_done ?_

theorem State.freeToken_keeps {r₀ s : State} (h0 : Keeps r₀ s) (core t : Nat) :
    Keeps r₀ (State.freeToken s core t) := by
  unfold State.freeToken
  extract_lets
  repeat' first
    | with_reducible assumption | with_reducible apply State.setCore_keeps

theorem State.twaitDone_keeps {r₀ s : State} (h0 : Keeps r₀ s) (g : GroupRef) (gr : Group) (word : BitVec 64) (t : Nat) (tk : Token) :
    Keeps r₀ (State.twaitDone s g gr word t tk) := by
  unfold State.twaitDone
  extract_lets
  repeat' first
    | with_reducible assumption | with_reducible apply State.freeToken_keeps | with_reducible apply State.setGroup_keeps
       | with_reducible apply State.takeExc_keeps | with_reducible refine keeps_ite ?_ ?_

theorem State.fenceFail_keeps {r₀ s : State} (h0 : Keeps r₀ s) (g : GroupRef) (gr : Group) :
    Opt2Keeps r₀ (State.fenceFail s g gr) := by
  unfold State.fenceFail
  repeat' first
    | with_reducible assumption | with_reducible exact opt2_none | with_reducible apply State.odAdd_keeps
       | with_reducible apply State.setGroup_keeps | with_reducible refine opt2_some ?_ | split

theorem State.endCheck_keeps {r₀ s : State} (h0 : Keeps r₀ s) (g : GroupRef) (gr : Group) (word : BitVec 64) :
    IssueKeeps r₀ (State.endCheck s g gr word) := by
  unfold State.endCheck
  extract_lets
  repeat' first
    | with_reducible assumption | with_reducible exact issue_exc _ | with_reducible apply State.dropGroup_keeps
      | with_reducible apply State.fenceFail_keeps | with_reducible apply State.setGroup_keeps
      | with_reducible refine issue_done ?_ | with_reducible refine issue_excAfter ?_ | split
      | with_reducible refine Opt2Keeps.get ?_ (by with_reducible assumption)

theorem State.fenceCheck_keeps {r₀ s : State} (h0 : Keeps r₀ s) (g : GroupRef) (gr : Group) (word : BitVec 64) :
    IssueKeeps r₀ (State.fenceCheck s g gr word) := by
  unfold State.fenceCheck
  repeat' first
    | with_reducible assumption | with_reducible apply State.fenceFail_keeps | with_reducible apply State.setGroup_keeps
      | with_reducible refine issue_done ?_ | with_reducible refine issue_excAfter ?_ | split
      | with_reducible refine Opt2Keeps.get ?_ (by with_reducible assumption)

theorem State.resume_keeps {r₀ s : State} (h0 : Keeps r₀ s) (g : GroupRef) (word : BitVec 64) {i : Issue} (hi : IssueKeeps r₀ i) :
    Keeps r₀ (s.resume g word i) := by
  unfold State.resume
  split
  · exact State.takeExc_keeps h0 ..
  · exact State.takeExc_keeps (hi.get_after rfl) ..
  · exact hi.get rfl

theorem State.wake_keeps {r₀ s : State} (h0 : Keeps r₀ s) (g : GroupRef) :
    Keeps r₀ (State.wake s g) := by
  unfold State.wake
  repeat' first
    | with_reducible assumption | with_reducible apply State.endCheck_keeps | with_reducible apply State.fenceCheck_keeps
      | with_reducible apply State.reap_keeps | with_reducible apply State.resume_keeps
      | with_reducible apply State.stopGroup_keeps | with_reducible apply State.twaitDone_keeps
      | with_reducible refine keeps_ite ?_ ?_ | split

theorem State.wakeCore_keeps {r₀ s : State} (h0 : Keeps r₀ s) (core : Nat) :
    Keeps r₀ (State.wakeCore s core) := by
  unfold State.wakeCore
  repeat' first
    | with_reducible assumption | with_reducible apply State.wake_keeps | with_reducible refine keeps_foldl _ ?_ _ _ ?_
       | with_reducible intro _

theorem State.sweepCore_keeps {r₀ s : State} (h0 : Keeps r₀ s) (core : Nat) :
    Keeps r₀ (State.sweepCore s core) := by
  unfold State.sweepCore
  repeat' first
    | with_reducible assumption | with_reducible apply State.stopGroup_keeps | with_reducible apply State.wake_keeps
       | with_reducible refine keeps_foldl _ ?_ _ _ ?_ | split | with_reducible intro _

theorem State.sendFrame_keeps {r₀ s : State} (h0 : Keeps r₀ s) (f : OutFrame) :
    Keeps r₀ (State.sendFrame s f) := by
  unfold State.sendFrame
  repeat' first
    | with_reducible assumption | with_reducible apply State.emit_keeps

theorem State.unheard_keeps {r₀ s : State} (h0 : Keeps r₀ s) (via : OdPath) :
    Keeps r₀ (State.unheard s via) := by
  unfold State.unheard
  repeat' first
    | with_reducible assumption | with_reducible apply State.emit_keeps | with_reducible refine keeps_ite ?_ ?_

theorem State.odFailed_keeps {r₀ s : State} (h0 : Keeps r₀ s) (via : OdPath) (idx sub : Nat) (st : Status) :
    Keeps r₀ (State.odFailed s via idx sub st) := by
  unfold State.odFailed
  repeat' first
    | with_reducible assumption | with_reducible apply State.event_keeps

theorem State.mailboxDone_keeps {r₀ s : State} (h0 : Keeps r₀ s) (m : Nat) (st : Status) :
    Keeps r₀ (State.mailboxDone s m st) := by
  unfold State.mailboxDone
  extract_lets
  repeat' first
    | with_reducible assumption | with_reducible apply State.signal_keeps | with_reducible apply Keeps.upd

theorem State.keepResponse_keeps {r₀ s : State} (h0 : Keeps r₀ s) (mac : BitVec 48) (seq : BitVec 16) (f : OutFrame) :
    Keeps r₀ (State.keepResponse s mac seq f) := by
  unfold State.keepResponse
  extract_lets
  repeat' first
    | with_reducible assumption | with_reducible apply State.sendFrame_keeps | with_reducible apply Keeps.upd

theorem State.answerWrite_keeps {r₀ s : State} (h0 : Keeps r₀ s) (via : OdPath) (idx sub : Nat) (st : Status) :
    Keeps r₀ (State.answerWrite s via idx sub st) := by
  unfold State.answerWrite
  extract_lets
  repeat' first
    | with_reducible assumption | with_reducible apply State.keepResponse_keeps | with_reducible apply State.mailboxDone_keeps
       | with_reducible apply State.odFailed_keeps | with_reducible refine keeps_ite ?_ ?_ | dsimp only | split
       | with_reducible apply Keeps.upd

theorem State.serveWrite_keeps {r₀ s : State} (h0 : Keeps r₀ s) (via : OdPath) (idx sub v : Nat) (h : State → OdRow → Served) (hf_h : ∀ (x0 : State) (x1 : OdRow), Keeps r₀ x0 → ServedKeeps r₀ (h x0 x1)) :
    ServedKeeps r₀ (State.serveWrite s via idx sub v h) := by
  unfold State.serveWrite
  repeat' first
    | with_reducible assumption | with_reducible apply hf_h | with_reducible refine served_now ?_ | split

theorem Served.answer_keeps {r : State} {x : Served} (h : ServedKeeps r x) (via : OdPath) (idx sub : Nat) :
    Keeps r (x.answer via idx sub) := by
  cases x with
  | now st s => exact State.answerWrite_keeps h via idx sub st
  | later s => exact h

theorem State.odRow_keeps {r₀ s : State} (h0 : Keeps r₀ s) (via : OdPath) (idx sub v : Nat) (h : State → OdRow → Served) (hf_h : ∀ (x0 : State) (x1 : OdRow), Keeps r₀ x0 → ServedKeeps r₀ (h x0 x1)) :
    Keeps r₀ (State.odRow s via idx sub v h) := by
  unfold State.odRow
  repeat' first
    | with_reducible assumption | with_reducible apply Served.answer_keeps | with_reducible apply State.serveWrite_keeps
      | with_reducible apply State.unheard_keeps | with_reducible refine keeps_ite ?_ ?_

theorem withAccess_keeps {r₀ s : State} (h0 : Keeps r₀ s) (v : Nat) (h : State → Status × State) (r : OdRow) (hf_h : ∀ (x0 : State), Keeps r₀ x0 → Keeps r₀ (h x0).2) :
    ServedKeeps r₀ (withAccess v h s r) := by
  unfold withAccess
  extract_lets
  repeat' first
    | with_reducible assumption | with_reducible apply hf_h | with_reducible refine served_now ?_ | split

theorem State.directLoad_keeps {r₀ s : State} (h0 : Keeps r₀ s) (via : OdPath) (off n : Nat) :
    Keeps r₀ (State.directLoad s via off n).2 := by
  unfold State.directLoad
  extract_lets
  repeat' first
    | with_reducible assumption | with_reducible apply State.odFailed_keeps | split

theorem State.windowLoad_keeps {r₀ s : State} (h0 : Keeps r₀ s) (core slot off n : Nat) :
    Keeps r₀ (State.windowLoad s core slot off n).2 := by
  unfold State.windowLoad
  repeat' first
    | with_reducible assumption | with_reducible apply State.directLoad_keeps | split

end Sys2Proof.Machine
end

