-- ==== Sys2Proof/Laws/KeepsWork.lean ====
section
/-!
SUPPORT. `Keeps` (Sys2Proof/Laws/Keeps.lean) for each operation of the dispatcher, COPY, the matrix arrays, remote memory, the
training watch, the collectives and the update engine: one lemma per definition,
named after it.
-/

namespace Sys2Proof.Machine

open Sys2Proof

theorem State.setRing_keeps {r₀ s : State} (h0 : Keeps r₀ s) (r : Nat) (x : Ring) :
    Keeps r₀ (State.setRing s r x) := by
  unfold State.setRing
  extract_lets
  repeat' first
    | with_reducible assumption | with_reducible apply Keeps.upd

theorem State.setCq_keeps {r₀ s : State} (h0 : Keeps r₀ s) (q : Nat) (x : CqRing) :
    Keeps r₀ (State.setCq s q x) := by
  unfold State.setCq
  extract_lets
  repeat' first
    | with_reducible assumption | with_reducible apply Keeps.upd

theorem State.writeRingLine_keeps {r₀ s : State} (h0 : Keeps r₀ s) (r : Nat) :
    Keeps r₀ (State.writeRingLine s r) := by
  unfold State.writeRingLine
  extract_lets
  repeat' first
    | with_reducible assumption | with_reducible apply State.devWrite_keeps

theorem State.setRingState_keeps {r₀ s : State} (h0 : Keeps r₀ s) (r v : Nat) :
    Keeps r₀ (State.setRingState s r v) := by
  unfold State.setRingState
  repeat' first
    | with_reducible assumption | with_reducible apply State.odSet_keeps | with_reducible apply State.writeRingLine_keeps

theorem State.settleRing_keeps {r₀ s : State} (h0 : Keeps r₀ s) (r : Nat) :
    Keeps r₀ (State.settleRing s r) := by
  unfold State.settleRing
  repeat' first
    | with_reducible assumption | with_reducible apply State.setRingState_keeps | with_reducible refine keeps_ite ?_ ?_

theorem State.putRecord_keeps {r₀ s : State} (h0 : Keeps r₀ s) (q : Nat) (x : BitVec 256) :
    Keeps r₀ (State.putRecord s q x) := by
  unfold State.putRecord
  extract_lets
  repeat' first
    | with_reducible assumption | with_reducible apply State.devWrite_keeps | with_reducible apply State.setCq_keeps

theorem State.putRecords_keeps {r₀ s : State} (h : Keeps r₀ s) (q : Nat) (l : List CqRecord) :
    Keeps r₀ (State.putRecords s q l) := by
  induction l generalizing s q with
  | nil =>
    unfold State.putRecords
    repeat' first
      | with_reducible assumption
  | cons a l ih =>
    unfold State.putRecords
    repeat' first
      | with_reducible assumption | with_reducible apply ih | with_reducible apply State.putRecord_keeps

theorem State.stallCq_keeps {r₀ s : State} (h0 : Keeps r₀ s) (q : Nat) :
    Keeps r₀ (State.stallCq s q) := by
  unfold State.stallCq
  extract_lets
  repeat' first
    | with_reducible assumption | with_reducible apply State.event_keeps | with_reducible apply State.setCq_keeps
       | with_reducible refine keeps_ite ?_ ?_

theorem State.rewriteTies_keeps {r₀ s : State} (h0 : Keeps r₀ s) (q k : Nat) (l : List CqRecord) :
    Keeps r₀ (State.rewriteTies s q k l) := by
  unfold State.rewriteTies
  extract_lets
  repeat' first
    | with_reducible assumption | with_reducible apply State.putRecords_keeps | with_reducible apply State.setCq_keeps

theorem State.drainCq_keeps {r₀ : State} : ∀ (k : Nat) {s : State} (_ : Keeps r₀ s) (x0 : Nat),
    Keeps r₀ (State.drainCq k s x0) := by
  intro k
  induction k with
  | zero =>
    intro s h x0
    unfold State.drainCq
    repeat' first
      | with_reducible assumption
  | succ k ih =>
    intro s h x0
    unfold State.drainCq
    try extract_lets
    repeat' first
      | with_reducible assumption | with_reducible apply ih | with_reducible apply State.putRecord_keeps
         | with_reducible apply State.setCq_keeps | with_reducible refine keeps_ite ?_ ?_ | split

theorem State.flushCq_keeps {r₀ s : State} (h0 : Keeps r₀ s) (q : Nat) :
    Keeps r₀ (State.flushCq s q) := by
  unfold State.flushCq
  extract_lets
  repeat' first
    | with_reducible assumption | with_reducible apply State.drainCq_keeps | with_reducible apply State.signal_keeps
      | with_reducible refine keeps_ite ?_ ?_

theorem State.completion_keeps {r₀ s : State} (h0 : Keeps r₀ s) (q : Nat) (x : CqRecord) :
    Keeps r₀ (State.completion s q x) := by
  unfold State.completion
  extract_lets
  repeat' first
    | with_reducible assumption | with_reducible apply State.flushCq_keeps | with_reducible apply State.rewriteTies_keeps
      | with_reducible apply State.setCq_keeps | with_reducible apply State.signal_keeps
      | with_reducible apply State.stallCq_keeps | with_reducible refine keeps_ite ?_ ?_

theorem State.releaseCq_keeps {r₀ s : State} (h0 : Keeps r₀ s) (q : Nat) :
    Keeps r₀ (State.releaseCq s q) := by
  unfold State.releaseCq
  extract_lets
  repeat' first
    | with_reducible assumption | with_reducible apply State.flushCq_keeps | with_reducible apply State.setCq_keeps

theorem State.setCmd_keeps {r₀ s : State} (h0 : Keeps r₀ s) (c : Cmd) :
    Keeps r₀ (State.setCmd s c) := by
  unfold State.setCmd
  extract_lets
  repeat' first
    | with_reducible assumption | with_reducible apply Keeps.upd

theorem State.commitAt_keeps {r₀ s : State} (h0 : Keeps r₀ s) (c : Cmd) (st : Status) (detail : BitVec 16) (time : Nat) (epoch : BitVec 32) :
    Keeps r₀ (State.commitAt s c st detail time epoch) := by
  unfold State.commitAt
  extract_lets
  repeat' first
    | with_reducible assumption | with_reducible apply State.completion_keeps | with_reducible apply State.odAdd_keeps
      | with_reducible apply State.settleRing_keeps | with_reducible refine keeps_ite ?_ ?_ | with_reducible apply Keeps.upd

theorem State.commit_keeps {r₀ s : State} (h0 : Keeps r₀ s) (c : Cmd) (st : Status) (detail : BitVec 16) :
    Keeps r₀ (State.commit s c st detail) := by
  unfold State.commit
  repeat' first
    | with_reducible assumption | with_reducible apply State.commitAt_keeps

theorem State.startCmd_keeps {r₀ s : State} (h0 : Keeps r₀ s) (c : Cmd) :
    Keeps r₀ (State.startCmd s c).2 := by
  unfold State.startCmd
  extract_lets
  repeat' first
    | with_reducible assumption | with_reducible apply State.setCmd_keeps

theorem State.readCmd_keeps {r₀ s : State} (h0 : Keeps r₀ s) (r pos : Nat) :
    Keeps r₀ (State.readCmd s r pos).2 := by
  unfold State.readCmd
  extract_lets
  repeat' first
    | with_reducible assumption | with_reducible apply State.devRead_keeps

theorem State.nextHead_keeps {r₀ s : State} (h0 : Keeps r₀ s) (r : Nat) :
    Keeps r₀ (State.nextHead s r) := by
  unfold State.nextHead
  extract_lets
  repeat' first
    | with_reducible assumption | with_reducible apply State.setRing_keeps | with_reducible apply State.writeRingLine_keeps

theorem State.takeCmd_keeps {r₀ s : State} (h0 : Keeps r₀ s) (r : Nat) :
    Keeps r₀ (State.takeCmd s r) := by
  unfold State.takeCmd
  extract_lets
  repeat' first
    | with_reducible assumption | with_reducible apply State.commit_keeps | with_reducible apply State.nextHead_keeps
      | with_reducible apply State.readCmd_keeps | with_reducible refine keeps_ite ?_ ?_ | with_reducible apply Keeps.upd

theorem State.takeAll_keeps {r₀ : State} : ∀ (k : Nat) {s : State} (_ : Keeps r₀ s) ,
    Keeps r₀ (State.takeAll k s ) := by
  intro k
  induction k with
  | zero =>
    intro s h 
    unfold State.takeAll
    repeat' first
      | with_reducible assumption
  | succ k ih =>
    intro s h 
    unfold State.takeAll
    repeat' first
      | with_reducible assumption | with_reducible apply ih | with_reducible apply State.takeCmd_keeps | split

theorem State.pump_keeps {r₀ s : State} (h0 : Keeps r₀ s) :
    Keeps r₀ (State.pump s) := by
  unfold State.pump
  repeat' first
    | with_reducible assumption | with_reducible apply State.takeAll_keeps

theorem State.onCmd_keeps {r₀ s : State} (h0 : Keeps r₀ s) (serial : Nat) (op : BitVec 16) (f : State → Cmd → State) (hf_f : ∀ (x0 : State) (x1 : Cmd), Keeps r₀ x0 → Keeps r₀ (f x0 x1)) :
    Keeps r₀ (State.onCmd s serial op f) := by
  unfold State.onCmd
  repeat' first
    | with_reducible assumption | with_reducible apply hf_f | with_reducible apply State.pump_keeps
       | with_reducible refine keeps_ite ?_ ?_ | split

theorem State.rangeRefused_keeps {r₀ s : State} (h0 : Keeps r₀ s) (job : BitVec 16) (st : Option Status) (l : List (Nat × Status × BitVec 8)) :
    Keeps r₀ (State.rangeRefused s job st l) := by
  unfold State.rangeRefused
  repeat' first
    | with_reducible assumption | with_reducible apply State.keyRefused_keeps | with_reducible refine keeps_ite ?_ ?_
      | split

theorem State.newTail_keeps {r₀ s : State} (h0 : Keeps r₀ s) (ring tail : Nat) :
    Keeps r₀ (State.newTail s ring tail) := by
  unfold State.newTail
  extract_lets
  repeat' first
    | with_reducible assumption | with_reducible apply State.event_keeps | with_reducible apply State.pump_keeps
      | with_reducible apply State.setRing_keeps | with_reducible apply State.setRingState_keeps
      | with_reducible refine keeps_ite ?_ ?_

theorem State.newCqHead_keeps {r₀ s : State} (h0 : Keeps r₀ s) (cq head : Nat) :
    Keeps r₀ (State.newCqHead s cq head) := by
  unfold State.newCqHead
  extract_lets
  repeat' first
    | with_reducible assumption | with_reducible apply State.pump_keeps | with_reducible apply State.releaseCq_keeps
      | with_reducible apply State.setCq_keeps | with_reducible refine keeps_ite ?_ ?_

theorem execNopCommand_keeps {r₀ s : State} (h0 : Keeps r₀ s) (cmd : Nat) :
    OutKeeps r₀ (execNopCommand cmd s) := by
  unfold execNopCommand
  repeat' first
    | with_reducible assumption | with_reducible apply State.commit_keeps | with_reducible apply State.onCmd_keeps
      | with_reducible apply withRoom_keeps | with_reducible refine out_next ?_ | split | with_reducible intro _

theorem execTailLineWrite_keeps {r₀ s : State} (h0 : Keeps r₀ s) (ring : Nat) (tail : BitVec 32) :
    OutKeeps r₀ (execTailLineWrite ring tail s) := by
  unfold execTailLineWrite
  repeat' first
    | with_reducible assumption | with_reducible apply State.devWrite_keeps | with_reducible apply State.newTail_keeps
      | with_reducible apply withRoom_keeps | with_reducible refine out_next ?_ | split

theorem execCqHeadWrite_keeps {r₀ s : State} (h0 : Keeps r₀ s) (cq : Nat) (head : BitVec 32) :
    OutKeeps r₀ (execCqHeadWrite cq head s) := by
  unfold execCqHeadWrite
  repeat' first
    | with_reducible assumption | with_reducible apply State.devWrite_keeps | with_reducible apply State.newCqHead_keeps
      | with_reducible apply withRoom_keeps | with_reducible refine out_next ?_ | split

theorem State.setChannel_keeps {r₀ s : State} (h0 : Keeps r₀ s) (h : Nat) (x : Channel) :
    Keeps r₀ (State.setChannel s h x) := by
  unfold State.setChannel
  repeat' first
    | with_reducible assumption | with_reducible apply Keeps.upd

theorem State.hoStall_keeps {r₀ s : State} (h0 : Keeps r₀ s) (h : Nat) :
    Keeps r₀ (State.hoStall s h) := by
  unfold State.hoStall
  extract_lets
  repeat' first
    | with_reducible assumption | with_reducible apply State.odAdd_keeps | with_reducible apply State.setChannel_keeps | split

theorem State.endHandoff_keeps {r₀ s : State} (h0 : Keeps r₀ s) (h : Nat) (c : Cmd) (st : Status) (detail : Nat) :
    Keeps r₀ (State.endHandoff s h c st detail) := by
  unfold State.endHandoff
  extract_lets
  repeat' first
    | with_reducible assumption | with_reducible apply State.commit_keeps | with_reducible apply State.commitAt_keeps
      | with_reducible apply State.hoStall_keeps | with_reducible apply State.pump_keeps
      | with_reducible apply State.setChannel_keeps | split

theorem State.hoWrite_keeps {r₀ s : State} (h0 : Keeps r₀ s) (h : Nat) (job : BitVec 16) (a : Nat) (bs : List Byte) (pmask : BitVec 32) (own : TxOwner) :
    Keeps r₀ (State.hoWrite s h job a bs pmask own).2 := by
  unfold State.hoWrite
  repeat' first
    | with_reducible assumption | with_reducible apply State.openTx_keeps

theorem State.hoFailed_keeps {r₀ s : State} (h0 : Keeps r₀ s) (h : Nat) (c : Cmd) (x : Option Resp) :
    Keeps r₀ (State.hoFailed s h c x) := by
  unfold State.hoFailed
  repeat' first
    | with_reducible assumption | with_reducible apply State.endHandoff_keeps | with_reducible refine keeps_ite ?_ ?_ | split

theorem State.writeLine1_keeps {r₀ s : State} (h0 : Keeps r₀ s) (h : Nat) :
    Keeps r₀ (State.writeLine1 s h) := by
  unfold State.writeLine1
  extract_lets
  repeat' first
    | with_reducible assumption | with_reducible apply State.hoFailed_keeps | with_reducible apply State.hoWrite_keeps
      | with_reducible apply State.setChannel_keeps | with_reducible refine keeps_ite ?_ ?_ | (dsimp +zetaDelta only; split)

theorem State.lineGo_keeps {r₀ s : State} (h0 : Keeps r₀ s) (h : Nat) :
    Keeps r₀ (State.lineGo s h) := by
  unfold State.lineGo
  repeat' first
    | with_reducible assumption | with_reducible apply State.writeLine1_keeps | with_reducible refine keeps_ite ?_ ?_

theorem State.hoHand_keeps {r₀ : State} : ∀ (k : Nat) {s : State} (_ : Keeps r₀ s) (x0 : Nat) (x1 : Cmd),
    Keeps r₀ (State.hoHand k s x0 x1) := by
  intro k
  induction k with
  | zero =>
    intro s h x0 x1
    unfold State.hoHand
    repeat' first
      | with_reducible assumption
  | succ k ih =>
    intro s h x0 x1
    unfold State.hoHand
    try extract_lets
    repeat' first
      | with_reducible assumption | with_reducible apply ih | with_reducible apply State.devRead_keeps
         | with_reducible apply State.hoFailed_keeps | with_reducible apply State.hoWrite_keeps
         | with_reducible apply State.setChannel_keeps | with_reducible refine keeps_ite ?_ ?_

theorem State.hoProgress_keeps {r₀ s : State} (h0 : Keeps r₀ s) (h : Nat) (c : Cmd) :
    Keeps r₀ (State.hoProgress s h c) := by
  unfold State.hoProgress
  extract_lets
  repeat' first
    | with_reducible assumption | with_reducible apply State.endHandoff_keeps | with_reducible apply State.hoFailed_keeps
      | with_reducible apply State.hoWrite_keeps | with_reducible apply State.setChannel_keeps
      | with_reducible refine keeps_ite ?_ ?_

theorem State.hoGo_keeps {r₀ s : State} (h0 : Keeps r₀ s) (h : Nat) (c : Cmd) :
    Keeps r₀ (State.hoGo s h c) := by
  unfold State.hoGo
  repeat' first
    | with_reducible assumption | with_reducible apply State.hoHand_keeps | with_reducible apply State.hoProgress_keeps
       | with_reducible apply State.hoStall_keeps

theorem State.hoMatch_keeps {r₀ s : State} (h0 : Keeps r₀ s) (h : Nat) (c : Cmd) :
    Keeps r₀ (State.hoMatch s h c) := by
  unfold State.hoMatch
  extract_lets
  repeat' first
    | with_reducible assumption | with_reducible apply State.endHandoff_keeps | with_reducible apply State.event_keeps
       | with_reducible apply State.hoStall_keeps | with_reducible apply State.setChannel_keeps
       | with_reducible refine keeps_ite ?_ ?_

theorem State.readLine1_keeps {r₀ s : State} (h0 : Keeps r₀ s) (h : Nat) :
    Keeps r₀ (State.readLine1 s h).2 := by
  unfold State.readLine1
  extract_lets
  repeat' first
    | with_reducible assumption | with_reducible apply State.devRead_keeps

theorem State.startSend_keeps {r₀ s : State} (h0 : Keeps r₀ s) (h : Nat) (c : Cmd) :
    Keeps r₀ (State.startSend s h c) := by
  unfold State.startSend
  extract_lets
  repeat' first
    | with_reducible assumption | with_reducible apply State.hoMatch_keeps | with_reducible apply State.readLine1_keeps
       | with_reducible apply State.setChannel_keeps | with_reducible apply State.startCmd_keeps

theorem State.recvCheck_keeps {r₀ s : State} (h0 : Keeps r₀ s) (h : Nat) (c : Cmd) :
    Keeps r₀ (State.recvCheck s h c) := by
  unfold State.recvCheck
  extract_lets
  repeat' first
    | with_reducible assumption | with_reducible apply State.devRead_keeps | with_reducible apply State.endHandoff_keeps
       | with_reducible refine keeps_ite ?_ ?_

theorem State.startRecv_keeps {r₀ s : State} (h0 : Keeps r₀ s) (h : Nat) (c : Cmd) :
    Keeps r₀ (State.startRecv s h c) := by
  unfold State.startRecv
  extract_lets
  repeat' first
    | with_reducible assumption | with_reducible apply State.recvCheck_keeps | with_reducible apply State.setChannel_keeps
       | with_reducible apply State.startCmd_keeps | with_reducible apply State.writeLine1_keeps

theorem State.hoNextFuel_keeps {r₀ : State} : ∀ (k : Nat) {s : State} (_ : Keeps r₀ s) (x0 : Nat),
    Keeps r₀ (State.hoNextFuel k s x0) := by
  intro k
  induction k with
  | zero =>
    intro s h x0
    unfold State.hoNextFuel
    repeat' first
      | with_reducible assumption
  | succ k ih =>
    intro s h x0
    unfold State.hoNextFuel
    repeat' first
      | with_reducible assumption | with_reducible apply ih | with_reducible apply State.commit_keeps
         | with_reducible apply State.pump_keeps | with_reducible apply State.startRecv_keeps
         | with_reducible apply State.startSend_keeps | with_reducible refine keeps_ite ?_ ?_ | split

theorem State.hoNext_keeps {r₀ s : State} (h0 : Keeps r₀ s) (h : Nat) :
    Keeps r₀ (State.hoNext s h) := by
  unfold State.hoNext
  repeat' first
    | with_reducible assumption | with_reducible apply State.hoNextFuel_keeps

theorem State.hoStopped_keeps {r₀ s : State} (h0 : Keeps r₀ s) (h : Nat) (cause value : Nat) :
    Keeps r₀ (State.hoStopped s h cause value) := by
  unfold State.hoStopped
  extract_lets
  repeat' first
    | with_reducible assumption | with_reducible apply State.endHandoff_keeps | with_reducible apply State.event_keeps
       | with_reducible apply State.odSet_keeps | split

theorem State.consumed_keeps {r₀ s : State} (h0 : Keeps r₀ s) (h : Nat) (v : Nat) :
    Keeps r₀ (State.consumed s h v) := by
  unfold State.consumed
  extract_lets
  repeat' first
    | with_reducible assumption | with_reducible apply State.devRead_keeps | with_reducible apply State.hoStopped_keeps
       | with_reducible apply State.setChannel_keeps | with_reducible apply State.writeLine1_keeps
       | with_reducible refine keeps_ite ?_ ?_

theorem State.limited_keeps {r₀ s : State} (h0 : Keeps r₀ s) (h : Nat) (v : Nat) (posted : BitVec 32) :
    Keeps r₀ (State.limited s h v posted) := by
  unfold State.limited
  extract_lets
  repeat' first
    | with_reducible assumption | with_reducible apply State.hoMatch_keeps | with_reducible apply State.hoStall_keeps
       | with_reducible apply State.hoStopped_keeps | with_reducible apply State.setChannel_keeps
       | with_reducible refine keeps_ite ?_ ?_ | (dsimp +zetaDelta only; split)

theorem State.newLine1_keeps {r₀ s : State} (h0 : Keeps r₀ s) (h v : Nat) (posted : BitVec 32) :
    Keeps r₀ (State.newLine1 s h v posted) := by
  unfold State.newLine1
  repeat' first
    | with_reducible assumption | with_reducible apply State.consumed_keeps | with_reducible apply State.hoNext_keeps
      | with_reducible apply State.limited_keeps | with_reducible refine keeps_ite ?_ ?_

theorem State.nfCount_keeps {r₀ s : State} (h0 : Keeps r₀ s) (tclass : BitVec 8) (n srcType srcInst : Nat) :
    Keeps r₀ (State.nfCount s tclass n srcType srcInst) := by
  unfold State.nfCount
  extract_lets
  repeat' first
    | with_reducible assumption | with_reducible apply State.event_keeps | with_reducible apply State.odSet_keeps
       | with_reducible refine keeps_ite ?_ ?_ | with_reducible apply Keeps.upd

theorem State.opPoisoned_keeps {r₀ s : State} (h0 : Keeps r₀ s) (core : Nat) (o : MxOp) (off : Nat) :
    Keeps r₀ (State.opPoisoned s core o off) := by
  unfold State.opPoisoned
  repeat' first
    | with_reducible assumption | with_reducible apply State.event_keeps | with_reducible apply State.odAdd_keeps | split

theorem State.endOp_keeps {r₀ s : State} (h0 : Keeps r₀ s) (core : Nat) (o : MxOp) (r : OpResult) :
    Keeps r₀ (State.endOp s core o r) := by
  unfold State.endOp
  extract_lets
  repeat' first
    | with_reducible assumption | with_reducible apply State.opPoisoned_keeps | with_reducible apply State.setCore_keeps
       | with_reducible apply State.wakeCore_keeps | with_reducible refine keeps_ite ?_ ?_

theorem execUadd_keeps {r₀ s : State} (h0 : Keeps r₀ s) (g : GroupRef) (f : BitVec 48) :
    OutKeeps r₀ (execUadd g f s) := by
  unfold execUadd
  extract_lets
  repeat' first
    | with_reducible assumption | with_reducible apply groupOnly_keeps | with_reducible apply issued_keeps
       | with_reducible intro _

theorem execUmovi_keeps {r₀ s : State} (h0 : Keeps r₀ s) (g : GroupRef) (f : BitVec 48) :
    OutKeeps r₀ (execUmovi g f s) := by
  unfold execUmovi
  extract_lets
  repeat' first
    | with_reducible assumption | with_reducible apply groupOnly_keeps | with_reducible apply issued_keeps
       | with_reducible intro _

theorem execU2v_keeps {r₀ s : State} (h0 : Keeps r₀ s) (g : GroupRef) (f : BitVec 48) :
    OutKeeps r₀ (execU2v g f s) := by
  unfold execU2v
  extract_lets
  repeat' first
    | with_reducible assumption | with_reducible apply checked_keeps | with_reducible apply groupOnly_keeps
       | with_reducible apply issued_keeps | with_reducible intro _

theorem execV2u_keeps {r₀ s : State} (h0 : Keeps r₀ s) (g : GroupRef) (f : BitVec 48) :
    OutKeeps r₀ (execV2u g f s) := by
  unfold execV2u
  extract_lets
  repeat' first
    | with_reducible assumption | with_reducible apply checked_keeps | with_reducible apply groupOnly_keeps
       | with_reducible apply issued_keeps | with_reducible intro _

theorem execS2u_keeps {r₀ s : State} (h0 : Keeps r₀ s) (g : GroupRef) (f : BitVec 48) :
    OutKeeps r₀ (execS2u g f s) := by
  unfold execS2u
  extract_lets
  repeat' first
    | with_reducible assumption | with_reducible exact issue_exc _ | with_reducible apply groupOnly_keeps
       | with_reducible apply issued_keeps | split | with_reducible intro _

theorem execS2v_keeps {r₀ s : State} (h0 : Keeps r₀ s) (g : GroupRef) (f : BitVec 48) :
    OutKeeps r₀ (execS2v g f s) := by
  unfold execS2v
  extract_lets
  repeat' first
    | with_reducible assumption | with_reducible apply checked_keeps | with_reducible apply groupOnly_keeps
       | with_reducible apply issued_keeps | with_reducible intro _

theorem execDld_keeps {r₀ s : State} (h0 : Keeps r₀ s) (g : GroupRef) (f : BitVec 48) :
    OutKeeps r₀ (execDld g f s) := by
  unfold execDld
  extract_lets
  repeat' first
    | with_reducible assumption | with_reducible exact issue_exc _ | with_reducible apply State.readNat_keeps
      | with_reducible apply groupOnly_keeps | with_reducible apply issued_keeps | with_reducible refine issue_excAfter ?_
      | dsimp only | split | with_reducible intro _

theorem asyncIssue_keeps {r₀ s : State} (h0 : Keeps r₀ s) (g : GroupRef) (w : BitVec 64) (cls : Nat) (badField : Bool) (plan : State → Group → AsyncPlan) (begin_ : State → State) (hf_begin_ : ∀ (x0 : State), Keeps r₀ x0 → Keeps r₀ (begin_ x0)) :
    OutKeeps r₀ (asyncIssue g w cls badField plan begin_ s) := by
  unfold asyncIssue
  extract_lets
  repeat' first
    | with_reducible assumption | with_reducible exact issue_exc _ | with_reducible apply hf_begin_
       | with_reducible apply State.setCore_keeps | with_reducible apply State.setGroup_keeps
       | with_reducible apply issued_keeps | with_reducible refine issue_done ?_ | dsimp only | split | with_reducible intro _

theorem execMxWld_keeps {r₀ s : State} (h0 : Keeps r₀ s) (g : GroupRef) (f : BitVec 48) :
    OutKeeps r₀ (execMxWld g f s) := by
  unfold execMxWld
  extract_lets
  repeat' first
    | with_reducible assumption | with_reducible apply asyncIssue_keeps | with_reducible intro _

theorem execMxMma_keeps {r₀ s : State} (h0 : Keeps r₀ s) (g : GroupRef) (f : BitVec 48) :
    OutKeeps r₀ (execMxMma g f s) := by
  unfold execMxMma
  extract_lets
  repeat' first
    | with_reducible assumption | with_reducible apply asyncIssue_keeps | with_reducible intro _

theorem execMxDrn_keeps {r₀ s : State} (h0 : Keeps r₀ s) (g : GroupRef) (f : BitVec 48) :
    OutKeeps r₀ (execMxDrn g f s) := by
  unfold execMxDrn
  extract_lets
  repeat' first
    | with_reducible assumption | with_reducible apply asyncIssue_keeps | with_reducible intro _

theorem execTwait_keeps {r₀ s : State} (h0 : Keeps r₀ s) (g : GroupRef) (f : BitVec 48) :
    OutKeeps r₀ (execTwait g f s) := by
  unfold execTwait
  extract_lets
  repeat' first
    | with_reducible assumption | with_reducible exact issue_exc _ | with_reducible apply State.setGroup_keeps
       | with_reducible apply State.twaitDone_keeps | with_reducible apply groupOnly_keeps | with_reducible apply issued_keeps
       | with_reducible refine issue_done ?_ | dsimp only | split | with_reducible intro _

theorem execTtest_keeps {r₀ s : State} (h0 : Keeps r₀ s) (g : GroupRef) (f : BitVec 48) :
    OutKeeps r₀ (execTtest g f s) := by
  unfold execTtest
  extract_lets
  repeat' first
    | with_reducible assumption | with_reducible exact issue_exc _ | with_reducible apply groupOnly_keeps
       | with_reducible apply issued_keeps | dsimp only | split | with_reducible intro _

theorem State.opWord_keeps {r₀ s : State} (h0 : Keeps r₀ s) (o : MxOp) (w : Nat) :
    Keeps r₀ (State.opWord s o w).2 := by
  unfold State.opWord
  repeat' first
    | with_reducible assumption | with_reducible apply State.fresh_keeps | with_reducible apply State.readWord_keeps | split

theorem State.opWords_keeps {r₀ s : State} (h : Keeps r₀ s) (o : MxOp) (l : List Nat) :
    Keeps r₀ (State.opWords s o l).2 := by
  induction l generalizing s o with
  | nil =>
    unfold State.opWords
    repeat' first
      | with_reducible assumption
  | cons a l ih =>
    unfold State.opWords
    try extract_lets
    repeat' first
      | with_reducible assumption | with_reducible apply ih | with_reducible apply State.opWord_keeps

theorem rd_keeps {r₀ : State} {q : List (BitVec 64 × Bool) × State} (h : Keeps r₀ q.2) (f : List (BitVec 64 × Bool) → Rd) :
    Keeps r₀ (let r := q; ((f r.1, r.2) : Rd × State)).2 := h
theorem State.opRead_keeps {r₀ s : State} (h0 : Keeps r₀ s) (core : Nat) (o : MxOp) (off n : Nat) :
    Keeps r₀ (State.opRead s core o off n).2 :=
  rd_keeps (State.opWords_keeps h0 o (spanWords (localBase core + off) n))
    fun x => ⟨off / 8 * 8, wordsNat x, x.map (·.2)⟩

theorem rd2_keeps {γ : Type} {r₀ : State} {q : Rd × State} (h : Keeps r₀ q.2) (f : Rd → γ) :
    Keeps r₀ (let r := q; ((f r.1, r.2) : γ × State)).2 := h
theorem State.opByte_keeps {r₀ s : State} (h0 : Keeps r₀ s) (core : Nat) (o : MxOp) (off : Nat) :
    Keeps r₀ (State.opByte s core o off).2 :=
  rd2_keeps (State.opRead_keeps h0 core o off 1) fun x => (BitVec.ofNat 8 (x.get (off % 8 * 8) 8), x.bad (off % 8 * 8) 8)

theorem State.opBytes_keeps {r₀ s : State} (h : Keeps r₀ s) (core : Nat) (o : MxOp) (l : List Nat) :
    Keeps r₀ (State.opBytes s core o l).2 := by
  induction l generalizing s core o with
  | nil =>
    unfold State.opBytes
    repeat' first
      | with_reducible assumption
  | cons a l ih =>
    unfold State.opBytes
    try extract_lets
    repeat' first
      | with_reducible assumption | with_reducible apply ih | with_reducible apply State.opByte_keeps

theorem State.checkStored_keeps {r₀ s : State} (h0 : Keeps r₀ s) (st : Storage) (core idx : Nat) (x : CodeWord) (put : CodeWord → State → State) (hf_put : ∀ (x0 : CodeWord) (x1 : State), Keeps r₀ x1 → Keeps r₀ (put x0 x1)) :
    Keeps r₀ (State.checkStored s st core idx x put).2 := by
  unfold State.checkStored
  repeat' first
    | with_reducible assumption | with_reducible apply hf_put | with_reducible apply State.memCE_keeps
       | with_reducible apply State.memUE_keeps | split

theorem State.putWbuf_keeps {r₀ s : State} (h0 : Keeps r₀ s) (core key : Nat) (x : CodeWord) :
    Keeps r₀ (State.putWbuf core key x s) := by
  unfold State.putWbuf
  extract_lets
  repeat' first
    | with_reducible assumption | with_reducible apply State.setCore_keeps

theorem State.readColumn_keeps {r₀ s : State} (h : Keeps r₀ s) (core col : Nat) (l : Nat) :
    Keeps r₀ (State.readColumn s core col l).2 := by
  induction l generalizing s core col with
  | zero =>
    unfold State.readColumn
    repeat' first
      | with_reducible assumption
  | succ l ih =>
    unfold State.readColumn
    try extract_lets
    repeat' first
      | with_reducible assumption | with_reducible apply ih | with_reducible apply State.checkStored_keeps
         | with_reducible apply State.putWbuf_keeps | with_reducible intro _

theorem State.weightColumn_keeps {r₀ s : State} (h0 : Keeps r₀ s) (core array half col : Nat) (fmt : BitVec 4) (kp : Nat) :
    Keeps r₀ (State.weightColumn s core array half col fmt kp).2 := by
  unfold State.weightColumn
  extract_lets
  repeat' first
    | with_reducible assumption | with_reducible apply State.readColumn_keeps

theorem State.putAcc_keeps {r₀ s : State} (h0 : Keeps r₀ s) (core key : Nat) (x : CodeWord) :
    Keeps r₀ (State.putAcc core key x s) := by
  unfold State.putAcc
  extract_lets
  repeat' first
    | with_reducible assumption | with_reducible apply State.setCore_keeps

theorem State.readAccGroup_keeps {r₀ s : State} (h : Keeps r₀ s) (core q : Nat) (l : Nat) :
    Keeps r₀ (State.readAccGroup s core q l).2 := by
  induction l generalizing s core q with
  | zero =>
    unfold State.readAccGroup
    repeat' first
      | with_reducible assumption
  | succ l ih =>
    unfold State.readAccGroup
    try extract_lets
    repeat' first
      | with_reducible assumption | with_reducible apply ih | with_reducible apply State.checkStored_keeps
         | with_reducible apply State.putAcc_keeps | with_reducible apply State.setCore_keeps
         | with_reducible refine keeps_ite ?_ ?_ | with_reducible intro _

theorem State.readPair_keeps {r₀ s : State} (h0 : Keeps r₀ s) (core n : Nat) :
    Keeps r₀ (State.readPair s core n).2 := by
  unfold State.readPair
  extract_lets
  repeat' first
    | with_reducible assumption | with_reducible apply State.readAccGroup_keeps

theorem State.writePair_keeps {r₀ s : State} (h0 : Keeps r₀ s) (core n : Nat) (bits : BitVec 80) (mark : Bool) :
    Keeps r₀ (State.writePair s core n bits mark) := by
  unfold State.writePair
  extract_lets
  repeat' first
    | with_reducible assumption | with_reducible apply State.setCore_keeps

theorem Piece.read_keeps {r₀ s : State} (h0 : Keeps r₀ s) (p : Piece) :
    Keeps r₀ (Piece.read p s).2 := by
  unfold Piece.read
  repeat' first
    | with_reducible assumption | with_reducible apply State.mergeRead_keeps | split

theorem State.putPieces_keeps {r₀ s : State} (h0 : Keeps r₀ s) (owner : Nat) (ps : List Piece) :
    Keeps r₀ (State.putPieces s owner ps) := by
  unfold State.putPieces
  repeat' first
    | with_reducible assumption | with_reducible apply Piece.read_keeps | with_reducible apply State.engineWrite_keeps
      | with_reducible refine keeps_foldl _ ?_ _ _ ?_ | with_reducible intro _

theorem State.undo_keeps {r₀ s : State} (h0 : Keeps r₀ s) (owner : Nat) :
    Keeps r₀ (State.undo s owner) := by
  unfold State.undo
  repeat' first
    | with_reducible assumption | with_reducible apply State.setRaw_keeps | with_reducible apply State.settle_keeps
       | with_reducible refine keeps_foldl _ ?_ _ _ ?_ | with_reducible intro _

theorem State.finalPieces_keeps {r₀ s : State} (h0 : Keeps r₀ s) (own : List RacyWord) (ps : List Piece) :
    Keeps r₀ (State.finalPieces s own ps) := by
  unfold State.finalPieces
  repeat' first
    | with_reducible assumption | with_reducible apply Piece.read_keeps | with_reducible apply State.noteOld_keeps
      | with_reducible apply State.setRaw_keeps | with_reducible refine keeps_foldl _ ?_ _ _ ?_ | split
      | with_reducible intro _

theorem wldTail_keeps {r₀ : State} (core : Nat) (o : MxOp) (a : (Option Nat × Nat) × State) (q : Nat × Nat × Nat)
    (r : Rd × State) (h1 : Keeps r₀ r.2) : Keeps r₀ (
  let sc := if fmtIsMx (tFmt o.d0) then
      r.2.opBytes core o ((List.range ((tLen o.d0 + 31) / 32)).map fun j => tScaleBase o.d0 + q.2.2 * tScaleStride o.d0 + j)
    else ([], r.2)
  let es := (List.range (tLen o.d0)).map fun k => r.1.elem (tFmt o.d0) (fmtBits (tFmt o.d0) * k) (scaleAt sc.1 k)
  let c := sc.2.core core
  (((firstBad (a.1.1 :: es.map (·.bad)), a.1.2 + nonFinite es),
    sc.2.setCore core (c.loadColumn (colKey q.1 (fWhalf o.word) q.2.1) (tFmt o.d0) es sc.1)) : (Option Nat × Nat) × State)).2 := by
  extract_lets sc es c
  have h2 : Keeps r₀ sc.2 := by
    dsimp +zetaDelta only
    split
    · exact State.opBytes_keeps h1 core o _
    · exact h1
  clear_value sc
  exact State.setCore_keeps h2 core _
theorem wldColumn_keeps {r₀ : State} (core : Nat) (o : MxOp) (a : (Option Nat × Nat) × State) (q : Nat × Nat × Nat)
    (h : Keeps r₀ a.2) : Keeps r₀ (wldColumn core o a q).2 :=
  wldTail_keeps core o a q _ (State.opRead_keeps h core o (dBase o.d0 + q.2.2 * tStride o.d0) (rowBytes (tFmt o.d0) (tLen o.d0)))

theorem runWld_keeps {r₀ s : State} (h0 : Keeps r₀ s) (core : Nat) (o : MxOp) :
    Keeps r₀ (runWld core o s).2 := by
  unfold runWld
  extract_lets
  repeat' first
    | with_reducible assumption | with_reducible apply State.nfCount_keeps | with_reducible apply wldColumn_keeps
       | with_reducible refine keeps_foldl2 _ ?_ _ _ ?_

theorem actTail_keeps {r₀ : State} (core : Nat) (o : MxOp) (t : Stream) (m : Nat)
    (r : Rd × State) (h1 : Keeps r₀ r.2) : Keeps r₀ (
  (List.range t.parts).foldl (fun (a : List ActRow × State) p =>
    let sc := if fmtIsMx (tFmt o.d0) then
        a.2.opBytes core o ((List.range ((t.kp + 31) / 32)).map fun j =>
          tScaleBase o.d0 + m * tScaleStride o.d0 + j * t.parts + p)
      else ([], a.2)
    let es := (List.range t.kp).map fun k =>
      r.1.elem (tFmt o.d0) (8 * (k / t.elems * t.bytes + t.bytes / t.parts * p) + k % t.elems * fmtBits (tFmt o.d0)) (scaleAt sc.1 k)
    (a.1 ++ [⟨es, sc.1⟩], sc.2)) ([], r.2)).2 := by
  refine keeps_foldl2 _ ?_ _ _ h1
  intro a p h
  extract_lets sc es
  have h2 : Keeps r₀ sc.2 := by
    dsimp +zetaDelta only
    split
    · exact State.opBytes_keeps h core o _
    · exact h
  clear_value sc
  exact h2
theorem State.actRow_keeps {r₀ s : State} (h0 : Keeps r₀ s) (core : Nat) (o : MxOp) (t : Stream) (m : Nat) :
    Keeps r₀ (State.actRow s core o t m).2 :=
  actTail_keeps core o t m _ (State.opRead_keeps h0 core o (dBase o.d0 + m * tStride o.d0) t.rowBytes)

theorem mmaColumn_keeps {r₀  : State}  (core : Nat) (o : MxOp) (t : Stream) (heritage : Bool) (p m : Nat) (acts : List ActRow) (a : MmaAcc × State) (q : Nat × Nat)  (hp0 : Keeps r₀ a.2) :
    Keeps r₀ (mmaColumn core o t heritage p m acts a q).2 := by
  unfold mmaColumn
  extract_lets
  repeat' first
    | with_reducible assumption | with_reducible apply State.fresh_keeps | with_reducible apply State.readPair_keeps
       | with_reducible apply State.weightColumn_keeps | with_reducible apply State.writePair_keeps | split
       | (dsimp +zetaDelta only; split)

theorem mmaRow_keeps {r₀  : State} (core : Nat) (o : MxOp) (t : Stream) (heritage : Bool) (p : Nat) (a : (MmaAcc × List (Rd × List ActRow) × Nat) × State) (m : Nat) (hp0 : Keeps r₀ a.2) :
    Keeps r₀ (mmaRow core o t heritage p a m).2 := by
  unfold mmaRow
  extract_lets
  repeat' first
    | with_reducible assumption | with_reducible apply State.actRow_keeps | with_reducible apply mmaColumn_keeps
      | with_reducible refine keeps_foldl2 _ ?_ _ _ ?_

theorem runMma_keeps {r₀ s : State} (h0 : Keeps r₀ s) (core : Nat) (o : MxOp) :
    Keeps r₀ (runMma core o s).2 := by
  unfold runMma
  extract_lets
  repeat' first
    | with_reducible assumption | with_reducible apply State.count_keeps | with_reducible apply State.nfCount_keeps
      | with_reducible apply State.odAdd_keeps | with_reducible apply mmaRow_keeps | with_reducible refine keeps_ite ?_ ?_
      | with_reducible refine keeps_foldl2 _ ?_ _ _ ?_ | dsimp only | split

theorem State.drnPairs_keeps {r₀ s : State} (h0 : Keeps r₀ s) (core : Nat) (o : MxOp) (m : Nat) :
    Keeps r₀ (State.drnPairs s core o m).2 := by
  unfold State.drnPairs
  repeat' first
    | with_reducible assumption | with_reducible apply State.readPair_keeps | with_reducible refine keeps_foldl2 _ ?_ _ _ ?_
       | dsimp only | with_reducible intro _

theorem State.tensorRow_keeps {r₀ s : State} (h0 : Keeps r₀ s) (core : Nat) (o : MxOp) (d : BitVec 256) (m n : Nat) :
    Keeps r₀ (State.tensorRow s core o d m n).2 :=
  rd2_keeps (State.opRead_keeps h0 core o (dBase d + m * tStride d) (rowBytes (tFmt d) n))
    fun x => (List.range n).map fun k => x.elem (tFmt d) (fmtBits (tFmt d) * k) (0x7F, none)

theorem drnStatsRow_keeps {r₀  : State}  (core : Nat) (o : MxOp) (m : Nat) (pairs : List (Val × Val × Bool)) (ys : List Elem) (bad : List (Option Nat)) (mode : Nat → RMode) (a : OutAcc × State)  (hp0 : Keeps r₀ a.2) :
    Keeps r₀ (drnStatsRow core o m pairs ys bad mode a).2 := by
  unfold drnStatsRow
  extract_lets
  repeat' first
    | with_reducible assumption | split

theorem drnPlainRow_keeps {r₀  : State}  (core : Nat) (o : MxOp) (m : Nat) (pairs : List (Val × Val × Bool)) (ys : List Elem) (bad : List (Option Nat)) (mode : Nat → RMode) (a : OutAcc × State)  (hp0 : Keeps r₀ a.2) :
    Keeps r₀ (drnPlainRow core o m pairs ys bad mode a).2 := by
  unfold drnPlainRow
  extract_lets
  repeat' first
    | with_reducible assumption | split

theorem drnRow_keeps {r₀  : State}  (core : Nat) (o : MxOp) (a : OutAcc × State) (m : Nat)  (hp0 : Keeps r₀ a.2) :
    Keeps r₀ (drnRow core o a m).2 := by
  unfold drnRow
  extract_lets
  repeat' first
    | with_reducible assumption | with_reducible apply State.drnPairs_keeps | with_reducible apply State.tensorRow_keeps
       | with_reducible apply drnPlainRow_keeps | with_reducible apply drnStatsRow_keeps | split | (dsimp +zetaDelta only; split)

theorem runDrn_keeps {r₀ s : State} (h0 : Keeps r₀ s) (core : Nat) (o : MxOp) :
    Keeps r₀ (runDrn core o s).2 := by
  unfold runDrn
  repeat' first
    | with_reducible assumption | with_reducible apply drnRow_keeps | with_reducible refine keeps_foldl2 _ ?_ _ _ ?_

theorem State.setOp_keeps {r₀ s : State} (h0 : Keeps r₀ s) (core : Nat) (o : MxOp) :
    Keeps r₀ (State.setOp s core o) := by
  unfold State.setOp
  extract_lets
  repeat' first
    | with_reducible assumption | with_reducible apply State.setCore_keeps

theorem State.runOp_keeps {r₀ s : State} (h0 : Keeps r₀ s) (core : Nat) (o : MxOp) :
    Keeps r₀ (State.runOp s core o) := by
  unfold State.runOp
  repeat' first
    | with_reducible assumption | with_reducible apply State.setCore_keeps | with_reducible apply State.setOp_keeps
      | with_reducible apply runMma_keeps | with_reducible apply runWld_keeps | with_reducible refine keeps_ite ?_ ?_
      | dsimp only | split

theorem State.runOps_keeps {r₀ s : State} (h0 : Keeps r₀ s) (core : Nat) (l : List MxOp) :
    Keeps r₀ (State.runOps s core l) := by
  unfold State.runOps
  repeat' first
    | with_reducible assumption | with_reducible apply State.runOp_keeps | with_reducible refine keeps_foldl _ ?_ _ _ ?_
       | with_reducible intro _

theorem State.startOp_keeps {r₀ s : State} (h0 : Keeps r₀ s) (core tok : Nat) :
    Keeps r₀ (State.startOp s core tok) := by
  unfold State.startOp
  repeat' first
    | with_reducible assumption | with_reducible apply State.setOp_keeps | split

theorem execMxWldStart_keeps {r₀ s : State} (h0 : Keeps r₀ s) (core tok : Nat) :
    OutKeeps r₀ (execMxWldStart core tok s) := by
  unfold execMxWldStart
  repeat' first
    | with_reducible assumption | with_reducible apply State.runOps_keeps | with_reducible apply State.startOp_keeps
      | with_reducible apply withRoom_keeps | with_reducible refine out_next ?_ | dsimp only | split

theorem execMxWldDone_keeps {r₀ s : State} (h0 : Keeps r₀ s) (core tok : Nat) :
    OutKeeps r₀ (execMxWldDone core tok s) := by
  unfold execMxWldDone
  extract_lets
  repeat' first
    | with_reducible assumption | with_reducible apply State.endOp_keeps | with_reducible apply State.runOp_keeps
      | with_reducible apply State.runOps_keeps | with_reducible apply withRoom_keeps | with_reducible refine out_next ?_
      | dsimp only | split

theorem execMxMmaStart_keeps {r₀ s : State} (h0 : Keeps r₀ s) (core tok : Nat) :
    OutKeeps r₀ (execMxMmaStart core tok s) := by
  unfold execMxMmaStart
  repeat' first
    | with_reducible assumption | with_reducible apply State.runOps_keeps | with_reducible apply State.startOp_keeps
      | with_reducible apply withRoom_keeps | with_reducible refine out_next ?_ | dsimp only | split

theorem execMxMmaDone_keeps {r₀ s : State} (h0 : Keeps r₀ s) (core tok : Nat) :
    OutKeeps r₀ (execMxMmaDone core tok s) := by
  unfold execMxMmaDone
  repeat' first
    | with_reducible assumption | with_reducible apply State.endOp_keeps | with_reducible apply State.runOp_keeps
      | with_reducible apply State.setCore_keeps | with_reducible apply withRoom_keeps
      | with_reducible refine keeps_ite ?_ ?_ | with_reducible refine out_next ?_ | dsimp only | split

theorem execMxDrnStart_keeps {r₀ s : State} (h0 : Keeps r₀ s) (core tok : Nat) :
    OutKeeps r₀ (execMxDrnStart core tok s) := by
  unfold execMxDrnStart
  repeat' first
    | with_reducible assumption | with_reducible apply State.putPieces_keeps | with_reducible apply State.startOp_keeps
      | with_reducible apply runDrn_keeps | with_reducible apply withRoom_keeps | with_reducible refine out_next ?_
      | dsimp only | split

theorem State.countBeats_keeps {r₀ s : State} (h0 : Keeps r₀ s) (core n cls : Nat) :
    Keeps r₀ (State.countBeats s core n cls) := by
  unfold State.countBeats
  extract_lets
  repeat' first
    | with_reducible assumption | with_reducible apply State.count_keeps

theorem execMxDrnDone_keeps {r₀ s : State} (h0 : Keeps r₀ s) (core tok : Nat) :
    OutKeeps r₀ (execMxDrnDone core tok s) := by
  unfold execMxDrnDone
  extract_lets
  repeat' first
    | with_reducible assumption | with_reducible apply State.countBeats_keeps | with_reducible apply State.endOp_keeps
      | with_reducible apply State.finalPieces_keeps | with_reducible apply State.nfCount_keeps
      | with_reducible apply State.undo_keeps | with_reducible apply runDrn_keeps | with_reducible apply withRoom_keeps
      | with_reducible refine out_next ?_ | dsimp only | split

theorem execArrayWake_keeps {r₀ s : State} (h0 : Keeps r₀ s) (core array : Nat) :
    OutKeeps r₀ (execArrayWake core array s) := by
  unfold execArrayWake
  extract_lets
  repeat' first
    | with_reducible assumption | with_reducible apply State.advanceTo_keeps | with_reducible apply State.setCore_keeps
       | with_reducible refine out_next ?_ | split | with_reducible apply Keeps.upd

theorem execArrayGate_keeps {r₀ s : State} (h0 : Keeps r₀ s) (core array : Nat) :
    OutKeeps r₀ (execArrayGate core array s) := by
  unfold execArrayGate
  extract_lets
  repeat' first
    | with_reducible assumption | with_reducible apply State.advanceTo_keeps | with_reducible apply State.setCore_keeps
       | with_reducible refine out_next ?_ | split

theorem chainTail_keeps {r₀ : State} (core : Nat) (o : MxOp) (m : Nat) (r : Rd × State) (h1 : Keeps r₀ r.2) : Keeps r₀ (
  let sc := if fmtIsMx (tFmt o.d1) then
      r.2.opBytes core o ((List.range (tLen o.d1 / 32)).map fun j => tScaleBase o.d1 + m * tScaleStride o.d1 + j)
    else ([], r.2)
  ((List.range (tLen o.d1)).map fun k =>
    let e := r.1.elem (tFmt o.d1) (fmtBits (tFmt o.d1) * k) (scaleAt sc.1 k)
    if fmtIsMx (tFmt o.d1) then { e with val := e.val.mul (scaleVal (scaleAt sc.1 k).1) } else e, sc.2)).2 := by
  extract_lets sc
  have h2 : Keeps r₀ sc.2 := by
    dsimp +zetaDelta only
    split
    · exact State.opBytes_keeps h1 core o _
    · exact h1
  clear_value sc
  exact h2
theorem State.chainInput_keeps {r₀ s : State} (h0 : Keeps r₀ s) (core : Nat) (o : MxOp) (m : Nat) :
    Keeps r₀ (State.chainInput s core o m).2 :=
  chainTail_keeps core o m _ (State.opRead_keeps h0 core o (dBase o.d1 + m * tStride o.d1) (rowBytes (tFmt o.d1) (tLen o.d1)))

theorem State.chainScale_keeps {r₀ s : State} (h0 : Keeps r₀ s) (core : Nat) (o : MxOp) (m : Nat) :
    Keeps r₀ (State.chainScale s core o m).2 := by
  unfold State.chainScale
  extract_lets
  repeat' first
    | with_reducible assumption | with_reducible apply State.tensorRow_keeps | dsimp only | (dsimp +zetaDelta only; split)

theorem State.chainHeld_keeps {r₀ s : State} (h0 : Keeps r₀ s) (core : Nat) (o : MxOp) (m : Nat) :
    Keeps r₀ (State.chainHeld s core o m).2 := by
  have h1 : Keeps r₀ (let r := s.opRead core o (oStatsBase o.d2 + 32 * m) 32
    (((⟨BitVec.ofNat 32 (r.1.get 0 32), w40Val (BitVec.ofNat 40 (r.1.get 128 40)),
      w40Val (BitVec.ofNat 40 (r.1.get 192 40)), 0⟩, r.1.bad 0 256), r.2) : (RowState × Option Nat) × State)).2 :=
    rd2_keeps (State.opRead_keeps h0 core o (oStatsBase o.d2 + 32 * m) 32) fun x =>
      ((⟨BitVec.ofNat 32 (x.get 0 32), w40Val (BitVec.ofNat 40 (x.get 128 40)),
        w40Val (BitVec.ofNat 40 (x.get 192 40)), 0⟩ : RowState), x.bad 0 256)
  unfold State.chainHeld
  extract_lets d
  split
  · exact h1
  · exact h0

theorem State.chainRecord_keeps {r₀ s : State} (h0 : Keeps r₀ s) (d : BitVec 256) (addr : Nat) (r : RowState) (bad : Bool) :
    Keeps r₀ (State.chainRecord s d addr r bad).2 := by
  unfold State.chainRecord
  extract_lets
  repeat' first
    | with_reducible assumption | with_reducible apply State.fresh_keeps | split

theorem chainRow_keeps {r₀  : State} (core : Nat) (o : MxOp) (a : OutAcc × State) (m : Nat) (hp0 : Keeps r₀ a.2) :
    Keeps r₀ (chainRow core o a m).2 := by
  unfold chainRow
  extract_lets
  repeat' first
    | with_reducible assumption | with_reducible apply State.chainHeld_keeps | with_reducible apply State.chainInput_keeps
      | with_reducible apply State.chainRecord_keeps | with_reducible apply State.chainScale_keeps
      | with_reducible apply State.tensorRow_keeps | dsimp only | split | (dsimp +zetaDelta only; split)

theorem runChain_keeps {r₀ s : State} (h0 : Keeps r₀ s) (core : Nat) (o : MxOp) :
    Keeps r₀ (runChain core o s).2 := by
  unfold runChain
  repeat' first
    | with_reducible assumption | with_reducible apply chainRow_keeps | with_reducible refine keeps_foldl2 _ ?_ _ _ ?_

theorem State.startChain_keeps {r₀ s : State} (h0 : Keeps r₀ s) (core : Nat) :
    Keeps r₀ (State.startChain s core) := by
  unfold State.startChain
  repeat' first
    | with_reducible assumption | with_reducible apply State.putPieces_keeps | with_reducible apply State.startOp_keeps
       | with_reducible apply runChain_keeps | with_reducible refine keeps_ite ?_ ?_ | dsimp only | split

theorem execChRun_keeps {r₀ s : State} (h0 : Keeps r₀ s) (g : GroupRef) (f : BitVec 48) :
    OutKeeps r₀ (execChRun g f s) := by
  unfold execChRun
  extract_lets
  repeat' first
    | with_reducible assumption | with_reducible apply State.startChain_keeps | with_reducible apply asyncIssue_keeps
       | with_reducible intro _

theorem execChRunDone_keeps {r₀ s : State} (h0 : Keeps r₀ s) (core tok : Nat) :
    OutKeeps r₀ (execChRunDone core tok s) := by
  unfold execChRunDone
  extract_lets
  repeat' first
    | with_reducible assumption | with_reducible apply State.countBeats_keeps | with_reducible apply State.endOp_keeps
      | with_reducible apply State.finalPieces_keeps | with_reducible apply State.nfCount_keeps
      | with_reducible apply State.odAdd_keeps | with_reducible apply State.startChain_keeps
      | with_reducible apply State.undo_keeps | with_reducible apply runChain_keeps | with_reducible apply withRoom_keeps
      | with_reducible refine out_next ?_ | dsimp only | split

theorem State.setNfStep_keeps {r₀ s : State} (h0 : Keeps r₀ s) (i cause bucket : Nat) :
    Keeps r₀ (State.setNfStep s i cause bucket) := by
  unfold State.setNfStep
  repeat' first
    | with_reducible assumption | with_reducible apply State.event_keeps | with_reducible apply State.odSet_keeps
       | with_reducible refine keeps_ite ?_ ?_

theorem State.lossSpike_keeps {r₀ s : State} (h0 : Keeps r₀ s) (i reason : Nat) (x z : F32) :
    Keeps r₀ (State.lossSpike s i reason x z) := by
  unfold State.lossSpike
  extract_lets
  repeat' first
    | with_reducible assumption | with_reducible apply State.event_keeps | with_reducible apply State.odAdd_keeps
       | with_reducible apply State.setNfStep_keeps | with_reducible refine keeps_ite ?_ ?_

theorem State.lossSample_keeps {r₀ s : State} (h0 : Keeps r₀ s) (i : Nat) (x : F32) (poison : Bool) :
    Keeps r₀ (State.lossSample s i x poison) := by
  unfold State.lossSample
  extract_lets
  repeat' first
    | with_reducible assumption | with_reducible apply State.lossSpike_keeps | with_reducible apply State.odSet_keeps
       | with_reducible refine keeps_ite ?_ ?_

theorem State.samplePoint_keeps {r₀ s : State} (h0 : Keeps r₀ s) (i : Nat) :
    Keeps r₀ (State.samplePoint s i).2 := by
  unfold State.samplePoint
  extract_lets
  repeat' first
    | with_reducible assumption | with_reducible apply State.countSpan_keeps | with_reducible apply State.lossSample_keeps
       | with_reducible apply State.odSet_keeps | with_reducible apply State.readNat_keeps
       | with_reducible refine keeps_ite ?_ ?_ | dsimp only | with_reducible apply Keeps.upd

theorem State.ledgerRec_keeps {r₀ s : State} (h0 : Keeps r₀ s) (i e : Nat) :
    Keeps r₀ (State.ledgerRec s i e).2 := by
  unfold State.ledgerRec
  extract_lets
  repeat' first
    | with_reducible assumption | with_reducible apply State.countSpan_keeps | with_reducible apply State.readBytes_keeps

theorem State.putLedgerRec_keeps {r₀ s : State} (h0 : Keeps r₀ s) (i e : Nat) (r : LedgerRec) :
    Keeps r₀ (State.putLedgerRec s i e r) := by
  unfold State.putLedgerRec
  extract_lets
  repeat' first
    | with_reducible assumption | with_reducible apply State.coherentWrite_keeps
      | with_reducible apply State.countSpan_keeps | with_reducible apply State.writeWord_keeps
      | with_reducible refine keeps_foldl _ ?_ _ _ ?_ | with_reducible intro _

theorem State.setLedger_keeps {r₀ s : State} (h0 : Keeps r₀ s) (i : Nat) (l : Ledger) :
    Keeps r₀ (State.setLedger s i l) := by
  unfold State.setLedger
  extract_lets
  repeat' first
    | with_reducible assumption | with_reducible apply Keeps.upd

theorem State.ledgerE0_keeps {r₀ s : State} (h0 : Keeps r₀ s) (job : BitVec 16) (e : Nat) :
    Keeps r₀ (State.ledgerE0 s job e).2 := by
  unfold State.ledgerE0
  repeat' first
    | with_reducible assumption | with_reducible apply State.fresh_keeps | with_reducible apply State.readNat_keeps
       | dsimp only | split

theorem State.ledgerAmax_keeps {r₀ s : State} (h0 : Keeps r₀ s) (job : BitVec 16) (e : Nat) (amax : F32) :
    Keeps r₀ (State.ledgerAmax s job e amax) := by
  unfold State.ledgerAmax
  repeat' first
    | with_reducible assumption | with_reducible apply State.coherentWrite_keeps | with_reducible apply State.readNat_keeps
       | with_reducible apply State.writeNat_keeps | with_reducible refine keeps_ite ?_ ?_ | dsimp only | split

theorem State.setMirror_keeps {r₀ s : State} (h0 : Keeps r₀ s) (i : Nat) (m : Mirror) :
    Keeps r₀ (State.setMirror s i m) := by
  unfold State.setMirror
  extract_lets
  repeat' first
    | with_reducible assumption | with_reducible apply Keeps.upd

theorem State.mirrorDone_keeps {r₀ s : State} (h0 : Keeps r₀ s) (i : Nat) (st : Status) :
    Keeps r₀ (State.mirrorDone s i st) := by
  unfold State.mirrorDone
  extract_lets
  repeat' first
    | with_reducible assumption | with_reducible apply State.odAdd_keeps | with_reducible apply State.setMirror_keeps
      | with_reducible refine keeps_ite ?_ ?_

theorem State.mirrorSendOne_keeps {r₀ s : State} (h0 : Keeps r₀ s) (i : Nat) (r : MirrorRoll) (x : MirrorRec) :
    Keeps r₀ (State.mirrorSendOne s i r x) := by
  unfold State.mirrorSendOne
  extract_lets
  repeat' first
    | with_reducible assumption | with_reducible apply State.mirrorDone_keeps | with_reducible apply State.openTx_keeps
      | split

theorem State.mirrorEnds_keeps {r₀ s : State} (h0 : Keeps r₀ s) (r : MirrorRoll) (m : Mirror) :
    Keeps r₀ (State.mirrorEnds s r m) := by
  unfold State.mirrorEnds
  repeat' first
    | with_reducible assumption | with_reducible apply State.event_keeps | with_reducible refine keeps_ite ?_ ?_

theorem State.mirrorRun_keeps {r₀ : State} : ∀ (k : Nat) {s : State} (_ : Keeps r₀ s) (x0 : Nat),
    Keeps r₀ (State.mirrorRun k s x0) := by
  intro k
  induction k with
  | zero =>
    intro s h x0
    unfold State.mirrorRun
    repeat' first
      | with_reducible assumption
  | succ k ih =>
    intro s h x0
    unfold State.mirrorRun
    try extract_lets
    repeat' first
      | with_reducible assumption | with_reducible apply ih | with_reducible apply State.mirrorEnds_keeps
        | with_reducible apply State.mirrorSendOne_keeps | with_reducible apply State.setMirror_keeps
        | with_reducible refine keeps_ite ?_ ?_ | split

theorem State.mirrorGo_keeps {r₀ s : State} (h0 : Keeps r₀ s) (i : Nat) :
    Keeps r₀ (State.mirrorGo s i) := by
  unfold State.mirrorGo
  repeat' first
    | with_reducible assumption | with_reducible apply State.mirrorRun_keeps

theorem State.mirrorRoll_keeps {r₀ s : State} (h0 : Keeps r₀ s) (i step : Nat) (recs : List (Nat × LedgerRec)) :
    Keeps r₀ (State.mirrorRoll s i step recs) := by
  unfold State.mirrorRoll
  extract_lets
  repeat' first
    | with_reducible assumption | with_reducible apply State.mirrorGo_keeps | with_reducible apply State.setMirror_keeps
      | with_reducible refine keeps_ite ?_ ?_

theorem State.rollLedger_keeps {r₀ s : State} (h0 : Keeps r₀ s) (i : Nat) :
    Keeps r₀ (State.rollLedger s i) := by
  unfold State.rollLedger
  extract_lets
  repeat' first
    | with_reducible assumption | with_reducible apply State.ledgerRec_keeps | with_reducible apply State.mirrorRoll_keeps
      | with_reducible apply State.odAdd_keeps | with_reducible apply State.putLedgerRec_keeps
      | with_reducible refine keeps_foldl2 _ ?_ _ _ ?_ | dsimp only | split | with_reducible intro _

theorem State.scaleCold_keeps {r₀ s : State} (h0 : Keeps r₀ s) (i cause n first : Nat) :
    Keeps r₀ (State.scaleCold s i cause n first) := by
  unfold State.scaleCold
  repeat' first
    | with_reducible assumption | with_reducible apply State.event_keeps

theorem State.attachLedger_keeps {r₀ s : State} (h0 : Keeps r₀ s) (i : Nat) (p : LedgerRec → Bool) :
    Keeps r₀ (State.attachLedger s i p).2 := by
  unfold State.attachLedger
  extract_lets
  repeat' first
    | with_reducible assumption | with_reducible apply State.ledgerRec_keeps | with_reducible apply State.odSet_keeps
      | with_reducible apply State.putLedgerRec_keeps | with_reducible apply State.setLedger_keeps
      | with_reducible refine keeps_foldl2 _ ?_ _ _ ?_ | dsimp only | split | with_reducible intro _

theorem State.detachLedger_keeps {r₀ s : State} (h0 : Keeps r₀ s) (i : Nat) :
    Keeps r₀ (State.detachLedger s i) := by
  unfold State.detachLedger
  extract_lets
  repeat' first
    | with_reducible assumption | with_reducible apply State.odSet_keeps | with_reducible apply Keeps.upd

theorem execNfStepFlag_keeps {r₀ s : State} (h0 : Keeps r₀ s) (via : OdPath) (n : Nat) (v : BitVec 8) :
    OutKeeps r₀ (execNfStepFlag via n v s) := by
  unfold execNfStepFlag
  repeat' first
    | with_reducible assumption | with_reducible apply State.odRow_keeps | with_reducible apply State.odSet_keeps
      | with_reducible apply State.setNfStep_keeps | with_reducible apply withAccess_keeps
      | with_reducible apply withRoom_keeps | with_reducible refine keeps_ite ?_ ?_ | with_reducible refine out_next ?_
      | dsimp only | split | with_reducible intro _

theorem execLossValue_keeps {r₀ s : State} (h0 : Keeps r₀ s) (via : OdPath) (n : Nat) (v : BitVec 32) :
    OutKeeps r₀ (execLossValue via n v s) := by
  unfold execLossValue
  repeat' first
    | with_reducible assumption | with_reducible apply State.lossSample_keeps | with_reducible apply State.odRow_keeps
      | with_reducible apply withAccess_keeps | with_reducible apply withRoom_keeps | with_reducible refine keeps_ite ?_ ?_
      | with_reducible refine out_next ?_ | dsimp only | split | with_reducible intro _

theorem execLedgerCold_keeps {r₀ s : State} (h0 : Keeps r₀ s) (via : OdPath) (n : Nat) :
    OutKeeps r₀ (execLedgerCold via n s) := by
  unfold execLedgerCold
  repeat' first
    | with_reducible assumption | with_reducible apply State.attachLedger_keeps | with_reducible apply State.odRow_keeps
      | with_reducible apply State.scaleCold_keeps | with_reducible apply withAccess_keeps
      | with_reducible apply withRoom_keeps | with_reducible refine keeps_ite ?_ ?_ | with_reducible refine out_next ?_
      | dsimp only | split | with_reducible intro _

theorem execLedgerRestored_keeps {r₀ s : State} (h0 : Keeps r₀ s) (via : OdPath) (n : Nat) :
    OutKeeps r₀ (execLedgerRestored via n s) := by
  unfold execLedgerRestored
  repeat' first
    | with_reducible assumption | with_reducible apply State.attachLedger_keeps | with_reducible apply State.odRow_keeps
      | with_reducible apply State.scaleCold_keeps | with_reducible apply withAccess_keeps
      | with_reducible apply withRoom_keeps | with_reducible refine keeps_ite ?_ ?_ | with_reducible refine out_next ?_
      | dsimp only | split | with_reducible intro _

theorem execLedgerDetach_keeps {r₀ s : State} (h0 : Keeps r₀ s) (via : OdPath) (n : Nat) :
    OutKeeps r₀ (execLedgerDetach via n s) := by
  unfold execLedgerDetach
  repeat' first
    | with_reducible assumption | with_reducible apply State.detachLedger_keeps | with_reducible apply State.odRow_keeps
      | with_reducible apply withAccess_keeps | with_reducible apply withRoom_keeps | with_reducible refine keeps_ite ?_ ?_
      | with_reducible refine out_next ?_ | dsimp only | split | with_reducible intro _

theorem State.queueLaunch_keeps {r₀ s : State} (h0 : Keeps r₀ s) (c : Cmd) (params : List (BitVec 64)) :
    Keeps r₀ (State.queueLaunch s c params) := by
  unfold State.queueLaunch
  extract_lets
  repeat' first
    | with_reducible assumption | with_reducible apply State.setCmd_keeps | with_reducible apply Keeps.upd

theorem execLaunch_keeps {r₀ s : State} (h0 : Keeps r₀ s) (cmd : Nat) :
    OutKeeps r₀ (execLaunch cmd s) := by
  unfold execLaunch
  repeat' first
    | with_reducible assumption | with_reducible apply State.commit_keeps | with_reducible apply State.devRead_keeps
      | with_reducible apply State.onCmd_keeps | with_reducible apply State.queueLaunch_keeps
      | with_reducible apply withRoom_keeps | with_reducible refine out_next ?_ | dsimp only | split
      | with_reducible intro _

theorem State.beginCore_keeps {r₀ s : State} (h0 : Keeps r₀ s) (l : Launch) (n : Nat) :
    Keeps r₀ (State.beginCore s l n) := by
  unfold State.beginCore
  extract_lets
  repeat' first
    | with_reducible assumption | with_reducible apply State.setCore_keeps | with_reducible apply State.setLaunch_keeps
      | split | with_reducible apply Keeps.upd

theorem State.dropLaunch_keeps {r₀ s : State} (h0 : Keeps r₀ s) (cmd : Nat) :
    Keeps r₀ (State.dropLaunch s cmd) := by
  unfold State.dropLaunch
  extract_lets
  repeat' first
    | with_reducible assumption | with_reducible apply Keeps.upd

theorem execLaunchStart_keeps {r₀ s : State} (h0 : Keeps r₀ s) (cmd : Nat) :
    OutKeeps r₀ (execLaunchStart cmd s) := by
  unfold execLaunchStart
  repeat' first
    | with_reducible assumption | with_reducible apply State.beginCore_keeps | with_reducible apply State.commit_keeps
      | with_reducible apply State.dropLaunch_keeps | with_reducible apply State.pump_keeps
      | with_reducible apply State.setLaunch_keeps | with_reducible apply State.startCmd_keeps
      | with_reducible apply withRoom_keeps | with_reducible refine out_next ?_
      | with_reducible refine keeps_foldl _ ?_ _ _ ?_ | dsimp only | split | with_reducible intro _

theorem State.noteEnd_keeps {r₀ s : State} (h0 : Keeps r₀ s) (i steps : Nat) (fl : BitVec 6) :
    Keeps r₀ (State.noteEnd s i steps fl) := by
  unfold State.noteEnd
  extract_lets
  repeat' first
    | with_reducible assumption | with_reducible apply Keeps.upd

theorem State.orJobFlags_keeps {r₀ s : State} (h0 : Keeps r₀ s) (job : BitVec 16) (fl : BitVec 6) :
    Keeps r₀ (State.orJobFlags s job fl) := by
  unfold State.orJobFlags
  repeat' first
    | with_reducible assumption | with_reducible apply State.noteEnd_keeps | with_reducible apply State.odSet_keeps | split

theorem execLaunchCommit_keeps {r₀ s : State} (h0 : Keeps r₀ s) (cmd : Nat) :
    OutKeeps r₀ (execLaunchCommit cmd s) := by
  unfold execLaunchCommit
  repeat' first
    | with_reducible assumption | with_reducible apply State.commit_keeps | with_reducible apply State.commitAt_keeps
      | with_reducible apply State.dropLaunch_keeps | with_reducible apply State.orJobFlags_keeps
      | with_reducible apply State.pump_keeps | with_reducible apply State.setCore_keeps
      | with_reducible apply withRoom_keeps | with_reducible refine out_next ?_
      | with_reducible refine keeps_foldl _ ?_ _ _ ?_ | dsimp only | split | with_reducible intro _

theorem State.abortCore_keeps {r₀ s : State} (h0 : Keeps r₀ s) (core : Nat) :
    Keeps r₀ (State.abortCore s core) := by
  unfold State.abortCore
  extract_lets
  repeat' first
    | with_reducible assumption | with_reducible apply State.setCore_keeps | with_reducible apply State.stopGroup_keeps
       | with_reducible refine keeps_foldl _ ?_ _ _ ?_ | split | with_reducible intro _

theorem State.abortLaunch_keeps {r₀ s : State} (h0 : Keeps r₀ s) (l : Launch) :
    Keeps r₀ (State.abortLaunch s l) := by
  unfold State.abortLaunch
  extract_lets
  repeat' first
    | with_reducible assumption | with_reducible apply State.abortCore_keeps | with_reducible apply State.setLaunch_keeps
       | with_reducible refine keeps_foldl _ ?_ _ _ ?_ | with_reducible intro _

theorem execRuleSwitchEpoch_keeps {r₀ s : State} (h0 : Keeps r₀ s) (via : OdPath) (v : BitVec 32) :
    OutKeeps r₀ (execRuleSwitchEpoch via v s) := by
  unfold execRuleSwitchEpoch
  repeat' first
    | with_reducible assumption | with_reducible apply State.odRow_keeps | with_reducible apply State.odSet_keeps
      | with_reducible apply withAccess_keeps | with_reducible apply withRoom_keeps | with_reducible refine out_next ?_
      | dsimp only | split | with_reducible intro _

theorem execRuleCommitNow_keeps {r₀ s : State} (h0 : Keeps r₀ s) (via : OdPath) (v : BitVec 8) :
    OutKeeps r₀ (execRuleCommitNow via v s) := by
  unfold execRuleCommitNow
  repeat' first
    | with_reducible assumption | with_reducible apply State.copyRules_keeps | with_reducible apply State.odRow_keeps
      | with_reducible apply withAccess_keeps | with_reducible apply withRoom_keeps | with_reducible refine out_next ?_
      | dsimp only | split | with_reducible intro _ | with_reducible apply Keeps.upd

theorem State.writeJarastEntry_keeps {r₀ s : State} (h0 : Keeps r₀ s) (eval : Bool) (t : Nat) :
    Keeps r₀ (State.writeJarastEntry s eval t) := by
  unfold State.writeJarastEntry
  extract_lets
  repeat' first
    | with_reducible assumption | with_reducible apply State.odSet_keeps | with_reducible refine keeps_foldl _ ?_ _ _ ?_
       | with_reducible intro _

theorem State.writeJarast_keeps {r₀ s : State} (h0 : Keeps r₀ s) :
    Keeps r₀ (State.writeJarast s) := by
  unfold State.writeJarast
  extract_lets
  repeat' first
    | with_reducible assumption | with_reducible apply State.odSet_keeps | with_reducible apply State.writeJarastEntry_keeps
       | with_reducible refine keeps_foldl _ ?_ _ _ ?_ | with_reducible intro _

theorem State.applyEval_keeps {r₀ s : State} (h0 : Keeps r₀ s) :
    Keeps r₀ (State.applyEval s) := by
  unfold State.applyEval
  extract_lets
  repeat' first
    | with_reducible assumption | with_reducible apply State.odSet_keeps | with_reducible apply State.writeJarast_keeps | split
       | with_reducible apply Keeps.upd

theorem execEvalCommit_keeps {r₀ s : State} (h0 : Keeps r₀ s) (via : OdPath) (v : BitVec 8) :
    OutKeeps r₀ (execEvalCommit via v s) := by
  unfold execEvalCommit
  repeat' first
    | with_reducible assumption | with_reducible apply State.applyEval_keeps | with_reducible apply State.odRow_keeps
      | with_reducible apply withAccess_keeps | with_reducible apply withRoom_keeps | with_reducible refine out_next ?_
      | dsimp only | split | with_reducible intro _

theorem execNop_keeps {r₀ s : State} (h0 : Keeps r₀ s) (g : GroupRef) (f : BitVec 48) :
    OutKeeps r₀ (execNop g f s) := by
  unfold execNop
  repeat' first
    | with_reducible assumption | with_reducible apply groupOnly_keeps | with_reducible apply issued_keeps
       | with_reducible intro _

theorem execBra_keeps {r₀ s : State} (h0 : Keeps r₀ s) (g : GroupRef) (f : BitVec 48) :
    OutKeeps r₀ (execBra g f s) := by
  unfold execBra
  extract_lets
  repeat' first
    | with_reducible assumption | with_reducible exact issue_exc _ | with_reducible apply State.setGroup_keeps
       | with_reducible apply issued_keeps | with_reducible refine issue_done ?_ | dsimp only | split | with_reducible intro _

theorem execRpush_keeps {r₀ s : State} (h0 : Keeps r₀ s) (g : GroupRef) (f : BitVec 48) :
    OutKeeps r₀ (execRpush g f s) := by
  unfold execRpush
  extract_lets
  repeat' first
    | with_reducible assumption | with_reducible exact issue_exc _ | with_reducible apply State.setGroup_keeps
       | with_reducible apply issued_keeps | with_reducible refine issue_done ?_ | split | with_reducible intro _

theorem execRjoin_keeps {r₀ s : State} (h0 : Keeps r₀ s) (g : GroupRef) (f : BitVec 48) :
    OutKeeps r₀ (execRjoin g f s) := by
  unfold execRjoin
  repeat' first
    | with_reducible assumption | with_reducible exact issue_exc _ | with_reducible apply State.setGroup_keeps
       | with_reducible apply issued_keeps | with_reducible refine issue_done ?_ | split | with_reducible intro _

theorem execCall_keeps {r₀ s : State} (h0 : Keeps r₀ s) (g : GroupRef) (f : BitVec 48) :
    OutKeeps r₀ (execCall g f s) := by
  unfold execCall
  extract_lets
  repeat' first
    | with_reducible assumption | with_reducible apply State.setGroup_keeps | with_reducible apply issued_keeps
       | with_reducible refine issue_done ?_ | dsimp only | with_reducible intro _

theorem execRet_keeps {r₀ s : State} (h0 : Keeps r₀ s) (g : GroupRef) (f : BitVec 48) :
    OutKeeps r₀ (execRet g f s) := by
  unfold execRet
  extract_lets
  repeat' first
    | with_reducible assumption | with_reducible apply State.setGroup_keeps | with_reducible apply issued_keeps
       | with_reducible refine issue_done ?_ | with_reducible intro _

theorem execEndThreads_keeps {r₀ s : State} (h0 : Keeps r₀ s) (g : GroupRef) (f : BitVec 48) :
    OutKeeps r₀ (execEndThreads g f s) := by
  unfold execEndThreads
  extract_lets
  repeat' first
    | with_reducible assumption | with_reducible exact issue_exc _ | with_reducible apply State.endCheck_keeps
      | with_reducible apply State.setGroup_keeps | with_reducible apply issued_keeps | with_reducible refine issue_done ?_
      | dsimp only | split | with_reducible intro _

theorem execCbar_keeps {r₀ s : State} (h0 : Keeps r₀ s) (g : GroupRef) (f : BitVec 48) :
    OutKeeps r₀ (execCbar g f s) := by
  unfold execCbar
  repeat' first
    | with_reducible assumption | with_reducible apply State.setGroup_keeps | with_reducible apply issued_keeps
       | with_reducible refine issue_done ?_ | with_reducible intro _

theorem execCbarRelease_keeps {r₀ s : State} (h0 : Keeps r₀ s) (core : Nat) :
    OutKeeps r₀ (execCbarRelease core s) := by
  unfold execCbarRelease
  extract_lets
  repeat' first
    | with_reducible assumption | with_reducible apply State.setCore_keeps | with_reducible refine out_next ?_ | split

theorem execUndefinedOpcode_keeps {r₀ s : State} (h0 : Keeps r₀ s) (g : GroupRef) (word : BitVec 64) :
    OutKeeps r₀ (execUndefinedOpcode g word s) := by
  unfold execUndefinedOpcode
  repeat' first
    | with_reducible assumption | with_reducible exact issue_exc _ | with_reducible apply issued_keeps | with_reducible intro _

theorem State.logWrite_keeps {r₀ s : State} (h0 : Keeps r₀ s) (e : Event) :
    Keeps r₀ (State.logWrite s e) := by
  unfold State.logWrite
  extract_lets
  repeat' first
    | with_reducible assumption | with_reducible apply State.devWrite_keeps | with_reducible apply Keeps.upd

theorem State.endDrop_keeps {r₀ s : State} (h0 : Keeps r₀ s) :
    Keeps r₀ (State.endDrop s) := by
  unfold State.endDrop
  extract_lets
  repeat' first
    | with_reducible assumption | with_reducible apply State.event_keeps | with_reducible refine keeps_ite ?_ ?_
       | with_reducible apply Keeps.upd

theorem State.logToRing_keeps {r₀ s : State} (h0 : Keeps r₀ s) (e : Event) :
    Keeps r₀ (State.logToRing s e) := by
  unfold State.logToRing
  extract_lets
  repeat' first
    | with_reducible assumption | with_reducible apply State.logWrite_keeps | with_reducible apply State.odAdd_keeps
       | with_reducible refine keeps_ite ?_ ?_ | with_reducible apply Keeps.upd

theorem State.logSignal_keeps {r₀ s : State} (h0 : Keeps r₀ s) (e : Event) :
    Keeps r₀ (State.logSignal s e) := by
  unfold State.logSignal
  extract_lets
  repeat' first
    | with_reducible assumption | with_reducible apply State.signal_keeps | with_reducible refine keeps_ite ?_ ?_
      | with_reducible apply Keeps.upd

theorem execEventInterrupt_keeps {r₀ s : State} (h0 : Keeps r₀ s) :
    OutKeeps r₀ (execEventInterrupt s) := by
  unfold execEventInterrupt
  repeat' first
    | with_reducible assumption | with_reducible apply State.advanceTo_keeps | with_reducible apply State.signal_keeps
      | with_reducible refine out_next ?_ | dsimp only | split | with_reducible apply Keeps.upd

theorem execLogRelease_keeps {r₀ s : State} (h0 : Keeps r₀ s) :
    OutKeeps r₀ (execLogRelease s) := by
  unfold execLogRelease
  extract_lets
  repeat' first
    | with_reducible assumption | with_reducible apply State.advanceTo_keeps | with_reducible apply State.freeIssues_keeps
      | with_reducible apply State.logSignal_keeps | with_reducible apply State.logToRing_keeps
      | with_reducible apply State.odAdd_keeps | with_reducible refine keeps_ite ?_ ?_ | with_reducible refine out_next ?_
      | dsimp only | split | with_reducible apply Keeps.upd

theorem State.newLogHead_keeps {r₀ s : State} (h0 : Keeps r₀ s) (head : Nat) :
    Keeps r₀ (State.newLogHead s head) := by
  unfold State.newLogHead
  extract_lets
  repeat' first
    | with_reducible assumption | with_reducible apply State.endDrop_keeps | with_reducible refine keeps_ite ?_ ?_
      | with_reducible apply Keeps.upd

theorem execLogHeadWrite_keeps {r₀ s : State} (h0 : Keeps r₀ s) (head : BitVec 32) :
    OutKeeps r₀ (execLogHeadWrite head s) := by
  unfold execLogHeadWrite
  repeat' first
    | with_reducible assumption | with_reducible apply State.devWrite_keeps | with_reducible apply State.newLogHead_keeps
      | with_reducible refine out_next ?_ | split

theorem execLogRingEntries_keeps {r₀ s : State} (h0 : Keeps r₀ s) (via : OdPath) (v : BitVec 32) :
    OutKeeps r₀ (execLogRingEntries via v s) := by
  unfold execLogRingEntries
  extract_lets
  repeat' first
    | with_reducible assumption | with_reducible apply State.arm_keeps | with_reducible apply State.devWrite_keeps
      | with_reducible apply State.disarm_keeps | with_reducible apply State.endDrop_keeps
      | with_reducible apply State.odRow_keeps | with_reducible apply State.odSet_keeps
      | with_reducible apply withAccess_keeps | with_reducible refine out_next ?_ | dsimp only | split
      | with_reducible intro _ | with_reducible apply Keeps.upd

theorem State.readDistinct_keeps {r₀ s : State} (h0 : Keeps r₀ s) (ws : List Nat) :
    Keeps r₀ (State.readDistinct s ws).2 := by
  unfold State.readDistinct
  repeat' first
    | with_reducible assumption | with_reducible apply State.readWord_keeps | with_reducible refine keeps_foldl2 _ ?_ _ _ ?_
       | dsimp only | with_reducible intro _

theorem State.countLocal_keeps {r₀ s : State} (h0 : Keeps r₀ s) (core : Nat) (ws : List Nat) :
    Keeps r₀ (State.countLocal s core ws) := by
  unfold State.countLocal
  extract_lets
  repeat' first
    | with_reducible assumption | with_reducible apply State.count_keeps | with_reducible apply State.countSlot_keeps
      | with_reducible refine keeps_foldl _ ?_ _ _ ?_ | with_reducible intro _

theorem localIssue_keeps {r₀ s : State} (h0 : Keeps r₀ s) (g : GroupRef) (w : BitVec 64) (n : Nat) (regs : List (Nat × Nat)) (k : State → Group → List Nat → Issue) (hf_k : ∀ (x0 : State) (x1 : Group) (x2 : List Nat), Keeps r₀ x0 → IssueKeeps r₀ (k x0 x1 x2)) :
    OutKeeps r₀ (localIssue g w n regs k s) := by
  unfold localIssue
  repeat' first
    | with_reducible assumption | with_reducible exact issue_exc _ | with_reducible apply hf_k
       | with_reducible apply State.countLocal_keeps | with_reducible apply checked_keeps | with_reducible apply issued_keeps
       | dsimp only | split | with_reducible intro _

theorem execLdL_keeps {r₀ s : State} (h0 : Keeps r₀ s) (g : GroupRef) (sz : LSize) (f : BitVec 48) :
    OutKeeps r₀ (execLdL g sz f s) := by
  unfold execLdL
  extract_lets
  repeat' first
    | with_reducible assumption | with_reducible apply State.readDistinct_keeps | with_reducible apply groupOnly_keeps
      | with_reducible apply localIssue_keeps | with_reducible refine issue_excAfter ?_ | dsimp only | split
      | with_reducible intro _

theorem execStL_keeps {r₀ s : State} (h0 : Keeps r₀ s) (g : GroupRef) (sz : LSize) (f : BitVec 48) :
    OutKeeps r₀ (execStL g sz f s) := by
  unfold execStL
  extract_lets
  repeat' first
    | with_reducible assumption | with_reducible apply State.writeNat_keeps | with_reducible apply groupOnly_keeps
       | with_reducible apply localIssue_keeps | with_reducible refine keeps_foldl _ ?_ _ _ ?_ | with_reducible intro _

theorem lockIssue_keeps {r₀ s : State} (h0 : Keeps r₀ s) (g : GroupRef) (w : BitVec 64) (turn : Nat → Nat → SMap (BitVec 64 × Bool) → SMap (BitVec 64 × Bool) × BitVec 32 × Bool) (locks : Nat → Nat → Nat) :
    OutKeeps r₀ (lockIssue g w turn locks s) := by
  unfold lockIssue
  repeat' first
    | with_reducible assumption | with_reducible apply State.readDistinct_keeps | with_reducible apply State.writeWord_keeps
      | with_reducible apply groupOnly_keeps | with_reducible apply localIssue_keeps
      | with_reducible refine issue_excAfter ?_ | with_reducible refine keeps_foldl _ ?_ _ _ ?_ | dsimp only | split
      | with_reducible intro _

theorem execLkacq_keeps {r₀ s : State} (h0 : Keeps r₀ s) (g : GroupRef) (f : BitVec 48) :
    OutKeeps r₀ (execLkacq g f s) := by
  unfold execLkacq
  repeat' first
    | with_reducible assumption | with_reducible apply lockIssue_keeps

theorem execLkrel_keeps {r₀ s : State} (h0 : Keeps r₀ s) (g : GroupRef) (f : BitVec 48) :
    OutKeeps r₀ (execLkrel g f s) := by
  unfold execLkrel
  repeat' first
    | with_reducible assumption | with_reducible apply lockIssue_keeps

theorem execPsel_keeps {r₀ s : State} (h0 : Keeps r₀ s) (via : OdPath) (set : BitVec 16) (n : Nat) (v : BitVec 64) :
    OutKeeps r₀ (execPsel via set n v s) := by
  unfold execPsel
  extract_lets
  repeat' first
    | with_reducible assumption | with_reducible apply State.odRow_keeps | with_reducible apply State.odSet_keeps
      | with_reducible apply State.zeroPmc_keeps | with_reducible apply withAccess_keeps
      | with_reducible apply withRoom_keeps | with_reducible refine out_next ?_ | dsimp only | split
      | with_reducible intro _

theorem execPctl_keeps {r₀ s : State} (h0 : Keeps r₀ s) (via : OdPath) (set : BitVec 16) (v : BitVec 32) :
    OutKeeps r₀ (execPctl via set v s) := by
  unfold execPctl
  extract_lets
  repeat' first
    | with_reducible assumption | with_reducible apply State.odRow_keeps | with_reducible apply State.odSet_keeps
      | with_reducible apply State.zeroPmc_keeps | with_reducible apply withAccess_keeps
      | with_reducible apply withRoom_keeps | with_reducible refine out_next ?_
      | with_reducible refine keeps_foldl _ ?_ _ _ ?_ | dsimp only | split | with_reducible intro _

theorem State.countSchedule_keeps {r₀ s : State} (h0 : Keeps r₀ s) (op : CountOp) :
    Keeps r₀ (State.countSchedule s op).2 := by
  unfold State.countSchedule
  extract_lets
  repeat' first
    | with_reducible assumption | with_reducible apply State.countApply_keeps | with_reducible apply State.odSet_keeps
       | dsimp only | split | with_reducible apply Keeps.upd

theorem execCountFreeze_keeps {r₀ s : State} (h0 : Keeps r₀ s) (via : OdPath) (v : BitVec 8) :
    OutKeeps r₀ (execCountFreeze via v s) := by
  unfold execCountFreeze
  repeat' first
    | with_reducible assumption | with_reducible apply State.countSchedule_keeps | with_reducible apply State.odRow_keeps
      | with_reducible apply State.odSet_keeps | with_reducible apply withAccess_keeps | with_reducible apply withRoom_keeps
      | with_reducible refine out_next ?_ | dsimp only | split | with_reducible intro _

theorem execCountClear_keeps {r₀ s : State} (h0 : Keeps r₀ s) (via : OdPath) :
    OutKeeps r₀ (execCountClear via s) := by
  unfold execCountClear
  repeat' first
    | with_reducible assumption | with_reducible apply State.countSchedule_keeps | with_reducible apply State.odRow_keeps
      | with_reducible apply withAccess_keeps | with_reducible apply withRoom_keeps | with_reducible refine out_next ?_
      | with_reducible intro _

theorem execCountSwitch_keeps {r₀ s : State} (h0 : Keeps r₀ s) :
    OutKeeps r₀ (execCountSwitch s) := by
  unfold execCountSwitch
  repeat' first
    | with_reducible assumption | with_reducible apply State.advanceTo_keeps | with_reducible apply State.countApply_keeps
       | with_reducible refine out_next ?_ | split

theorem State.tallyWrite_keeps {r₀ s : State} (h0 : Keeps r₀ s) (a : Nat) (bs : List Byte) :
    Keeps r₀ (State.tallyWrite s a bs) := by
  unfold State.tallyWrite
  extract_lets
  repeat' first
    | with_reducible assumption | with_reducible apply State.coherentWrite_keeps | with_reducible apply State.countSpan_keeps
       | with_reducible apply State.writeRacy_keeps | with_reducible refine keeps_foldl _ ?_ _ _ ?_ | with_reducible intro _

theorem State.tallySkip_keeps {r₀ s : State} (h0 : Keeps r₀ s) (k cause : Nat) :
    Keeps r₀ (State.tallySkip s k cause) := by
  unfold State.tallySkip
  extract_lets
  repeat' first
    | with_reducible assumption | with_reducible apply State.event_keeps | with_reducible apply State.odAdd_keeps
       | with_reducible refine keeps_ite ?_ ?_ | with_reducible apply Keeps.upd

theorem State.tallyWriteAll_keeps {r₀ s : State} (h0 : Keeps r₀ s) (k : Nat) (recs : List (List Byte)) :
    Keeps r₀ (State.tallyWriteAll s k recs) := by
  unfold State.tallyWriteAll
  extract_lets
  repeat' first
    | with_reducible assumption | with_reducible apply State.tallyWrite_keeps
      | with_reducible refine keeps_foldl _ ?_ _ _ ?_ | with_reducible intro _ | with_reducible apply Keeps.upd

theorem execTallyDump_keeps {r₀ s : State} (h0 : Keeps r₀ s) :
    OutKeeps r₀ (execTallyDump s) := by
  unfold execTallyDump
  extract_lets
  repeat' first
    | with_reducible assumption | with_reducible apply State.advanceTo_keeps | with_reducible apply State.odSet_keeps
      | with_reducible apply State.tallySkip_keeps | with_reducible apply State.tallyWriteAll_keeps
      | with_reducible apply withRoom_keeps | with_reducible refine out_next ?_ | split | (dsimp +zetaDelta only; split)
      | with_reducible apply Keeps.upd

theorem execTallyDumpWritten_keeps {r₀ s : State} (h0 : Keeps r₀ s) :
    OutKeeps r₀ (execTallyDumpWritten s) := by
  unfold execTallyDumpWritten
  extract_lets
  repeat' first
    | with_reducible assumption | with_reducible apply State.devWrite_keeps | with_reducible apply State.odAdd_keeps
      | with_reducible apply State.settle_keeps | with_reducible apply withRoom_keeps | with_reducible refine out_next ?_
      | dsimp only | split | with_reducible apply Keeps.upd

theorem execTallyHeadWrite_keeps {r₀ s : State} (h0 : Keeps r₀ s) (head : BitVec 32) :
    OutKeeps r₀ (execTallyHeadWrite head s) := by
  unfold execTallyHeadWrite
  extract_lets
  repeat' first
    | with_reducible assumption | with_reducible apply State.devWrite_keeps | with_reducible apply withRoom_keeps
      | with_reducible refine out_next ?_ | split | with_reducible apply Keeps.upd

theorem State.tallyStart_keeps {r₀ s : State} (h0 : Keeps r₀ s) :
    Keeps r₀ (State.tallyStart s) := by
  unfold State.tallyStart
  extract_lets
  repeat' first
    | with_reducible assumption | with_reducible apply State.arm_keeps | with_reducible apply State.devWrite_keeps
      | with_reducible apply State.odSet_keeps | with_reducible apply Keeps.upd

theorem execTallyEnable_keeps {r₀ s : State} (h0 : Keeps r₀ s) (via : OdPath) (v : BitVec 8) :
    OutKeeps r₀ (execTallyEnable via v s) := by
  unfold execTallyEnable
  repeat' first
    | with_reducible assumption | with_reducible apply State.disarm_keeps | with_reducible apply State.odRow_keeps
      | with_reducible apply State.odSet_keeps | with_reducible apply State.tallyStart_keeps
      | with_reducible apply withAccess_keeps | with_reducible apply withRoom_keeps | with_reducible refine out_next ?_
      | dsimp only | split | with_reducible intro _ | with_reducible apply Keeps.upd

theorem State.seeLine_keeps {r₀ s : State} (h0 : Keeps r₀ s) (m : Monitor) :
    Keeps r₀ (State.seeLine s m) := by
  unfold State.seeLine
  extract_lets
  repeat' first
    | with_reducible assumption | with_reducible apply State.devRead_keeps | with_reducible apply State.newCqHead_keeps
      | with_reducible apply State.newLine1_keeps | with_reducible apply State.newLogHead_keeps
      | with_reducible apply State.newTail_keeps | with_reducible apply State.readLine1_keeps
      | with_reducible refine keeps_ite ?_ ?_ | dsimp only | split | with_reducible apply Keeps.upd

theorem State.wakeUp_keeps {r₀ s : State} (h0 : Keeps r₀ s) :
    Keeps r₀ (State.wakeUp s) := by
  unfold State.wakeUp
  extract_lets
  repeat' first
    | with_reducible assumption | with_reducible apply State.seeLine_keeps | with_reducible refine keeps_foldl _ ?_ _ _ ?_
      | with_reducible intro _ | with_reducible apply Keeps.upd

theorem State.addResps_keeps {r₀ s : State} (h0 : Keeps r₀ s) (g : GroupRef) (l : List LaneResp) :
    Keeps r₀ (State.addResps s g l) := by
  unfold State.addResps
  repeat' first
    | with_reducible assumption | with_reducible apply State.setGroup_keeps | split

theorem State.postFailed_keeps {r₀ s : State} (h0 : Keeps r₀ s) (g : GroupRef) (seq : Nat) (e : Option Exc) :
    Keeps r₀ (State.postFailed s g seq e) := by
  unfold State.postFailed
  repeat' first
    | with_reducible assumption | with_reducible apply State.setGroup_keeps | with_reducible refine keeps_ite ?_ ?_ | split

theorem State.heldEnd_keeps {r₀ s : State} (h0 : Keeps r₀ s) (g : GroupRef) (w : BitVec 64) (gr : Group) :
    Keeps r₀ (State.heldEnd s g w gr) := by
  unfold State.heldEnd
  extract_lets
  repeat' first
    | with_reducible assumption | with_reducible apply State.setGroup_keeps | with_reducible apply State.takeExc_keeps
      | split

theorem State.laneAnswer_keeps {r₀ s : State} (h0 : Keeps r₀ s) (g : GroupRef) (f : RemoteForm) (w : BitVec 64) (gr : Group) (lanes : List (Nat × Nat)) (x : Resp) :
    Keeps r₀ (State.laneAnswer s g f w gr lanes x) := by
  unfold State.laneAnswer
  repeat' first
    | with_reducible assumption | with_reducible apply State.addResps_keeps

theorem State.countRemote_keeps {r₀ s : State} (h0 : Keeps r₀ s) (core : Nat) (t : LaneTx) (tc : BitVec 3) :
    Keeps r₀ (State.countRemote s core t tc) := by
  unfold State.countRemote
  extract_lets
  repeat' first
    | with_reducible assumption | with_reducible apply State.count_keeps

theorem State.openHeld_keeps {r₀ s : State} (h0 : Keeps r₀ s) (g : GroupRef) (f : RemoteForm) (w : BitVec 64) (gr : Group) (t : LaneTx) :
    Keeps r₀ (State.openHeld s g f w gr t) := by
  unfold State.openHeld
  extract_lets
  repeat' first
    | with_reducible assumption | with_reducible apply State.countRemote_keeps | with_reducible apply State.fresh_keeps
      | with_reducible apply State.laneAnswer_keeps | with_reducible apply State.openMore_keeps
      | with_reducible apply State.openTx_keeps | dsimp only | split | (dsimp +zetaDelta only; split)

theorem State.openPosted_keeps {r₀ s : State} (h0 : Keeps r₀ s) (g : GroupRef) (f : RemoteForm) (w : BitVec 64) (gr : Group) (t : LaneTx) :
    Keeps r₀ (State.openPosted s g f w gr t) := by
  unfold State.openPosted
  extract_lets
  repeat' first
    | with_reducible assumption | with_reducible apply State.countRemote_keeps | with_reducible apply State.openTx_keeps
       | with_reducible apply State.postFailed_keeps | split

theorem remoteIssue_keeps {r₀ s : State} (h0 : Keeps r₀ s) (g : GroupRef) (w : BitVec 64) (cls : Nat) (f : RemoteForm) (regs : List (Nat × Nat)) (k : State → Group → List Nat → Issue) (hf_k : ∀ (x0 : State) (x1 : Group) (x2 : List Nat), Keeps r₀ x0 → IssueKeeps r₀ (k x0 x1 x2)) :
    OutKeeps r₀ (remoteIssue g w cls f regs k s) := by
  unfold remoteIssue
  repeat' first
    | with_reducible assumption | with_reducible exact issue_exc _ | with_reducible apply hf_k
       | with_reducible apply checked_keeps | with_reducible apply issued_keeps | split | with_reducible intro _

theorem State.windowLoads_keeps {r₀ s : State} (h0 : Keeps r₀ s) (g : GroupRef) (f : RemoteForm) (w : BitVec 64) (gr : Group) (lanes : List Nat) :
    Keeps r₀ (State.windowLoads s g f w gr lanes) := by
  unfold State.windowLoads
  repeat' first
    | with_reducible assumption | with_reducible apply State.addResps_keeps | with_reducible apply State.windowLoad_keeps
      | with_reducible refine keeps_foldl _ ?_ _ _ ?_ | dsimp only | with_reducible intro _

theorem State.openAll_keeps {r₀ s : State} (h0 : Keeps r₀ s) (g : GroupRef) (f : RemoteForm) (w : BitVec 64) (gr : Group) (l : List LaneTx) :
    Keeps r₀ (State.openAll s g f w gr l) := by
  unfold State.openAll
  extract_lets
  repeat' first
    | with_reducible assumption | with_reducible apply State.openHeld_keeps | with_reducible refine keeps_foldl _ ?_ _ _ ?_
      | with_reducible intro _

theorem State.heldDone_keeps {r₀ s : State} (h0 : Keeps r₀ s) (g : GroupRef) :
    Keeps r₀ (State.heldDone s g) := by
  unfold State.heldDone
  repeat' first
    | with_reducible assumption | with_reducible apply State.heldEnd_keeps | with_reducible apply State.openAll_keeps
      | with_reducible apply State.stopGroup_keeps | with_reducible refine keeps_ite ?_ ?_ | dsimp only | split

theorem heldIssue_keeps {r₀ s : State} (h0 : Keeps r₀ s) (g : GroupRef) (w : BitVec 64) (cls : Nat) (f : RemoteForm) (regs : List (Nat × Nat)) (txs : Group → List Nat → List LaneTx) :
    OutKeeps r₀ (heldIssue g w cls f regs txs s) := by
  unfold heldIssue
  repeat' first
    | with_reducible assumption | with_reducible apply State.heldDone_keeps | with_reducible apply State.openAll_keeps
      | with_reducible apply State.setGroup_keeps | with_reducible apply State.wakeUp_keeps
      | with_reducible apply State.windowLoads_keeps | with_reducible apply remoteIssue_keeps
      | with_reducible refine out_next ?_ | with_reducible refine issue_done ?_ | dsimp only | split
      | with_reducible intro _

theorem postedIssue_keeps {r₀ s : State} (h0 : Keeps r₀ s) (g : GroupRef) (w : BitVec 64) (f : RemoteForm) (regs : List (Nat × Nat)) :
    OutKeeps r₀ (postedIssue g w f regs s) := by
  unfold postedIssue
  repeat' first
    | with_reducible assumption | with_reducible apply State.openPosted_keeps | with_reducible apply State.setGroup_keeps
      | with_reducible apply State.wakeUp_keeps | with_reducible apply remoteIssue_keeps | with_reducible refine out_next ?_
      | with_reducible refine issue_done ?_ | with_reducible refine keeps_foldl _ ?_ _ _ ?_ | dsimp only | split
      | with_reducible intro _

theorem execLdG_keeps {r₀ s : State} (h0 : Keeps r₀ s) (g : GroupRef) (sz : GSize) (f : BitVec 48) :
    OutKeeps r₀ (execLdG g sz f s) := by
  unfold execLdG
  extract_lets
  repeat' first
    | with_reducible assumption | with_reducible apply heldIssue_keeps

theorem execStG_keeps {r₀ s : State} (h0 : Keeps r₀ s) (g : GroupRef) (sz : GSize) (f : BitVec 48) :
    OutKeeps r₀ (execStG g sz f s) := by
  unfold execStG
  extract_lets
  repeat' first
    | with_reducible assumption | with_reducible apply heldIssue_keeps

theorem atomicIssue_keeps {r₀ s : State} (h0 : Keeps r₀ s) (g : GroupRef) (w : BitVec 64) (op : BitVec 8) :
    OutKeeps r₀ (atomicIssue g w op s) := by
  unfold atomicIssue
  extract_lets
  repeat' first
    | with_reducible assumption | with_reducible apply heldIssue_keeps

theorem execAtCas64_keeps {r₀ s : State} (h0 : Keeps r₀ s) (g : GroupRef) (f : BitVec 48) :
    OutKeeps r₀ (execAtCas64 g f s) := by
  unfold execAtCas64
  repeat' first
    | with_reducible assumption | with_reducible apply atomicIssue_keeps

theorem execAtSwp64_keeps {r₀ s : State} (h0 : Keeps r₀ s) (g : GroupRef) (f : BitVec 48) :
    OutKeeps r₀ (execAtSwp64 g f s) := by
  unfold execAtSwp64
  repeat' first
    | with_reducible assumption | with_reducible apply atomicIssue_keeps

theorem execAtAdd64_keeps {r₀ s : State} (h0 : Keeps r₀ s) (g : GroupRef) (f : BitVec 48) :
    OutKeeps r₀ (execAtAdd64 g f s) := by
  unfold execAtAdd64
  repeat' first
    | with_reducible assumption | with_reducible apply atomicIssue_keeps

theorem execRedAddW40_keeps {r₀ s : State} (h0 : Keeps r₀ s) (g : GroupRef) (f : BitVec 48) :
    OutKeeps r₀ (execRedAddW40 g f s) := by
  unfold execRedAddW40
  extract_lets
  repeat' first
    | with_reducible assumption | with_reducible apply postedIssue_keeps

theorem redIssue_keeps {r₀ s : State} (h0 : Keeps r₀ s) (g : GroupRef) (w : BitVec 64) (op : BitVec 8) (n : Nat) :
    OutKeeps r₀ (redIssue g w op n s) := by
  unfold redIssue
  repeat' first
    | with_reducible assumption | with_reducible apply postedIssue_keeps

theorem execRedAddF32_keeps {r₀ s : State} (h0 : Keeps r₀ s) (g : GroupRef) (f : BitVec 48) :
    OutKeeps r₀ (execRedAddF32 g f s) := by
  unfold execRedAddF32
  repeat' first
    | with_reducible assumption | with_reducible apply redIssue_keeps

theorem execRedAddBf16_keeps {r₀ s : State} (h0 : Keeps r₀ s) (g : GroupRef) (f : BitVec 48) :
    OutKeeps r₀ (execRedAddBf16 g f s) := by
  unfold execRedAddBf16
  repeat' first
    | with_reducible assumption | with_reducible apply redIssue_keeps

theorem execRedMaxF32_keeps {r₀ s : State} (h0 : Keeps r₀ s) (g : GroupRef) (f : BitVec 48) :
    OutKeeps r₀ (execRedMaxF32 g f s) := by
  unfold execRedMaxF32
  repeat' first
    | with_reducible assumption | with_reducible apply redIssue_keeps

theorem execRedMinF32_keeps {r₀ s : State} (h0 : Keeps r₀ s) (g : GroupRef) (f : BitVec 48) :
    OutKeeps r₀ (execRedMinF32 g f s) := by
  unfold execRedMinF32
  repeat' first
    | with_reducible assumption | with_reducible apply redIssue_keeps

theorem execRedMaxBf16_keeps {r₀ s : State} (h0 : Keeps r₀ s) (g : GroupRef) (f : BitVec 48) :
    OutKeeps r₀ (execRedMaxBf16 g f s) := by
  unfold execRedMaxBf16
  repeat' first
    | with_reducible assumption | with_reducible apply redIssue_keeps

theorem execRedMinBf16_keeps {r₀ s : State} (h0 : Keeps r₀ s) (g : GroupRef) (f : BitVec 48) :
    OutKeeps r₀ (execRedMinBf16 g f s) := by
  unfold execRedMinBf16
  repeat' first
    | with_reducible assumption | with_reducible apply redIssue_keeps

theorem execMcSt64_keeps {r₀ s : State} (h0 : Keeps r₀ s) (g : GroupRef) (f : BitVec 48) :
    OutKeeps r₀ (execMcSt64 g f s) := by
  unfold execMcSt64
  extract_lets
  repeat' first
    | with_reducible assumption | with_reducible apply postedIssue_keeps

theorem execFenceR_keeps {r₀ s : State} (h0 : Keeps r₀ s) (g : GroupRef) (f : BitVec 48) :
    OutKeeps r₀ (execFenceR g f s) := by
  unfold execFenceR
  extract_lets
  repeat' first
    | with_reducible assumption | with_reducible apply State.fenceCheck_keeps | with_reducible apply issued_keeps
      | with_reducible intro _

theorem State.noteClosed_keeps {r₀ s : State} (h0 : Keeps r₀ s) (block : Nat × Nat) (a : Nat) :
    Keeps r₀ (State.noteClosed s block a) := by
  unfold State.noteClosed
  repeat' first
    | with_reducible assumption | with_reducible apply State.closedEvent_keeps | with_reducible refine keeps_ite ?_ ?_

theorem execCopy_keeps {r₀ s : State} (h0 : Keeps r₀ s) (cmd : Nat) :
    OutKeeps r₀ (execCopy cmd s) := by
  unfold execCopy
  repeat' first
    | with_reducible assumption | with_reducible apply State.commit_keeps | with_reducible apply State.noteClosed_keeps
      | with_reducible apply State.onCmd_keeps | with_reducible apply State.rangeRefused_keeps
      | with_reducible apply State.setCmd_keeps | with_reducible apply withRoom_keeps | with_reducible refine out_next ?_
      | dsimp only | split | with_reducible intro _ | with_reducible apply Keeps.upd

theorem State.setCopy_keeps {r₀ s : State} (h0 : Keeps r₀ s) (j : CopyJob) :
    Keeps r₀ (State.setCopy s j) := by
  unfold State.setCopy
  extract_lets
  repeat' first
    | with_reducible assumption | with_reducible apply Keeps.upd

theorem State.dropCopy_keeps {r₀ s : State} (h0 : Keeps r₀ s) (cmd : Nat) :
    Keeps r₀ (State.dropCopy s cmd) := by
  unfold State.dropCopy
  extract_lets
  repeat' first
    | with_reducible assumption | with_reducible apply Keeps.upd

theorem State.copyFailed_keeps {r₀ s : State} (h0 : Keeps r₀ s) (j : CopyJob) (st : Status) :
    Keeps r₀ (State.copyFailed s j st) := by
  unfold State.copyFailed
  repeat' first
    | with_reducible assumption | with_reducible apply State.setCopy_keeps | split

theorem State.copyWrite_keeps {r₀ s : State} (h0 : Keeps r₀ s) (j : CopyJob) (dst : Nat) (bs : List Byte) (pmask : BitVec 32) :
    Keeps r₀ (State.copyWrite s j dst bs pmask) := by
  unfold State.copyWrite
  extract_lets
  repeat' first
    | with_reducible assumption | with_reducible apply State.coherentWrite_keeps
      | with_reducible apply State.copyFailed_keeps | with_reducible apply State.count_keeps
      | with_reducible apply State.countSpan_keeps | with_reducible apply State.noteClosed_keeps
      | with_reducible apply State.openTx_keeps | with_reducible apply State.setCopy_keeps
      | with_reducible apply State.writeRacy_keeps | with_reducible refine keeps_ite ?_ ?_
      | with_reducible refine keeps_foldl _ ?_ _ _ ?_ | split | with_reducible intro _

theorem State.copyPiece_keeps {r₀ s : State} (h0 : Keeps r₀ s) (j : CopyJob) :
    Keeps r₀ (State.copyPiece s j) := by
  unfold State.copyPiece
  extract_lets
  repeat' first
    | with_reducible assumption | with_reducible apply State.copyFailed_keeps | with_reducible apply State.copyWrite_keeps
      | with_reducible apply State.devRead_keeps | with_reducible apply State.noteClosed_keeps
      | with_reducible apply State.openTx_keeps | with_reducible apply State.setCopy_keeps
      | with_reducible refine keeps_ite ?_ ?_ | split

theorem State.copyRun_keeps {r₀ : State} : ∀ (k : Nat) {s : State} (_ : Keeps r₀ s) (x0 : Nat),
    Keeps r₀ (State.copyRun k s x0) := by
  intro k
  induction k with
  | zero =>
    intro s h x0
    unfold State.copyRun
    repeat' first
      | with_reducible assumption
  | succ k ih =>
    intro s h x0
    unfold State.copyRun
    repeat' first
      | with_reducible assumption | with_reducible apply ih | with_reducible apply State.copyPiece_keeps
         | with_reducible refine keeps_ite ?_ ?_ | dsimp only | split

theorem State.copiesRun_keeps {r₀ s : State} (h0 : Keeps r₀ s) :
    Keeps r₀ (State.copiesRun s) := by
  unfold State.copiesRun
  repeat' first
    | with_reducible assumption | with_reducible apply State.copyRun_keeps | with_reducible refine keeps_foldl _ ?_ _ _ ?_
       | with_reducible intro _

theorem State.copyReadDone_keeps {r₀ s : State} (h0 : Keeps r₀ s) (cmd : Nat) (dst : BitVec 64) (x : Resp) :
    Keeps r₀ (State.copyReadDone s cmd dst x) := by
  unfold State.copyReadDone
  repeat' first
    | with_reducible assumption | with_reducible apply State.copyFailed_keeps | with_reducible apply State.copyWrite_keeps
       | with_reducible refine keeps_ite ?_ ?_ | split

theorem State.copyWriteDone_keeps {r₀ s : State} (h0 : Keeps r₀ s) (cmd : Nat) (x : Resp) :
    Keeps r₀ (State.copyWriteDone s cmd x) := by
  unfold State.copyWriteDone
  repeat' first
    | with_reducible assumption | with_reducible apply State.copyFailed_keeps | with_reducible refine keeps_ite ?_ ?_ | split

theorem execCopyStart_keeps {r₀ s : State} (h0 : Keeps r₀ s) (lighter : Nat) :
    OutKeeps r₀ (execCopyStart lighter s) := by
  unfold execCopyStart
  extract_lets
  repeat' first
    | with_reducible assumption | with_reducible apply State.copyRun_keeps | with_reducible apply State.pump_keeps
      | with_reducible apply State.setCopy_keeps | with_reducible apply State.startCmd_keeps
      | with_reducible apply State.wakeUp_keeps | with_reducible apply withRoom_keeps | with_reducible refine out_next ?_
      | dsimp only | split | (dsimp +zetaDelta only; split)

theorem State.copyPoison_keeps {r₀ s : State} (h0 : Keeps r₀ s) (j : CopyJob) (c : Cmd) :
    Keeps r₀ (State.copyPoison s j c) := by
  unfold State.copyPoison
  repeat' first
    | with_reducible assumption | with_reducible apply State.event_keeps | with_reducible refine keeps_ite ?_ ?_

theorem execCopyCommit_keeps {r₀ s : State} (h0 : Keeps r₀ s) (cmd : Nat) :
    OutKeeps r₀ (execCopyCommit cmd s) := by
  unfold execCopyCommit
  repeat' first
    | with_reducible assumption | with_reducible apply State.commit_keeps | with_reducible apply State.copyPoison_keeps
      | with_reducible apply State.dropCopy_keeps | with_reducible apply State.pump_keeps
      | with_reducible apply State.settle_keeps | with_reducible apply State.unsettle_keeps
      | with_reducible apply withRoom_keeps | with_reducible refine out_next ?_ | dsimp only | split

theorem State.abortCopy_keeps {r₀ s : State} (h0 : Keeps r₀ s) (j : CopyJob) (c : Cmd) :
    Keeps r₀ (State.abortCopy s j c) := by
  unfold State.abortCopy
  repeat' first
    | with_reducible assumption | with_reducible apply State.commit_keeps | with_reducible apply State.copyPoison_keeps
       | with_reducible apply State.dropCopy_keeps | with_reducible apply State.unsettle_keeps

theorem State.planRefused_keeps {r₀ s : State} (h0 : Keeps r₀ s) (g : Nat) (p : Place) :
    Keeps r₀ (State.planRefused s g p) := by
  unfold State.planRefused
  repeat' first
    | with_reducible assumption | with_reducible apply State.event_keeps

theorem State.collChecks_keeps {r₀ s : State} (h0 : Keeps r₀ s) (c : Cmd) (g : Nat) (ranges : List (Nat × Nat × BitVec 32 × Access)) (refused busy : Bool) :
    Opt2Keeps r₀ (State.collChecks s c g ranges refused busy) := by
  unfold State.collChecks
  extract_lets
  repeat' first
    | with_reducible assumption | with_reducible apply State.planRefused_keeps | with_reducible apply State.rangeRefused_keeps
       | with_reducible refine keeps_ite ?_ ?_ | with_reducible refine opt2_map ?_ | dsimp only | with_reducible intro _

theorem State.readElems_keeps {r₀ s : State} (h0 : Keeps r₀ s) (at_ : Attr) (a n : Nat) (fmt : BitVec 4) :
    Keeps r₀ (State.readElems s at_ a n fmt).2 := by
  unfold State.readElems
  extract_lets
  repeat' first
    | with_reducible assumption | with_reducible apply State.devRead_keeps

theorem State.writeElems_keeps {r₀ s : State} (h0 : Keeps r₀ s) (at_ : Attr) (owner a : Nat) (fmt : BitVec 4) (es : List OutElem) :
    Keeps r₀ (State.writeElems s at_ owner a fmt es) := by
  unfold State.writeElems
  extract_lets
  repeat' first
    | with_reducible assumption | with_reducible apply State.coherentWrite_keeps | with_reducible apply State.countSpan_keeps
       | with_reducible apply State.putPieces_keeps

theorem State.scramble_keeps {r₀ s : State} (h0 : Keeps r₀ s) (a n : Nat) :
    Keeps r₀ (State.scramble s a n) := by
  unfold State.scramble
  repeat' first
    | with_reducible assumption | with_reducible apply State.fresh_keeps | with_reducible apply State.setRaw_keeps
       | with_reducible refine keeps_foldl _ ?_ _ _ ?_ | dsimp only | with_reducible intro _

theorem State.setBucket_keeps {r₀ s : State} (h0 : Keeps r₀ s) (b : Bucket) :
    Keeps r₀ (State.setBucket s b) := by
  unfold State.setBucket
  extract_lets
  repeat' first
    | with_reducible assumption | with_reducible apply Keeps.upd

theorem State.sendWire_keeps {r₀ s : State} (h0 : Keeps r₀ s) (b : Bucket) (gather : Bool) (d : Coord) (c : Nat) (image : List Byte) :
    Keeps r₀ (State.sendWire s b gather d c image) := by
  unfold State.sendWire
  repeat' first
    | with_reducible assumption | with_reducible apply State.launchPacket_keeps | with_reducible refine keeps_foldl _ ?_ _ _ ?_
       | dsimp only | split | with_reducible intro _

theorem State.ownChunk_keeps {r₀ s : State} (h0 : Keeps r₀ s) (b : Bucket) (c : Nat) :
    Keeps r₀ (State.ownChunk s b c).2 := by
  unfold State.ownChunk
  repeat' first
    | with_reducible assumption | with_reducible apply State.readElems_keeps

theorem State.combine_keeps {r₀ s : State} (h0 : Keeps r₀ s) (b : Bucket) (c : Nat) (col row : Option (List Byte)) :
    Keeps r₀ (State.combine s b c col row).2 := by
  unfold State.combine
  extract_lets
  repeat' first
    | with_reducible assumption | with_reducible apply State.nfCount_keeps | with_reducible apply State.odAdd_keeps
       | with_reducible apply State.ownChunk_keeps | with_reducible apply State.readElems_keeps
       | with_reducible apply State.writeElems_keeps | with_reducible refine keeps_foldl _ ?_ _ _ ?_ | split
       | with_reducible intro _

theorem State.gatherChunk_keeps {r₀ s : State} (h0 : Keeps r₀ s) (b : Bucket) (c : Nat) (w : Wire) (image : List Byte) :
    Keeps r₀ (State.gatherChunk s b c w image) := by
  unfold State.gatherChunk
  extract_lets
  repeat' first
    | with_reducible assumption | with_reducible apply State.nfCount_keeps | with_reducible apply State.sendWire_keeps
       | with_reducible apply State.setBucket_keeps | with_reducible apply State.writeElems_keeps
       | with_reducible refine keeps_foldl _ ?_ _ _ ?_ | with_reducible intro _

theorem State.reduceNext_keeps {r₀ s : State} (h0 : Keeps r₀ s) (b : Bucket) :
    OptKeeps r₀ (State.reduceNext s b) := by
  unfold State.reduceNext
  extract_lets
  repeat' first
    | with_reducible assumption | with_reducible exact opt_none | with_reducible apply State.combine_keeps
       | with_reducible apply State.gatherChunk_keeps | with_reducible apply State.sendWire_keeps
       | with_reducible apply State.setBucket_keeps | with_reducible refine opt_some ?_ | split

theorem State.gatherNext_keeps {r₀ s : State} (h0 : Keeps r₀ s) (b : Bucket) :
    OptKeeps r₀ (State.gatherNext s b) := by
  unfold State.gatherNext
  repeat' first
    | with_reducible assumption | with_reducible exact opt_none | with_reducible apply State.gatherChunk_keeps
       | with_reducible refine opt_map ?_ | split | with_reducible intro _

theorem State.bucketRun_keeps {r₀ : State} : ∀ (k : Nat) {s : State} (_ : Keeps r₀ s) (x0 : Nat),
    Keeps r₀ (State.bucketRun k s x0) := by
  intro k
  induction k with
  | zero =>
    intro s h x0
    unfold State.bucketRun
    repeat' first
      | with_reducible assumption
  | succ k ih =>
    intro s h x0
    unfold State.bucketRun
    repeat' first
      | with_reducible assumption | with_reducible apply ih | with_reducible apply State.gatherNext_keeps
         | with_reducible apply State.reduceNext_keeps | split
         | with_reducible refine OptKeeps.get ?_ (by with_reducible assumption)

theorem State.bucketGo_keeps {r₀ s : State} (h0 : Keeps r₀ s) (cmd : Nat) :
    Keeps r₀ (State.bucketGo s cmd) := by
  unfold State.bucketGo
  repeat' first
    | with_reducible assumption | with_reducible apply State.bucketRun_keeps | split

theorem State.startBucket_keeps {r₀ s : State} (h0 : Keeps r₀ s) (c : Cmd) (slot : Nat) :
    Keeps r₀ (State.startBucket s c slot) := by
  unfold State.startBucket
  extract_lets
  repeat' first
    | with_reducible assumption | with_reducible apply State.bucketGo_keeps | with_reducible apply State.ledgerE0_keeps
       | with_reducible apply State.sendCtrl_keeps | with_reducible apply State.startCmd_keeps
       | with_reducible refine keeps_foldl _ ?_ _ _ ?_ | with_reducible intro _ | with_reducible apply Keeps.upd

theorem execBucketPost_keeps {r₀ s : State} (h0 : Keeps r₀ s) (cmd : Nat) :
    OutKeeps r₀ (execBucketPost cmd s) := by
  unfold execBucketPost
  repeat' first
    | with_reducible assumption | with_reducible apply State.collChecks_keeps | with_reducible apply State.commit_keeps
      | with_reducible apply State.onCmd_keeps | with_reducible apply State.startBucket_keeps
      | with_reducible apply withRoom_keeps | with_reducible refine out_next ?_ | split | with_reducible intro _
      | with_reducible refine Opt2Keeps.get ?_ (by with_reducible assumption)

theorem State.dropBucket_keeps {r₀ s : State} (h0 : Keeps r₀ s) (cmd : Nat) :
    Keeps r₀ (State.dropBucket s cmd) := by
  unfold State.dropBucket
  extract_lets
  repeat' first
    | with_reducible assumption | with_reducible apply Keeps.upd

theorem execBucketPostCommit_keeps {r₀ s : State} (h0 : Keeps r₀ s) (cmd : Nat) :
    OutKeeps r₀ (execBucketPostCommit cmd s) := by
  unfold execBucketPostCommit
  extract_lets
  repeat' first
    | with_reducible assumption | with_reducible apply State.commit_keeps | with_reducible apply State.dropBucket_keeps
      | with_reducible apply State.ledgerAmax_keeps | with_reducible apply State.odAdd_keeps
      | with_reducible apply State.pump_keeps | with_reducible apply State.setNfStep_keeps
      | with_reducible apply State.settle_keeps | with_reducible apply withRoom_keeps
      | with_reducible refine keeps_ite ?_ ?_ | with_reducible refine out_next ?_ | dsimp only | split

theorem State.endBucket_keeps {r₀ s : State} (h0 : Keeps r₀ s) (b : Bucket) (cause : BitVec 8) (starter : Coord) :
    Keeps r₀ (State.endBucket s b cause starter) := by
  unfold State.endBucket
  extract_lets
  repeat' first
    | with_reducible assumption | with_reducible apply State.commit_keeps | with_reducible apply State.dropBucket_keeps
       | with_reducible apply State.event_keeps | with_reducible apply State.odAdd_keeps
       | with_reducible apply State.pump_keeps | with_reducible apply State.scramble_keeps
       | with_reducible apply State.sendCtrl_keeps | with_reducible apply State.settle_keeps
       | with_reducible refine keeps_ite ?_ ?_ | with_reducible refine keeps_foldl _ ?_ _ _ ?_ | split | with_reducible intro _

theorem execBktReady_keeps {r₀ s : State} (h0 : Keeps r₀ s) (fl : CollFlit) :
    OutKeeps r₀ (execBktReady fl s) := by
  unfold execBktReady
  repeat' first
    | with_reducible assumption | with_reducible apply State.bucketGo_keeps | with_reducible apply State.onFlit_keeps
      | with_reducible apply State.setBucket_keeps | with_reducible apply withRoom_keeps | with_reducible refine out_next ?_
      | dsimp only | split | with_reducible intro _ | with_reducible apply Keeps.upd

theorem execBktAbort_keeps {r₀ s : State} (h0 : Keeps r₀ s) (fl : CollFlit) :
    OutKeeps r₀ (execBktAbort fl s) := by
  unfold execBktAbort
  repeat' first
    | with_reducible assumption | with_reducible apply State.endBucket_keeps | with_reducible apply State.onFlit_keeps
      | with_reducible apply withRoom_keeps | with_reducible refine out_next ?_ | dsimp only | split
      | with_reducible intro _ | with_reducible apply Keeps.upd

theorem State.collDiscard_keeps {r₀ s : State} (h0 : Keeps r₀ s) (pk : Packet) :
    Keeps r₀ (State.collDiscard s pk) := by
  unfold State.collDiscard
  extract_lets
  repeat' first
    | with_reducible assumption | with_reducible apply State.event_keeps | with_reducible apply State.odAdd_keeps

theorem execCollData_keeps {r₀ s : State} (h0 : Keeps r₀ s) (port : Nat) (pk : Packet) :
    OutKeeps r₀ (execCollData port pk s) := by
  unfold execCollData
  extract_lets
  repeat' first
    | with_reducible assumption | with_reducible apply State.bucketGo_keeps | with_reducible apply State.collDiscard_keeps
      | with_reducible apply State.onPacket_keeps | with_reducible apply State.setBucket_keeps
      | with_reducible apply withRoom_keeps | with_reducible refine out_next ?_ | split | with_reducible intro _

theorem State.failChecks_keeps {r₀ s : State} (h0 : Keeps r₀ s) (c : Cmd) (ks : List (Nat × Status × BitVec 8)) (notFound refused frozen : Bool) :
    Opt2Keeps r₀ (State.failChecks s c ks notFound refused frozen) := by
  unfold State.failChecks
  repeat' first
    | with_reducible assumption | with_reducible apply State.rangeRefused_keeps | with_reducible refine keeps_ite ?_ ?_
       | with_reducible refine opt2_map ?_ | dsimp only | with_reducible intro _

def UpdKeeps (r : State) : UpdCheck → Prop
  | .fails _ s => Keeps r s
  | .ok _ s => Keeps r s
theorem State.updCheck_keeps {r₀ s : State} (h0 : Keeps r₀ s) (c : Cmd) : UpdKeeps r₀ (s.updCheck c) := by
  unfold State.updCheck
  extract_lets side len engines argsBad
  split
  · rename_i f hf
    exact Opt2Keeps.get (State.failChecks_keeps h0 _ _ _ _ _) hf
  · rename_i q s1 es rs _ _
    have h1 : Keeps r₀ s1 := State.devRead_keeps h0 _ _ _
    clear_value rs es s1 q
    split
    · exact h1
    · split
      · rename_i f hf
        exact Opt2Keeps.get (State.failChecks_keeps h1 _ _ _ _ _) hf
      · exact h1

theorem State.lanes_keeps {r₀ s : State} (h0 : Keeps r₀ s) (used : Bool) (a : Nat) :
    Keeps r₀ (State.lanes s used a).2 := by
  unfold State.lanes
  repeat' first
    | with_reducible assumption | with_reducible apply State.readWords_keeps | split

theorem State.gradRun_keeps {r₀ s : State} (h0 : Keeps r₀ s) (e : UpdEntry) (i : Nat) :
    Keeps r₀ (State.gradRun s e i).2 := by
  unfold State.gradRun
  extract_lets
  repeat' first
    | with_reducible assumption | with_reducible apply State.readBytes_keeps

theorem UpdCtx.four_keeps {r₀  : State} (u : UpdCtx) (i : Nat) (x : UpdWords) (hs : List (Grad × FlagVec)) (a : UpdSpan × State) (hp0 : Keeps r₀ a.2) :
    Keeps r₀ (UpdCtx.four u i x hs a).2 := by
  unfold UpdCtx.four
  extract_lets
  repeat' first
    | with_reducible assumption | with_reducible apply State.engineWrite_keeps
      | with_reducible refine keeps_foldl2 _ ?_ _ _ ?_ | dsimp only | split | with_reducible intro _

theorem UpdCtx.run_keeps {r₀  : State} (u : UpdCtx) (i : Nat) (hs : List (Grad × FlagVec)) (a : UpdSpan × State) (hp0 : Keeps r₀ a.2) :
    Keeps r₀ (UpdCtx.run u i hs a).2 := by
  unfold UpdCtx.run
  extract_lets
  repeat' first
    | with_reducible assumption | with_reducible apply State.lanes_keeps | with_reducible apply UpdCtx.four_keeps
      | with_reducible refine keeps_foldl2 _ ?_ _ _ ?_ | with_reducible intro _

theorem UpdCtx.count_keeps {r₀ s : State} (h0 : Keeps r₀ s) (u : UpdCtx) (engine i n : Nat) :
    Keeps r₀ (UpdCtx.count u engine i n s) := by
  unfold UpdCtx.count
  extract_lets
  repeat' first
    | with_reducible assumption | with_reducible apply State.countSpan_keeps | with_reducible refine keeps_ite ?_ ?_

theorem UpdCtx.span_keeps {r₀ s : State} (h0 : Keeps r₀ s) (u : UpdCtx) (engine i n : Nat) :
    Keeps r₀ (UpdCtx.span u engine i n s).2 := by
  unfold UpdCtx.span
  repeat' first
    | with_reducible assumption | with_reducible apply State.gradRun_keeps | with_reducible apply UpdCtx.count_keeps
      | with_reducible apply UpdCtx.run_keeps | with_reducible refine keeps_foldl2 _ ?_ _ _ ?_ | dsimp only
      | with_reducible intro _

theorem State.readMatrix_keeps {r₀ s : State} (h0 : Keeps r₀ s) (at_ : Attr) (addr b : Nat) :
    Keeps r₀ (State.readMatrix s at_ addr b).2 := by
  unfold State.readMatrix
  extract_lets
  repeat' first
    | with_reducible assumption | with_reducible apply State.readElems_keeps

theorem State.writeMatrix_keeps {r₀ s : State} (h0 : Keeps r₀ s) (at_ : Attr) (owner addr : Nat) (m : Matrix') :
    Keeps r₀ (State.writeMatrix s at_ owner addr m) := by
  unfold State.writeMatrix
  repeat' first
    | with_reducible assumption | with_reducible apply State.writeElems_keeps

theorem UpdCtx.blockStep_keeps {r₀ s : State} (h0 : Keeps r₀ s) (u : UpdCtx) (engine i j : Nat) :
    Keeps r₀ (UpdCtx.blockStep u engine i j s).2 := by
  unfold UpdCtx.blockStep
  extract_lets
  repeat' first
    | with_reducible assumption | with_reducible apply State.gradRun_keeps | with_reducible apply State.readMatrix_keeps
      | with_reducible apply State.writeMatrix_keeps | with_reducible apply UpdCtx.count_keeps
      | with_reducible apply UpdCtx.run_keeps | with_reducible refine keeps_foldl2 _ ?_ _ _ ?_ | dsimp only | split
      | with_reducible intro _ | with_reducible apply Keeps.upd

theorem UpdCtx.spanDone_keeps {r₀  : State} (u : UpdCtx) (n : Nat) (l : List UpdSpan) (x : UpdSpan × State) (hp0 : Keeps r₀ x.2) :
    Keeps r₀ (UpdCtx.spanDone u n l x).2 := by
  unfold UpdCtx.spanDone
  extract_lets
  repeat' first
    | with_reducible assumption | with_reducible apply State.count_keeps | with_reducible apply Keeps.upd

theorem UpdCtx.entry_keeps {r₀  : State} (u : UpdCtx) (engines : List Nat) (a : List UpdSpan × State) (hp0 : Keeps r₀ a.2) :
    Keeps r₀ (UpdCtx.entry u engines a).2 := by
  unfold UpdCtx.entry
  extract_lets
  repeat' first
    | with_reducible assumption | with_reducible apply State.coherentWrite_keeps
      | with_reducible apply UpdCtx.blockStep_keeps | with_reducible apply UpdCtx.span_keeps
      | with_reducible apply UpdCtx.spanDone_keeps | with_reducible refine keeps_foldl _ ?_ _ _ ?_
      | with_reducible refine keeps_foldl2 _ ?_ _ _ ?_ | dsimp only | split | with_reducible intro _

theorem State.setUpdate_keeps {r₀ s : State} (h0 : Keeps r₀ s) (u : UpdateRun) :
    Keeps r₀ (State.setUpdate s u) := by
  unfold State.setUpdate
  extract_lets
  repeat' first
    | with_reducible assumption | with_reducible apply Keeps.upd

theorem State.dropUpdate_keeps {r₀ s : State} (h0 : Keeps r₀ s) (cmd : Nat) :
    Keeps r₀ (State.dropUpdate s cmd) := by
  unfold State.dropUpdate
  extract_lets
  repeat' first
    | with_reducible assumption | with_reducible apply Keeps.upd

theorem State.applyUpdate_keeps {r₀ s : State} (h0 : Keeps r₀ s) (c : Cmd) (es : List UpdEntry) (cores : List Nat) :
    Keeps r₀ (State.applyUpdate s c es cores) := by
  unfold State.applyUpdate
  extract_lets
  repeat' first
    | with_reducible assumption | with_reducible apply State.event_keeps | with_reducible apply State.odAdd_keeps
      | with_reducible apply State.setUpdate_keeps | with_reducible apply UpdCtx.entry_keeps
      | with_reducible refine keeps_ite ?_ ?_ | with_reducible refine keeps_foldl2 _ ?_ _ _ ?_ | with_reducible intro _

theorem State.startUpdate_keeps {r₀ s : State} (h0 : Keeps r₀ s) (c : Cmd) (es : List UpdEntry) (cores : List Nat) :
    Keeps r₀ (State.startUpdate s c es cores) := by
  unfold State.startUpdate
  extract_lets
  repeat' first
    | with_reducible assumption | with_reducible apply State.applyUpdate_keeps | with_reducible apply State.event_keeps
      | with_reducible apply State.odAdd_keeps | with_reducible apply State.pass_keeps
      | with_reducible apply State.samplePoint_keeps | with_reducible apply State.setUpdate_keeps
      | with_reducible apply State.startCmd_keeps | with_reducible refine keeps_ite ?_ ?_ | (dsimp +zetaDelta only; split)

theorem execUpdateStep_keeps {r₀ s : State} (h0 : Keeps r₀ s) (cmd : Nat) : OutKeeps r₀ (execUpdateStep cmd s) := by
  unfold execUpdateStep
  refine withRoom_keeps h0 _ ?_
  split
  · exact out_next h0
  · rename_i c hc
    split
    · have h := State.updCheck_keeps h0 c
      split
      · rename_i st s1 hs
        rw [hs] at h
        exact out_next (State.pump_keeps (State.commit_keeps (State.dropUpdate_keeps h _) _ _ _))
      · rename_i es s1 hs
        rw [hs] at h
        extract_lets cores
        split
        · exact out_next (State.pump_keeps (State.startUpdate_keeps h _ _ _))
        · exact out_next (State.pump_keeps (State.setUpdate_keeps (State.setCmd_keeps h _) _))
    · exact out_next h0

theorem State.stepDone_keeps {r₀ s : State} (h0 : Keeps r₀ s) (job : BitVec 16) :
    Keeps r₀ (State.stepDone s job) := by
  unfold State.stepDone
  repeat' first
    | with_reducible assumption | with_reducible apply State.noteEnd_keeps | with_reducible apply State.odSet_keeps
      | with_reducible apply State.rollLedger_keeps | split

theorem State.countUpdate_keeps {r₀ s : State} (h0 : Keeps r₀ s) (c : Cmd) (u : UpdateRun) :
    Keeps r₀ (State.countUpdate s c u) := by
  unfold State.countUpdate
  extract_lets
  repeat' first
    | with_reducible assumption | with_reducible apply State.event_keeps | with_reducible apply State.nfCount_keeps
      | with_reducible apply State.odAdd_keeps | with_reducible refine keeps_foldl _ ?_ _ _ ?_ | split
      | with_reducible intro _

theorem State.countSkip_keeps {r₀ s : State} (h0 : Keeps r₀ s) (c : Cmd) :
    Keeps r₀ (State.countSkip s c) := by
  unfold State.countSkip
  repeat' first
    | with_reducible assumption | with_reducible apply State.event_keeps | with_reducible apply State.odAdd_keeps

theorem State.endUpdate_keeps {r₀ s : State} (h0 : Keeps r₀ s) (c : Cmd) (u : UpdateRun) (st : Status) :
    Keeps r₀ (State.endUpdate s c u st) := by
  unfold State.endUpdate
  repeat' first
    | with_reducible assumption | with_reducible apply State.commit_keeps | with_reducible apply State.countUpdate_keeps
      | with_reducible apply State.dropUpdate_keeps | with_reducible apply State.orJobFlags_keeps
      | with_reducible apply State.stepDone_keeps

theorem execUpdateStepCommit_keeps {r₀ s : State} (h0 : Keeps r₀ s) (cmd : Nat) :
    OutKeeps r₀ (execUpdateStepCommit cmd s) := by
  unfold execUpdateStepCommit
  repeat' first
    | with_reducible assumption | with_reducible apply State.countSkip_keeps | with_reducible apply State.endUpdate_keeps
      | with_reducible apply State.pump_keeps | with_reducible apply State.settle_keeps
      | with_reducible apply withRoom_keeps | with_reducible refine keeps_ite ?_ ?_ | with_reducible refine out_next ?_
      | split

theorem State.spansDone_keeps {r₀ s : State} (h0 : Keeps r₀ s) (u : UpdateRun) :
    Keeps r₀ (State.spansDone s u).2 := by
  unfold State.spansDone
  repeat' first
    | with_reducible assumption | with_reducible apply State.fresh_keeps | with_reducible refine keeps_foldl2 _ ?_ _ _ ?_
      | dsimp only | split | with_reducible intro _

theorem State.abortUpdate_keeps {r₀ s : State} (h0 : Keeps r₀ s) (c : Cmd) (u : UpdateRun) :
    Keeps r₀ (State.abortUpdate s c u) := by
  unfold State.abortUpdate
  extract_lets
  repeat' first
    | with_reducible assumption | with_reducible apply State.endUpdate_keeps | with_reducible apply State.spansDone_keeps
      | with_reducible apply State.unsettle_keeps | with_reducible apply Keeps.upd

end Sys2Proof.Machine
end

