-- ==== Sys2Proof/Laws/KeepsFlow.lean ====
section
/-!
SUPPORT. `Keeps` (Sys2Proof/Laws/Keeps.lean) for each operation of handoff, pools, packets, barriers, ports, device states, jobs and
rings: one lemma per definition,
named after it.
-/

namespace Sys2Proof.Machine

open Sys2Proof

theorem State.handoff_keeps {r₀ s : State} (h0 : Keeps r₀ s) (c : Cmd) (send : Bool) :
    Keeps r₀ (State.handoff s c send) := by
  unfold State.handoff
  extract_lets
  repeat' first
    | with_reducible assumption | with_reducible apply State.commit_keeps | with_reducible apply State.hoNext_keeps
       | with_reducible apply State.rangeRefused_keeps | with_reducible apply State.setCmd_keeps
       | with_reducible refine keeps_ite ?_ ?_ | split

theorem execConsumedLimit_keeps {r₀ s : State} (h0 : Keeps r₀ s) (channel : Nat) (limit : BitVec 64) (posted : BitVec 32) :
    OutKeeps r₀ (execConsumedLimit channel limit posted s) := by
  unfold execConsumedLimit
  extract_lets
  repeat' first
    | with_reducible assumption | with_reducible apply State.devWrite_keeps | with_reducible apply State.newLine1_keeps
      | with_reducible apply withRoom_keeps | with_reducible refine out_next ?_ | split

theorem State.hoWritten_keeps {r₀ s : State} (h0 : Keeps r₀ s) (cmd : Nat) (x : Resp) :
    Keeps r₀ (State.hoWritten s cmd x) := by
  unfold State.hoWritten
  repeat' first
    | with_reducible assumption | with_reducible apply State.hoFailed_keeps | with_reducible apply State.hoGo_keeps
       | with_reducible apply State.hoNext_keeps | with_reducible refine keeps_ite ?_ ?_ | dsimp only | split

theorem State.untold_keeps {r₀ s : State} (h0 : Keeps r₀ s) (h : Nat) (st : Status) :
    Keeps r₀ (State.untold s h st) := by
  unfold State.untold
  extract_lets
  repeat' first
    | with_reducible assumption | with_reducible apply State.setChannel_keeps | with_reducible refine keeps_ite ?_ ?_

theorem State.hoProgressed_keeps {r₀ s : State} (h0 : Keeps r₀ s) (cmd k : Nat) (x : Resp) :
    Keeps r₀ (State.hoProgressed s cmd k x) := by
  unfold State.hoProgressed
  repeat' first
    | with_reducible assumption | with_reducible apply State.devWrite_keeps | with_reducible apply State.endHandoff_keeps
      | with_reducible apply State.hoFailed_keeps | with_reducible apply State.hoGo_keeps
      | with_reducible apply State.hoNext_keeps | with_reducible apply State.odAdd_keeps
      | with_reducible apply State.setChannel_keeps | with_reducible apply State.untold_keeps
      | with_reducible refine keeps_ite ?_ ?_ | dsimp only | split

theorem State.lineZeroWritten_keeps {r₀ s : State} (h0 : Keeps r₀ s) (a n : Nat) :
    Keeps r₀ (State.lineZeroWritten s a n) := by
  unfold State.lineZeroWritten
  repeat' first
    | with_reducible assumption | with_reducible apply State.devRead_keeps | with_reducible apply State.hoNext_keeps
       | with_reducible apply State.odSet_keeps | with_reducible apply State.recvCheck_keeps
       | with_reducible apply State.setChannel_keeps | with_reducible refine keeps_foldl _ ?_ _ _ ?_ | dsimp only | split
       | with_reducible intro _

theorem execHoSend_keeps {r₀ s : State} (h0 : Keeps r₀ s) (cmd : Nat) :
    OutKeeps r₀ (execHoSend cmd s) := by
  unfold execHoSend
  repeat' first
    | with_reducible assumption | with_reducible apply State.handoff_keeps | with_reducible apply State.onCmd_keeps
      | with_reducible apply withRoom_keeps | with_reducible refine out_next ?_ | split | with_reducible intro _

theorem execHoRecv_keeps {r₀ s : State} (h0 : Keeps r₀ s) (cmd : Nat) :
    OutKeeps r₀ (execHoRecv cmd s) := by
  unfold execHoRecv
  repeat' first
    | with_reducible assumption | with_reducible apply State.handoff_keeps | with_reducible apply State.hoNext_keeps
      | with_reducible apply State.onCmd_keeps | with_reducible apply State.recvCheck_keeps
      | with_reducible apply withRoom_keeps | with_reducible refine out_next ?_ | split | with_reducible intro _

theorem execSendChunk_keeps {r₀ s : State} (h0 : Keeps r₀ s) (channel : Nat) :
    OutKeeps r₀ (execSendChunk channel s) := by
  unfold execSendChunk
  extract_lets
  repeat' first
    | with_reducible assumption | with_reducible apply State.hoGo_keeps | with_reducible apply State.hoNext_keeps
      | with_reducible apply State.setChannel_keeps | with_reducible apply withRoom_keeps
      | with_reducible refine out_next ?_ | split

theorem State.hoExpires_keeps {r₀ s : State} (h0 : Keeps r₀ s) (c : Cmd) :
    Keeps r₀ (State.hoExpires s c) := by
  unfold State.hoExpires
  extract_lets
  repeat' first
    | with_reducible assumption | with_reducible apply State.devRead_keeps | with_reducible apply State.endHandoff_keeps
      | with_reducible apply State.event_keeps | with_reducible apply State.hoNext_keeps
      | with_reducible refine keeps_ite ?_ ?_ | (dsimp +zetaDelta only; split)

theorem execHoTimeout_keeps {r₀ s : State} (h0 : Keeps r₀ s) (cmd : Nat) :
    OutKeeps r₀ (execHoTimeout cmd s) := by
  unfold execHoTimeout
  repeat' first
    | with_reducible assumption | with_reducible apply State.advanceTo_keeps | with_reducible apply State.hoExpires_keeps
      | with_reducible apply withRoom_keeps | with_reducible refine out_next ?_ | split

theorem State.abortHandoff_keeps {r₀ s : State} (h0 : Keeps r₀ s) (c : Cmd) :
    Keeps r₀ (State.abortHandoff s c) := by
  unfold State.abortHandoff
  extract_lets
  repeat' first
    | with_reducible assumption | with_reducible apply State.endHandoff_keeps | with_reducible apply State.hoNext_keeps
       | with_reducible apply State.hoProgress_keeps | with_reducible apply State.hoStall_keeps
       | with_reducible apply State.setChannel_keeps | with_reducible refine keeps_ite ?_ ?_

theorem execHoJob_keeps {r₀ s : State} (h0 : Keeps r₀ s) (via : OdPath) (channel : Nat) (job : BitVec 16) :
    OutKeeps r₀ (execHoJob via channel job s) := by
  unfold execHoJob
  extract_lets
  repeat' first
    | with_reducible assumption | with_reducible apply State.arm_keeps | with_reducible apply State.disarm_keeps
      | with_reducible apply State.odRow_keeps | with_reducible apply State.odSet_keeps
      | with_reducible apply State.setChannel_keeps | with_reducible apply withAccess_keeps
      | with_reducible apply withRoom_keeps | with_reducible refine out_next ?_ | dsimp only | split
      | with_reducible intro _

theorem State.setPool_keeps {r₀ s : State} (h0 : Keeps r₀ s) (i : Nat) (p : Pool) :
    Keeps r₀ (State.setPool s i p) := by
  unfold State.setPool
  repeat' first
    | with_reducible assumption | with_reducible apply State.odSet_keeps | with_reducible apply Keeps.upd

theorem State.resetPool_keeps {r₀ s : State} (h0 : Keeps r₀ s) (i : Nat) :
    Keeps r₀ (State.resetPool s i) := by
  unfold State.resetPool
  repeat' first
    | with_reducible assumption | with_reducible apply State.odResets_keeps | with_reducible apply Keeps.upd

theorem State.poolGot_keeps {r₀ s : State} (h0 : Keeps r₀ s) (c : Cmd) (i : Nat) (e : PoolEntry) (hit : Bool) :
    Keeps r₀ (State.poolGot s c i e hit) := by
  unfold State.poolGot
  repeat' first
    | with_reducible assumption | with_reducible apply State.commit_keeps | with_reducible apply State.devWrite_keeps

theorem State.poolGet_keeps {r₀ s : State} (h0 : Keeps r₀ s) (c : Cmd) (i : Nat) :
    Keeps r₀ (State.poolGet s c i) := by
  unfold State.poolGet
  extract_lets
  repeat' first
    | with_reducible assumption | with_reducible apply State.commit_keeps | with_reducible apply State.odAdd_keeps
       | with_reducible apply State.poolGot_keeps | with_reducible apply State.setPool_keeps
       | with_reducible refine keeps_ite ?_ ?_ | dsimp only | split

theorem execPoolGet_keeps {r₀ s : State} (h0 : Keeps r₀ s) (cmd : Nat) :
    OutKeeps r₀ (execPoolGet cmd s) := by
  unfold execPoolGet
  repeat' first
    | with_reducible assumption | with_reducible apply State.commit_keeps | with_reducible apply State.failChecks_keeps
      | with_reducible apply State.onCmd_keeps | with_reducible apply State.poolGet_keeps
      | with_reducible apply withRoom_keeps | with_reducible refine out_next ?_ | dsimp only | split
      | with_reducible intro _ | with_reducible refine Opt2Keeps.get ?_ (by with_reducible assumption)

theorem execPoolPut_keeps {r₀ s : State} (h0 : Keeps r₀ s) (cmd : Nat) :
    OutKeeps r₀ (execPoolPut cmd s) := by
  unfold execPoolPut
  repeat' first
    | with_reducible assumption | with_reducible apply State.commit_keeps | with_reducible apply State.onCmd_keeps
      | with_reducible apply State.setPool_keeps | with_reducible apply withRoom_keeps | with_reducible refine out_next ?_
      | dsimp only | split | with_reducible intro _

theorem execPoolDrop_keeps {r₀ s : State} (h0 : Keeps r₀ s) (cmd : Nat) :
    OutKeeps r₀ (execPoolDrop cmd s) := by
  unfold execPoolDrop
  repeat' first
    | with_reducible assumption | with_reducible apply State.commit_keeps | with_reducible apply State.onCmd_keeps
      | with_reducible apply State.setPool_keeps | with_reducible apply withRoom_keeps | with_reducible refine out_next ?_
      | split | with_reducible intro _

theorem State.heldAnswer_keeps {r₀ s : State} (h0 : Keeps r₀ s) (g : GroupRef) (t : Tx) (lanes : List (Nat × Nat)) (x : Resp)   :
    Keeps r₀ (State.heldAnswer s g t lanes x) := by
  unfold State.heldAnswer
  split
  · exact h0
  · rename_i gr _
    generalize hh : gr.hold = hd
    cases hd <;> first
    | exact h0
    | exact State.reap_keeps h0 _
    | exact State.heldDone_keeps (State.laneAnswer_keeps h0 _ _ _ _ _ _) _

theorem State.txEnded_keeps {r₀ s : State} (h0 : Keeps r₀ s) (t : Tx) (x : Resp) :
    Keeps r₀ (State.txEnded s t x) := by
  unfold State.txEnded
  repeat' first
    | with_reducible assumption | with_reducible apply State.copyReadDone_keeps
       | with_reducible apply State.copyWriteDone_keeps | with_reducible apply State.heldAnswer_keeps
       | with_reducible apply State.hoProgressed_keeps | with_reducible apply State.hoWritten_keeps
       | with_reducible apply State.mirrorDone_keeps | with_reducible apply State.postFailed_keeps
       | with_reducible apply State.wake_keeps | split

theorem State.heldGo_keeps {r₀ s : State} (h0 : Keeps r₀ s) :
    Keeps r₀ (State.heldGo s) := by
  unfold State.heldGo
  repeat' first
    | with_reducible assumption | with_reducible apply State.heldDone_keeps | with_reducible refine keeps_foldl _ ?_ _ _ ?_
      | with_reducible intro _

theorem State.txRoom_keeps {r₀ s : State} (h0 : Keeps r₀ s) :
    Keeps r₀ (State.txRoom s) := by
  unfold State.txRoom
  extract_lets
  repeat' first
    | with_reducible assumption | with_reducible apply State.copiesRun_keeps | with_reducible apply State.heldGo_keeps
      | with_reducible apply State.hoGo_keeps | with_reducible apply State.hoNext_keeps
      | with_reducible apply State.lineGo_keeps | with_reducible apply State.mirrorGo_keeps
      | with_reducible refine keeps_foldl _ ?_ _ _ ?_ | dsimp only | split | with_reducible intro _

theorem State.finishTx_keeps {r₀ s : State} (h0 : Keeps r₀ s) (t : Tx) (x : Resp) :
    Keeps r₀ (State.finishTx s t x) := by
  unfold State.finishTx
  extract_lets
  repeat' first
    | with_reducible assumption | with_reducible apply State.timeoutNoted_keeps | with_reducible apply State.txEnded_keeps
       | with_reducible apply State.txRoom_keeps | with_reducible refine keeps_ite ?_ ?_ | with_reducible apply Keeps.upd

theorem State.fillLine_keeps {r₀ s : State} (h0 : Keeps r₀ s) (t : Tx) (x : Resp) :
    Keeps r₀ (State.fillLine s t x) := by
  unfold State.fillLine
  extract_lets
  repeat' first
    | with_reducible assumption | with_reducible refine keeps_ite ?_ ?_ | dsimp only | split | (dsimp +zetaDelta only; split)
       | with_reducible apply Keeps.upd

theorem State.partResponse_keeps {r₀ s : State} (h0 : Keeps r₀ s) (t : Tx) (r : Nat × Nat) (x : Resp) :
    Keeps r₀ (State.partResponse s t r x) := by
  unfold State.partResponse
  extract_lets
  repeat' first
    | with_reducible assumption | with_reducible apply State.txEnded_keeps | with_reducible apply Keeps.upd

theorem State.takeResponse_keeps {r₀ s : State} (h0 : Keeps r₀ s) (pk : Packet) (coherent : Bool) :
    Keeps r₀ (State.takeResponse s pk coherent) := by
  unfold State.takeResponse
  repeat' first
    | with_reducible assumption | with_reducible apply State.fillLine_keeps | with_reducible apply State.finishTx_keeps
      | with_reducible apply State.lateResponse_keeps | with_reducible apply State.partResponse_keeps | split

theorem execRemoteResponse_keeps {r₀ s : State} (h0 : Keeps r₀ s) (pk : Packet) (coherent : Bool) :
    OutKeeps r₀ (execRemoteResponse pk coherent s) := by
  unfold execRemoteResponse
  repeat' first
    | with_reducible assumption | with_reducible apply State.onPacket_keeps | with_reducible apply State.takeResponse_keeps
      | with_reducible apply State.wakeUp_keeps | with_reducible apply withRoom_keeps | with_reducible refine out_next ?_
      | split | with_reducible intro _

theorem execRemoteTimeout_keeps {r₀ s : State} (h0 : Keeps r₀ s) (tag : Nat) :
    OutKeeps r₀ (execRemoteTimeout tag s) := by
  unfold execRemoteTimeout
  repeat' first
    | with_reducible assumption | with_reducible apply State.advanceTo_keeps | with_reducible apply State.finishTx_keeps
      | with_reducible apply State.leaveLate_keeps | with_reducible apply withRoom_keeps | with_reducible refine out_next ?_
      | split

theorem State.mcGo_keeps {r₀ s : State} (h0 : Keeps r₀ s) (pk : Packet) :
    Keeps r₀ (State.mcGo s pk) := by
  unfold State.mcGo
  extract_lets
  repeat' first
    | with_reducible assumption | with_reducible apply State.mcForward_keeps | with_reducible apply State.sendResponse_keeps
       | with_reducible apply State.takeResponse_keeps | with_reducible refine keeps_ite ?_ ?_

theorem State.acked_keeps {r₀ s : State} (h0 : Keeps r₀ s) (pk : Packet) :
    Keeps r₀ (State.acked s pk) := by
  unfold State.acked
  repeat' first
    | with_reducible assumption | with_reducible apply State.mcGo_keeps | with_reducible apply State.sendResponse_keeps
       | with_reducible apply State.takeResponse_keeps | with_reducible refine keeps_ite ?_ ?_

theorem State.servePacket_keeps {r₀ s : State} (h0 : Keeps r₀ s) (port : Nat) (pk : Packet) :
    Keeps r₀ (State.servePacket s port pk) := by
  unfold State.servePacket
  extract_lets
  repeat' first
    | with_reducible assumption | with_reducible apply State.acked_keeps | with_reducible apply State.awaitAcks_keeps
      | with_reducible apply State.lineZeroWritten_keeps | with_reducible apply State.serveReq_keeps
      | with_reducible apply State.wakeUp_keeps | with_reducible refine keeps_ite ?_ ?_ | split
      | with_reducible apply Keeps.upd

theorem reqRow_keeps {r₀ s : State} (h0 : Keeps r₀ s) (ok : BitVec 8 → Bool) (port : Nat) (pk : Packet) :
    OutKeeps r₀ (reqRow ok port pk s) := by
  unfold reqRow
  repeat' first
    | with_reducible assumption | with_reducible apply State.onPacket_keeps | with_reducible apply State.servePacket_keeps
      | with_reducible refine out_next ?_ | split | with_reducible intro _

theorem execPktRead_keeps {r₀ s : State} (h0 : Keeps r₀ s) (port : Nat) (pk : Packet) :
    OutKeeps r₀ (execPktRead port pk s) := by
  unfold execPktRead
  repeat' first
    | with_reducible assumption | with_reducible apply reqRow_keeps | with_reducible apply withRoom_keeps

theorem execPktWrite_keeps {r₀ s : State} (h0 : Keeps r₀ s) (port : Nat) (pk : Packet) :
    OutKeeps r₀ (execPktWrite port pk s) := by
  unfold execPktWrite
  repeat' first
    | with_reducible assumption | with_reducible apply reqRow_keeps | with_reducible apply withRoom_keeps

theorem execPktCas_keeps {r₀ s : State} (h0 : Keeps r₀ s) (port : Nat) (pk : Packet) :
    OutKeeps r₀ (execPktCas port pk s) := by
  unfold execPktCas
  repeat' first
    | with_reducible assumption | with_reducible apply reqRow_keeps | with_reducible apply withRoom_keeps

theorem execPktSwap_keeps {r₀ s : State} (h0 : Keeps r₀ s) (port : Nat) (pk : Packet) :
    OutKeeps r₀ (execPktSwap port pk s) := by
  unfold execPktSwap
  repeat' first
    | with_reducible assumption | with_reducible apply reqRow_keeps | with_reducible apply withRoom_keeps

theorem execFetchAdd_keeps {r₀ s : State} (h0 : Keeps r₀ s) (port : Nat) (pk : Packet) :
    OutKeeps r₀ (execFetchAdd port pk s) := by
  unfold execFetchAdd
  repeat' first
    | with_reducible assumption | with_reducible apply reqRow_keeps | with_reducible apply withRoom_keeps

theorem execReductionRequest_keeps {r₀ s : State} (h0 : Keeps r₀ s) (port : Nat) (pk : Packet) :
    OutKeeps r₀ (execReductionRequest port pk s) := by
  unfold execReductionRequest
  repeat' first
    | with_reducible assumption | with_reducible apply reqRow_keeps | with_reducible apply withRoom_keeps

theorem execMcastWrite_keeps {r₀ s : State} (h0 : Keeps r₀ s) (port : Nat) (pk : Packet) :
    OutKeeps r₀ (execMcastWrite port pk s) := by
  unfold execMcastWrite
  repeat' first
    | with_reducible assumption | with_reducible apply reqRow_keeps | with_reducible apply withRoom_keeps

theorem State.loseLine_keeps {r₀ s : State} (h0 : Keeps r₀ s) (home : Coord) (line : Nat) :
    Keeps r₀ (State.loseLine s home line) := by
  unfold State.loseLine
  extract_lets
  repeat' first
    | with_reducible assumption | with_reducible apply Keeps.upd

theorem execInvalidate_keeps {r₀ s : State} (h0 : Keeps r₀ s) (port : Nat) (pk : Packet) :
    OutKeeps r₀ (execInvalidate port pk s) := by
  unfold execInvalidate
  repeat' first
    | with_reducible assumption | with_reducible apply State.loseLine_keeps | with_reducible apply State.onPacket_keeps
      | with_reducible apply State.sendResponse_keeps | with_reducible refine out_next ?_ | split | with_reducible intro _

theorem State.ackFrom_keeps {r₀ s : State} (h0 : Keeps r₀ s) (line : Nat) (c : Coord) :
    Keeps r₀ (State.ackFrom s line c) := by
  unfold State.ackFrom
  extract_lets
  repeat' first
    | with_reducible assumption | with_reducible apply State.acked_keeps | with_reducible refine keeps_foldl _ ?_ _ _ ?_
      | with_reducible intro _ | with_reducible apply Keeps.upd

theorem execInvAck_keeps {r₀ s : State} (h0 : Keeps r₀ s) (port : Nat) (pk : Packet) :
    OutKeeps r₀ (execInvAck port pk s) := by
  unfold execInvAck
  repeat' first
    | with_reducible assumption | with_reducible apply State.ackFrom_keeps | with_reducible apply State.onPacket_keeps
      | with_reducible apply withRoom_keeps | with_reducible refine out_next ?_ | split | with_reducible intro _

theorem State.sendArrive_keeps {r₀ s : State} (h0 : Keeps r₀ s) (r : BarrierRun) (d : Coord) (noEpoch : Bool) (ctx : Nat) :
    Keeps r₀ (State.sendArrive s r d noEpoch ctx) := by
  unfold State.sendArrive
  repeat' first
    | with_reducible assumption | with_reducible apply State.sendCtrl_keeps

theorem State.sendRelease_keeps {r₀ s : State} (h0 : Keeps r₀ s) (r : BarrierRun) (st : Status) (noEpoch : Bool) (ctx : Nat) :
    Keeps r₀ (State.sendRelease s r st noEpoch ctx) := by
  unfold State.sendRelease
  repeat' first
    | with_reducible assumption | with_reducible apply State.sendCtrl_keeps | with_reducible refine keeps_foldl _ ?_ _ _ ?_
       | with_reducible intro _

theorem State.setBarrier_keeps {r₀ s : State} (h0 : Keeps r₀ s) (ctx : Nat) (r : BarrierRun) :
    Keeps r₀ (State.setBarrier s ctx r) := by
  unfold State.setBarrier
  repeat' first
    | with_reducible assumption | with_reducible apply Keeps.upd

theorem State.barrierFails_keeps {r₀ s : State} (h0 : Keeps r₀ s) (ctx : Nat) (r : BarrierRun) (st : Status) (orphan : Bool) :
    Keeps r₀ (State.barrierFails s ctx r st orphan) := by
  unfold State.barrierFails
  extract_lets
  repeat' first
    | with_reducible assumption | with_reducible apply State.commit_keeps | with_reducible apply State.event_keeps
       | with_reducible apply State.odAdd_keeps | with_reducible apply State.pump_keeps | with_reducible refine keeps_ite ?_ ?_
       | split | with_reducible apply Keeps.upd

theorem State.releaseBarrier_keeps {r₀ s : State} (h0 : Keeps r₀ s) (ctx : Nat) (r : BarrierRun) (st : Status) :
    Keeps r₀ (State.releaseBarrier s ctx r st) := by
  unfold State.releaseBarrier
  extract_lets
  repeat' first
    | with_reducible assumption | with_reducible apply State.barrierFails_keeps | with_reducible apply State.sendRelease_keeps
       | with_reducible apply State.setBarrier_keeps | with_reducible refine keeps_ite ?_ ?_ | with_reducible apply Keeps.upd

theorem State.advanceBarrier_keeps {r₀ s : State} (h0 : Keeps r₀ s) (ctx : Nat) (r : BarrierRun) :
    Keeps r₀ (State.advanceBarrier s ctx r) := by
  unfold State.advanceBarrier
  extract_lets
  repeat' first
    | with_reducible assumption | with_reducible apply State.releaseBarrier_keeps | with_reducible apply State.sendArrive_keeps
       | with_reducible apply State.setBarrier_keeps | with_reducible refine keeps_ite ?_ ?_ | split

theorem State.rootDecides_keeps {r₀ s : State} (h0 : Keeps r₀ s) (ctx : Nat) :
    Keeps r₀ (State.rootDecides s ctx) := by
  unfold State.rootDecides
  repeat' first
    | with_reducible assumption | with_reducible apply State.releaseBarrier_keeps | with_reducible refine keeps_ite ?_ ?_
      | split

theorem State.rootsDecide_keeps {r₀ s : State} (h0 : Keeps r₀ s) :
    Keeps r₀ (State.rootsDecide s) := by
  unfold State.rootsDecide
  repeat' first
    | with_reducible assumption | with_reducible apply State.rootDecides_keeps
      | with_reducible refine keeps_foldl _ ?_ _ _ ?_ | with_reducible intro _

theorem State.startBarrier_keeps {r₀ s : State} (h0 : Keeps r₀ s) (c : Cmd) (ctx g : Nat) :
    Keeps r₀ (State.startBarrier s c ctx g) := by
  unfold State.startBarrier
  extract_lets
  repeat' first
    | with_reducible assumption | with_reducible apply State.advanceBarrier_keeps
      | with_reducible apply State.barrierFails_keeps | with_reducible apply State.rootDecides_keeps
      | with_reducible apply State.startCmd_keeps | (dsimp +zetaDelta only; split) | with_reducible apply Keeps.upd

theorem execBarrier_keeps {r₀ s : State} (h0 : Keeps r₀ s) (cmd : Nat) :
    OutKeeps r₀ (execBarrier cmd s) := by
  unfold execBarrier
  repeat' first
    | with_reducible assumption | with_reducible apply State.collChecks_keeps | with_reducible apply State.commit_keeps
      | with_reducible apply State.onCmd_keeps | with_reducible apply State.startBarrier_keeps
      | with_reducible apply withRoom_keeps | with_reducible refine out_next ?_ | dsimp only | split
      | with_reducible intro _ | with_reducible refine Opt2Keeps.get ?_ (by with_reducible assumption)

theorem State.barrierExpires_keeps {r₀ s : State} (h0 : Keeps r₀ s) (ctx : Nat) (r : BarrierRun) :
    Keeps r₀ (State.barrierExpires s ctx r) := by
  unfold State.barrierExpires
  extract_lets
  repeat' first
    | with_reducible assumption | with_reducible apply State.rootDecides_keeps | with_reducible apply State.sendCtrl_keeps
      | with_reducible apply State.setBarrier_keeps | with_reducible refine keeps_ite ?_ ?_

theorem execBarrierTimeout_keeps {r₀ s : State} (h0 : Keeps r₀ s) (ctx : Nat) :
    OutKeeps r₀ (execBarrierTimeout ctx s) := by
  unfold execBarrierTimeout
  repeat' first
    | with_reducible assumption | with_reducible apply State.advanceTo_keeps
      | with_reducible apply State.barrierExpires_keeps | with_reducible apply withRoom_keeps
      | with_reducible refine out_next ?_ | split

theorem State.keepBarArrive_keeps {r₀ s : State} (h0 : Keeps r₀ s) (f : CollFlit) :
    Keeps r₀ (State.keepBarArrive s f) := by
  unfold State.keepBarArrive
  extract_lets
  repeat' first
    | with_reducible assumption | with_reducible refine keeps_ite ?_ ?_ | split | with_reducible apply Keeps.upd

theorem State.keepAbort_keeps {r₀ s : State} (h0 : Keeps r₀ s) (f : CollFlit) :
    Keeps r₀ (State.keepAbort s f) := by
  unfold State.keepAbort
  extract_lets
  repeat' first
    | with_reducible assumption | with_reducible refine keeps_ite ?_ ?_ | with_reducible apply Keeps.upd

theorem execBarAbort_keeps {r₀ s : State} (h0 : Keeps r₀ s) (fl : CollFlit) :
    OutKeeps r₀ (execBarAbort fl s) := by
  unfold execBarAbort
  extract_lets
  repeat' first
    | with_reducible assumption | with_reducible apply State.keepAbort_keeps | with_reducible apply State.onFlit_keeps
      | with_reducible apply State.rootDecides_keeps | with_reducible apply State.setBarrier_keeps
      | with_reducible apply withRoom_keeps | with_reducible refine out_next ?_ | split | with_reducible intro _

theorem execBarOrphaned_keeps {r₀ s : State} (h0 : Keeps r₀ s) (ctx : Nat) :
    OutKeeps r₀ (execBarOrphaned ctx s) := by
  unfold execBarOrphaned
  repeat' first
    | with_reducible assumption | with_reducible apply State.advanceTo_keeps | with_reducible apply State.barrierFails_keeps
      | with_reducible apply withRoom_keeps | with_reducible refine out_next ?_ | split

theorem execEpochSwitch_keeps {r₀ s : State} (h0 : Keeps r₀ s) (ctx : Nat) :
    OutKeeps r₀ (execEpochSwitch ctx s) := by
  unfold execEpochSwitch
  repeat' first
    | with_reducible assumption | with_reducible apply State.advanceTo_keeps | with_reducible apply State.commit_keeps
      | with_reducible apply State.odAdd_keeps | with_reducible apply State.pump_keeps | with_reducible apply withRoom_keeps
      | with_reducible refine out_next ?_ | dsimp only | split | with_reducible apply Keeps.upd

theorem execEpochAdopt_keeps {r₀ s : State} (h0 : Keeps r₀ s) (via : OdPath) (v : BitVec 64) :
    OutKeeps r₀ (execEpochAdopt via v s) := by
  unfold execEpochAdopt
  extract_lets
  repeat' first
    | with_reducible assumption | with_reducible apply State.odRow_keeps | with_reducible apply State.switchEpoch_keeps
      | with_reducible apply withAccess_keeps | with_reducible apply withRoom_keeps | with_reducible refine out_next ?_
      | dsimp only | split | with_reducible intro _

theorem State.setPermute_keeps {r₀ s : State} (h0 : Keeps r₀ s) (p : PermuteRun) :
    Keeps r₀ (State.setPermute s p) := by
  unfold State.setPermute
  extract_lets
  repeat' first
    | with_reducible assumption | with_reducible apply Keeps.upd

theorem State.dropPermute_keeps {r₀ s : State} (h0 : Keeps r₀ s) (cmd : Nat) :
    Keeps r₀ (State.dropPermute s cmd) := by
  unfold State.dropPermute
  extract_lets
  repeat' first
    | with_reducible assumption | with_reducible apply Keeps.upd

theorem permFold_keeps {r₀ : State} (a : Nat) (q : (List Byte × List Bool) × State) (h0 : Keeps r₀ q.2) :
    Keeps r₀ (((spanWords a 0x10000).zip q.1.2).foldl (fun (acc : List Byte × State) e =>
      let lo := max a (8 * e.1)
      let hi := min (a + 0x10000) (8 * e.1 + 8)
      if e.2 then (acc.1 ++ natBytes (hi - lo) acc.2.fresh.1, acc.2.fresh.2)
      else (acc.1 ++ (q.1.1.drop (lo - a)).take (hi - lo), acc.2)) ([], q.2)).2 := by
  refine keeps_foldl2 _ (fun x e h => ?_) _ _ h0
  split
  · exact State.fresh_keeps h
  · exact h
theorem State.permRead_keeps {r₀ s : State} (h0 : Keeps r₀ s) (a : Nat) : Keeps r₀ (State.permRead s a).2 :=
  permFold_keeps a _ (State.devRead_keeps h0 collAttr a 0x10000)

theorem State.permSend_keeps {r₀ s : State} (h0 : Keeps r₀ s) (p : PermuteRun) (seg chunk : Nat) (bs : List Byte) :
    Keeps r₀ (State.permSend s p seg chunk bs) := by
  unfold State.permSend
  extract_lets
  repeat' first
    | with_reducible assumption | with_reducible apply State.launchPacket_keeps | with_reducible apply State.setPermute_keeps
       | with_reducible refine keeps_ite ?_ ?_ | with_reducible refine keeps_foldl _ ?_ _ _ ?_ | dsimp only | split
       | with_reducible intro _

theorem State.permWrite_keeps {r₀ s : State} (h0 : Keeps r₀ s) (cmd a : Nat) (bs : List Byte) :
    Keeps r₀ (State.permWrite s cmd a bs) := by
  unfold State.permWrite
  repeat' first
    | with_reducible assumption | with_reducible apply State.coherentWrite_keeps
      | with_reducible apply State.countSpan_keeps | with_reducible apply State.putPieces_keeps

theorem State.permNext_keeps {r₀ s : State} (h0 : Keeps r₀ s) (p : PermuteRun) :
    OptKeeps r₀ (State.permNext s p) := by
  unfold State.permNext
  repeat' first
    | with_reducible assumption | with_reducible exact opt_none | with_reducible apply State.permRead_keeps
       | with_reducible apply State.permSend_keeps | with_reducible apply State.permWrite_keeps
       | with_reducible apply State.setPermute_keeps | with_reducible refine keeps_ite ?_ ?_
       | with_reducible refine opt_some ?_ | dsimp only | split

theorem State.permRun_keeps {r₀ : State} : ∀ (k : Nat) {s : State} (_ : Keeps r₀ s) (x0 : Nat),
    Keeps r₀ (State.permRun k s x0) := by
  intro k
  induction k with
  | zero =>
    intro s h x0
    unfold State.permRun
    repeat' first
      | with_reducible assumption
  | succ k ih =>
    intro s h x0
    unfold State.permRun
    repeat' first
      | with_reducible assumption | with_reducible apply ih | with_reducible apply State.permNext_keeps | split
         | with_reducible refine OptKeeps.get ?_ (by with_reducible assumption)

theorem State.permGo_keeps {r₀ s : State} (h0 : Keeps r₀ s) (cmd : Nat) :
    Keeps r₀ (State.permGo s cmd) := by
  unfold State.permGo
  repeat' first
    | with_reducible assumption | with_reducible apply State.permRun_keeps | split

theorem State.releasePermute_keeps {r₀ s : State} (h0 : Keeps r₀ s) (p : PermuteRun) (r : BarrierRun) (st : Status) :
    Keeps r₀ (State.releasePermute s p r st) := by
  unfold State.releasePermute
  extract_lets
  repeat' first
    | with_reducible assumption | with_reducible apply State.commit_keeps | with_reducible apply State.dropPermute_keeps
       | with_reducible apply State.permGo_keeps | with_reducible apply State.pump_keeps
       | with_reducible apply State.sendRelease_keeps | with_reducible apply State.setPermute_keeps
       | with_reducible refine keeps_ite ?_ ?_ | split

theorem State.advanceExchange_keeps {r₀ s : State} (h0 : Keeps r₀ s) (p : PermuteRun) (r : BarrierRun) :
    Keeps r₀ (State.advanceExchange s p r) := by
  unfold State.advanceExchange
  extract_lets
  repeat' first
    | with_reducible assumption | with_reducible apply State.releasePermute_keeps | with_reducible apply State.sendArrive_keeps
       | with_reducible apply State.setPermute_keeps | with_reducible refine keeps_ite ?_ ?_ | split

theorem State.startPermute_keeps {r₀ s : State} (h0 : Keeps r₀ s) (c : Cmd) (table : List Nat) :
    Keeps r₀ (State.startPermute s c table) := by
  unfold State.startPermute
  extract_lets
  repeat' first
    | with_reducible assumption | with_reducible apply State.advanceExchange_keeps | with_reducible apply State.startCmd_keeps
       | with_reducible apply Keeps.upd

theorem execPermute_keeps {r₀ s : State} (h0 : Keeps r₀ s) (cmd : Nat) :
    OutKeeps r₀ (execPermute cmd s) := by
  unfold execPermute
  repeat' first
    | with_reducible assumption | with_reducible apply State.collChecks_keeps | with_reducible apply State.commit_keeps
      | with_reducible apply State.onCmd_keeps | with_reducible apply State.readElems_keeps
      | with_reducible apply State.startPermute_keeps | with_reducible apply withRoom_keeps
      | with_reducible refine out_next ?_ | dsimp only | split | with_reducible intro _
      | with_reducible refine Opt2Keeps.get ?_ (by with_reducible assumption)

theorem execPermData_keeps {r₀ s : State} (h0 : Keeps r₀ s) (port : Nat) (pk : Packet) :
    OutKeeps r₀ (execPermData port pk s) := by
  unfold execPermData
  extract_lets
  repeat' first
    | with_reducible assumption | with_reducible apply State.collDiscard_keeps | with_reducible apply State.onPacket_keeps
      | with_reducible apply State.permGo_keeps | with_reducible apply State.setPermute_keeps
      | with_reducible apply withRoom_keeps | with_reducible refine out_next ?_ | dsimp only | split
      | with_reducible intro _

theorem execPermuteCommit_keeps {r₀ s : State} (h0 : Keeps r₀ s) (cmd : Nat) :
    OutKeeps r₀ (execPermuteCommit cmd s) := by
  unfold execPermuteCommit
  repeat' first
    | with_reducible assumption | with_reducible apply State.commit_keeps | with_reducible apply State.dropPermute_keeps
      | with_reducible apply State.odAdd_keeps | with_reducible apply State.pump_keeps
      | with_reducible apply State.settle_keeps | with_reducible apply withRoom_keeps | with_reducible refine out_next ?_
      | split

theorem State.permEnded_keeps {r₀ s : State} (h0 : Keeps r₀ s) (p : PermuteRun) :
    Keeps r₀ (State.permEnded s p) := by
  unfold State.permEnded
  extract_lets
  repeat' first
    | with_reducible assumption | with_reducible apply Keeps.upd

theorem State.keepPermArrive_keeps {r₀ s : State} (h0 : Keeps r₀ s) (f : CollFlit) :
    Keeps r₀ (State.keepPermArrive s f) := by
  unfold State.keepPermArrive
  extract_lets
  repeat' first
    | with_reducible assumption | with_reducible refine keeps_ite ?_ ?_ | split | with_reducible apply Keeps.upd

theorem State.dropArrivals_keeps {r₀ s : State} (h0 : Keeps r₀ s) (f : CollFlit) :
    Keeps r₀ (State.dropArrivals s f) := by
  unfold State.dropArrivals
  extract_lets
  repeat' first
    | with_reducible assumption | with_reducible apply Keeps.upd

theorem State.endPermute_keeps {r₀ s : State} (h0 : Keeps r₀ s) (p : PermuteRun) (cause : BitVec 8) (starter : Coord) :
    Keeps r₀ (State.endPermute s p cause starter) := by
  unfold State.endPermute
  extract_lets
  repeat' first
    | with_reducible assumption | with_reducible apply State.commit_keeps | with_reducible apply State.dropPermute_keeps
      | with_reducible apply State.event_keeps | with_reducible apply State.odAdd_keeps
      | with_reducible apply State.permEnded_keeps | with_reducible apply State.pump_keeps
      | with_reducible apply State.scramble_keeps | with_reducible apply State.sendCtrl_keeps
      | with_reducible apply State.settle_keeps | with_reducible refine keeps_foldl _ ?_ _ _ ?_ | dsimp only | split
      | with_reducible intro _

theorem execPermAbort_keeps {r₀ s : State} (h0 : Keeps r₀ s) (fl : CollFlit) :
    OutKeeps r₀ (execPermAbort fl s) := by
  unfold execPermAbort
  repeat' first
    | with_reducible assumption | with_reducible apply State.dropArrivals_keeps
      | with_reducible apply State.endPermute_keeps | with_reducible apply State.onFlit_keeps
      | with_reducible apply withRoom_keeps | with_reducible refine out_next ?_ | split | with_reducible intro _

theorem execCollTimeout_keeps {r₀ s : State} (h0 : Keeps r₀ s) (cmd : Nat) :
    OutKeeps r₀ (execCollTimeout cmd s) := by
  unfold execCollTimeout
  repeat' first
    | with_reducible assumption | with_reducible apply State.advanceTo_keeps | with_reducible apply State.endBucket_keeps
      | with_reducible apply State.endPermute_keeps | with_reducible apply withRoom_keeps
      | with_reducible refine out_next ?_ | split

theorem execBarArrive_keeps {r₀ s : State} (h0 : Keeps r₀ s) (fl : CollFlit) :
    OutKeeps r₀ (execBarArrive fl s) := by
  unfold execBarArrive
  extract_lets
  repeat' first
    | with_reducible assumption | with_reducible apply State.advanceBarrier_keeps
      | with_reducible apply State.advanceExchange_keeps | with_reducible apply State.keepBarArrive_keeps
      | with_reducible apply State.keepPermArrive_keeps | with_reducible apply State.onFlit_keeps
      | with_reducible apply withRoom_keeps | with_reducible refine out_next ?_ | split | with_reducible intro _

theorem State.releaseAhead_keeps {r₀ s : State} (h0 : Keeps r₀ s) (f : CollFlit) :
    Keeps r₀ (State.releaseAhead s f) := by
  unfold State.releaseAhead
  extract_lets
  repeat' first
    | with_reducible assumption | with_reducible apply State.sendCtrl_keeps | with_reducible refine keeps_ite ?_ ?_
      | with_reducible refine keeps_foldl _ ?_ _ _ ?_ | with_reducible intro _ | with_reducible apply Keeps.upd

theorem execBarRelease_keeps {r₀ s : State} (h0 : Keeps r₀ s) (fl : CollFlit) :
    OutKeeps r₀ (execBarRelease fl s) := by
  unfold execBarRelease
  extract_lets
  repeat' first
    | with_reducible assumption | with_reducible apply State.onFlit_keeps | with_reducible apply State.releaseAhead_keeps
      | with_reducible apply State.releaseBarrier_keeps | with_reducible apply State.releasePermute_keeps
      | with_reducible apply withRoom_keeps | with_reducible refine out_next ?_ | split | with_reducible intro _

theorem State.showWidth_keeps {r₀ s : State} (h0 : Keeps r₀ s) (p : Nat) (m : BitVec 5) :
    Keeps r₀ (State.showWidth s p m) := by
  unfold State.showWidth
  repeat' first
    | with_reducible assumption | with_reducible apply State.odSet_keeps

theorem State.queueCtrl_keeps {r₀ s : State} (h0 : Keeps r₀ s) (p : Nat) (x : BitVec 128) :
    Keeps r₀ (State.queueCtrl s p x) := by
  unfold State.queueCtrl
  extract_lets
  repeat' first
    | with_reducible assumption | with_reducible apply State.setPort_keeps

theorem State.loseTxs_keeps {r₀ s : State} (h0 : Keeps r₀ s) (p : Nat) :
    Keeps r₀ (State.loseTxs s p) := by
  unfold State.loseTxs
  repeat' first
    | with_reducible assumption | with_reducible apply State.finishTx_keeps | with_reducible apply State.leaveLate_keeps
      | with_reducible refine keeps_foldl _ ?_ _ _ ?_ | split | with_reducible intro _

theorem State.forgetInput_keeps {r₀ s : State} (h0 : Keeps r₀ s) (p : Nat) :
    Keeps r₀ (State.forgetInput s p) := by
  unfold State.forgetInput
  repeat' first
    | with_reducible assumption | with_reducible apply State.setPort_keeps | with_reducible refine keeps_foldl _ ?_ _ _ ?_
      | dsimp only | with_reducible intro _

theorem State.flushPort_keeps {r₀ s : State} (h0 : Keeps r₀ s) (p : Nat) :
    Keeps r₀ (State.flushPort s p) := by
  unfold State.flushPort
  extract_lets
  repeat' first
    | with_reducible assumption | with_reducible apply State.dropQueued_keeps | with_reducible apply State.odAdd_keeps
      | with_reducible apply State.oweSlots_keeps | with_reducible apply State.setPort_keeps
      | with_reducible refine keeps_ite ?_ ?_ | with_reducible refine keeps_foldl _ ?_ _ _ ?_ | split
      | with_reducible intro _

theorem State.portLeave_keeps {r₀ s : State} (h0 : Keeps r₀ s) (p : Nat) (cause : BitVec 8) (target : PortState) :
    Keeps r₀ (State.portLeave s p cause target) := by
  unfold State.portLeave
  extract_lets
  repeat' first
    | with_reducible assumption | with_reducible apply State.event_keeps | with_reducible apply State.flushPort_keeps
      | with_reducible apply State.forgetInput_keeps | with_reducible apply State.loseTxs_keeps
      | with_reducible apply State.setPort_keeps | with_reducible apply State.showWidth_keeps
      | with_reducible refine keeps_ite ?_ ?_

theorem execLinkDown_keeps {r₀ s : State} (h0 : Keeps r₀ s) (port : Nat) (cause : BitVec 8) :
    OutKeeps r₀ (execLinkDown port cause s) := by
  unfold execLinkDown
  repeat' first
    | with_reducible assumption | with_reducible apply State.advanceTo_keeps | with_reducible apply State.portLeave_keeps
      | with_reducible apply withRoom_keeps | with_reducible refine keeps_ite ?_ ?_ | with_reducible refine out_next ?_
      | split

theorem execLinkRetry_keeps {r₀ s : State} (h0 : Keeps r₀ s) (port : Nat) (signal : BitVec 5) :
    OutKeeps r₀ (execLinkRetry port signal s) := by
  unfold execLinkRetry
  extract_lets
  repeat' first
    | with_reducible assumption | with_reducible apply State.advanceTo_keeps | with_reducible apply State.queueCtrl_keeps
      | with_reducible apply State.setPort_keeps | with_reducible refine out_next ?_ | split
      | with_reducible apply Keeps.upd

theorem execTrainingTimeout_keeps {r₀ s : State} (h0 : Keeps r₀ s) (port : Nat) :
    OutKeeps r₀ (execTrainingTimeout port s) := by
  unfold execTrainingTimeout
  repeat' first
    | with_reducible assumption | with_reducible apply State.advanceTo_keeps | with_reducible apply State.portLeave_keeps
      | with_reducible apply withRoom_keeps | with_reducible refine out_next ?_ | split

theorem State.trainingOver_keeps {r₀ s : State} (h0 : Keeps r₀ s) (t : Nat) :
    Keeps r₀ (State.trainingOver s t) := by
  unfold State.trainingOver
  repeat' first
    | with_reducible assumption | with_reducible apply State.advanceTo_keeps | with_reducible apply State.portLeave_keeps
      | with_reducible refine keeps_foldl _ ?_ _ _ ?_ | split | with_reducible intro _

theorem State.judgePort_keeps {r₀ s : State} (h0 : Keeps r₀ s) (p : Nat) :
    Keeps r₀ (State.judgePort s p) := by
  unfold State.judgePort
  extract_lets
  repeat' first
    | with_reducible assumption | with_reducible apply State.event_keeps | with_reducible apply State.flushPort_keeps
      | with_reducible apply State.setPort_keeps | with_reducible refine keeps_ite ?_ ?_ | dsimp only | split

theorem State.judgePorts_keeps {r₀ s : State} (h0 : Keeps r₀ s) :
    Keeps r₀ (State.judgePorts s) := by
  unfold State.judgePorts
  repeat' first
    | with_reducible assumption | with_reducible apply State.judgePort_keeps | with_reducible refine keeps_foldl _ ?_ _ _ ?_
       | split | with_reducible intro _

theorem State.narrowTo_keeps {r₀ s : State} (h0 : Keeps r₀ s) (p : Nat) (m : BitVec 5) :
    Keeps r₀ (State.narrowTo s p m) := by
  unfold State.narrowTo
  extract_lets
  repeat' first
    | with_reducible assumption | with_reducible apply State.judgePort_keeps | with_reducible apply State.portLeave_keeps
      | with_reducible apply State.setPort_keeps | with_reducible apply State.showWidth_keeps
      | with_reducible refine keeps_ite ?_ ?_

theorem execIdent_keeps {r₀ s : State} (h0 : Keeps r₀ s) (port : Nat) (id : IdentFlit) :
    OutKeeps r₀ (execIdent port id s) := by
  unfold execIdent
  extract_lets
  repeat' first
    | with_reducible assumption | with_reducible apply State.judgePort_keeps | with_reducible apply State.narrowTo_keeps
      | with_reducible apply State.odSet_keeps | with_reducible apply State.portLeave_keeps
      | with_reducible apply State.setPort_keeps | with_reducible apply State.showWidth_keeps
      | with_reducible apply withRoom_keeps | with_reducible refine keeps_ite ?_ ?_ | with_reducible refine out_next ?_
      | split

theorem State.beginResize_keeps {r₀ s : State} (h0 : Keeps r₀ s) (p : Nat) (lane : BitVec 8) :
    Keeps r₀ (State.beginResize s p lane) := by
  unfold State.beginResize
  extract_lets
  repeat' first
    | with_reducible assumption | with_reducible apply State.portLeave_keeps | with_reducible apply State.queueCtrl_keeps
       | with_reducible apply State.setPort_keeps | with_reducible refine keeps_ite ?_ ?_

theorem State.adoptMask_keeps {r₀ s : State} (h0 : Keeps r₀ s) (p : Nat) (m : BitVec 5) (seq : BitVec 12) (lane : BitVec 8) :
    Keeps r₀ (State.adoptMask s p m seq lane) := by
  unfold State.adoptMask
  extract_lets
  repeat' first
    | with_reducible assumption | with_reducible apply State.beginResize_keeps | with_reducible apply State.event_keeps
      | with_reducible apply State.judgePort_keeps | with_reducible apply State.portLeave_keeps
      | with_reducible apply State.setPort_keeps | with_reducible apply State.showWidth_keeps
      | with_reducible refine keeps_ite ?_ ?_

theorem State.narrowParked_keeps {r₀ s : State} (h0 : Keeps r₀ s) (p : Nat) :
    Keeps r₀ (State.narrowParked s p) := by
  unfold State.narrowParked
  extract_lets
  repeat' first
    | with_reducible assumption | with_reducible apply State.narrowTo_keeps | with_reducible apply State.queueCtrl_keeps
      | with_reducible refine keeps_ite ?_ ?_

theorem execLaneBad_keeps {r₀ s : State} (h0 : Keeps r₀ s) (port lane : Nat) :
    OutKeeps r₀ (execLaneBad port lane s) := by
  unfold execLaneBad
  extract_lets
  repeat' first
    | with_reducible assumption | with_reducible apply State.beginResize_keeps
      | with_reducible apply State.narrowParked_keeps | with_reducible apply State.portLeave_keeps
      | with_reducible apply State.queueCtrl_keeps | with_reducible apply State.setPort_keeps
      | with_reducible apply withRoom_keeps | with_reducible refine out_next ?_ | split

theorem execResizeReq_keeps {r₀ s : State} (h0 : Keeps r₀ s) (port : Nat) (seq : BitVec 12) (mask : BitVec 5) :
    OutKeeps r₀ (execResizeReq port seq mask s) := by
  unfold execResizeReq
  extract_lets
  repeat' first
    | with_reducible assumption | with_reducible apply State.adoptMask_keeps | with_reducible apply State.queueCtrl_keeps
      | with_reducible apply State.setPort_keeps | with_reducible apply withRoom_keeps | with_reducible refine out_next ?_
      | split

theorem execResizeAck_keeps {r₀ s : State} (h0 : Keeps r₀ s) (port : Nat) (seq : BitVec 12) (mask : BitVec 5) :
    OutKeeps r₀ (execResizeAck port seq mask s) := by
  unfold execResizeAck
  extract_lets
  repeat' first
    | with_reducible assumption | with_reducible apply State.adoptMask_keeps | with_reducible apply State.setPort_keeps
      | with_reducible apply withRoom_keeps | with_reducible refine out_next ?_ | split

theorem execGroupRecover_keeps {r₀ s : State} (h0 : Keeps r₀ s) (port laneGroup : Nat) :
    OutKeeps r₀ (execGroupRecover port laneGroup s) := by
  unfold execGroupRecover
  extract_lets
  repeat' first
    | with_reducible assumption | with_reducible apply State.advanceTo_keeps | with_reducible apply State.beginResize_keeps
      | with_reducible apply State.setPort_keeps | with_reducible apply withRoom_keeps | with_reducible refine out_next ?_
      | split

theorem execRecal_keeps {r₀ s : State} (h0 : Keeps r₀ s) (port : Nat) (lane : BitVec 6) (start : Bool) :
    OutKeeps r₀ (execRecal port lane start s) := by
  unfold execRecal
  extract_lets
  repeat' first
    | with_reducible assumption | with_reducible apply State.queueCtrl_keeps | with_reducible apply State.setPort_keeps
       | with_reducible refine keeps_ite ?_ ?_ | with_reducible refine out_next ?_ | split

theorem State.fenceCommands_keeps {r₀ s : State} (h0 : Keeps r₀ s) (p : Nat) (d : Coord) :
    Keeps r₀ (State.fenceCommands s p d) := by
  unfold State.fenceCommands
  extract_lets
  repeat' first
    | with_reducible assumption | with_reducible apply State.barrierExpires_keeps | with_reducible apply State.endBucket_keeps
       | with_reducible apply State.endPermute_keeps | with_reducible apply State.hoExpires_keeps
       | with_reducible refine keeps_foldl _ ?_ _ _ ?_ | split | with_reducible intro _

theorem State.fenceLines_keeps {r₀ s : State} (h0 : Keeps r₀ s) (d : Coord) :
    Keeps r₀ (State.fenceLines s d) := by
  unfold State.fenceLines
  extract_lets
  repeat' first
    | with_reducible assumption | with_reducible apply State.ackFrom_keeps | with_reducible refine keeps_foldl _ ?_ _ _ ?_
       | with_reducible intro _ | with_reducible apply Keeps.upd

theorem execDeviceFenced_keeps {r₀ s : State} (h0 : Keeps r₀ s) (port : Nat) :
    OutKeeps r₀ (execDeviceFenced port s) := by
  unfold execDeviceFenced
  extract_lets
  repeat' first
    | with_reducible assumption | with_reducible apply State.advanceTo_keeps | with_reducible apply State.event_keeps
      | with_reducible apply State.fenceCommands_keeps | with_reducible apply State.fenceLines_keeps
      | with_reducible apply State.odSet_keeps | with_reducible apply State.setPort_keeps
      | with_reducible apply withRoom_keeps | with_reducible refine out_next ?_ | dsimp only | split

theorem State.liftFence_keeps {r₀ s : State} (h0 : Keeps r₀ s) (p how : Nat) :
    Keeps r₀ (State.liftFence s p how) := by
  unfold State.liftFence
  repeat' first
    | with_reducible assumption | with_reducible apply State.event_keeps | with_reducible apply State.odSet_keeps
       | with_reducible refine keeps_ite ?_ ?_

theorem execFenceClear_keeps {r₀ s : State} (h0 : Keeps r₀ s) (via : OdPath) (v : BitVec 8) :
    OutKeeps r₀ (execFenceClear via v s) := by
  unfold execFenceClear
  repeat' first
    | with_reducible assumption | with_reducible apply State.liftFence_keeps | with_reducible apply State.odRow_keeps
      | with_reducible apply withAccess_keeps | with_reducible apply withRoom_keeps | with_reducible refine out_next ?_
      | dsimp only | split | with_reducible intro _

theorem execPortEnable_keeps {r₀ s : State} (h0 : Keeps r₀ s) (via : OdPath) (n : Nat) (v : BitVec 8) :
    OutKeeps r₀ (execPortEnable via n v s) := by
  unfold execPortEnable
  repeat' first
    | with_reducible assumption | with_reducible apply State.odRow_keeps | with_reducible apply State.odSet_keeps
      | with_reducible apply State.portLeave_keeps | with_reducible apply State.setPort_keeps
      | with_reducible apply withAccess_keeps | with_reducible apply withRoom_keeps | with_reducible refine out_next ?_
      | dsimp only | split | with_reducible intro _

theorem State.planWritten_keeps {r₀ s : State} (h0 : Keeps r₀ s) :
    Keeps r₀ (State.planWritten s) := by
  unfold State.planWritten
  repeat' first
    | with_reducible assumption | with_reducible apply State.judgePorts_keeps

theorem execMeshPlanId_keeps {r₀ s : State} (h0 : Keeps r₀ s) (via : OdPath) (v : BitVec 32) :
    OutKeeps r₀ (execMeshPlanId via v s) := by
  unfold execMeshPlanId
  repeat' first
    | with_reducible assumption | with_reducible apply State.liftFence_keeps | with_reducible apply State.odRow_keeps
      | with_reducible apply State.odSet_keeps | with_reducible apply State.planWritten_keeps
      | with_reducible apply withAccess_keeps | with_reducible apply withRoom_keeps | with_reducible refine out_next ?_
      | with_reducible refine keeps_foldl _ ?_ _ _ ?_ | dsimp only | with_reducible intro _

theorem State.enter_grows {r s : State} (h : Grows r s) (new : DevState) (ty inst kind : Nat) :
    Grows r (s.enter new ty inst kind) :=
  (Grows.upd (x3 := { s.dev with state := new }) h ..).trans
    (State.event_keeps (State.odSet_keeps (State.odSet_keeps (Keeps.refl _) _ _) _ _) _ _ _ _ _).toGrows
theorem Keeps.not_locked {r s : State} (h : Keeps r s) (e : s.dev.state ≠ .alarmed) : r.dev.state ≠ .alarmed :=
  fun k => e (h.locked k)
theorem Keeps.not_off {r s : State} (h : Keeps r s) (e : s.dev.state ≠ .off) : r.dev.state ≠ .off :=
  fun k => e (h.off k)
/-- The state of `q` is left for `new`, which asks for clusters only where they are on. -/
theorem State.enter_from {r s q : State} (h0 : Keeps r q) (h : Keeps r s) (new : DevState) (ty inst kind : Nat)
    (ha : q.dev.state ≠ .alarmed) (ho : q.dev.state ≠ .off)
    (hw : q.dev.Staged → new = .ready ∨ new = .running ∨ new = .draining → q.dev.clustersOn = 8) :
    Keeps r (s.enter new ty inst kind) :=
  ⟨⟨State.enter_grows h.toGrows .., fun k => absurd k (h0.not_locked ha), fun k => absurd k (h0.not_off ho),
    fun k => (h.staged k).enter fun w => (h.clusters.trans h0.clusters.symm).trans (hw (h0.staged k) w)⟩, h.clusters⟩
/-- A state in which no work is done asks for no cluster. -/
theorem idle_state {d : Dev} {new : DevState} (h : new ≠ .ready ∧ new ≠ .running ∧ new ≠ .draining) :
    d.Staged → new = .ready ∨ new = .running ∨ new = .draining → d.clustersOn = 8 := by
  rintro - (k | k | k)
  · exact absurd k h.1
  · exact absurd k h.2.1
  · exact absurd k h.2.2

theorem State.disablePorts_keeps {r₀ s : State} (h0 : Keeps r₀ s) :
    Keeps r₀ (State.disablePorts s) := by
  unfold State.disablePorts
  repeat' first
    | with_reducible assumption | with_reducible apply State.portLeave_keeps | with_reducible refine keeps_foldl _ ?_ _ _ ?_
      | split | with_reducible intro _

theorem State.stopRings_keeps {r₀ s : State} (h0 : Keeps r₀ s) :
    Keeps r₀ (State.stopRings s) := by
  unfold State.stopRings
  repeat' first
    | with_reducible assumption | with_reducible apply State.setRingState_keeps | with_reducible refine keeps_foldl _ ?_ _ _ ?_
       | split | with_reducible intro _

theorem State.enterFault_keeps {r₀ s : State} (h0 : Keeps r₀ s) (ty inst kind : Nat) : Keeps r₀ (s.enterFault ty inst kind) := by
  unfold State.enterFault
  split
  · exact h0
  · exact h0
  · exact h0
  · rename_i ho _ ha
    exact State.disablePorts_keeps (State.stopRings_keeps (State.enter_from h0 (Keeps.dev h0 ..) _ _ _ _ ha ho (idle_state (by decide))))

theorem State.enterAlarmed_keeps {r₀ s : State} (h0 : Keeps r₀ s) (ty inst kind : Nat) : Keeps r₀ (s.enterAlarmed ty inst kind) := by
  unfold State.enterAlarmed
  split
  · exact h0
  · exact h0
  · rename_i ho ha
    exact State.disablePorts_keeps (State.enter_from h0 (Keeps.dev h0 ..) _ _ _ _ ha ho (idle_state (by decide)))

theorem State.enterOff_grows {r s : State} (h : Grows r s) (x : OffHold) : Grows r (s.enterOff x) :=
  State.off_grows (h.upd ..)

theorem State.sigFailed_keeps {r₀ s : State} (h0 : Keeps r₀ s) (sev : BitVec 2) (obj reason what : Nat) :
    Keeps r₀ (State.sigFailed s sev obj reason what) := by
  unfold State.sigFailed
  repeat' first
    | with_reducible assumption | with_reducible apply State.event_keeps

theorem State.applyConfigEntry_keeps {r₀ s : State} (h0 : Keeps r₀ s) (e : Nat) :
    Keeps r₀ (State.applyConfigEntry s e) := by
  unfold State.applyConfigEntry
  extract_lets
  repeat' first
    | with_reducible assumption | with_reducible apply State.odSet_keeps | with_reducible apply State.sigFailed_keeps
       | with_reducible refine keeps_ite ?_ ?_ | split

theorem State.applyConfig_keeps {r₀ s : State} (h0 : Keeps r₀ s) :
    Keeps r₀ (State.applyConfig s) := by
  unfold State.applyConfig
  extract_lets
  repeat' first
    | with_reducible assumption | with_reducible apply State.applyConfigEntry_keeps | with_reducible apply State.odResets_keeps
       | with_reducible apply State.odSet_keeps | with_reducible refine keeps_foldl _ ?_ _ _ ?_ | split | with_reducible intro _

theorem State.startRepair_keeps {r₀ s : State} (h0 : Keeps r₀ s) :
    Keeps r₀ (State.startRepair s) := by
  unfold State.startRepair
  extract_lets
  repeat' first
    | with_reducible assumption | with_reducible refine keeps_ite ?_ ?_ | with_reducible apply Keeps.upd

theorem State.nextRepair_keeps {r₀ s : State} (h0 : Keeps r₀ s) :
    Keeps r₀ (State.nextRepair s) := by
  unfold State.nextRepair
  repeat' first
    | with_reducible assumption | with_reducible apply State.startRepair_keeps | with_reducible refine keeps_ite ?_ ?_

theorem State.recordSlots_keeps {r₀ s : State} (h0 : Keeps r₀ s) (c mask : Nat) :
    Keeps r₀ (State.recordSlots s c mask) := by
  unfold State.recordSlots
  extract_lets
  repeat' first
    | with_reducible assumption | with_reducible apply State.startRepair_keeps | with_reducible refine keeps_ite ?_ ?_
       | with_reducible apply Keeps.upd

theorem State.resetSlot_keeps {r₀ s : State} (h0 : Keeps r₀ s) (i : Nat) :
    Keeps r₀ (State.resetSlot s i) := by
  unfold State.resetSlot
  extract_lets
  repeat' first
    | with_reducible assumption | with_reducible apply State.detachLedger_keeps | with_reducible apply State.odResets_keeps
      | with_reducible apply State.resetPool_keeps | with_reducible apply Keeps.upd

theorem State.takeSlot_keeps {r₀ s : State} (h0 : Keeps r₀ s) (i : Nat) (job : BitVec 16) :
    Keeps r₀ (State.takeSlot s i job) := by
  unfold State.takeSlot
  repeat' first
    | with_reducible assumption | with_reducible apply State.odSet_keeps | with_reducible apply State.resetSlot_keeps

theorem State.freeJobSlot_keeps {r₀ s : State} (h0 : Keeps r₀ s) (i : Nat) :
    Keeps r₀ (State.freeJobSlot s i) := by
  unfold State.freeJobSlot
  repeat' first
    | with_reducible assumption | with_reducible apply State.odReset_keeps | with_reducible apply State.resetSlot_keeps

theorem State.closeJobs_keeps {r₀ s : State} (h0 : Keeps r₀ s) :
    Keeps r₀ (State.closeJobs s) := by
  unfold State.closeJobs
  repeat' first
    | with_reducible assumption | with_reducible apply State.freeJobSlot_keeps | with_reducible refine keeps_foldl _ ?_ _ _ ?_
       | with_reducible intro _

theorem State.openJob_keeps {r₀ s : State} (h0 : Keeps r₀ s) (job : BitVec 16) : Keeps r₀ (s.openJob job).2 := by
  unfold State.openJob
  split
  · exact h0
  split
  · exact h0
  split
  · exact h0
  split
  · exact h0
  · extract_lets st t
    have ht : Keeps r₀ t := State.takeSlot_keeps h0 _ _
    dsimp only
    split
    · rename_i e
      exact State.enter_from ht ht _ _ _ _ (by rw [e]; decide) (by rw [e]; decide) fun k _ => k.works (.inl e)
    · exact ht

theorem execJobOpen_keeps {r₀ s : State} (h0 : Keeps r₀ s) (via : OdPath) (v : BitVec 16) :
    OutKeeps r₀ (execJobOpen via v s) := by
  unfold execJobOpen
  repeat' first
    | with_reducible assumption | with_reducible apply State.odRow_keeps | with_reducible apply State.openJob_keeps
      | with_reducible apply withRoom_keeps | with_reducible refine out_next ?_ | with_reducible refine served_now ?_
      | with_reducible refine served_later ?_ | dsimp only | split | with_reducible intro _ | with_reducible apply Keeps.upd

theorem State.startDrain_keeps {r₀ s : State} (h0 : Keeps r₀ s) (e : s.dev.state = .running) : Keeps r₀ s.startDrain :=
  State.enter_from h0 (Keeps.dev h0 ..) _ _ _ _ (by rw [e]; decide) (by rw [e]; decide) fun k _ => k.works (.inr (.inl e))

theorem execJobClose_keeps {r₀ s : State} (h0 : Keeps r₀ s) (via : OdPath) (v : BitVec 16) : OutKeeps r₀ (execJobClose via v s) := by
  unfold execJobClose
  refine withRoom_keeps h0 _ ?_
  refine out_next (State.odRow_keeps h0 _ _ _ _ _ fun s _ h => ?_)
  split
  · exact h
  split
  · exact h
  split
  · exact h
  · extract_lets t
    have ht : Keeps r₀ t := State.freeJobSlot_keeps h _
    refine served_now ?_
    split
    · rename_i e
      exact State.startDrain_keeps ht e.1
    · exact ht

theorem State.deviceCommand_keeps {r₀ s : State} (h0 : Keeps r₀ s) (via : OdPath) (v : Nat) (ok : State → Bool) (f : State → State)
    (hf : ∀ x, ok x = true → Keeps r₀ x → Keeps r₀ (f x)) : Keeps r₀ (s.deviceCommand via v ok f) := by
  unfold State.deviceCommand
  refine State.odRow_keeps h0 _ _ _ _ _ fun s _ h => ?_
  split
  · rename_i e
    exact served_now (hf s e h)
  · exact served_now h

theorem execDrain_keeps {r₀ s : State} (h0 : Keeps r₀ s) (via : OdPath) : OutKeeps r₀ (execDrain via s) :=
  withRoom_keeps h0 _ (out_next (State.deviceCommand_keeps h0 _ _ _ _ fun _ e h => State.startDrain_keeps h (of_decide_eq_true e)))

theorem execDrainComplete_keeps {r₀ s : State} (h0 : Keeps r₀ s) : OutKeeps r₀ (execDrainComplete s) := by
  unfold execDrainComplete
  refine withRoom_keeps h0 _ ?_
  split
  · rename_i e
    have k : Keeps r₀ { s.closeJobs with dev := { s.dev with drainAt := none } } :=
      ⟨⟨Grows.upd (State.closeJobs_keeps h0).toGrows .., h0.locked, h0.off, fun q => (h0.staged q).like rfl rfl rfl⟩, h0.clusters⟩
    exact out_next (State.pump_keeps (State.enter_from h0 k _ _ _ _ (by rw [e.1]; decide) (by rw [e.1]; decide)
      fun k _ => k.works (.inr (.inr e.1))))
  · exact out_next h0

theorem execDrainTimeout_keeps {r₀ s : State} (h0 : Keeps r₀ s) :
    OutKeeps r₀ (execDrainTimeout s) := by
  unfold execDrainTimeout
  repeat' first
    | with_reducible assumption | with_reducible apply State.advanceTo_keeps | with_reducible apply State.enterFault_keeps
      | with_reducible apply withRoom_keeps | with_reducible refine out_next ?_ | split

theorem State.enableRing_keeps {r₀ s : State} (h0 : Keeps r₀ s) (r : Nat) :
    Keeps r₀ (State.enableRing s r) := by
  unfold State.enableRing
  extract_lets
  repeat' first
    | with_reducible assumption | with_reducible apply State.arm_keeps | with_reducible apply State.devRead_keeps
      | with_reducible apply State.event_keeps | with_reducible apply State.odSet_keeps
      | with_reducible apply State.pump_keeps | with_reducible apply State.setRing_keeps
      | with_reducible apply State.setRingState_keeps | with_reducible refine keeps_ite ?_ ?_
      | with_reducible apply Keeps.upd

theorem State.disableRing_keeps {r₀ s : State} (h0 : Keeps r₀ s) (r : Nat) :
    Keeps r₀ (State.disableRing s r) := by
  unfold State.disableRing
  repeat' first
    | with_reducible assumption | with_reducible apply State.disarm_keeps | with_reducible apply State.odSet_keeps
      | with_reducible apply State.settleRing_keeps | with_reducible apply State.writeRingLine_keeps
      | with_reducible refine keeps_ite ?_ ?_

theorem execRingEnable_keeps {r₀ s : State} (h0 : Keeps r₀ s) (via : OdPath) (n : Nat) (v : BitVec 8) :
    OutKeeps r₀ (execRingEnable via n v s) := by
  unfold execRingEnable
  repeat' first
    | with_reducible assumption | with_reducible apply State.disableRing_keeps | with_reducible apply State.enableRing_keeps
      | with_reducible apply State.odRow_keeps | with_reducible apply withAccess_keeps | with_reducible apply withRoom_keeps
      | with_reducible refine out_next ?_ | dsimp only | split | with_reducible intro _

theorem State.enableCq_keeps {r₀ s : State} (h0 : Keeps r₀ s) (q : Nat) :
    Keeps r₀ (State.enableCq s q) := by
  unfold State.enableCq
  extract_lets
  repeat' first
    | with_reducible assumption | with_reducible apply State.arm_keeps | with_reducible apply State.devWrite_keeps
      | with_reducible apply State.odSet_keeps | with_reducible apply State.pump_keeps
      | with_reducible apply State.releaseCq_keeps | with_reducible apply State.setCq_keeps

theorem execCqEnable_keeps {r₀ s : State} (h0 : Keeps r₀ s) (via : OdPath) (n : Nat) (v : BitVec 8) :
    OutKeeps r₀ (execCqEnable via n v s) := by
  unfold execCqEnable
  repeat' first
    | with_reducible assumption | with_reducible apply State.disarm_keeps | with_reducible apply State.enableCq_keeps
      | with_reducible apply State.odRow_keeps | with_reducible apply State.odSet_keeps
      | with_reducible apply withAccess_keeps | with_reducible apply withRoom_keeps | with_reducible refine out_next ?_
      | dsimp only | split | with_reducible intro _

end Sys2Proof.Machine
end

