-- ==== Sys2Proof/Laws/KeepsDevice.lean ====
section
/-!
SUPPORT. `Keeps` (Sys2Proof/Laws/Keeps.lean) for each operation of start, snapshots, logs, security, links, the field port,
instructions and every remaining row: one lemma per definition,
named after it.
-/

namespace Sys2Proof.Machine

open Sys2Proof

theorem execSnapshot_keeps {r₀ s : State} (h0 : Keeps r₀ s) (cmd : Nat) :
    OutKeeps r₀ (execSnapshot cmd s) := by
  unfold execSnapshot
  repeat' first
    | with_reducible assumption | with_reducible apply State.commit_keeps | with_reducible apply State.failChecks_keeps
      | with_reducible apply State.onCmd_keeps | with_reducible apply State.startCmd_keeps
      | with_reducible apply withRoom_keeps | with_reducible refine out_next ?_ | dsimp only | split
      | with_reducible intro _ | with_reducible refine Opt2Keeps.get ?_ (by with_reducible assumption)
      | with_reducible apply Keeps.upd

theorem State.setSnap_keeps {r₀ s : State} (h0 : Keeps r₀ s) (n : SnapRun) :
    Keeps r₀ (State.setSnap s n) := by
  unfold State.setSnap
  extract_lets
  repeat' first
    | with_reducible assumption | with_reducible apply Keeps.upd

theorem State.dropSnap_keeps {r₀ s : State} (h0 : Keeps r₀ s) (cmd : Nat) :
    Keeps r₀ (State.dropSnap s cmd) := by
  unfold State.dropSnap
  extract_lets
  repeat' first
    | with_reducible assumption | with_reducible apply Keeps.upd

theorem State.snapCopy_keeps {r₀ s : State} (h0 : Keeps r₀ s) (n : SnapRun) :
    Keeps r₀ (State.snapCopy s n) := by
  unfold State.snapCopy
  extract_lets
  repeat' first
    | with_reducible assumption | with_reducible apply State.coherentWrite_keeps | with_reducible apply State.count_keeps
       | with_reducible apply State.countSpan_keeps | with_reducible apply State.devRead_keeps
       | with_reducible apply State.setSnap_keeps | with_reducible apply State.writeRacy_keeps
       | with_reducible refine keeps_foldl _ ?_ _ _ ?_ | with_reducible refine keeps_foldl2 _ ?_ _ _ ?_ | dsimp only
       | with_reducible intro _

theorem execSnapshotCopyStart_keeps {r₀ s : State} (h0 : Keeps r₀ s) (cmd : Nat) :
    OutKeeps r₀ (execSnapshotCopyStart cmd s) := by
  unfold execSnapshotCopyStart
  repeat' first
    | with_reducible assumption | with_reducible apply State.snapCopy_keeps | with_reducible apply withRoom_keeps
      | with_reducible refine out_next ?_ | dsimp only | split

theorem execSnapshotCommit_keeps {r₀ s : State} (h0 : Keeps r₀ s) (cmd : Nat) :
    OutKeeps r₀ (execSnapshotCommit cmd s) := by
  unfold execSnapshotCommit
  extract_lets
  repeat' first
    | with_reducible assumption | with_reducible apply State.commit_keeps | with_reducible apply State.devWrite_keeps
      | with_reducible apply State.dropSnap_keeps | with_reducible apply State.event_keeps
      | with_reducible apply State.odAdd_keeps | with_reducible apply State.pump_keeps
      | with_reducible apply State.settle_keeps | with_reducible apply withRoom_keeps | with_reducible refine out_next ?_
      | dsimp only | split

theorem State.abortSnap_keeps {r₀ s : State} (h0 : Keeps r₀ s) (c : Cmd) (n : SnapRun) :
    Keeps r₀ (State.abortSnap s c n) := by
  unfold State.abortSnap
  extract_lets
  repeat' first
    | with_reducible assumption | with_reducible apply State.commit_keeps | with_reducible apply State.dropSnap_keeps
       | with_reducible apply State.scramble_keeps | with_reducible apply State.settle_keeps
       | with_reducible refine keeps_ite ?_ ?_

theorem State.scrubPass_keeps {r₀ s : State} (h0 : Keeps r₀ s) (u : ScrubUnit) (n : Nat) :
    Keeps r₀ (State.scrubPass s u n).2 := by
  unfold State.scrubPass
  repeat' first
    | with_reducible assumption | with_reducible apply State.advanceTo_keeps | dsimp only | split

theorem State.scrubPassDone_keeps {r₀ s : State} (h0 : Keeps r₀ s) :
    Keeps r₀ (State.scrubPassDone s) := by
  unfold State.scrubPassDone
  extract_lets
  repeat' first
    | with_reducible assumption | with_reducible apply State.event_keeps | with_reducible apply State.odAdd_keeps
       | with_reducible apply State.odSet_keeps | with_reducible apply Keeps.upd

theorem State.scrubNoted_keeps {r₀ s old : State} (h0 : Keeps r₀ s) (h1 : Keeps r₀ old) (a : Nat) :
    Keeps r₀ (State.scrubNoted s old a) := by
  unfold State.scrubNoted
  extract_lets
  repeat' first
    | with_reducible assumption | with_reducible apply State.count_keeps | with_reducible apply Keeps.upd

theorem execScrubRead_keeps {r₀ s : State} (h0 : Keeps r₀ s) (unit : ScrubUnit) :
    OutKeeps r₀ (execScrubRead unit s) := by
  unfold execScrubRead
  repeat' first
    | with_reducible assumption | with_reducible apply State.readWords_keeps | with_reducible apply State.scrubNoted_keeps
      | with_reducible apply State.scrubPass_keeps | with_reducible apply State.scrubPassDone_keeps
      | with_reducible apply withRoom_keeps | with_reducible refine keeps_ite ?_ ?_ | with_reducible refine out_next ?_
      | dsimp only | split | with_reducible apply Keeps.upd

theorem execMemCeLimit_keeps {r₀ s : State} (h0 : Keeps r₀ s) (srcType : BitVec 8) (srcInst : BitVec 8) :
    OutKeeps r₀ (execMemCeLimit srcType srcInst s) := by
  unfold execMemCeLimit
  extract_lets
  repeat' first
    | with_reducible assumption | with_reducible apply State.advanceTo_keeps | with_reducible apply State.event_keeps
      | with_reducible apply withRoom_keeps | with_reducible refine out_next ?_ | split | with_reducible apply Keeps.upd

theorem State.linkRetry_keeps {r₀ s : State} (h0 : Keeps r₀ s) (stack pc what tries : Nat) (recovered : Bool) :
    Keeps r₀ (State.linkRetry s stack pc what tries recovered) := by
  unfold State.linkRetry
  repeat' first
    | with_reducible assumption | with_reducible apply State.event_keeps | with_reducible apply State.odAdd_keeps

theorem State.resent_keeps {r₀ s : State} (h0 : Keeps r₀ s) (stack pc what failures : Nat) :
    Keeps r₀ (State.resent s stack pc what failures) := by
  unfold State.resent
  extract_lets
  repeat' first
    | with_reducible assumption | with_reducible apply State.enterFault_keeps | with_reducible apply State.linkRetry_keeps
       | with_reducible refine keeps_ite ?_ ?_

theorem State.stopCore_keeps {r₀ s : State} (h0 : Keeps r₀ s) (core : Nat) :
    Keeps r₀ (State.stopCore s core) := by
  unfold State.stopCore
  repeat' first
    | with_reducible assumption | with_reducible apply State.abortCore_keeps | with_reducible apply State.setCore_keeps
       | with_reducible apply State.setLaunch_keeps | dsimp only | split

theorem State.registerError_keeps {r₀ s : State} (h0 : Keeps r₀ s) (core slot lane n : Nat) (correctable : Bool) :
    Keeps r₀ (State.registerError s core slot lane n correctable) := by
  unfold State.registerError
  extract_lets
  repeat' first
    | with_reducible assumption | with_reducible apply State.fresh_keeps | with_reducible apply State.memCE_keeps
       | with_reducible apply State.memUE_keeps | with_reducible apply State.stopCore_keeps
       | with_reducible refine keeps_ite ?_ ?_

theorem execFatalError_keeps {r₀ s : State} (h0 : Keeps r₀ s) (e : HwError) :
    OutKeeps r₀ (execFatalError e s) := by
  unfold execFatalError
  repeat' first
    | with_reducible assumption | with_reducible apply State.enterFault_keeps | with_reducible apply State.linkRetry_keeps
      | with_reducible apply State.odAdd_keeps | with_reducible apply State.registerError_keeps
      | with_reducible apply State.resent_keeps | with_reducible apply withRoom_keeps
      | with_reducible refine keeps_ite ?_ ?_ | with_reducible refine out_next ?_ | dsimp only | split
      | with_reducible apply Keeps.upd

theorem State.lowerClock_keeps {r₀ s : State} (h0 : Keeps r₀ s) (f cause : Nat) :
    Keeps r₀ (State.lowerClock s f cause) := by
  unfold State.lowerClock
  extract_lets
  repeat' first
    | with_reducible assumption | with_reducible apply State.event_keeps | with_reducible apply State.odAdd_keeps
       | with_reducible apply State.odSet_keeps | with_reducible refine keeps_ite ?_ ?_ | with_reducible apply Keeps.upd

theorem State.notePower_keeps {r₀ s : State} (h0 : Keeps r₀ s) (fixed core avg : F32) :
    Keeps r₀ (State.notePower s fixed core avg) := by
  unfold State.notePower
  repeat' first
    | with_reducible assumption | with_reducible apply State.odSet_keeps

theorem State.noteHeadroom_keeps {r₀ s : State} (h0 : Keeps r₀ s) (fixed core : F32) :
    Keeps r₀ (State.noteHeadroom s fixed core) := by
  unfold State.noteHeadroom
  extract_lets
  repeat' first
    | with_reducible assumption | split | with_reducible apply Keeps.upd

theorem execGovernorEstimate_keeps {r₀ s : State} (h0 : Keeps r₀ s) (fixed : BitVec 32) (core : BitVec 32) (avg : BitVec 32) :
    OutKeeps r₀ (execGovernorEstimate fixed core avg s) := by
  unfold execGovernorEstimate
  extract_lets
  repeat' first
    | with_reducible assumption | with_reducible apply State.lowerClock_keeps
      | with_reducible apply State.noteHeadroom_keeps | with_reducible apply State.notePower_keeps
      | with_reducible apply withRoom_keeps | with_reducible refine keeps_ite ?_ ?_ | with_reducible refine out_next ?_
      | split

theorem State.raiseClock_keeps {r₀ s : State} (h0 : Keeps r₀ s) :
    Keeps r₀ (State.raiseClock s) := by
  unfold State.raiseClock
  extract_lets
  repeat' first
    | with_reducible assumption | with_reducible apply State.event_keeps | with_reducible apply State.odSet_keeps
       | with_reducible refine keeps_ite ?_ ?_ | with_reducible apply Keeps.upd

theorem execGovernorRaise_keeps {r₀ s : State} (h0 : Keeps r₀ s) (fixed : BitVec 32) (core : BitVec 32) (avg : BitVec 32) :
    OutKeeps r₀ (execGovernorRaise fixed core avg s) := by
  unfold execGovernorRaise
  repeat' first
    | with_reducible assumption | with_reducible apply State.advanceTo_keeps | with_reducible apply State.noteHeadroom_keeps
      | with_reducible apply State.notePower_keeps | with_reducible apply State.raiseClock_keeps
      | with_reducible apply withRoom_keeps | with_reducible refine out_next ?_ | dsimp only | split
      | with_reducible apply Keeps.upd

structure OutGrows (r : State) (o : Outcome) : Prop where
  all : ∀ t, o = .next t → Grows r t
theorem out_grows {r s : State} (h : Grows r s) : OutGrows r (.next s) := ⟨by intro t e; cases e; exact h⟩
theorem OutHolds.grows {r : State} {o : Outcome} (h : OutHolds r o) : OutGrows r o := ⟨fun t e => (h.all t e).toGrows⟩
theorem State.trip_grows {r s : State} (h : Grows r s) : Grows r s.trip := State.enterOff_grows (h.upd ..) _

theorem execThermalStep_grows {s : State} (die hbm : BitVec 32) : OutGrows s (execThermalStep die hbm s) := by
  have h0 := Keeps.refl s
  unfold execThermalStep
  split
  · exact out_grows (State.trip_grows (.refl s))
  · split
    · extract_lets dieHot hot s1 s2
      have h1 : Keeps s s1 := by
        show Keeps s (match s.gov.thermalAt with
          | some t => if hot then s.advanceTo (t + 100000) else s
          | none => s)
        split
        · exact keeps_ite (State.advanceTo_keeps h0 _) h0
        · exact h0
      have h2 : Keeps s s2 := State.odSet_keeps (State.odSet_keeps h1 _ _) _ _
      exact out_grows (keeps_ite (Keeps.upd (State.lowerClock_keeps h2 _ _) ..) h2).toGrows
    · exact out_grows h0.toGrows

theorem State.railRead_keeps {r₀ s : State} (h : Keeps r₀ s) (r : Nat) (l : Option (BitVec 32 × BitVec 32)) :
    Keeps r₀ (State.railRead s r l) := by
  cases l <;> (unfold State.railRead) <;>
    repeat' first
      | with_reducible assumption | with_reducible apply State.event_keeps | with_reducible apply State.odSet_keeps

theorem execPmbusTelemetry_keeps {r₀ s : State} (h0 : Keeps r₀ s) (readings : List (Option (BitVec 32 × BitVec 32))) :
    OutKeeps r₀ (execPmbusTelemetry readings s) := by
  unfold execPmbusTelemetry
  repeat' first
    | with_reducible assumption | with_reducible apply State.railRead_keeps | with_reducible apply withRoom_keeps
      | with_reducible refine out_next ?_ | with_reducible refine keeps_foldl _ ?_ _ _ ?_ | split | with_reducible intro _

theorem execPowerCap_keeps {r₀ s : State} (h0 : Keeps r₀ s) (via : OdPath) (v : BitVec 16) :
    OutKeeps r₀ (execPowerCap via v s) := by
  unfold execPowerCap
  repeat' first
    | with_reducible assumption | with_reducible apply State.odRow_keeps | with_reducible apply State.odSet_keeps
      | with_reducible apply withAccess_keeps | with_reducible apply withRoom_keeps | with_reducible refine out_next ?_
      | dsimp only | with_reducible intro _

theorem State.startPhase_keeps {r₀ s : State} (h0 : Keeps r₀ s) (step inst dur : Nat) :
    Keeps r₀ (State.startPhase s step inst dur) := by
  unfold State.startPhase
  repeat' first
    | with_reducible assumption | with_reducible apply State.event_keeps

theorem State.startPhaseFree_keeps {r₀ s : State} (h0 : Keeps r₀ s) (step : Nat) :
    Keeps r₀ (State.startPhaseFree s step) := by
  unfold State.startPhaseFree
  repeat' first
    | with_reducible assumption | with_reducible apply State.fresh_keeps | with_reducible apply State.startPhase_keeps

theorem State.endPhase_keeps {r₀ s : State} (h0 : Keeps r₀ s) (step inst : Nat) : Keeps r₀ (s.endPhase step inst) :=
  Keeps.dev (State.startPhase_keeps h0 _ _ _) ..

theorem State.zeroMem_keeps {r₀ s : State} (h0 : Keeps r₀ s) (lo hi : Nat) : Keeps r₀ (s.zeroMem lo hi) :=
  h0.then ⟨rfl, fun w => w.filter _, fun w => w.filter _, id, Nat.le_refl _, List.suffix_refl _⟩ rfl

theorem State.memDflt_high (s t : State) {a : Nat} (h : hbmEnd ≤ a) : s.memDflt a = t.memDflt a := by
  unfold State.memDflt
  have : ¬ a < hbmEnd := by omega
  cases s.hbmNoise <;> cases t.hbmNoise <;> simp only [this, if_false]
theorem State.sideDflt_high (s t : State) {w : Nat} (h : hbmEnd ≤ 8 * w) : s.sideDflt w = t.sideDflt w := by
  unfold State.sideDflt
  have : ¬ 8 * w < hbmEnd := by omega
  cases s.hbmNoise <;> cases t.hbmNoise <;> simp only [this, if_false]
theorem State.noise_keeps {r₀ s : State} (h0 : Keeps r₀ s) (n : Option Nat) (k : Nat) :
    Keeps r₀ { s.zeroMem 0 hbmEnd with hbmNoise := n, free := s.free + k } := by
  refine h0.then ⟨rfl, fun w => SMap.Wf.weaken (SMap.Wf.filter _ w) ?_, fun w => SMap.Wf.weaken (SMap.Wf.filter _ w) ?_, id, Nat.le_add_right _ _, List.suffix_refl _⟩ rfl
  · intro x hx
    have hb := (List.mem_filter.mp hx).2
    exact State.memDflt_high _ _ (by simpa using hb)
  · intro x hx
    have hb := (List.mem_filter.mp hx).2
    exact State.sideDflt_high _ _ (by simpa using hb)
theorem State.zeroHbm_keeps {r₀ s : State} (h0 : Keeps r₀ s) : Keeps r₀ s.zeroHbm := State.noise_keeps h0 none 0

theorem State.wildHbm_keeps {r₀ s : State} (h0 : Keeps r₀ s) : Keeps r₀ s.wildHbm := State.noise_keeps h0 (some s.free) 1

theorem State.loadSaved_keeps {r₀ s : State} (h0 : Keeps r₀ s) :
    Keeps r₀ (State.loadSaved s) := by
  unfold State.loadSaved
  extract_lets
  repeat' first
    | with_reducible assumption | with_reducible apply State.odResets_keeps | with_reducible apply State.odSet_keeps
       | with_reducible refine keeps_foldl _ ?_ _ _ ?_ | split | with_reducible intro _

theorem State.deriveIdentity_keeps {r₀ s : State} (h0 : Keeps r₀ s) :
    Keeps r₀ (State.deriveIdentity s) := by
  unfold State.deriveIdentity
  extract_lets
  repeat' first
    | with_reducible assumption | with_reducible apply State.event_keeps | with_reducible apply State.fresh_keeps
       | with_reducible apply State.odSet_keeps | with_reducible refine keeps_ite ?_ ?_ | with_reducible apply Keeps.upd

theorem State.boot_grows {r s : State} (h : Grows r s) : Grows r s.boot := by
  have h1 : Grows r { s.off with dev := { s.off.dev with linkUp := s.dev.perstN, offHold := .none } } := (State.off_grows h).upd ..
  unfold State.boot
  generalize { s.off with dev := { s.off.dev with linkUp := s.dev.perstN, offHold := OffHold.none } } = a at h1 ⊢
  dsimp only
  have h2 := h1.trans (State.odSet_keeps (State.odSet_keeps (Keeps.refl a) Od.strapValue a.dev.straps.toNat) Od.plcaNodeId
    (a.dev.straps.toNat % 32)).toGrows
  exact (State.enter_grows h2 _ _ _ _).trans (State.startPhaseFree_keeps (State.deriveIdentity_keeps (Keeps.refl _)) _).toGrows

theorem execResetRelease_grows {r₀ s : State} (h0 : Grows r₀ s) (straps : BitVec 6) : OutGrows r₀ (execResetRelease straps s) := by
  unfold execResetRelease
  dsimp only
  split
  · split
    · exact out_grows (h0.upd ..)
    · exact out_grows (State.boot_grows (h0.upd ..))
  · exact out_grows h0

theorem execPwrGoodLow_grows {r₀ s : State} (h0 : Grows r₀ s) : OutGrows r₀ (execPwrGoodLow s) :=
  out_grows (State.enterOff_grows (h0.upd ..) _)

theorem execResetNLow_grows {r₀ s : State} (h0 : Grows r₀ s) : OutGrows r₀ (execResetNLow s) :=
  out_grows (State.enterOff_grows (h0.upd ..) _)

theorem execPerstNLow_grows {r₀ s : State} (h0 : Grows r₀ s) : OutGrows r₀ (execPerstNLow s) := by
  refine out_grows ?_
  dsimp only
  split
  · exact State.enterOff_grows (h0.upd ..) _
  · exact h0.upd ..

theorem execPerstNRise_grows {r₀ s : State} (h0 : Grows r₀ s) : OutGrows r₀ (execPerstNRise s) := by
  unfold execPerstNRise
  dsimp only
  split
  · exact out_grows (h0.upd ..)
  · split
    · exact out_grows (State.boot_grows (h0.upd ..))
    · exact out_grows (h0.upd ..)

theorem State.islandsOff_grows {r₀ s : State} (h0 : Grows r₀ s) : Grows r₀ s.islandsOff :=
  h0.trans ⟨rfl, fun _ => SMap.Wf.nil _, fun _ => SMap.Wf.nil _, id, Nat.le_refl _, List.suffix_refl _⟩

theorem execRailUndervoltage_grows {r₀ s : State} (h0 : Grows r₀ s) (rail : Nat) : OutGrows r₀ (execRailUndervoltage rail s) := by
  unfold execRailUndervoltage
  split
  · split
    · exact out_grows (State.islandsOff_grows h0)
    · exact out_grows (State.enterOff_grows h0 _)
  · exact out_grows h0

theorem execThermtrip_grows {r₀ s : State} (h0 : Grows r₀ s) : OutGrows r₀ (execThermtrip s) := by
  unfold execThermtrip
  split
  · exact out_grows (State.trip_grows h0)
  · exact out_grows h0

theorem execReset_keeps {r₀ s : State} (h0 : Keeps r₀ s) (via : OdPath) : OutKeeps r₀ (execReset via s) :=
  withRoom_keeps h0 _ (out_next (State.odRow_keeps h0 _ _ _ _ _ fun _ _ h => served_now (Keeps.dev h ..)))

theorem execResetDelayExpiry_grows {r₀ s : State} (h0 : Grows r₀ s) : OutGrows r₀ (execResetDelayExpiry s) := by
  unfold execResetDelayExpiry
  split
  · split
    · exact out_grows (State.boot_grows (State.enterOff_grows h0 _))
    · exact out_grows h0
  · exact out_grows h0

theorem foldl_dev {α : Type} (f : State → α → State) (hf : ∀ s x, (f s x).dev = s.dev) :
    ∀ (l : List α) (s : State), (l.foldl f s).dev = s.dev
  | [], _ => rfl
  | x :: l, s => (foldl_dev f hf l _).trans (hf s x)
theorem ite_dev {c : Prop} [Decidable c] {s t u : State} (h : s.dev = u.dev) (k : t.dev = u.dev) :
    (if c then s else t).dev = u.dev := by
  split <;> assumption
theorem State.odAdd_dev (s : State) (k n : Nat) : (s.odAdd k n).dev = s.dev := rfl
theorem State.pmcAdd_dev (s : State) (i k n : Nat) : (s.pmcAdd i k n).dev = s.dev := by
  unfold State.pmcAdd
  extract_lets
  split <;> rfl
theorem State.count_dev (s : State) (i e n : Nat) (a : Attr) : (s.count i e n a).dev = s.dev := by
  unfold State.count
  split
  · rfl
  · refine foldl_dev _ (fun s k => ?_) _ _
    extract_lets
    exact ite_dev (State.pmcAdd_dev ..) rfl
theorem State.slotEdges_dev (s : State) (c n : Nat) : (s.slotEdges c n).dev = s.dev := by
  unfold State.slotEdges
  extract_lets u l b a s1
  have h : s1.dev = s.dev := by
    refine foldl_dev _ (fun s u => ?_) _ _
    rw [State.count_dev]
  clear_value s1
  rw [State.count_dev, State.count_dev, h]
theorem State.countEdges_dev (s : State) (t c : Nat) : (s.countEdges t c).dev = s.dev := by
  unfold State.countEdges
  extract_lets e s1 l
  have h : s1.dev = s.dev := foldl_dev _ (fun _ _ => State.pmcAdd_dev ..) _ _
  clear_value s1
  exact (foldl_dev _ (fun _ _ => State.slotEdges_dev ..) _ _).trans h
theorem State.flow_dev (s : State) (t : Nat) : (s.flow t).dev = s.dev := by
  unfold State.flow
  extract_lets c cy s1 a b s2 s3
  have h1 : s1.dev = s.dev := ite_dev (u := s) rfl (State.countEdges_dev ..)
  have h2 : s2.dev = s.dev := h1
  clear_value s2
  have h3 : s3.dev = s.dev := ite_dev ((State.odAdd_dev ..).trans h2) h2
  clear_value s3
  exact ite_dev ((State.odAdd_dev ..).trans h3) h3
theorem State.zeroPmc_dev (s : State) (i n : Nat) : (s.zeroPmc i n).dev = s.dev := rfl
theorem State.zeroSet_dev (s : State) (i : Nat) : (s.zeroSet i).dev = s.dev :=
  (State.odSet_dev _ _ _).trans (foldl_dev _ (fun s n => State.zeroPmc_dev s i n) _ _)
theorem State.clearCounters_dev (s : State) : s.clearCounters.dev = s.dev := by
  unfold State.clearCounters
  extract_lets s1
  have h : s1.dev = s.dev := foldl_dev _ (fun s i => State.zeroSet_dev s i) _ _
  clear_value s1
  exact (foldl_dev _ (fun s n => State.setCore_dev s _ _) _ _).trans h
theorem State.countApply_dev (s : State) (o : CountOp) : (s.countApply o).dev = s.dev := by
  unfold State.countApply
  extract_lets a s1
  have h : s1.dev = s.dev := by dsimp only [s1]
  clear_value s1
  cases o
  · exact h
  · exact h
  · exact (State.clearCounters_dev _).trans h
theorem State.latchDump_dev (s : State) : s.latchDump.dev = s.dev := by
  unfold State.latchDump
  split
  · rfl
  extract_lets b l
  clear_value l
  dsimp only
theorem State.copyRules_dev (s : State) (c x : Nat) (e : BitVec 32) (t : Nat) : (s.copyRules c x e t).dev = s.dev := by
  unfold State.copyRules
  extract_lets s1
  have h : s1.dev = s.dev := by
    refine foldl_dev _ (fun s i => ?_) _ _
    refine foldl_dev _ (fun s j => ?_) _ _
    rw [State.odSet_dev]
  clear_value s1
  exact (State.event_dev ..).trans ((State.odSet_dev ..).trans h)
theorem State.rulesAtEpoch_dev (s : State) (c : Nat) (e : BitVec 32) (t : Nat) : (s.rulesAtEpoch c e t).dev = s.dev := by
  unfold State.rulesAtEpoch
  refine ite_dev ?_ rfl
  dsimp only
  exact (State.copyRules_dev ..).trans (State.odSet_dev ..)
theorem State.snapsAtEpoch_dev (s : State) (c : Nat) (e : BitVec 32) (t : Nat) : (s.snapsAtEpoch c e t).dev = s.dev := by
  unfold State.snapsAtEpoch
  generalize List.map _ _ = l
  rfl
theorem State.switchEpoch_dev (s : State) (c : Nat) (e : BitVec 32) (t : Nat) : (s.switchEpoch c e t).dev = s.dev := by
  unfold State.switchEpoch
  extract_lets s1 s2
  have h : s2.dev = s.dev := (State.event_dev ..).trans ((State.odSet_dev ..).trans (State.odSet_dev ..))
  clear_value s2
  exact (State.snapsAtEpoch_dev ..).trans ((State.rulesAtEpoch_dev ..).trans h)
theorem State.arrive_dev (s : State) : s.arrive.dev = s.dev := by
  unfold State.arrive
  extract_lets s1 s2
  have h1 : s1.dev = s.dev := foldl_dev _ (fun _ _ => State.switchEpoch_dev ..) _ _
  have h2 : s2.dev = s.dev := ite_dev ((State.latchDump_dev _).trans h1) h1
  split
  · exact ite_dev ((State.countApply_dev ..).trans h2) h2
  · exact h2
theorem State.passTo_dev : ∀ (k : Nat) (s : State) (t : Nat), (State.passTo k s t).dev = s.dev
  | 0, _, _ => State.flow_dev ..
  | k + 1, s, t => by
    unfold State.passTo
    split
    · exact ite_dev ((State.passTo_dev k _ _).trans ((State.arrive_dev _).trans (State.flow_dev ..))) (State.flow_dev ..)
    · exact State.flow_dev ..
theorem State.pass_dev (s : State) (t : Nat) : (s.pass t).dev = s.dev := State.passTo_dev ..
theorem State.advanceTo_dev (s : State) (t : Nat) : (s.advanceTo t).dev = s.dev :=
  ite_dev (State.pass_dev ..) rfl
theorem State.odResets_dev (s : State) (l : List Nat) : (s.odResets l).dev = s.dev :=
  foldl_dev State.odReset (fun _ _ => rfl) l s
theorem State.loadSaved_dev (s : State) : s.loadSaved.dev = s.dev := by
  unfold State.loadSaved
  extract_lets t
  have h : t.dev = s.dev := (State.odSet_dev _ _ _).trans (State.odResets_dev _ _)
  clear_value t
  split
  · exact h
  · exact (foldl_dev (fun (s : State) (e : Nat × Nat) => s.odSet e.1 e.2) (fun _ _ => rfl) _ _).trans h
theorem State.startPhase_dev (s : State) (k i d : Nat) : (s.startPhase k i d).dev = s.dev := State.event_dev ..
theorem State.firmware_holds {r₀ s : State} (h0 : Keeps r₀ s)
    (hi : s.dev.state ≠ .ready ∧ s.dev.state ≠ .running ∧ s.dev.state ≠ .draining) : Holds r₀ (State.firmware s) := by
  unfold State.firmware
  extract_lets l d t
  have h1 : Keeps r₀ t := State.startPhase_keeps (State.fresh_keeps (State.loadSaved_keeps h0)) ..
  have h2 : t.dev = s.dev := (State.startPhase_dev ..).trans ((State.fresh_dev _).trans (State.loadSaved_dev s))
  clear_value t
  refine ⟨Grows.upd h1.toGrows .., h1.locked, h1.off, fun _ => ⟨Nat.zero_le _, Nat.zero_le _, fun k => absurd k (Nat.lt_irrefl 0), ?_⟩⟩
  rintro k
  have k' : s.dev.state = .ready ∨ s.dev.state = .running ∨ s.dev.state = .draining := h2 ▸ k
  rcases k' with k | k | k
  · exact absurd k hi.1
  · exact absurd k hi.2.1
  · exact absurd k hi.2.2

theorem execImageVerified_holds {r₀ s : State} (h0 : Keeps r₀ s) : OutHolds r₀ (execImageVerified s) := by
  unfold execImageVerified
  refine withRoom_holds h0 _ ?_
  split
  · rename_i e
    extract_lets s1
    have h1 : Keeps r₀ s1 := State.applyConfig_keeps h0
    clear_value s1
    split
    · exact (out_next (State.enterFault_keeps (State.sigFailed_keeps h1 _ _ _ _) _ _ _)).holds
    · extract_lets slot
      split
      · exact (out_next (State.enterFault_keeps (State.sigFailed_keeps h1 _ _ _ _) _ _ _)).holds
      · rename_i s2 s3 s4 hm5 sec5 s5 _ _
        have h4 : Keeps r₀ s4 := State.odSet_keeps (State.odSet_keeps (State.odSet_keeps
          (State.event_keeps (State.endPhase_keeps h1 _ _) _ _ _ _ _) _ _) _ _) _ _
        exact out_holds (State.firmware_holds (State.odSet_keeps (State.enter_from h0 (Keeps.upd h4 ..) _ _ _ _
          (by rw [e]; decide) (by rw [e]; decide) (idle_state (by decide))) _ _) ⟨nofun, nofun, nofun⟩)
  · exact (out_next h0).holds

theorem State.stackFails_keeps {r₀ s : State} (h0 : Keeps r₀ s) (phase : Nat) : Keeps r₀ (s.stackFails phase) :=
  State.enterFault_keeps (State.event_keeps (State.advanceTo_keeps h0 _) ..) _ _ _

theorem execHbmStackInit_keeps {r₀ s : State} (h0 : Keeps r₀ s) : OutKeeps r₀ (execHbmStackInit s) := by
  unfold execHbmStackInit
  refine withRoom_keeps h0 _ ?_
  split
  · rename_i e
    split
    · exact out_next (State.stackFails_keeps (State.fresh_keeps h0) _)
    have ha := State.advanceTo_dev s s.dev.stepAt
    have h0 := State.advanceTo_keeps h0 s.dev.stepAt
    generalize s.advanceTo s.dev.stepAt = a at ha h0 ⊢
    rw [← ha] at e ⊢
    extract_lets n s1 d s2
    have h1 : Keeps r₀ s1 := State.endPhase_keeps h0 _ _
    have h2 : Keeps r₀ s2 := by
      refine ⟨⟨Grows.upd h1.toGrows .., h1.locked, h1.off, fun k => ?_⟩, h1.clusters⟩
      have q := h0.staged k
      refine ⟨e.2, q.clusters, fun c => absurd (q.order c) (Nat.ne_of_lt e.2), fun w => ?_⟩
      have : a.dev.state = .ready ∨ a.dev.state = .running ∨ a.dev.state = .draining := w
      rw [e.1] at this
      simp at this
    clear_value s2
    exact out_next (keeps_ite (State.zeroHbm_keeps (State.odSet_keeps h2 _ _)) h2)
  · exact out_next h0

theorem execHbmInitFailed_keeps {r₀ s : State} (h0 : Keeps r₀ s) (phase : BitVec 8) :
    OutKeeps r₀ (execHbmInitFailed phase s) := by
  unfold execHbmInitFailed
  refine withRoom_keeps h0 _ ?_
  split
  · exact out_next (State.stackFails_keeps h0 _)
  · exact out_next h0

theorem State.coreRetired_keeps {r₀ s : State} (h0 : Keeps r₀ s) (c slot cause : Nat) :
    Keeps r₀ (State.coreRetired s c slot cause) := by
  unfold State.coreRetired
  repeat' first
    | with_reducible assumption | with_reducible apply State.event_keeps

theorem State.freshCores_keeps {r₀ s : State} (h0 : Keeps r₀ s) (c : Nat) :
    Keeps r₀ (State.freshCores s c) := by
  unfold State.freshCores
  extract_lets
  repeat' first
    | with_reducible assumption | with_reducible apply State.setCore_keeps | with_reducible refine keeps_foldl _ ?_ _ _ ?_
       | with_reducible intro _

theorem State.freshCounters_keeps {r₀ s : State} (h0 : Keeps r₀ s) (c : Nat) :
    Keeps r₀ (State.freshCounters s c) := by
  unfold State.freshCounters
  repeat' first
    | with_reducible assumption | with_reducible apply State.zeroSet_keeps | with_reducible refine keeps_foldl _ ?_ _ _ ?_
       | with_reducible intro _

theorem State.freshCounters_dev (s : State) (c : Nat) : (s.freshCounters c).dev = s.dev :=
  (State.zeroSet_dev _ _).trans (foldl_dev _ (fun s _ => State.zeroSet_dev s _) _ _)
theorem State.freshCores_dev (s : State) (c : Nat) : (s.freshCores c).dev = s.dev :=
  foldl_dev _ (fun s _ => State.setCore_dev s _ _) _ _
theorem State.coreRetired_dev (s : State) (c k x : Nat) : (s.coreRetired c k x).dev = s.dev := rfl
theorem State.zeroMem_dev (s : State) (lo hi : Nat) : (s.zeroMem lo hi).dev = s.dev := rfl
theorem cluster_stages {r₀ s : State} (h : Keeps r₀ s) {c : Nat} (hc : c < 8) (hh : s.dev.hbmDone = 8)
    (hi : s.dev.state = .init) : Holds r₀ { s with dev := { s.dev with clustersOn := c + 1 } } := by
  refine ⟨Grows.upd h.toGrows .., h.locked, h.off, fun k => ?_⟩
  have q := h.staged k
  refine ⟨q.hbm, hc, fun _ => hh, fun w => ?_⟩
  have : s.dev.state = .ready ∨ s.dev.state = .running ∨ s.dev.state = .draining := w
  rw [hi] at this
  simp at this
theorem State.recordSlots_dev (s : State) (c mask : Nat) : (s.recordSlots c mask).dev = s.dev := by
  unfold State.recordSlots State.startRepair
  split
  · split <;> rfl
  · rfl
theorem State.prepareCluster_keeps {r₀ s : State} (h0 : Keeps r₀ s) (c bad : Nat) : Keeps r₀ (s.prepareCluster c bad) := by
  unfold State.prepareCluster
  extract_lets
  repeat' first
    | with_reducible assumption | with_reducible apply State.coreRetired_keeps
       | with_reducible apply State.freshCores_keeps
       | with_reducible apply State.freshCounters_keeps | with_reducible apply State.odSet_keeps
       | with_reducible apply State.recordSlots_keeps | with_reducible apply State.zeroMem_keeps
       | with_reducible refine keeps_foldl _ ?_ _ _ ?_ | with_reducible intro _
theorem State.prepareCluster_dev (s : State) (c bad : Nat) : (s.prepareCluster c bad).dev = s.dev := by
  unfold State.prepareCluster
  extract_lets out s1 s2 s3 s4
  have h1 : s1.dev = s.dev := foldl_dev _ (fun s _ => State.coreRetired_dev s _ _ _) _ _
  have h2 : s2.dev = s1.dev := State.recordSlots_dev _ _ _
  clear_value s1
  have h3 : s3.dev = s2.dev := (State.odSet_dev _ _ _).trans (State.odSet_dev _ _ _)
  clear_value s2
  have h4 : s4.dev = s3.dev := (State.freshCounters_dev _ _).trans ((State.freshCores_dev _ _).trans (State.odSet_dev _ _ _))
  clear_value s3 s4
  rw [State.zeroMem_dev, State.zeroMem_dev, h4, h3, h2, h1]

theorem State.applySaved_keeps {r₀ s : State} (h0 : Keeps r₀ s) :
    Keeps r₀ (State.applySaved s) := by
  unfold State.applySaved
  repeat' first
    | with_reducible assumption | with_reducible apply State.portLeave_keeps | with_reducible refine keeps_foldl _ ?_ _ _ ?_
      | split | with_reducible intro _

theorem State.portsUp_keeps {r₀ s : State} (h0 : Keeps r₀ s) : Keeps r₀ s.portsUp :=
  keeps_foldl _ (fun _ _ h => State.setPort_keeps h _ _) _ _ h0
theorem State.clusterOn_holds {r₀ s : State} (h0 : Keeps r₀ s) {c : Nat} (hc : c < 8) (hh : s.dev.hbmDone = 8)
    (hi : s.dev.state = .init) : Holds r₀ (s.clusterOn c) := by
  have h := cluster_stages h0 hc hh hi
  have k := State.endPhase_keeps (Keeps.refl { s with dev := { s.dev with clustersOn := c + 1 } }) 6 c
  unfold State.clusterOn
  exact h.trans (keeps_ite (State.portsUp_keeps k) k).toHolds

theorem execClusterEnable_holds {r₀ s : State} (h0 : Keeps r₀ s) (failedSlots : BitVec 17) :
    OutHolds r₀ (execClusterEnable failedSlots s) := by
  unfold execClusterEnable
  refine withRoom_holds h0 _ ?_
  extract_lets c u
  split
  · rename_i e
    have k : Keeps r₀ u := State.prepareCluster_keeps (State.advanceTo_keeps h0 _) _ _
    have d : u.dev = s.dev := (State.prepareCluster_dev _ _ _).trans (State.advanceTo_dev _ _)
    clear_value u
    split
    · exact out_holds (State.enterFault_keeps k ..).toHolds
    · exact out_holds (State.clusterOn_holds k e.2.2 (by rw [d]; exact e.2.1) (by rw [d]; exact e.1))
  · exact out_holds h0.toHolds

theorem execStartComplete_keeps {r₀ s : State} (h0 : Keeps r₀ s) : OutKeeps r₀ (execStartComplete s) := by
  unfold execStartComplete
  refine withRoom_keeps h0 _ ?_
  split
  · rename_i e
    extract_lets t s1 s2 s3 s4
    have h2 : Keeps r₀ s2 :=
      State.startPhase_keeps (State.startPhaseFree_keeps (State.advanceTo_keeps (State.trainingOver_keeps h0 _) _) _) _ _ _
    clear_value s2
    have h3 : Keeps r₀ s3 :=
      State.enter_from h0 (State.startPhaseFree_keeps (State.applySaved_keeps (State.writeJarast_keeps h2)) _) _ _ _ _
        (by rw [e.1]; decide) (by rw [e.1]; decide) fun _ _ => e.2
    clear_value s3
    have h4 : Keeps r₀ s4 := State.odSet_keeps h3 _ _
    clear_value s4
    exact out_next (keeps_ite (h4.upd ..) h4)
  · exact out_next h0

theorem State.dropWork_keeps {r₀ s : State} (h0 : Keeps r₀ s) :
    Keeps r₀ (State.dropWork s) := by
  unfold State.dropWork
  extract_lets
  repeat' first
    | with_reducible assumption | with_reducible apply State.leaveLate_keeps | with_reducible apply State.odSet_keeps
      | with_reducible refine keeps_foldl _ ?_ _ _ ?_ | with_reducible intro _ | with_reducible apply Keeps.upd

theorem State.reinit_holds {r₀ s : State} (h0 : Keeps r₀ s) (ha : s.dev.state ≠ .alarmed) (ho : s.dev.state ≠ .off) :
    Holds r₀ s.reinit := by
  unfold State.reinit
  refine State.firmware_holds (State.enter_from h0 ?_ _ _ _ _ ha ho (idle_state (by decide))) ⟨nofun, nofun, nofun⟩
  refine keeps_foldl _ (fun _ _ h => State.portLeave_keeps h _ _ _) _ _ ?_
  exact keeps_foldl _ (fun _ _ h => State.freshCores_keeps h _) _ _ (State.dropWork_keeps (State.closeJobs_keeps h0))

theorem execReinit_holds {r₀ s : State} (h0 : Keeps r₀ s) (via : OdPath) : OutHolds r₀ (execReinit via s) := by
  unfold execReinit
  refine withRoom_holds h0 _ ?_
  have no : ∀ x, Holds r₀ (s.answerWrite via 0x1002 1 x) := fun x => (State.answerWrite_keeps h0 ..).toHolds
  refine out_holds ?_
  unfold State.deviceCommand State.odRow State.serveWrite
  split
  · split
    · exact no _
    split
    · exact no _
    split
    · exact no _
    dsimp only
    split
    · rename_i e
      have hs : s.dev.state = .ready ∨ s.dev.state = .fault := by
        have := (Bool.and_eq_true _ _ ▸ e).1
        simpa [State.stopped] using this
      refine (State.reinit_holds h0 ?_ ?_).trans (State.answerWrite_keeps (Keeps.refl _) ..).toHolds <;>
        rcases hs with k | k <;> rw [k] <;> decide
    · exact no _
  · exact (State.unheard_keeps h0 _).toHolds

theorem State.cmdAborted_keeps {r₀ s : State} (h0 : Keeps r₀ s) (c : Cmd) :
    Keeps r₀ (State.cmdAborted s c) := by
  unfold State.cmdAborted
  repeat' first
    | with_reducible assumption | with_reducible apply State.event_keeps

theorem State.removeCmd_keeps {r₀ s : State} (h0 : Keeps r₀ s) (c : Cmd) :
    Keeps r₀ (State.removeCmd s c) := by
  unfold State.removeCmd
  extract_lets
  repeat' first
    | with_reducible assumption | with_reducible apply State.commit_keeps | with_reducible apply State.dropCopy_keeps
      | with_reducible apply State.dropLaunch_keeps | with_reducible apply State.dropUpdate_keeps
      | with_reducible apply State.hoNext_keeps | with_reducible apply State.stepDone_keeps
      | with_reducible refine keeps_ite ?_ ?_

theorem State.abortStarted_keeps {r₀ s : State} (h0 : Keeps r₀ s) (c : Cmd) :
    Keeps r₀ (State.abortStarted s c).2 := by
  unfold State.abortStarted
  extract_lets
  repeat' first
    | with_reducible assumption | with_reducible apply State.abortCopy_keeps | with_reducible apply State.abortHandoff_keeps
       | with_reducible apply State.abortLaunch_keeps | with_reducible apply State.abortSnap_keeps
       | with_reducible apply State.abortUpdate_keeps | with_reducible apply State.cmdAborted_keeps
       | with_reducible apply State.endBucket_keeps | with_reducible apply State.endPermute_keeps | split

theorem State.removeWaiting_keeps {r₀ s : State} (h0 : Keeps r₀ s) (ring pos : Nat) :
    Keeps r₀ (State.removeWaiting s ring pos) := by
  unfold State.removeWaiting
  extract_lets
  repeat' first
    | with_reducible assumption | with_reducible apply State.cmdAborted_keeps | with_reducible apply State.commit_keeps
      | with_reducible apply State.readCmd_keeps | with_reducible apply State.removeCmd_keeps
      | with_reducible refine keeps_ite ?_ ?_ | with_reducible apply Keeps.upd

theorem State.abortCmd_keeps {r₀ s : State} (h0 : Keeps r₀ s) (ring : Nat) (id : BitVec 32) :
    Keeps r₀ (State.abortCmd s ring id).2 := by
  unfold State.abortCmd
  repeat' first
    | with_reducible assumption | with_reducible apply State.abortStarted_keeps
      | with_reducible apply State.cmdAborted_keeps | with_reducible apply State.pump_keeps
      | with_reducible apply State.removeCmd_keeps | with_reducible apply State.removeWaiting_keeps | dsimp only | split

theorem execAbortTarget_keeps {r₀ s : State} (h0 : Keeps r₀ s) (via : OdPath) (v : BitVec 64) :
    OutKeeps r₀ (execAbortTarget via v s) := by
  unfold execAbortTarget
  extract_lets
  repeat' first
    | with_reducible assumption | with_reducible apply State.abortCmd_keeps | with_reducible apply State.odRow_keeps
      | with_reducible apply withAccess_keeps | with_reducible apply withRoom_keeps | with_reducible refine out_next ?_
      | with_reducible refine served_now ?_ | split | with_reducible intro _

theorem State.retireSlot_keeps {r₀ s : State} (h0 : Keeps r₀ s) (c slot cause : Nat) :
    Keeps r₀ (State.retireSlot s c slot cause) := by
  unfold State.retireSlot
  extract_lets
  repeat' first
    | with_reducible assumption | with_reducible apply State.coreRetired_keeps | with_reducible apply State.odSet_keeps
       | with_reducible apply State.recordSlots_keeps | with_reducible refine keeps_ite ?_ ?_

theorem execCoreRetire_keeps {r₀ s : State} (h0 : Keeps r₀ s) (via : OdPath) (n : Nat) (v : BitVec 8) :
    OutKeeps r₀ (execCoreRetire via n v s) := by
  unfold execCoreRetire
  refine withRoom_keeps h0 _ ?_
  repeat' first
    | with_reducible assumption | with_reducible apply State.odRow_keeps | with_reducible apply State.retireSlot_keeps
       | with_reducible apply withAccess_keeps | with_reducible refine out_next ?_ | dsimp only | split | with_reducible intro _

theorem State.discardCore_keeps {r₀ s : State} (h0 : Keeps r₀ s) (n : Nat) :
    Keeps r₀ (State.discardCore s n) := by
  unfold State.discardCore
  extract_lets
  repeat' first
    | with_reducible assumption | with_reducible apply State.leaveLate_keeps | with_reducible apply State.setCore_keeps
      | with_reducible apply Keeps.upd

theorem State.failUpdates_keeps {r₀ s : State} (h0 : Keeps r₀ s) (n : Nat) :
    Keeps r₀ (State.failUpdates s n) := by
  unfold State.failUpdates
  repeat' first
    | with_reducible assumption | with_reducible apply State.abortUpdate_keeps | with_reducible refine keeps_foldl _ ?_ _ _ ?_
       | split | with_reducible intro _

theorem execCoreFailed_keeps {r₀ s : State} (h0 : Keeps r₀ s) (core : Nat) (cause : BitVec 8) :
    OutKeeps r₀ (execCoreFailed core cause s) := by
  unfold execCoreFailed
  refine withRoom_keeps h0 _ ?_
  extract_lets
  repeat' first
    | with_reducible assumption | with_reducible apply State.abortCore_keeps | with_reducible apply State.discardCore_keeps
       | with_reducible apply State.event_keeps | with_reducible apply State.failUpdates_keeps
       | with_reducible apply State.odSet_keeps | with_reducible apply State.pump_keeps
       | with_reducible apply State.retireSlot_keeps | with_reducible apply State.setLaunch_keeps
       | with_reducible refine out_next ?_ | with_reducible refine keeps_foldl _ ?_ _ _ ?_ | dsimp only | split
       | with_reducible intro _ | (dsimp +zetaDelta only; split)

theorem execPresence_keeps {r₀ s : State} (h0 : Keeps r₀ s) :
    OutKeeps r₀ (execPresence s) := by
  unfold execPresence
  extract_lets
  repeat' first
    | with_reducible assumption | with_reducible apply State.advanceTo_keeps | with_reducible apply State.sendFrame_keeps
      | with_reducible refine out_next ?_ | split | with_reducible apply Keeps.upd

theorem execCycEnable_keeps {r₀ s : State} (h0 : Keeps r₀ s) (via : OdPath) (channel : Nat) (v : BitVec 8) :
    OutKeeps r₀ (execCycEnable via channel v s) := by
  unfold execCycEnable
  refine withRoom_keeps h0 _ ?_
  repeat' first
    | with_reducible assumption | with_reducible apply State.odRow_keeps | with_reducible apply State.odSet_keeps
       | with_reducible apply withAccess_keeps | with_reducible refine out_next ?_ | dsimp only | split
       | with_reducible intro _ | with_reducible apply Keeps.upd

theorem execCyclic_keeps {r₀ s : State} (h0 : Keeps r₀ s) (channel : Nat) :
    OutKeeps r₀ (execCyclic channel s) := by
  unfold execCyclic
  extract_lets
  repeat' first
    | with_reducible assumption | with_reducible apply State.advanceTo_keeps | with_reducible apply State.fresh_keeps
      | with_reducible apply State.odSet_keeps | with_reducible apply State.sendFrame_keeps
      | with_reducible refine keeps_ite ?_ ?_ | with_reducible refine out_next ?_ | split | with_reducible apply Keeps.upd

theorem State.sigFailure_keeps {r₀ s : State} (h0 : Keeps r₀ s) (obj reason what : Nat) :
    Keeps r₀ (State.sigFailure s obj reason what) := by
  unfold State.sigFailure
  extract_lets
  repeat' first
    | with_reducible assumption | with_reducible apply State.sigFailed_keeps | with_reducible apply Keeps.upd

theorem State.domainRow_keeps {r₀ s : State} (h0 : Keeps r₀ s) (via : OdPath) (idx sub : Nat) (h : State → Served) (hf_h : ∀ (x0 : State), Keeps r₀ x0 → ServedKeeps r₀ (h x0)) :
    Keeps r₀ (State.domainRow s via idx sub h) := by
  unfold State.domainRow
  repeat' first
    | with_reducible assumption | with_reducible apply hf_h | with_reducible apply State.odRow_keeps
       | with_reducible refine served_now ?_ | split | with_reducible intro _

theorem execFwUpdate_keeps {r₀ s : State} (h0 : Keeps r₀ s) (via : OdPath) (value : List (BitVec 8)) :
    OutKeeps r₀ (execFwUpdate via value s) := by
  unfold execFwUpdate
  refine withRoom_keeps h0 _ ?_
  extract_lets
  repeat' first
    | with_reducible assumption | with_reducible apply State.domainRow_keeps | with_reducible apply State.sigFailure_keeps
       | with_reducible refine out_next ?_ | with_reducible refine served_now ?_ | with_reducible refine served_later ?_
       | dsimp only | split | with_reducible intro _ | with_reducible apply Keeps.upd

theorem State.configWrite_keeps {r₀ s : State} (h0 : Keeps r₀ s) (via : OdPath) (value : List Byte) :
    Keeps r₀ (State.configWrite s via value) := by
  unfold State.configWrite
  repeat' first
    | with_reducible assumption | with_reducible apply State.domainRow_keeps | with_reducible apply State.fresh_keeps
       | with_reducible apply State.sigFailure_keeps | with_reducible refine served_now ?_
       | with_reducible refine served_later ?_ | dsimp only | split | with_reducible intro _ | with_reducible apply Keeps.upd

theorem execConfigUpdate_keeps {r₀ s : State} (h0 : Keeps r₀ s) (via : OdPath) (value : List (BitVec 8)) :
    OutKeeps r₀ (execConfigUpdate via value s) := by
  unfold execConfigUpdate
  refine withRoom_keeps h0 _ ?_
  repeat' first
    | with_reducible assumption | with_reducible apply State.configWrite_keeps | with_reducible refine out_next ?_

theorem execEnrolmentAuthorisation_keeps {r₀ s : State} (h0 : Keeps r₀ s) (via : OdPath) (value : List (BitVec 8)) :
    OutKeeps r₀ (execEnrolmentAuthorisation via value s) := by
  unfold execEnrolmentAuthorisation
  refine withRoom_keeps h0 _ ?_
  repeat' first
    | with_reducible assumption | with_reducible apply State.configWrite_keeps | with_reducible refine out_next ?_ | split

theorem execDebugUnlock_keeps {r₀ s : State} (h0 : Keeps r₀ s) (via : OdPath) (value : List (BitVec 8)) :
    OutKeeps r₀ (execDebugUnlock via value s) := by
  unfold execDebugUnlock
  refine withRoom_keeps h0 _ ?_
  repeat' first
    | with_reducible assumption | with_reducible apply State.domainRow_keeps | with_reducible apply State.event_keeps
       | with_reducible apply State.odSet_keeps | with_reducible apply State.sigFailure_keeps
       | with_reducible refine out_next ?_ | with_reducible refine served_now ?_ | dsimp only | split | with_reducible intro _
       | with_reducible apply Keeps.upd

theorem execDebugRelock_keeps {r₀ s : State} (h0 : Keeps r₀ s) (via : OdPath) :
    OutKeeps r₀ (execDebugRelock via s) := by
  unfold execDebugRelock
  refine withRoom_keeps h0 _ ?_
  repeat' first
    | with_reducible assumption | with_reducible apply State.odRow_keeps | with_reducible apply State.odSet_keeps
       | with_reducible apply withAccess_keeps | with_reducible refine out_next ?_ | dsimp only | with_reducible intro _

theorem execQuoteNonce_keeps {r₀ s : State} (h0 : Keeps r₀ s) (via : OdPath) (value : List (BitVec 8)) :
    OutKeeps r₀ (execQuoteNonce via value s) := by
  unfold execQuoteNonce
  refine withRoom_keeps h0 _ ?_
  repeat' first
    | with_reducible assumption | with_reducible apply State.domainRow_keeps | with_reducible refine out_next ?_
       | with_reducible refine served_now ?_ | dsimp only | split | with_reducible intro _ | with_reducible apply Keeps.upd

theorem State.abandonFlash_keeps {r₀ s : State} (h0 : Keeps r₀ s) :
    Keeps r₀ (State.abandonFlash s) := by
  unfold State.abandonFlash
  extract_lets
  repeat' first
    | with_reducible assumption | with_reducible apply State.answerWrite_keeps | split | with_reducible apply Keeps.upd

theorem State.eraseKeys_keeps {r₀ s : State} (h0 : Keeps r₀ s) (cls : Nat) :
    Keeps r₀ (State.eraseKeys s cls) := by
  unfold State.eraseKeys
  extract_lets
  repeat' first
    | with_reducible assumption | with_reducible apply State.abandonFlash_keeps | with_reducible apply State.event_keeps
       | with_reducible apply State.odSet_keeps | with_reducible apply Keeps.upd

theorem execAlarm_keeps {r₀ s : State} (h0 : Keeps r₀ s) (classes : BitVec 5) (sensors : BitVec 40) :
    OutKeeps r₀ (execAlarm classes sensors s) := by
  unfold execAlarm
  extract_lets
  repeat' first
    | with_reducible assumption | with_reducible apply State.enterAlarmed_keeps | with_reducible apply State.eraseKeys_keeps
      | with_reducible apply State.event_keeps | with_reducible apply State.odAdd_keeps
      | with_reducible apply withRoom_keeps | with_reducible refine keeps_ite ?_ ?_ | with_reducible refine out_next ?_
      | with_reducible refine keeps_foldl _ ?_ _ _ ?_ | dsimp only | split | with_reducible intro _
      | with_reducible apply Keeps.upd

theorem execEraseMarkerProgrammed_grows {r₀ s : State} (h0 : Grows r₀ s) : OutGrows r₀ (execEraseMarkerProgrammed s) := by
  unfold execEraseMarkerProgrammed
  split
  · refine out_grows ?_
    dsimp only
    split
    · exact h0.upd ..
    · exact State.enterOff_grows (h0.upd ..) _
  · exact out_grows h0

theorem execHelperOverwrite_keeps {r₀ s : State} (h0 : Keeps r₀ s) :
    OutKeeps r₀ (execHelperOverwrite s) := by
  unfold execHelperOverwrite
  extract_lets
  repeat' first
    | with_reducible assumption | with_reducible apply State.nextRepair_keeps | with_reducible refine out_next ?_ | split
      | with_reducible apply Keeps.upd

theorem execRegionWrite_keeps {r₀ s : State} (h0 : Keeps r₀ s) (via : OdPath) (value : List (BitVec 8)) :
    OutKeeps r₀ (execRegionWrite via value s) := by
  unfold execRegionWrite
  refine withRoom_keeps h0 _ ?_
  extract_lets
  repeat' first
    | with_reducible assumption | with_reducible apply State.odRow_keeps | with_reducible refine out_next ?_
       | with_reducible refine served_now ?_ | dsimp only | split | with_reducible intro _ | with_reducible apply Keeps.upd

theorem State.flashRow_keeps {r₀ s : State} (h0 : Keeps r₀ s) (via : OdPath) (sub : Nat) (j : State → FlashJob) :
    Keeps r₀ (State.flashRow s via sub j) := by
  unfold State.flashRow
  repeat' first
    | with_reducible assumption | with_reducible apply State.odRow_keeps | with_reducible refine served_now ?_
       | with_reducible refine served_later ?_ | dsimp only | split | with_reducible intro _ | with_reducible apply Keeps.upd

theorem execSaveParameters_keeps {r₀ s : State} (h0 : Keeps r₀ s) (via : OdPath) :
    OutKeeps r₀ (execSaveParameters via s) := by
  unfold execSaveParameters
  refine withRoom_keeps h0 _ ?_
  repeat' first
    | with_reducible assumption | with_reducible apply State.flashRow_keeps | with_reducible refine out_next ?_

theorem execRestoreDefaults_keeps {r₀ s : State} (h0 : Keeps r₀ s) (via : OdPath) :
    OutKeeps r₀ (execRestoreDefaults via s) := by
  unfold execRestoreDefaults
  refine withRoom_keeps h0 _ ?_
  repeat' first
    | with_reducible assumption | with_reducible apply State.flashRow_keeps | with_reducible refine out_next ?_

theorem State.configAccepted_keeps {r₀ s : State} (h0 : Keeps r₀ s) (rtype : Nat) (seq : BitVec 64) :
    Keeps r₀ (State.configAccepted s rtype seq) := by
  unfold State.configAccepted
  repeat' first
    | with_reducible assumption | with_reducible apply State.event_keeps

theorem State.recordStored_keeps {r₀ s : State} (h0 : Keeps r₀ s) (t : Nat) :
    Keeps r₀ (State.recordStored s t) := by
  unfold State.recordStored
  extract_lets
  repeat' first
    | with_reducible assumption | with_reducible apply State.applyConfig_keeps | with_reducible refine keeps_ite ?_ ?_
       | with_reducible apply Keeps.upd

theorem State.flashEffect_keeps {r₀ s : State} (h : Keeps r₀ s)  (l : FlashJob) :
    Keeps r₀ (State.flashEffect s l) := by
  cases l <;> (unfold State.flashEffect) <;>
    repeat' first
      | with_reducible assumption | with_reducible apply State.configAccepted_keeps | with_reducible apply State.event_keeps
         | with_reducible apply State.recordStored_keeps | dsimp only | split | with_reducible apply Keeps.upd

theorem execFlashWriteDone_keeps {r₀ s : State} (h0 : Keeps r₀ s) :
    OutKeeps r₀ (execFlashWriteDone s) := by
  unfold execFlashWriteDone
  extract_lets
  repeat' first
    | with_reducible assumption | with_reducible apply State.answerWrite_keeps
      | with_reducible apply State.flashEffect_keeps | with_reducible apply State.nextRepair_keeps
      | with_reducible apply withRoom_keeps | with_reducible refine keeps_ite ?_ ?_ | with_reducible refine out_next ?_
      | dsimp only | split | with_reducible apply Keeps.upd

theorem State.emitFlit_keeps {r₀ s : State} (h0 : Keeps r₀ s) (p : Nat) (f : Flit) :
    Keeps r₀ (State.emitFlit s p f) := by
  unfold State.emitFlit
  extract_lets
  repeat' first
    | with_reducible assumption | with_reducible apply State.emit_keeps | with_reducible apply State.setPort_keeps
      | with_reducible refine keeps_ite ?_ ?_ | with_reducible refine keeps_foldl _ ?_ _ _ ?_ | split
      | with_reducible intro _

theorem State.deliverData_keeps {r₀ s : State} (h0 : Keeps r₀ s) (p : Nat) (f : Flit) :
    Keeps r₀ (State.deliverData s p f) := by
  unfold State.deliverData
  extract_lets
  repeat' first
    | with_reducible assumption | with_reducible apply State.count_keeps | with_reducible apply State.setPort_keeps
       | with_reducible refine keeps_foldl _ ?_ _ _ ?_ | with_reducible intro _

theorem State.sendFlit_keeps {r₀ s : State} (h0 : Keeps r₀ s) (p : Nat) (pt : Port) (ftype : BitVec 4) (numbered : Bool) (starts : BitVec 15) (slots : List (List Byte)) :
    Keeps r₀ (State.sendFlit s p pt ftype numbered starts slots) := by
  unfold State.sendFlit
  extract_lets
  repeat' first
    | with_reducible assumption | with_reducible apply State.emitFlit_keeps | with_reducible apply State.setPort_keeps

theorem State.sendIdle_keeps {r₀ s : State} (h0 : Keeps r₀ s) (p : Nat) (pt : Port) :
    Keeps r₀ (State.sendIdle s p pt) := State.count_keeps (State.sendFlit_keeps h0 _ _ _ _ _ _) _ _ _ _

theorem State.resend_keeps {r₀ s : State} (h0 : Keeps r₀ s) (p : Nat) :
    Keeps r₀ (State.resend s p) := by
  unfold State.resend
  extract_lets
  repeat' first
    | with_reducible assumption | with_reducible apply State.count_keeps | with_reducible apply State.emitFlit_keeps
      | with_reducible apply State.odAdd_keeps | with_reducible apply State.sendIdle_keeps
      | with_reducible apply State.setPort_keeps | with_reducible refine keeps_ite ?_ ?_
      | with_reducible refine keeps_foldl _ ?_ _ _ ?_ | dsimp only | with_reducible intro _

theorem State.nakReceived_keeps {r₀ s : State} (h0 : Keeps r₀ s) (p : Nat) :
    Keeps r₀ (State.nakReceived s p) := by
  unfold State.nakReceived
  extract_lets
  repeat' first
    | with_reducible assumption | with_reducible apply State.portLeave_keeps | with_reducible apply State.resend_keeps
       | with_reducible apply State.setPort_keeps | with_reducible refine keeps_ite ?_ ?_

theorem State.acceptFlit_keeps {r₀ s : State} (h0 : Keeps r₀ s) (p : Nat) (f : Flit) :
    Keeps r₀ (State.acceptFlit s p f) := by
  unfold State.acceptFlit
  extract_lets
  repeat' first
    | with_reducible assumption | with_reducible apply State.deliverData_keeps | with_reducible apply State.odAdd_keeps
       | with_reducible apply State.setPort_keeps | with_reducible refine keeps_ite ?_ ?_

theorem execFlitReceived_keeps {r₀ s : State} (h0 : Keeps r₀ s) (port : Nat) (flit : List (BitVec 8)) :
    OutKeeps r₀ (execFlitReceived port flit s) := by
  unfold execFlitReceived
  refine withRoom_keeps h0 _ ?_
  extract_lets
  repeat' first
    | with_reducible assumption | with_reducible apply State.acceptFlit_keeps | with_reducible apply State.nakReceived_keeps
       | with_reducible apply State.setPort_keeps | with_reducible refine keeps_ite ?_ ?_ | with_reducible refine out_next ?_
       | split

theorem State.slotsSent_keeps {r₀ s : State} (h0 : Keeps r₀ s) (p : Nat) (x : TxFill) :
    Keeps r₀ (State.slotsSent s p x) := by
  unfold State.slotsSent
  extract_lets
  repeat' first
    | with_reducible assumption | with_reducible apply State.count_keeps | with_reducible apply State.oweSlots_keeps
      | with_reducible refine keeps_foldl _ ?_ _ _ ?_ | with_reducible intro _

theorem execIdleFlit_keeps {r₀ s : State} (h0 : Keeps r₀ s) (port : Nat) :
    OutKeeps r₀ (execIdleFlit port s) := by
  unfold execIdleFlit
  extract_lets
  repeat' first
    | with_reducible assumption | with_reducible apply State.sendFlit_keeps | with_reducible apply State.sendIdle_keeps
      | with_reducible apply State.slotsSent_keeps | with_reducible refine out_next ?_ | dsimp only | split

theorem State.runSelftest_keeps {r₀ s : State} (h0 : Keeps r₀ s) (action target : BitVec 8) :
    Keeps r₀ (State.runSelftest s action target) := by
  unfold State.runSelftest
  extract_lets
  repeat' first
    | with_reducible assumption | with_reducible apply State.portLeave_keeps | with_reducible apply State.setPort_keeps
       | with_reducible apply State.wildHbm_keeps | with_reducible refine keeps_ite ?_ ?_ | with_reducible apply Keeps.upd

theorem State.requestSelftest_keeps {r₀ s : State} (h0 : Keeps r₀ s) (action target : BitVec 8) :
    Keeps r₀ (State.requestSelftest s action target).2 := by
  unfold State.requestSelftest
  repeat' first
    | with_reducible assumption | with_reducible apply State.runSelftest_keeps | dsimp only | split
       | with_reducible apply Keeps.upd

theorem State.selftestWrite_keeps {r₀ s : State} (h0 : Keeps r₀ s) (via : OdPath) (action target : BitVec 8) :
    Keeps r₀ (State.selftestWrite s via action target) := by
  unfold State.selftestWrite
  extract_lets
  repeat' first
    | with_reducible assumption | with_reducible apply State.odRow_keeps | with_reducible apply State.requestSelftest_keeps
       | with_reducible apply withAccess_keeps | with_reducible intro _

theorem execLaneRecalibration_keeps {r₀ s : State} (h0 : Keeps r₀ s) (via : OdPath) (target : BitVec 8) :
    OutKeeps r₀ (execLaneRecalibration via target s) := by
  unfold execLaneRecalibration
  refine withRoom_keeps h0 _ ?_
  repeat' first
    | with_reducible assumption | with_reducible apply State.selftestWrite_keeps | with_reducible refine out_next ?_

theorem execSensorTrim_keeps {r₀ s : State} (h0 : Keeps r₀ s) (via : OdPath) (target : BitVec 8) :
    OutKeeps r₀ (execSensorTrim via target s) := by
  unfold execSensorTrim
  refine withRoom_keeps h0 _ ?_
  repeat' first
    | with_reducible assumption | with_reducible apply State.selftestWrite_keeps | with_reducible refine out_next ?_

theorem execCoreSelfTest_keeps {r₀ s : State} (h0 : Keeps r₀ s) (via : OdPath) (target : BitVec 8) :
    OutKeeps r₀ (execCoreSelfTest via target s) := by
  unfold execCoreSelfTest
  refine withRoom_keeps h0 _ ?_
  repeat' first
    | with_reducible assumption | with_reducible apply State.selftestWrite_keeps | with_reducible refine out_next ?_

theorem execHbmPatternTest_keeps {r₀ s : State} (h0 : Keeps r₀ s) (via : OdPath) (target : BitVec 8) :
    OutKeeps r₀ (execHbmPatternTest via target s) := by
  unfold execHbmPatternTest
  refine withRoom_keeps h0 _ ?_
  repeat' first
    | with_reducible assumption | with_reducible apply State.selftestWrite_keeps | with_reducible refine out_next ?_

theorem execPortLoopback_keeps {r₀ s : State} (h0 : Keeps r₀ s) (via : OdPath) (target : BitVec 8) :
    OutKeeps r₀ (execPortLoopback via target s) := by
  unfold execPortLoopback
  refine withRoom_keeps h0 _ ?_
  repeat' first
    | with_reducible assumption | with_reducible apply State.selftestWrite_keeps | with_reducible refine out_next ?_

theorem execTimebaseDelayRemeasure_keeps {r₀ s : State} (h0 : Keeps r₀ s) (via : OdPath) (target : BitVec 8) :
    OutKeeps r₀ (execTimebaseDelayRemeasure via target s) := by
  unfold execTimebaseDelayRemeasure
  refine withRoom_keeps h0 _ ?_
  repeat' first
    | with_reducible assumption | with_reducible apply State.selftestWrite_keeps | with_reducible refine out_next ?_

theorem execSelftestStart_keeps {r₀ s : State} (h0 : Keeps r₀ s) :
    OutKeeps r₀ (execSelftestStart s) := by
  unfold execSelftestStart
  refine withRoom_keeps h0 _ ?_
  repeat' first
    | with_reducible assumption | with_reducible apply State.runSelftest_keeps | with_reducible refine out_next ?_ | split

theorem State.selftestEffect_keeps {r₀ s : State} (h0 : Keeps r₀ s) (t : SelfTest) (st : Status) (detail : Nat) :
    Keeps r₀ (State.selftestEffect s t st detail) := by
  unfold State.selftestEffect
  extract_lets
  repeat' first
    | with_reducible assumption | with_reducible apply State.event_keeps | with_reducible apply State.retireSlot_keeps
       | with_reducible apply State.setPort_keeps | with_reducible apply State.wildHbm_keeps
       | with_reducible apply State.zeroHbm_keeps | with_reducible refine keeps_ite ?_ ?_
       | with_reducible refine keeps_foldl _ ?_ _ _ ?_ | with_reducible intro _

theorem State.openWaiting_keeps {r₀ s : State} (h0 : Keeps r₀ s) :
    Keeps r₀ (State.openWaiting s) := by
  unfold State.openWaiting
  extract_lets
  repeat' first
    | with_reducible assumption | with_reducible apply State.answerWrite_keeps | with_reducible apply State.openJob_keeps
       | with_reducible refine keeps_foldl _ ?_ _ _ ?_ | dsimp only | with_reducible intro _ | with_reducible apply Keeps.upd

theorem State.endSelftest_keeps {r₀ s : State} (h0 : Keeps r₀ s) (t : SelfTest) (st : Status) (d : Nat) :
    Keeps r₀ (State.endSelftest s t st d) := by
  unfold State.endSelftest
  extract_lets
  repeat' first
    | with_reducible assumption | with_reducible apply State.event_keeps | with_reducible apply State.odSet_keeps
       | with_reducible apply State.openWaiting_keeps | with_reducible apply State.selftestEffect_keeps
       | with_reducible refine keeps_ite ?_ ?_ | with_reducible apply Keeps.upd

theorem execSelftestDone_keeps {r₀ s : State} (h0 : Keeps r₀ s) (status : BitVec 8) (detail : BitVec 32) :
    OutKeeps r₀ (execSelftestDone status detail s) := by
  unfold execSelftestDone
  refine withRoom_keeps h0 _ ?_
  repeat' first
    | with_reducible assumption | with_reducible apply State.endSelftest_keeps | with_reducible refine out_next ?_ | split

theorem execSelftestWaitTimeout_keeps {r₀ s : State} (h0 : Keeps r₀ s) :
    OutKeeps r₀ (execSelftestWaitTimeout s) := by
  unfold execSelftestWaitTimeout
  refine withRoom_keeps h0 _ ?_
  repeat' first
    | with_reducible assumption | with_reducible apply State.advanceTo_keeps | with_reducible apply State.endSelftest_keeps
       | with_reducible refine out_next ?_ | split

theorem Outcome.state_keeps {r₀ s : State} (h0 : Keeps r₀ s) (o : Outcome) (ho : OutKeeps r₀ o) : Keeps r₀ (Outcome.state o s) := by
  cases o with
  | next t => exact ho.all t rfl
  | fault _ => exact h0
  | refused _ => exact h0
theorem Outcome.state_holds {r₀ s : State} (h0 : Keeps r₀ s) (o : Outcome) (ho : OutHolds r₀ o) : Holds r₀ (Outcome.state o s) := by
  cases o with
  | next t => exact ho.all t rfl
  | fault _ => exact h0.toHolds
  | refused _ => exact h0.toHolds
theorem holds_ite {r s t : State} {c : Prop} [Decidable c] (a : Holds r s) (b : Holds r t) : Holds r (if c then s else t) := by
  split <;> assumption

theorem State.tieRule_keeps {r₀ s : State} (h0 : Keeps r₀ s) (idx sub : Nat) :
    Keeps r₀ (State.tieRule s idx sub) := by
  unfold State.tieRule
  repeat' first
    | with_reducible assumption | with_reducible apply State.odSet_keeps | with_reducible refine keeps_ite ?_ ?_

theorem State.writePlain_keeps {r₀ s : State} (h0 : Keeps r₀ s) (via : OdPath) (idx sub v : Nat) :
    Keeps r₀ (State.writePlain s via idx sub v) := by
  unfold State.writePlain
  repeat' first
    | with_reducible assumption | with_reducible apply State.odRow_keeps | with_reducible apply State.odSet_keeps
      | with_reducible apply State.planWritten_keeps | with_reducible apply State.tieRule_keeps
      | with_reducible apply withAccess_keeps | dsimp only | split | with_reducible intro _

theorem State.writeRefused_keeps {r₀ s : State} (h0 : Keeps r₀ s) (via : OdPath) (idx sub v : Nat) :
    Keeps r₀ (State.writeRefused s via idx sub v) := by
  unfold State.writeRefused
  repeat' first
    | with_reducible assumption | with_reducible apply State.odRow_keeps | with_reducible refine served_now ?_
       | with_reducible intro _

theorem State.onlyOne_keeps {r₀ s : State} (h0 : Keeps r₀ s) (via : OdPath) (idx sub v : Nat) (o : Outcome) (ho : OutKeeps r₀ o) :
    Keeps r₀ (State.onlyOne s via idx sub v o) := by
  unfold State.onlyOne
  split
  · exact Outcome.state_keeps h0 o ho
  · exact State.writeRefused_keeps h0 _ _ _ _

theorem State.writeCommand_holds {r₀ s : State} (h0 : Keeps r₀ s) (via : OdPath) (v : Nat) :
    Holds r₀ (State.writeCommand s via v) := by
  unfold State.writeCommand
  repeat' first
    | with_reducible assumption | with_reducible apply execReinit_holds | with_reducible apply Outcome.state_holds
      | with_reducible refine holds_ite ?_ ?_ | with_reducible apply State.writeRefused_keeps
      | with_reducible apply execDrain_keeps | with_reducible apply execReset_keeps
      | with_reducible refine OutKeeps.holds ?_ | with_reducible refine Keeps.toHolds ?_

theorem State.writeAttach_keeps {r₀ s : State} (h0 : Keeps r₀ s) (via : OdPath) (i v : Nat) :
    Keeps r₀ (State.writeAttach s via i v) := by
  unfold State.writeAttach
  repeat' first
    | with_reducible assumption | with_reducible apply Outcome.state_keeps | with_reducible apply State.writeRefused_keeps
      | with_reducible apply execLedgerCold_keeps | with_reducible apply execLedgerDetach_keeps
      | with_reducible apply execLedgerRestored_keeps | with_reducible refine keeps_ite ?_ ?_

theorem State.writeSingle_holds {r₀ s : State} (h0 : Keeps r₀ s) (via : OdPath) (idx sub v : Nat) :
    Holds r₀ (State.writeSingle s via idx sub v) := by
  unfold State.writeSingle
  repeat' first
    | with_reducible assumption | with_reducible apply State.writeCommand_holds | with_reducible apply Outcome.state_holds
      | with_reducible apply State.onlyOne_keeps | with_reducible apply State.selftestWrite_keeps
      | with_reducible apply State.writePlain_keeps | with_reducible apply execAbortTarget_keeps
      | with_reducible apply execCountClear_keeps | with_reducible apply execCountFreeze_keeps
      | with_reducible apply execDebugRelock_keeps | with_reducible apply execEpochAdopt_keeps
      | with_reducible apply execEvalCommit_keeps | with_reducible apply execFenceClear_keeps
      | with_reducible apply execJobClose_keeps | with_reducible apply execJobOpen_keeps
      | with_reducible apply execLogRingEntries_keeps | with_reducible apply execMeshPlanId_keeps
      | with_reducible apply execPowerCap_keeps | with_reducible apply execRestoreDefaults_keeps
      | with_reducible apply execRuleCommitNow_keeps | with_reducible apply execRuleSwitchEpoch_keeps
      | with_reducible apply execSaveParameters_keeps | with_reducible apply execTallyEnable_keeps
      | with_reducible refine OutKeeps.holds ?_ | split | with_reducible refine Keeps.toHolds ?_

theorem State.writeNumeric_holds {r₀ s : State} (h0 : Keeps r₀ s) (via : OdPath) (idx sub v : Nat) :
    Holds r₀ (State.writeNumeric s via idx sub v) := by
  unfold State.writeNumeric
  repeat' first
    | with_reducible assumption | with_reducible apply State.writeSingle_holds | with_reducible apply Outcome.state_holds
      | with_reducible refine holds_ite ?_ ?_ | with_reducible apply State.writeAttach_keeps
      | with_reducible apply execCoreRetire_keeps | with_reducible apply execCqEnable_keeps
      | with_reducible apply execCycEnable_keeps | with_reducible apply execHoJob_keeps
      | with_reducible apply execLossValue_keeps | with_reducible apply execNfStepFlag_keeps
      | with_reducible apply execPctl_keeps | with_reducible apply execPortEnable_keeps
      | with_reducible apply execPsel_keeps | with_reducible apply execRingEnable_keeps
      | with_reducible refine OutKeeps.holds ?_ | with_reducible refine Keeps.toHolds ?_

theorem State.writeBytesEntry_keeps {r₀ s : State} (h0 : Keeps r₀ s) (via : OdPath) (idx sub : Nat) (bs : List Byte) :
    Keeps r₀ (State.writeBytesEntry s via idx sub bs) := by
  unfold State.writeBytesEntry
  repeat' first
    | with_reducible assumption | with_reducible apply Outcome.state_keeps | with_reducible apply State.writeRefused_keeps
      | with_reducible apply execConfigUpdate_keeps | with_reducible apply execDebugUnlock_keeps
      | with_reducible apply execFwUpdate_keeps | with_reducible apply execQuoteNonce_keeps
      | with_reducible apply execRegionWrite_keeps | split

theorem State.odWriteVia_holds {r₀ s : State} (h0 : Keeps r₀ s) (via : OdPath) (idx sub : Nat) (bs : List Byte) :
    Holds r₀ (State.odWriteVia s via idx sub bs) := by
  unfold State.odWriteVia
  repeat' first
    | with_reducible assumption | with_reducible apply State.writeNumeric_holds | with_reducible refine holds_ite ?_ ?_
      | with_reducible apply State.answerWrite_keeps | with_reducible apply State.unheard_keeps
      | with_reducible apply State.writeBytesEntry_keeps | with_reducible apply State.writeRefused_keeps | dsimp only
      | split | with_reducible refine Keeps.toHolds ?_

theorem execOdWrite_holds {r₀ s : State} (h0 : Keeps r₀ s) (via : OdPath) (index : BitVec 16) (sub : BitVec 8) (value : List (BitVec 8)) :
    OutHolds r₀ (execOdWrite via index sub value s) := by
  unfold execOdWrite
  repeat' first
    | with_reducible assumption | with_reducible apply State.odWriteVia_holds | with_reducible apply withRoom_holds
      | with_reducible refine out_holds ?_

theorem State.setMailbox_keeps {r₀ s : State} (h0 : Keeps r₀ s) (m : Nat) (b : Mailbox) :
    Keeps r₀ (State.setMailbox s m b) := by
  unfold State.setMailbox
  extract_lets
  repeat' first
    | with_reducible assumption | with_reducible apply Keeps.upd

theorem State.mailboxRead_keeps {r₀ s : State} (h0 : Keeps r₀ s) (m : Nat) (req : MailboxReq) :
    Keeps r₀ (State.mailboxRead s m req) := by
  unfold State.mailboxRead
  extract_lets
  repeat' first
    | with_reducible assumption | with_reducible apply State.answerWrite_keeps | with_reducible apply State.devWrite_keeps
       | with_reducible apply State.setMailbox_keeps | with_reducible refine keeps_ite ?_ ?_ | dsimp only | split

theorem State.mailboxDomain_keeps {r₀ s : State} (h0 : Keeps r₀ s) (m : Nat) (req : MailboxReq) :
    Keeps r₀ (State.mailboxDomain s m req) := by
  unfold State.mailboxDomain
  extract_lets
  repeat' first
    | with_reducible assumption | with_reducible apply State.answerWrite_keeps | with_reducible apply State.devRead_keeps
       | with_reducible apply State.writeBytesEntry_keeps | with_reducible refine keeps_ite ?_ ?_ | (dsimp +zetaDelta only; split)

theorem State.mailboxWrite_holds {r₀ s : State} (h0 : Keeps r₀ s) (m : Nat) (req : MailboxReq) :
    Holds r₀ (State.mailboxWrite s m req) := by
  unfold State.mailboxWrite
  extract_lets
  repeat' first
    | with_reducible assumption | with_reducible apply State.odWriteVia_holds | with_reducible refine holds_ite ?_ ?_
      | with_reducible apply State.mailboxDomain_keeps | split | with_reducible refine Keeps.toHolds ?_

theorem execMailboxRequest_holds {r₀ s : State} (h0 : Keeps r₀ s) (m : Nat) (req : MailboxReq) :
    OutHolds r₀ (execMailboxRequest m req s) := by
  unfold execMailboxRequest
  refine withRoom_holds h0 _ ?_
  split
  · extract_lets b full t
    have h1 : Keeps r₀ t := State.setMailbox_keeps h0 ..
    clear_value t
    split
    · exact out_holds (State.event_keeps h0 ..).toHolds
    · exact out_holds (holds_ite (State.answerWrite_keeps h1 ..).toHolds (holds_ite (State.mailboxRead_keeps h1 ..).toHolds
        (holds_ite (State.mailboxWrite_holds h1 ..) (State.writeRefused_keeps h1 ..).toHolds)))
  · exact out_holds (State.unheard_keeps h0 _).toHolds

theorem execConfigurationRequest_keeps {r₀ s : State} (h0 : Keeps r₀ s) (write : Bool) (reg : BitVec 10) (data : BitVec 32) :
    OutKeeps r₀ (execConfigurationRequest write reg data s) := by
  unfold execConfigurationRequest
  repeat' first
    | with_reducible assumption | with_reducible apply State.emit_keeps | with_reducible apply State.sendPending_keeps
      | with_reducible refine out_next ?_ | split | with_reducible apply Keeps.upd

theorem State.bar2Read_keeps {r₀ s : State} (h0 : Keeps r₀ s) (off n : Nat) :
    Keeps r₀ (State.bar2Read s off n) := by
  unfold State.bar2Read
  extract_lets
  repeat' first
    | with_reducible assumption | with_reducible apply State.devRead_keeps | with_reducible apply State.emit_keeps
       | (dsimp +zetaDelta only; split)

theorem State.bar2Write_keeps {r₀ s : State} (h0 : Keeps r₀ s) (off : Nat) (bs : List Byte) :
    Keeps r₀ (State.bar2Write s off bs) := by
  unfold State.bar2Write
  extract_lets
  repeat' first
    | with_reducible assumption | with_reducible apply State.devWrite_keeps | with_reducible apply State.wakeUp_keeps
      | with_reducible refine keeps_ite ?_ ?_

theorem State.mailboxStore_holds {r₀ s : State} (h0 : Keeps r₀ s) (m off : Nat) (bs : List Byte) :
    Holds r₀ (State.mailboxStore s m off bs) := by
  unfold State.mailboxStore
  extract_lets
  repeat' first
    | with_reducible assumption | with_reducible apply execMailboxRequest_holds | with_reducible apply Outcome.state_holds
      | with_reducible refine holds_ite ?_ ?_ | with_reducible apply State.setMailbox_keeps
      | with_reducible refine Keeps.toHolds ?_

theorem State.hostLoad_keeps {r₀ s : State} (h0 : Keeps r₀ s) (off n : Nat) :
    Keeps r₀ (State.hostLoad s off n).2 := by
  unfold State.hostLoad
  extract_lets
  repeat' first
    | with_reducible assumption | with_reducible apply State.directLoad_keeps | split

theorem State.windowRead_keeps {r₀ s : State} (h0 : Keeps r₀ s) (off n : Nat) : Keeps r₀ (s.windowRead off n) := by
  have k := State.hostLoad_keeps h0 off n
  unfold State.windowRead
  split <;> rename_i q <;> rw [q] at k <;> exact State.emit_keeps k _

theorem State.windowWrite_holds {r₀ s : State} (h0 : Keeps r₀ s) (off : Nat) (bs : List Byte) :
    Holds r₀ (State.windowWrite s off bs) := by
  unfold State.windowWrite
  extract_lets
  repeat' first
    | with_reducible assumption | with_reducible apply State.mailboxStore_holds
      | with_reducible apply State.odWriteVia_holds | with_reducible refine holds_ite ?_ ?_
      | with_reducible apply State.answerWrite_keeps | with_reducible refine Keeps.toHolds ?_

theorem State.msixRead_keeps {r₀ s : State} (h0 : Keeps r₀ s) (off n : Nat) :
    Keeps r₀ (State.msixRead s off n) := by
  unfold State.msixRead
  repeat' first
    | with_reducible assumption | with_reducible apply State.emit_keeps

theorem State.msixWrite_keeps {r₀ s : State} (h0 : Keeps r₀ s) (off : Nat) (bs : List Byte) :
    Keeps r₀ (State.msixWrite s off bs) := by
  unfold State.msixWrite
  repeat' first
    | with_reducible assumption | with_reducible apply State.sendPending_keeps | with_reducible apply Keeps.upd

theorem execBar2Access_holds {r₀ s : State} (h0 : Keeps r₀ s) (write : Bool) (offset : BarOffset) (len : Nat)
    (data : List (BitVec 8)) : OutHolds r₀ (execBar2Access write offset len data s) := by
  unfold execBar2Access
  refine withRoom_holds h0 _ ?_
  split
  · extract_lets
    split
    · exact out_holds (State.emit_keeps h0 _).toHolds
    · refine out_holds ?_
      split
      · exact State.windowWrite_holds h0 ..
      · exact (State.windowRead_keeps h0 ..).toHolds
      · exact (State.bar2Write_keeps h0 ..).toHolds
      · exact (State.bar2Read_keeps h0 ..).toHolds
      · exact (State.msixWrite_keeps h0 ..).toHolds
      · exact (State.msixRead_keeps h0 ..).toHolds
  · exact out_holds h0.toHolds

theorem State.ofGroup_keeps {r₀ s : State} (h0 : Keeps r₀ s) (core slot n : Nat) (f : Group → Nat) :
    Keeps r₀ (State.ofGroup s core slot n f).2 := by
  unfold State.ofGroup
  repeat' first
    | with_reducible assumption

theorem State.onGroup_keeps {r₀ s : State} (h0 : Keeps r₀ s) (core slot : Nat) (f : Group → Group) :
    Keeps r₀ (State.onGroup s core slot f) := by
  unfold State.onGroup
  repeat' first
    | with_reducible assumption | with_reducible apply State.setGroup_keeps | split

theorem State.ofCore_keeps {r₀ s : State} (h0 : Keeps r₀ s) (core n : Nat) (f : Core → Nat) :
    Keeps r₀ (State.ofCore s core n f).2 := by
  unfold State.ofCore
  repeat' first
    | with_reducible assumption

theorem State.onCore_keeps {r₀ s : State} (h0 : Keeps r₀ s) (core : Nat) (f : Core → Core) :
    Keeps r₀ (State.onCore s core f) := by
  unfold State.onCore
  repeat' first
    | with_reducible assumption | with_reducible apply State.setCore_keeps | with_reducible refine keeps_ite ?_ ?_

theorem State.debugRead_keeps {r₀ s : State} (h : Keeps r₀ s)  (l : DebugCell) :
    Keeps r₀ (State.debugRead s l).2 := by
  cases l <;> (unfold State.debugRead) <;>
    repeat' first
      | with_reducible assumption | with_reducible apply State.devRead_keeps | with_reducible apply State.ofCore_keeps
        | with_reducible apply State.ofGroup_keeps | dsimp only | split

theorem State.debugWrite_keeps {r₀ s : State} (h0 : Keeps r₀ s) (cell : DebugCell) (data : BitVec 256) :
    Keeps r₀ (State.debugWrite s cell data) := by
  unfold State.debugWrite
  extract_lets
  repeat' first
    | with_reducible assumption | with_reducible apply State.devWrite_keeps | with_reducible apply State.odSet_keeps
      | with_reducible apply State.onCore_keeps | with_reducible apply State.onGroup_keeps
      | with_reducible refine keeps_ite ?_ ?_ | dsimp only | split

theorem State.jtag_keeps {r₀ s : State} (h : Keeps r₀ s)  (l : JtagReq) :
    Keeps r₀ (State.jtag s l).2 := by
  cases l <;> (unfold State.jtag) <;>
    repeat' first
      | with_reducible assumption | with_reducible apply State.debugRead_keeps | with_reducible apply State.debugWrite_keeps
        | with_reducible apply State.setCore_keeps | with_reducible refine keeps_ite ?_ ?_ | dsimp only | split

theorem execJtagInstruction_keeps {r₀ s : State} (h0 : Keeps r₀ s) (req : JtagReq) :
    OutKeeps r₀ (execJtagInstruction req s) := by
  unfold execJtagInstruction
  refine withRoom_keeps h0 _ ?_
  extract_lets
  repeat' first
    | with_reducible assumption | with_reducible apply State.emit_keeps | with_reducible apply State.jtag_keeps
       | with_reducible refine out_next ?_ | split

theorem groupWide_keeps {r₀ s : State} (h0 : Keeps r₀ s) (g : GroupRef) (w : BitVec 64) (cls : Nat) (regs : List (Nat × Nat)) (f : Group → Group) :
    OutKeeps r₀ (groupWide g w cls regs f s) := by
  unfold groupWide
  repeat' first
    | with_reducible assumption | with_reducible exact issue_exc _ | with_reducible apply checked_keeps
       | with_reducible apply groupOnly_keeps | with_reducible apply issued_keeps | split | with_reducible intro _

theorem execShflIdx_keeps {r₀ s : State} (h0 : Keeps r₀ s) (g : GroupRef) (f : BitVec 48) :
    OutKeeps r₀ (execShflIdx g f s) := by
  unfold execShflIdx
  extract_lets
  repeat' first
    | with_reducible assumption | with_reducible apply groupWide_keeps

theorem execShflUp_keeps {r₀ s : State} (h0 : Keeps r₀ s) (g : GroupRef) (f : BitVec 48) :
    OutKeeps r₀ (execShflUp g f s) := by
  unfold execShflUp
  extract_lets
  repeat' first
    | with_reducible assumption | with_reducible apply groupWide_keeps

theorem execShflDown_keeps {r₀ s : State} (h0 : Keeps r₀ s) (g : GroupRef) (f : BitVec 48) :
    OutKeeps r₀ (execShflDown g f s) := by
  unfold execShflDown
  extract_lets
  repeat' first
    | with_reducible assumption | with_reducible apply groupWide_keeps

theorem execShflXor_keeps {r₀ s : State} (h0 : Keeps r₀ s) (g : GroupRef) (f : BitVec 48) :
    OutKeeps r₀ (execShflXor g f s) := by
  unfold execShflXor
  extract_lets
  repeat' first
    | with_reducible assumption | with_reducible apply groupWide_keeps

theorem execVoteAny_keeps {r₀ s : State} (h0 : Keeps r₀ s) (g : GroupRef) (f : BitVec 48) :
    OutKeeps r₀ (execVoteAny g f s) := by
  unfold execVoteAny
  extract_lets
  repeat' first
    | with_reducible assumption | with_reducible apply groupWide_keeps

theorem execVoteAll_keeps {r₀ s : State} (h0 : Keeps r₀ s) (g : GroupRef) (f : BitVec 48) :
    OutKeeps r₀ (execVoteAll g f s) := by
  unfold execVoteAll
  extract_lets
  repeat' first
    | with_reducible assumption | with_reducible apply groupWide_keeps

theorem execVoteBallot_keeps {r₀ s : State} (h0 : Keeps r₀ s) (g : GroupRef) (f : BitVec 48) :
    OutKeeps r₀ (execVoteBallot g f s) := by
  unfold execVoteBallot
  extract_lets
  repeat' first
    | with_reducible assumption | with_reducible apply groupWide_keeps

theorem State.frame_keeps {r₀ s : State} (h0 : Keeps r₀ s) (t : BitVec 8) (fr : TheostFrame) (h : State → State)
    (hf_h : ∀ x, Keeps r₀ x → Keeps r₀ (h x)) : OutKeeps r₀ (State.frame s t fr h) := by
  unfold State.frame
  repeat' first
    | with_reducible assumption | with_reducible apply hf_h | with_reducible apply State.odAdd_keeps
       | with_reducible refine out_next ?_ | split
theorem State.frame_holds {r₀ s : State} (h0 : Keeps r₀ s) (t : BitVec 8) (fr : TheostFrame) (h : State → State)
    (hf_h : ∀ x, Keeps r₀ x → Holds r₀ (h x)) : OutHolds r₀ (State.frame s t fr h) := by
  unfold State.frame
  repeat' first
    | with_reducible assumption | with_reducible apply hf_h | with_reducible apply State.odAdd_keeps
       | with_reducible refine out_holds ?_ | split | with_reducible refine Keeps.toHolds ?_

theorem State.request_keeps {r₀ s : State} (h0 : Keeps r₀ s) (fr : TheostFrame) (rsp : BitVec 8) (h : State → State)
    (hf_h : ∀ x, Keeps r₀ x → Keeps r₀ (h x)) : Keeps r₀ (State.request s fr rsp h) := by
  unfold State.request
  repeat' first
    | with_reducible assumption | with_reducible apply hf_h | with_reducible apply State.sendFrame_keeps
       | with_reducible refine keeps_ite ?_ ?_ | split
theorem State.request_holds {r₀ s : State} (h0 : Keeps r₀ s) (fr : TheostFrame) (rsp : BitVec 8) (h : State → State)
    (hf_h : ∀ x, Keeps r₀ x → Holds r₀ (h x)) : Holds r₀ (State.request s fr rsp h) := by
  unfold State.request
  repeat' first
    | with_reducible assumption | with_reducible apply hf_h | with_reducible apply State.sendFrame_keeps
       | with_reducible refine holds_ite ?_ ?_ | split | with_reducible refine Keeps.toHolds ?_

theorem State.answerFrame_keeps {r₀ s : State} (h0 : Keeps r₀ s) (fr : TheostFrame) (rsp : BitVec 8) (st : Status) (dtype : BitVec 8) (xfer : BitVec 32) (payload : List Byte) :
    Keeps r₀ (State.answerFrame s fr rsp st dtype xfer payload) := by
  unfold State.answerFrame
  extract_lets
  repeat' first
    | with_reducible assumption | with_reducible apply State.keepResponse_keeps | with_reducible apply State.odFailed_keeps
       | with_reducible refine keeps_ite ?_ ?_

theorem State.serveRead_keeps {r₀ s : State} (h0 : Keeps r₀ s) (fr : TheostFrame) :
    Keeps r₀ (State.serveRead s fr) := by
  unfold State.serveRead
  repeat' first
    | with_reducible assumption | with_reducible apply State.answerFrame_keeps | with_reducible refine keeps_ite ?_ ?_
       | dsimp only | split

theorem execReadReq_keeps {r₀ s : State} (h0 : Keeps r₀ s) (fr : TheostFrame) :
    OutKeeps r₀ (execReadReq fr s) := by
  unfold execReadReq
  refine withRoom_keeps h0 _ ?_
  repeat' first
    | with_reducible assumption | with_reducible apply State.frame_keeps | with_reducible apply State.request_keeps
       | with_reducible apply State.serveRead_keeps | split | with_reducible intro _

theorem execWriteReq_holds {r₀ s : State} (h0 : Keeps r₀ s) (fr : TheostFrame) :
    OutHolds r₀ (execWriteReq fr s) := by
  unfold execWriteReq
  extract_lets
  repeat' first
    | with_reducible assumption | with_reducible apply State.frame_holds | with_reducible apply State.odWriteVia_holds
      | with_reducible apply State.request_holds | with_reducible apply withRoom_holds
      | with_reducible apply State.writeRefused_keeps | split | with_reducible intro _
      | with_reducible refine Keeps.toHolds ?_

theorem State.setXfer_keeps {r₀ s : State} (h0 : Keeps r₀ s) (x : Xfer) :
    Keeps r₀ (State.setXfer s x) := by
  unfold State.setXfer
  extract_lets
  repeat' first
    | with_reducible assumption | with_reducible apply Keeps.upd

theorem State.dropXfer_keeps {r₀ s : State} (h0 : Keeps r₀ s) (id : BitVec 32) :
    Keeps r₀ (State.dropXfer s id) := by
  unfold State.dropXfer
  extract_lets
  repeat' first
    | with_reducible assumption | with_reducible apply Keeps.upd

theorem State.sendSegs_keeps {r₀ s : State} (h0 : Keeps r₀ s) (x : Xfer) (i n : Nat) :
    Keeps r₀ (State.sendSegs s x i n) := by
  unfold State.sendSegs
  repeat' first
    | with_reducible assumption | with_reducible apply State.sendFrame_keeps | with_reducible refine keeps_foldl _ ?_ _ _ ?_
      | with_reducible intro _

theorem State.sendMore_keeps {r₀ s : State} (h0 : Keeps r₀ s) (x : Xfer) :
    Keeps r₀ (State.sendMore s x) := by
  unfold State.sendMore
  extract_lets
  repeat' first
    | with_reducible assumption | with_reducible apply State.sendSegs_keeps | with_reducible apply State.setXfer_keeps

theorem execSegStart_keeps {r₀ s : State} (h0 : Keeps r₀ s) (fr : TheostFrame) :
    OutKeeps r₀ (execSegStart fr s) := by
  unfold execSegStart
  refine withRoom_keeps h0 _ ?_
  extract_lets
  repeat' first
    | with_reducible assumption | with_reducible apply State.answerFrame_keeps | with_reducible apply State.frame_keeps
       | with_reducible apply State.request_keeps | with_reducible apply State.sendMore_keeps | dsimp only | split
       | with_reducible intro _ | with_reducible apply Keeps.upd

theorem State.segAcked_keeps {r₀ s : State} (h0 : Keeps r₀ s) (x : Xfer) :
    Keeps r₀ (State.segAcked s x) := by
  unfold State.segAcked
  repeat' first
    | with_reducible assumption | with_reducible apply State.sendFrame_keeps

theorem State.commitXfer_holds {r₀ s : State} (h0 : Keeps r₀ s) (x : Xfer) :
    Holds r₀ (State.commitXfer s x) := by
  unfold State.commitXfer
  extract_lets
  repeat' first
    | with_reducible assumption | with_reducible apply State.odWriteVia_holds | with_reducible refine holds_ite ?_ ?_
      | with_reducible apply State.setXfer_keeps | with_reducible apply State.writeRefused_keeps
      | with_reducible refine Keeps.toHolds ?_

theorem execSegData_holds {r₀ s : State} (h0 : Keeps r₀ s) (fr : TheostFrame) :
    OutHolds r₀ (execSegData fr s) := by
  unfold execSegData
  extract_lets
  repeat' first
    | with_reducible assumption | with_reducible apply State.commitXfer_holds | with_reducible apply State.frame_holds
      | with_reducible apply withRoom_holds | with_reducible apply State.segAcked_keeps
      | with_reducible apply State.setXfer_keeps | dsimp only | split | with_reducible intro _
      | with_reducible refine Keeps.toHolds ?_

theorem execSegAck_keeps {r₀ s : State} (h0 : Keeps r₀ s) (fr : TheostFrame) :
    OutKeeps r₀ (execSegAck fr s) := by
  unfold execSegAck
  repeat' first
    | with_reducible assumption | with_reducible apply State.dropXfer_keeps | with_reducible apply State.frame_keeps
      | with_reducible apply State.sendMore_keeps | with_reducible apply State.setXfer_keeps | dsimp only | split
      | with_reducible intro _

theorem State.abortXfer_keeps {r₀ s : State} (h0 : Keeps r₀ s) (x : Xfer) (st : Status) :
    Keeps r₀ (State.abortXfer s x st) := by
  unfold State.abortXfer
  repeat' first
    | with_reducible assumption | with_reducible apply State.dropXfer_keeps | with_reducible apply State.event_keeps

theorem execSegAbort_keeps {r₀ s : State} (h0 : Keeps r₀ s) (fr : TheostFrame) :
    OutKeeps r₀ (execSegAbort fr s) := by
  unfold execSegAbort
  refine withRoom_keeps h0 _ ?_
  repeat' first
    | with_reducible assumption | with_reducible apply State.abortXfer_keeps | with_reducible apply State.frame_keeps | split
       | with_reducible intro _

theorem execSegResend_keeps {r₀ s : State} (h0 : Keeps r₀ s) (xfer : BitVec 32) :
    OutKeeps r₀ (execSegResend xfer s) := by
  unfold execSegResend
  repeat' first
    | with_reducible assumption | with_reducible apply State.advanceTo_keeps | with_reducible apply State.sendSegs_keeps
       | with_reducible apply State.setXfer_keeps | with_reducible refine out_next ?_ | dsimp only | split

theorem execSegTimeout_keeps {r₀ s : State} (h0 : Keeps r₀ s) (xfer : BitVec 32) :
    OutKeeps r₀ (execSegTimeout xfer s) := by
  unfold execSegTimeout
  refine withRoom_keeps h0 _ ?_
  repeat' first
    | with_reducible assumption | with_reducible apply State.abortXfer_keeps | with_reducible apply State.advanceTo_keeps
      | with_reducible apply State.sendFrame_keeps | with_reducible refine out_next ?_ | dsimp only | split

theorem alu0_keeps {r₀ s : State} (h0 : Keeps r₀ s) (g : GroupRef) (w : BitVec 64) (x : BitVec 32) (gr : Group) :
    IssueKeeps r₀ (alu0 g w x s gr) :=
  checked_keeps h0 g _ _ _ gr fun _ x h => groupOnly_keeps h g _ x

theorem alu1_keeps {r₀ s : State} (h0 : Keeps r₀ s) (g : GroupRef) (w : BitVec 64) (op : BitVec 32 → BitVec 32) (gr : Group) :
    IssueKeeps r₀ (alu1 g w op s gr) :=
  checked_keeps h0 g _ _ _ gr fun _ x h => groupOnly_keeps h g _ x

theorem alu2_keeps {r₀ s : State} (h0 : Keeps r₀ s) (g : GroupRef) (w : BitVec 64) (op : BitVec 32 → BitVec 32 → BitVec 32) (gr : Group) :
    IssueKeeps r₀ (alu2 g w op s gr) :=
  checked_keeps h0 g _ _ _ gr fun _ x h => groupOnly_keeps h g _ x

theorem alu3_keeps {r₀ s : State} (h0 : Keeps r₀ s) (g : GroupRef) (w : BitVec 64) (op : BitVec 32 → BitVec 32 → BitVec 32 → BitVec 32) (gr : Group) :
    IssueKeeps r₀ (alu3 g w op s gr) :=
  checked_keeps h0 g _ _ _ gr fun _ x h => groupOnly_keeps h g _ x

theorem pick_keeps {r₀ s : State} (h0 : Keeps r₀ s) (g : GroupRef) (w : BitVec 64)  (gr : Group) :
    IssueKeeps r₀ (pick g w  s gr) :=
  checked_keeps h0 g _ _ _ gr fun _ x h => groupOnly_keeps h g _ x

theorem compare_keeps {r₀ s : State} (h0 : Keeps r₀ s) (g : GroupRef) (w : BitVec 64) (cond : Nat → BitVec 32 → BitVec 32 → Bool) (gr : Group) :
    IssueKeeps r₀ (compare g w cond s gr) :=
  checked_keeps h0 g _ _ _ gr fun _ x h => groupOnly_keeps h g _ x

theorem execIntAdd_keeps {r₀ s : State} (h0 : Keeps r₀ s) (g : GroupRef) (f : BitVec 48) :
    OutKeeps r₀ (execIntAdd g f s) := by
  unfold execIntAdd
  repeat' first
    | with_reducible assumption | with_reducible apply alu2_keeps | with_reducible apply issued_keeps | with_reducible intro _

theorem execIntSub_keeps {r₀ s : State} (h0 : Keeps r₀ s) (g : GroupRef) (f : BitVec 48) :
    OutKeeps r₀ (execIntSub g f s) := by
  unfold execIntSub
  repeat' first
    | with_reducible assumption | with_reducible apply alu2_keeps | with_reducible apply issued_keeps | with_reducible intro _

theorem execIntMul_keeps {r₀ s : State} (h0 : Keeps r₀ s) (g : GroupRef) (f : BitVec 48) :
    OutKeeps r₀ (execIntMul g f s) := by
  unfold execIntMul
  repeat' first
    | with_reducible assumption | with_reducible apply alu2_keeps | with_reducible apply issued_keeps | with_reducible intro _

theorem execIntMuladd_keeps {r₀ s : State} (h0 : Keeps r₀ s) (g : GroupRef) (f : BitVec 48) :
    OutKeeps r₀ (execIntMuladd g f s) := by
  unfold execIntMuladd
  repeat' first
    | with_reducible assumption | with_reducible apply alu3_keeps | with_reducible apply issued_keeps | with_reducible intro _

theorem execIntAnd_keeps {r₀ s : State} (h0 : Keeps r₀ s) (g : GroupRef) (f : BitVec 48) :
    OutKeeps r₀ (execIntAnd g f s) := by
  unfold execIntAnd
  repeat' first
    | with_reducible assumption | with_reducible apply alu2_keeps | with_reducible apply issued_keeps | with_reducible intro _

theorem execIntOr_keeps {r₀ s : State} (h0 : Keeps r₀ s) (g : GroupRef) (f : BitVec 48) :
    OutKeeps r₀ (execIntOr g f s) := by
  unfold execIntOr
  repeat' first
    | with_reducible assumption | with_reducible apply alu2_keeps | with_reducible apply issued_keeps | with_reducible intro _

theorem execIntXor_keeps {r₀ s : State} (h0 : Keeps r₀ s) (g : GroupRef) (f : BitVec 48) :
    OutKeeps r₀ (execIntXor g f s) := by
  unfold execIntXor
  repeat' first
    | with_reducible assumption | with_reducible apply alu2_keeps | with_reducible apply issued_keeps | with_reducible intro _

theorem execIntShl_keeps {r₀ s : State} (h0 : Keeps r₀ s) (g : GroupRef) (f : BitVec 48) :
    OutKeeps r₀ (execIntShl g f s) := by
  unfold execIntShl
  repeat' first
    | with_reducible assumption | with_reducible apply alu2_keeps | with_reducible apply issued_keeps | with_reducible intro _

theorem execIntShr_keeps {r₀ s : State} (h0 : Keeps r₀ s) (g : GroupRef) (f : BitVec 48) :
    OutKeeps r₀ (execIntShr g f s) := by
  unfold execIntShr
  repeat' first
    | with_reducible assumption | with_reducible apply alu2_keeps | with_reducible apply issued_keeps | with_reducible intro _

theorem execIntShra_keeps {r₀ s : State} (h0 : Keeps r₀ s) (g : GroupRef) (f : BitVec 48) :
    OutKeeps r₀ (execIntShra g f s) := by
  unfold execIntShra
  repeat' first
    | with_reducible assumption | with_reducible apply alu2_keeps | with_reducible apply issued_keeps | with_reducible intro _

theorem execIntMin_keeps {r₀ s : State} (h0 : Keeps r₀ s) (g : GroupRef) (f : BitVec 48) :
    OutKeeps r₀ (execIntMin g f s) := by
  unfold execIntMin
  repeat' first
    | with_reducible assumption | with_reducible apply alu2_keeps | with_reducible apply issued_keeps | with_reducible intro _

theorem execIntMax_keeps {r₀ s : State} (h0 : Keeps r₀ s) (g : GroupRef) (f : BitVec 48) :
    OutKeeps r₀ (execIntMax g f s) := by
  unfold execIntMax
  repeat' first
    | with_reducible assumption | with_reducible apply alu2_keeps | with_reducible apply issued_keeps | with_reducible intro _

theorem execIntCmp_keeps {r₀ s : State} (h0 : Keeps r₀ s) (g : GroupRef) (f : BitVec 48) :
    OutKeeps r₀ (execIntCmp g f s) := by
  unfold execIntCmp
  repeat' first
    | with_reducible assumption | with_reducible apply compare_keeps | with_reducible apply issued_keeps | with_reducible intro _

theorem execVPick_keeps {r₀ s : State} (h0 : Keeps r₀ s) (g : GroupRef) (f : BitVec 48) :
    OutKeeps r₀ (execVPick g f s) := by
  unfold execVPick
  repeat' first
    | with_reducible assumption | with_reducible apply issued_keeps | with_reducible apply pick_keeps | with_reducible intro _

theorem execVMov_keeps {r₀ s : State} (h0 : Keeps r₀ s) (g : GroupRef) (f : BitVec 48) :
    OutKeeps r₀ (execVMov g f s) := by
  unfold execVMov
  repeat' first
    | with_reducible assumption | with_reducible apply alu1_keeps | with_reducible apply issued_keeps | with_reducible intro _

theorem execIntAddi_keeps {r₀ s : State} (h0 : Keeps r₀ s) (g : GroupRef) (f : BitVec 48) :
    OutKeeps r₀ (execIntAddi g f s) := by
  unfold execIntAddi
  repeat' first
    | with_reducible assumption | with_reducible apply alu1_keeps | with_reducible apply issued_keeps | with_reducible intro _

theorem execVLdi_keeps {r₀ s : State} (h0 : Keeps r₀ s) (g : GroupRef) (f : BitVec 48) :
    OutKeeps r₀ (execVLdi g f s) := by
  unfold execVLdi
  repeat' first
    | with_reducible assumption | with_reducible apply alu0_keeps | with_reducible apply issued_keeps | with_reducible intro _

theorem execVLdhi_keeps {r₀ s : State} (h0 : Keeps r₀ s) (g : GroupRef) (f : BitVec 48) :
    OutKeeps r₀ (execVLdhi g f s) := by
  unfold execVLdhi
  repeat' first
    | with_reducible assumption | with_reducible apply alu1_keeps | with_reducible apply issued_keeps | with_reducible intro _

theorem execFpAdd_keeps {r₀ s : State} (h0 : Keeps r₀ s) (g : GroupRef) (f : BitVec 48) :
    OutKeeps r₀ (execFpAdd g f s) := by
  unfold execFpAdd
  repeat' first
    | with_reducible assumption | with_reducible apply alu2_keeps | with_reducible apply issued_keeps | with_reducible intro _

theorem execFpMul_keeps {r₀ s : State} (h0 : Keeps r₀ s) (g : GroupRef) (f : BitVec 48) :
    OutKeeps r₀ (execFpMul g f s) := by
  unfold execFpMul
  repeat' first
    | with_reducible assumption | with_reducible apply alu2_keeps | with_reducible apply issued_keeps | with_reducible intro _

theorem execFpMuladd_keeps {r₀ s : State} (h0 : Keeps r₀ s) (g : GroupRef) (f : BitVec 48) :
    OutKeeps r₀ (execFpMuladd g f s) := by
  unfold execFpMuladd
  repeat' first
    | with_reducible assumption | with_reducible apply alu3_keeps | with_reducible apply issued_keeps | with_reducible intro _

theorem execFpMin_keeps {r₀ s : State} (h0 : Keeps r₀ s) (g : GroupRef) (f : BitVec 48) :
    OutKeeps r₀ (execFpMin g f s) := by
  unfold execFpMin
  repeat' first
    | with_reducible assumption | with_reducible apply alu2_keeps | with_reducible apply issued_keeps | with_reducible intro _

theorem execFpMax_keeps {r₀ s : State} (h0 : Keeps r₀ s) (g : GroupRef) (f : BitVec 48) :
    OutKeeps r₀ (execFpMax g f s) := by
  unfold execFpMax
  repeat' first
    | with_reducible assumption | with_reducible apply alu2_keeps | with_reducible apply issued_keeps | with_reducible intro _

theorem execFpCmp_keeps {r₀ s : State} (h0 : Keeps r₀ s) (g : GroupRef) (f : BitVec 48) :
    OutKeeps r₀ (execFpCmp g f s) := by
  unfold execFpCmp
  repeat' first
    | with_reducible assumption | with_reducible apply compare_keeps | with_reducible apply issued_keeps | with_reducible intro _

theorem execCvtFtoi_keeps {r₀ s : State} (h0 : Keeps r₀ s) (g : GroupRef) (f : BitVec 48) :
    OutKeeps r₀ (execCvtFtoi g f s) := by
  unfold execCvtFtoi
  repeat' first
    | with_reducible assumption | with_reducible apply alu1_keeps | with_reducible apply issued_keeps | with_reducible intro _

theorem execCvtItof_keeps {r₀ s : State} (h0 : Keeps r₀ s) (g : GroupRef) (f : BitVec 48) :
    OutKeeps r₀ (execCvtItof g f s) := by
  unfold execCvtItof
  repeat' first
    | with_reducible assumption | with_reducible apply alu1_keeps | with_reducible apply issued_keeps | with_reducible intro _

theorem execTbHoldoverEnter_keeps {r₀ s : State} (h0 : Keeps r₀ s) :
    OutKeeps r₀ (execTbHoldoverEnter s) := by
  unfold execTbHoldoverEnter
  refine withRoom_keeps h0 _ ?_
  extract_lets
  repeat' first
    | with_reducible assumption | with_reducible apply State.event_keeps | with_reducible apply State.odSet_keeps
       | with_reducible refine out_next ?_ | split | with_reducible apply Keeps.upd

theorem execTbHoldoverExit_keeps {r₀ s : State} (h0 : Keeps r₀ s) :
    OutKeeps r₀ (execTbHoldoverExit s) := by
  unfold execTbHoldoverExit
  refine withRoom_keeps h0 _ ?_
  extract_lets
  repeat' first
    | with_reducible assumption | with_reducible apply State.advanceTo_keeps | with_reducible apply State.event_keeps
       | with_reducible apply State.odSet_keeps | with_reducible refine out_next ?_ | split

theorem State.restamp_keeps {r₀ s t : State} (h : Keeps r₀ t) (x : HeldAction) : Keeps r₀ (s.restamp t x) := by
  unfold State.restamp
  extract_lets
  exact Keeps.upd h ..

end Sys2Proof.Machine
end

