-- ==== Sys2Proof/Laws/KeepsStep.lean ====
section
/-! SUPPORT. What every command and every step keeps. -/

namespace Sys2Proof.Machine

open Sys2Proof

/-- Every command but those that pass through OFF keeps what `Holds` says. -/
theorem exec_holds {r₀ s : State} (h0 : Keeps r₀ s) (c : Instr) (hc : c.throughOff = false) : OutHolds r₀ (exec c s) := by
  cases c with
  | intAdd g f => exact (execIntAdd_keeps h0 g f).holds
  | intSub g f => exact (execIntSub_keeps h0 g f).holds
  | intMul g f => exact (execIntMul_keeps h0 g f).holds
  | intMuladd g f => exact (execIntMuladd_keeps h0 g f).holds
  | intAnd g f => exact (execIntAnd_keeps h0 g f).holds
  | intOr g f => exact (execIntOr_keeps h0 g f).holds
  | intXor g f => exact (execIntXor_keeps h0 g f).holds
  | intShl g f => exact (execIntShl_keeps h0 g f).holds
  | intShr g f => exact (execIntShr_keeps h0 g f).holds
  | intShra g f => exact (execIntShra_keeps h0 g f).holds
  | intMin g f => exact (execIntMin_keeps h0 g f).holds
  | intMax g f => exact (execIntMax_keeps h0 g f).holds
  | intCmp g f => exact (execIntCmp_keeps h0 g f).holds
  | vPick g f => exact (execVPick_keeps h0 g f).holds
  | vMov g f => exact (execVMov_keeps h0 g f).holds
  | intAddi g f => exact (execIntAddi_keeps h0 g f).holds
  | vLdi g f => exact (execVLdi_keeps h0 g f).holds
  | vLdhi g f => exact (execVLdhi_keeps h0 g f).holds
  | fpAdd g f => exact (execFpAdd_keeps h0 g f).holds
  | fpMul g f => exact (execFpMul_keeps h0 g f).holds
  | fpMuladd g f => exact (execFpMuladd_keeps h0 g f).holds
  | fpMin g f => exact (execFpMin_keeps h0 g f).holds
  | fpMax g f => exact (execFpMax_keeps h0 g f).holds
  | fpCmp g f => exact (execFpCmp_keeps h0 g f).holds
  | cvtFtoi g f => exact (execCvtFtoi_keeps h0 g f).holds
  | cvtItof g f => exact (execCvtItof_keeps h0 g f).holds
  | uadd g f => exact (execUadd_keeps h0 g f).holds
  | umovi g f => exact (execUmovi_keeps h0 g f).holds
  | u2v g f => exact (execU2v_keeps h0 g f).holds
  | v2u g f => exact (execV2u_keeps h0 g f).holds
  | s2u g f => exact (execS2u_keeps h0 g f).holds
  | s2v g f => exact (execS2v_keeps h0 g f).holds
  | dld g f => exact (execDld_keeps h0 g f).holds
  | nop g f => exact (execNop_keeps h0 g f).holds
  | bra g f => exact (execBra_keeps h0 g f).holds
  | rpush g f => exact (execRpush_keeps h0 g f).holds
  | rjoin g f => exact (execRjoin_keeps h0 g f).holds
  | call g f => exact (execCall_keeps h0 g f).holds
  | ret g f => exact (execRet_keeps h0 g f).holds
  | endThreads g f => exact (execEndThreads_keeps h0 g f).holds
  | cbar g f => exact (execCbar_keeps h0 g f).holds
  | cbarRelease core => exact (execCbarRelease_keeps h0 core).holds
  | ldL g sz f => exact (execLdL_keeps h0 g sz f).holds
  | stL g sz f => exact (execStL_keeps h0 g sz f).holds
  | lkacq g f => exact (execLkacq_keeps h0 g f).holds
  | lkrel g f => exact (execLkrel_keeps h0 g f).holds
  | ldG g sz f => exact (execLdG_keeps h0 g sz f).holds
  | stG g sz f => exact (execStG_keeps h0 g sz f).holds
  | shflIdx g f => exact (execShflIdx_keeps h0 g f).holds
  | shflUp g f => exact (execShflUp_keeps h0 g f).holds
  | shflDown g f => exact (execShflDown_keeps h0 g f).holds
  | shflXor g f => exact (execShflXor_keeps h0 g f).holds
  | voteAny g f => exact (execVoteAny_keeps h0 g f).holds
  | voteAll g f => exact (execVoteAll_keeps h0 g f).holds
  | voteBallot g f => exact (execVoteBallot_keeps h0 g f).holds
  | mxWld g f => exact (execMxWld_keeps h0 g f).holds
  | mxWldStart core tok => exact (execMxWldStart_keeps h0 core tok).holds
  | mxWldDone core tok => exact (execMxWldDone_keeps h0 core tok).holds
  | mxMma g f => exact (execMxMma_keeps h0 g f).holds
  | mxMmaStart core tok => exact (execMxMmaStart_keeps h0 core tok).holds
  | mxMmaDone core tok => exact (execMxMmaDone_keeps h0 core tok).holds
  | mxDrn g f => exact (execMxDrn_keeps h0 g f).holds
  | mxDrnStart core tok => exact (execMxDrnStart_keeps h0 core tok).holds
  | mxDrnDone core tok => exact (execMxDrnDone_keeps h0 core tok).holds
  | arrayWake core array => exact (execArrayWake_keeps h0 core array).holds
  | arrayGate core array => exact (execArrayGate_keeps h0 core array).holds
  | twait g f => exact (execTwait_keeps h0 g f).holds
  | ttest g f => exact (execTtest_keeps h0 g f).holds
  | chRun g f => exact (execChRun_keeps h0 g f).holds
  | chRunDone core tok => exact (execChRunDone_keeps h0 core tok).holds
  | atCas64 g f => exact (execAtCas64_keeps h0 g f).holds
  | atSwp64 g f => exact (execAtSwp64_keeps h0 g f).holds
  | atAdd64 g f => exact (execAtAdd64_keeps h0 g f).holds
  | redAddW40 g f => exact (execRedAddW40_keeps h0 g f).holds
  | redAddF32 g f => exact (execRedAddF32_keeps h0 g f).holds
  | redAddBf16 g f => exact (execRedAddBf16_keeps h0 g f).holds
  | redMaxF32 g f => exact (execRedMaxF32_keeps h0 g f).holds
  | redMinF32 g f => exact (execRedMinF32_keeps h0 g f).holds
  | redMaxBf16 g f => exact (execRedMaxBf16_keeps h0 g f).holds
  | redMinBf16 g f => exact (execRedMinBf16_keeps h0 g f).holds
  | mcSt64 g f => exact (execMcSt64_keeps h0 g f).holds
  | fenceR g f => exact (execFenceR_keeps h0 g f).holds
  | pktRead port pk => exact (execPktRead_keeps h0 port pk).holds
  | pktWrite port pk => exact (execPktWrite_keeps h0 port pk).holds
  | pktCas port pk => exact (execPktCas_keeps h0 port pk).holds
  | pktSwap port pk => exact (execPktSwap_keeps h0 port pk).holds
  | fetchAdd port pk => exact (execFetchAdd_keeps h0 port pk).holds
  | reductionRequest port pk => exact (execReductionRequest_keeps h0 port pk).holds
  | mcastWrite port pk => exact (execMcastWrite_keeps h0 port pk).holds
  | invalidate port pk => exact (execInvalidate_keeps h0 port pk).holds
  | invAck port pk => exact (execInvAck_keeps h0 port pk).holds
  | remoteResponse pk coherent => exact (execRemoteResponse_keeps h0 pk coherent).holds
  | remoteTimeout tag => exact (execRemoteTimeout_keeps h0 tag).holds
  | nopCommand cmd => exact (execNopCommand_keeps h0 cmd).holds
  | tailLineWrite ring tail => exact (execTailLineWrite_keeps h0 ring tail).holds
  | cqHeadWrite cq head => exact (execCqHeadWrite_keeps h0 cq head).holds
  | launch cmd => exact (execLaunch_keeps h0 cmd).holds
  | launchStart cmd => exact (execLaunchStart_keeps h0 cmd).holds
  | launchCommit cmd => exact (execLaunchCommit_keeps h0 cmd).holds
  | copy cmd => exact (execCopy_keeps h0 cmd).holds
  | copyStart lighter => exact (execCopyStart_keeps h0 lighter).holds
  | copyCommit cmd => exact (execCopyCommit_keeps h0 cmd).holds
  | bucketPost cmd => exact (execBucketPost_keeps h0 cmd).holds
  | bucketPostCommit cmd => exact (execBucketPostCommit_keeps h0 cmd).holds
  | bktReady fl => exact (execBktReady_keeps h0 fl).holds
  | bktAbort fl => exact (execBktAbort_keeps h0 fl).holds
  | collData port pk => exact (execCollData_keeps h0 port pk).holds
  | collTimeout cmd => exact (execCollTimeout_keeps h0 cmd).holds
  | permute cmd => exact (execPermute_keeps h0 cmd).holds
  | permData port pk => exact (execPermData_keeps h0 port pk).holds
  | permAbort fl => exact (execPermAbort_keeps h0 fl).holds
  | permuteCommit cmd => exact (execPermuteCommit_keeps h0 cmd).holds
  | barrier cmd => exact (execBarrier_keeps h0 cmd).holds
  | barArrive fl => exact (execBarArrive_keeps h0 fl).holds
  | barRelease fl => exact (execBarRelease_keeps h0 fl).holds
  | barAbort fl => exact (execBarAbort_keeps h0 fl).holds
  | barrierTimeout ctx => exact (execBarrierTimeout_keeps h0 ctx).holds
  | barOrphaned ctx => exact (execBarOrphaned_keeps h0 ctx).holds
  | epochSwitch ctx => exact (execEpochSwitch_keeps h0 ctx).holds
  | updateStep cmd => exact (execUpdateStep_keeps h0 cmd).holds
  | updateStepCommit cmd => exact (execUpdateStepCommit_keeps h0 cmd).holds
  | snapshot cmd => exact (execSnapshot_keeps h0 cmd).holds
  | snapshotCopyStart cmd => exact (execSnapshotCopyStart_keeps h0 cmd).holds
  | snapshotCommit cmd => exact (execSnapshotCommit_keeps h0 cmd).holds
  | hoSend cmd => exact (execHoSend_keeps h0 cmd).holds
  | sendChunk channel => exact (execSendChunk_keeps h0 channel).holds
  | hoRecv cmd => exact (execHoRecv_keeps h0 cmd).holds
  | poolGet cmd => exact (execPoolGet_keeps h0 cmd).holds
  | poolPut cmd => exact (execPoolPut_keeps h0 cmd).holds
  | poolDrop cmd => exact (execPoolDrop_keeps h0 cmd).holds
  | consumedLimit channel limit posted => exact (execConsumedLimit_keeps h0 channel limit posted).holds
  | hoTimeout cmd => exact (execHoTimeout_keeps h0 cmd).holds
  | hoJob via channel job => exact (execHoJob_keeps h0 via channel job).holds
  | abortTarget via v => exact (execAbortTarget_keeps h0 via v).holds
  | mailboxRequest m req => exact execMailboxRequest_holds h0 m req
  | odWrite via index sub value => exact execOdWrite_holds h0 via index sub value
  | bar2Access write offset len data => exact execBar2Access_holds h0 write offset len data
  | readReq fr => exact (execReadReq_keeps h0 fr).holds
  | writeReq fr => exact execWriteReq_holds h0 fr
  | segStart fr => exact (execSegStart_keeps h0 fr).holds
  | segData fr => exact execSegData_holds h0 fr
  | segAck fr => exact (execSegAck_keeps h0 fr).holds
  | segAbort fr => exact (execSegAbort_keeps h0 fr).holds
  | segResend xfer => exact (execSegResend_keeps h0 xfer).holds
  | segTimeout xfer => exact (execSegTimeout_keeps h0 xfer).holds
  | cyclic channel => exact (execCyclic_keeps h0 channel).holds
  | cycEnable via channel v => exact (execCycEnable_keeps h0 via channel v).holds
  | presence => exact (execPresence_keeps h0).holds
  | drain via => exact (execDrain_keeps h0 via).holds
  | drainComplete => exact (execDrainComplete_keeps h0).holds
  | drainTimeout => exact (execDrainTimeout_keeps h0).holds
  | reinit via => exact execReinit_holds h0 via
  | reset via => exact (execReset_keeps h0 via).holds
  | resetDelayExpiry => exact Bool.noConfusion hc
  | saveParameters via => exact (execSaveParameters_keeps h0 via).holds
  | restoreDefaults via => exact (execRestoreDefaults_keeps h0 via).holds
  | jobOpen via v => exact (execJobOpen_keeps h0 via v).holds
  | jobClose via v => exact (execJobClose_keeps h0 via v).holds
  | ringEnable via n v => exact (execRingEnable_keeps h0 via n v).holds
  | cqEnable via n v => exact (execCqEnable_keeps h0 via n v).holds
  | portEnable via n v => exact (execPortEnable_keeps h0 via n v).holds
  | meshPlanId via v => exact (execMeshPlanId_keeps h0 via v).holds
  | fenceClear via v => exact (execFenceClear_keeps h0 via v).holds
  | epochAdopt via v => exact (execEpochAdopt_keeps h0 via v).holds
  | regionWrite via value => exact (execRegionWrite_keeps h0 via value).holds
  | ruleSwitchEpoch via v => exact (execRuleSwitchEpoch_keeps h0 via v).holds
  | ruleCommitNow via v => exact (execRuleCommitNow_keeps h0 via v).holds
  | nfStepFlag via n v => exact (execNfStepFlag_keeps h0 via n v).holds
  | lossValue via n v => exact (execLossValue_keeps h0 via n v).holds
  | ledgerCold via n => exact (execLedgerCold_keeps h0 via n).holds
  | ledgerRestored via n => exact (execLedgerRestored_keeps h0 via n).holds
  | ledgerDetach via n => exact (execLedgerDetach_keeps h0 via n).holds
  | evalCommit via v => exact (execEvalCommit_keeps h0 via v).holds
  | coreRetire via n v => exact (execCoreRetire_keeps h0 via n v).holds
  | coreFailed core cause => exact (execCoreFailed_keeps h0 core cause).holds
  | logRingEntries via v => exact (execLogRingEntries_keeps h0 via v).holds
  | logRelease => exact (execLogRelease_keeps h0).holds
  | logHeadWrite head => exact (execLogHeadWrite_keeps h0 head).holds
  | eventInterrupt => exact (execEventInterrupt_keeps h0).holds
  | laneRecalibration via target => exact (execLaneRecalibration_keeps h0 via target).holds
  | sensorTrim via target => exact (execSensorTrim_keeps h0 via target).holds
  | coreSelfTest via target => exact (execCoreSelfTest_keeps h0 via target).holds
  | hbmPatternTest via target => exact (execHbmPatternTest_keeps h0 via target).holds
  | portLoopback via target => exact (execPortLoopback_keeps h0 via target).holds
  | timebaseDelayRemeasure via target => exact (execTimebaseDelayRemeasure_keeps h0 via target).holds
  | selftestStart => exact (execSelftestStart_keeps h0).holds
  | selftestWaitTimeout => exact (execSelftestWaitTimeout_keeps h0).holds
  | selftestDone status detail => exact (execSelftestDone_keeps h0 status detail).holds
  | fwUpdate via value => exact (execFwUpdate_keeps h0 via value).holds
  | configUpdate via value => exact (execConfigUpdate_keeps h0 via value).holds
  | enrolmentAuthorisation via value => exact (execEnrolmentAuthorisation_keeps h0 via value).holds
  | debugUnlock via value => exact (execDebugUnlock_keeps h0 via value).holds
  | debugRelock via => exact (execDebugRelock_keeps h0 via).holds
  | quoteNonce via value => exact (execQuoteNonce_keeps h0 via value).holds
  | alarm classes sensors => exact (execAlarm_keeps h0 classes sensors).holds
  | eraseMarkerProgrammed => exact Bool.noConfusion hc
  | helperOverwrite => exact (execHelperOverwrite_keeps h0).holds
  | countFreeze via v => exact (execCountFreeze_keeps h0 via v).holds
  | countClear via => exact (execCountClear_keeps h0 via).holds
  | countSwitch => exact (execCountSwitch_keeps h0).holds
  | psel via set n v => exact (execPsel_keeps h0 via set n v).holds
  | pctl via set v => exact (execPctl_keeps h0 via set v).holds
  | tallyEnable via v => exact (execTallyEnable_keeps h0 via v).holds
  | tallyDump => exact (execTallyDump_keeps h0).holds
  | tallyDumpWritten => exact (execTallyDumpWritten_keeps h0).holds
  | tallyHeadWrite head => exact (execTallyHeadWrite_keeps h0 head).holds
  | scrubRead unit => exact (execScrubRead_keeps h0 unit).holds
  | memCeLimit srcType srcInst => exact (execMemCeLimit_keeps h0 srcType srcInst).holds
  | fatalError e => exact (execFatalError_keeps h0 e).holds
  | flitReceived port flit => exact (execFlitReceived_keeps h0 port flit).holds
  | idleFlit port => exact (execIdleFlit_keeps h0 port).holds
  | ident port id => exact (execIdent_keeps h0 port id).holds
  | trainingTimeout port => exact (execTrainingTimeout_keeps h0 port).holds
  | linkRetry port signal => exact (execLinkRetry_keeps h0 port signal).holds
  | laneBad port lane => exact (execLaneBad_keeps h0 port lane).holds
  | resizeReq port seq mask => exact (execResizeReq_keeps h0 port seq mask).holds
  | resizeAck port seq mask => exact (execResizeAck_keeps h0 port seq mask).holds
  | groupRecover port laneGroup => exact (execGroupRecover_keeps h0 port laneGroup).holds
  | recal port lane start => exact (execRecal_keeps h0 port lane start).holds
  | linkDown port cause => exact (execLinkDown_keeps h0 port cause).holds
  | deviceFenced port => exact (execDeviceFenced_keeps h0 port).holds
  | tbHoldoverEnter => exact (execTbHoldoverEnter_keeps h0).holds
  | tbHoldoverExit => exact (execTbHoldoverExit_keeps h0).holds
  | resetRelease => exact Bool.noConfusion hc
  | imageVerified => exact execImageVerified_holds h0
  | hbmStackInit => exact (execHbmStackInit_keeps h0).holds
  | hbmInitFailed phase => exact (execHbmInitFailed_keeps h0 phase).holds
  | clusterEnable failedSlots => exact execClusterEnable_holds h0 failedSlots
  | startComplete => exact (execStartComplete_keeps h0).holds
  | pwrGoodLow => exact Bool.noConfusion hc
  | resetNLow => exact Bool.noConfusion hc
  | perstNLow => exact Bool.noConfusion hc
  | perstNRise => exact Bool.noConfusion hc
  | railUndervoltage => exact Bool.noConfusion hc
  | thermtrip => exact Bool.noConfusion hc
  | thermalStep die hbm => exact Bool.noConfusion hc
  | governorEstimate fixed core avg => exact (execGovernorEstimate_keeps h0 fixed core avg).holds
  | governorRaise fixed core avg => exact (execGovernorRaise_keeps h0 fixed core avg).holds
  | pmbusTelemetry readings => exact (execPmbusTelemetry_keeps h0 readings).holds
  | powerCap via v => exact (execPowerCap_keeps h0 via v).holds
  | flashWriteDone => exact (execFlashWriteDone_keeps h0).holds
  | configurationRequest write reg data => exact (execConfigurationRequest_keeps h0 write reg data).holds
  | jtagInstruction req => exact (execJtagInstruction_keeps h0 req).holds
  | undefinedOpcode g word => exact (execUndefinedOpcode_keeps h0 g word).holds
/-- Every command keeps what `Grows` says. -/
theorem exec_grows (c : Instr) (s : State) : OutGrows s (exec c s) := by
  cases h : c.throughOff with
  | false => exact (exec_holds (.refl s) c h).grows
  | true =>
    cases c <;> first
    | exact Bool.noConfusion h
    | exact execResetDelayExpiry_grows (.refl s)
    | exact execEraseMarkerProgrammed_grows (.refl s)
    | exact execResetRelease_grows (.refl s) _
    | exact execPwrGoodLow_grows (.refl s)
    | exact execResetNLow_grows (.refl s)
    | exact execPerstNLow_grows (.refl s)
    | exact execPerstNRise_grows (.refl s)
    | exact execRailUndervoltage_grows (.refl s) _
    | exact execThermtrip_grows (.refl s)
    | exact execThermalStep_grows _ _

/-- A held command that acts keeps what `Holds` says: no command that passes through OFF is held. -/
theorem State.runOne_holds {r₀ s : State} (h0 : Keeps r₀ s) (h : HeldAction) : Holds r₀ (s.runOne h) := by
  unfold State.runOne
  split
  · rename_i c _
    split
    · exact h0.toHolds
    · rename_i hc
      split
      · rename_i t e
        exact ((exec_holds h0 c (Bool.eq_false_iff.mpr hc)).all t e).trans (State.restamp_keeps (.refl t) h).toHolds
      · exact h0.toHolds
  · exact h0.toHolds

theorem State.runHeld_holds {r₀ s : State} (h0 : Keeps r₀ s) : Holds r₀ s.runHeld := by
  unfold State.runHeld
  split
  · rename_i before x after _
    extract_lets t
    have ht : Holds r₀ t := State.runOne_holds (State.setHeld_keeps h0 _) x
    clear_value t
    exact ht.trans (State.setHeld_keeps (.refl t) _).toHolds
  · exact h0.toHolds

theorem State.idle_holds {r₀ s : State} (h0 : Keeps r₀ s) : Holds r₀ s.idle := by
  unfold State.idle
  extract_lets u v
  have hu : Keeps r₀ u := State.tick_keeps h0
  have hv : Keeps r₀ v := State.ifRoom_keeps hu (State.wakeUp_keeps hu)
  exact State.runHeld_holds (State.ifRoom_keeps hv (State.rootsDecide_keeps hv))

/-- A step on an empty queue keeps what `Holds` says. -/
theorem step_idle_holds {s t : State} (h : s.pending = []) (e : step s = .next t) : Holds s t := by
  unfold step at e
  rw [h] at e
  exact (out_holds (State.idle_holds (.refl s))).all t e

/-- A step on a queue takes the command at its front, and keeps what `Grows` says of the rest. -/
theorem step_grows {s t : State} {c : Instr} {rest : List Instr} (h : s.pending = c :: rest) (e : step s = .next t) :
    Grows { s with pending := rest } t := by
  unfold step at e
  rw [h] at e
  exact (exec_grows c _).all t e

/-- And what `Holds` says, where the command does not pass through OFF. -/
theorem step_holds {s t : State} {c : Instr} {rest : List Instr} (h : s.pending = c :: rest) (hc : c.throughOff = false)
    (e : step s = .next t) : Holds { s with pending := rest } t := by
  unfold step at e
  rw [h] at e
  exact (exec_holds (.refl _) c hc).all t e

end Sys2Proof.Machine
end

