-- ==== Sys2Proof/Laws/Threads.lean ====
section
/-! SUPPORT. What the operations of a thread group do: cores and groups of a state, counters, lanes, and issue. -/

namespace Sys2Proof.Machine

/-! ### Cores and groups -/

theorem State.group?_setGroup (s : State) (g h : GroupRef) (gr : Group) :
    (s.setGroup g gr).group? h = if h = g then some gr else s.group? h := by
  unfold State.setGroup State.group?
  rw [State.core_setCore]
  by_cases hc : h.core = g.core
  · rw [if_pos hc, SMap.find?_put]
    by_cases hs : h.slot = g.slot
    · rw [if_pos hs, if_pos (by cases h; cases g; simp_all)]
    · rw [if_neg hs, if_neg (by intro e; exact hs (e ▸ rfl)), hc]
  · rw [if_neg hc, if_neg (by intro e; exact hc (e ▸ rfl))]

/-! ### Counters -/

/-- From `s` to `t` only counters of one set change. -/
structure CountFrame (s t : State) (set : Nat) : Prop where
  rest : t = { s with od := t.od }
  od : ∀ k, (∀ i < 8, k ≠ Od.key set (0x02 + i)) → k ≠ Od.key set 0x12 → t.odGet k = s.odGet k

theorem CountFrame.refl (s : State) (set : Nat) : CountFrame s s set := ⟨rfl, fun _ _ _ => rfl⟩

theorem CountFrame.trans {s t u : State} {set : Nat} (h : CountFrame s t set) (k : CountFrame t u set) : CountFrame s u set :=
  ⟨by rw [k.rest, h.rest], fun i hi hj => (k.od i hi hj).trans (h.od i hi hj)⟩

theorem State.pmcAdd_frame (s : State) (set i n : Nat) (hi : i < 8) : CountFrame s (s.pmcAdd set i n) set := by
  have h1 : ∀ (x : State) v, CountFrame x (x.odSet (Od.key set (0x02 + i)) v) set := fun x v =>
    ⟨rfl, fun k hk _ => by rw [State.odGet_odSet, if_neg (hk i hi)]⟩
  have h2 : ∀ (x : State) v, CountFrame x (x.odSet (Od.key set 0x12) v) set := fun x v =>
    ⟨rfl, fun k _ hk => by rw [State.odGet_odSet, if_neg hk]⟩
  unfold State.pmcAdd
  extract_lets k v t
  split
  · exact (h1 s _).trans (h2 t _)
  · exact h1 s _

/-- An occurrence changes counters of its block's set, and nothing else. -/
theorem State.count_frame (s : State) (set ev n : Nat) (a : Attr) : CountFrame s (s.count set ev n a) set := by
  unfold State.count
  split
  · exact .refl s set
  · have : ∀ (l : List Nat) (x : State), (∀ i ∈ l, i < 8) → CountFrame x (l.foldl (fun s i =>
        let sel := BitVec.ofNat 64 (s.odGet (Od.key set (0x0A + i)))
        if sel.getLsbD 63 && decide ((sel.extractLsb' 0 16).toNat = ev) && pselPasses s sel a then s.pmcAdd set i n
        else s) x) set := by
      intro l
      induction l with
      | nil => intro x _; exact .refl x set
      | cons i l ih =>
        intro x hl
        refine CountFrame.trans ?_ (ih _ fun j hj => hl j (.tail _ hj))
        dsimp only
        split
        · exact State.pmcAdd_frame x set i n (hl i (.head _))
        · exact .refl x set
    exact this _ s fun i hi => List.mem_range.mp hi

/-- An instruction uses a slot: only the slots of its core are more. -/
theorem State.countSlot_frame (s : State) (n ev cls : Nat) :
    CoreCounts s (s.countSlot n ev cls) n ∧
      s.countSlot n ev cls = { s with od := (s.countSlot n ev cls).od, tally := (s.countSlot n ev cls).tally } := by
  unfold State.countSlot
  split
  · exact ⟨⟨rfl, ⟨[], by simp, nofun⟩, fun _ _ _ => rfl⟩, rfl⟩
  · exact ⟨⟨rfl, ⟨[⟨n, ev, cls⟩], rfl, fun u hu => by rw [List.mem_singleton.mp hu]⟩, fun _ _ _ => rfl⟩, rfl⟩

/-- A group takes a new value, and a slot is counted. -/
theorem State.setGroup_countSlot (s : State) (g : GroupRef) (q : Group) (ev cls : Nat) :
    ((s.setGroup g q).countSlot g.core ev cls).group? g = some q ∧
      GroupFrame s ((s.setGroup g q).countSlot g.core ev cls) g := by
  have h := State.countSlot_frame (s.setGroup g q) g.core ev cls
  generalize (s.setGroup g q).countSlot g.core ev cls = t at h ⊢
  have hc : ∀ n, t.core n = (s.setGroup g q).core n := fun n => by rw [h.2]; rfl
  have hg : ∀ r, t.group? r = (s.setGroup g q).group? r := fun r => by
    unfold State.group?
    rw [hc]
  refine ⟨by rw [hg, State.group?_setGroup, if_pos rfl],
    ⟨⟨⟨h.1.tally, h.1.slots, h.1.od⟩, ?_, ?_, ?_⟩, ?_, ?_⟩⟩
  · obtain ⟨o, y, rfl⟩ : ∃ o y, t = { s.setGroup g q with od := o, tally := y } := ⟨_, _, h.2⟩
    rfl
  · intro a
    rw [h.2]
    rfl
  · intro m hm
    rw [hc]
    unfold State.setGroup
    rw [State.core_setCore, if_neg hm]
  · rw [hc]
    unfold State.setGroup
    rw [State.core_setCore, if_pos rfl]
  · intro sl hsl
    rw [hg, State.group?_setGroup, if_neg]
    intro e
    exact hsl (congrArg GroupRef.slot e)

/-! ### Lanes -/

theorem Group.vGet_vSet (q : Group) (i j r k : Nat) (x : BitVec 32) (hr : r < 256) (hk : k < 256) :
    (q.vSet i r x).vGet j k = if j = i ∧ k = r then x else q.vGet j k := by
  unfold Group.vSet Group.vGet
  rw [SMap.get_set]
  by_cases h : j = i ∧ k = r
  · rw [if_pos h, if_pos (by omega)]
  · rw [if_neg h, if_neg (by omega)]

theorem Group.pGet_pSet (q : Group) (i j r k : Nat) (x : Bool) (hr : r < 8) (hk : k < 8) :
    (q.pSet i r x).pGet j k = if j = i ∧ k = r then x else q.pGet j k := by
  unfold Group.pSet Group.pGet
  rw [SMap.get_set]
  by_cases h : j = i ∧ k = r
  · rw [if_pos h, if_pos (by omega)]
  · rw [if_neg h, if_neg (by omega)]

/-- The bits of a mask. -/
theorem maskOf_getLsbD (f : Nat → Bool) (i : Nat) (hi : i < 32) : (maskOf f).getLsbD i = f i := by
  unfold maskOf
  have key : ∀ n, n ≤ 32 → ((List.range n).foldl (fun a i => if f i then a + 2 ^ i else a) 0 < 2 ^ n ∧
      ∀ i, ((List.range n).foldl (fun a i => if f i then a + 2 ^ i else a) 0).testBit i = (decide (i < n) && f i)) := by
    intro n
    induction n with
    | zero => intro _; exact ⟨by simp, by simp⟩
    | succ n ih =>
      intro h
      have ⟨h1, h2⟩ := ih (by omega)
      rw [List.range_succ, List.foldl_append, List.foldl_cons, List.foldl_nil]
      generalize (List.range n).foldl (fun a i => if f i then a + 2 ^ i else a) 0 = v at h1 h2 ⊢
      cases hf : f n with
      | false =>
        refine ⟨by simp; omega, fun j => ?_⟩
        simp only [Bool.false_eq_true, if_false]
        rw [h2]
        by_cases hj : j = n
        · subst hj; simp [hf]
        · have : (j < n) = (j < n + 1) := by apply propext; omega
          simp [this]
      | true =>
        simp only [if_true]
        have e : v + 2 ^ n = 2 ^ n ||| v := by
          have := Nat.two_pow_add_eq_or_of_lt h1 1
          rw [Nat.mul_one] at this
          omega
        refine ⟨by rw [Nat.pow_succ]; omega, fun j => ?_⟩
        rw [e, Nat.testBit_or, h2, Nat.testBit_two_pow]
        by_cases hj : j = n
        · subst hj; simp [hf]
        · have h3 : (j < n) = (j < n + 1) := by apply propext; omega
          have h4 : ¬ n = j := fun e => hj e.symm
          simp [h3, h4]
  have h := (key 32 (Nat.le_refl _)).2 i
  simp only [BitVec.getLsbD_ofNat, hi, decide_true, Bool.true_and] at h ⊢
  exact h

/-- The executing lanes. -/
theorem Group.mem_execLanes (gr : Group) (w : BitVec 64) (i : Nat) :
    i ∈ gr.execLanes w ↔ i < 32 ∧ gr.runs w i = true := by
  unfold Group.execLanes lanesOf Group.execMask
  rw [List.mem_filter, List.mem_range]
  constructor
  · intro ⟨h, k⟩
    rw [maskOf_getLsbD _ _ h] at k
    exact ⟨h, k⟩
  · intro ⟨h, k⟩
    refine ⟨h, ?_⟩
    rw [maskOf_getLsbD _ _ h]
    exact k

/-- An update of v registers lane by lane, in lanes without repeats, whose value for a lane does not depend on other lanes. -/
theorem Group.eachLane_vSet (vd : Nat) (hvd : vd < 256) (x : Nat → BitVec 32) (f : Nat → Group → BitVec 32) :
    ∀ (l : List Nat) (gr q : Group), l.Nodup → (∀ i ∈ l, i < 32) → q = { gr with v := q.v } →
      (∀ i ∈ l, ∀ p : Group, p = { gr with v := p.v } → (∀ r < 256, p.vGet i r = q.vGet i r) → f i p = x i) →
      let z := q.eachLane l fun i p => p.vSet i vd (f i p)
      z = { gr with v := z.v } ∧ ∀ i < 32, ∀ r < 256, z.vGet i r = if r = vd ∧ i ∈ l then x i else q.vGet i r := by
  intro l
  induction l with
  | nil => intro gr q _ _ hq _; exact ⟨hq, fun i _ r _ => by simp [Group.eachLane]⟩
  | cons j l ih =>
    intro gr q hn hl hq hf
    have hj := List.nodup_cons.mp hn
    have hx : f j q = x j := hf j (.head _) q hq fun _ _ => rfl
    have hq' : q.vSet j vd (f j q) = { gr with v := (q.vSet j vd (f j q)).v } := by
      show ({ q with v := _ } : Group) = _
      rw [hq]
      rfl
    have := ih gr (q.vSet j vd (f j q)) hj.2 (fun i hi => hl i (.tail _ hi)) hq' (by
      intro i hi p hp hpv
      refine hf i (.tail _ hi) p hp fun r hr => ?_
      rw [hpv r hr, Group.vGet_vSet _ _ _ _ _ _ hvd hr, if_neg]
      intro e
      exact hj.1 (e.1 ▸ hi))
    refine ⟨this.1, fun i hi r hr => ?_⟩
    rw [show q.eachLane (j :: l) (fun i p => p.vSet i vd (f i p)) =
      (q.vSet j vd (f j q)).eachLane l (fun i p => p.vSet i vd (f i p)) from rfl, this.2 i hi r hr,
      Group.vGet_vSet _ _ _ _ _ _ hvd hr, hx]
    by_cases hr' : r = vd
    · by_cases hi' : i = j
      · subst hi'; simp [hr', hj.1]
      · simp [hr', hi']
    · simp [hr']

/-! ### Issue -/

/-- What an issue does whose group may issue: the exception, or the state, of its body, with the slot counted. -/
theorem issue_ready {s : State} {g : GroupRef} {gr : Group} (h : Ready s g gr) (w : BitVec 64) (cls : Nat)
    (body : State → Group → Issue) :
    issued g w cls body s = .next (match body s gr with
      | .exc e => (s.countSlot g.core 0x0302 cls).takeExc g w e
      | .excAfter e t => (t.countSlot g.core 0x0302 cls).takeExc g w e
      | .done t => t.countSlot g.core 0x0301 cls) := by
  unfold issued issue issueFree
  dsimp only
  rw [h.room, if_neg (by simp), h.issuer]
  dsimp only
  rw [h.run, if_neg (by decide), h.fetch]
  all_goals
    dsimp only
    cases body s gr <;> rfl

theorem checked_ok {s : State} {g : GroupRef} {gr : Group} {bad : Bool} {regs : List (Nat × Nat)}
    (k : State → Group → Issue) (hb : bad = false) (hr : regsOk (s.vregs g.core) regs = true) :
    checked g bad regs k s gr = k s gr := by
  unfold checked
  rw [hb, hr]
  rfl

/-- An instruction that only changes its group. -/
theorem groupOnly_becomes {s : State} {g : GroupRef} {gr : Group} (h : Ready s g gr) (w : BitVec 64) (cls : Nat)
    (body : State → Group → Issue) (f : Group → Group) (hb : body s gr = groupOnly g f s gr) (c : Instr)
    (hc : exec c s = issued g w cls body s) : GroupBecomes c s g (f gr).advance := by
  refine ⟨_, by rw [hc, issue_ready h, hb]; rfl, State.setGroup_countSlot s g (f gr).advance 0x0301 cls⟩

end Sys2Proof.Machine
end

