-- ==== Sys2Proof/Tests/Slice0.lean ====
section
/-!
SUPPORT. Tests: an ill-formed term for each check of WellFormed; small results worked out by hand from the spec; and for
the statements that have hypotheses concrete states and operands that meet them (`witness_…`).
-/

namespace Sys2Proof.Tests

open Sys2Proof Sys2Proof.Machine

-- One theorem after another: side by side they take more threads than the check's memory allows.
set_option Elab.async false

/-! ### What a well-formed command may name -/

/-- A READ of 8 bytes from the neighbour at (1, 0). -/
def pkt : Packet :=
  { key := 7, addr := 0x1000, job := 5, tag := 3, srcMaster := 0x20, tc := 2, priv := 2, len := 8, waypoint := 0, wpValid := false
    detour := false, vc := 0, src := 1, dst := 0, mcCount := 0, mcDir := false, mcAxis := false, status := 0, detail := 0
    op := 0x01, pmask := 0, payload := [] }

/-- A frame of a client: the header by the positions of its fields, with LENGTH in bits [79:64]. -/
def theost (ftype seq index : Nat) (flags : Nat := 0) (xfer : Nat := 0) (payload : List Byte := []) (version : Nat := 1) :
    TheostFrame :=
  { srcMac := 0x0A, broadcast := false, etherType := 0x88B5
    header := BitVec.ofNat 128 (version + ftype * 2 ^ 8 + seq * 2 ^ 16 + index * 2 ^ 32 + 1 * 2 ^ 48 + payload.length * 2 ^ 64 +
      flags * 2 ^ 80 + xfer * 2 ^ 96)
    body := payload }

/-- A read request of DEVICE_STATE from a client. -/
def frame : TheostFrame := theost 0x01 9 0x1001

/-- A mailbox read of DEVICE_STATE. -/
def request : MailboxReq := { op := 0, index := 0x1001, sub := 0x01, seq := 1, length := 0, bufAddr := 0, value := [] }

/-- R6, R175: 128 cores of 16 group slots. -/
theorem test_wf_group : (Instr.intAdd ⟨127, 15⟩ 0).wf ∧ ¬(Instr.intAdd ⟨128, 0⟩ 0).wf ∧ ¬(Instr.intAdd ⟨0, 16⟩ 0).wf ∧
    ¬(Instr.cbarRelease 128).wf := by decide

/-- R152, R134: 24 tokens and 4 arrays. -/
theorem test_wf_token_array : (Instr.mxMmaStart 0 23).wf ∧ ¬(Instr.mxMmaStart 0 24).wf ∧ ¬(Instr.arrayWake 0 4).wf := by decide

/-- R262: at most 256 bytes of payload, and four ports. -/
theorem test_wf_packet : (Instr.pktRead 3 pkt).wf ∧ ¬(Instr.pktRead 4 pkt).wf ∧
    ¬(Instr.pktRead 0 { pkt with payload := List.replicate 257 0 }).wf := by decide +kernel

/-- R54, R50: the longest frame and the longest mailbox value. -/
theorem test_wf_frame : (Instr.readReq frame).wf ∧ ¬(Instr.readReq { frame with body := List.replicate 1481 0 }).wf ∧
    ¬(Instr.mailboxRequest 8 request).wf ∧
    ¬(Instr.mailboxRequest 0 { request with value := List.replicate 4033 0 }).wf := by decide +kernel

/-- R42, R50: eight mailboxes, and paths of cores that there are. -/
theorem test_wf_path : (Instr.drain (.mailbox 7)).wf ∧ ¬(Instr.drain (.mailbox 8)).wf ∧ ¬(Instr.drain (.core 128 0)).wf ∧
    ¬(Instr.drain (.core 0 16)).wf := by decide

/-- R68, R239, R309, R368, R59, R101: rings, Lighters, contexts, handoff and cyclic channels, numerics slots, clusters. -/
theorem test_wf_numbers : ¬(Instr.tailLineWrite 64 0).wf ∧ ¬(Instr.cqHeadWrite 64 0).wf ∧ ¬(Instr.copyStart 16).wf ∧
    ¬(Instr.epochSwitch 16).wf ∧ ¬(Instr.sendChunk 16).wf ∧ ¬(Instr.cyclic 8).wf ∧ ¬(Instr.ledgerCold .direct 16).wf ∧
    ¬(Instr.coreRetire .direct 8 0).wf ∧ ¬(Instr.cqEnable .direct 64 1).wf ∧ ¬(Instr.ringEnable .direct 64 1).wf := by decide

/-- R236, R232, R237, R438: the units, stacks, registers and cores that an error or an access names. -/
theorem test_wf_units : ¬(Instr.scrubRead (.localMem 128)).wf ∧ ¬(Instr.scrubRead (.clusterBuffer 8)).wf ∧
    ¬(Instr.fatalError (.hbmReadParity 8 0 1 true)).wf ∧ ¬(Instr.fatalError (.icacheParity 128)).wf ∧
    ¬(Instr.fatalError (.registerWord 0 0 32 0 true)).wf ∧ ¬(Instr.fatalError (.registerWord 0 0 0 128 true)).wf ∧
    ¬(Instr.jtagInstruction (.haltCore 128)).wf ∧ ¬(Instr.jtagInstruction (.read (.v 0 0 0 256))).wf ∧
    ¬(Instr.jtagInstruction (.write (.weightTag 0 32) 0)).wf ∧ (Instr.jtagInstruction (.write (.accumulator 127 81919) 0)).wf := by decide

/-- R242, R246, R406, R418, R462: lanes, flits, rails and counter sets. -/
theorem test_wf_lanes : (Instr.laneBad 0 39).wf ∧ ¬(Instr.laneBad 2 24).wf ∧ ¬(Instr.flitReceived 0 []).wf ∧
    ¬(Instr.groupRecover 0 5).wf ∧ ¬(Instr.railUndervoltage 9).wf ∧ ¬(Instr.pmbusTelemetry []).wf ∧
    ¬(Instr.psel .direct 0x3180 0 0).wf ∧ ¬(Instr.psel .direct 0x3100 8 0).wf ∧ ¬(Instr.bar2Access true ⟨.bar2, 0⟩ 8 []).wf := by decide

/-- No row of the table has an encoding. -/
theorem test_no_encoding : decodeTableWord 64 0x0001 = none := rfl

/-! ### States -/

/-- A device that works: RUNNING, with every stack and cluster started, at the corner of a plan of 2 by 1. -/
def on : State :=
  { State.reset with
    clk := { State.reset.clk with now := 1000000 }
    dev := { State.reset.dev with
      state := .running, pwrGood := true, resetN := true, perstN := true, linkUp := true, hbmDone := 8, clustersOn := 8 }
    pcie := { State.reset.pcie with memEnable := true }
    od := [(Od.meshPlanX, 2), (Od.meshPlanY, 1)].foldl (fun m e => SMap.set (odDefault e.1) m e.1 e.2) []
    fab := { Fabric.initial with ports := [(0, { Port.initial with state := .up, groups := 0x1F, accepted := some 1 })] } }

/-- A group at the start of HBM with all its threads active, in a lane of which v1 and v2 are set. -/
def grp : Group :=
  { pc := 0, active := 0xFFFFFFFF, live := 0xFFFFFFFF, stack := [], v := [(1, 5), (2, 0xFFFFFFFE)], u := [(1, 64), (2, 3)], d := []
    p := [], hold := .none, resp := [], fails := [], locks := 0, cbars := 0 }

def g0 : GroupRef := ⟨0, 0⟩

/-- The device with a group resident. -/
def held (g : Group) : State := on.setGroup g0 g

/-- The bits above the opcode, by the positions that the spec gives them in the word. -/
def fields (l : List (Nat × Nat)) : BitVec 48 := BitVec.ofNat 48 (l.foldl (fun a e => a + e.2 * 2 ^ (e.1 - 16)) 0)

/-- VD = v3, VA = v1, VB = v2, VC = v1. -/
def fVec : BitVec 48 := fields [(21, 3), (29, 1), (37, 2), (45, 1)]

theorem ready_of {s : State} {g : GroupRef} {gr : Group} (h : s.issuer g = some gr ∧ s.stopDue g.core = false ∧
    s.fetch g.core gr = (none, s) ∧ s.log.closed (coreSource g.core) = false) : Ready s g gr := ⟨h.1, h.2.1, h.2.2.1, h.2.2.2⟩

theorem ready_held : Ready (held grp) g0 grp := ready_of (by decide +kernel)

/-- Every word of the range reads clean. -/
def clean (s : State) (a n : Nat) : Bool :=
  (spanWords a n).all fun w => decide (checkWord (s.rawWord w) = .clean) && !codePoison (s.rawWord w) && decide (s.racyAt w = none)

theorem cleanBytes_of {s : State} {a n : Nat} (h : clean s a n = true) : CleanBytes s a n := fun w hw => by
  have := List.all_eq_true.mp h w hw
  simp only [Bool.and_eq_true, decide_eq_true_eq, Bool.not_eq_true'] at this
  exact ⟨this.1.1, this.1.2, this.2⟩

/-! ### Thread instructions -/

/-- A LAUNCH of command 1 with 64 registers. -/
def launch64 : Launch :=
  { cmd := 1, cores := [0], vregs := 64, groups := 1, excPolicy := false, excSlots := 0, excAddr := 0, entry := 0
    params := [], started := true, aborted := none, excStop := false, flags := 0, gateIdle := 0, firstCause := 0, excCount := 0
    excWritten := 0, excTime := 0, excBase := 0, excTies := [], areaFull := false }

/-- A group of that LAUNCH. -/
def launched : State :=
  let s : State := { on with disp := { on.disp with launches := [launch64] } }
  (s.setCore 0 { s.core 0 with launch := some 1 }).setGroup g0 grp

/-- One thread is active. -/
def one : Group := { grp with active := 1 }

theorem ready_one : Ready (held one) g0 one := ready_of (by decide +kernel)

theorem witness_IntegerResults : Ready (held grp) g0 grp ∧ fVD (opWord fVec 0) < (held grp).vregs 0 ∧
    fVA (opWord fVec 0) < (held grp).vregs 0 ∧ fVB (opWord fVec 0) < (held grp).vregs 0 ∧
    fVC (opWord fVec 0) < (held grp).vregs 0 := ⟨ready_held, by decide +kernel⟩

theorem witness_FloatResults : Ready (held grp) g0 grp ∧ fVD (opWord fVec 0) < (held grp).vregs 0 ∧
    f32Val 0x7F800000 = .inf false ∧ f32Val 0xFF800000 = .inf true ∧ (f32Val 0x7FC00000).isNaN ∧ (f32Val 0x3F800000).isFinite ∧
    (f32Val 0x3F800000).cmp (f32Val 0x40000000) < 0 ∧ 0 < (f32Val 0).cmp (f32Val 0xBF800000) := ⟨ready_held, by decide +kernel⟩

/-- The conditions 0 and 5, and beyond them 6. -/
theorem witness_CompareResults : Ready (held grp) g0 grp ∧ fld (opWord fVec 0) 56 3 = 0 ∧
    fld (opWord (fields [(56, 5)]) 0) 56 3 = 5 ∧ fld (opWord (fields [(56, 6)]) 0) 56 3 = 6 ∧
    f32Val 1 ≠ f32Val 2 ∧ (f32Val 0xFF800001).isNaN := ⟨ready_held, by decide +kernel⟩

/-- Under 64 registers v64 is one too many; without a LAUNCH the second part applies. -/
theorem witness_Exceptions : Ready launched g0 grp ∧ launched.vregs 0 = 64 ∧ fVD (opWord (fields [(21, 64)]) 0) = 64 ∧
    5 < fld (opWord (fields [(56, 7)]) 0) 56 3 ∧ (held grp).group? g0 = some grp ∧ (held grp).launchOf 0 = none :=
  ⟨ready_of (by decide +kernel), by decide +kernel⟩

/-- The first active lane is 0, or 4; the last defined code is 0x0B. -/
theorem witness_UniformResults : Ready (held grp) g0 grp ∧ grp.active.getLsbD 0 = true ∧
    ({ grp with active := 0x10 } : Group).active.getLsbD 4 = true ∧ (∀ j < 4, ({ grp with active := 0x10 } : Group).active.getLsbD j = false) ∧
    (opWord 0 0).extractLsb' 39 25 = 0 ∧ fld (opWord (fields [(39, 0x0A)]) 0) 39 8 = 0x0A ∧
    0x0B < fld (opWord (fields [(39, 0x0C)]) 0) 39 8 := ⟨ready_held, by decide +kernel⟩

/-- u1 is 64: the descriptor at 64 is there, IMM25 = 1 misaligns it, and IMM25 = -96 leads below local memory. -/
theorem witness_DescriptorLoad :
    let a := fun (imm : Nat) => (((grp.uGet (fUA (opWord (fields [(27, 1), (39, imm)]) 0))).toNat : Int) +
      ((opWord (fields [(27, 1), (39, imm)]) 0).extractLsb' 39 25).toInt)
    Ready (held grp) g0 grp ∧ CleanBytes (held grp) (localBase 0 + 64) 32 ∧
    a 0 = (64 : Nat) ∧ a 1 % 32 ≠ 0 ∧ a (2 ^ 25 - 96) % 32 = 0 ∧ a (2 ^ 25 - 96) < 0 :=
  ⟨ready_held, cleanBytes_of (by decide +kernel), by decide +kernel⟩

/-- A reconvergence entry under one that holds no live thread. -/
def deep : Group := { grp with live := 1, active := 1, stack := [⟨true, 8, 2⟩, ⟨false, 16, 3⟩] }
/-- A stack of 32 entries. -/
def full : Group := { grp with stack := List.replicate 32 ⟨false, 8, 0xFFFFFFFF⟩ }

/-- The guard p0 is false in every lane, so that no lane branches; under the lane mask 3 the guard of lane 0 alone holds. -/
theorem witness_ControlFlow : Ready (held grp) g0 grp ∧ Ready (held deep) g0 deep ∧ Ready (held full) g0 full ∧
    (let taken := fun (g : Group) (f : BitVec 48) => maskOf (g.runs (opWord f 0))
     let split : Group := { grp with active := 3, p := [(0, true)] }
     grp.active &&& ~~~(taken grp 0) = 0 ∧
     (grp.active &&& ~~~(taken grp (fields [(20, 1)])) ≠ 0 ∧ taken grp (fields [(20, 1)]) = 0) ∧
     (split.active &&& ~~~(taken split (fields [(20, 1)])) ≠ 0 ∧ taken split (fields [(20, 1)]) ≠ 0)) ∧
    grp.stack.length < 32 ∧ 32 ≤ full.stack.length ∧
    (∀ d ∈ [(⟨true, 8, 2⟩ : StackEntry)], d.mask &&& deep.live = 0) ∧ (3 : BitVec 32) &&& deep.live ≠ 0 ∧
    (∀ d ∈ grp.stack, d.mask &&& grp.live = 0) :=
  ⟨ready_held, ready_of (by decide +kernel), ready_of (by decide +kernel),
    by decide +kernel⟩

/-- Every thread ends; the threads of one side end and others wait on the stack; or on none. -/
theorem witness_EndAndReturn : Ready (held grp) g0 grp ∧
    (let gone := fun (g : Group) => maskOf (g.runs (opWord 0 0))
     let side : Group := { grp with active := 1, stack := [⟨true, 8, 2⟩] }
     let lost : Group := { grp with active := 1 }
     let some_ : Group := { grp with active := 3, p := [(0, true)] }
     grp.live &&& ~~~(gone grp) = 0 ∧ (held grp).groupPosting g0 = false ∧ grp.fails = [] ∧ grp.locks = 0 ∧
     ((held grp).core 0).tokens = [] ∧
     (side.live &&& ~~~(gone side) ≠ 0 ∧ side.active &&& ~~~(gone side) = 0 ∧ (2 : BitVec 32) &&& (side.live &&& ~~~(gone side)) ≠ 0) ∧
     (lost.live &&& ~~~(gone lost) ≠ 0 ∧ lost.active &&& ~~~(gone lost) = 0 ∧ lost.stack = []) ∧
     some_.active &&& ~~~(maskOf (some_.runs (opWord (fields [(20, 1)]) 0))) ≠ 0) := ⟨ready_held, by decide +kernel⟩

theorem witness_CoreBarrier : Ready (held grp) g0 grp ∧ (held grp).working = true ∧
    (∃ e ∈ ((held grp).core 0).groups, e.2.hold = .none) ∧
    (∀ e ∈ ((held { grp with hold := .cbar }).core 0).groups, e.2.arrived = true) := ⟨ready_held, by decide +kernel⟩

theorem witness_ShufflesAndVotes : Ready (held grp) g0 grp ∧ grp.active = 0xFFFFFFFF ∧ Ready (held one) g0 one ∧
    one.active ≠ 0xFFFFFFFF ∧ fVB (opWord fVec 0) < (held grp).vregs 0 := ⟨ready_held, by decide +kernel, ready_one, by decide +kernel⟩

/-- Lane 0 alone accesses byte 16 of local memory of core 0: its v4 is 16. -/
def local16 : Group := { one with v := [(4, 16)] }

/-- VD and VB are v8, so that 128 bits fit; VA = v4. -/
def fLoc : BitVec 48 := fields [(21, 8), (29, 4), (37, 8)]

theorem witness_LocalAccesses : Ready (held local16) g0 local16 ∧
    regsOk ((held local16).vregs 0) [(fVA (opWord fLoc 0), 1), (fVD (opWord fLoc 0), LSize.b128.regs)] = true ∧
    (∀ i < 32, local16.runs (opWord fLoc 0) i = true → i = 0) ∧
    LocalAt (opWord fLoc 0) g0 local16 LSize.b128.bytes 0 (localBase 0 + 16) ∧
    CleanBytes (held local16) (localBase 0 + 16) LSize.b128.bytes :=
  ⟨ready_of (by decide +kernel), by decide +kernel, by decide +kernel,
    ⟨by decide +kernel, by decide +kernel, by decide +kernel, by decide +kernel⟩, cleanBytes_of (by decide +kernel)⟩

/-- A lock word: free, held by this thread's group in lane 0, or in lane 1. -/
def lockWord (lane : Nat) : BitVec 64 := BitVec.ofNat 64 (2 ^ 63 + lane * 2 ^ 24)

/-- The device whose lock at byte 16 holds the word. -/
def locked (x : BitVec 64) : State := (held local16).writeWord ((localBase 0 + 16) / 8) x false

theorem witness_Locks : Ready (locked 0) g0 local16 ∧ Ready (locked (lockWord 1)) g0 local16 ∧
    LocalAt (opWord fLoc 0) g0 local16 8 0 (localBase 0 + 16) ∧ CleanWord (locked (lockWord 1)) ((localBase 0 + 16) / 8) ∧
    (∀ j < 32, local16.runs (opWord fLoc 0) j = true ↔ j = 0) ∧
    (let x := fun s => State.memWord s ((localBase 0 + 16) / 8)
     x (locked 0) = 0 ∧ x (locked (lockWord 0)) = lockWord 0 ∧ x (locked (lockWord 1)) = lockWord 1 ∧
     fld (lockWord 1) 24 5 = 1 ∧ fld (lockWord 1) 40 7 = 0 ∧ fld (lockWord 1) 32 4 = 0 ∧ (lockWord 1).getLsbD 63 = true) :=
  ⟨ready_of (by decide +kernel), ready_of (by decide +kernel),
    ⟨by decide +kernel, by decide +kernel, by decide +kernel, by decide +kernel⟩,
    ⟨by decide +kernel, by decide +kernel, by decide +kernel⟩, by decide +kernel, by decide +kernel⟩

/-! ### Matrix arrays, the stage chain, memory words -/

/-- A descriptor by the positions of its fields. -/
def desc (l : List (Nat × Nat)) : BitVec 256 := BitVec.ofNat 256 (l.foldl (fun a e => a + e.2 * 2 ^ e.1) 0)

/-- A tensor of 32 rows of 32 FP8 elements, an output of FP8 rows 128 apart, and a chain that stores. -/
def tensor : BitVec 256 := desc [(252, 1), (128, 3), (80, 32), (64, 32), (48, 32)]
def output : BitVec 256 := desc [(252, 2), (32, 128), (24, 3)]
def chain : BitVec 256 := desc [(252, 3), (224, 1)]

def mxGroup : Group := { grp with d := [(0, tensor), (1, output), (2, chain)] }

/-- The tags of array 0, half 0. -/
def tags : SMap WTag := [(0, ⟨3, 32⟩), (1, ⟨3, 32⟩), (2, ⟨3, 32⟩), (3, ⟨3, 32⟩)]

/-- A device whose core 0 has tags, tokens and operations. -/
def mx (toks : SMap Token) (ops : List MxOp) (awake : BitVec 4) : State :=
  let s := held mxGroup
  s.setCore 0 { s.core 0 with wTags := tags, tokens := toks, ops := ops, awake := awake }

/-- AMASK 1, TOK 31 or 5, D0 to D2. -/
def fMx (tok d0 d1 d2 : Nat) : BitVec 48 := fields [(43, tok), (33, 1), (21, d0), (25, d1), (29, d2), (37, 4)]

/-- TOK 31 takes token 0, and TOK 23 token 23; the three operations and CH.RUN pass their checks. -/
theorem witness_OperationsIssue_runs : Ready (mx [] [] 1) g0 mxGroup ∧ mxGroup.active = 0xFFFFFFFF ∧
    TakesToken (mx [] [] 1) 0 (opWord (fMx 31 0 1 2) 0) 0 ∧ TakesToken (mx [] [] 1) 0 (opWord (fMx 23 0 1 2) 0) 23 ∧
    (let w := opWord (fMx 31 0 1 2) 0
     let c := opWord (fMx 31 2 0 1) 0
     let e := opWord (fMx 31 1 0 2) 0
     fAmask w ≠ 0 ∧ wldFault w tensor = none ∧ tensorMisaligned tensor = false ∧
     mmaFault w tensor (((mx [] [] 1).core 0).tagsRead w) ((mx [] [] 1).heritage 0) = none ∧
     drnFault e (mxGroup.dGet (fD0 e)) (mxGroup.dGet (fD1 e)) = none ∧ drnMisaligned output tensor = false ∧
     chainFault (mxGroup.dGet (fD0 c)) (mxGroup.dGet (fD1 c)) (mxGroup.dGet (fD2 c)) (mxGroup.dGet (fld c 48 4))
       (mxGroup.dGet (fld c 52 4)) = none ∧
     chainMisaligned chain tensor output (mxGroup.dGet (fld c 48 4)) (mxGroup.dGet (fld c 52 4)) = false) :=
  ⟨ready_of (by decide +kernel), rfl,
    ⟨by decide +kernel, by decide +kernel, .inr (by decide +kernel)⟩,
    ⟨by decide +kernel, by decide +kernel, .inl (by decide +kernel)⟩, by decide +kernel⟩

/-- Token 5 in use; all 24 in use; no array named; one thread. -/
theorem witness_OperationsIssue_stops :
    (let all : SMap Token := (List.range 24).map fun k => (k, ⟨false, 0, 0, 0⟩)
     Ready (mx all [] 1) g0 mxGroup ∧ (∀ k < 24, ((mx all [] 1).core 0).token? k ≠ none) ∧
     ((mx [(5, ⟨false, 0, 0, 0⟩)] [] 1).core 0).token? 5 ≠ none ∧ fTok (opWord (fMx 5 0 1 2) 0) = 5 ∧
     fTok (opWord (fMx 31 0 1 2) 0) = 31) ∧
    fAmask (opWord 0 0) = 0 ∧ Ready (held one) g0 one ∧ one.active ≠ 0xFFFFFFFF :=
  ⟨⟨ready_of (by decide +kernel), by decide +kernel⟩, by decide +kernel, ready_one, by decide +kernel⟩

/-- An operation of token `tok`. -/
def mop (kind : OpKind) (tok : Nat) (started : Bool) (result : Option OpResult) : MxOp :=
  { kind := kind, tok := tok, owner := 0, word := opWord (fMx tok (match kind with | .drn => 1 | .chRun => 2 | _ => 0) 0 1) 0
    d0 := (match kind with | .drn => output | .chRun => chain | _ => tensor), d1 := tensor, d2 := output, d3 := 0, d4 := 0
    uarg := 0, wfmt := 3, started := started, result := result, olds := [] }

/-- Each kind of operation alone, or behind one that has started, or has not. -/
theorem witness_OperationsStart :
    (mx [] [mop .wld 0 true none, mop .wld 1 false none] 1).queued 0 1 .wld = some (mop .wld 1 false none, [mop .wld 0 true none]) ∧
    (mx [] [mop .wld 0 false none, mop .mma 1 false none] 1).queued 0 1 .mma = some (mop .mma 1 false none, [mop .wld 0 false none]) ∧
    (mop .wld 0 false none).sharesHalf (mop .mma 1 false none) = true ∧
    ((mx [] [mop .mma 1 false none] 1).core 0).allAwake (mop .mma 1 false none) = true ∧
    ((mx [] [mop .mma 1 false none] 0).core 0).allAwake (mop .mma 1 false none) = false ∧
    (mx [] [mop .drn 1 false none] 1).queued 0 1 .drn = some (mop .drn 1 false none, []) ∧
    (mx [] [mop .mma 0 true none, mop .drn 1 false none] 1).queued 0 1 .drn = some (mop .drn 1 false none, [mop .mma 0 true none]) ∧
    (mop .mma 0 true none).sharesRows (mop .drn 1 false none) = true := by decide +kernel

/-- Each kind of operation, running, of which the first two have their result. -/
theorem witness_OperationsEnd :
    (let r : OpResult := ⟨false, 0, 0⟩
     let s := mx [(0, ⟨false, 0, 0, 0⟩)] [mop .wld 0 true (some r)] 1
     let t := mx [(0, ⟨false, 0, 0, 0⟩)] [mop .mma 0 true (some r)] 1
     s.running 0 0 .wld = some (mop .wld 0 true (some r)) ∧ t.running 0 0 .mma = some (mop .mma 0 true (some r)) ∧
     (∀ q ∈ (t.core 0).earlier 0, q.kind ≠ .mma) ∧
     (((t.runOp 0 (mop .mma 0 true (some r))).core 0).op? 0).bind (·.result) = some r ∧
     ((((s.runOps 0 []).runOp 0 (mop .wld 0 true (some r))).core 0).op? 0).bind (·.result) = some r ∧
     (mx [] [mop .drn 0 true none] 1).running 0 0 .drn = some (mop .drn 0 true none) ∧
     (mx [] [mop .chRun 0 true none] 1).running 0 0 .chRun = some (mop .chRun 0 true none)) ∧
    (∀ e ∈ ((mx [] [] 1).core 0).groups, e.2.hold = .none) := by decide +kernel

/-- TOK 5 and 24; a token FREE, of another group, BUSY, DONE, DONE with POISONED. -/
theorem witness_TokenWaits : Ready (mx [] [] 1) g0 mxGroup ∧ fTok (opWord (fMx 5 0 0 0) 0) < 24 ∧ 24 ≤ fTok (opWord (fMx 24 0 0 0) 0) ∧
    ((mx [] [] 1).core 0).token? 5 = none ∧
    ((mx [(5, ⟨true, 1, 0, 0⟩)] [] 1).core 0).token? 5 = some ⟨true, 1, 0, 0⟩ ∧ g0.slot = 0 ∧
    Ready (mx [(5, ⟨true, 0, Status.poisoned, 0⟩)] [] 1) g0 mxGroup ∧
    ((mx [(5, ⟨true, 0, Status.poisoned, 0⟩)] [] 1).core 0).token? 5 = some ⟨true, 0, Status.poisoned, 0⟩ ∧
    (Status.ok : Status) ≠ Status.poisoned :=
  ⟨ready_of (by decide +kernel), by decide +kernel, by decide +kernel, by decide +kernel,
    by decide +kernel, rfl, ready_of (by decide +kernel), by decide +kernel⟩

/-- Array 0 gated and asked for; awake and asked for; awake and not asked for. -/
theorem witness_ArrayPower :
    (let asked := [mop .mma 1 false none]
     ((mx [] asked 0).core 0).wakeAsked 0 = true ∧ ((mx [] asked 0).core 0).awake.getLsbD 0 = false ∧
     ((mx [] asked 1).core 0).awake.getLsbD 0 = true ∧
     ((mx [] [] 1).core 0).awake.getLsbD 0 = true ∧ ((mx [] [] 1).core 0).wakeAsked 0 = false) := by decide +kernel

/-- A word as written, and one with two errors and with three. -/
def erred (n : Nat) : BitVec 80 := (List.range n).foldl flipPosition (codeWord 5 false)

/-- HBM whose word 0 holds a code word. -/
def holds (x : BitVec 80) : State := on.updWord 0 fun _ => x

theorem witness_MemoryWords : (holds (erred 2)).racyAt 0 = none ∧ (holds (erred 2)).readFails 0 = false ∧
    checkWord ((holds (erred 2)).rawWord 0) = .corrected (codeWord 5 false) 0 1 ∧
    checkWord ((holds (erred 3)).rawWord 0) = .uncorrectable ∧
    CleanBytes on 5 16 ∧ on.hbmReadFails = [] ∧ CleanBytes on (hbmEnd - 8) 8 :=
  ⟨by decide +kernel, by decide +kernel, by decide +kernel, by decide +kernel, cleanBytes_of (by decide +kernel), rfl,
    cleanBytes_of (by decide +kernel)⟩

/-! ### Remote instructions and requests -/

/-- The device with entries of the dictionary set. -/
def setOd (s : State) (l : List (Nat × Nat)) : State := { s with od := l.foldl (fun m e => SMap.set (odDefault e.1) m e.1 e.2) s.od }

/-- A region entry for the first mebibyte: every permission, remote accesses, user level, key 7. -/
def region : BitVec 128 := BitVec.ofNat 128 (0x3F + 2 * 2 ^ 32 + 255 * 2 ^ 68 + 7 * 2 ^ 96)

/-- The device with that entry. -/
def net : State := { on with fab := { on.fab with regions := [(0, region)] } }

/-- One active thread whose v4 and v5 hold a global address at (x, 0). -/
def remote (local_ x : Nat) : Group :=
  { one with v := [(4, BitVec.ofNat 32 local_), (5, BitVec.ofNat 32 (256 * x))], u := [(1, 7)] }

/-- VD = v8, VA = v4, VB = v12, the key in u1. -/
def fRem : BitVec 48 := fields [(21, 8), (29, 4), (37, 12), (58, 1)]

/-- Traffic passes the port that the route names. -/
def passesBy (s : State) (o : Option Route) : Bool :=
  match o with
  | some r => (s.port r.port).state.carries && !s.fenced r.port && !s.listedMissing r.port
  | none => false

theorem opens_of {s : State} {o : Option Route} (h : passesBy s o = true) : ∃ r, o = some r ∧ s.opens r.port := by
  cases o with
  | none => cases h
  | some r =>
    simp only [passesBy, Bool.and_eq_true, Bool.not_eq_true'] at h
    exact ⟨r, rfl, h.1.1, h.1.2, h.2⟩

theorem remoteOk_of {s : State} {g : GroupRef} {f : RemoteForm} {w : BitVec 64} {gr : Group}
    (h : (∀ i < 32, gr.runs w i = true → (remoteAddr f w gr i).toNat % f.n = 0 ∧ s.remoteKeyFail g.core f w gr i = none) ∧
      s.storeWaits g f w gr (gr.execLanes w) = false ∧ s.disp.woken = []) : RemoteOk s g f w gr := ⟨h.1, h.2.1, h.2.2⟩

/-- One lane names line 0x1000 of (1, 0); with no active lane nothing is sent. -/
theorem witness_RemoteRequests : Ready (held (remote 0x1000 1)) g0 (remote 0x1000 1) ∧
    (held (remote 0x1000 1)).holding g0 = false ∧ (held (remote 0x1000 1)).fab.lineCache = [] ∧
    regsOk ((held (remote 0x1000 1)).vregs 0) [(fVA (opWord fRem 0), 2), (fVB (opWord fRem 0), 4), (fVD (opWord fRem 0), 2)] = true ∧
    RemoteOk (held (remote 0x1000 1)) g0 ⟨0x04, 8, false⟩ (opWord fRem 0) (remote 0x1000 1) ∧
    RemoteOk (held (remote 0x1000 1)) g0 ⟨0x13, 4, false⟩ (opWord fRem 0) (remote 0x1000 1) ∧
    (held (remote 0x1000 1)).trackerRoom g0 1 = true ∧
    Elsewhere (held (remote 0x1000 1)) ⟨0x04, 8, false⟩ (opWord fRem 0) (remote 0x1000 1) ∧
    (remote 0x1000 1).execLanes (opWord fRem 0) = [0] ∧ (remote 0x1000 1).execLanes (opWord (fields [(20, 1)]) 0) = [] := by
  refine ⟨ready_of (by decide +kernel), by decide +kernel, by decide +kernel, by decide +kernel, remoteOk_of (by decide +kernel),
    remoteOk_of (by decide +kernel), by decide +kernel, fun i hi h => ?_, by decide +kernel⟩
  have : ∀ i < 32, (remote 0x1000 1).runs (opWord fRem 0) i = true → i = 0 := by decide +kernel
  cases this i hi h
  exact ⟨by decide +kernel, opens_of (by decide +kernel)⟩

/-- An arrival-order add needs its class in the LAUNCH. -/
theorem witness_RemoteRequests_add :
    (let c : Cmd := { serial := 1, ring := 0, pos := 0, opcode := 1, flags := 0, job := 5, cmdId := 0, tag := 0, args := 0, bad := false
                      phase := .started, startAt := 0, seed := 0, step := 0, heritage := false, p8 := 0, p16 := 0, arrival := 1 }
     let s : State := { held (remote 0x1000 1) with disp := { on.disp with cmds := [c], launches := [launch64] } }
     let t := s.setCore 0 { s.core 0 with launch := some 1 }
     Ready t g0 (remote 0x1000 1) ∧ RemoteOk t g0 ⟨0x10, 16, false⟩ (opWord fRem 0) (remote 0x1000 1)) :=
  ⟨ready_of (by decide +kernel), remoteOk_of (by decide +kernel)⟩

/-- A misaligned address, one with bits above 52, one outside the plan, and one that no route reaches. -/
theorem witness_RemoteChecksAndFence :
    (let a := fun (g : Group) => remoteAddr ⟨0x04, 8, false⟩ (opWord fRem 0) g 0
     let cut := setOd (held (remote 0x1000 1)) [(Od.meshAllowDetour, 1), (Od.meshMissingCount, 1)]
     (∀ j < 32, (remote 0x1001 1).runs (opWord fRem 0) j = true ↔ j = 0) ∧
     (a (remote 0x1001 1)).toNat % 8 ≠ 0 ∧ (a (remote 0x1000 0x1000)).extractLsb' 52 12 ≠ 0 ∧
     addrPlace (a (remote 0x1000 2)) = ⟨2, 0⟩ ∧ on.place = ⟨0, 0⟩ ∧ on.inPlan ⟨2, 0⟩ = false ∧ on.inPlan ⟨1, 0⟩ = true ∧
     regionOf (addrLocal (a (remote 0x1000 1))) ≠ .unmapped ∧ cut.route cut.place (cut.subst ⟨1, 0⟩) = none ∧
     cut.issuer g0 = some (remote 0x1000 1) ∧ cut.groupPosting g0 = false ∧
     (let posting : State := { cut with fab := { cut.fab with tracker := [
        { tag := 0, seq := 0, dst := 1, port := 0, op := 0x11, addr := 0x1000, size := 4, deadline := 9000000
          owner := .posted 0 0 0, left := [], reach := [], stale := false }] } }
      posting.groupPosting g0 = true)) ∧
    Ready (setOd (held (remote 0x1000 1)) [(Od.meshAllowDetour, 1), (Od.meshMissingCount, 1)]) g0 (remote 0x1000 1) :=
  ⟨by decide +kernel, ready_of (by decide +kernel)⟩

/-- A group that waits for the response of an AT.SWP of lane 0, and the transaction. -/
def waits : Group := { remote 0x1000 1 with hold := .response (opWord fRem 0x8002) }
def swapTx : Tx :=
  { tag := 3, seq := 0, dst := 1, port := 0, op := 0x04, addr := 0x1000, size := 8, deadline := 9000000, owner := .held 0 0 [(0, 0)], left := [], reach := [], stale := false }
def swapping : State := { held waits with fab := { on.fab with tracker := [swapTx] } }
def swapped : Packet := { pkt with op := 0x84, payload := List.replicate 8 1 }
/-- The state with the response taken from the port. -/
def answered : State := (swapping.takeRx 0 swapped).getD swapping

theorem witness_TransactionsEnd : swapped.op.getLsbD 7 = true ∧ swapped.op ≠ 0xB0 ∧ swapping.rxPort swapped = 0 ∧
    swapping.takeRx 0 swapped = some answered ∧ answered.fencedPlace swapped.src = false ∧ swapped.dst = answered.self ∧
    answered.answers? swapped = some swapTx ∧ answered.answers? { swapped with tag := 4 } = none ∧
    answered.group? g0 = some waits ∧ waits.resp = [] ∧ answered.stopDue 0 = false ∧
    (∀ q ∈ answered.fab.tracker, q.tag ≠ swapTx.tag → Tx.ofGroup q g0 = false) ∧
    swapping.tx? 3 = some swapTx ∧ swapping.tx? 4 = none := by decide +kernel

/-- A request of another device as R262 shapes it. -/
def req (op : BitVec 8) (n : Nat) : Req :=
  { op := op, addr := 0x1000, len := n, key := 7, job := 5, tc := 0, priv := 2, master := 0, src := 1, inport := some 0, payload := [], pmask := 0 }

/-- What Accepted asks, as a test. -/
def accepts (s : State) (r : Req) (n : Nat) : Bool :=
  match reqShape r.op r.len with
  | none => false
  | some (m, acc, align, plen) =>
    decide (m = n ∧ plen = r.payload.length ∧ r.addr % align = 0 ∧
      s.keyCheck r.addr n r.key acc r.priv.toNat r.inport.isSome = none ∧ s.mapped (s.jobSide r.job) r.addr n = true ∧
      (0 < n ∧ n ≤ 256) ∧ r.addr / 256 = (r.addr + n - 1) / 256 ∧ r.priv ≠ 3 ∧ s.channelClosed r.addr = false ∧
      regionOf r.addr ≠ .window ∧ (opIsAdd r.op = true → (s.addMask r).testBit r.tc.toNat = true) ∧ s.hbmReadFails = [] ∧
      (s.region? r.addr n).any regCoherent = false ∧ clean s r.addr n = true)

theorem accepted_of {s : State} {r : Req} {n : Nat} (h : accepts s r n = true) : Accepted s r n := by
  unfold accepts at h
  split at h
  · cases h
  · rename_i m acc align plen e
    obtain ⟨rfl, rfl, al, key, mapped, size, granule, level, channel, memory, adds, reads, plain, words⟩ := of_decide_eq_true h
    exact ⟨⟨acc, align, e, al, key⟩, mapped, size, granule, level, channel, memory, adds,
      fun x hx => by simpa [hx] using plain, cleanBytes_of words, reads⟩

/-- A READ, a SWAP and an FP32 maximum; an add needs its traffic class in its job. -/
theorem witness_TargetEffects : Accepted net (req 0x01 256) 256 ∧
    Accepted net { req 0x04 8 with payload := List.replicate 8 1 } 8 ∧
    Accepted net { req 0x13 4 with payload := List.replicate 4 1 } 4 ∧
    Accepted (setOd net [(Od.numSlotJob 0, 5), (Od.arrivalClassMask 0, 1)])
      { req 0x11 4 with payload := List.replicate 4 1 } 4 :=
  ⟨accepted_of (by decide +kernel), accepted_of (by decide +kernel), accepted_of (by decide +kernel),
    accepted_of (by decide +kernel)⟩

theorem witness_RequestPackets : net.takeRx 0 pkt = some ((net.takeRx 0 pkt).getD net) ∧
    (let s1 := (net.takeRx 0 pkt).getD net
     s1.fencedPlace pkt.src = false ∧ pkt.dst = s1.self ∧ pkt.wpValid = false ∧ pkt.src ≠ s1.self ∧ pkt.status = Status.ok ∧
     (s1.serveReq (packetReq pkt (some 0))).2.1 = none ∧ (s1.serveReq (packetReq pkt (some 0))).2.2.self = s1.self ∧
     ((s1.route s1.place (Place.ofCoord pkt.src)).map fun r => (s1.port r.port).state.carries) = some true) := by decide +kernel

/-- An OP that is none; a hole; a range without an entry; another key; a level too low. -/
theorem witness_RequestsNotPerformed : reqShape 0x06 8 = none ∧ reqShape 0x01 8 = some (8, .read, 1, 0) ∧
    net.mapped (net.jobSide 5) 0xBFFFFFFFFC 8 = false ∧ net.mapped (net.jobSide 5) 0x1000 8 = true ∧
    net.keyCheck 0x1000 8 7 .read 2 true = none ∧ net.keyCheck 0x1000 8 8 .read 2 true = some (Status.keyMismatch, 0x03) ∧
    net.region? 0x1000 8 = some region ∧ net.region? 0x100000 8 = none ∧ regKey region = 7 ∧ regLevel region < 3 := by
  decide +kernel

def invalidated : State := { on with fab := { on.fab with invWaits := [⟨[(0x20, 1)], none⟩] } }
/-- An INVALIDATE that comes in and an INV_ACK that an operation waits for; a packet that goes on to (1, 0), and a fenced one. -/
theorem witness_CoherencePackets :
    (let p := fun (op : BitVec 8) => { pkt with op := op }
     let s1 := fun (s : State) pk => (s.takeRx 0 pk).getD s
     on.takeRx 0 (p 0x30) = some (s1 on (p 0x30)) ∧ (s1 on (p 0x30)).fencedPlace 1 = false ∧ (s1 on (p 0x30)).self = 0 ∧
     invalidated.takeRx 0 (p 0xB0) = some (s1 invalidated (p 0xB0)) ∧
     (s1 invalidated (p 0xB0)).fab.invWaits = [⟨[(pkt.addr.toNat / 128, 1)], none⟩] ∧
     (let fenced := setOd on [(Od.fencedCoord 0, 1)]
      (s1 fenced (p 0x01)).fencedPlace pkt.src = true ∧ (fenced.takeRx 0 (p 0x01)).isSome = true) ∧
     ({ pkt with dst := 1 } : Packet).dst ≠ (s1 on { pkt with dst := 1 }).self) := by decide +kernel

/-! ### The dispatcher, LAUNCH and COPY -/

theorem packet_of {s t : State} {p : Nat} {pk : Packet} (h : s.log.roomy = true ∧ s.takeRx p pk = some t ∧
    t.fencedPlace pk.src = false ∧ pk.dst = t.self ∧ pk.wpValid = false) : PacketHere s p pk t :=
  ⟨h.1, h.2.1, h.2.2.1, h.2.2.2.1, h.2.2.2.2⟩

/-- A command of ring 0 and job 5, its ARGS by the positions in the 64 bytes. -/
def command (serial : Nat) (op : BitVec 16) (args : List (Nat × Nat)) : Cmd :=
  { serial := serial, ring := 0, pos := 0, opcode := op, flags := 0, job := 5, cmdId := BitVec.ofNat 32 serial, tag := 0
    args := BitVec.ofNat 320 (args.foldl (fun a e => a + e.2 * 2 ^ (e.1 - 192)) 0), bad := false, phase := .taken, startAt := 0
    seed := 0, step := 0, heritage := false, p8 := 0, p16 := 0, arrival := 0 }

/-- Ring 0 of job 5 at 0x2000 with 16 entries, and completion ring 0 at 0x3000; job 5 is in slot 0. -/
def ringed : State := setOd net [(Od.numSlotJob 0, 5), (Od.ringEnable 0, 1), (Od.ringState 0, 1), (Od.ringBase 0, 0x2000), (Od.ringEntries 0, 16),
  (Od.ringCtrl 0, 0x2800), (Od.ringJob 0, 5), (Od.cqEnable 0, 1), (Od.cqBase 0, 0x3000), (Od.cqEntries 0, 16), (Od.cqCtrl 0, 0x3800)]

/-- The device with commands taken from that ring. -/
def taking (l : List Cmd) : State := { ringed with disp := { ringed.disp with cmds := l } }

theorem flit_of {s : State} {fl : CollFlit} (h : s.log.roomy = true ∧ s.fabricOn = true ∧ s.fencedPlace fl.src = false ∧
    fl.dest = s.self) : FlitHere s fl := ⟨h.1, h.2.1, h.2.2.1, h.2.2.2⟩

theorem due {s : State} {n : Nat} {op : BitVec 16} {c : Cmd} (h : s.log.roomy = true ∧ s.cmd? n = some c ∧ c.opcode = op ∧
    s.checkable c = true) : DueCmd s n op c := ⟨h.1, h.2.1, h.2.2.1, h.2.2.2⟩

theorem witness_RingService : (∀ r < 64, ringed.odGet (Od.ringPriority r) < 4) ∧
    (let s : State := { ringed with disp := { ringed.disp with rings := [(0, ⟨15, 0⟩)] } }
     s.nextRing = some 0 ∧ SMap.get 63 s.disp.served (s.odGet (Od.ringPriority 0)) < 64 ∧ s.takeable 0 = true ∧
     CleanBytes s (s.odGet (Od.ringBase 0) + 64 * (s.ring 0).head) 64 ∧ s.hbmReadFails = []) ∧
    ringed.nextRing = none ∧ opcodeDefined 0x0040 = true ∧ opcodeDefined 0x0041 = false :=
  ⟨by decide +kernel, ⟨by decide +kernel, by decide +kernel, by decide +kernel, cleanBytes_of (by decide +kernel), rfl⟩, by decide +kernel⟩

/-- Room, in which a record may stand in the last place, and none. -/
theorem witness_CommitPoint : ringed.odGet (Od.ringState 0) ≠ 2 ∧ ringed.odGet (Od.ringCq 0) = 0 ∧ (ringed.cq 0).waiting = [] ∧
    ringed.cqRoom 0 = true ∧ ringed.dev.linkUp = true ∧ ringed.hbmReadFails = [] ∧
    CleanBytes ringed (0x3000 + 32 * (ringed.cq 0).tail) 32 ∧ CleanBytes ringed 0x3800 4 ∧
    (let full : State := { ringed with disp := { ringed.disp with cqs := [(0, { CqRing.initial with tail := 15 })] } }
     full.cqRoom 0 = false) ∧
    ({ ringed with disp := { ringed.disp with cqs := [(0, { CqRing.initial with tail := 14 })] } } : State).cqRoom 0 = true ∧
    ({ command 1 0 [] with flags := 2 } : Cmd).flags.getLsbD 1 = true :=
  ⟨by decide +kernel, by decide +kernel, by decide +kernel, by decide +kernel, rfl, rfl, cleanBytes_of (by decide +kernel),
    cleanBytes_of (by decide +kernel), by decide +kernel⟩

/-- A tail of 15 is valid behind head 0, one of 16 is not. -/
theorem witness_RingCommands : DueCmd (taking [command 1 0 []]) 1 0 (command 1 0 []) ∧ ringed.odGet (Od.ringEnable 0) = 1 ∧
    ringed.odGet (Od.ringState 0) = 1 ∧ tailValid (ringed.odGet (Od.ringEntries 0)) (ringed.ring 0).head (ringed.ring 0).tail 15 = true ∧
    tailValid (ringed.odGet (Od.ringEntries 0)) (ringed.ring 0).head (ringed.ring 0).tail 16 = false ∧ ringed.odGet (Od.cqEnable 0) = 1 :=
  ⟨due (by decide +kernel), by decide +kernel⟩

/-- Core 0, one group, entry 0x100, parameters at 0x200. -/
def launchCmd : Cmd := command 1 0x0001 [(192, 0x100), (240, 0x200), (352, 1), (360, 1)]
def waiting64 : Launch := { launch64 with started := false }

theorem witness_Launches : DueCmd (taking [launchCmd]) 1 0x0001 launchCmd ∧ (taking [launchCmd]).launchRefused launchCmd = false ∧
    (taking [command 1 1 []]).launchRefused (command 1 1 []) = true ∧ CleanBytes (taking [launchCmd]) launchCmd.paramAddr 256 ∧
    (let s : State := { taking [{ launchCmd with phase := .waiting }] with disp := { (taking [launchCmd]).disp with launches := [waiting64] } }
     s.launch? 1 = some waiting64 ∧ s.launchMay waiting64 = true ∧ waiting64.cores.Nodup ∧ s.launchMay launch64 = false ∧
     s.launchOver launch64 = true ∧ s.launchOver waiting64 = false ∧ (s.cmd? 1).isSome = true) :=
  ⟨due (by decide +kernel), by decide +kernel, by decide +kernel, cleanBytes_of (by decide +kernel), by decide +kernel⟩

/-- 64 bytes from 0x1000 to 0x1100, on any Lighter. -/
def copyCmd : Cmd := command 1 0x0002 [(192, 0x1000), (256, 0x1100), (320, 64), (424, 0xFF), (448, 7), (480, 7)]

/-- What each check finds: nothing; no write permission; a hole; another key; no route; a length of 4. -/
theorem witness_Copies_checks : DueCmd (taking [copyCmd]) 1 0x0002 copyCmd ∧
    (let denied := fun (s : State) c => (s.copyKeys c).any fun k => k.2.1 = Status.denied
     let mismatch := fun (s : State) c => (s.copyKeys c).any fun k => k.2.1 = Status.keyMismatch
     let missing := fun (s : State) (c : Cmd) => s.copyMissing (s.jobSide c.job) c.copySrc c.copyLen || s.copyMissing (s.jobSide c.job) c.copyDst c.copyLen
     let s := taking [copyCmd]
     let other := command 1 0x0002 [(192, 0x1000), (256, 0x1100), (320, 64), (424, 0xFF), (448, 8), (480, 7)]
     let hole := command 1 0x0002 [(192, 0x1000), (256, 0xFFFFFFFF00), (320, 64), (424, 0xFF), (448, 7), (480, 7)]
     let away := command 1 0x0002 [(192, 0x1000), (256, 2 ^ 40), (320, 64), (424, 0xFF), (448, 7), (480, 7)]
     let short := command 1 0x0002 [(192, 0x1000), (256, 0x1100), (320, 4), (424, 0xFF), (448, 7), (480, 7)]
     (denied s copyCmd = false ∧ missing s copyCmd = false ∧ mismatch s copyCmd = false ∧ s.copyCut copyCmd.copySrc = false ∧
       s.copyCut copyCmd.copyDst = false ∧ s.copyRefused copyCmd = false ∧ s.lighterLoad (s.pickLighter copyCmd) < 16) ∧
     denied { s with fab := { s.fab with regions := [(0, region &&& ~~~4)] } } copyCmd = true ∧
     (denied s hole = false ∧ missing s hole = true) ∧ (denied s other = false ∧ mismatch s other = true) ∧
     (setOd s [(Od.meshAllowDetour, 1), (Od.meshMissingCount, 1)]).copyCut away.copyDst = true ∧ s.copyRefused short = true) :=
  ⟨due (by decide +kernel), by decide +kernel⟩

def copyJob : CopyJob :=
  { cmd := 1, lighter := 0, src := 0x1000, dst := 0x1100, len := 256, srcKey := 7, dstKey := 7, tc := 0, running := false, issued := 0
    poisoned := 0, fail := none }
def copying (j : CopyJob) : State := { taking [copyCmd] with disp := { (taking [copyCmd]).disp with copies := [j] } }

/-- One piece of 256 bytes; then the copy done, and failed. -/
theorem witness_Copies_runs :
    (let s := copying copyJob
     s.disp.copies.filter (fun j => j.lighter = 0) = [copyJob] ∧ s.copy? 1 = some copyJob ∧ s.cmd? 1 = some copyCmd ∧ s.working = true ∧
     s.isOwn copyJob.src.toNat = true ∧ s.isOwn copyJob.dst.toNat = true ∧ 0 < copyJob.len ∧ copyJob.len % 8 = 0 ∧
     s.hbmReadFails = [] ∧
     (let src := globalLocal copyJob.src.toNat
      let dst := globalLocal copyJob.dst.toNat
      src % 8 = 0 ∧ dst % 8 = 0 ∧ src % 256 + copyJob.len ≤ 256 ∧ dst % 256 + copyJob.len ≤ 256 ∧
      copyJob.src.toNat % 256 = src % 256 ∧ src + copyJob.len ≤ dst ∧ s.channelClosed src = false ∧
      s.channelClosed dst = false)) ∧
    CleanBytes (copying copyJob) (globalLocal copyJob.src.toNat) copyJob.len ∧
    (let done : CopyJob := { copyJob with running := true, issued := 256 }
     (copying done).copy? 1 = some done ∧ (copying done).copyOut 1 = 0 ∧ done.poisoned = 0 ∧
     (copying done).linesAcked (globalLocal done.dst.toNat) done.len = true ∧
     ({ done with fail := some 0x07 } : CopyJob).fail = some 0x07) :=
  ⟨by decide +kernel, cleanBytes_of (by decide +kernel), by decide +kernel⟩

/-! ### Collectives, updates, snapshots, handoffs and pools -/

/-- A region entry for all of HBM. -/
def wide : BitVec 128 := BitVec.ofNat 128 (0x3F + 2 * 2 ^ 32 + 0xBFFFFFF * 2 ^ 68 + 7 * 2 ^ 96)

/-- Group 0 of job 5 is this device and its neighbour at (1, 0), which are its rectangle. -/
def coll (l : List Cmd) : State :=
  let s := taking l
  setOd { s with fab := { s.fab with regions := [(0, wide)] } }
    [(Od.grpJob 0, 5), (Od.grpNx 0, 2), (Od.grpNy 0, 1), (Od.rectJob 0, 5), (Od.rectX1 0, 1)]

/-- 16 MiB of FP32, dense, without ledger. -/
def bucketCmd : Cmd := command 1 0x0010 [(192, 0x1000000), (232, 0x2000000), (344, 9), (392, 0xFF), (448, 7)]

def bucket : Bucket :=
  { cmd := 1, slot := 0, group := 0, job := 5, id := 9, elems := 0x400000, wire := 0, spk := 0, sfmt := 0, dfmt := 0, ccw := 0
    tclass := 0, ledger := 0xFF, e0 := 0xFF, src := 0x1000000, dst := 0x2000000, res := 0, ready := [], rx := [], reduced := 0
    gathered := 0, nonfinite := false, poison := false, amax := 0, deadline := 2000000 }
def bucketing (b : Bucket) : State := { coll [bucketCmd] with disp := { (coll [bucketCmd]).disp with buckets := [b] } }

/-- A control flit of the neighbour. -/
def flit (value : BitVec 32) : CollFlit :=
  { job := 5, status := 0, value := value, noEpoch := false, context := 0, group := 0, dest := 0, src := 1 }

/-- The checks pass; a slot is free, or none; a BKT_READY for it, and for another bucket. -/
theorem witness_Buckets_starts : DueCmd (coll [bucketCmd]) 1 0x0010 bucketCmd ∧
    (let checks := fun (s : State) (c : Cmd) =>
        s.collChecks c c.bkGroup ((s.bkRanges c).map fun r => (r.1, r.2.1, c.bkKey, r.2.2)) (s.bkRefused c) false
     (checks (coll [bucketCmd]) bucketCmd).isNone = true ∧
     ((checks (coll [bucketCmd]) (command 1 0x0010 [(448, 8)])).map (·.1)) = some Status.keyMismatch ∧
     (coll [bucketCmd]).freeSlot = some 0 ∧
     ({ coll [bucketCmd] with disp := { (coll [bucketCmd]).disp with buckets := (List.range 8).map fun i => { bucket with slot := i } } } :
       State).freeSlot = none) ∧
    FlitHere (bucketing bucket) (flit 9) ∧ (bucketing bucket).bucket? 5 0 9 = some bucket ∧ (bucketing bucket).bucket? 5 0 8 = none :=
  ⟨due (by decide +kernel), by decide +kernel, flit_of (by decide +kernel), by decide +kernel⟩

/-- A gather packet of the successor's first chunk, taken and not taken. -/
def collPkt : Packet := { pkt with op := 0x40, tag := 0, addr := BitVec.ofNat 40 (9 * 256 + 8), payload := List.replicate 256 0 }
def collIn : State := ((bucketing bucket).takeRx 0 collPkt).getD on

theorem witness_Buckets_data : PacketHere (bucketing bucket) 0 collPkt collIn ∧ collPkt.op = 0x40 ∧
    collIn.bucket? collPkt.job (collPkt.addr.toNat / 16 % 16) (BitVec.ofNat 32 (collPkt.addr.toNat / 256)) = some bucket ∧
    collIn.bucketTakes bucket collPkt = true ∧ collIn.bucketTakes { bucket with gathered := 1 } collPkt = false :=
  ⟨packet_of (by decide +kernel), by decide +kernel⟩

theorem witness_Buckets_ends :
    (let b := { bucket with gathered := 0x400 }
     (bucketing b).bucketOf? 1 = some b ∧ ((bucketing b).cmd? 1).isSome = true ∧ b.gathered = b.chunks ∧ bucket.gathered ≠ bucket.chunks ∧
     (bucketing b).linesAcked b.dst (b.elems * elemBytes b.dfmt) = true ∧ (bucketing b).linesAcked b.res (4 * b.elems) = true) := by
  decide +kernel

/-- A barrier of the group in context 0: this device is the head of the chain; and with the device at (1, 0), its root. -/
def barCmd : Cmd := command 1 0x0011 []
def bar : BarrierRun :=
  { cmd := 1, group := 0, job := 5, value := 0, arrivedAt := 0, arrived := [], failed := false, sent := false, abortAt := none
    abortSeen := none, released := false }
def barring (x : Nat) (b : BarrierRun) : State := setOd { coll [barCmd] with barriers := [(0, b)] } [(Od.meshSelfX, x), (Od.barrierTimeout, 1)]

theorem witness_BarriersAndEpochs_starts : DueCmd (coll [barCmd]) 1 0x0011 barCmd ∧
    ((coll [barCmd]).collChecks barCmd 0 [] false false).isNone = true ∧
    (((barring 0 bar).collChecks barCmd 0 [] false true).map (·.1)) = some Status.busy ∧
    (coll [barCmd]).disp.arrivals = [] ∧ (coll [barCmd]).disp.barAborts = [] ∧ (coll [barCmd]).disp.barReleases = [] ∧
    ((coll [barCmd]).chainPlace 0).preds = [] ∧ (coll [barCmd]).fenced 0 = false ∧
    ((coll [barCmd]).chainPlace 0).succ = some 1 ∧
    (((coll [barCmd]).route (coll [barCmd]).place (Place.ofCoord 1)).map fun r => ((coll [barCmd]).port r.port).state.carries) = some true :=
  ⟨due (by decide +kernel), by decide +kernel⟩

/-- Flits that reach the head from its successor and the root from its predecessor; limits that have passed; a switch. -/
theorem witness_BarriersAndEpochs_ends :
    (let rootFlit : CollFlit := { flit 0 with dest := 1, src := 0 }
     FlitHere (barring 0 bar) (flit 0) ∧ FlitHere (barring 1 bar) rootFlit ∧ flitOfBarrier bar 0 (flit 0) = true ∧
     flitOfBarrier bar 0 rootFlit = true ∧ ((barring 0 bar).chainPlace 0).succ = some (flit 0).src ∧
     ((barring 1 bar).chainPlace 0).succ = none ∧ rootFlit.src ∈ ((barring 1 bar).chainPlace 0).preds ∧
     (∀ d ∈ ((barring 1 bar).chainPlace 0).preds, d = rootFlit.src ∨ d ∈ bar.arrived) ∧
     (barring 1 bar).barrier? 0 = some bar ∧ ((barring 1 bar).cmd? 1).isSome = true ∧
     bar.arrivedAt + 1000000 * (barring 1 bar).odGet Od.barrierTimeout ≤ (barring 1 bar).clk.now) ∧
    (bar.abortDue 1000 = false ∧ ({ bar with abortSeen := some 999 } : BarrierRun).abortDue 1000 = true ∧
      ({ bar with abortSeen := some 1000 } : BarrierRun).abortDue 1000 = false) ∧
    SMap.find? ({ coll [barCmd] with epochs := [(15, (1, 1, some 1))] } : State).epochs 15 = some (1, 1, some 1) :=
  ⟨⟨flit_of (by decide +kernel), flit_of (by decide +kernel), by decide +kernel⟩, by decide +kernel⟩

/-- A PERMUTE of one segment of one unit at each member; its table at 0x4000 exchanges them, or holds twice the same. -/
def permCmd : Cmd := command 1 0x0012 [(192, 0x10000), (232, 0x4000), (272, 1), (480, 7)]
def permuting (x : Nat) (word : Nat) : State := (setOd (coll [permCmd]) [(Od.meshSelfX, x)]).writeBytes 0x4000 (natBytes 4 1 ++ natBytes 4 word)

theorem witness_Permutes_starts :
    (let s := permuting 1 0
     let checks := s.collChecks permCmd permCmd.pmGroup [(permCmd.pmBase, permCmd.pmBytes, permCmd.pmKey, Access.read),
      (permCmd.pmBase, permCmd.pmBytes, permCmd.pmKey, Access.write), (permCmd.pmTable, 4 * s.pmCount permCmd, permCmd.pmKey, Access.read)]
      (s.pmRefused permCmd) false
     let table := fun (s : State) => (List.range 2).map fun i => bytesNat (s.memBytes (permCmd.pmTable + 4 * i) 4)
     DueCmd s 1 0x0012 permCmd ∧ checks.isNone = true ∧ s.pmCount permCmd = 2 ∧ permTable 2 1 (table s) = some [1, 0] ∧
     permTable 2 1 (table (permuting 1 1)) = none ∧ (s.chainPlace 0).preds ≠ [] ∧ s.disp.arrivals = [] ∧ s.disp.permutes = [] ∧
     s.hbmReadFails = []) ∧
    CleanBytes (permuting 1 0) permCmd.pmTable 8 ∧ (∀ x ∈ [1, 0], x < 2) ∧ [1, 0].Nodup ∧ [1, 0].getD 0 0 ≠ 0 :=
  ⟨⟨due (by decide +kernel), by decide +kernel⟩, cleanBytes_of (by decide +kernel), by decide +kernel⟩

def perm : PermuteRun :=
  { cmd := 1, group := 0, job := 5, id := 0, segs := 1, units := 1, table := [1, 0], base := 0x10000, exchange := none, stepsDone := 0
    rx := [], deadline := 2000000 }
def permRuns (p : PermuteRun) : State := { coll [permCmd] with disp := { (coll [permCmd]).disp with permutes := [p] } }
/-- The packet names the segment that this member takes in its step. -/
def permPkt : Packet := { pkt with op := 0x41, tag := 255, addr := 3, payload := List.replicate 256 0 }
def permIn : State := ((permRuns perm).takeRx 0 permPkt).getD on

theorem witness_Permutes_ends : PacketHere (permRuns perm) 0 permPkt permIn ∧ FlitHere (permRuns perm) (flit 0) ∧
    (permRuns perm).permute? 1 = some perm ∧
    (permRuns perm).bucketOf? 1 = none ∧ (∀ q ∈ (permRuns perm).disp.permutes, q = perm) ∧ permPkt.payload.length = 256 ∧
    (∃ x ∈ (permIn.permStepsOf perm).drop perm.stepsDone, x.takes = true ∧ x.seg = permPkt.addr.toNat / 256 ∧
      x.chunk = 256 * permPkt.status.toNat + permPkt.detail.toNat) ∧
    (let done := { perm with stepsDone := ((permRuns perm).permStepsOf perm).length }
     (permRuns done).linesAcked done.base permCmd.pmBytes = true ∧ done.stepsDone = ((permRuns done).permStepsOf done).length) ∧
    (flit 0).value = perm.id :=
  ⟨packet_of (by decide +kernel), flit_of (by decide +kernel), by decide +kernel⟩

/-- An UPDATE_STEP of one entry: 32 FP32 gradients for 32 weights, all keys 7. -/
def updCmd : Cmd := command 1 0x0020 [(360, 0x4000), (432, 1), (480, 7)]
def updEntry : Nat := 7 * 2 ^ 152 + 0x10000 * 2 ^ 184 + 0x11000 * 2 ^ 224 + 0x12000 * 2 ^ 264 + 0x13000 * 2 ^ 304 + 32 * 2 ^ 384
def updating (flag : Nat) : State := setOd ((coll [updCmd]).writeBytes 0x4000 (natBytes 64 updEntry)) [(Od.nfStepFlag 0, flag)]

/-- The check passes, on a device whose flag is set and one where it is not; it fails without a list. -/
theorem witness_UpdateSteps : DueCmd (updating 1) 1 0x0020 updCmd ∧ (updating 1).snapHolds 5 = false ∧
    (let passes := fun (s : State) (flag : Nat) => match s.updCheck updCmd with
      | .ok es u => decide (u.upCores updCmd es = []) && decide (u.jobSlot? 5 = some 0) && decide (u.odGet (Od.lossMode 0) = 0) &&
          decide (u.odGet (Od.nfStepFlag 0) = flag)
      | .fails _ _ => false
     passes (updating 1) 1 = true ∧ passes (updating 0) 0 = true) ∧
    (match (updating 0).updCheck (command 1 0x0020 []) with
      | .ok _ _ => false
      | .fails st _ => decide (st = Status.refused)) = true ∧
    (let r : UpdateRun := ⟨1, true, false, false, [], []⟩
     let s : State := { updating 0 with disp := { (updating 0).disp with updates := [r] } }
     s.update? 1 = some r ∧ s.updAcked = true ∧ s.jobSlot? updCmd.job = some 0 ∧ s.ledger? 0 = none) ∧
    (Val.isFinite (f32Val 0x7F800000)) = false ∧ (Val.isInf (f32Val 0x7F800000)) = true ∧
    Val.lt (f32Val 0x3F800000) .zero = false :=
  ⟨due (by decide +kernel), by decide +kernel⟩

/-- 256 bytes from 0x10000 into a partition of 1 GiB, with the stamp after them. -/
def snapCmd : Cmd :=
  command 1 0x0030 [(232, 0x10000), (272, hbmEnd - 2 ^ 30), (320, 256), (360, hbmEnd - 2 ^ 30 + 0x100), (416, 1), (448, 7), (480, 7)]
def snapRun : SnapRun :=
  { cmd := 1, ctx := 0, epoch := 1, src := 0x10000, dst := hbmEnd - 2 ^ 30, len := 256, stamp := hbmEnd - 2 ^ 30 + 0x100
    reached := some (5, 0), copying := false, poisoned := 0 }
def snapping (l : List SnapRun) : State :=
  let s := setOd (coll [snapCmd]) [(Od.evalActiveClusters, 1), (Od.evalHbmBase, hbmEnd - 2 ^ 30)]
  { s with disp := { s.disp with snaps := l } }

theorem witness_Snapshots : DueCmd (snapping []) 1 0x0030 snapCmd ∧
    (let checks := fun (s : State) (c : Cmd) => s.failChecks c (s.rangeChecks [(c.snSrc, c.snLen, c.snSrcKey, .read),
        (c.snDst, c.snLen, c.snDstKey, .write), (c.snStamp, 32, c.snDstKey, .write)])
      ([(c.snSrc, c.snLen), (c.snDst, c.snLen), (c.snStamp, 32)].any fun r => decide (0 < r.2) && !s.mapped .both r.1 r.2)
      (s.snRefused c) false
     (checks (snapping []) snapCmd).isNone = true ∧ ((checks (coll [snapCmd]) snapCmd).map (·.1)) = some Status.refused) ∧
    (snapping [snapRun]).snap? 1 = some snapRun ∧ ((snapping [snapRun]).cmd? 1).isSome = true ∧ (snapping [snapRun]).disp.updates = [] ∧
    CleanBytes (snapping [snapRun]) snapRun.src 256 ∧ snapRun.src ≠ snapRun.dst ∧ snapRun.dst % 256 = 0 ∧
    (snapping [{ snapRun with copying := true }]).linesAcked snapRun.dst snapRun.len = true ∧ snapRun.stamp % 32 = 0 ∧
    CleanBytes (snapping [{ snapRun with copying := true }]) snapRun.stamp 32 :=
  ⟨due (by decide +kernel), by decide +kernel, by decide +kernel, by decide +kernel, by decide +kernel, cleanBytes_of (by decide +kernel),
    by decide +kernel, by decide +kernel, by decide +kernel, by decide +kernel, cleanBytes_of (by decide +kernel)⟩

/-- Channel 0 of job 5 as a sender (role 0) or receiver (role 1) with the device at (1, 0): two chunks of 64 KiB. -/
def channelOf (role : Nat) (l : List Cmd) : State :=
  setOd (coll l) [(Od.hoJob 0, 5), (Od.hoRole 0, role), (Od.hoState 0, 1), (Od.hoPeerCoord 0, 1), (Od.hoChunkBytes 0, 0x10000),
    (Od.hoRingChunks 0, 2), (Od.hoRingAddr 0, if role = 0 then 2 ^ 40 else 0x40000), (Od.hoCtrlAddr 0, 0x5000),
    (Od.hoPeerCtrl 0, 2 ^ 40 + 0x6000), (Od.hoKeyref 0, 0)]
/-- A SEND and a RECV of 256 bytes with SEQ 3. -/
def sendCmd : Cmd := command 1 0x0040 [(192, 0x20000), (392, 256), (448, 3), (480, 7)]
def recvCmd : Cmd := command 1 0x0040 [(440, 1), (448, 3)]

/-- Line 1 of the sender with the SEQ posted; line 0 of the receiver with the whole micro-batch. -/
def posted (seq : Nat) : State := (channelOf 0 [sendCmd]).writeBytes (0x5000 + 128) (natBytes 8 2 ++ natBytes 4 0 ++ natBytes 4 seq)
def arrived : State :=
  (channelOf 1 [recvCmd]).writeBytes 0x5000 (natBytes 8 1 ++ natBytes 8 0 ++ natBytes 4 3 ++ natBytes 4 1 ++ natBytes 8 256)

theorem handoffOk_of {s : State} {c : Cmd} (h : (c.bad = false ∧ c.hoReserved = false ∧ c.hoSeq ≠ 0xFFFFFFFF) ∧
    (c.job ≠ 0 ∧ c.job.toNat = s.odGet (Od.hoJob c.hoChannel)) ∧ s.odGet (Od.hoRole c.hoChannel) = c.hoFunc ∧
    s.odGet (Od.hoState c.hoChannel) = 1 ∧ s.hoInvalid c.hoChannel (s.jobSide c.job) = false ∧
    s.hoLeaves c.hoChannel c.job = false ∧ (c.hoFunc = 0 → c.hoLen % 256 = 0 ∧ 256 ≤ c.hoLen ∧ c.hoSrc % 256 = 0 ∧
      s.inHbm (s.jobSide c.job) c.hoSrc c.hoLen = true ∧ s.mapped (s.jobSide c.job) c.hoSrc c.hoLen = true ∧
      s.rangeChecks [(c.hoSrc, c.hoLen, c.hoKey, .read)] = []) ∧ (s.channel c.hoChannel).active = none ∧
    ∀ q ∈ s.disp.cmds, q.opcode = 0x0040 → q.hoFunc < 2 → q.hoChannel = c.hoChannel →
      q.serial = c.serial ∨ q.phase = .started) : HandoffOk s c :=
  let ⟨fields, job, role, running, entry, inside, source, idle, alone⟩ := h
  { fields := fields, job := job, role := role, running := running, entry := entry, inside := inside, source := source
    idle := idle, alone := alone }

/-- A SEND that meets nothing posted, its own SEQ, and another. -/
theorem witness_Handoffs_send : DueCmd (posted 3) 1 0x0040 sendCmd ∧ sendCmd.hoFunc = 0 ∧ HandoffOk (posted 3) sendCmd ∧
    HandoffOk (posted 0xFFFFFFFF) sendCmd ∧ HandoffOk (posted 4) sendCmd ∧ CleanBytes (posted 3) (0x5000 + 128) 16 ∧
    (let p := fun (s : State) => BitVec.ofNat 32 (bytesNat (s.memBytes (s.hoCtrl 0 + 128 + 12) 4))
     p (posted 3) = sendCmd.hoSeq ∧ p (posted 0xFFFFFFFF) = 0xFFFFFFFF ∧ p (posted 4) ≠ sendCmd.hoSeq) ∧
    ((posted 3).channel 0).lastSent = none ∧ (posted 3).hbmReadFails = [] :=
  ⟨due (by decide +kernel), by decide +kernel, handoffOk_of (by decide +kernel), handoffOk_of (by decide +kernel),
    handoffOk_of (by decide +kernel), cleanBytes_of (by decide +kernel), by decide +kernel⟩

theorem reaches_of {s : State} {a : Nat} (h : (s.subst (Place.ofCoord (globalPlace a).coord)).coord ≠ s.self ∧
    passesBy s (s.route s.place (Place.ofCoord (s.subst (Place.ofCoord (globalPlace a).coord)).coord)) = true) :
    Reaches s a := ⟨h.1, opens_of h.2⟩

/-- A RECV that waits, and one whose micro-batch is there. -/
theorem witness_Handoffs_recv : DueCmd arrived 1 0x0040 recvCmd ∧ recvCmd.hoFunc = 1 ∧ HandoffOk arrived recvCmd ∧
    HandoffOk (channelOf 1 [recvCmd]) recvCmd ∧ CleanBytes arrived (arrived.hoCtrl 0) 32 ∧
    Reaches arrived (arrived.odGet (Od.hoPeerCtrl 0) + 128) ∧ arrived.wholeBatch 0 recvCmd.hoSeq ∧
    ¬(channelOf 1 [recvCmd]).wholeBatch 0 recvCmd.hoSeq ∧ (coll []).odGet (Od.hoJob 0) = 0 ∧ (arrived.channel 0).active = none ∧
    arrived.fab.tracker.length < 4096 :=
  ⟨due (by decide +kernel), by decide +kernel, handoffOk_of (by decide +kernel), handoffOk_of (by decide +kernel),
    cleanBytes_of (by decide +kernel), reaches_of (by decide +kernel), by unfold State.wholeBatch; decide +kernel,
    by unfold State.wholeBatch; decide +kernel, by decide +kernel⟩

/-- A SEND that has matched and holds credit for its one chunk, of which no byte has gone. -/
def sending : State := (posted 3).setChannel 0 { Channel.initial with active := some 1, matched := true, limit := 2, posted := 3 }

theorem witness_Handoffs_chunk : sending.cmd? 1 = some sendCmd ∧ (sending.channel 0).active = some 1 ∧ sending.working = true ∧
    (sending.channel 0).begun < sending.hoTotal 0 sendCmd ∧ (sending.channel 0).base + (sending.channel 0).begun < (sending.channel 0).limit ∧
    sending.hoFlight 0 sendCmd < 2 ∧ 0 < sending.hoChunkSize 0 ∧ CleanBytes sending sendCmd.hoSrc sendCmd.hoLen ∧ 0 < sending.hoRing 0 ∧
    sending.fab.tracker.length + sending.hoChunkSize 0 / 256 ≤ 4096 ∧
    (∀ a, 2 ^ 40 ≤ a → a < 2 ^ 40 + 0x10000 → Reaches sending a) ∧
    (sending.hoChunkSize 0 % 256 = 0 ∧ sendCmd.hoLen % 256 = 0 ∧ sendCmd.hoSrc % 256 = 0 ∧ (sending.channel 0).stop = none ∧
      (sending.channel 0).issued = (sending.channel 0).begun * sending.hoChunkSize 0) := by
  refine ⟨by decide +kernel, by decide +kernel, rfl, by decide +kernel, by decide +kernel, by decide +kernel, by decide +kernel,
    cleanBytes_of (by decide +kernel), by decide +kernel, by decide +kernel, fun a h k => ?_, by decide +kernel⟩
  have : globalPlace a = globalPlace (2 ^ 40) := by
    have q : a / 2 ^ 40 = 1 := by omega
    have p : a / 2 ^ 46 = 0 := by omega
    unfold globalPlace
    rw [q, p] <;> decide
  unfold Reaches
  rw [this]
  exact reaches_of (a := 2 ^ 40) (by decide +kernel)

/-- At the receiver CONSUMED goes on by one behind PRODUCED 1, or beyond it; at the sender LIMIT may be at most 2. -/
theorem witness_Handoffs_limit :
    (let s := arrived.setChannel 0 { Channel.initial with active := some 1 }
     s.working = true ∧ s.odGet (Od.hoState 0) = 1 ∧ (s.channel 0).active = some 1 ∧ (s.cmd? 1).isSome = true ∧ s.odGet (Od.hoRole 0) = 1 ∧
     bytesNat (s.memBytes (s.hoCtrl 0) 8) = 1 ∧ (s.channel 0).limit = 0) ∧
    CleanBytes (arrived.setChannel 0 { Channel.initial with active := some 1 }) (0x5000 + 128) 16 ∧
    (sending.channel 0).told + sending.hoRing 0 = 2 ∧ sending.odGet (Od.hoRole 0) = 0 ∧ sendCmd.hoFunc < 2 ∧ recvCmd.hoFunc < 2 :=
  ⟨by decide +kernel, cleanBytes_of (by decide +kernel), by decide +kernel⟩

/-- A pool of 128 KiB with one entry, of which the tag is 3. -/
def poolEntry : PoolEntry := { tag := 3, offset := 0, bytes := 0x10000, length := 256, pins := 0, filled := true }
def pooled (l : List Cmd) (e : PoolEntry) : State := (setOd (coll l) [(Od.poolBase 0, 0x100000), (Od.poolBytes 0, 0x20000)]).setPool 0 ⟨0x10000, [e]⟩
def poolGet (tag len : Nat) : Cmd := command 1 0x0040 [(440, 2), (232, 0x7000), (392, len), (448, tag), (480, 7)]

/-- GET: a hit; an entry of another length; not filled; a miss that fits beside the entry, and one for which it must go;
more than the pool holds. -/
theorem witness_Pools_get :
    (let s := pooled [poolGet 3 256] poolEntry
     let c := poolGet 3 256
     DueCmd s 1 0x0040 c ∧ s.jobSlot? c.job = some 0 ∧ c.hoFunc = 2 ∧ s.rangeChecks [(c.poolResult, 16, c.hoKey, .write)] = [] ∧
     s.mapped (s.jobSide c.job) c.poolResult 16 = true ∧ s.inHbm (s.jobSide c.job) c.poolResult 16 = true ∧ c.poolResult % 16 = 0 ∧
     c.bad = false ∧ c.hoReserved = false ∧ c.hoLen % 256 = 0 ∧ (s.pool 0).find? 3 = some poolEntry ∧ (s.pool 0).find? 4 = none ∧
     c.hoLen ≤ s.odGet (Od.poolBytes 0) ∧ s.odGet (Od.poolBytes 0) < (poolGet 3 0x20100).hoLen) ∧
    CleanBytes (pooled [poolGet 3 256] poolEntry) 0x7000 16 ∧
    Pool.fits [poolEntry] 0x10000 0x10000 = true ∧ (Pool.fits [poolEntry] 0 0x20000 = false ∧ Pool.fits [] 0 0x20000 = true) :=
  ⟨⟨due (by decide +kernel), by decide +kernel⟩, cleanBytes_of (by decide +kernel), by decide +kernel⟩

/-- PUT and DROP of an entry with a pin and without, and of none. -/
theorem witness_Pools_put_drop :
    (let put := command 1 0x0040 [(440, 3), (448, 3)]
     let drop := command 1 0x0040 [(440, 4), (448, 3)]
     let pinned := { poolEntry with pins := 1 }
     DueCmd (pooled [put] pinned) 1 0x0040 put ∧ DueCmd (pooled [drop] pinned) 1 0x0040 drop ∧ put.hoFunc = 3 ∧ drop.hoFunc = 4 ∧
     ((pooled [put] pinned).pool 0).find? 3 = some pinned ∧ ((pooled [put] poolEntry).pool 0).find? 3 = some poolEntry ∧
     put.bad = false ∧ put.hoReserved = false ∧ drop.hoReserved = false ∧ put.arg 432 1 = 0) :=
  ⟨due (by decide +kernel), due (by decide +kernel), by decide +kernel⟩

/-! ### The object dictionary, jobs, training, counters, power -/

theorem reached_of {s : State} {via : OdPath} {idx sub v : Nat} (h : s.log.roomy = true ∧ s.pathOpen via = true ∧
    s.writeDenied via idx sub v = false ∧ (odRange? idx).isSome = true ∧ (s.odRow? idx sub).isSome = true) : Reached s via idx sub v :=
  ⟨h.1, h.2.1, h.2.2.1, h.2.2.2.1, Option.isSome_iff_exists.mp h.2.2.2.2⟩

/-- What Admitted asks of the row beside Reached. -/
def admits (s : State) (idx sub v : Nat) : Bool :=
  match s.odRow? idx sub with
  | some r => s.accessOk r.access && r.ty.accepts v && r.check.accepts v
  | none => false

theorem admitted_of {s : State} {via : OdPath} {idx sub v : Nat} (h : s.log.roomy = true ∧ s.pathOpen via = true ∧
    s.writeDenied via idx sub v = false ∧ (odRange? idx).isSome = true) (k : admits s idx sub v = true) : Admitted s via idx sub v := by
  unfold admits at k
  cases e : s.odRow? idx sub with
  | none => rw [e] at k; cases k
  | some r =>
    rw [e] at k
    simp only [Bool.and_eq_true] at k
    refine ⟨⟨h.1, h.2.1, h.2.2.1, h.2.2.2, r, e⟩, fun q hq => ?_⟩
    cases e.symm.trans hq
    exact ⟨k.1.1, k.1.2, k.2⟩

theorem may {s : State} {via : OdPath} {idx sub v : Nat} (h : (s.log.roomy = true ∧ s.pathOpen via = true ∧
    s.writeDenied via idx sub v = false ∧ (odRange? idx).isSome = true) ∧ admits s idx sub v = true) : Admitted s via idx sub v := admitted_of h.1 h.2

/-- The host's path, and a client's. -/
def host : OdPath := .mailbox 0
def client : OdPath := .theost 0x0A 9

/-- The device in another state. -/
def inState (s : State) (d : DevState) : State := { s with dev := { s.dev with state := d } }

/-- The host is denied POWER_CAP, and in ALARMED everything; an index in no range; for DRAIN_TIMEOUT 100 ms fit, and 99 are
too short. -/
theorem witness_DictionaryWrites : on.pathOpen host = true ∧ host ≠ .direct ∧ on.writeDenied host 0x2000 0x01 1100 = true ∧
    on.pathOpen client = true ∧ (inState on .alarmed).writeDenied host 0x1003 0x01 5 = true ∧
    (inState on .alarmed).pathOpen host = true ∧ on.writeDenied host 0x0FFF 1 0 = false ∧ odRange? 0x0FFF = none ∧
    on.writeDenied client 0x1003 0x01 100 = false ∧
    (match on.odRow? 0x1003 0x01 with
      | none => false
      | some r => on.accessOk r.access && r.ty.accepts 100 && r.check.accepts 100 && !r.check.accepts 99 && decide (r.ty.size = 4)) = true := by
  decide +kernel

theorem witness_HostAccesses : CleanBytes on (hbmEnd - 8) 8 ∧ Reached on (.mailbox 7) 0x1001 0x01 0 ∧
    on.pathOpen (.mailbox 7) = true ∧ (on.mailbox 7).go = false ∧ on.waitingPaths.length < 32 ∧
    ((on.setMailbox 7 { Mailbox.initial with go := true }).mailbox 7).go = true ∧
    (let waits : State := { on with hm := { on.hm with jobOpenWait := List.replicate 32 (client, 1) } }
     32 ≤ waits.waitingPaths.length) ∧
    (match on.odReadStatus host 0x1001 0x01 with
      | (st, some r) => decide (st = Status.ok) && decide (r.ty ≠ .domain)
      | _ => false) = true ∧
    on.odReadStatus host 0x0FFF 1 = (Status.notFound, none) ∧
    on.hostReaches = true ∧ on.claims = true ∧ (inState on .boot).claims = false ∧ hbmEnd ≤ (0xC000000000 : BitVec 40).toNat ∧
    directIndex 0x400208 = (0x1001, 1) ∧
    (match on.odReadStatus .direct 0x1001 0x01 with
      | (st, some r) => decide (st = Status.ok) && r.ty.numeric
      | _ => false) = true ∧ on.odGet Od.debugLevel = 0 ∧ (setOd on [(Od.debugLevel, 2)]).odGet Od.debugLevel = 2 ∧
    (setOd on [(Od.debugLevel, 2)]).jtagReach 0x1000 = true ∧ on.coreMapped 0 = true ∧ (held grp).group? ⟨0, 0⟩ = some grp :=
  ⟨cleanBytes_of (by decide +kernel), reached_of (by decide +kernel), by decide +kernel⟩

/-- JOB_OPEN in a rectangle of this device and its neighbour: it may; no slot is free; the link is down; during a self-test. -/
theorem witness_Jobs_open :
    (let s := setOd on [(Od.rectJob 0, 5), (Od.rectX1 0, 1), (Od.numSlotJob 0, 7)]
     Reached s client 0x6001 0x01 5 ∧ s.disrupted = false ∧ s.writesRefused = false ∧ s.meshFails 5 = false ∧ s.jobOpen 5 = false ∧
     s.dev.state = .running ∧ s.slotOpen 1 = false ∧ (∀ k < 1, s.slotOpen k = true) ∧
     (setOd s ((List.range 16).map fun i => (Od.numSlotJob i, 8 + i))).meshFails 5 = false ∧
     (∀ i < 16, (setOd s ((List.range 16).map fun i => (Od.numSlotJob i, 8 + i))).slotOpen i = true) ∧
     ({ s with fab := { s.fab with ports := [] } } : State).meshFails 5 = true ∧
     ({ s with selftest := some ⟨0x10, 0, true, 0⟩ } : State).disrupted = true) :=
  ⟨reached_of (by decide +kernel), by decide +kernel⟩

/-- JOB_CLOSE of the only job, which has a ring, or none; DRAIN; the end of draining, and its limit. -/
theorem witness_Jobs_close : Reached ringed client 0x6001 0x02 5 ∧ Reached ringed client 0x1002 0x01 1 ∧
    ringed.dev.romFault = false ∧ ringed.writesRefused = false ∧ ringed.jobSlot? 5 = some 0 ∧
    ringed.jobSlot? 6 = none ∧ ringed.jobHasRing 5 = true ∧ (setOd ringed [(Od.ringEnable 0, 0)]).jobHasRing 5 = false ∧
    ringed.dev.state = .running ∧ (∀ k < 16, k ≠ 0 → ringed.slotOpen k = false) ∧ (inState ringed .draining).disp.cmds = [] :=
  ⟨reached_of (by decide +kernel), reached_of (by decide +kernel), by decide +kernel⟩

/-- The ring off, with its job open and its completion ring on, and a TAIL of 15 or 16 in its tail line. -/
def offRing (tail : Nat) : State := (setOd ringed [(Od.ringEnable 0, 0), (Od.ringState 0, 0)]).writeBytes 0x2800 (natBytes 4 tail)

theorem witness_RingWrites : Admitted (offRing 15) host 0x6100 0x01 1 ∧ Admitted ringed host 0x6100 0x01 0 ∧
    (offRing 15).jobOpen (BitVec.ofNat 16 ((offRing 15).odGet (Od.ringJob 0))) = true ∧
    (offRing 15).odGet (Od.cqEnable ((offRing 15).odGet (Od.ringCq 0))) ≠ 0 ∧ (offRing 15).odGet (Od.ringEnable 0) ≠ 1 ∧
    (offRing 15).odGet (Od.ringState 0) = 0 ∧ CleanBytes (offRing 15) 0x2800 4 ∧ bytesNat ((offRing 15).memBytes 0x2800 4) = 15 ∧
    (offRing 15).odGet (Od.ringEntries 0) = 16 ∧ bytesNat ((offRing 16).memBytes 0x2800 4) = 16 ∧ ringed.odGet (Od.ringEnable 0) ≠ 0 ∧
    Admitted on host 0x6200 0x01 1 ∧ on.odGet (Od.cqEnable 0) ≠ 1 ∧ (on.cq 0).waiting = [] ∧
    Admitted (taking [command 1 0 []]) host 0x6010 0x01 1 ∧
    (((taking [command 1 0 []]).disp.cmds.find? fun q => decide (q.ring = 0) && decide (q.cmdId = 1)).isSome = true) ∧
    Admitted on host 0x2640 0x01 5 ∧ Admitted on client 0x2602 0x01 (15 * 2 ^ 32 + 4) ∧ on.barrier? 15 = none ∧
    (({ on with barriers := [(15, bar)] } : State).barrier? 15).isSome = true ∧ SMap.find? on.epochs 15 = none ∧
    (let q : Cmd := { command 1 0x0011 [] with phase := .started }
     (taking [q]).disp.cmds.find? (fun q => decide (q.ring = 0) && decide (q.cmdId = 1)) = some q ∧
     (offRing 15).hbmReadFails = []) :=
  ⟨may (by decide +kernel), may (by decide +kernel), by decide +kernel,
    by decide +kernel, by decide +kernel, by decide +kernel, cleanBytes_of (by decide +kernel), by decide +kernel, by decide +kernel,
    by decide +kernel, by decide +kernel, may (by decide +kernel), by decide +kernel, by decide +kernel,
    may (by decide +kernel), by decide +kernel, may (by decide +kernel),
    may (by decide +kernel), by decide +kernel, by decide +kernel⟩

/-- An epoch to come and one that is not; slots open and closed; finite samples in and after warm-up; one ledger record. -/
theorem witness_TrainingWrites :
    Admitted on host 0x2780 0x02 1 ∧ Admitted on host 0x2780 0x04 1 ∧
    (0 < ((1 : BitVec 32) - on.epoch (on.odGet Od.ruleSwitchCtx)).toInt ∧
      ¬0 < ((0 : BitVec 32) - on.epoch (on.odGet Od.ruleSwitchCtx)).toInt ∧ on.odGet Od.ruleSwitchArmed ≠ 1) ∧
    (let s := setOd ringed [(Od.lossMode 0, 2), (Od.lossCount 0, 1), (Od.lossWarmup 0, 2), (Od.ledgerBase 0, 0x8000), (Od.ledgerCount 0, 1)]
     Admitted s host 0x2820 0x01 1 ∧ Admitted s host 0x2820 0x0C 0x3F800000 ∧ Admitted s host 0x2820 0x08 1 ∧
     Admitted s host 0x2820 0x08 2 ∧ Admitted s host 0x2820 0x08 0 ∧ CleanBytes s 0x8000 256 ∧ s.slotOpen 0 = true ∧
     on.slotOpen 0 = false ∧ s.odGet (Od.lossMode 0) = 2 ∧ 0 < s.odGet (Od.lossCount 0) ∧ s.odGet (Od.lossCount 0) < s.odGet (Od.lossWarmup 0) ∧
     (f32Val 0x3F800000).isFinite = true ∧ (f32Val 0x7F800000).isFinite = false ∧ on.odGet (Od.lossCount 0) = 0 ∧
     s.attachBad 0 = false ∧ on.attachBad 0 = true ∧ ¬(⟨0, []⟩ : LedgerRec).enabled = true ∧
     (⟨2 ^ 1161 + 2 ^ 1216, []⟩ : LedgerRec).enabled = true ∧ (⟨2 ^ 1161 + 2 ^ 1216, []⟩ : LedgerRec).untrusted 16 0 = true) ∧
    (let s := setOd (inState on .ready) [(Od.evalClusters, 3), (Od.evalHbmGib, 384), (Od.evalJob, 6)]
     Admitted s host 0x2180 0x04 1 ∧ s.dev.state = .ready ∧ bitCount 3 8 ≤ 2) :=
  ⟨may (by decide +kernel), may (by decide +kernel), by decide +kernel,
    ⟨may (by decide +kernel), may (by decide +kernel), may (by decide +kernel), may (by decide +kernel),
      may (by decide +kernel), cleanBytes_of (by decide +kernel), by decide +kernel⟩,
    may (by decide +kernel), by decide +kernel⟩

/-- A select word that counts and one that is none; a switch that waits; the Tally over a ring large enough, and too small. -/
theorem witness_CountersAndTally :
    Admitted on host 0x3100 0x0A (0xFFFF * 2 ^ 42 + 7 * 2 ^ 30) ∧ (setType? 0x3100).isSome = true ∧
    ((setType? 0x3100).map fun t => pselRefused t (0xFFFF * 2 ^ 42 + 7 * 2 ^ 30)) = some false ∧
    ((setType? 0x3100).map fun t => pselRefused t 0xFFFFFFFFFFFFFFFF) = some true ∧ Admitted on host 0x3100 0x12 0xFF01 ∧
    Admitted on host 0x3001 0x01 1 ∧ Admitted on host 0x3001 0x02 1 ∧ on.tally.countPending = none ∧
    Admitted on host 0x3000 0x01 1 ∧ Admitted on host 0x3000 0x01 0 ∧ on.odGet Od.tallyEnable ≠ 1 ∧ 0 < on.odGet Od.tallyPeriodNs ∧
    (setOd on [(Od.tallyRingRecords, 0)]).odGet Od.tallyRingRecords < on.tallyBlocks.length ∧
    on.tallyBlocks.length ≤ (setOd on [(Od.tallyRingRecords, 1024)]).odGet Od.tallyRingRecords ∧
    (let s := setOd on [(Od.tallyRingRecords, 1024), (Od.tallyEnable, 1)]
     s.odGet Od.tallyEnable = 1 ∧ s.tally.writing = none ∧ s.tallyRoom s.tallyBlocks.length = true ∧
     (setOd s [(Od.tallyRingRecords, 4)]).tallyRoom s.tallyBlocks.length = false) ∧
    (let latched : State := { setOd on [(Od.tallyEnable, 1), (Od.tallyNext, 1000000)] with
        tally := { on.tally with latch := some ⟨1000000, [[]], true⟩, writing := some (0, 60) } }
     latched.odGet Od.tallyNext ≤ latched.clk.now ∧ latched.tally.latch = some ⟨1000000, [[]], true⟩ ∧
     latched.tally.writing = some (0, 60) ∧ (setOd on [(Od.tallyNext, 1000001)]).odGet Od.tallyNext = on.clk.now + 1) :=
  ⟨may (by decide +kernel), by decide +kernel, by decide +kernel, by decide +kernel,
    may (by decide +kernel), may (by decide +kernel),
    may (by decide +kernel), rfl, may (by decide +kernel),
    may (by decide +kernel), by decide +kernel⟩

/-- A core whose four counters count the four classes of slots, with slots of it and of another core. -/
def slotted : State :=
  let s := setOd on ((List.range 4).map fun i => (Od.key 0x3100 (0x0A + i), 2 ^ 63 + 0xFFFF * 2 ^ 42 + 7 * 2 ^ 30 + 0x0301 + i))
  { s with tally := { s.tally with slots := [⟨0, 0x0301, 0⟩, ⟨1, 0x0301, 0⟩, ⟨0, 0x0302, 5⟩] } }

theorem witness_CountersAndTally_slots : Invariant slotted ∧ slotted.tally.frozen = false ∧ slotted.coreCounts 0 = true ∧
    (slotted.core 0).cycEnd = none ∧ (slotted.core 0).cycBase ≤ slotted.coreCycles ∧
    (∀ i < 4, slotted.odGet (Od.key (coreSet 0) (0x0A + i)) = 2 ^ 63 + 0xFFFF * 2 ^ 42 + 7 * 2 ^ 30 + (0x0301 + i)) :=
  ⟨⟨⟨⟨by decide +kernel, by decide +kernel⟩, by decide +kernel⟩,
    ⟨by decide +kernel, by decide +kernel, by decide +kernel, by decide +kernel⟩⟩, by decide +kernel⟩

/-- Powers and temperatures that are below and above the limits, the clock at 1,000 MHz. -/
theorem witness_PowerAndTime : Admitted on client 0x2000 0x01 1100 ∧
    (let s : State := { setOd on [(Od.coreClockMhz, 1000)] with gov := { on.gov with headroomAt := some 5 } }
     s.governs = true ∧ powerOk 0x42C80000 = true ∧ powerOk 0x7FC00000 = false ∧ s.coreMHz = 1000 ∧
     s.powerFits 0x3F800000 0x3F800000 s.coreMHz s.powerTarget = true ∧
     s.powerFits 0x3F800000 0x49742400 400 s.powerTarget = false ∧ s.headroom 0x3F800000 0x3F800000 s.coreMHz = true ∧
     s.cool = true ∧ (f32Val 0x41200000).isFinite = true ∧
     (FP.fp32.ieee (s.odGet Od.dieTempLimit)).le (f32Val 0x41200000) = false ∧
     (FP.fp32.ieee (s.odGet Od.dieTempLimit)).le (f32Val 0x44000000) = true ∧
     atTrip 0x44000000 0x41200000 = true ∧ atTrip 0x42C80000 0x41200000 = false ∧
     s.odGet Od.timebaseSource = 0 ∧ (setOd s [(Od.timebaseSource, 1)]).odGet Od.timebaseSource = 1) :=
  ⟨may (by decide +kernel), by decide +kernel⟩

/-! ### Self-test, security, log, errors, start -/

/-- A device that can sign. -/
def signs (s : State) : State := setOd { s with sec := { s.sec with identityKey := some 1 } } [(Od.identityState, 0), (Od.serialNumber, 77)]

/-- Each action on a target that it may have; a target that is none; an action that runs. -/
theorem witness_SelfTestsAndCores : Admitted on client 0x5000 0x03 0x01 ∧ Admitted on client 0x5000 0x03 (0x10 + 256 * 7) ∧
    (on.port 0).state = .up ∧ on.selftest = none ∧ (∀ i < 16, on.slotOpen i = false) ∧ (setOd ringed [(Od.selftestPolicy, 0)]).odGet Od.selftestPolicy = 0 ∧
    (setOd ringed [(Od.selftestPolicy, 0)]).slotOpen 0 = true ∧
    Admitted (signs on) client 0x2127 0x03 15 ∧ (signs on).canSign = true ∧ on.canSign = false ∧ (signs on).slotOfCore 7 15 = some 15 ∧
    (setOd (signs on) [(Od.repairLeftOut 7, 1)]).slotOfCore 7 15 = some 16 ∧ (signs on).coreMapped 127 = true ∧
    (signs on).coreFailed 127 = false ∧ on.hm.jobOpenWait = [] ∧ on.disp.updates = [] :=
  ⟨may (by decide +kernel), may (by decide +kernel), by decide +kernel, rfl,
    by decide +kernel, by decide +kernel, by decide +kernel, may (by decide +kernel), by decide +kernel⟩

/-- An image header of version 3 over an empty body, and an owner certificate. -/
def header : BitVec 2048 := BitVec.ofNat 2048 (0x4D494E53 + 2 ^ 32 + 3 * 2 ^ 64)
def certificate : List Byte :=
  natBytes 64 (0x46434E53 + 1 * 2 ^ 32 + 64 * 2 ^ 64 + 5 * 2 ^ 384 + 77 * 2 ^ 448) ++ List.replicate 128 0

/-- The writes are heard, and fail where their length says so. -/
theorem witness_SecurityWrites : Reached on client 0x1010 0x01 1 ∧ on.writesRefused = false ∧ (inState on .init).writesRefused = true ∧
    on.hm.flashJob = none ∧ Reached on client 0x2901 0x01 0 ∧ Reached on client 0x2901 0x02 0 ∧ Reached on client 0x2902 0x02 0 ∧
    Reached on client 0x2903 0x01 0 ∧ Admitted on client 0x2902 0x04 1 ∧ ([] : List Byte).length < 256 ∧ on.stopped = false ∧
    (inState on .ready).stopped = true ∧ recOf [] = none ∧ (recOf certificate).map SRec.rtype = some 1 ∧
    (List.replicate 32 (0 : Byte)).length = 32 ∧ (signs on).canSign = true ∧ imgMagic header = 0x4D494E53 ∧ imgVersion header = 3 ∧
    on.odGet Od.fwFloor ≤ 3 :=
  ⟨reached_of (by decide +kernel), by decide +kernel, by decide +kernel, rfl, reached_of (by decide +kernel), reached_of (by decide +kernel),
    reached_of (by decide +kernel), reached_of (by decide +kernel), may (by decide +kernel), by decide +kernel⟩

/-- R425, R426: under the root key, which is free (log 11), the signatures alone decide whether that image and that
certificate verify. -/
theorem witness_SecurityWrites_verified (digest : sm3 [] = imgDigest header)
    (image : sm2Verify Config.rootKey ((natBytes 256 header.toNat).take 192) (imgSignature header) = true)
    (record : sm2Verify Config.rootKey (certificate.take 128) 0 = true) :
    imgFails header [] = none ∧ (recOf certificate).map (fun r => r.fails (inState on .ready).keys) = some none := by
  constructor
  · unfold imgFails
    rw [image, if_neg (by decide), if_neg (by decide +kernel), if_neg (by simp [digest])]
  · have : recOf certificate = some
        { raw := certificate, serial := 77, seq := 5, signer := 0, rtype := 1, body := List.replicate 64 0, signed := certificate.take 128
          sig := 0 } := by decide +kernel
    rw [this]
    simp only [Option.map_some, SRec.fails]
    rw [if_neg (by decide +kernel), if_neg (by decide +kernel)]
    exact congrArg some (if_pos record)

/-- No class fires; class 0 alone fires under each policy; class 4 without its failures and with them; an erase in each phase. -/
theorem witness_AlarmAndErase : on.dev.state ≠ .off ∧ (0 : BitVec 5).getLsbD 0 = false ∧ (1 : BitVec 5).getLsbD 0 = true ∧
    (∀ k < 5, on.odGet (Od.alarmPolicy k) ≤ 2) ∧ 0 < on.odGet Od.sigFailLimit ∧
    (setOd on [(Od.sigFailLimit, 1)]).odGet Od.sigFailLimit ≤ [5].length ∧
    (setOd on [(Od.alarmPolicy 0, 0)]).odGet (Od.alarmPolicy 0) = 0 ∧ (setOd on [(Od.alarmPolicy 0, 2)]).odGet (Od.alarmPolicy 0) = 2 ∧
    on.sec.erase ≠ .marker ∧ ({ on.sec with erase := .marker } : Sec).erase = .marker ∧ on.dev.offHold = .none := by decide +kernel

def event (t : Nat) : Event := { edge := 0, payload := 0, severity := 1, kind := 0x0001, srcType := 0x0F, srcInst := 0, epoch := 0, time := t }
def logging (l : List Event) : State := { on with log := { on.log with ingress := l, lastSignal := some 5, deferred := true } }

theorem witness_EventLog : lowestEvent [event 9, event 3] = some (event 3, [event 9]) ∧ (logging [event 3]).logWaits (event 3) = false ∧
    (logging [event 3]).logOn = false ∧
    (let s := setOd (logging [event 3]) [(Od.logRingEntries, 1024), (Od.logRingBase, 0x10000), (Od.logRingCtrl, 0x20000)]
     s.logOn = true ∧ s.logRoom = true ∧ ({ s with log := { s.log with ringTail := 1023 } } : State).logRoom = false ∧
     ({ s with log := { s.log with ringTail := 1023 } } : State).logWaits { event 3 with severity := 2 } = true ∧ s.logFits 1048576 = true ∧
     s.logFits 0x2000000000 = false) ∧
    CleanBytes on 0x10000 32 ∧ Admitted on host 0x4000 0x02 1024 ∧ Admitted on host 0x4000 0x02 0 ∧
    (SMap.get ([], 0) ({ on.log with ceRate := [(256 * 3 + 5, ([9], 3))] } : Log).ceRate (256 * 3 + 5)).2 ≠ 0 :=
  ⟨by decide +kernel, by decide +kernel, by decide +kernel, by decide +kernel, cleanBytes_of (by decide +kernel),
    may (by decide +kernel), may (by decide +kernel), by decide +kernel⟩

/-- The last 256 bytes of a memory, and a LAUNCH's group whose register word fails. -/
theorem witness_ScrubAndErrors :
    (let s := setOd on [(Od.scrubEnable, 1)]
     s.scrubOn = true ∧ s.scrubMemory (.localMem 127) = some (localBase 127, 0x200000) ∧ s.scrubMemory .hbm = some (0, hbmEnd) ∧
     s.scrub.pass? (.localMem 127) = none ∧
     (Scrub.pass? { on.scrub with locals := [(127, ⟨0x200000, 5, 9⟩)] } (.localMem 127)).map (·.next) = some 0x200000 ∧
     (∀ w ∈ spanWords (localBase 127 + 0x1FFF00) 256, s.racyAt w = none) ∧ s.hbmReadFails = []) ∧
    on.working = true ∧ on.stackUp 7 = true ∧ on.coreMapped 127 = true ∧ on.coreFailed 127 = false ∧ launched.group? g0 = some grp ∧
    launched.launchOf 0 = some launch64 := by decide +kernel

/-- The pins low and held; a rail in an erase. -/
theorem witness_PinsAndResets : State.reset.dev.state = .off ∧ ¬(State.reset.dev.pwrGood = true ∧ State.reset.dev.resetN = true) ∧
    State.reset.dev.offHold = .none ∧ (0 : BitVec 6).getLsbD 5 = false ∧ (0x20 : BitVec 6).getLsbD 5 = true ∧
    State.reset.dev.perstN = false ∧ Reached on client 0x1002 0x01 3 ∧ on.dev.resetAt = none ∧
    (let s := { inState on .alarmed with sec := { on.sec with erase := .marker } }
     s.sec.erase = .marker ∧ s.dev.state = .alarmed) :=
  ⟨rfl, by decide +kernel, rfl, by decide +kernel, by decide +kernel, rfl, reached_of (by decide +kernel), rfl, by decide +kernel⟩

/-- Each step of the start; a slot that fails; REINIT in READY and in RUNNING. -/
theorem witness_DeviceStart :
    (let s := fun (n c : Nat) => { inState on .init with dev := { (inState on .init).dev with hbmDone := n, clustersOn := c } }
     on.flash.saved = none ∧ on.flash.chosen 0 = none ∧
     (Flash.blank.writeImage false header []).chosen 3 = some (false, header, []) ∧
     (Flash.blank.writeImage false header []).chosen 4 = none ∧
     (s 7 0).dev.hbmDone < 8 ∧ (s 8 7).dev.clustersOn < 8 ∧ (s 8 8).dev.clustersOn = 8 ∧
     SMap.get 0 (s 8 7).hm.repairMap 7 ||| (1 : BitVec 17).toNat ≠ 0 ∧ (s 8 8).fab.tracker = [] ∧
     (∀ k < 17, (SMap.get 0 (s 8 7).hm.repairMap 7 ||| (0x1FFFF : BitVec 17).toNat).testBit k = true) ∧
     (s 7 0).clk.now ≤ (s 7 0).dev.stepAt + 6000000) ∧
    Reached (inState on .ready) client 0x1002 0x01 2 ∧ Reached on client 0x1002 0x01 2 ∧ on.dev.romFault = false :=
  ⟨by decide +kernel, reached_of (by decide +kernel), reached_of (by decide +kernel), rfl⟩

/-! ### Ports, lanes, the field port -/

/-- The device with its port 0 changed. -/
def port0 (p : Port) : State := { on with fab := { on.fab with ports := [(0, p)] } }
/-- The neighbour's IDENT, by plan 9. -/
def id0 : IdentFlit := { serial := 5, planId := 9, ownY := 0, ownX := 1, port := 1, mask := 0x1F }

theorem witness_PortsFencesAndRegions :
    (let down := port0 Port.initial
     (down.port 0).state = .down ∧ down.linksOn = true ∧ down.loopback 0 = false ∧ (1 : BitVec 5) &&& portAll 0 ≠ 0 ∧
     (port0 { Port.initial with state := .training }).planReason 0 id0 = some 3 ∧
     (setOd (port0 { Port.initial with state := .training }) [(Od.meshPlanId, 9)]).planReason 0 id0 = none ∧
     goodGroups 0 0 &&& id0.mask ≠ 0 ∧ goodGroups 0 0 &&& 0 = 0 ∧
     ((port0 { Port.initial with lostAt := some (5, 0), accepted := some 1 }).port 0).lostAt = some (5, 0) ∧
     ({ Port.initial with retryAt := some 5 } : Port).retryAt.getD 0 + 60000000 ≤ 60000005 ∧
     on.fenced 0 = false ∧ (setOd on [(Od.fencedCoord 0, 1)]).fenced 0 = true) ∧
    Admitted on client 0x2300 0x04 0 ∧ Admitted on client 0x2360 0x06 3 ∧
    Admitted (inState on .ready) client 0x2310 0x01 9 ∧ Reached on host 0x6020 0x01 0 ∧
    net.regRefused 4095 0 = false ∧ net.regRefused 1 region = true ∧ regLevel region ≠ 0 ∧ pathLevel host = 1 ∧ pathLevel client = 0 :=
  ⟨by decide +kernel, may (by decide +kernel), may (by decide +kernel),
    may (by decide +kernel), reached_of (by decide +kernel), by decide +kernel⟩

/-- A flit of the type, with its CRC. -/
def flitBytes (ftype seq nak : Nat) : List Byte :=
  let h := natBytes 16 (ftype * 2 ^ 68 + seq * 2 ^ 84 + nak * 2 ^ 67)
  let body : List Byte := List.replicate 240 0
  h.take 12 ++ natBytes 4 (crc32c (h.take 12 ++ [0, 0, 0, 0] ++ body)).toNat ++ body

set_option maxRecDepth 20000 in
/-- Its CRC is good, and no longer when a byte changes. -/
theorem flitBytes_good : crcGood (flitBytes 1 1 0) = true ∧ crcGood ((flitBytes 1 1 0).set 200 1) = false := by decide +kernel

set_option maxRecDepth 20000 in
/-- Lane 39 of a working port and lane 40, which it has not; a group to come back; flits good and bad, in and out of order;
NAK with 7 and 8 resends; control flits, packets and none to send. -/
theorem witness_LanesAndFlits :
    (let pt := on.port 0
     pt.state = .up ∧ 39 < portLanes 0 ∧ portLanes 0 ≤ 40 ∧ pt.groups.getLsbD 4 = true ∧
     goodGroups 0 ((1 : BitVec 40) <<< 39) ≠ 0 ∧ goodGroups 0 (BitVec.allOnes 40) = 0 ∧
     (pt.ident.bind (on.planReason 0)) = none ∧
     (on.planReason 0 { serial := 0, planId := 0, ownX := 63, ownY := 63, port := 1, mask := 0 }).isSome = true ∧
     (portAll 0).getLsbD 4 = true ∧ ({ pt with groups := 0xF } : Port).groups.getLsbD 4 = false ∧ pt.state.carries = true ∧
     ({ pt with state := .resize, resizing := some (0xF, 64, 39) } : Port).resizing = some (0xF, 64, 39) ∧ pt.recalLane = none ∧
     (flitBytes 1 1 0).length = 256 ∧
     (flitOf (flitBytes 1 1 0)).ftype = 1 ∧ (flitOf (flitBytes 1 1 0)).seq = pt.rxSeq + 1 ∧ (flitOf (flitBytes 1 2 0)).seq ≠ pt.rxSeq + 1 ∧
     (flitOf (flitBytes 0 0 1)).nak = true ∧
     (({ pt with replay := [(1, [])], txSeq := 1, resends := 7 } : Port).acked (flitOf (flitBytes 0 0 1)).ack).resends = 7 ∧
     (({ pt with replay := [(1, [])], txSeq := 1, resends := 8 } : Port).acked (flitOf (flitBytes 0 0 1)).ack).replay ≠ [] ∧
     (pt.groups &&& goodGroups 0 ((1 : BitVec 40) <<< 39) ≠ 0 ∧ (0x10 : BitVec 5) &&& goodGroups 0 ((1 : BitVec 40) <<< 39) = 0) ∧
     pt.ctrlq = [] ∧ pt.replay.length < 1024 ∧ (on.fill 0).slots = [] ∧
     ((port0 { pt with txq := [⟨4, none, pkt⟩], credits := (List.range 64).map fun k => (k, 64) }).fill 0).slots ≠ []) := by
  decide +kernel

def kept : State := { on with hm := { on.hm with kept := [(0x0A, 9,
  { dst := 0x0A, ftype := 0x02, seq := 9, index := 0x1001, sub := 1, status := 0, flags := 0, dtype := 0, xfer := 0, payload := [] })] } }

theorem heard_of {s : State} {fr : TheostFrame} {t : BitVec 8} (h : s.log.roomy = true ∧ (s.dev.state ≠ .off ∧ s.dev.state ≠ .boot) ∧
    fr.etherType = 0x88B5 ∧ fr.version = 0x01 ∧ fr.ftype = t) : Heard s fr t := ⟨h.1, h.2.1, h.2.2.1, h.2.2.2.1, h.2.2.2.2⟩

theorem fresh_of {s : State} {fr : TheostFrame} {t : BitVec 8} (h : Heard s fr t) (k : s.keptFor fr = none ∧
    s.inService fr = false ∧ s.placesFull = false) : Fresh s fr t := ⟨h, k.1, k.2.1, k.2.2⟩

/-- A new request, a repeat, one being served, and one for which there is no place; a write that is too long; channels. -/
theorem witness_FieldPort : Fresh on frame 0x01 ∧ Fresh on (theost 0x03 9 0x1001) 0x03 ∧
    ((kept.keptFor frame).isSome = true) ∧
    ({ on with hm := { on.hm with jobOpenWait := [(client, 1)] } } : State).inService frame = true ∧
    ({ on with hm := { on.hm with jobOpenWait := List.replicate 32 (host, 1) } } : State).placesFull = true ∧
    (inState on .boot).dev.state = .boot ∧ (theost 0x01 9 0x1001 (version := 2)).version ≠ 0x01 ∧
    (theost 0x02 9 0x1001).ftype = 0x02 ∧ ({ frame with etherType := 0x0800 } : TheostFrame).etherType ≠ 0x88B5 ∧
    1024 < (theost 0x03 9 0x1003 (payload := List.replicate 1025 0)).payload.length ∧ Reached on client 0x1003 0x01 0 ∧
    on.fieldSpeaks = true ∧ (inState on .off).fieldSpeaks = false ∧
    (setOd on [(Od.cycEnable 7, 1)]).odGet (Od.cycEnable 7) = 1 ∧ Admitted on client 0x1227 0x01 1 ∧ Admitted on client 0x1227 0x01 0 ∧
    on.cycFits 7 = true :=
  ⟨fresh_of (heard_of (by decide +kernel)) (by decide +kernel), fresh_of (heard_of (by decide +kernel)) (by decide +kernel),
    by decide +kernel, by decide +kernel, by decide +kernel, rfl, by decide +kernel, by decide +kernel, by decide +kernel,
    by decide +kernel, reached_of (by decide +kernel), by decide +kernel, by decide +kernel, by decide +kernel,
    may (by decide +kernel), may (by decide +kernel), by decide +kernel⟩

/-- A download of 1,500 bytes of which the first segment has come, and an upload with 8 segments under way. -/
def xfer (up : Bool) : Xfer :=
  { id := 1, mac := 0x0A, seq := 3, index := 0x2901, sub := 1, upload := up, total := if up then 9000 else 1500
    data := List.replicate (if up then 9000 else 1024) 0, acked := if up then 0 else 1, sent := if up then 8 else 0
    committing := false, progressAt := 0, heardAt := 0 }
def moving (up : Bool) : State := { on with hm := { on.hm with xfers := [xfer up], nextXfer := 2 } }

theorem witness_SegmentedTransfers :
    (let start := fun (index up total : Nat) => theost 0x05 9 index (flags := up) (payload := natBytes 4 total)
     Fresh on (start 0x2901 0 1500) 0x05 ∧ (on.segStatus (start 0x2901 0 1500) false 1500).1 = Status.ok ∧
     (on.segStatus (start 0x0FFF 0 1500) true 0).1 ≠ Status.ok) ∧
    (let seg := fun (seq n last : Nat) => theost 0x06 seq 0x2901 last 1 (List.replicate n 0)
     (moving false).xferOf (seg 1 476 2) = some (xfer false) ∧ Heard (moving false) (seg 1 476 2) 0x06 ∧
     (seg 1 476 2).seq = BitVec.ofNat 16 (xfer false).acked ∧ (seg 1 476 2).payload.length < 1024 ∧
     (xfer false).data.length + (seg 1 476 2).payload.length = (xfer false).total ∧
     (seg 2 476 2).seq ≠ BitVec.ofNat 16 (xfer false).acked ∧ (seg 1 1024 0).flags.getLsbD 1 = false) ∧
    (let ack := fun (seq : Nat) => theost 0x07 seq 0x2901 0 1
     (moving true).xferOf (ack 8) = some (xfer true) ∧ Heard (moving true) (ack 8) 0x07 ∧ segCount (xfer true).total = 9 ∧
     ((ack 8).seq - BitVec.ofNat 16 (xfer true).acked).toNat = 8 ∧ (xfer true).sent = 8) ∧
    (moving true).xfer? 1 = some (xfer true) ∧ (moving true).xfer? 2 = none :=
  ⟨⟨fresh_of (heard_of (by decide +kernel)) (by decide +kernel), by decide +kernel⟩,
    ⟨by decide +kernel, heard_of (by decide +kernel), by decide +kernel⟩,
    ⟨rfl, heard_of (by decide +kernel), by decide +kernel⟩, rfl, rfl⟩

/-- The premises of the statements over every step. -/
theorem witness_StepKeepsTheInvariant : Invariant State.reset :=
  ⟨⟨⟨by decide, by decide⟩, by decide⟩, ⟨by decide, by decide, by decide, by decide⟩⟩

theorem witness_AlarmedLeftThroughOff : (inState on .alarmed).dev.state = .alarmed ∧
    exec .pwrGoodLow (inState on .alarmed) = .next (match exec .pwrGoodLow (inState on .alarmed) with | .next t => t | _ => on) := ⟨rfl, rfl⟩

/-! ### Further clauses of the statements -/

/-- A LAUNCH of one core whose exception area has one slot, of which `n` are written, under each policy. -/
def reports (policy : Bool) (n : Nat) : Launch := { launch64 with excPolicy := policy, excSlots := 1, excAddr := 0x40000, excWritten := n }
def reporting (l : Launch) : State :=
  let c : Cmd := { command 1 0x0001 [] with phase := .started, arrival := 1 }
  let s : State := { on with disp := { on.disp with cmds := [c], launches := [l] }, fab := { on.fab with regions := [(0, region)] } }
  s.setCore 0 { s.core 0 with launch := some 1 }

/-- Its group takes an exception: a slot is free, or none. -/
theorem witness_Exceptions_launch :
    (let s := fun policy n => (reporting (reports policy n)).setGroup g0 grp
     (∀ policy : Bool, ∀ n < 2, (s policy n).group? g0 = some grp ∧ (s policy n).launchOf g0.core = some (reports policy n)) ∧
     (s true 0).cmd? launch64.cmd ≠ none ∧ ((s true 0).core 127).launch ≠ ((s true 0).core 0).launch) ∧
    (let l := reports false 0
     l.excTime ≠ on.clk.now ∧ l.excWritten < l.excSlots ∧ l.excAddr % 64 = 0 ∧ l.excAddr + 64 * l.excSlots ≤ hbmEnd ∧
     (reports false 1).excSlots ≤ (reports false 1).excWritten ∧ (reports false 1).areaFull = false) := by decide +kernel

theorem own_of {s : State} {g : GroupRef} {f : RemoteForm} {w : BitVec 64} {gr : Group} {txs : List LaneTx}
    (h : (txs.all fun t => s.ownPlace t.addr && (t.parts f w gr).all fun q => accepts s (s.laneReq g f w gr q) (q.target f)) = true) :
    OwnMemory s g f w gr txs := fun t ht => by
  have := List.all_eq_true.mp h t ht
  rw [Bool.and_eq_true] at this
  exact ⟨this.1, fun q hq => accepted_of (List.all_eq_true.mp this.2 q hq)⟩

/-- A group that names the device's own memory, under a LAUNCH whose job may add; and the multicast word with a line of one. -/
def ownGroup : Group := remote 0x1000 0
def ownState : State := (reporting launch64).setGroup g0 ownGroup
def mcWord : BitVec 64 := opWord (fields [(21, 8), (29, 4), (37, 12), (58, 1), (50, 1)]) 0

/-- A load, a store, an atomic, an arrival-order add and both multicasts on the device's own memory. -/
theorem witness_RemoteRequests_own :
    (let w := opWord fRem 0
     let f := fun (op : BitVec 8) (n : Nat) (load : Bool) => (⟨op, n, load⟩ : RemoteForm)
     let each := fun f w => eachTx f w ownGroup [0]
     Ready ownState g0 ownGroup ∧ ownState.holding g0 = false ∧ ownGroup.execLanes w = [0] ∧ ownGroup.execLanes mcWord = [0] ∧
     (RemoteOk ownState g0 (f 0x01 8 true) w ownGroup ∧ OwnMemory ownState g0 (f 0x01 8 true) w ownGroup (loadTxs (f 0x01 8 true) w ownGroup [0])) ∧
     (RemoteOk ownState g0 (f 0x02 8 false) w ownGroup ∧
       OwnMemory ownState g0 (f 0x02 8 false) w ownGroup (storeTxs (f 0x02 8 false) w ownGroup [0])) ∧
     (RemoteOk ownState g0 (f 0x03 8 false) w ownGroup ∧ OwnMemory ownState g0 (f 0x03 8 false) w ownGroup (each (f 0x03 8 false) w)) ∧
     (RemoteOk ownState g0 (f 0x11 4 false) w ownGroup ∧ OwnMemory ownState g0 (f 0x11 4 false) w ownGroup (each (f 0x11 4 false) w)) ∧
     (RemoteOk ownState g0 (f 0x20 8 false) w ownGroup ∧ OwnMemory ownState g0 (f 0x20 8 false) w ownGroup (each (f 0x20 8 false) w) ∧
       (fMc w).1 = 0) ∧
     (RemoteOk ownState g0 (f 0x20 8 false) mcWord ownGroup ∧
       OwnMemory ownState g0 (f 0x20 8 false) mcWord ownGroup (each (f 0x20 8 false) mcWord) ∧ (fMc mcWord).1 ≠ 0) ∧
     ownState.fab.invWaits = [] ∧ ownState.opens (firstPort (ownState.place :: mcLine ownState.place (fMc mcWord))) ∧
     ownState.trackerRoom g0 1 = true) :=
  ⟨ready_of (by decide +kernel), by decide +kernel, by decide +kernel, by decide +kernel,
    ⟨remoteOk_of (by decide +kernel), own_of (by decide +kernel)⟩, ⟨remoteOk_of (by decide +kernel), own_of (by decide +kernel)⟩,
    ⟨remoteOk_of (by decide +kernel), own_of (by decide +kernel)⟩, ⟨remoteOk_of (by decide +kernel), own_of (by decide +kernel)⟩,
    ⟨remoteOk_of (by decide +kernel), own_of (by decide +kernel), by decide +kernel⟩,
    ⟨remoteOk_of (by decide +kernel), own_of (by decide +kernel), by decide +kernel⟩, rfl,
    ⟨by decide +kernel, by decide +kernel, by decide +kernel⟩, by decide +kernel⟩

/-- A group that loads from an offset of the window: from a view, from DEVICE_STATE, and from an index that has no entry. -/
def viewer (off : Nat) : Group := { one with v := [(4, BitVec.ofNat 32 off), (5, 0xE0)], u := [(1, 7)] }

theorem witness_RemoteRequests_window :
    (∀ off ∈ [0x100, 0x8100, 0x400208, 0x4007F8], (held (viewer off)).windowLane ⟨0x01, 8, true⟩ (opWord fRem 0) (viewer off) 0 = true) ∧
    (let off := fun x => addrLocal (remoteAddr ⟨0x01, 8, true⟩ (opWord fRem 0) (viewer x) 0) - windowBase
     off 0x100 < 0x8000 ∧ 0x8000 ≤ off 0x8100 ∧ off 0x8100 < 0x10000 ∧ off 0x400208 = 0x400208 ∧
     (match (held (viewer 0x400208)).odReadStatus (.core 0 0) (directIndex 0x400208).1 (directIndex 0x400208).2 with
      | (st, some r) => decide (st = Status.ok) && r.ty.numeric
      | _ => false) = true ∧
     (match (held (viewer 0x4007F8)).odReadStatus (.core 0 0) (directIndex 0x4007F8).1 (directIndex 0x4007F8).2 with
      | (_, some _) => true
      | _ => false) = false) ∧
    Ready (held (viewer 0x100)) g0 (viewer 0x100) ∧ Ready (held (viewer 0x400208)) g0 (viewer 0x400208) ∧
    Ready (held (viewer 0x4007F8)) g0 (viewer 0x4007F8) ∧
    RemoteOk (held (viewer 0x100)) g0 ⟨0x01, 8, true⟩ (opWord fRem 0) (viewer 0x100) ∧
    RemoteOk (held (viewer 0x400208)) g0 ⟨0x01, 8, true⟩ (opWord fRem 0) (viewer 0x400208) ∧
    RemoteOk (held (viewer 0x4007F8)) g0 ⟨0x01, 8, true⟩ (opWord fRem 0) (viewer 0x4007F8) :=
  ⟨by decide +kernel, by decide +kernel, ready_of (by decide +kernel), ready_of (by decide +kernel), ready_of (by decide +kernel),
    remoteOk_of (by decide +kernel), remoteOk_of (by decide +kernel), remoteOk_of (by decide +kernel)⟩

/-- The answers POISONED, KEY_MISMATCH and TIMEOUT to the same transaction; a load's word beside a poisoned one. -/
theorem witness_TransactionsEnd_failed :
    (∀ st ∈ [Status.poisoned, Status.keyMismatch, Status.timeout],
      (swapping.takeRx 0 { swapped with status := st }).map (fun t => (t.answers? { swapped with status := st }, t.fencedPlace swapped.src)) =
        some (some swapTx, false)) ∧
    (∀ i ∈ answered.heldLeft (opWord fRem 0x8002) waits, i = 0) ∧ swapTx.left = [] ∧ swapping.log.roomy = true ∧
    (heldForm (opWord fRem 0x8002)).op ≠ 0x01 ∧ (heldForm (opWord fRem (globalOpcode false .g64).toNat)).op = 0x01 ∧
    (2 : BitVec 32).getLsbD (8 / 8) = true ∧ (2 : BitVec 32).getLsbD (0 / 8) = false ∧
    (let failed : Tx := { swapTx with op := 0x11, owner := .posted 0 0 4 }
     let s : State := { held grp with fab := { on.fab with tracker := [failed] } }
     s.tx? 3 = some failed ∧ s.group? ⟨0, 0⟩ = some grp ∧ grp.hold = .none) := by decide +kernel

/-- A multicast of one further device, that this device stores and hands on. -/
def mcPkt : Packet := { pkt with op := 0x20, mcCount := 1, payload := List.replicate 8 1 }

theorem witness_RequestPackets_multicast :
    (let s1 := (net.takeRx 0 mcPkt).getD net
     let q := s1.serveReq (packetReq mcPkt (some 0))
     PacketHere net 0 mcPkt s1 ∧ q.1.status = Status.ok ∧ q.2.1 = none ∧ s1.mcWait mcPkt none = none ∧ q.2.2.self = s1.self ∧
     mcPkt.mcAxis = false ∧ mcPkt.mcDir = false ∧ q.2.2.opens 0) :=
  ⟨packet_of (by decide +kernel), by decide +kernel, by decide +kernel, by decide +kernel, by decide +kernel, rfl, rfl,
    ⟨by decide +kernel, by decide +kernel, by decide +kernel⟩⟩

/-- A READ of no bytes; an OP that is none, with another key; a TIMEOUT for the INVALIDATE of sharer 1; a packet to be handed on. -/
theorem witness_RequestsNotPerformed_forms : reqShape 0x01 0 = some (0, .read, 1, 0) ∧
    net.keyCheck 0x1000 8 8 .read 0 false = some (Status.keyMismatch, 0x03) ∧ net.keyCheck 0x1000 8 7 .read 0 false = none ∧
    (pkt.addr.toNat / 128, (1 : BitVec 12)) ∈ (⟨[(0x20, 1)], none⟩ : InvWait).waiting ∧
    (on.pullRx 0 { pkt with dst := 1 }).map (·.1) = some .arriving ∧
    ((setOd on [(Od.fencedCoord 0, 1)]).fencedPlace 1 = true) := by decide +kernel

/-- A command that an abort took from its ring; an abort of ring 0 whose record is to come, and none. -/
theorem witness_RingService_removed :
    (let gone : State := { ringed with disp := { ringed.disp with removed := [(0, 0)] } }
     gone.disp.removed.contains (0, (gone.ring 0).head) = true ∧ ringed.disp.removed.contains (0, (ringed.ring 0).head) = false) ∧
    (let stopped : Launch := { launch64 with aborted := some (999999, 0) }
     let s : State := { taking [{ launchCmd with phase := .started }] with disp := { (taking [{ launchCmd with phase := .started }]).disp with launches := [stopped] } }
     s.cqHeld 0 s.clk.now = true ∧ ringed.cqHeld 0 ringed.clk.now = false ∧ (ringed.cq 0).ties = [] ∧
     stopped.aborted = some (999999, 0) ∧ s.launchOver stopped = true) := by decide +kernel

/-- A LAUNCH that may start but for a core that has failed. -/
theorem witness_Launches_failed :
    (let s : State := setOd { taking [{ launchCmd with phase := .waiting }] with disp := { (taking [launchCmd]).disp with launches := [waiting64], cmds := [{ launchCmd with phase := .waiting }] } }
        [(Od.coreFailed 0, 1)]
     s.launch? 1 = some waiting64 ∧ s.launchMay waiting64 = true ∧ waiting64.cores.any s.coreFailed = true ∧ on.coreFailed 0 = false) := by
  decide +kernel

/-- An orphaned member, and a switch that is still to come. -/
theorem witness_BarriersAndEpochs_times :
    (let orphan : BarrierRun := { bar with abortAt := some 0 }
     orphan.abortAt = some 0 ∧ 0 + 1000000 * (barring 0 orphan).odGet Od.barrierTimeout ≤ (barring 0 orphan).clk.now ∧
     ((barring 0 orphan).cmd? orphan.cmd).isSome = true) ∧
    (let s : State := { coll [barCmd] with epochs := [(15, (2000000, 1, some 1))] }
     s.clk.now < 2000000 ∧ ∀ x ∈ s.epochs, x.1 < 16 ∧ (x.1 = 15 → x.2 = (2000000, 1, some 1))) := by decide +kernel

/-- MSI-X on, with vector 5 open, or masked and pending; a word of the table. -/
theorem witness_HostAccesses_msix :
    (let p : PcieCfg := { on.pcie with msixEnable := true, other := SMap.set 0 on.pcie.other 1 4, msixTable := [(23, 0)] }
     p.masked 5 = false ∧ p.masked 6 = true ∧ on.dev.linkUp = true ∧ on.pcie.msixEnable = false ∧
     (∀ i < 73, ({ p with msixPending := 1 <<< 5 } : PcieCfg).msixPending.getLsbD i = decide (i = 5)) ∧
     (∀ i < 73, ({ p with msixPending := 1 <<< 6 } : PcieCfg).msixPending.getLsbD i = decide (i = 6))) ∧
    (setOd on [(Od.debugLevel, 1)]).odGet Od.debugLevel < cellLevel (.word 0) ∧ on.odGet Od.debugLevel < cellLevel (.entry 0x1001 1) ∧
    (match on.odRow? 0x1003 0x01 with
      | some r => r.ty.accepts ((100 : BitVec 256).toNat % 2 ^ 64)
      | none => false) = true := by decide +kernel

/-- A command that still waits in its ring; a SEND that is stopping, and a LAUNCH that is not; the start of an UPDATE_STEP to come. -/
theorem witness_RingWrites_aborts :
    (let s : State := { ringed with disp := { ringed.disp with rings := [(0, ⟨0, 1⟩)] } }.writeBytes (0x2000 + 12) (natBytes 4 9)
     s.ringFind 0 9 = some 0 ∧ s.ringFind 0 8 = none ∧ s.disp.cmds = []) ∧
    (let q : Cmd := { sendCmd with phase := .started }
     let s := ((channelOf 0 [q]).setChannel 0 { Channel.initial with active := some 1, stop := some (5, 0) })
     s.disp.cmds.find? (fun q => decide (q.ring = 0) && decide (q.cmdId = 1)) = some q ∧ q.opcode = 0x0040 ∧
     (s.channel q.hoChannel).stop.isSome = true) ∧
    (let q : Cmd := { launchCmd with phase := .started }
     let s : State := { taking [q] with disp := { (taking [q]).disp with launches := [launch64] } }
     s.disp.cmds.find? (fun q => decide (q.ring = 0) && decide (q.cmdId = 1)) = some q ∧ s.launch? q.serial = some launch64 ∧
     launch64.cmd = q.serial ∧ launch64.aborted = none) ∧
    updCmd.phase ≠ .started ∧ (updating 0).jobSlot? updCmd.job = some 0 ∧ (updating 0).ledger? 0 = none := by decide +kernel

/-- A flash write of each kind, on a flash that holds no saved set and on one that does; a device in ALARMED. -/
theorem witness_SecurityWrites_flash :
    (∀ j ∈ [FlashJob.save [(Od.powerCap, 900)] host, .erase host, .image true header [] host, .record 1 5 certificate host, .enrol 9 1 host],
      ({ on with hm := { on.hm with flashJob := some j } } : State).hm.flashJob = some j) ∧
    on.hm.repairDue = false ∧ on.sec.erase = .none ∧ ({ on with sec := { on.sec with erase := .helper } } : State).sec.erase ≠ .none ∧
    on.dev.state ≠ .alarmed ∧ (inState on .alarmed).dev.state = .alarmed ∧ (∀ b : Bool, on.flash.savedSeq b = none) ∧
    (Flash.blank.save [(Od.powerCap, 900)]).saved = some [(Od.powerCap, 900)] ∧
    Od.powerCap ∈ odSavedKeys := by decide +kernel

/-- A start with that set; an alarm by class 0's sensor 3; an erase whose helper copies are due, in each case of the hold. -/
theorem witness_AlarmAndErase_phases :
    (∀ e ∈ [(Od.powerCap, 900)], e.1 ∈ odSavedKeys) ∧ ([(Od.powerCap, 900)].map (·.1)).Nodup ∧
    (8 : BitVec 40).extractLsb' 0 8 = 8 ∧ ({ on.sec with erase := .helper } : Sec).erase = .helper ∧
    ({ on.dev with offHold := .untilToggle } : Dev).offHold ≠ .none ∧
    (let s : State := { on with flash := Flash.blank.setMarker }
     s.flash.eraseMarker = true ∧ s.flash.byte 0x2200000 ≠ 0) := by decide +kernel

/-- Source 0x1200 with four records behind the first 256; and with an action that it holds. -/
def closedTime : State := { on with log := { on.log with ingress := List.replicate 256 (event 1) ++ List.replicate 4 { event 2 with srcType := 0x12 } } }
def heldTime : State := { on with log := { on.log with held := [⟨[0x1200], some .tbHoldoverEnter, 3, 900000⟩] } }

theorem witness_EventLog_held : closedTime.log.closed 0x1200 = true ∧ closedTime.dev.state ≠ .off ∧
    closedTime.odGet Od.timebaseSource = 0 ∧ heldTime.log.held = [⟨[0x1200], some .tbHoldoverEnter, 3, 900000⟩] ∧
    heldTime.log.full 0x1200 = false ∧ closedTime.log.roomy = false ∧ on.log.roomy = true ∧ (logging [event 3]).dues = [] ∧
    (logging [event 3]).log.lastKey = none := by decide +kernel

/-- A cluster whose slots all fail; the last stack within and beyond its time. -/
theorem witness_DeviceStart_times :
    (let s := fun (t : Nat) => { inState on .init with dev := { (inState on .init).dev with hbmDone := 7, stepAt := t } }
     (s 1000000).clk.now ≤ (s 1000000).dev.stepAt + 6000000 ∧
     (let late : State := { s 0 with clk := { on.clk with now := 6000001 } }
      late.dev.stepAt + 6000000 < late.clk.now)) ∧
    (∀ k < 17, (SMap.get 0 on.hm.repairMap 7 ||| (0 : BitVec 17).toNat).testBit k = false) ∧ on.log.roomy = true ∧
    (let s : State := { on with disp := { on.disp with armed := [(5, .tallyHead)] }, epochs := [(3, (5, 1, none))] }
     (5, Monitor.tallyHead) ∈ s.disp.armed) := by decide +kernel

/-- A mask that leaves a linked port some of its groups, and one that leaves none; a port that has sent 2,046 or 2,047 flits
since its last idle one; a copy of a resize flit; a PARKED port whose peer the plan accepts, and not; a lane that returns in RESIZE. -/
theorem witness_LanesAndFlits_widths :
    (let pt : Port := { Port.initial with state := .up, groups := 0x1F, accepted := some 1, ident := some id0 }
     let s := setOd (port0 pt) [(Od.meshPlanId, 9)]
     pt.groups &&& (goodGroups 0 pt.badLanes &&& 0x0F) ≠ 0 ∧ pt.groups &&& (goodGroups 0 pt.badLanes &&& 0) = 0 ∧ pt.groups ≠ 0 ∧
     s.planReason 0 id0 = none ∧ (s.port 0).ident = some id0 ∧
     ((port0 pt).planReason 0 id0).isSome = true ∧ pt.sinceIdle < 2047 ∧ 2047 ≤ ({ pt with sinceIdle := 2047 } : Port).sinceIdle ∧
     (let parked : Port := { pt with state := .parked }
      parked.state.linked = true ∧ parked.groups &&& goodGroups 0 ((1 : BitVec 40) <<< 39) ≠ 0 ∧ parked.groups.getLsbD (39 / 8) = true) ∧
     (let back : Port := { pt with state := .resize, recalLane := some 4 }
      back.state.linked = true ∧ back.recalLane = some 4)) ∧
    (let x := resizeSlot 0x02 (on.port 0).rxSeq 0x0F
     x.extractLsb' 0 8 = 0x02) := by decide +kernel

/-- A state in which nothing is due, and one with a held action and a barrier whose abort is over. -/
theorem witness_StepRunsTheFrontCommand : on.pending = [] ∧ on.dues = [] ∧ on.disp.woken = [] ∧ on.log.held = [] ∧
    on.dev.state ≠ .off ∧ (∀ ctx < 16, (on.barrier? ctx).isNone = true) := by decide +kernel

/-! ### Single steps, worked out by hand from the spec -/

/-- v3 of lane 0 and the pc after a command on the group of `held grp`. -/
def v3Of (i : Instr) : Option (BitVec 32 × BitVec 40) :=
  match step { held grp with pending := [i] } with
  | .next t => (t.group? g0).map fun g => (g.vGet 0 3, g.pc)
  | _ => none

/-- R180: 5 + (2^32 - 2) = 3, and 5 - (2^32 - 2) = 7, modulo 2^32; the pc moves on by 8 (R176). -/
theorem test_int_add_wraps : v3Of (.intAdd g0 fVec) = some (3, 8) := by decide +kernel
theorem test_int_sub_wraps : v3Of (.intSub g0 fVec) = some (7, 8) := by decide +kernel

/-- R180: of 5 and -2, with signs, 5 is the greater and -2 the lesser; their product is -10. -/
theorem test_int_signs : v3Of (.intMax g0 fVec) = some (5, 8) ∧ v3Of (.intMin g0 fVec) = some (0xFFFFFFFE, 8) ∧
    v3Of (.intMul g0 fVec) = some (0xFFFFFFF6, 8) := by decide +kernel

/-- R180: -2 shifted right by 5 with its sign is -1, and with zeros 2^27 - 1. -/
theorem test_shifts : v3Of (.intShra g0 (fields [(21, 3), (29, 2), (37, 1)])) = some (0xFFFFFFFF, 8) ∧
    v3Of (.intShr g0 (fields [(21, 3), (29, 2), (37, 1)])) = some (0x07FFFFFF, 8) := by decide +kernel

set_option maxRecDepth 100000 in
/-- The standard's first example (GB/T 32905): the digest of "abc". -/
theorem test_sm3_abc : beNat (sm3Bytes [0x61, 0x62, 0x63]) =
    0x66C7F0F462EEEDD9D1F2D46BDC10E4E24167C4875CF2F7A2297DA02B8F4BA8E0 := by decide +kernel

/-- The queue is first in, first out, and a step on an empty one is a tick of 1 ns (log 1). -/
theorem test_queue : (match step { held grp with pending := [.intAdd g0 fVec, .intSub g0 fVec] } with
    | .next t => t.pending | _ => []) = [.intSub g0 fVec] ∧
    (match step on with | .next t => t.clk.now | _ => 0) = 1000001 := by decide +kernel

/-- R411: the release of reset starts the ROM, and the device enters BOOT. -/
theorem test_reset_release : (match step { State.reset with pending := [.resetRelease 0] } with
    | .next t => t.dev.state | _ => .off) = .boot := by decide +kernel

end Sys2Proof.Tests
end

section
/-! SUPPORT and proof. A write of the object dictionary (R37 to R39, R43, R44): level and existence come before every behaviour. -/

namespace Sys2Proof.Machine
open Sys2Proof

/-! ### How a write of the dictionary is served -/

/-- The level of a write hangs on the value at DEVICE_COMMAND alone (R76). -/
theorem State.writeDenied_value (s : State) (via : OdPath) {idx sub : Nat} (h : ¬(idx = 0x1002 ∧ sub = 1)) (v v' : Nat) :
    s.writeDenied via idx sub v = s.writeDenied via idx sub v' := by
  have : odWriteLevel? idx sub v = odWriteLevel? idx sub v' := by
    unfold odWriteLevel?
    rw [if_neg h, if_neg h]
  unfold State.writeDenied
  rw [this]

/-- On a path that is heard, a write below the entry's level is answered DENIED, whatever the entry's behaviour. -/
theorem State.odRow_denied {s : State} {via : OdPath} {idx sub v : Nat} (ho : s.pathOpen via = true)
    (hd : s.writeDenied via idx sub v = true) (f : State → OdRow → Served) :
    s.odRow via idx sub v f = s.answerWrite via idx sub Status.denied := by
  unfold State.odRow State.serveWrite
  rw [if_pos ho, if_pos hd]
  rfl

/-- An entry that does not exist is answered NOT_FOUND. -/
theorem State.odRow_notFound {s : State} {via : OdPath} {idx sub v : Nat} (ho : s.pathOpen via = true)
    (hd : s.writeDenied via idx sub v = false) (hn : odRange? idx = none ∨ s.odRow? idx sub = none)
    (f : State → OdRow → Served) : s.odRow via idx sub v f = s.answerWrite via idx sub Status.notFound := by
  unfold State.odRow State.serveWrite
  rw [if_pos ho, if_neg (by simp [hd])]
  rcases hn with hn | hn
  · rw [hn]; rfl
  · rw [hn]; split <;> rfl

/-- An entry that exists is served by its behaviour. -/
theorem State.odRow_exists {s : State} {via : OdPath} {idx sub v : Nat} (ho : s.pathOpen via = true)
    (hd : s.writeDenied via idx sub v = false) (hr : odRange? idx ≠ none) {r : OdRow} (he : s.odRow? idx sub = some r)
    (f : State → OdRow → Served) : s.odRow via idx sub v f = (f s r).answer via idx sub := by
  unfold State.odRow State.serveWrite
  rw [if_pos ho, if_neg (by simp [hd]), if_neg (by simpa using hr), he]

/-- `t` comes of a write to the entry: some behaviour has served it, after the checks of level and existence, of a value
whose level is that of `v`. -/
def State.Serves (s : State) (via : OdPath) (idx sub v : Nat) (t : State) : Prop :=
  ∃ v' f, s.writeDenied via idx sub v' = s.writeDenied via idx sub v ∧ t = s.odRow via idx sub v' f

theorem State.serves_odRow_same (s : State) (via : OdPath) (idx sub v : Nat) (f : State → OdRow → Served) :
    s.Serves via idx sub v (s.odRow via idx sub v f) := ⟨v, f, rfl, rfl⟩

theorem State.serves_odRow (s : State) (via : OdPath) {idx sub : Nat} (h : ¬(idx = 0x1002 ∧ sub = 1)) (v v' : Nat)
    (f : State → OdRow → Served) : s.Serves via idx sub v (s.odRow via idx sub v' f) :=
  ⟨v', f, s.writeDenied_value via h v' v, rfl⟩

theorem State.serves_withRoom {s t : State} (hl : s.log.roomy = true) (c : Instr) {via : OdPath} {idx sub v : Nat}
    (h : s.Serves via idx sub v t) : s.Serves via idx sub v ((withRoom c s (.next t)).state s) := by
  rw [withRoom_roomy hl]
  exact h

/-- DEVICE_COMMAND. -/
theorem State.writeCommand_serves {s : State} (hl : s.log.roomy = true) (via : OdPath) (v : Nat) :
    s.Serves via 0x1002 0x01 v (s.writeCommand via v) := by
  unfold State.writeCommand
  split
  · subst v; exact serves_withRoom hl _ (s.serves_odRow_same ..)
  split
  · subst v; exact serves_withRoom hl _ (s.serves_odRow_same ..)
  split
  · subst v; exact serves_withRoom hl _ (s.serves_odRow_same ..)
  · exact s.serves_odRow_same ..

theorem State.writeRefused_serves (s : State) (via : OdPath) (idx sub v : Nat) :
    s.Serves via idx sub v (s.writeRefused via idx sub v) := s.serves_odRow_same ..

theorem State.writePlain_serves (s : State) (via : OdPath) (idx sub v : Nat) :
    s.Serves via idx sub v (s.writePlain via idx sub v) := s.serves_odRow_same ..

theorem State.onlyOne_serves {s : State} {via : OdPath} {idx sub v : Nat} {o : Outcome}
    (h : s.Serves via idx sub v (o.state s)) : s.Serves via idx sub v (s.onlyOne via idx sub v o) := by
  unfold State.onlyOne
  split
  · exact h
  · exact s.writeRefused_serves ..

theorem State.serves_ite {s t u : State} {via : OdPath} {idx sub v : Nat} {c : Prop} [Decidable c]
    (ht : c → s.Serves via idx sub v t) (hu : ¬c → s.Serves via idx sub v u) :
    s.Serves via idx sub v (if c then t else u) := by
  split
  · exact ht ‹_›
  · exact hu ‹_›

/-- LEDGER_ATTACH. -/
theorem State.writeAttach_serves {s : State} (hl : s.log.roomy = true) (via : OdPath) {idx : Nat}
    (h : 0x2820 ≤ idx ∧ idx ≤ 0x282F) (v : Nat) : s.Serves via idx 0x08 v (s.writeAttach via (idx - 0x2820) v) := by
  have row : ∀ v' f, s.Serves via idx 0x08 v (s.odRow via idx 0x08 v' f) := s.serves_odRow via (by omega) v
  unfold State.writeAttach execLedgerDetach execLedgerCold execLedgerRestored
  simp only [show idx - 0x2820 < 16 by omega, if_true, Nat.add_sub_cancel' h.1]
  refine serves_ite (fun _ => serves_withRoom hl _ (row ..)) fun _ => ?_
  refine serves_ite (fun _ => serves_withRoom hl _ (row ..)) fun _ => ?_
  exact serves_ite (fun _ => serves_withRoom hl _ (row ..)) fun _ => s.writeRefused_serves ..

/-- The entries of single indices. -/
theorem State.writeSingle_serves {s : State} (hl : s.log.roomy = true) (via : OdPath) (idx sub v : Nat) :
    s.Serves via idx sub v (s.writeSingle via idx sub v) := by
  unfold State.writeSingle
  split
  case h_1 => exact State.writeCommand_serves hl via v
  case h_2 => exact State.onlyOne_serves (serves_withRoom hl _ (s.serves_odRow via (by decide) ..))
  case h_3 => exact State.onlyOne_serves (serves_withRoom hl _ (s.serves_odRow via (by decide) ..))
  case h_11 => exact State.onlyOne_serves (serves_withRoom hl _ (s.serves_odRow via (by decide) ..))
  case h_14 => exact State.onlyOne_serves (serves_withRoom hl _ (s.serves_odRow via (by decide) ..))
  case h_15 => exact s.serves_odRow via (by decide) ..
  case h_16 => exact s.serves_odRow via (by decide) ..
  case h_20 => exact s.writePlain_serves ..
  all_goals exact serves_withRoom hl _ (s.serves_odRow via (by decide) ..)

/-- A STR or DOMAIN entry. -/
theorem State.writeBytesEntry_serves {s : State} (hl : s.log.roomy = true) (via : OdPath) (idx sub : Nat) (bs : List Byte) :
    s.Serves via idx sub 0 (s.writeBytesEntry via idx sub bs) := by
  unfold State.writeBytesEntry
  split
  case h_6 => exact s.writeRefused_serves ..
  all_goals exact serves_withRoom hl _ (s.serves_odRow_same ..)

/-! Entries at consecutive indices: each command takes the number of its entry among them. -/

section
variable {s : State} (hl : s.log.roomy = true) (c : Instr) {via : OdPath} {base count idx sub : Nat}
  (hb : 0x1002 < base) (hlo : base ≤ idx) (hhi : idx < base + count) (v x : Nat) (f : State → OdRow → Served)
include hl hb hlo hhi

theorem State.serves_numbered : s.Serves via idx sub v ((withRoom c s
    (if count ≤ idx - base then .next s else .next (s.odRow via (base + (idx - base)) sub x f))).state s) := by
  rw [if_neg (by omega), Nat.add_sub_cancel' hlo]
  exact serves_withRoom hl c (s.serves_odRow via (by omega) ..)

/-- The same, for a command that looks at its number in the other order. -/
theorem State.serves_numbered' : s.Serves via idx sub v ((withRoom c s
    (.next (if idx - base < count then s.odRow via (base + (idx - base)) sub x f else s))).state s) := by
  rw [if_pos (by omega), Nat.add_sub_cancel' hlo]
  exact serves_withRoom hl c (s.serves_odRow via (by omega) ..)

end

theorem setType?_ge {idx : Nat} (h : (setType? idx).isSome = true) : 0x3100 ≤ idx := by
  unfold setType? at h
  split at h
  · omega
  split at h
  · omega
  split at h
  · omega
  split at h
  · omega
  · exact absurd h (by decide)

theorem execPsel_serves {s : State} (hl : s.log.roomy = true) (via : OdPath) {idx sub : Nat} (hi : idx < 2 ^ 16)
    (h : (setType? idx).isSome = true) (hs : 0x0A ≤ sub ∧ sub ≤ 0x11) (v : Nat) (x : BitVec 64) :
    s.Serves via idx sub v ((execPsel via (BitVec.ofNat 16 idx) (sub - 0x0A) x s).state s) := by
  have hge := setType?_ge h
  obtain ⟨ty, hty⟩ := Option.isSome_iff_exists.mp h
  unfold execPsel
  dsimp only
  rw [BitVec.toNat_ofNat, Nat.mod_eq_of_lt hi, if_pos (by omega), hty, Nat.add_sub_cancel' hs.1]
  exact State.serves_withRoom hl _ (s.serves_odRow via (by omega) ..)

theorem execPctl_serves {s : State} (hl : s.log.roomy = true) (via : OdPath) {idx : Nat} (hi : idx < 2 ^ 16)
    (h : (setType? idx).isSome = true) (v : Nat) (x : BitVec 32) :
    s.Serves via idx 0x12 v ((execPctl via (BitVec.ofNat 16 idx) x s).state s) := by
  have hge := setType?_ge h
  obtain ⟨ty, hty⟩ := Option.isSome_iff_exists.mp h
  unfold execPctl
  dsimp only
  rw [BitVec.toNat_ofNat, Nat.mod_eq_of_lt hi, hty]
  exact State.serves_withRoom hl _ (s.serves_odRow via (by omega) ..)

/-- A numeric entry. -/
theorem State.writeNumeric_serves {s : State} (hl : s.log.roomy = true) (via : OdPath) {idx sub : Nat} (hi : idx < 2 ^ 16)
    (v : Nat) : s.Serves via idx sub v (s.writeNumeric via idx sub v) := by
  unfold State.writeNumeric
  refine serves_ite (fun ⟨hlo, hhi, h⟩ => h ▸ serves_numbered (count := 8) hl _ (by decide) hlo (by omega) ..) fun _ => ?_
  refine serves_ite (fun ⟨hlo, hhi, h⟩ => h ▸ serves_numbered (count := 8) hl _ (by decide) hlo (by omega) ..) fun _ => ?_
  refine serves_ite (fun ⟨hlo, hhi, h⟩ => h ▸ serves_numbered (count := 4) hl _ (by decide) hlo (by omega) ..) fun _ => ?_
  refine serves_ite (fun ⟨hlo, hhi, h⟩ => h ▸ serves_numbered (count := 16) hl _ (by decide) hlo (by omega) ..) fun _ => ?_
  refine serves_ite (fun ⟨hlo, hhi, h⟩ => h ▸ serves_numbered' (count := 16) hl _ (by decide) hlo (by omega) ..) fun _ => ?_
  refine serves_ite (fun ⟨hlo, hhi, h⟩ => h ▸ writeAttach_serves hl via ⟨hlo, hhi⟩ ..) fun _ => ?_
  refine serves_ite (fun ⟨hlo, hhi, h⟩ => h ▸ serves_numbered' (count := 16) hl _ (by decide) hlo (by omega) ..) fun _ => ?_
  refine serves_ite (fun ⟨ht, hs⟩ => execPsel_serves hl via hi ht hs ..) fun _ => ?_
  refine serves_ite (fun ⟨ht, h⟩ => h ▸ execPctl_serves hl via hi ht ..) fun _ => ?_
  refine serves_ite (fun ⟨hlo, hhi, h⟩ => h ▸ serves_numbered (count := 64) hl _ (by decide) hlo (by omega) ..) fun _ => ?_
  refine serves_ite (fun ⟨hlo, hhi, h⟩ => h ▸ serves_numbered (count := 64) hl _ (by decide) hlo (by omega) ..) fun _ => ?_
  exact State.writeSingle_serves hl ..

/-- The value that a write gives its entry: the bytes of the entry's size. -/
def writeValue (idx sub : Nat) (bs : List Byte) : Nat :=
  bytesNat (match odRow? idx sub with
    | some r => bs.take r.ty.size
    | none => bs)

theorem writeValue_of_row {idx sub : Nat} {r : OdRow} (h : odRow? idx sub = some r) (bs : List Byte) :
    writeValue idx sub bs = bytesNat (bs.take r.ty.size) := by
  unfold writeValue
  rw [h]

theorem OdType.size_of_long {t : OdType} : t.numeric = false → t.size = 0 := by
  cases t <;> decide

/-- A write on a path other than direct access. -/
theorem State.odWriteVia_serves {s : State} (hl : s.log.roomy = true) {via : OdPath} (ho : s.pathOpen via = true)
    (hv : via ≠ .direct) {idx : Nat} (hi : idx < 2 ^ 16) (sub : Nat) (bs : List Byte) :
    s.Serves via idx sub (writeValue idx sub bs) (s.odWriteVia via idx sub bs) := by
  unfold State.odWriteVia writeValue
  rw [if_neg (by simp [ho]), if_neg fun h => hv h.1, if_neg fun h => hv h.1]
  cases hr : Sys2Proof.Machine.odRow? idx sub with
  | none => exact s.writeRefused_serves ..
  | some r =>
    refine serves_ite (fun _ => ?_) fun hn => ?_
    · exact serves_ite (fun _ => s.writeRefused_serves ..) fun _ => State.writeNumeric_serves hl via hi _
    · have h0 : r.ty.size = 0 := OdType.size_of_long (by simpa using hn)
      dsimp only
      rw [h0]
      exact State.writeBytesEntry_serves hl ..

/-- What `withAccess` lets through: the access right in the state of the device, and the value's type and listing (R38). -/
theorem withAccess_eq (v : Nat) (h : State → Status × State) (s : State) (r : OdRow) :
    withAccess v h s r =
      if s.accessOk r.access = true ∧ r.ty.accepts v = true ∧ r.check.accepts v = true then .now (h s).1 (h s).2
      else .now Status.refused s := by
  unfold withAccess
  dsimp only
  by_cases k : s.accessOk r.access = true ∧ r.ty.accepts v = true ∧ r.check.accepts v = true
  · rw [if_pos k, if_neg (by simp [k])]
  · rw [if_neg k, if_pos]
    by_contra l
    exact k (by simpa [not_or] using l)

/-! ### Entries that hold a value and nothing more -/

/-- An entry of row `r` to which no rule applies beyond its own listing. -/
structure PlainEntry (idx sub : Nat) (r : OdRow) : Prop where
  row : odRow? idx sub = some r
  numeric : r.ty.numeric = true
  range : odRange? idx ≠ none
  always : ∀ s : State, s.odRow? idx sub = Sys2Proof.Machine.odRow? idx sub
  behaviour : ∀ (s : State) via v, s.writeNumeric via idx sub v = s.writePlain via idx sub v
  allowed : ∀ (s : State) v, s.plainRefused idx sub v = false
  stored : ∀ (s : State) v, s.plainLeft idx sub (plainStored r idx sub v) = v
  alone : ∀ s : State, s.tieRule idx sub = s
  plan : ¬(idx = 0x2310 ∨ idx = 0x2350)

/-- The ten that the statement names. -/
theorem plainEntry_of_mem {idx sub : Nat} (h : (idx, sub) ∈ [(0x1003, 0x01), (0x1200, 0x05), (0x2001, 0x02), (0x2140, 0x01),
    (0x2201, 0x01), (0x2320, 0x01), (0x2320, 0x02), (0x2360, 0x01), (0x2600, 0x02), (0x2600, 0x03)]) :
    ∃ r, PlainEntry idx sub r := by
  simp only [List.mem_cons, Prod.mk.injEq, List.not_mem_nil, or_false] at h
  rcases h with ⟨rfl, rfl⟩ | ⟨rfl, rfl⟩ | ⟨rfl, rfl⟩ | ⟨rfl, rfl⟩ | ⟨rfl, rfl⟩ | ⟨rfl, rfl⟩ | ⟨rfl, rfl⟩ | ⟨rfl, rfl⟩ |
    ⟨rfl, rfl⟩ | ⟨rfl, rfl⟩
  all_goals exact ⟨_, rfl, rfl, by decide, fun _ => rfl, fun _ _ _ => rfl, fun _ _ => rfl, fun _ _ => rfl, fun _ => rfl,
    by decide⟩

/-- A write of such an entry that is not denied is REFUSED for its access right, the state, its length or its value, and
else stores the value. -/
theorem PlainEntry.odWriteVia {idx sub : Nat} {r : OdRow} (p : PlainEntry idx sub r) {s : State} {via : OdPath}
    (ho : s.pathOpen via = true) (hv : via ≠ .direct) (bs : List Byte)
    (hd : s.writeDenied via idx sub (writeValue idx sub bs) = false) :
    s.odWriteVia via idx sub bs =
      if s.accessOk r.access = true ∧ bs.length = r.ty.size ∧ r.ty.accepts (writeValue idx sub bs) = true ∧
        r.check.accepts (writeValue idx sub bs) = true
      then (s.odSet (Od.key idx sub) (writeValue idx sub bs)).answerWrite via idx sub Status.ok
      else s.answerWrite via idx sub Status.refused := by
  have served := State.odRow_exists ho hd p.range ((p.always s).trans p.row)
  unfold State.odWriteVia
  rw [if_neg (by simp [ho]), if_neg fun h => hv h.1, if_neg fun h => hv h.1, p.row]
  dsimp only
  rw [← writeValue_of_row p.row, if_pos p.numeric]
  by_cases hn : bs.length = r.ty.size
  case neg =>
    rw [if_pos ⟨hv, hn⟩, if_neg (by simp [hn])]
    exact served _
  rw [if_neg (by simp [hn]), p.behaviour]
  unfold State.writePlain
  rw [served]
  rw [withAccess_eq]
  simp only [p.allowed, p.stored, p.alone, p.plan, Bool.false_eq_true, if_false]
  by_cases h : s.accessOk r.access = true ∧ r.ty.accepts (writeValue idx sub bs) = true ∧
    r.check.accepts (writeValue idx sub bs) = true
  · rw [if_pos h, if_pos ⟨h.1, hn, h.2⟩]
    rfl
  · rw [if_neg h, if_neg fun k => h ⟨k.1, k.2.2⟩]
    rfl

theorem execOdWrite_roomy {s : State} (hl : s.log.roomy = true) (via : OdPath) (index : BitVec 16) (sub : BitVec 8)
    (bs : List Byte) : exec (.odWrite via index sub bs) s = .next (s.odWriteVia via index.toNat sub.toNat bs) :=
  withRoom_roomy hl (.odWrite via index sub bs) (.next (s.odWriteVia via index.toNat sub.toNat bs))

/-- Settles O39: every behaviour checks level and existence first (`State.Serves`), and the ten entries have no rule beyond
their listing (`PlainEntry`). -/
theorem dictionaryWrites : Obligations.DictionaryWrites := by
  unfold Obligations.DictionaryWrites
  intro s via index sub bs hl ho hv
  extract_lets idx sb row v answer
  have value : v = writeValue idx sb bs := rfl
  clear_value v
  subst value
  have answers : ∀ {st t}, s.odWriteVia via idx sb bs = t.answerWrite via idx sb st → answer st t :=
    fun h => (execOdWrite_roomy hl via index sub bs).trans (congrArg _ h)
  obtain ⟨v', f, hlevel, heq⟩ := State.odWriteVia_serves hl ho hv index.isLt sb bs
  refine ⟨fun hd => answers ?_, fun hd hn => answers ?_, fun hmem hd r hr => ?_⟩
  · rw [heq, State.odRow_denied ho (hlevel.trans hd)]
  · rw [heq, State.odRow_notFound ho (hlevel.trans hd) hn]
  · obtain ⟨q, p⟩ := plainEntry_of_mem hmem
    obtain rfl : q = r := Option.some.inj (p.row.symm.trans ((p.always s).symm.trans hr))
    have wrote := p.odWriteVia ho hv bs hd
    exact ⟨fun h => answers (wrote.trans (if_neg h)), fun h => answers (wrote.trans (if_pos h))⟩

end Sys2Proof.Machine
end

section
/-! SUPPORT and proof. Why a request is not performed at its target (R11, R262, R269, R270). -/

namespace Sys2Proof.Machine
open Sys2Proof

/-! ### The key check (R269, R270) -/

theorem State.keyCheck_uncovered {s : State} {a n : Nat} (h : s.region? a n = none) (key : BitVec 32) (acc : Access)
    (level : Nat) (remote : Bool) : s.keyCheck a n key acc level remote = some (Status.keyMismatch, 0x02) := by
  unfold State.keyCheck
  rw [h]

theorem State.keyCheck_otherKey {s : State} {a n : Nat} {e : BitVec 128} (h : s.region? a n = some e) {key : BitVec 32}
    (hk : key = 0 ∨ regKey e ≠ key) (acc : Access) (level : Nat) (remote : Bool) :
    s.keyCheck a n key acc level remote = some (Status.keyMismatch, 0x03) := by
  unfold State.keyCheck
  rw [h]
  exact if_pos hk

theorem State.keyCheck_denied {s : State} {a n : Nat} {e : BitVec 128} (h : s.region? a n = some e) {key : BitVec 32}
    (h0 : key ≠ 0) (hk : regKey e = key) {acc : Access} {level : Nat} {remote : Bool}
    (hd : regLevel e < level ∨ (remote = true ∧ e.getLsbD 5 = false) ∨ e.getLsbD acc.bit = false) :
    s.keyCheck a n key acc level remote = some (Status.denied, 0) := by
  unfold State.keyCheck
  rw [h]
  dsimp only
  rw [if_neg (not_or.mpr ⟨h0, not_not.mpr hk⟩), if_pos (by simpa using hd)]

/-- A failed key check changes counters and the log, and nothing else. -/
theorem State.keyRefused_frame (s : State) (inport : Option Nat) (addr : Nat) (st : Status) (d : BitVec 8) (src : Coord)
    (master : BitVec 8) (priv : BitVec 2) (job : BitVec 16) :
    let t := s.keyRefused inport addr st d src master priv job
    t = { s with od := t.od, log := t.log } := by
  have counted : ∀ p a, ∃ o, (s.odAdd (Od.portKeyMismatch p) 1).count (portSet p) 0x0907 1 a = { s with od := o } :=
    fun p a => ⟨_, (State.count_frame _ _ _ _ _).rest⟩
  intro t
  unfold t State.keyRefused
  cases inport with
  | none => dsimp only; split <;> rfl
  | some p =>
    obtain ⟨o, ho⟩ := counted p { Attr.none with master := some master.toNat, priv := some priv.toNat }
    dsimp only
    rw [ho]
    split <;> rfl

theorem State.keyRefused_memByte (s : State) (inport : Option Nat) (addr : Nat) (st : Status) (d : BitVec 8) (src : Coord)
    (master : BitVec 8) (priv : BitVec 2) (job : BitVec 16) (a : Nat) :
    (s.keyRefused inport addr st d src master priv job).memByte a = s.memByte a := by
  rw [State.keyRefused_frame]
  rfl

/-- Its count at the ingress port. -/
theorem State.keyRefused_counts (s : State) (p addr : Nat) (st : Status) (d : BitVec 8) (src : Coord)
    (master : BitVec 8) (priv : BitVec 2) (job : BitVec 16) :
    (s.keyRefused (some p) addr st d src master priv job).odGet (Od.portKeyMismatch p) =
      (s.odGet (Od.portKeyMismatch p) + 1) % 2 ^ 64 := by
  have counted : ∀ a, ((s.odAdd (Od.portKeyMismatch p) 1).count (portSet p) 0x0907 1 a).odGet (Od.portKeyMismatch p) =
      (s.odGet (Od.portKeyMismatch p) + 1) % 2 ^ 64 := by
    intro a
    rw [(State.count_frame _ _ _ _ _).od _ (by intro i hi; unfold Od.portKeyMismatch Od.key portSet; omega)
      (by unfold Od.portKeyMismatch Od.key portSet; omega)]
    unfold State.odAdd
    rw [State.odGet_odSet, if_pos rfl]
  unfold State.keyRefused
  dsimp only
  split
  · exact counted _
  · exact counted _

/-! ### A request at its target (R11, R262) -/

/-- A request whose shape does not fit its OP, or of the level 0b11. -/
theorem State.serveReq_unshaped {s : State} {r : Req} (h : reqShape r.op r.len = none ∨ r.priv = 3) :
    s.serveReq r = s.refuseReq r := by
  unfold State.serveReq
  have : (if r.priv = 3 then none else reqShape r.op r.len) = none := by
    rcases h with h | h <;> simp [h]
  rw [this]

section
variable {s : State} {r : Req} {n align plen : Nat} {acc : Access}
  (hs : reqShape r.op r.len = some (n, acc, align, plen)) (hp : r.priv ≠ 3)
include hs hp

theorem State.serveReq_empty (hn : n = 0) : s.serveReq r = (Resp.fail Status.notFound 0, none, s) := by
  unfold State.serveReq
  rw [if_neg hp, hs]
  simp [hn]

theorem State.serveReq_unmapped (hn : 0 < n) (hm : s.mapped (s.jobSide r.job) r.addr n = false)
    (hk : ∀ d, s.keyCheck r.addr n r.key acc r.priv.toNat r.inport.isSome ≠ some (Status.denied, d)) :
    s.serveReq r = (Resp.fail Status.notFound 0, none, s) := by
  unfold State.serveReq
  rw [if_neg hp, hs]
  dsimp only
  rw [if_neg (by omega)]
  cases h : s.keyCheck r.addr n r.key acc r.priv.toNat r.inport.isSome with
  | none => simp [hm]
  | some x =>
    have : x.1 ≠ Status.denied := fun e => hk x.2 (by rw [h, ← e])
    simp [hm, this]

theorem State.serveReq_keyFails (hn : 0 < n) {st : Status} {d : BitVec 8}
    (hk : s.keyCheck r.addr n r.key acc r.priv.toNat r.inport.isSome = some (st, d))
    (hm : s.mapped (s.jobSide r.job) r.addr n = true ∨ st = Status.denied) :
    s.serveReq r = (Resp.fail st d, none, s.keyRefused r.inport r.addr st d r.src r.master r.priv r.job) := by
  unfold State.serveReq
  rw [if_neg hp, hs]
  dsimp only
  rw [if_neg (by omega), hk]
  have h0 : n ≠ 0 := by omega
  rcases hm with hm | hm <;> simp [hm, h0]

theorem State.serveReq_misfit (hn : 0 < n) (hk : s.keyCheck r.addr n r.key acc r.priv.toNat r.inport.isSome = none)
    (hm : s.mapped (s.jobSide r.job) r.addr n = true) (hf : r.payload.length ≠ plen ∨ r.addr % align ≠ 0) :
    s.serveReq r = (Resp.fail Status.refused 0, none, s) := by
  unfold State.serveReq
  rw [if_neg hp, hs]
  dsimp only
  rw [if_neg (by omega), hk]
  have h0 : n ≠ 0 := by omega
  rcases hf with hf | hf <;> simp [hm, hf, h0]

end

section
variable {s : State} {r : Req} {m : Nat} (hm : ((reqShape r.op r.len).map (·.1)).getD (max 1 r.len) = m)
include hm

theorem State.refuseReq_unmapped (h : m = 0 ∨ s.mapped (s.jobSide r.job) r.addr m = false) :
    s.refuseReq r = (Resp.fail Status.notFound 0, none, s) := by
  unfold State.refuseReq
  dsimp only
  rw [hm, if_pos (by simpa using h)]

theorem State.refuseReq_otherKey (h0 : 0 < m) (h : s.mapped (s.jobSide r.job) r.addr m = true) {d : BitVec 8}
    (hk : s.keyCheck r.addr m r.key .read 0 false = some (Status.keyMismatch, d)) :
    s.refuseReq r = (Resp.fail Status.keyMismatch d, none,
      s.keyRefused r.inport r.addr Status.keyMismatch d r.src r.master r.priv r.job) := by
  unfold State.refuseReq
  dsimp only
  rw [hm, if_neg (by simp [h]; omega), hk]
  rfl

theorem State.refuseReq_sameKey (h0 : 0 < m) (h : s.mapped (s.jobSide r.job) r.addr m = true)
    (hk : ∀ d, s.keyCheck r.addr m r.key .read 0 false ≠ some (Status.keyMismatch, d)) :
    s.refuseReq r = (Resp.fail Status.refused 0, none, s) := by
  unfold State.refuseReq
  dsimp only
  rw [hm, if_neg (by simp [h]; omega)]
  cases e : s.keyCheck r.addr m r.key .read 0 false with
  | none => rfl
  | some x =>
    have : x.1 ≠ Status.keyMismatch := fun k => hk x.2 (by rw [e, ← k])
    exact if_neg this

end

/-- Settles O25, by the checks of `State.serveReq` and `State.refuseReq` in the order of R11. -/
theorem requestsNotPerformed : Obligations.RequestsNotPerformed := by
  unfold Obligations.RequestsNotPerformed
  intro s r q m
  refine ⟨fun hu => ⟨fun hm => ?_, fun h0 hm => ⟨fun d hk => ?_, fun hk => ?_⟩⟩, fun n acc align plen hs hp => ?_⟩
  · exact (State.serveReq_unshaped hu).trans (State.refuseReq_unmapped rfl hm)
  · have e : q = _ := (State.serveReq_unshaped hu).trans (State.refuseReq_otherKey rfl h0 hm hk)
    rw [e]
    exact ⟨rfl, rfl, fun a => s.keyRefused_memByte ..⟩
  · exact (State.serveReq_unshaped hu).trans (State.refuseReq_sameKey rfl h0 hm hk)
  · have fails : 0 < n → ∀ {st d}, s.keyCheck r.addr n r.key acc r.priv.toNat r.inport.isSome = some (st, d) →
        s.mapped (s.jobSide r.job) r.addr n = true ∨ st = Status.denied →
        q = (Resp.fail st d, none, s.keyRefused r.inport r.addr st d r.src r.master r.priv r.job) :=
      fun h0 _ _ hk hm => State.serveReq_keyFails hs hp h0 hk hm
    refine ⟨State.serveReq_empty hs hp, State.serveReq_unmapped hs hp, fun h0 st d hk hm => ?_,
      fun h0 hk hm => State.serveReq_misfit hs hp h0 hk hm,
      fun h0 hm => ⟨fun hr => ?_, fun e hr => ⟨fun hk => ?_, fun hz hk hd => ?_⟩⟩⟩
    · rw [fails h0 hk hm]
      refine ⟨rfl, rfl, fun a => s.keyRefused_memByte .., fun p hport => ?_⟩
      rw [hport]
      exact s.keyRefused_counts ..
    · rw [fails h0 (State.keyCheck_uncovered hr ..) (.inl hm)]
    · rw [fails h0 (State.keyCheck_otherKey hr hk ..) (.inl hm)]
    · rw [fails h0 (State.keyCheck_denied hr hz hk hd) (.inl hm)]

end Sys2Proof.Machine
end

section
/-! SUPPORT and proof. What stops a remote instruction at issue, and FENCE.R (R265, R272). -/

namespace Sys2Proof.Machine
open Sys2Proof

/-! ### Fields of an instruction word

The fields above the opcode are those of the bits above it, whatever the opcode. -/

theorem opWord_extractLsb' (f : BitVec 48) (op op' lo n : Nat) (h : 16 ≤ lo) :
    (opWord f op).extractLsb' lo n = (opWord f op').extractLsb' lo n := by
  ext i hi
  simp only [opWord, BitVec.getElem_extractLsb', BitVec.getLsbD_append]
  rw [if_neg (by omega), if_neg (by omega)]

theorem opWord_getLsbD (f : BitVec 48) (op op' i : Nat) (h : 16 ≤ i) :
    (opWord f op).getLsbD i = (opWord f op').getLsbD i := by
  simp only [opWord, BitVec.getLsbD_append]
  rw [if_neg (by omega), if_neg (by omega)]

theorem fld_opWord (f : BitVec 48) (op op' lo n : Nat) (h : 16 ≤ lo) : fld (opWord f op) lo n = fld (opWord f op') lo n :=
  congrArg BitVec.toNat (opWord_extractLsb' f op op' lo n h)

theorem fVA_opWord (f : BitVec 48) (op op' : Nat) : fVA (opWord f op) = fVA (opWord f op') :=
  fld_opWord f op op' 29 8 (by decide)
theorem fVB_opWord (f : BitVec 48) (op op' : Nat) : fVB (opWord f op) = fVB (opWord f op') :=
  fld_opWord f op op' 37 8 (by decide)
theorem fVD_opWord (f : BitVec 48) (op op' : Nat) : fVD (opWord f op) = fVD (opWord f op') :=
  fld_opWord f op op' 21 8 (by decide)

theorem Group.runs_opWord (gr : Group) (f : BitVec 48) (op op' i : Nat) :
    gr.runs (opWord f op) i = gr.runs (opWord f op') i := by
  unfold Group.runs Group.guard
  rw [opWord_getLsbD f op op' 20 (by decide), opWord_getLsbD f op op' 19 (by decide),
    fld_opWord f op op' 16 3 (by decide)]

theorem remoteBase_opWord (f : BitVec 48) (op op' : Nat) (gr : Group) (i : Nat) :
    remoteBase (opWord f op) gr i = remoteBase (opWord f op') gr i := by
  unfold remoteBase
  rw [fVA_opWord f op op']

theorem remoteAddr_opWord (fm : RemoteForm) (f : BitVec 48) (op op' : Nat) (gr : Group) (i : Nat) :
    remoteAddr fm (opWord f op) gr i = remoteAddr fm (opWord f op') gr i := by
  unfold remoteAddr
  rw [remoteBase_opWord f op op', opWord_extractLsb' f op op' 45 13 (by decide)]

theorem remoteFails_opWord (s : State) (core : Nat) (fm : RemoteForm) (f : BitVec 48) (op op' : Nat) (gr : Group)
    (i : Nat) : s.remoteFails core fm (opWord f op) gr i = s.remoteFails core fm (opWord f op') gr i := by
  have tc : remoteTc (opWord f op) gr = remoteTc (opWord f op') gr := by
    unfold remoteTc fKeyReg
    rw [fld_opWord f op op' 58 6 (by decide)]
  have mc : fMc (opWord f op) = fMc (opWord f op') := by
    unfold fMc
    rw [opWord_extractLsb' f op op' 50 6 (by decide), opWord_getLsbD f op op' 56 (by decide),
      opWord_getLsbD f op op' 57 (by decide)]
  unfold State.remoteFails State.remoteKeyFail
  rw [remoteAddr_opWord fm f op op', remoteBase_opWord f op op', tc, mc]

/-! ### One executing lane -/

theorem maskOf_single {i : Nat} {p : Nat → Bool} (hp : ∀ j, p j = true ↔ j = i) :
    maskOf p = BitVec.ofNat 32 (2 ^ i) := by
  apply BitVec.eq_of_getLsbD_eq
  intro j hj
  rw [maskOf_getLsbD _ _ hj, BitVec.getLsbD_ofNat, Nat.testBit_two_pow, Bool.eq_iff_iff, hp]
  simp [hj, eq_comm]

theorem Group.execLanes_single {gr : Group} {w : BitVec 64} {i : Nat} (hi : i < 32)
    (h : ∀ j < 32, gr.runs w j = true ↔ j = i) : gr.execLanes w = [i] := by
  have sorted : (gr.execLanes w).Pairwise (· < ·) := List.Pairwise.filter _ List.pairwise_lt_range
  have mem : ∀ j, j ∈ gr.execLanes w ↔ j ∈ [i] := by
    intro j
    rw [Group.mem_execLanes, List.mem_singleton]
    exact ⟨fun ⟨hj, hr⟩ => (h j hj).mp hr, fun e => e ▸ ⟨hi, (h i hi).mpr rfl⟩⟩
  exact (List.perm_ext_iff_of_nodup (sorted.imp Nat.ne_of_lt) (List.nodup_singleton i)).mpr mem |>.eq_singleton

theorem lowestCause_mem {fs : List Fail} {c : BitVec 4} : lowestCause fs = some c → ∃ x ∈ fs, x.cause = c := by
  induction fs generalizing c with
  | nil => nofun
  | cons f fs ih =>
    unfold lowestCause
    cases h : lowestCause fs with
    | none => intro e; exact ⟨f, .head _, Option.some.inj e⟩
    | some d =>
      dsimp only
      obtain ⟨x, hx, rfl⟩ := ih h
      split
      · intro e; exact ⟨f, .head _, Option.some.inj e⟩
      · intro e; exact ⟨x, .tail _ hx, Option.some.inj e⟩

theorem lowestCause_first {q : Fail} {fs : List Fail} (h : ∀ x ∈ fs, q.cause ≤ x.cause) :
    lowestCause (q :: fs) = some q.cause := by
  unfold lowestCause
  cases e : lowestCause fs with
  | none => rfl
  | some c =>
    obtain ⟨x, hx, rfl⟩ := lowestCause_mem e
    exact congrArg some (if_pos (h x hx))

/-- The exception of conditions that one lane meets, of which the first has the lowest cause. -/
theorem excOfFails_lane {q : Fail} {fs : List Fail} (h : ∀ x ∈ fs, x.lane = q.lane ∧ q.cause ≤ x.cause) :
    excOfFails (q :: fs) = some ⟨q.cause, q.detail, 0, q.aux, q.addr, BitVec.ofNat 32 (2 ^ q.lane)⟩ := by
  have first : (q :: fs).find? (fun f => decide (f.cause = q.cause)) = some q := by simp
  have lanes : ∀ j, ((q :: fs).any fun f => decide (f.cause = q.cause) && decide (f.lane = j)) = true ↔ j = q.lane := by
    intro j
    simp only [List.any_eq_true, Bool.and_eq_true, decide_eq_true_eq]
    constructor
    · rintro ⟨x, hx, -, rfl⟩
      rcases List.mem_cons.mp hx with rfl | hx
      · rfl
      · exact (h x hx).1
    · rintro rfl
      exact ⟨q, .head _, rfl, rfl⟩
  unfold excOfFails
  rw [lowestCause_first fun x hx => (h x hx).2]
  dsimp only
  rw [first, maskOf_single lanes]

/-! ### Remote instructions at issue (R13, R265) -/

theorem State.remoteFails_unaligned {s : State} {core : Nat} {fm : RemoteForm} {w : BitVec 64} {gr : Group} {i : Nat}
    (h : (remoteAddr fm w gr i).toNat % fm.n ≠ 0) :
    ∃ fs, (fs = [] ∨ ∃ d aux, fs = [⟨i, cKey, d, aux, remoteAddr fm w gr i⟩]) ∧
      s.remoteFails core fm w gr i = ⟨i, cAlignment, 0x01, 0xFF, remoteAddr fm w gr i⟩ :: fs := by
  unfold State.remoteFails
  dsimp only
  rw [if_pos h]
  cases s.remoteKeyFail core fm w gr i with
  | none => exact ⟨[], .inl rfl, rfl⟩
  | some x => exact ⟨_, .inr ⟨x.1, x.2, rfl⟩, rfl⟩

theorem State.remoteFails_key {s : State} {core : Nat} {fm : RemoteForm} {w : BitVec 64} {gr : Group} {i : Nat}
    (h : (remoteAddr fm w gr i).toNat % fm.n = 0) {d aux : BitVec 8} (hk : s.remoteKeyFail core fm w gr i = some (d, aux)) :
      s.remoteFails core fm w gr i = [⟨i, cKey, d, aux, remoteAddr fm w gr i⟩] := by
  unfold State.remoteFails
  dsimp only
  rw [if_neg (not_not.mpr h), hk]
  rfl

section
variable {s : State} {core : Nat} {fm : RemoteForm} {w : BitVec 64} {gr : Group} {i : Nat}

/-- Bits [63:52] of the register pair and of the address are 0 (R190). -/
def GlobalAddr (fm : RemoteForm) (w : BitVec 64) (gr : Group) (i : Nat) : Prop :=
  (remoteBase w gr i).extractLsb' 52 12 = 0 ∧ (remoteAddr fm w gr i).extractLsb' 52 12 = 0

theorem State.remoteKeyFail_notGlobal (h : ¬GlobalAddr fm w gr i) : s.remoteKeyFail core fm w gr i = some (0x01, 0xFF) :=
  if_pos (not_and_or.mp h)

/-- The later conditions of an address at another place. -/
theorem State.remoteKeyFail_elsewhere (h : GlobalAddr fm w gr i) (hp : addrPlace (remoteAddr fm w gr i) ≠ s.place) :
    let p := addrPlace (remoteAddr fm w gr i)
    (s.inPlan p = false → s.remoteKeyFail core fm w gr i = some (0x02, 0xFF)) ∧
    (s.inPlan p = true → regionOf (addrLocal (remoteAddr fm w gr i)) ≠ .unmapped → s.subst p ≠ s.place →
      s.route s.place (s.subst p) = none → s.remoteKeyFail core fm w gr i = some (0x05, Status.planMismatch)) := by
  intro p
  have own : ¬(p = s.place ∧ s.subst p = p) := fun k => hp k.1
  have global : ¬((remoteBase w gr i).extractLsb' 52 12 ≠ 0 ∨ (remoteAddr fm w gr i).extractLsb' 52 12 ≠ 0) :=
    not_or.mpr ⟨not_not.mpr h.1, not_not.mpr h.2⟩
  unfold State.remoteKeyFail
  dsimp only
  rw [if_neg global, if_neg fun k => hp k.1, if_neg own]
  refine ⟨fun ho => ?_, fun ho hm hs hr => ?_⟩
  · exact if_pos (by simp [p, ho])
  · rw [if_neg (by simp [p, ho, hm]), if_pos ⟨hs, hr⟩]

end

/-- A held instruction whose lanes meet a condition raises it. -/
theorem heldIssue_raises {s : State} {g : GroupRef} {gr : Group} (hr : Ready s g gr) {w : BitVec 64} {cls : Nat}
    {fm : RemoteForm} {regs : List (Nat × Nat)} (txs : Group → List Nat → List LaneTx)
    (hregs : regsOk (s.vregs g.core) ((fVA w, 2) :: regs) = true) {e : Exc}
    (he : excOfFails ((gr.execLanes w).flatMap (s.remoteFails g.core fm w gr)) = some e) :
    heldIssue g w cls fm regs txs s = .next ((s.countSlot g.core 0x0302 cls).takeExc g w e) := by
  have goes : s.remoteWaits g fm w gr regs (txs gr (gr.execLanes w)).length = false := by
    unfold State.remoteWaits
    dsimp only
    rw [he]
    simp
  unfold heldIssue
  rw [hr.issuer]
  dsimp only
  rw [goes, if_neg (by simp)]
  unfold remoteIssue
  rw [issue_ready hr, checked_ok _ rfl hregs]
  dsimp only
  rw [he]

/-! ### FENCE.R (R272) -/

theorem firstFail_mem {fs : List PostFail} {q : PostFail} : firstFail fs = some q → q ∈ fs := by
  induction fs generalizing q with
  | nil => nofun
  | cons f fs ih =>
    unfold firstFail
    cases h : firstFail fs with
    | none => intro e; cases e; exact .head _
    | some r =>
      dsimp only
      split
      · intro e; cases e; exact .head _
      · intro e; cases e; exact .tail _ (ih h)

/-- It is the one that issued first, and the first of those in the list. -/
theorem firstFail_append {q : PostFail} {y : List PostFail} (hy : ∀ z ∈ y, q.seq ≤ z.seq) :
    ∀ {x : List PostFail}, (∀ z ∈ x, q.seq < z.seq) → firstFail (x ++ q :: y) = some q
  | [], _ => by
    rw [List.nil_append, firstFail]
    cases h : firstFail y with
    | none => rfl
    | some r => exact congrArg some (if_pos (hy r (firstFail_mem h)))
  | f :: x, hx => by
    rw [List.cons_append, firstFail, firstFail_append hy fun z hz => hx z (.tail _ hz)]
    exact congrArg some (if_neg (Nat.not_le.mpr (hx f (.head _))))

theorem State.issuer_hold {s : State} {g : GroupRef} {gr : Group} (h : s.issuer g = some gr) : gr.hold = .none := by
  unfold State.issuer at h
  split at h
  · split at h
    next hc =>
      cases h
      simp at hc
      exact hc.1.1
    · cases h
  · cases h

/-- `FENCE.R` of a group that may issue. -/
theorem execFenceR_ready {s : State} {g : GroupRef} {gr : Group} (h : Ready s g gr) (f : BitVec 48) :
    exec (.fenceR g f) s = .next (match s.fenceCheck g gr (opWord f 0x8030) with
      | .exc e => (s.countSlot g.core 0x0302 8).takeExc g (opWord f 0x8030) e
      | .excAfter e t => (t.countSlot g.core 0x0302 8).takeExc g (opWord f 0x8030) e
      | .done t => t.countSlot g.core 0x0301 8) :=
  issue_ready h (opWord f 0x8030) 8 fun s gr => s.fenceCheck g gr (opWord f 0x8030)

theorem State.fenceCheck_waits {s : State} {g : GroupRef} (h : s.groupPosting g = true) (gr : Group) (w : BitVec 64) :
    s.fenceCheck g gr w = .done (s.setGroup g { gr with hold := .fence w }) := if_pos h

theorem State.fenceCheck_passes {s : State} {g : GroupRef} (h : s.groupPosting g = false) {gr : Group} (hf : gr.fails = [])
    (w : BitVec 64) : s.fenceCheck g gr w = .done (s.setGroup g { gr with hold := .none }.advance) := by
  unfold State.fenceCheck State.fenceFail
  rw [if_neg (by simp [h]), hf]
  rfl

theorem State.fenceCheck_fails {s : State} {g : GroupRef} (h : s.groupPosting g = false) {gr : Group} {q : PostFail}
    (hf : firstFail gr.fails = some q) (w : BitVec 64) :
    s.fenceCheck g gr w = .excAfter q.exc
      ((s.setGroup g { gr with fails := [] }).odAdd Od.thrFenceUnreportedCount (gr.fails.length - 1)) := by
  unfold State.fenceCheck State.fenceFail
  rw [if_neg (by simp [h]), hf]

/-- What AT.SWP.64 raises where one lane executes: the first of its conditions, if none after it has a lower cause. -/
theorem atSwp64_raises {s : State} {g : GroupRef} {gr : Group} (hr : Ready s g gr) (f : BitVec 48) {i : Nat} (hi : i < 32)
    (h : ∀ j < 32, gr.runs (opWord f 0) j = true ↔ j = i)
    (hregs : regsOk (s.vregs g.core) [(fVA (opWord f 0), 2), (fVB (opWord f 0), 2), (fVD (opWord f 0), 2)] = true)
    {q : Fail} {fs : List Fail} (hq : q.lane = i)
    (hf : s.remoteFails g.core ⟨0x04, 8, false⟩ (opWord f 0) gr i = q :: fs)
    (hl : ∀ x ∈ fs, x.lane = q.lane ∧ q.cause ≤ x.cause) :
    Raises (.atSwp64 g f) s g 8 (opWord f 0x8002) ⟨q.cause, q.detail, 0, q.aux, q.addr, BitVec.ofNat 32 (2 ^ i)⟩ := by
  have lanes : gr.execLanes (opWord f 0x8002) = [i] :=
    Group.execLanes_single hi fun j hj => by rw [gr.runs_opWord f _ 0]; exact h j hj
  have regs : regsOk (s.vregs g.core)
      [(fVA (opWord f 0x8002), 2), (fVB (opWord f 0x8002), 2), (fVD (opWord f 0x8002), 2)] = true := by
    rw [fVA_opWord f _ 0, fVB_opWord f _ 0, fVD_opWord f _ 0]
    exact hregs
  refine heldIssue_raises (w := opWord f 0x8002) hr (eachTx ⟨0x04, 8, false⟩ (opWord f 0x8002)) regs ?_
  have fails : s.remoteFails g.core ⟨0x04, 8, false⟩ (opWord f 0x8002) gr i = q :: fs :=
    (remoteFails_opWord s _ _ f _ 0 gr i).trans hf
  rw [lanes, List.flatMap_cons, List.flatMap_nil, List.append_nil, fails, excOfFails_lane hl, hq]

/-- Settles O21, by the conditions of the one lane in the order of `State.remoteKeyFail` and the branches of
`State.fenceCheck`. -/
theorem remoteChecksAndFence : Obligations.RemoteChecksAndFence := by
  unfold Obligations.RemoteChecksAndFence
  intro g f s gr hr w
  refine ⟨fun i hi hone hregs => ?_, fun hp => ?_, fun hp hf => ?_, fun hp x y q hf hx hy => ?_⟩
  · intro a raised global
    have key : a.toNat % 8 = 0 → ∀ {d aux}, s.remoteKeyFail g.core ⟨0x04, 8, false⟩ w gr i = some (d, aux) →
        raised cKey d aux :=
      fun h0 d aux hk =>
        atSwp64_raises (q := ⟨i, cKey, d, aux, a⟩) hr f hi hone hregs rfl (State.remoteFails_key h0 hk) nofun
    have elsewhere := State.remoteKeyFail_elsewhere (s := s) (core := g.core) (fm := ⟨0x04, 8, false⟩) (w := w)
      (gr := gr) (i := i)
    refine ⟨fun h0 => ?_, fun h0 hn => key h0 (State.remoteKeyFail_notGlobal hn),
      fun h0 hy hp ho => key h0 ((elsewhere hy hp).1 ho),
      fun h0 hy hp ho hm hs hn => key h0 ((elsewhere hy hp).2 ho hm hs hn)⟩
    obtain ⟨fs, hfs, hf⟩ := State.remoteFails_unaligned (s := s) (core := g.core) (fm := ⟨0x04, 8, false⟩) h0
    refine atSwp64_raises (q := ⟨i, cAlignment, 0x01, 0xFF, a⟩) hr f hi hone hregs rfl hf fun x hx => ?_
    rcases hfs with rfl | ⟨d, aux, rfl⟩
    · cases hx
    · obtain rfl := List.mem_singleton.mp hx
      exact ⟨rfl, (by decide : cAlignment ≤ cKey)⟩
  · exact ⟨_, by rw [execFenceR_ready hr, State.fenceCheck_waits hp], State.setGroup_countSlot ..⟩
  · have hh := State.issuer_hold hr.issuer
    have e : { gr with hold := .none }.advance = { gr with pc := gr.pc + 8 } := by rw [← hh]; rfl
    exact ⟨_, by rw [execFenceR_ready hr, State.fenceCheck_passes hp hf, e], State.setGroup_countSlot ..⟩
  · have hq : firstFail gr.fails = some q := by rw [hf]; exact firstFail_append hy hx
    have hn : gr.fails.length - 1 = x.length + y.length := by rw [hf]; simp
    exact ⟨_, by rw [execFenceR_ready hr, State.fenceCheck_fails hp hq, hn], rfl⟩

end Sys2Proof.Machine
end

section
/-! SUPPORT and proof. COPY: a refusal for a closed channel (R26, R239). -/

namespace Sys2Proof.Machine
open Sys2Proof

/-! ### Commands whose turn it is -/

/-- A command row on a command whose turn it is (R72). -/
theorem State.onCmd_due {s : State} {cmd : Nat} {op : BitVec 16} {c : Cmd} (h : DueCmd s cmd op c) (f : State → Cmd → State) :
    s.onCmd cmd op f = (f s c).pump := by
  unfold State.onCmd
  rw [h.taken]
  exact if_pos ⟨h.opcode, h.turn⟩

/-- A COPY whose keys, ranges and routes pass and that R239 refuses: a closed channel is logged first (R26). -/
theorem execCopy_refused {s : State} {cmd : Nat} {c : Cmd} (h : DueCmd s cmd 0x0002 c) (hk : s.copyKeys c = [])
    (hm : (s.copyMissing (s.jobSide c.job) c.copySrc c.copyLen || s.copyMissing (s.jobSide c.job) c.copyDst c.copyLen) = false)
    (hc : (s.copyCut c.copySrc || s.copyCut c.copyDst) = false) (hr : s.copyRefused c = true) :
    exec (.copy cmd) s = .next (((s.noteClosed (0x0D, 0) (if s.copyClosed c.copySrc then c.copySrc else c.copyDst)).commit c
      Status.refused 0).pump) := by
  change execCopy cmd s = _
  unfold execCopy
  rw [withRoom_roomy h.room, State.onCmd_due h]
  dsimp only
  rw [hk, hm, hc, hr]
  rfl

/-! ### A COPY whose source lies in the local memory of a core that has failed (R26, R392) -/

/-- 64 bytes from the local memory of core 0 to 0x1000, on any Lighter, with key 7. -/
def closedCopy : Cmd :=
  { serial := 1, ring := 0, pos := 0, opcode := 0x0002, flags := 0, job := 5, cmdId := 1, tag := 0
    args := BitVec.ofNat 320 (0xC100000000 + 0x1000 * 2 ^ 64 + 64 * 2 ^ 128 + 0xFF * 2 ^ 232 + 7 * 2 ^ 256 + 7 * 2 ^ 288)
    bad := false, phase := .taken, startAt := 0, seed := 0, step := 0, heritage := false, p8 := 0, p16 := 0, arrival := 0 }

/-- A device in RUNNING whose dispatcher has taken it: core 0 has failed, and one region entry of key 7 covers every local
address. -/
def closedCopyState : State :=
  { State.reset with
    dev := { State.reset.dev with state := .running, hbmDone := 8, clustersOn := 8 }
    od := SMap.set 0 [] (Od.coreFailed 0) 1
    disp := { State.reset.disp with cmds := [closedCopy] }
    fab := { State.reset.fab with regions := [(0, BitVec.ofNat 128 (0x3F + 2 * 2 ^ 32 + 0xFFFFFFF * 2 ^ 68 + 7 * 2 ^ 96))] } }

theorem closedCopy_due : DueCmd closedCopyState 1 0x0002 closedCopy :=
  ⟨by decide +kernel, by decide +kernel, rfl, by decide +kernel⟩

/-- Its ranges are mapped and its keys fit, and its source is closed: it is REFUSED. -/
theorem closedCopy_refused : closedCopyState.copyKeys closedCopy = [] ∧
    (closedCopyState.copyMissing (closedCopyState.jobSide closedCopy.job) closedCopy.copySrc closedCopy.copyLen ||
      closedCopyState.copyMissing (closedCopyState.jobSide closedCopy.job) closedCopy.copyDst closedCopy.copyLen) = false ∧
    (closedCopyState.copyCut closedCopy.copySrc || closedCopyState.copyCut closedCopy.copyDst) = false ∧
    closedCopyState.copyClosed closedCopy.copySrc = true ∧ closedCopyState.copyRefused closedCopy = true := by
  decide +kernel

/-- The commit of a refusal, with the log of the closed channel and without it: one event more, and one event less. -/
theorem closedCopy_logs :
    ((closedCopyState.noteClosed (0x0D, 0) closedCopy.copySrc).commit closedCopy Status.refused 0).pump.log.ingress.length = 2 ∧
    (closedCopyState.commit closedCopy Status.refused 0).pump.log.ingress.length = 1 := by
  decide +kernel

/-- Refutes O31: a COPY that is REFUSED because its source lies in a closed channel also logs an event (R26), which the
statement leaves out. -/
theorem not_copies : ¬Obligations.Copies := by
  unfold Obligations.Copies
  intro ⟨checks, _, _⟩
  obtain ⟨hk, hm, hc, hclosed, hr⟩ := closedCopy_refused
  obtain ⟨-, -, -, -, refused, -⟩ := checks closedCopyState 1 closedCopy closedCopy_due
  rw [hk] at refused
  have claimed := refused rfl hm rfl hc hr
  rw [execCopy_refused closedCopy_due hk hm hc hr, if_pos hclosed] at claimed
  obtain ⟨noted, plain⟩ := closedCopy_logs
  have same : ((closedCopyState.noteClosed (0x0D, 0) closedCopy.copySrc).commit closedCopy Status.refused 0).pump =
      (closedCopyState.commit closedCopy Status.refused 0).pump := Host.Outcome.next.inj claimed
  rw [same, plain] at noted
  exact absurd noted (by decide)

end Sys2Proof.Machine
end

section
/-! SUPPORT. Entries of the object dictionary that no memory access, packet or completion record of the device writes. -/

namespace Sys2Proof.Machine
open Sys2Proof

/-- An entry that is no counter of memory errors, of packets or of LAUNCHes, and stands below every counter set and ring. -/
structure Od.Aside (k : Nat) : Prop where
  below : k / 256 < 0x3100
  errors : k / 256 < 0x2210 ∨ 0x2220 < k / 256
  dropped : k ≠ Od.packetsDropped
  detours : k ≠ Od.detourPackets
  launches : k ≠ Od.thrLaunchCount

theorem State.odAdd_odGet_other {s : State} {j k : Nat} (h : j ≠ k) (n : Nat) : (s.odAdd k n).odGet j = s.odGet j := by
  unfold State.odAdd
  rw [State.odGet_odSet, if_neg h]

/-- A fold of steps that each leave an entry leaves it. -/
theorem foldl_odGet {α : Type} {k : Nat} {f : State → α → State} {l : List α}
    (hf : ∀ s, ∀ x ∈ l, (f s x).odGet k = s.odGet k) (s : State) : (l.foldl f s).odGet k = s.odGet k :=
  List.foldlRecOn (motive := fun t : State => t.odGet k = s.odGet k) l f rfl fun t ht x hx => (hf t x hx).trans ht

/-! ### Words in memory -/

theorem State.setRaw_od (s : State) (w : Nat) (x : CodeWord) : (s.setRaw w x).od = s.od :=
  List.foldlRecOn (motive := fun t : State => t.od = s.od) (List.range 8) _ rfl fun _ ht _ _ => ht

theorem State.noteStore_od (s : State) (w : Nat) : (s.noteStore w).od = s.od := by
  unfold State.noteStore State.noteOld
  split
  · dsimp only
    split <;> rfl
  · rfl

theorem State.seenWrite_od (s : State) (w : Nat) : (s.seenWrite w).od = s.od := by
  unfold State.seenWrite
  split <;> rfl

theorem State.updWord_od (s : State) (w : Nat) (f : CodeWord → CodeWord) : (s.updWord w f).od = s.od := by
  have noted : ((s.noteStore w).seenWrite w).od = s.od := (State.seenWrite_od ..).trans (s.noteStore_od w)
  unfold State.updWord
  generalize (s.noteStore w).seenWrite w = t at noted
  dsimp only
  split
  · exact (State.setRaw_od ..).trans noted
  · split
    · exact (State.setRaw_od ..).trans noted
    · exact noted

theorem State.pickWord_od (s : State) (w : Nat) : (s.pickWord w).2.od = s.od := by
  unfold State.pickWord
  split <;> rfl

theorem hbmStack_lt (a : Nat) : hbmStack a < 8 := by
  have small : hbmPc a < 2 ^ 8 := by
    unfold hbmPc
    have m := fun x : Nat => Nat.mod_lt x (show 0 < 2 ^ 8 by decide)
    exact Nat.xor_lt_two_pow (Nat.xor_lt_two_pow (Nat.xor_lt_two_pow (m _) (m _)) (m _)) (m _)
  unfold hbmStack
  omega

theorem memSource_hbm {a : Nat} (h : (memSource a).1 = .hbm) : (memSource a).2.2 < 8 := by
  unfold memSource at h ⊢
  split at h <;> simp_all [hbmStack_lt]

section
variable {k : Nat} (h : Od.Aside k)
include h

theorem State.memCE_aside (s : State) {st : Storage} {inst : Nat} (hi : st = .hbm → inst < 8) (ty addr p q : Nat) (det : Detect) :
    (s.memCE st ty inst addr p q det).odGet k = s.odGet k := by
  have counter : k ≠ ceCounter st inst := by
    rintro rfl
    have := h.errors
    unfold ceCounter at this
    split at this
    · have := hi ‹_›
      simp only [Od.hbmCeCount, Od.key] at *
      omega
    · revert this; decide
  unfold State.memCE
  dsimp only
  split <;> exact State.odAdd_odGet_other counter 1

theorem State.memUE_aside (s : State) {st : Storage} {inst : Nat} (hi : st = .hbm → inst < 8) (ty addr : Nat) (det : Detect) :
    (s.memUE st ty inst addr det).odGet k = s.odGet k := by
  have counter : k ≠ ueCounter st inst := by
    rintro rfl
    have := h.errors
    unfold ueCounter at this
    split at this
    · have := hi ‹_›
      simp only [Od.hbmUeCount, Od.key] at *
      omega
    · revert this; decide
  exact State.odAdd_odGet_other counter 1

theorem State.countPoisonRead_aside (s : State) (w : Nat) (p : Bool) : (s.countPoisonRead w p).odGet k = s.odGet k := by
  unfold State.countPoisonRead
  split
  · refine State.odAdd_odGet_other ?_ 1
    rintro rfl
    have := h.errors
    have := hbmStack_lt (8 * w)
    simp only [Od.hbmPoisonReadCount, Od.key] at *
    omega
  · rfl

theorem State.readWord_aside (s : State) (w : Nat) (det : Detect) : (s.readWord w det).2.odGet k = s.odGet k := by
  have picked : (s.pickWord w).2.odGet k = s.odGet k := by unfold State.odGet; rw [s.pickWord_od]
  have raw : ∀ (t : State) x (c : Prop) [Decidable c], (if c then t.setRaw w x else t).odGet k = t.odGet k := by
    intro t x c _
    split
    · unfold State.odGet; rw [t.setRaw_od]
    · rfl
  unfold State.readWord
  extract_lets r x t src live given
  have gave : ∀ u p, (given u p).odGet k = u.odGet k := by
    intro u p
    unfold given
    split
    · rfl
    · exact u.countPoisonRead_aside h w p
  clear_value given
  split
  · exact (gave ..).trans picked
  · split
    · exact (gave ..).trans picked
    · exact (gave ..).trans ((State.memCE_aside h _ memSource_hbm ..).trans ((raw ..).trans picked))
    · exact (gave ..).trans ((State.memUE_aside h _ memSource_hbm ..).trans ((raw ..).trans picked))

theorem State.readRun_aside (det : Detect) : ∀ (ws : List Nat) (s : State) (lost : Option Nat),
    (s.readRun det lost ws).2.odGet k = s.odGet k
  | [], _, _ => rfl
  | w :: ws, s, lost => by
    unfold State.readRun
    extract_lets gone r q
    have read : r.2.odGet k = s.odGet k := by
      unfold r State.lostWord
      split
      · dsimp only
        split
        · rfl
        · exact s.countPoisonRead_aside h w true
      · exact s.readWord_aside h w det
    exact (State.readRun_aside det ws _ _).trans read

theorem State.mergeWord_aside (s : State) (w i : Nat) (bs : List Byte) : (s.mergeWord w i bs).odGet k = s.odGet k := by
  have read := s.readWord_aside h w .merged
  unfold State.mergeWord
  generalize (s.readWord w .merged).2 = t at read
  unfold State.odGet at read ⊢
  rw [State.updWord_od, read]

omit h in
theorem State.writeWord_odGet (s : State) (w : Nat) (d : BitVec 64) (p : Bool) : (s.writeWord w d p).odGet k = s.odGet k := by
  unfold State.writeWord State.odGet
  rw [State.updWord_od]

theorem State.writeFuel_aside : ∀ (n : Nat) (s : State) (a : Nat) (bs : List Byte) (p : Bool),
    (State.writeFuel n s a bs p).odGet k = s.odGet k
  | 0, _, _, _, _ => rfl
  | n + 1, s, a, bs, p => by
    unfold State.writeFuel
    split
    · rfl
    · extract_lets m t
      have wrote : t.odGet k = s.odGet k := by
        unfold t
        split
        · exact s.writeWord_odGet ..
        · exact s.mergeWord_aside h ..
      exact (State.writeFuel_aside n t _ _ p).trans wrote

/-! ### Counts and packets of an access -/

theorem State.count_aside (s : State) {set : Nat} (hs : 0x3100 ≤ set) (ev n : Nat) (a : Attr) :
    (s.count set ev n a).odGet k = s.odGet k := by
  have := h.below
  refine (s.count_frame set ev n a).od k (fun i _ => ?_) ?_ <;> unfold Od.key <;> omega

theorem State.countMem_aside (s : State) (a n ev : Nat) (at_ : Attr) : (s.countMem a n ev at_).odGet k = s.odGet k := by
  have counted : ∀ (t : State) {set} (_ : 0x3100 ≤ set) ev n at_, (t.count set ev n at_).odGet k = t.odGet k :=
    fun t _ hs => t.count_aside h hs
  unfold State.countMem
  dsimp only
  split
  · refine (counted _ (by omega) ..).trans ?_
    split
    · exact counted _ (by omega) ..
    · rfl
  · exact counted _ (by omega) ..
  · rfl

theorem State.countSpan_aside (s : State) (at_ : Attr) (ev a n : Nat) : (s.countSpan at_ ev a n).odGet k = s.odGet k :=
  foldl_odGet (fun _ _ _ => State.countMem_aside h ..) s

theorem State.queuePacket_aside (s : State) (p : Nat) (q : Queued) : (s.queuePacket p q).odGet k = s.odGet k := by
  unfold State.queuePacket State.dropQueued
  dsimp only
  split
  · rfl
  · split <;> exact State.odAdd_odGet_other h.dropped 1

theorem State.sendInvalidate_aside (s : State) (line : Nat) (c : Coord) : (s.sendInvalidate line c).odGet k = s.odGet k := by
  unfold State.sendInvalidate State.launchPacket
  dsimp only
  split
  · rfl
  · refine (State.queuePacket_aside h ..).trans ?_
    split
    · exact State.odAdd_odGet_other h.detours 1
    · rfl

theorem State.coherentWrite_aside (s : State) (a n : Nat) : (s.coherentWrite a n).odGet k = s.odGet k := by
  refine foldl_odGet (fun t e _ => ?_) s
  have invalidated : (t.invalidateLine e.1).odGet k = t.odGet k := foldl_odGet (fun _ _ _ => State.sendInvalidate_aside h ..) _
  dsimp only
  split <;> exact invalidated

theorem State.devWrite_aside (s : State) (at_ : Attr) (a : Nat) (bs : List Byte) : (s.devWrite at_ a bs).odGet k = s.odGet k :=
  (State.writeFuel_aside h ..).trans ((State.coherentWrite_aside h ..).trans (s.countSpan_aside h ..))

theorem State.devRead_aside (s : State) (at_ : Attr) (a n : Nat) : (s.devRead at_ a n).2.odGet k = s.odGet k :=
  (State.readRun_aside h ..).trans (s.countSpan_aside h ..)

/-! ### Records, rings and commit points -/

omit h in
theorem State.signal_odGet (s : State) (v : Nat) : (s.signal v).odGet k = s.odGet k := by
  unfold State.signal
  split
  · split <;> rfl
  · rfl

theorem State.putRecord_aside (s : State) (q : Nat) (x : BitVec 256) : (s.putRecord q x).odGet k = s.odGet k :=
  (State.devWrite_aside h ..).trans (State.devWrite_aside h s ..)

theorem State.putRecords_aside (q : Nat) : ∀ (l : List CqRecord) (s : State), (s.putRecords q l).odGet k = s.odGet k
  | [], _ => rfl
  | _ :: l, s => (State.putRecords_aside q l _).trans (s.putRecord_aside h q _)

theorem State.drainCq_aside (q : Nat) : ∀ (n : Nat) (s : State), (State.drainCq n s q).odGet k = s.odGet k
  | 0, _ => rfl
  | n + 1, s => by
    unfold State.drainCq
    dsimp only
    split
    · rfl
    · split
      · exact (State.drainCq_aside q n _).trans (State.putRecord_aside h ..)
      · rfl

theorem State.flushCq_aside (s : State) (q : Nat) : (s.flushCq q).odGet k = s.odGet k := by
  have drained := State.drainCq_aside h q (s.cq q).waiting.length s
  unfold State.flushCq
  dsimp only
  split
  · exact (State.signal_odGet ..).trans drained
  · exact drained

theorem State.completion_aside (s : State) (q : Nat) (x : CqRecord) : (s.completion q x).odGet k = s.odGet k := by
  have rewritten : ∀ n l, (s.rewriteTies q n l).odGet k = s.odGet k := fun n l => State.putRecords_aside h q l _
  unfold State.completion
  extract_lets c ties all t1 c' t2
  have waits : t1.odGet k = s.odGet k := by
    unfold t1
    split
    · rfl
    · exact rewritten ..
  have done : t2.odGet k = s.odGet k := by
    unfold t2
    split
    · exact (State.signal_odGet ..).trans (rewritten ..)
    · exact (State.flushCq_aside h ..).trans waits
  clear_value t2
  split
  · exact done
  · unfold State.stallCq
    dsimp only
    split <;> exact done

theorem State.writeRingLine_aside (s : State) (r : Nat) : (s.writeRingLine r).odGet k = s.odGet k := State.devWrite_aside h ..

theorem State.settleRing_aside (s : State) (r : Nat) : (s.settleRing r).odGet k = s.odGet k := by
  unfold State.settleRing State.setRingState
  split
  · refine (State.writeRingLine_aside h ..).trans ?_
    have := h.below
    rw [State.odGet_odSet, if_neg (by unfold Od.ringState Od.key; omega)]
  · rfl

theorem State.commit_aside (s : State) (c : Cmd) (st : Status) (detail : BitVec 16) :
    (s.commit c st detail).odGet k = s.odGet k := by
  unfold State.commit State.commitAt
  extract_lets d t1 t2 t3
  have counted : t2.odGet k = s.odGet k := by
    unfold t2
    split
    · exact State.odAdd_odGet_other h.launches 1
    · rfl
  have recorded : t3.odGet k = s.odGet k := by
    unfold t3
    split
    · exact counted
    · exact (State.completion_aside h ..).trans counted
  exact (State.settleRing_aside h ..).trans recorded

theorem State.nextHead_aside (s : State) (r : Nat) : (s.nextHead r).odGet k = s.odGet k := State.writeRingLine_aside h ..

theorem State.takeCmd_aside (s : State) (r : Nat) : (s.takeCmd r).odGet k = s.odGet k := by
  unfold State.takeCmd
  extract_lets pos e q c t d u
  have taken : u.odGet k = s.odGet k := (State.nextHead_aside h ..).trans (s.devRead_aside h ..)
  have committed : ∀ st, (u.commit c st 0).odGet k = s.odGet k := fun st => (u.commit_aside h c st 0).trans taken
  split
  · exact State.nextHead_aside h ..
  · split
    · exact committed _
    · split
      · exact committed _
      · split
        · exact committed _
        · exact taken

theorem State.takeAll_aside : ∀ (n : Nat) (s : State), (State.takeAll n s).odGet k = s.odGet k
  | 0, _ => rfl
  | n + 1, s => by
    unfold State.takeAll
    split
    · rfl
    · exact (State.takeAll_aside n _).trans (s.takeCmd_aside h _)

theorem State.pump_aside (s : State) : s.pump.odGet k = s.odGet k := State.takeAll_aside h ..

end

end Sys2Proof.Machine
end

section
/-! SUPPORT and proof. An epoch switch that waits for a context that does not exist (R33): its entry is one of another index.
The statements about time hold of every state, and so of one in which such a switch waits. -/

namespace Sys2Proof.Machine
open Sys2Proof

theorem Outcome.state_next (t s : State) : Outcome.state (.next t) s = t := rfl

/-- A device in RUNNING, in which a switch to epoch 7 at 50 ns waits for the context whose epoch would stand at entry `k`, if
the contexts went on beyond the 16 of R33. -/
def strayState (k : Nat) : State :=
  { State.reset with
    dev := { State.reset.dev with state := .running, hbmDone := 8, clustersOn := 8 }
    epochs := [(k - Od.epochCtx 0, (50, 7, none))] }

/-! ### The clock of the cores (R421) -/

/-- The core clock is at 1,000 MHz, with headroom since 0 ns. -/
def strayClock : State :=
  { strayState Od.coreClockMhz with
    od := SMap.set (odDefault Od.coreClockMhz) [] Od.coreClockMhz 1000
    gov := { State.reset.gov with headroomAt := some 0 } }

/-- With 1 W of each kind, the clock may rise. -/
theorem strayClock_rises : strayClock.log.roomy = true ∧ strayClock.governs = true ∧ powerOk 0x3F800000 = true ∧
    strayClock.headroom 0x3F800000 0x3F800000 strayClock.coreMHz = true ∧ strayClock.cool = true ∧
    strayClock.coreMHz + 25 = 1025 := by
  decide +kernel

/-- In the 100 µs until it does, the stray switch sets it to 7 MHz, and with its own time HBM_TEMP_LIMIT, so that it stays. -/
theorem strayClock_raised :
    (Outcome.state (exec (.governorRaise 0x3F800000 0x3F800000 0x3F800000) strayClock) strayClock).coreMHz = 7 := by
  decide +kernel

/-- Refutes O45: while GOVERNOR_RAISE waits for its 100 µs, an epoch switch that waits for a context beyond 15 writes
CORE_CLOCK_MHZ, so that the clock does not rise one step from where it was. -/
theorem not_powerAndTime : ¬Obligations.PowerAndTime := by
  unfold Obligations.PowerAndTime
  intro ⟨_, governor, _⟩
  obtain ⟨room, governs, ok, headroom, cool, higher⟩ := strayClock_rises
  obtain ⟨_, raise⟩ := governor strayClock 0x3F800000 0x3F800000 0x3F800000 room governs ok ok ok
  obtain ⟨u, hu, -, risen, -⟩ := (raise 0 rfl).1 headroom cool
  have raised := strayClock_raised
  rw [hu, Outcome.state_next, risen, higher] at raised
  exact absurd raised (by decide)

/-! ### The count of released records (R394) -/

def strayRecord : Event :=
  { edge := 0, payload := 0, severity := 1, kind := 0x0001, srcType := 0x0F, srcInst := 0, epoch := 0, time := 3 }

/-- One record of 3 ns waits in the ingress. -/
def strayLog : State := { strayState Od.logRecords with log := { State.reset.log with ingress := [strayRecord] } }

theorem strayLog_releases : lowestEvent (strayLog.log.ingress.take 256) = some (strayRecord, []) ∧
    strayLog.logWaits strayRecord = false ∧ strayLog.odGet Od.logRecords = 0 := by
  decide +kernel

/-- In the 100 ns until it goes, the stray switch has set the count to 7. -/
theorem strayLog_released : (Outcome.state (exec .logRelease strayLog) strayLog).odGet Od.logRecords = 8 := by
  decide +kernel

/-- Refutes O49: while LOG_RELEASE waits for its 100 ns, an epoch switch that waits for a context beyond 15 writes
LOG_RECORDS, so that the count is not one more than it was. -/
theorem not_eventLog : ¬Obligations.EventLog := by
  unfold Obligations.EventLog
  intro ⟨_, release, _⟩
  obtain ⟨lowest, goes, count⟩ := strayLog_releases
  obtain ⟨u, hu, -, -, counted, -⟩ := (release strayLog strayRecord [] lowest).2 goes (by decide)
  have released := strayLog_released
  rw [hu, Outcome.state_next, counted, count] at released
  exact absurd released (by decide)

/-! ### The count of completed barriers (R310) -/

/-- A BARRIER of context 0, QUIET. -/
def strayBarrier : Cmd :=
  { serial := 1, ring := 0, pos := 0, opcode := 0x0011, flags := 2, job := 5, cmdId := 1, tag := 0, args := 0, bad := false
    phase := .started, startAt := 0, seed := 0, step := 0, heritage := false, p8 := 0, p16 := 0, arrival := 0 }

/-- It has been released, and context 0 moves to epoch 1 at 60 ns. -/
def strayEpochs : State :=
  { strayState Od.barriersDone with
    epochs := (0, (60, 1, some 1)) :: (strayState Od.barriersDone).epochs
    disp := { State.reset.disp with cmds := [strayBarrier] } }

theorem strayEpochs_due : strayEpochs.log.roomy = true ∧ SMap.find? strayEpochs.epochs 0 = some (60, 1, some 1) ∧
    strayEpochs.cmd? 1 = some strayBarrier ∧ strayEpochs.odGet Od.barriersDone = 0 := by
  decide +kernel

/-- At 50 ns the stray switch sets the count of barriers to 7. -/
theorem strayEpochs_switched :
    (Outcome.state (exec (.epochSwitch 0) strayEpochs) strayEpochs).odGet Od.barriersDone = 8 := by
  decide +kernel

theorem Od.aside_barriersDone : Od.Aside Od.barriersDone := ⟨by decide, by decide, by decide, by decide, by decide⟩

/-- Refutes O33: before the epoch of a barrier changes, a switch that waits for a context beyond 15 writes BARRIERS_DONE,
so that the count at the barrier's end, which its commit leaves (`State.commit_aside`), is not one more than it was. -/
theorem not_barriersAndEpochs : ¬Obligations.BarriersAndEpochs := by
  unfold Obligations.BarriersAndEpochs
  intro ⟨_, switch⟩
  obtain ⟨room, waits, cmd, count⟩ := strayEpochs_due
  obtain ⟨u, hu, -, -, -, -, counted⟩ := switch strayEpochs 0 60 1 1 strayBarrier room waits cmd
  have switched := strayEpochs_switched
  rw [hu, Outcome.state_next, State.pump_aside Od.aside_barriersDone, State.commit_aside Od.aside_barriersDone, counted,
    count] at switched
  exact absurd switched (by decide)

end Sys2Proof.Machine
end

section
/-! SUPPORT and proof. ALARMED is left only through OFF (R46). -/

namespace Sys2Proof.Machine
open Sys2Proof

/-- What a command that passes through OFF may make of ALARMED. -/
def LeavesThroughOff (t : State) : Prop :=
  t.dev.state = .alarmed ∨ t.dev.state = .off ∨
    (t.dev.state = .boot ∧ t.clk.now = 0 ∧ t.disp.cmds = [] ∧ t.cores = [] ∧ t.mem = [])

theorem State.enterOff_leaves (s : State) (h : OffHold) : LeavesThroughOff (s.enterOff h) := .inr (.inl rfl)

theorem Keeps.leaves {s t : State} (hs : s.dev.state = .alarmed) (h : Keeps s t) : LeavesThroughOff t := .inl (h.locked hs)

theorem State.deriveIdentity_frame (s : State) :
    ∃ o f c l, s.deriveIdentity = { s with od := o, free := f, sec := c, log := l } := by
  unfold State.deriveIdentity
  dsimp only
  split <;> exact ⟨_, _, _, _, rfl⟩

/-- The ROM starts with the timebase at zero and no work (R408, R410). -/
theorem State.boot_leaves (s : State) : LeavesThroughOff s.boot := by
  refine .inr (.inr ?_)
  have derived : ∀ t : State, ∃ o f c l, t.deriveIdentity.startPhaseFree 1 = { t with od := o, free := f, sec := c, log := l } := by
    intro t
    obtain ⟨o, f, c, l, h⟩ := t.deriveIdentity_frame
    rw [h]
    exact ⟨_, _, _, _, rfl⟩
  unfold State.boot
  dsimp only
  obtain ⟨o, f, c, l, h⟩ := derived _
  rw [h]
  exact ⟨rfl, rfl, rfl, rfl, rfl⟩

theorem State.ite_leaves {s t : State} {c : Prop} [Decidable c] (hs : LeavesThroughOff s) (ht : LeavesThroughOff t) :
    LeavesThroughOff (if c then s else t) := by
  split
  · exact hs
  · exact ht

/-- THERMAL_STEP trips, or lowers the clock (R417). -/
theorem execThermalStep_leaves {s : State} (hs : s.dev.state = .alarmed) (die hbm : BitVec 32) :
    ∃ u, execThermalStep die hbm s = .next u ∧ LeavesThroughOff u := by
  unfold execThermalStep
  split
  · exact ⟨_, rfl, .inr (.inl rfl)⟩
  split
  · extract_lets dieHot hot s1 s2
    have waited : Keeps s s1 := by
      unfold s1
      split
      · exact keeps_ite (State.advanceTo_keeps (.refl s) _) (.refl s)
      · exact .refl s
    have read : Keeps s s2 := State.odSet_keeps (State.odSet_keeps waited _ _) _ _
    exact ⟨_, rfl, (keeps_ite (Keeps.upd (State.lowerClock_keeps read _ _) ..) read).leaves hs⟩
  · exact ⟨s, rfl, .inl hs⟩

/-- Every command that passes through OFF leaves ALARMED as R46 allows. -/
theorem exec_throughOff_leaves {s : State} (hs : s.dev.state = .alarmed) {c : Instr} (hc : c.throughOff = true) :
    ∃ u, exec c s = .next u ∧ LeavesThroughOff u := by
  have stays : LeavesThroughOff s := .inl hs
  have on : s.dev.state ≠ .off := by rw [hs]; decide
  cases c <;> try exact Bool.noConfusion hc
  case resetRelease straps => exact ⟨s, if_neg fun h => on h.1, stays⟩
  case pwrGoodLow => exact ⟨_, rfl, State.enterOff_leaves ..⟩
  case resetNLow => exact ⟨_, rfl, State.enterOff_leaves ..⟩
  case perstNLow => exact ⟨_, rfl, State.ite_leaves (State.enterOff_leaves ..) (.inl hs)⟩
  case perstNRise => exact ⟨_, if_pos on, .inl hs⟩
  case railUndervoltage rail =>
    change ∃ u, execRailUndervoltage rail s = .next u ∧ _
    unfold execRailUndervoltage
    split
    · split
      · exact ⟨_, rfl, .inl hs⟩
      · exact ⟨_, rfl, State.enterOff_leaves ..⟩
    · exact ⟨s, rfl, stays⟩
  case thermtrip => exact ⟨_, if_pos on, .inr (.inl rfl)⟩
  case thermalStep die hbm => exact execThermalStep_leaves hs die hbm
  case resetDelayExpiry =>
    change ∃ u, execResetDelayExpiry s = .next u ∧ _
    unfold execResetDelayExpiry
    split
    · exact ⟨_, if_pos on, State.boot_leaves _⟩
    · exact ⟨s, rfl, stays⟩
  case eraseMarkerProgrammed =>
    change ∃ u, execEraseMarkerProgrammed s = .next u ∧ _
    unfold execEraseMarkerProgrammed
    split
    · exact ⟨_, rfl, State.ite_leaves (.inl hs) (State.enterOff_leaves ..)⟩
    · exact ⟨s, rfl, stays⟩

/-- Settles O60: `exec_holds` says that the other commands keep ALARMED, and `exec_throughOff_leaves` where those that pass
through OFF lead. -/
theorem alarmedLeftThroughOff : Obligations.AlarmedLeftThroughOff := by
  unfold Obligations.AlarmedLeftThroughOff
  intro s t c hs ht
  cases hc : c.throughOff with
  | false => exact .inl (((exec_holds (.refl s) c hc).all t ht).locked hs)
  | true =>
    obtain ⟨u, hu, leaves⟩ := exec_throughOff_leaves hs hc
    obtain rfl : t = u := Host.Outcome.next.inj (ht.symm.trans hu)
    exact leaves.imp id fun h => ⟨rfl, h⟩

end Sys2Proof.Machine
end

section
/-! SUPPORT and proof. The end of an aborted LAUNCH (R73, R75): its own record is not one that it has to wait for. -/

namespace Sys2Proof.Machine
open Sys2Proof

/-- A LAUNCH of ring 0 that has started. -/
def abortedCmd : Cmd :=
  { serial := 1, ring := 0, pos := 0, opcode := 0x0001, flags := 0, job := 5, cmdId := 1, tag := 0, args := 0, bad := false
    phase := .started, startAt := 0, seed := 0, step := 0, heritage := false, p8 := 0, p16 := 0, arrival := 0 }

/-- It was aborted at time 0 and has no core left. -/
def abortedLaunch : Launch :=
  { cmd := 1, cores := [], vregs := 64, groups := 1, excPolicy := false, excSlots := 0, excAddr := 0, entry := 0
    params := [], started := true, aborted := some (0, 0), excStop := false, flags := 0, gateIdle := 0, firstCause := 0
    excCount := 0, excWritten := 0, excTime := 0, excBase := 0, excTies := [], areaFull := false }

/-- Completion ring 0 with 16 entries, to which ring 0 reports, and that LAUNCH. -/
def abortedState : State :=
  { State.reset with
    od := SMap.set (odDefault (Od.cqEntries 0)) (SMap.set (odDefault (Od.cqEnable 0)) [] (Od.cqEnable 0) 1) (Od.cqEntries 0) 16
    disp := { State.reset.disp with cmds := [abortedCmd], launches := [abortedLaunch] } }

theorem abortedState_holds : abortedState.odGet (Od.ringState abortedCmd.ring) ≠ 2 ∧
    abortedState.odGet (Od.ringCq abortedCmd.ring) = 0 ∧ abortedState.cqHeld 0 abortedState.clk.now = true ∧
    (abortedState.cq 0).waiting = [] ∧ (abortedState.cq 0).ties = [] := by
  decide +kernel

/-- Its record is written at once. -/
theorem abortedState_commit : ((abortedState.commit abortedCmd .ok 0).cq 0).waiting = [] := by
  decide +kernel

/-- Refutes O28: before its commit an aborted LAUNCH is itself one of the commands that a record waits for, and its commit
takes it away before its own record looks for them, so that this record is written and does not wait. -/
theorem not_commitPoint : ¬Obligations.CommitPoint := by
  unfold Obligations.CommitPoint
  intro claim
  obtain ⟨enabled, ring, held, waiting, ties⟩ := abortedState_holds
  obtain ⟨-, -, -, -, -, waits, -⟩ := claim abortedState abortedCmd .ok 0 enabled
  rw [ring] at waits
  obtain ⟨placed, -⟩ := waits (by decide) (by simp [ties, waiting]) (.inr ⟨held, waiting⟩)
  rw [abortedState_commit, waiting] at placed
  exact absurd placed (by simp [placeRecord])

end Sys2Proof.Machine
end

section
/-! SUPPORT and proof. The period of a scrub pass that waits for the end of the one before it (R236). -/

namespace Sys2Proof.Machine
open Sys2Proof

/-- The scrubber has read the whole buffer of cluster 0, in a pass that began at 0 ns and has 100 ns, and a switch that
waits for an epoch context that does not exist is to write the period of the next. -/
def strayScrub : State :=
  { strayState Od.scrubSramSeconds with
    od := SMap.set (odDefault Od.scrubEnable) [] Od.scrubEnable 1
    scrub := { State.reset.scrub with buffers := [(0, ⟨0x1000000, 0, 100⟩)] } }

theorem strayScrub_due : strayScrub.log.roomy = true ∧ strayScrub.scrubOn = true ∧
    strayScrub.scrubMemory (.clusterBuffer 0) = some (0xC000000000, 0x1000000) ∧
    (∀ w ∈ spanWords 0xC000000000 256, strayScrub.racyAt w = none) ∧ strayScrub.hbmReadFails = [] ∧
    strayScrub.scrub.pass? (.clusterBuffer 0) = some ⟨0x1000000, 0, 100⟩ ∧
    strayScrub.scrubPeriod (.clusterBuffer 0) ≠ 7000000000 := by
  decide +kernel

/-- The pass starts at 100 ns, after the stray switch of 50 ns. -/
theorem strayScrub_read :
    (Outcome.state (exec (.scrubRead (.clusterBuffer 0)) strayScrub) strayScrub).scrub.pass? (.clusterBuffer 0) =
      some ⟨256, 100, 7000000000⟩ := by
  decide +kernel

/-- Refutes O50: a pass that waits for the end of the one before it has the period that SCRUB_SRAM_SECONDS gives then, and
a switch that waits for an epoch context beyond 15 has written that entry in the meantime. -/
theorem not_scrubAndErrors : ¬Obligations.ScrubAndErrors := by
  unfold Obligations.ScrubAndErrors
  intro ⟨scrubber, _⟩
  obtain ⟨room, runs, memory, settled, reads, old, period⟩ := strayScrub_due
  have claim := scrubber strayScrub (.clusterBuffer 0) room runs _ _ memory
  rw [old] at claim
  obtain ⟨u, hu, -, -, ⟨p, hp, -, -, fresh⟩, -, -⟩ := claim settled reads
  have read := strayScrub_read
  rw [hu, Outcome.state_next, hp, Option.some.injEq] at read
  subst read
  exact period (fresh rfl (.inr ⟨_, rfl, le_rfl, by decide⟩)).2.symm

end Sys2Proof.Machine
end

section
/-! SUPPORT and proof. A port that is off when the start waits for the fill (R250, R411). -/

namespace Sys2Proof.Machine
open Sys2Proof

/-! ### The Jarast table is one of dictionary entries -/

/-- Only dictionary entries changed, and none of those of `kept`. -/
structure Entered (kept : Nat → Prop) (s t : State) : Prop where
  only : t = { s with od := t.od }
  same : ∀ k, kept k → t.odGet k = s.odGet k

theorem Entered.refl {kept : Nat → Prop} (s : State) : Entered kept s s := ⟨rfl, fun _ _ => rfl⟩

theorem Entered.trans {kept : Nat → Prop} {s t u : State} (h : Entered kept s t) (h' : Entered kept t u) : Entered kept s u :=
  ⟨by rw [h'.only, h.only], fun k hk => (h'.same k hk).trans (h.same k hk)⟩

theorem Entered.odSet {kept : Nat → Prop} {s t : State} (h : Entered kept s t) {k : Nat} (v : Nat) (hk : ¬kept k) :
    Entered kept s (t.odSet k v) :=
  h.trans ⟨rfl, fun j hj => by
    rw [State.odGet_odSet, if_neg]
    rintro rfl
    exact hk hj⟩

theorem Entered.foldl {kept : Nat → Prop} {α : Type} {f : State → α → State} (l : List α) (s : State)
    (step : ∀ x ∈ l, ∀ t, Entered kept t (f t x)) : Entered kept s (l.foldl f s) := by
  induction l generalizing s with
  | nil => exact .refl s
  | cons x l ih => exact (step x (by simp) s).trans (ih _ fun y hy => step y (by simp [hy]))

/-- An entry of an index outside the two Jarast views (R63). -/
def Od.OffJarast (k : Nat) : Prop := k / 256 < 0x1100 ∨ 0x1200 ≤ k / 256

theorem Od.in_jarast {b n : Nat} (hb : 0x1100 ≤ b) (hb' : b < 0x1200) (hn : n < 256) : ¬Od.OffJarast (Od.key b n) := by
  unfold Od.OffJarast Od.key
  omega

theorem State.writeJarastEntry_entered (s : State) (eval : Bool) {t : Nat} (ht : t < 0x80) :
    Entered Od.OffJarast s (s.writeJarastEntry eval t) := by
  unfold State.writeJarastEntry
  refine Entered.foldl _ s fun v hv u => (Entered.refl u).odSet _ ?_
  have short : v.2 < 11 := by
    have := List.snd_lt_of_mem_zipIdx hv
    split at this <;> simpa using this
  cases eval
  · exact Od.in_jarast (by simp) (by simp; omega) (by omega)
  · exact Od.in_jarast (by simp; omega) (by simp; omega) (by omega)

theorem State.writeJarast_entered (s : State) : Entered Od.OffJarast s s.writeJarast := by
  have table : Entered Od.OffJarast s
      ((List.range' 1 21).foldl (fun s t => (s.writeJarastEntry false t).writeJarastEntry true t) s) :=
    Entered.foldl _ s fun t ht u => by
      have : t < 0x80 := by
        have := List.mem_range'.mp ht
        omega
      exact (u.writeJarastEntry_entered false this).trans (State.writeJarastEntry_entered _ true this)
  have view : ∀ b n, 0x1100 ≤ b → b < 0x1200 → n < 256 → ¬Od.OffJarast (Od.key b n) := fun _ _ => Od.in_jarast
  unfold State.writeJarast
  exact (((((table.odSet _ (view _ _ (by decide) (by decide) (by decide))).odSet _
    (view _ _ (by decide) (by decide) (by decide))).odSet _ (view _ _ (by decide) (by decide) (by decide))).odSet _
    (view _ _ (by decide) (by decide) (by decide))).odSet _ (view _ _ (by decide) (by decide) (by decide))).odSet _
    (view _ _ (by decide) (by decide) (by decide))

/-! ### The saved entries -/

theorem State.applySaved_enabled {s : State} (h : ∀ p < 4, s.odGet (Od.portEnable p) ≠ 0) : s.applySaved = s := by
  have ports : ∀ l : List Nat, (∀ p ∈ l, p < 4) → l.foldl (fun s p =>
      if s.odGet (Od.portEnable p) = 0 ∧ (s.port p).state ≠ .disabled then s.portLeave p 4 .disabled else s) s = s := by
    intro l hl
    induction l with
    | nil => rfl
    | cons p l ih =>
      rw [List.foldl_cons, if_neg fun e => h p (hl p (by simp)) e.1]
      exact ih fun q hq => hl q (by simp [hq])
  exact ports _ fun p hp => List.mem_range.mp hp

/-- The fill is over, 87.5 ms after the HBM was done. -/
def State.filled (s : State) : State :=
  let t := s.odGet Od.tHbmDone + 87500000
  let s := (s.trainingOver (max t s.clk.now)).advanceTo t
  (s.startPhaseFree 7).startPhase 5 0 (s.clk.now - s.odGet Od.tHbmDone)

/-- The entry into READY, from which an erase goes on. -/
def State.readied (s : State) : State :=
  let s := (s.startPhaseFree 8).enter .ready 0x0F 0 0
  let s := s.odSet Od.tReady s.clk.now
  if s.flash.eraseMarker ∧ s.flash.helpersLeft then { s with sec := { s.sec with erase := .helper } } else s

theorem State.readied_fab (s : State) : s.readied.fab = s.fab := by
  unfold State.readied
  dsimp only
  split <;> rfl

theorem startComplete_fab {s u : State} (room : s.log.roomy = true) (starting : s.dev.state = .init)
    (clusters : s.dev.clustersOn = 8) (h : exec .startComplete s = .next u) : u.fab = s.filled.writeJarast.applySaved.fab := by
  have ready : exec .startComplete s = execStartComplete s := rfl
  have next : execStartComplete s = .next s.filled.writeJarast.applySaved.readied := by
    rw [execStartComplete, withRoom_roomy room, if_pos ⟨starting, clusters⟩]
    unfold State.filled State.readied
    with_reducible rfl
  rw [ready, next, Host.Outcome.next.injEq] at h
  rw [← h, State.readied_fab]

/-- A device in INIT with every cluster on and PORT_ENABLE 0 false; a switch that waits for an epoch context that does not
exist is to write that entry. -/
def strayStart : State :=
  { strayState (Od.portEnable 0) with
    dev := { (strayState (Od.portEnable 0)).dev with state := .init }
    od := SMap.set (odDefault (Od.portEnable 0)) [] (Od.portEnable 0) 0 }

theorem strayStart_due : strayStart.log.roomy = true ∧ strayStart.flash.saved = none ∧ strayStart.dev.state = .init ∧
    strayStart.dev.clustersOn = 8 ∧ strayStart.fab.tracker = [] ∧ strayStart.odGet (Od.portEnable 0) = 0 := by
  decide +kernel

/-- PORT_ENABLE 0 is 7 then. -/
theorem strayStart_filled : (∀ p < 4, strayStart.filled.odGet (Od.portEnable p) ≠ 0) ∧ (strayStart.filled.port 0).state = .down := by
  decide +kernel

theorem strayStart_completed {u : State} (h : exec .startComplete strayStart = .next u) : (u.port 0).state = .down := by
  obtain ⟨room, -, starting, clusters, -⟩ := strayStart_due
  obtain ⟨enabled, down⟩ := strayStart_filled
  have jarast := strayStart.filled.writeJarast_entered
  have saved : strayStart.filled.writeJarast.applySaved = strayStart.filled.writeJarast :=
    State.applySaved_enabled fun p hp => by
      rw [jarast.same _ (.inr (by unfold Od.portEnable Od.key; omega))]
      exact enabled p hp
  have same : u.port 0 = strayStart.filled.port 0 := by
    unfold State.port
    rw [startComplete_fab room starting clusters h, saved, jarast.only]
  rw [same, down]

/-- Refutes O52: while the start waits for the end of the fill, a switch that waits for an epoch context beyond 15 writes
PORT_ENABLE 0, which was false, so that the saved entries, applied after it, leave the port on. -/
theorem not_deviceStart : ¬Obligations.DeviceStart := by
  unfold Obligations.DeviceStart
  intro claim
  obtain ⟨room, saved, starting, clusters, idle, off⟩ := strayStart_due
  obtain ⟨-, -, -, -, -, -, complete, -⟩ := claim strayStart room (by simp [saved])
  obtain ⟨u, hu, -, -, -, quiet, -⟩ := complete starting clusters
  have down := strayStart_completed hu
  rw [((quiet idle).2 0 (by decide)).2 off] at down
  cases down

end Sys2Proof.Machine
end

section
/-! SUPPORT. What an access of a master of this device can change beside the bytes of memory: free values, counters of memory
errors and packets, counter sets of the memories, operations' notes of earlier words, monitors that see a write, packets of
coherence, and events (R67, R151, R232, R274, R452). -/

namespace Sys2Proof.Machine
open Sys2Proof

/-- A dictionary key that no access counts at. -/
def Od.Apart (k : Nat) : Prop :=
  k / 256 < 0x2210 ∨ (0x2220 < k / 256 ∧ k / 256 < 0x2330) ∨ (0x2330 < k / 256 ∧ k / 256 < 0x3200) ∨ 0x3220 ≤ k / 256

theorem Od.apart_key {b n : Nat} (hn : n < 256) (hb : b < 0x2210 ∨ (0x2220 < b ∧ b < 0x2330) ∨ (0x2330 < b ∧ b < 0x3200) ∨ 0x3220 ≤ b) :
    Od.Apart (Od.key b n) := by
  unfold Od.Apart Od.key
  omega

/-- From `s` to `t` only what an access may change has changed. -/
structure Accessed (s t : State) : Prop where
  rest : t = { s with free := t.free, od := t.od, mem := t.mem, side := t.side, racy := t.racy, hbmReadFails := t.hbmReadFails
                      cores := t.cores, disp := { s.disp with woken := t.disp.woken }, fab := t.fab, log := t.log }
  od : ∀ k, Od.Apart k → t.odGet k = s.odGet k
  ports : ∀ p, (t.port p).state = (s.port p).state

namespace Accessed

theorem refl (s : State) : Accessed s s := ⟨rfl, fun _ _ => rfl, fun _ => rfl⟩

theorem trans {s t u : State} (h : Accessed s t) (k : Accessed t u) : Accessed s u :=
  ⟨by rw [k.rest, h.rest], fun i hi => (k.od i hi).trans (h.od i hi), fun p => (k.ports p).trans (h.ports p)⟩

theorem foldl {α : Type} {f : State → α → State} (step : ∀ s x, Accessed s (f s x)) (l : List α) (s : State) :
    Accessed s (l.foldl f s) := by
  induction l generalizing s with
  | nil => exact .refl s
  | cons x l ih => exact (step s x).trans (ih _)

variable {s t : State} (h : Accessed s t)
include h

theorem clk : t.clk = s.clk := by rw [h.rest]
theorem dev : t.dev = s.dev := by rw [h.rest]
theorem pcie : t.pcie = s.pcie := by rw [h.rest]
theorem out : t.out = s.out := by rw [h.rest]
theorem hm : t.hm = s.hm := by rw [h.rest]
theorem disp : t.disp = { s.disp with woken := t.disp.woken } := by rw [h.rest]
theorem cmds : t.disp.cmds = s.disp.cmds := by rw [h.disp]
theorem removed : t.disp.removed = s.disp.removed := by rw [h.disp]
theorem nextSerial : t.disp.nextSerial = s.disp.nextSerial := by rw [h.disp]
theorem ring (r : Nat) : t.ring r = s.ring r := by unfold State.ring; rw [h.disp]
theorem cq (q : Nat) : t.cq q = s.cq q := by unfold State.cq; rw [h.disp]

end Accessed

/-! ### Memory words -/

theorem State.odAdd_accessed (s : State) {k : Nat} (hk : ¬Od.Apart k) (n : Nat) : Accessed s (s.odAdd k n) := by
  refine ⟨rfl, fun j hj => ?_, fun _ => rfl⟩
  unfold State.odAdd
  rw [State.odGet_odSet, if_neg]
  rintro rfl
  exact hk hj

theorem State.fresh_accessed (s : State) : Accessed s s.fresh.2 := ⟨rfl, fun _ _ => rfl, fun _ => rfl⟩

theorem State.event_accessed (s : State) (ty inst kind : Nat) (sev : BitVec 2) (fields : List (Nat × Nat × Nat)) :
    Accessed s (s.event ty inst kind sev fields) := ⟨rfl, fun _ _ => rfl, fun _ => rfl⟩

theorem State.setMemByte_accessed (s : State) (a : Nat) (b : Byte) : Accessed s (s.setMemByte a b) :=
  ⟨rfl, fun _ _ => rfl, fun _ => rfl⟩

theorem State.setRaw_accessed (s : State) (w : Nat) (x : CodeWord) : Accessed s (s.setRaw w x) := by
  have bytes : Accessed s (s.setMemWord w (codeData x)) := Accessed.foldl (fun t i => t.setMemByte_accessed ..) _ s
  unfold State.setRaw
  generalize s.setMemWord w (codeData x) = t at bytes
  exact bytes.trans ⟨rfl, fun _ _ => rfl, fun _ => rfl⟩

theorem State.pickWord_accessed (s : State) (w : Nat) : Accessed s (s.pickWord w).2 := by
  unfold State.pickWord
  split
  · exact .refl s
  · exact s.fresh_accessed

theorem Od.not_apart_ceCounter {st : Storage} {inst : Nat} (hi : st = .hbm → inst < 8) : ¬Od.Apart (ceCounter st inst) := by
  unfold ceCounter Od.Apart
  split
  · have := hi ‹_›
    simp only [Od.hbmCeCount, Od.key]
    omega
  · simp only [Od.sramCeCount, Od.key]
    omega

theorem Od.not_apart_ueCounter {st : Storage} {inst : Nat} (hi : st = .hbm → inst < 8) : ¬Od.Apart (ueCounter st inst) := by
  unfold ueCounter Od.Apart
  split
  · have := hi ‹_›
    simp only [Od.hbmUeCount, Od.key]
    omega
  · simp only [Od.sramUeCount, Od.key]
    omega

theorem State.memCE_accessed (s : State) {st : Storage} {inst : Nat} (hi : st = .hbm → inst < 8) (ty addr p q : Nat)
    (det : Detect) : Accessed s (s.memCE st ty inst addr p q det) := by
  have counted := s.odAdd_accessed (Od.not_apart_ceCounter hi) 1
  unfold State.memCE
  generalize s.odAdd (ceCounter st inst) 1 = t at counted
  dsimp only
  have limited : ∀ l, Accessed t { t with log := { t.log with ceRate := l } } := fun l => ⟨rfl, fun _ _ => rfl, fun _ => rfl⟩
  split
  · exact (counted.trans (limited _)).trans (State.event_accessed ..)
  · exact counted.trans (limited _)

theorem State.memUE_accessed (s : State) {st : Storage} {inst : Nat} (hi : st = .hbm → inst < 8) (ty addr : Nat) (det : Detect) :
    Accessed s (s.memUE st ty inst addr det) :=
  (s.odAdd_accessed (Od.not_apart_ueCounter hi) 1).trans (State.event_accessed ..)

theorem State.countPoisonRead_accessed (s : State) (w : Nat) (p : Bool) : Accessed s (s.countPoisonRead w p) := by
  unfold State.countPoisonRead
  split
  · refine s.odAdd_accessed ?_ 1
    have := hbmStack_lt (8 * w)
    simp only [Od.hbmPoisonReadCount, Od.key, Od.Apart]
    omega
  · exact .refl s

theorem State.readWord_accessed (s : State) (w : Nat) (det : Detect) : Accessed s (s.readWord w det).2 := by
  have picked := s.pickWord_accessed w
  have raw : ∀ (t : State) x (c : Prop) [Decidable c], Accessed t (if c then t.setRaw w x else t) := by
    intro t x c _
    split
    · exact t.setRaw_accessed w x
    · exact .refl t
  unfold State.readWord
  extract_lets r x t src live given
  have gave : ∀ u p, Accessed u (given u p) := by
    intro u p
    unfold given
    split
    · exact .refl u
    · exact u.countPoisonRead_accessed w p
  clear_value given
  split
  · have failed : ∀ l, Accessed t { t with hbmReadFails := l } := fun l => ⟨rfl, fun _ _ => rfl, fun _ => rfl⟩
    exact (picked.trans (failed _)).trans (gave _ _)
  · split
    · exact picked.trans (gave _ _)
    · exact (picked.trans (raw ..)).trans ((State.memCE_accessed _ memSource_hbm ..).trans (gave _ _))
    · exact (picked.trans (raw ..)).trans ((State.memUE_accessed _ memSource_hbm ..).trans (gave _ _))

theorem State.readRun_accessed (det : Detect) : ∀ (ws : List Nat) (s : State) (lost : Option Nat),
    Accessed s (s.readRun det lost ws).2
  | [], s, _ => .refl s
  | w :: ws, s, lost => by
    unfold State.readRun
    extract_lets gone r q
    have read : Accessed s r.2 := by
      unfold r State.lostWord
      split
      · dsimp only
        split
        · exact .refl s
        · exact s.countPoisonRead_accessed w true
      · exact s.readWord_accessed w det
    exact read.trans (State.readRun_accessed det ws _ _)

theorem State.readBytes_accessed (s : State) (a n : Nat) (det : Detect) : Accessed s (s.readBytes a n det).2 :=
  State.readRun_accessed ..

theorem State.noteStore_accessed (s : State) (w : Nat) : Accessed s (s.noteStore w) := by
  unfold State.noteStore State.noteOld
  split
  · dsimp only
    split
    · exact .refl s
    · exact ⟨rfl, fun _ _ => rfl, fun _ => rfl⟩
  · exact .refl s

theorem State.seenWrite_accessed (s : State) (w : Nat) : Accessed s (s.seenWrite w) := by
  unfold State.seenWrite
  split
  · exact .refl s
  · exact ⟨rfl, fun _ _ => rfl, fun _ => rfl⟩

theorem State.updWord_accessed (s : State) (w : Nat) (f : CodeWord → CodeWord) : Accessed s (s.updWord w f) := by
  have seen := (s.noteStore_accessed w).trans (State.seenWrite_accessed _ w)
  have racing : ∀ (t : State) l, Accessed t { t with racy := l } := fun t l => ⟨rfl, fun _ _ => rfl, fun _ => rfl⟩
  unfold State.updWord
  generalize (s.noteStore w).seenWrite w = t at seen
  dsimp only
  split
  · exact seen.trans (t.setRaw_accessed ..)
  · split
    · exact (seen.trans t.fresh_accessed).trans ((racing ..).trans (State.setRaw_accessed ..))
    · exact (seen.trans t.fresh_accessed).trans (racing ..)

theorem State.mergeWord_accessed (s : State) (w i : Nat) (bs : List Byte) : Accessed s (s.mergeWord w i bs) := by
  have read := s.readWord_accessed w .merged
  unfold State.mergeWord
  generalize (s.readWord w .merged).2 = t at read
  exact read.trans (t.updWord_accessed ..)

theorem State.writeFuel_accessed : ∀ (n : Nat) (s : State) (a : Nat) (bs : List Byte) (p : Bool),
    Accessed s (State.writeFuel n s a bs p)
  | 0, s, _, _, _ => .refl s
  | n + 1, s, a, bs, p => by
    unfold State.writeFuel
    split
    · exact .refl s
    · extract_lets m t
      have wrote : Accessed s t := by
        unfold t
        split
        · exact s.updWord_accessed ..
        · exact s.mergeWord_accessed ..
      exact wrote.trans (State.writeFuel_accessed n t _ _ p)

theorem State.writeBytes_accessed (s : State) (a : Nat) (bs : List Byte) : Accessed s (s.writeBytes a bs) :=
  State.writeFuel_accessed ..

/-! ### Counts and packets of an access -/

theorem State.count_accessed (s : State) {set : Nat} (hs : 0x3200 ≤ set) (hs' : set < 0x3220) (ev n : Nat) (a : Attr) :
    Accessed s (s.count set ev n a) := by
  have counted := s.count_frame set ev n a
  refine ⟨by rw [counted.rest], fun k hk => counted.od k (fun i hi => ?_) ?_, fun p => by rw [counted.rest]; rfl⟩
  · unfold Od.key Od.Apart at *
    omega
  · unfold Od.key Od.Apart at *
    omega

theorem regionOf_buffer {a c : Nat} (h : regionOf a = .buffer c) : c < 8 := by
  unfold regionOf hbmEnd windowBase at h
  split at h
  · cases h
  · split at h
    · split at h
      · cases h
        omega
      · cases h
    · repeat' split at h
      all_goals cases h

theorem State.countMem_accessed (s : State) (a n ev : Nat) (at_ : Attr) : Accessed s (s.countMem a n ev at_) := by
  have stack := hbmStack_lt a
  unfold State.countMem
  dsimp only
  split
  · split
    · exact (s.count_accessed (by omega) (by omega) ..).trans (State.count_accessed _ (by omega) (by omega) ..)
    · exact s.count_accessed (by omega) (by omega) ..
  · have := regionOf_buffer ‹_›
    exact s.count_accessed (by omega) (by omega) ..
  · exact .refl s

theorem State.countSpan_accessed (s : State) (at_ : Attr) (ev a n : Nat) : Accessed s (s.countSpan at_ ev a n) :=
  Accessed.foldl (fun _ _ => State.countMem_accessed ..) _ s

theorem State.setPort_accessed (s : State) (p : Nat) {x : Port} (hx : x.state = (s.port p).state) : Accessed s (s.setPort p x) := by
  refine ⟨rfl, fun _ _ => rfl, fun q => ?_⟩
  rw [State.port_setPort]
  split
  · next e => rw [hx, e]
  · rfl

theorem State.queuePacket_accessed (s : State) (p : Nat) (q : Queued) : Accessed s (s.queuePacket p q) := by
  have dropped := s.odAdd_accessed (k := Od.packetsDropped) (by unfold Od.Apart Od.packetsDropped Od.key; omega) 1
  unfold State.queuePacket State.dropQueued State.oweSlots
  dsimp only
  split
  · exact s.setPort_accessed p rfl
  · split
    · exact dropped.trans (State.setPort_accessed _ _ rfl)
    · exact dropped

theorem State.launchPacket_accessed (s : State) (pk : Packet) (r : Route) (vc : BitVec 2) : Accessed s (s.launchPacket pk r vc) := by
  have detour := s.odAdd_accessed (k := Od.detourPackets) (by unfold Od.Apart Od.detourPackets Od.key; omega) 1
  unfold State.launchPacket
  dsimp only
  split
  · exact detour.trans (State.queuePacket_accessed ..)
  · exact State.queuePacket_accessed ..

theorem State.invalidateLine_accessed (s : State) (line : Nat) : Accessed s (s.invalidateLine line) := by
  refine Accessed.trans ?_ (Accessed.foldl (fun t c => ?_) _ _)
  · exact ⟨rfl, fun _ _ => rfl, fun _ => rfl⟩
  · unfold State.sendInvalidate
    dsimp only
    split
    · exact .refl t
    · exact t.launchPacket_accessed ..

theorem State.coherentWrite_accessed (s : State) (a n : Nat) : Accessed s (s.coherentWrite a n) := by
  refine Accessed.foldl (fun t e => ?_) _ s
  have invalidated := t.invalidateLine_accessed e.1
  dsimp only
  split
  · exact invalidated
  · exact invalidated.trans ⟨rfl, fun _ _ => rfl, fun _ => rfl⟩

theorem State.devRead_accessed (s : State) (at_ : Attr) (a n : Nat) : Accessed s (s.devRead at_ a n).2 :=
  (s.countSpan_accessed ..).trans (State.readBytes_accessed ..)

theorem State.devWrite_accessed (s : State) (at_ : Attr) (a : Nat) (bs : List Byte) : Accessed s (s.devWrite at_ a bs) :=
  ((s.countSpan_accessed ..).trans (State.coherentWrite_accessed ..)).trans (State.writeBytes_accessed ..)

end Sys2Proof.Machine
end

section
/-! SUPPORT. What the dispatcher's own work can change (R67 to R76): what its accesses change, its own state, the states of rings
and the count of LAUNCHes in the dictionary, and messages and pending bits of the completion rings' vectors. -/

namespace Sys2Proof.Machine
open Sys2Proof

/-- A dictionary key that the dispatcher's own work leaves. -/
structure Od.OffDispatch (k : Nat) : Prop where
  apart : Od.Apart k
  launches : k ≠ Od.thrLaunchCount
  rings : ∀ r, k ≠ Od.ringState r

/-- From `s` to `t` only what the dispatcher's own work may change has changed. -/
structure Dispatched (s t : State) : Prop where
  rest : t = { s with free := t.free, pcie := t.pcie, od := t.od, mem := t.mem, side := t.side, racy := t.racy
                      hbmReadFails := t.hbmReadFails, cores := t.cores, disp := t.disp, fab := t.fab, log := t.log, out := t.out }
  od : ∀ k, Od.OffDispatch k → t.odGet k = s.odGet k
  ports : ∀ p, (t.port p).state = (s.port p).state

theorem Accessed.dispatched {s t : State} (h : Accessed s t) : Dispatched s t :=
  ⟨by rw [h.rest], fun k hk => h.od k hk.apart, h.ports⟩

namespace Dispatched

theorem refl (s : State) : Dispatched s s := (Accessed.refl s).dispatched

theorem trans {s t u : State} (h : Dispatched s t) (k : Dispatched t u) : Dispatched s u :=
  ⟨by rw [k.rest, h.rest], fun i hi => (k.od i hi).trans (h.od i hi), fun p => (k.ports p).trans (h.ports p)⟩

theorem setDisp (s : State) (d : Disp) : Dispatched s { s with disp := d } := ⟨rfl, fun _ _ => rfl, fun _ => rfl⟩

variable {s t : State} (h : Dispatched s t)
include h

theorem clk : t.clk = s.clk := by rw [h.rest]
theorem dev : t.dev = s.dev := by rw [h.rest]
theorem hm : t.hm = s.hm := by rw [h.rest]
theorem channels : t.channels = s.channels := by rw [h.rest]
theorem taking : t.taking = s.taking := by unfold State.taking; rw [h.dev]

end Dispatched

theorem State.signal_dispatched (s : State) (v : Nat) : Dispatched s (s.signal v) := by
  unfold State.signal
  split
  · split <;> exact ⟨rfl, fun _ _ => rfl, fun _ => rfl⟩
  · exact .refl s

theorem State.devWrite_dispatched (s : State) (at_ : Attr) (a : Nat) (bs : List Byte) : Dispatched s (s.devWrite at_ a bs) :=
  (s.devWrite_accessed at_ a bs).dispatched

theorem State.putRecord_dispatched (s : State) (q : Nat) (x : BitVec 256) : Dispatched s (s.putRecord q x) := by
  have wrote := s.devWrite_dispatched dispAttr (s.odGet (Od.cqBase q) + 32 * (s.cq q).tail)
    (natBytes 32 (x.toNat + if (s.cq q).phase then 1 else 0))
  unfold State.putRecord
  dsimp only
  exact (wrote.trans (.setDisp ..)).trans (State.devWrite_dispatched ..)

theorem State.putRecords_dispatched (q : Nat) : ∀ (l : List CqRecord) (s : State), Dispatched s (s.putRecords q l)
  | [], s => .refl s
  | x :: l, s => (s.putRecord_dispatched q x.bits).trans (State.putRecords_dispatched q l _)

theorem State.drainCq_dispatched (q : Nat) : ∀ (n : Nat) (s : State), Dispatched s (State.drainCq n s q)
  | 0, s => .refl s
  | n + 1, s => by
    unfold State.drainCq
    dsimp only
    split
    · exact .refl s
    · split
      · exact ((Dispatched.setDisp ..).trans (State.putRecord_dispatched ..)).trans (State.drainCq_dispatched q n _)
      · exact .refl s

theorem State.flushCq_dispatched (s : State) (q : Nat) : Dispatched s (s.flushCq q) := by
  have drained := State.drainCq_dispatched q (s.cq q).waiting.length s
  unfold State.flushCq
  dsimp only
  split
  · exact drained.trans (State.signal_dispatched ..)
  · exact drained

theorem State.rewriteTies_dispatched (s : State) (q n : Nat) (l : List CqRecord) : Dispatched s (s.rewriteTies q n l) :=
  (Dispatched.setDisp ..).trans (State.putRecords_dispatched q l _)

theorem State.stallCq_dispatched (s : State) (q : Nat) : Dispatched s (s.stallCq q) := by
  unfold State.stallCq
  dsimp only
  split
  · exact .refl s
  · exact (Dispatched.setDisp ..).trans (State.event_accessed ..).dispatched

theorem State.completion_dispatched (s : State) (q : Nat) (x : CqRecord) : Dispatched s (s.completion q x) := by
  unfold State.completion
  extract_lets c ties all t1 c' t2
  have waits : Dispatched s t1 := by
    unfold t1
    split
    · exact .refl s
    · exact s.rewriteTies_dispatched ..
  have done : Dispatched s t2 := by
    unfold t2
    split
    · exact (s.rewriteTies_dispatched ..).trans (State.signal_dispatched ..)
    · exact (waits.trans (.setDisp ..)).trans (State.flushCq_dispatched ..)
  clear_value t2
  split
  · exact done
  · exact done.trans (State.stallCq_dispatched ..)

theorem State.writeRingLine_accessed (s : State) (r : Nat) : Accessed s (s.writeRingLine r) := State.devWrite_accessed ..

theorem State.setRingState_dispatched (s : State) (r v : Nat) : Dispatched s (s.setRingState r v) := by
  have entered : Dispatched s (s.odSet (Od.ringState r) v) :=
    ⟨rfl, fun k hk => by rw [State.odGet_odSet, if_neg (hk.rings r)], fun _ => rfl⟩
  exact entered.trans (State.writeRingLine_accessed ..).dispatched

theorem State.settleRing_dispatched (s : State) (r : Nat) : Dispatched s (s.settleRing r) := by
  unfold State.settleRing
  split
  · exact s.setRingState_dispatched r 0
  · exact .refl s

theorem State.commitAt_dispatched (s : State) (c : Cmd) (st : Status) (detail : BitVec 16) (time : Nat) (epoch : BitVec 32) :
    Dispatched s (s.commitAt c st detail time epoch) := by
  unfold State.commitAt
  extract_lets d t1 t2 t3
  have counted : Dispatched s t2 := by
    unfold t2
    split
    · exact (Dispatched.setDisp ..).trans ⟨rfl, fun k hk => State.odAdd_odGet_other hk.launches 1, fun _ => rfl⟩
    · exact .setDisp ..
  have recorded : Dispatched s t3 := by
    unfold t3
    split
    · exact counted
    · exact counted.trans (State.completion_dispatched ..)
  exact recorded.trans (State.settleRing_dispatched ..)

theorem State.commit_dispatched (s : State) (c : Cmd) (st : Status) (detail : BitVec 16) :
    Dispatched s (s.commit c st detail) := State.commitAt_dispatched ..

/-! ### The taking of commands -/

theorem State.nextHead_dispatched (s : State) (r : Nat) : Dispatched s (s.nextHead r) :=
  (Dispatched.setDisp ..).trans (State.writeRingLine_accessed ..).dispatched

theorem State.readCmd_accessed (s : State) (r pos : Nat) : Accessed s (s.readCmd r pos).2 := State.devRead_accessed ..

theorem State.takeCmd_dispatched (s : State) (r : Nat) : Dispatched s (s.takeCmd r) := by
  unfold State.takeCmd
  extract_lets pos e q c t d u
  have taken : Dispatched s u :=
    ((s.readCmd_accessed r pos).dispatched.trans (State.nextHead_dispatched ..)).trans (.setDisp ..)
  have committed : ∀ st, Dispatched s (u.commit c st 0) := fun st => taken.trans (u.commit_dispatched c st 0)
  split
  · exact (Dispatched.setDisp ..).trans (State.nextHead_dispatched ..)
  · split
    · exact committed _
    · split
      · exact committed _
      · split
        · exact committed _
        · exact taken

theorem State.takeAll_dispatched : ∀ (n : Nat) (s : State), Dispatched s (State.takeAll n s)
  | 0, s => .refl s
  | n + 1, s => by
    unfold State.takeAll
    split
    · exact .refl s
    · exact (s.takeCmd_dispatched _).trans (State.takeAll_dispatched n _)

theorem State.pump_dispatched (s : State) : Dispatched s s.pump := State.takeAll_dispatched ..

/-- In a state in which no command is taken, nothing is. -/
theorem State.pump_idle {s : State} (h : s.taking = false) : s.pump = s := by
  unfold State.pump
  cases s.ringWork with
  | zero => rfl
  | succ n => unfold State.takeAll; simp [h]

end Sys2Proof.Machine
end

section
/-! SUPPORT and proof. The abort of a LAUNCH whose group holds a lock (R75, R194, R198). -/

namespace Sys2Proof.Machine
open Sys2Proof

/-- A LAUNCH that has started. -/
def lockedCmd : Cmd :=
  { serial := 1, ring := 0, pos := 0, opcode := 0x0001, flags := 0, job := 5, cmdId := 0, tag := 0, args := 0, bad := false
    phase := .started, startAt := 0, seed := 0, step := 0, heritage := false, p8 := 0, p16 := 0, arrival := 0 }

def lockedLaunch : Launch :=
  { cmd := 1, cores := [0], vregs := 64, groups := 1, excPolicy := false, excSlots := 0, excAddr := 0, entry := 0
    params := [], started := true, aborted := none, excStop := false, flags := 0, gateIdle := 0, firstCause := 0
    excCount := 0, excWritten := 0, excTime := 0, excBase := 0, excTies := [], areaFull := false }

/-- Its group holds a lock. -/
def lockedGroup : Group :=
  { pc := 0, active := 1, live := 1, stack := [], v := [], u := [], d := [], p := [], hold := .none, resp := [], fails := []
    locks := 1, cbars := 0 }

/-- The group is on core 0 of a device in DRAINING, where no command is taken. -/
def lockedState : State :=
  let s : State :=
    { State.reset with
      dev := { State.reset.dev with state := .draining, linkUp := true, hbmDone := 8, clustersOn := 8 }
      pcie := { State.reset.pcie with memEnable := true }
      disp := { State.reset.disp with cmds := [lockedCmd], launches := [lockedLaunch] } }
  (s.setCore 0 { s.core 0 with launch := some 1 }).setGroup ⟨0, 0⟩ lockedGroup

theorem lockedState_admits : Admitted lockedState .direct 0x6010 0x01 0 where
  room := by decide +kernel
  heard := by decide +kernel
  level := by decide +kernel
  range := by decide +kernel
  entry := by
    have : (lockedState.odRow? 0x6010 0x01).isSome = true := by decide +kernel
    exact Option.isSome_iff_exists.mp this
  value r hr := by
    have : ((lockedState.odRow? 0x6010 0x01).all fun r => lockedState.accessOk r.access && r.ty.accepts 0 && r.check.accepts 0) =
      true := by decide +kernel
    simpa [hr, and_assoc] using this

theorem lockedState_finds : lockedState.disp.cmds.find? (fun q => decide (q.ring = 0) && decide (q.cmdId = 0)) = some lockedCmd ∧
    lockedState.launch? lockedCmd.serial = some lockedLaunch ∧ lockedState.log.ingress = [] := by
  decide +kernel

/-- The abort logs COMMAND_ABORTED and LOCK_LEFT. -/
theorem lockedState_aborted :
    let t := Outcome.state (exec (.abortTarget .direct 0) lockedState) lockedState
    t.taking = false ∧ t.log.ingress.length = 2 := by
  decide +kernel

/-- Refutes O42: where a group of the LAUNCH holds a lock, its end logs LOCK_LEFT beside the record of the abort. In
DRAINING the state before the commands that are taken next is the state after them, so that it has two records. -/
theorem not_ringWrites : ¬Obligations.RingWrites := by
  unfold Obligations.RingWrites
  intro ⟨_, _, abort, _⟩
  obtain ⟨found, launch, empty⟩ := lockedState_finds
  obtain ⟨-, -, -, started⟩ := abort lockedState .direct 0 lockedState_admits
  obtain ⟨-, -, launches⟩ := started lockedCmd found rfl
  obtain ⟨u, hu, ⟨e, logged, -⟩, -⟩ := (launches lockedLaunch rfl launch rfl).2 rfl
  obtain ⟨taking, records⟩ := lockedState_aborted
  rw [hu, Outcome.state_next] at taking records
  have same : u.pump.answerWrite .direct 0x6010 0x01 Status.ok = u.pump := rfl
  rw [same] at taking records
  rw [State.pump_idle (u.pump_dispatched.taking ▸ taking), logged, empty] at records
  exact absurd records (by simp)

end Sys2Proof.Machine
end

section
/-! SUPPORT. Reads of clean words (R231, R232): they deliver the bytes of memory and leave the state. -/

namespace Sys2Proof.Machine
open Sys2Proof

theorem State.readWord_clean {s : State} {w : Nat} (h : CleanWord s w) (hf : s.hbmReadFails = []) (det : Detect) :
    s.readWord w det = ((s.memWord w, false), s) := by
  have picked : s.pickWord w = (s.rawWord w, s) := by
    unfold State.pickWord
    rw [h.still]
  have reads : s.readFails w = false := by
    unfold State.readFails
    simp [hf]
  have data : codeData (s.rawWord w) = s.memWord w := by
    unfold codeData State.rawWord
    exact BitVec.extractLsb'_append_eq_right
  have plain : ∀ t : State, t.countPoisonRead w false = t := fun _ => rfl
  unfold State.readWord
  simp only [picked, reads, h.code, h.poison, data, plain, Bool.false_eq_true, if_false, ite_self]

theorem State.readRun_clean {s : State} (hf : s.hbmReadFails = []) (det : Detect) : ∀ (ws : List Nat),
    (∀ w ∈ ws, CleanWord s w) → s.readRun det none ws = (ws.map fun w => (s.memWord w, false), s)
  | [], _ => rfl
  | w :: ws, h => by
    have reads : s.readFails w = false := by
      unfold State.readFails
      simp [hf]
    have rest := State.readRun_clean hf det ws fun v hv => h v (by simp [hv])
    unfold State.readRun
    simp [State.readWord_clean (h w (by simp)) hf, reads, rest]

theorem extractByte_append {v : Nat} (hi : BitVec v) (lo : Byte) (k : Nat) :
    (hi ++ lo).extractLsb' (8 + k) 8 = hi.extractLsb' k 8 := by
  rw [BitVec.extractLsb'_append_eq_of_le (by omega), Nat.add_sub_cancel_left]

/-- The eight bytes of a word are those of memory. -/
theorem State.wordBytes_memWord (s : State) (w : Nat) : wordBytes (s.memWord w) = s.memBytes (8 * w) 8 := by
  refine List.map_congr_left fun i hi => ?_
  have : i < 8 := List.mem_range.mp hi
  have low {v : Nat} (x : BitVec v) (b : Byte) : (x ++ b).extractLsb' 0 8 = b := BitVec.extractLsb'_append_eq_right
  have skip := @extractByte_append
  unfold State.memWord
  interval_cases i
  · exact low ..
  · exact (skip ..).trans (low ..)
  · exact (skip ..).trans ((skip ..).trans (low ..))
  · exact (skip ..).trans ((skip ..).trans ((skip ..).trans (low ..)))
  · exact (skip ..).trans ((skip ..).trans ((skip ..).trans ((skip ..).trans (low ..))))
  · exact (skip ..).trans ((skip ..).trans ((skip ..).trans ((skip ..).trans ((skip ..).trans (low ..)))))
  · exact (skip ..).trans ((skip ..).trans ((skip ..).trans ((skip ..).trans ((skip ..).trans ((skip ..).trans (low ..))))))
  · exact (skip ..).trans ((skip ..).trans ((skip ..).trans ((skip ..).trans ((skip ..).trans ((skip ..).trans
      ((skip ..).trans BitVec.extractLsb'_eq_self))))))

theorem State.memBytes_add (s : State) (a m n : Nat) : s.memBytes a (m + n) = s.memBytes a m ++ s.memBytes (a + m) n := by
  unfold State.memBytes
  rw [List.range_add, List.map_append, List.map_map]
  congr 1
  exact List.map_congr_left fun i _ => by simp [Nat.add_assoc]

theorem State.memBytes_words (s : State) : ∀ (n w : Nat),
    (List.range' w n).flatMap (fun v => wordBytes (s.memWord v)) = s.memBytes (8 * w) (8 * n)
  | 0, _ => rfl
  | n + 1, w => by
    rw [List.range'_succ, List.flatMap_cons, s.memBytes_words n, s.wordBytes_memWord, show 8 * (n + 1) = 8 + 8 * n by ring,
      s.memBytes_add]
    rfl

@[simp] theorem State.length_memBytes (s : State) (a n : Nat) : (s.memBytes a n).length = n := by simp [State.memBytes]

/-- Bytes in the middle of a range. -/
theorem State.memBytes_slice (s : State) (a m k n : Nat) (h : k + n ≤ m) :
    ((s.memBytes a m).drop k).take n = s.memBytes (a + k) n := by
  obtain ⟨r, rfl⟩ := Nat.exists_eq_add_of_le h
  rw [Nat.add_assoc, s.memBytes_add, List.drop_left' (by simp), s.memBytes_add, List.take_left' (by simp)]

/-- A read of clean bytes delivers them, and no poison. -/
theorem State.readBytes_clean {s : State} {a n : Nat} (h : CleanBytes s a n) (hf : s.hbmReadFails = []) (det : Detect) :
    s.readBytes a n det = ((s.memBytes a n, (spanWords a n).map fun _ => false), s) := by
  have words := State.readRun_clean hf det (spanWords a n) h
  unfold State.readBytes State.readWords
  rw [words]
  have bytes : ((spanWords a n).map fun w => (s.memWord w, false)).flatMap (fun x => wordBytes x.1) =
      s.memBytes (8 * (a / 8)) (8 * ((a + n + 7) / 8 - a / 8)) := by
    rw [List.flatMap_map]
    exact s.memBytes_words ..
  simp only [bytes, List.map_map]
  rw [s.memBytes_slice _ _ _ _ (by omega), show 8 * (a / 8) + a % 8 = a by omega]
  rfl

/-! ### An access counts first, which leaves memory -/

/-- What the reads of memory see is equal. -/
structure SameMem (s t : State) : Prop where
  mem : t.mem = s.mem
  side : t.side = s.side
  noise : t.hbmNoise = s.hbmNoise
  racy : t.racy = s.racy
  fails : t.hbmReadFails = s.hbmReadFails

theorem SameMem.refl (s : State) : SameMem s s := ⟨rfl, rfl, rfl, rfl, rfl⟩

theorem SameMem.trans {s t u : State} (h : SameMem s t) (k : SameMem t u) : SameMem s u :=
  ⟨k.mem.trans h.mem, k.side.trans h.side, k.noise.trans h.noise, k.racy.trans h.racy, k.fails.trans h.fails⟩

theorem SameMem.foldl {α : Type} {f : State → α → State} (step : ∀ s x, SameMem s (f s x)) (l : List α) (s : State) :
    SameMem s (l.foldl f s) := by
  induction l generalizing s with
  | nil => exact .refl s
  | cons x l ih => exact (step s x).trans (ih _)

theorem SameMem.byte {s t : State} (h : SameMem s t) (a : Nat) : t.memByte a = s.memByte a := by
  unfold State.memByte State.memDflt
  rw [h.mem, h.noise]

theorem SameMem.raw {s t : State} (h : SameMem s t) (w : Nat) : t.rawWord w = s.rawWord w := by
  unfold State.rawWord State.memWord State.sideDflt
  simp only [h.byte, h.side, h.noise]

theorem State.count_sameMem (s : State) (set ev n : Nat) (a : Attr) : SameMem s (s.count set ev n a) := by
  rw [(s.count_frame set ev n a).rest]
  exact ⟨rfl, rfl, rfl, rfl, rfl⟩

theorem State.countSpan_sameMem (s : State) (at_ : Attr) (ev a n : Nat) : SameMem s (s.countSpan at_ ev a n) := by
  refine SameMem.foldl (fun t g => ?_) _ s
  unfold State.countMem
  dsimp only
  split
  · split
    · exact (t.count_sameMem ..).trans (State.count_sameMem ..)
    · exact t.count_sameMem ..
  · exact t.count_sameMem ..
  · exact .refl t

theorem SameMem.bytes {s t : State} (h : SameMem s t) (a n : Nat) : t.memBytes a n = s.memBytes a n :=
  List.map_congr_left fun _ _ => h.byte _

theorem SameMem.cleanWord {s t : State} (h : SameMem s t) {w : Nat} (hc : CleanWord s w) : CleanWord t w :=
  ⟨by rw [h.raw, hc.code], by rw [h.raw, hc.poison], by unfold State.racyAt; rw [h.racy]; exact hc.still⟩

theorem SameMem.clean {s t : State} (h : SameMem s t) {a n : Nat} (hc : CleanBytes s a n) : CleanBytes t a n :=
  fun w hw => h.cleanWord (hc w hw)

/-- A master's read of clean bytes delivers them, and only counts. -/
theorem State.devRead_clean {s : State} {a n : Nat} (h : CleanBytes s a n) (hf : s.hbmReadFails = []) (at_ : Attr) :
    s.devRead at_ a n = ((s.memBytes a n, (spanWords a n).map fun _ => false), s.countSpan at_ 0 a n) := by
  have same := s.countSpan_sameMem at_ 0 a n
  unfold State.devRead
  rw [State.readBytes_clean (same.clean h) (same.fails.trans hf), same.bytes]

end Sys2Proof.Machine
end

section
/-! SUPPORT and proof. The ring that is served next, and the taking of its command (R69 to R72, R75). -/

namespace Sys2Proof.Machine
open Sys2Proof

/-! ### The ring that is served next -/

theorem findSome?_range_some {β : Type} {f : Nat → Option β} {b : β} : ∀ {n : Nat}, (List.range n).findSome? f = some b →
    ∃ p < n, f p = some b ∧ ∀ q < p, f q = none
  | 0, h => by simp at h
  | n + 1, h => by
    rw [List.range_succ, List.findSome?_append, Option.or_eq_some_iff] at h
    obtain before | ⟨before, last⟩ := h
    · obtain ⟨p, hp, hf⟩ := findSome?_range_some before
      exact ⟨p, by omega, hf⟩
    · rw [List.findSome?_eq_none_iff] at before
      exact ⟨n, by omega, by simpa using last, fun q hq => before q (by simpa using hq)⟩

/-- The rings of a priority in the order in which they are served after `last`: the first of them that may be served. -/
def State.nextOf (s : State) (p last : Nat) : Option Nat :=
  ((List.range 64).map fun i => (last + 1 + i) % 64).find? fun r => decide (s.odGet (Od.ringPriority r) = p) && s.takeable r

theorem State.nextRing_eq (s : State) :
    s.nextRing = (List.range 4).findSome? fun p => s.nextOf p (SMap.get 63 s.disp.served p) := rfl

theorem State.nextOf_none {s : State} {p last : Nat} :
    s.nextOf p last = none ↔ ∀ r < 64, s.odGet (Od.ringPriority r) = p → s.takeable r = false := by
  unfold State.nextOf
  rw [List.find?_eq_none]
  constructor
  · intro h r hr hp
    have listed : (last + 1 + (r + 63 * (last + 1)) % 64) % 64 = r := by omega
    have := h r (List.mem_map.mpr ⟨(r + 63 * (last + 1)) % 64, List.mem_range.mpr (by omega), listed⟩)
    simpa [hp] using this
  · intro h r hr
    obtain ⟨i, -, rfl⟩ := List.mem_map.mp hr
    have free := h ((last + 1 + i) % 64) (by omega)
    simp only [Bool.and_eq_true, decide_eq_true_eq, not_and, Bool.not_eq_true]
    exact free

/-- The ring found is the nearest after `last`. -/
theorem State.nextOf_some {s : State} {p last r : Nat} (h : s.nextOf p last = some r) :
    r < 64 ∧ s.odGet (Od.ringPriority r) = p ∧ s.takeable r = true ∧ (last < 64 → ∀ k < 64,
      s.odGet (Od.ringPriority k) = p → s.takeable k = true → (r + 63 - last) % 64 ≤ (k + 63 - last) % 64) := by
  unfold State.nextOf at h
  rw [List.find?_map, Option.map_eq_some_iff] at h
  obtain ⟨i, hi, rfl⟩ := h
  rw [List.find?_range_eq_some] at hi
  obtain ⟨found, inside, before⟩ := hi
  simp only [Function.comp_apply, Bool.and_eq_true, decide_eq_true_eq] at found
  have inside := List.mem_range.mp inside
  refine ⟨by omega, found.1, found.2, fun hl k hk hp ht => ?_⟩
  by_contra nearer
  have earlier := before ((k + 63 - last) % 64) (by omega)
  have place : (last + 1 + (k + 63 - last) % 64) % 64 = k := by omega
  simp [place, hp, ht] at earlier

theorem State.nextRing_none {s : State} (h : ∀ r < 64, s.odGet (Od.ringPriority r) < 4) :
    s.nextRing = none ↔ ∀ r < 64, s.takeable r = false := by
  rw [s.nextRing_eq, List.findSome?_eq_none_iff]
  constructor
  · intro none r hr
    exact State.nextOf_none.mp (none _ (List.mem_range.mpr (h r hr))) r hr rfl
  · intro free p _
    exact State.nextOf_none.mpr fun r hr _ => free r hr

/-- No ring of a priority above is waiting. -/
theorem State.nextRing_some {s : State} {r : Nat} (h : s.nextRing = some r) :
    s.nextOf (s.odGet (Od.ringPriority r)) (SMap.get 63 s.disp.served (s.odGet (Od.ringPriority r))) = some r ∧
      ∀ k < 64, s.takeable k = true → s.odGet (Od.ringPriority r) ≤ s.odGet (Od.ringPriority k) := by
  rw [s.nextRing_eq] at h
  obtain ⟨p, -, found, before⟩ := findSome?_range_some h
  obtain ⟨-, rfl, -, -⟩ := State.nextOf_some found
  refine ⟨found, fun k hk taken => ?_⟩
  by_contra above
  have := State.nextOf_none.mp (before (s.odGet (Od.ringPriority k)) (by omega)) k hk rfl
  simp [this] at taken

/-! ### The taking of a command -/

theorem Od.apart_ring {r n : Nat} (hn : n < 256) : Od.Apart (Od.key (0x6100 + r) n) := Od.apart_key hn (by omega)

theorem State.ring_setRing (s : State) (r : Nat) (x : Ring) : (s.setRing r x).ring r = x := by
  unfold State.ring State.setRing
  exact SMap.get_set_self ..

/-- HEAD goes on, and nothing that the dispatcher holds of commands changes. -/
theorem State.nextHead_spec (s : State) (r : Nat) :
    (s.nextHead r).ring r = ⟨((s.ring r).head + 1) % s.odGet (Od.ringEntries r), (s.ring r).tail⟩ ∧
      (s.nextHead r).disp.cmds = s.disp.cmds ∧ (s.nextHead r).disp.removed = s.disp.removed ∧
      (s.nextHead r).disp.nextSerial = s.disp.nextSerial ∧ (s.nextHead r).out = s.out := by
  have wrote := (s.setRing r { s.ring r with head := ((s.ring r).head + 1) % s.odGet (Od.ringEntries r) }).writeRingLine_accessed r
  unfold State.nextHead
  exact ⟨(wrote.ring r).trans (s.ring_setRing ..), wrote.cmds, wrote.removed, wrote.nextSerial, wrote.out⟩

theorem State.nextHead_od {k : Nat} (hk : Od.Apart k) (s : State) (r : Nat) : (s.nextHead r).odGet k = s.odGet k :=
  (State.writeRingLine_accessed ..).od k hk

/-- A command that an abort has removed is passed over. -/
theorem State.takeCmd_removed {s : State} {r : Nat} (h : s.disp.removed.contains (r, (s.ring r).head) = true) :
    s.takeCmd r = { s with disp := { s.disp with
      removed := s.disp.removed.filter fun e => decide (e ≠ (r, (s.ring r).head)) } }.nextHead r := by
  unfold State.takeCmd
  rw [if_pos h]

/-- The command at HEAD, once it is among those taken. -/
def State.taken (s : State) (r : Nat) : State :=
  let q := s.readCmd r (s.ring r).head
  let s := q.2.nextHead r
  { s with disp := { s.disp with
    nextSerial := s.disp.nextSerial + 1, cmds := s.disp.cmds ++ [q.1.1]
    served := SMap.set 63 s.disp.served (s.odGet (Od.ringPriority r)) r } }

theorem State.takeCmd_waiting {s : State} {r : Nat} (h : s.disp.removed.contains (r, (s.ring r).head) = false) :
    let q := (s.readCmd r (s.ring r).head).1
    s.takeCmd r =
      if q.2 then (s.taken r).commit q.1 Status.poisoned 0
      else if q.1.job ≠ (s.taken r).jobOfRing r then (s.taken r).commit q.1 Status.denied 0
      else if !opcodeDefined q.1.opcode then (s.taken r).commit q.1 Status.refused 0
      else s.taken r := by
  unfold State.takeCmd
  rw [if_neg (by simpa using h)]
  rfl

theorem State.taken_spec (s : State) (r : Nat) :
    (s.taken r).disp.cmds = s.disp.cmds ++ [(s.readCmd r (s.ring r).head).1.1] ∧
      (s.taken r).ring r = ⟨((s.ring r).head + 1) % s.odGet (Od.ringEntries r), (s.ring r).tail⟩ ∧
      (s.taken r).jobOfRing r = BitVec.ofNat 16 (s.odGet (Od.ringJob r)) := by
  have read := s.readCmd_accessed r (s.ring r).head
  have job := State.nextHead_od (k := Od.ringJob r) (Od.apart_ring (by decide)) (s.readCmd r (s.ring r).head).2 r
  obtain ⟨ring, cmds, -⟩ := (s.readCmd r (s.ring r).head).2.nextHead_spec r
  rw [read.ring, read.od _ (Od.apart_ring (by decide))] at ring
  rw [read.cmds] at cmds
  rw [read.od _ (Od.apart_ring (by decide))] at job
  refine ⟨?_, ring, congrArg (BitVec.ofNat 16) job⟩
  unfold State.taken
  dsimp only
  rw [cmds]

/-- Settles O27: the search for the next ring goes through the priorities and, in each, through the rings in their order
(`nextOf_some`), and clean bytes are read as they are (`devRead_clean`). -/
theorem ringService : Obligations.RingService := by
  unfold Obligations.RingService
  refine ⟨fun s prios => ⟨State.nextRing_none prios, fun r next => ?_⟩, fun s r => ⟨fun removed => ?_, fun waiting clean reads => ?_⟩⟩
  · obtain ⟨found, above⟩ := State.nextRing_some next
    obtain ⟨bound, -, taken, nearest⟩ := State.nextOf_some found
    exact ⟨bound, taken, fun served k hk hk' => ⟨above k hk hk', fun same => nearest served k hk same hk'⟩⟩
  · rw [State.takeCmd_removed removed]
    obtain ⟨ring, cmds, gone, -, out⟩ := State.nextHead_spec { s with disp := { s.disp with
      removed := s.disp.removed.filter fun e => decide (e ≠ (r, (s.ring r).head)) } } r
    refine ⟨ring, cmds, out, ?_⟩
    rw [gone]
    simp
  · obtain ⟨cmds, ring, job⟩ := s.taken_spec r
    have take := State.takeCmd_waiting waiting
    have read := State.devRead_clean clean reads dispAttr
    have bytes : (s.devRead dispAttr (s.odGet (Od.ringBase r) + 64 * (s.ring r).head) 64).1.1 =
        s.memBytes (s.odGet (Od.ringBase r) + 64 * (s.ring r).head) 64 := by rw [read]
    have sound : (s.readCmd r (s.ring r).head).1.2 = false := by
      unfold State.readCmd
      simp [read]
    rw [job] at take
    simp only [sound, Bool.false_eq_true, if_false] at take
    refine ⟨s.taken r, (s.readCmd r (s.ring r).head).1.1, rfl, rfl, rfl, ?_, ?_, ?_, ?_, ?_, ?_, cmds, ring, ?_, ?_, ?_⟩
    iterate 6 unfold State.readCmd; rw [← bytes]
    · intro other
      rw [take, if_pos other]
    · intro own undefined
      rw [take, if_neg (not_not.mpr own), undefined]
      rfl
    · intro own defined
      rw [take, if_neg (not_not.mpr own), defined]
      rfl

end Sys2Proof.Machine
end

section
/-! SUPPORT and proof. NOP and the writes of the monitored ring lines (R67, R68, R71, R74). -/

namespace Sys2Proof.Machine
open Sys2Proof

theorem State.cq_setCq (s : State) (q : Nat) (x : CqRing) : (s.setCq q x).cq q = x := by
  unfold State.cq State.setCq
  exact SMap.get_set_self ..

theorem Od.apart_dispatcher {b n : Nat} (hb : 0x6100 ≤ b) (hn : n < 256) : Od.Apart (Od.key b n) := Od.apart_key hn (by omega)

/-! ### The tail line -/

theorem Accessed.newTail_valid {s t : State} (line : Accessed s t) {r tail : Nat} (h : s.odGet (Od.ringEnable r) = 1)
    (h' : s.odGet (Od.ringState r) = 1)
    (valid : tailValid (s.odGet (Od.ringEntries r)) (s.ring r).head (s.ring r).tail tail = true) :
    t.newTail r tail = (t.setRing r { t.ring r with tail := tail }).pump := by
  have own : ∀ n < 256, _ := fun n hn => line.od (Od.key (0x6100 + r) n) (Od.apart_dispatcher (by omega) hn)
  rw [← own _ (by decide)] at h h' valid
  rw [← line.ring] at valid
  unfold State.newTail
  simp [h, h', valid]

theorem Accessed.newTail_invalid {s t : State} (line : Accessed s t) {r tail : Nat} (h : s.odGet (Od.ringEnable r) = 1)
    (h' : s.odGet (Od.ringState r) = 1)
    (invalid : tailValid (s.odGet (Od.ringEntries r)) (s.ring r).head (s.ring r).tail tail = false) :
    t.newTail r tail = (t.setRingState r 3).event 0x0D 0 0x0001 sevError [(16, 2, r), (18, 4, tail)] := by
  have own : ∀ n < 256, _ := fun n hn => line.od (Od.key (0x6100 + r) n) (Od.apart_dispatcher (by omega) hn)
  rw [← own _ (by decide)] at h h' invalid
  rw [← line.ring] at invalid
  unfold State.newTail
  simp [h, h', invalid]

theorem State.event_last (s : State) (ty inst kind : Nat) (sev : BitVec 2) (l : List (Nat × Nat × Nat)) :
    ∃ e, (s.event ty inst kind sev l).log.ingress.getLast? = some e ∧ e.kind = BitVec.ofNat 14 kind ∧ e.severity = sev := by
  obtain ⟨e, logged, kinds⟩ := s.event_ingress ty inst kind sev l
  exact ⟨e, by rw [logged, List.getLast?_concat], kinds⟩

theorem State.setRingState_spec (s : State) (r v : Nat) :
    (s.setRingState r v).odGet (Od.ringState r) = v ∧ ∀ k, (s.setRingState r v).ring k = s.ring k := by
  have wrote := (s.odSet (Od.ringState r) v).writeRingLine_accessed r
  refine ⟨?_, wrote.ring⟩
  unfold State.setRingState
  rw [wrote.od _ (Od.apart_dispatcher (by omega) (by decide)), State.odGet_odSet, if_pos rfl]

theorem execTailLineWrite_roomy {s : State} {r : Nat} {tail : BitVec 32} (room : s.log.roomy = true) (hr : r < 64)
    (h : s.odGet (Od.ringEnable r) = 1) : exec (.tailLineWrite r tail) s =
      .next ((s.devWrite (devAttr 0xF3 1) (s.odGet (Od.ringCtrl r)) (natBytes 4 tail.toNat)).newTail r tail.toNat) := by
  have run : exec (.tailLineWrite r tail) s = execTailLineWrite r tail s := rfl
  rw [run, execTailLineWrite, withRoom_roomy room, if_pos ⟨hr, h⟩]

/-! ### CQ_HEAD -/

theorem State.flushCq_empty {s : State} {q : Nat} (h : (s.cq q).waiting = []) : s.flushCq q = s := by
  unfold State.flushCq
  simp [h, State.drainCq]

/-- Records that are written move CQ_TAIL, and CQ_HEAD stays. -/
theorem State.putRecord_head (s : State) (q : Nat) (x : BitVec 256) : ((s.putRecord q x).cq q).head = (s.cq q).head := by
  unfold State.putRecord
  dsimp only
  rw [(State.devWrite_accessed ..).cq, State.cq_setCq]

theorem State.drainCq_head (q : Nat) : ∀ (n : Nat) (s : State), ((State.drainCq n s q).cq q).head = (s.cq q).head
  | 0, _ => rfl
  | n + 1, s => by
    unfold State.drainCq
    dsimp only
    split
    · rfl
    · split
      · rw [State.drainCq_head q n, State.putRecord_head, State.cq_setCq]
      · rfl

theorem State.signal_cq (s : State) (v q : Nat) : (s.signal v).cq q = s.cq q := by
  unfold State.signal
  split
  · split <;> rfl
  · rfl

theorem State.flushCq_head (s : State) (q : Nat) : ((s.flushCq q).cq q).head = (s.cq q).head := by
  have drained := State.drainCq_head q (s.cq q).waiting.length s
  unfold State.flushCq
  dsimp only
  split
  · rw [State.signal_cq, drained]
  · exact drained

theorem State.releaseCq_head (s : State) (q : Nat) : ((s.releaseCq q).cq q).head = (s.cq q).head := by
  unfold State.releaseCq
  dsimp only
  rw [State.cq_setCq]
  exact s.flushCq_head q

/-- With no record waiting the stall alone may end. -/
theorem State.releaseCq_empty {s : State} {q : Nat} (h : (s.cq q).waiting = []) :
    s.releaseCq q = s.setCq q { s.cq q with stalled := !s.cqRoom q } := by
  unfold State.releaseCq
  rw [State.flushCq_empty h]

theorem State.cqRoom_stalled (s : State) (q : Nat) (b : Bool) : (s.setCq q { s.cq q with stalled := b }).cqRoom q = s.cqRoom q := by
  unfold State.cqRoom
  rw [State.cq_setCq]
  rfl

theorem execCqHeadWrite_roomy {s : State} {q : Nat} {head : BitVec 32} (room : s.log.roomy = true) (hq : q < 64)
    (h : s.odGet (Od.cqEnable q) = 1) : exec (.cqHeadWrite q head) s =
      .next ((s.devWrite (devAttr 0xF3 1) (s.odGet (Od.cqCtrl q) + 128) (natBytes 4 head.toNat)).newCqHead q head.toNat) := by
  have run : exec (.cqHeadWrite q head) s = execCqHeadWrite q head s := rfl
  rw [run, execCqHeadWrite, withRoom_roomy room, if_pos ⟨hq, h⟩]

/-- Settles O29: the line that is written is memory's, so that the dispatcher finds its rings as they were. -/
theorem ringCommands : Obligations.RingCommands := by
  unfold Obligations.RingCommands
  refine ⟨fun s cmd c due => ?_, fun s r tail room hr enabled running => ⟨fun valid => ?_, fun invalid => ?_⟩, fun s q head room hq enabled => ?_⟩
  · have run : exec (.nopCommand cmd) s = execNopCommand cmd s := rfl
    rw [run, execNopCommand, withRoom_roomy due.room, State.onCmd_due due]
  · have line := s.devWrite_accessed (devAttr 0xF3 1) (s.odGet (Od.ringCtrl r)) (natBytes 4 tail.toNat)
    rw [execTailLineWrite_roomy room hr enabled, line.newTail_valid enabled running valid]
    exact ⟨_, rfl, by rw [State.ring_setRing, line.ring]⟩
  · have line := s.devWrite_accessed (devAttr 0xF3 1) (s.odGet (Od.ringCtrl r)) (natBytes 4 tail.toNat)
    rw [execTailLineWrite_roomy room hr enabled, line.newTail_invalid enabled running invalid]
    generalize s.devWrite (devAttr 0xF3 1) (s.odGet (Od.ringCtrl r)) (natBytes 4 tail.toNat) = t at line
    obtain ⟨stopped, rings⟩ := t.setRingState_spec r 3
    generalize t.setRingState r 3 = u at stopped rings
    exact ⟨_, rfl, stopped, (rings r).trans (line.ring r), u.event_last ..⟩
  · have line := s.devWrite_accessed (devAttr 0xF3 1) (s.odGet (Od.cqCtrl q) + 128) (natBytes 4 head.toNat)
    have own := line.od (Od.cqEnable q) (Od.apart_dispatcher (by omega) (by decide))
    rw [execCqHeadWrite_roomy room hq enabled]
    generalize s.devWrite (devAttr 0xF3 1) (s.odGet (Od.cqCtrl q) + 128) (natBytes 4 head.toNat) = t at line own
    unfold State.newCqHead
    rw [if_neg (by rw [own, enabled]; decide)]
    refine ⟨_, rfl, by rw [State.releaseCq_head, State.cq_setCq], fun idle => ?_⟩
    have waiting : ((t.setCq q { t.cq q with head := head.toNat }).cq q).waiting = [] := by
      rw [State.cq_setCq, line.cq, idle]
    rw [State.releaseCq_empty waiting, State.cqRoom_stalled, State.cq_setCq]
    refine ⟨waiting, by simp, ?_⟩
    rw [State.cq_setCq, line.cq]

end Sys2Proof.Machine
end

section
/-! SUPPORT. Writes to clean words (R7, R234): the bytes written are read back, and every other byte keeps its value. -/

namespace Sys2Proof.Machine
open Sys2Proof

/-! ### Bytes in numbers and words -/

theorem bytesNat_byte : ∀ (bs : List Byte) (k : Nat), bytesNat bs / 256 ^ k % 256 = (bs.getD k 0).toNat
  | [], k => by simp [bytesNat]
  | b :: bs, 0 => by
    have := b.isLt
    simp only [bytesNat, List.getD_cons_zero]
    omega
  | b :: bs, k + 1 => by
    have := b.isLt
    have shift : (b.toNat + 256 * bytesNat bs) / 256 = bytesNat bs := by omega
    rw [bytesNat, Nat.pow_succ', ← Nat.div_div_eq_div_mul, shift, bytesNat_byte bs k, List.getD_cons_succ]

/-- The bytes of a word that a list of bytes gives. -/
theorem extract_bytesNat {n : Nat} (bs : List Byte) {k : Nat} (hk : 8 * k + 8 ≤ n) :
    (BitVec.ofNat n (bytesNat bs)).extractLsb' (8 * k) 8 = bs.getD k 0 := by
  apply BitVec.eq_of_getLsbD_eq
  intro j hj
  have byte : (bytesNat bs / 2 ^ (8 * k) % 2 ^ 8).testBit j = (bs.getD k 0).getLsbD j := by
    rw [pow_mul]
    exact congrArg (Nat.testBit · j) (bytesNat_byte bs k)
  rw [Nat.testBit_mod_two_pow, Nat.testBit_div_two_pow] at byte
  rw [BitVec.getLsbD_extractLsb', BitVec.getLsbD_ofNat, ← byte]
  simp only [hj, show 8 * k + j < n by omega, decide_true, Bool.true_and]
  rw [Nat.add_comm]

/-- Words are equal whose bytes are. -/
theorem eq_of_extract_eq {n : Nat} {x y : BitVec (8 * n)} (h : ∀ k < n, x.extractLsb' (8 * k) 8 = y.extractLsb' (8 * k) 8) : x = y := by
  apply BitVec.eq_of_getLsbD_eq
  intro j hj
  have := congrArg (BitVec.getLsbD · (j % 8)) (h (j / 8) (by omega))
  simpa [BitVec.getLsbD_extractLsb', Nat.mod_lt, Nat.div_add_mod] using this

theorem natBytes_getD : ∀ (n v k : Nat), k < n → (natBytes n v).getD k 0 = BitVec.ofNat 8 (v / 256 ^ k)
  | 0, _, _, h => by omega
  | n + 1, v, 0, _ => by simp [natBytes]
  | n + 1, v, k + 1, h => by
    rw [natBytes, List.getD_cons_succ, natBytes_getD n (v / 256) k (by omega), Nat.pow_succ', Nat.div_div_eq_div_mul]

@[simp] theorem length_natBytes : ∀ (n v : Nat), (natBytes n v).length = n
  | 0, _ => rfl
  | n + 1, v => by rw [natBytes, List.length_cons, length_natBytes n]

/-- A word with byte `i` replaced. -/
theorem extract_replaced {n : Nat} (d : BitVec n) (b : Byte) {i k : Nat} (hi : 8 * i + 8 ≤ n) (hk : 8 * k + 8 ≤ n) :
    ((d &&& ~~~((0xFF : BitVec n) <<< (8 * i))) ||| (b.setWidth n <<< (8 * i))).extractLsb' (8 * k) 8 =
      if k = i then b else d.extractLsb' (8 * k) 8 := by
  have ones : ∀ j, (0xFF : BitVec n).getLsbD j = decide (j < 8) := fun j => by
    have byte : Nat.testBit 255 j = decide (j < 8) := Nat.testBit_two_pow_sub_one 8 j
    change (BitVec.ofNat n 255).getLsbD j = _
    rw [BitVec.getLsbD_ofNat, byte, Bool.and_eq_right_iff_imp]
    simp only [decide_eq_true_eq]
    omega
  apply BitVec.eq_of_getLsbD_eq
  intro j hj
  simp only [BitVec.getLsbD_extractLsb', BitVec.getLsbD_or, BitVec.getLsbD_and, BitVec.getLsbD_not, BitVec.getLsbD_shiftLeft,
    BitVec.getLsbD_setWidth, ones, hj, decide_true, Bool.true_and]
  have inside : 8 * k + j < n := by omega
  obtain below | rfl | above := Nat.lt_trichotomy k i
  · have : 8 * k + j < 8 * i := by omega
    simp [below.ne, inside, this, hj]
  · have : ¬(8 * k + j < 8 * k) := by omega
    have : 8 * k + j - 8 * k = j := by omega
    have : j < n := by omega
    simp [*]
  · have : ¬(8 * k + j < 8 * i) := by omega
    have far : ¬(8 * k + j - 8 * i < 8) := by omega
    rw [if_neg above.ne', BitVec.getLsbD_of_ge b _ (by omega)]
    simp [*]

/-- The bytes of a word with some of them replaced. -/
theorem extract_mergeBytes : ∀ (bs : List Byte) (d : BitVec 64) {i k : Nat}, i + bs.length ≤ 8 → k < 8 →
    (mergeBytes d i bs).extractLsb' (8 * k) 8 = if i ≤ k ∧ k < i + bs.length then bs.getD (k - i) 0 else d.extractLsb' (8 * k) 8
  | [], d, i, k, _, _ => by
    rw [if_neg (by simp), mergeBytes]
  | b :: bs, d, i, k, hi, hk => by
    rw [List.length_cons] at hi
    rw [mergeBytes, extract_mergeBytes bs _ (by omega) hk, extract_replaced d b (by omega) (by omega), List.length_cons]
    obtain below | rfl | above := Nat.lt_trichotomy k i
    · rw [if_neg (by omega), if_neg (by omega), if_neg (by omega)]
    · rw [if_neg (by omega), if_pos rfl, if_pos (by omega)]
      simp
    · have place : k - i = (k - (i + 1)) + 1 := by omega
      by_cases inside : k < i + (bs.length + 1)
      · rw [if_pos (by omega), if_pos (by omega), place, List.getD_cons_succ]
      · rw [if_neg (by omega), if_neg (by omega), if_neg (by omega)]

theorem codeData_codeWord (d : BitVec 64) (p : Bool) : codeData (codeWord d p) = d := by
  unfold codeData codeWord
  apply BitVec.eq_of_getLsbD_eq
  intro j hj
  simp only [BitVec.getLsbD_extractLsb', BitVec.getLsbD_append, hj, decide_true, Bool.true_and, Nat.zero_add,
    show j < 79 by omega, if_true]

/-! ### One word -/

theorem State.memByte_setMemWord (s : State) (w : Nat) (d : BitVec 64) (b : Nat) :
    (s.setMemWord w d).memByte b = if b / 8 = w then d.extractLsb' (8 * (b % 8)) 8 else s.memByte b := by
  have written : ∀ n ≤ 8, ((List.range n).foldl (fun s i => s.setMemByte (8 * w + i) (d.extractLsb' (8 * i) 8)) s).memByte b =
      if b / 8 = w ∧ b % 8 < n then d.extractLsb' (8 * (b % 8)) 8 else s.memByte b := by
    intro n
    induction n with
    | zero => intro _; simp
    | succ n ih =>
      intro hn
      rw [List.range_succ, List.foldl_append, List.foldl_cons, List.foldl_nil, State.memByte_setMemByte, ih (by omega)]
      by_cases here : b = 8 * w + n
      · have : b % 8 = n := by omega
        rw [if_pos here, if_pos (by omega), this]
      · rw [if_neg here]
        by_cases low : b / 8 = w ∧ b % 8 < n
        · rw [if_pos low, if_pos (by omega)]
        · rw [if_neg low, if_neg (by omega)]
  unfold State.setMemWord
  rw [written 8 le_rfl]
  have := Nat.mod_lt b (show 0 < 8 by decide)
  simp [this]

theorem State.memWord_congr {s t : State} {w : Nat} (h : ∀ b, b / 8 = w → t.memByte b = s.memByte b) : t.memWord w = s.memWord w := by
  unfold State.memWord
  rw [h (8 * w + 7) (by omega), h (8 * w + 6) (by omega), h (8 * w + 5) (by omega), h (8 * w + 4) (by omega),
    h (8 * w + 3) (by omega), h (8 * w + 2) (by omega), h (8 * w + 1) (by omega), h (8 * w) (by omega)]

/-- What is left of memory by a write of one word: another data, and nothing of another word. -/
structure WordBecomes (s t : State) (w : Nat) (d : BitVec 64) : Prop where
  byte : ∀ b, t.memByte b = if b / 8 = w then d.extractLsb' (8 * (b % 8)) 8 else s.memByte b
  raw : ∀ v, v ≠ w → t.rawWord v = s.rawWord v
  racy : t.racy = s.racy
  fails : t.hbmReadFails = s.hbmReadFails

theorem State.setMemWord_rest (s : State) (w : Nat) (d : BitVec 64) :
    (s.setMemWord w d).side = s.side ∧ (s.setMemWord w d).hbmNoise = s.hbmNoise ∧ (s.setMemWord w d).racy = s.racy ∧
      (s.setMemWord w d).hbmReadFails = s.hbmReadFails := by
  have rest : ∀ (l : List Nat) (t : State), let u := l.foldl (fun s i => s.setMemByte (8 * w + i) (d.extractLsb' (8 * i) 8)) t
      u.side = t.side ∧ u.hbmNoise = t.hbmNoise ∧ u.racy = t.racy ∧ u.hbmReadFails = t.hbmReadFails := by
    intro l
    induction l with
    | nil => exact fun _ => ⟨rfl, rfl, rfl, rfl⟩
    | cons i l ih => exact fun t => ih _
  exact rest _ s

theorem State.setRaw_becomes (s : State) (w : Nat) (x : CodeWord) : WordBecomes s (s.setRaw w x) w (codeData x) := by
  have bytes := s.memByte_setMemWord w (codeData x)
  obtain ⟨side, noise, racy, fails⟩ := s.setMemWord_rest w (codeData x)
  unfold State.setRaw
  generalize s.setMemWord w (codeData x) = t at bytes side noise racy fails
  refine ⟨bytes, fun v hv => ?_, racy, fails⟩
  have data : State.memWord { t with side := SMap.set (t.sideDflt w) t.side w (x.extractLsb' 64 16) } v = s.memWord v :=
    State.memWord_congr fun b hb => (bytes b).trans (if_neg (by omega))
  have check : SMap.get (t.sideDflt v) (SMap.set (t.sideDflt w) t.side w (x.extractLsb' 64 16)) v =
      SMap.get (s.sideDflt v) s.side v := by
    rw [SMap.get_set_other _ _ _ hv, side]
    unfold State.sideDflt
    rw [noise]
  unfold State.rawWord
  rw [data]
  exact congrArg (· ++ _) check

theorem SameMem.becomes {s t u : State} {w : Nat} {d : BitVec 64} (h : SameMem s t) (k : WordBecomes t u w d) :
    WordBecomes s u w d :=
  ⟨fun b => by rw [k.byte, h.byte], fun v hv => (k.raw v hv).trans (h.raw v), k.racy.trans h.racy, k.fails.trans h.fails⟩

theorem State.noteStore_sameMem (s : State) (w : Nat) : SameMem s (s.noteStore w) := by
  unfold State.noteStore State.noteOld
  split
  · dsimp only
    split
    · exact .refl s
    · exact ⟨rfl, rfl, rfl, rfl, rfl⟩
  · exact .refl s

theorem State.seenWrite_sameMem (s : State) (w : Nat) : SameMem s (s.seenWrite w) := by
  unfold State.seenWrite
  split
  · exact .refl s
  · exact ⟨rfl, rfl, rfl, rfl, rfl⟩

theorem State.updWord_becomes {s : State} {w : Nat} (h : s.racyAt w = none) (f : CodeWord → CodeWord) :
    WordBecomes s (s.updWord w f) w (codeData (f (s.rawWord w))) := by
  have same := (s.noteStore_sameMem w).trans (State.seenWrite_sameMem _ w)
  unfold State.updWord
  generalize (s.noteStore w).seenWrite w = t at same
  have still : t.racyAt w = none := by
    unfold State.racyAt at h ⊢
    rw [same.racy, h]
  dsimp only
  rw [still, ← same.raw]
  exact same.becomes (t.setRaw_becomes ..)

/-- A piece of a write: bytes of one clean word, from its byte `i` on. -/
def State.writePiece (s : State) (w i : Nat) (bs : List Byte) : State :=
  if bs.length = 8 then s.writeWord w (BitVec.ofNat 64 (bytesNat bs)) false else s.mergeWord w i bs

theorem State.writePiece_byte {s : State} {w i : Nat} {bs : List Byte} (h : CleanWord s w) (hf : s.hbmReadFails = [])
    (hi : i + bs.length ≤ 8) : let t := s.writePiece w i bs
    (∀ b, t.memByte b = if b / 8 = w ∧ i ≤ b % 8 ∧ b % 8 < i + bs.length then bs.getD (b % 8 - i) 0 else s.memByte b) ∧
      (∀ v, v ≠ w → CleanWord s v → CleanWord t v) ∧ t.hbmReadFails = [] := by
  have stays : ∀ {t d}, WordBecomes s t w d → ∀ v, v ≠ w → CleanWord s v → CleanWord t v := fun k v hv hc =>
    ⟨by rw [k.raw v hv, hc.code], by rw [k.raw v hv, hc.poison], by unfold State.racyAt; rw [k.racy]; exact hc.still⟩
  have low : ∀ b : Nat, b % 8 < 8 := fun b => Nat.mod_lt b (by decide)
  unfold State.writePiece
  split
  · next full =>
    have wrote := State.updWord_becomes h.still fun _ => codeWord (BitVec.ofNat 64 (bytesNat bs)) false
    refine ⟨fun b => ?_, stays wrote, wrote.fails.trans hf⟩
    have first : i = 0 := by omega
    unfold State.writeWord
    rw [wrote.byte, codeData_codeWord, extract_bytesNat bs (by have := low b; omega), first]
    have := low b
    simp [full, this]
  · have read := State.readWord_clean h hf .merged
    have reads : s.readFails w = false := by
      unfold State.readFails
      simp [hf]
    have data : codeData (s.rawWord w) = s.memWord w := by
      unfold codeData State.rawWord
      exact BitVec.extractLsb'_append_eq_right
    have given : deliver (s.rawWord w) = (s.memWord w, false) := by
      unfold deliver checkedWord
      rw [h.code]
      exact Prod.ext data h.poison
    have wrote := State.updWord_becomes h.still fun x =>
      codeWord (mergeBytes (deliver x).1 i bs) (s.readFails w || (deliver x).2)
    unfold State.mergeWord
    rw [read]
    refine ⟨fun b => ?_, stays wrote, wrote.fails.trans hf⟩
    rw [wrote.byte, codeData_codeWord, given, extract_mergeBytes bs _ hi (low b)]
    by_cases here : b / 8 = w
    · have own : (s.memWord w).extractLsb' (8 * (b % 8)) 8 = s.memByte b := by
        have := congrArg (fun l => l.getD (b % 8) 0) (s.wordBytes_memWord w)
        unfold wordBytes State.memBytes at this
        simpa [List.getD_eq_getElem?_getD, low b, ← here, Nat.div_add_mod] using this
      simp [here, own]
    · simp [here]

/-! ### A range -/

theorem mem_spanWords {a n b : Nat} (hb : a ≤ b) (hb' : b < a + n) : b / 8 ∈ spanWords a n := by
  unfold spanWords
  rw [List.mem_range'_1]
  omega

theorem State.writeFuel_succ (k : Nat) (s : State) (a : Nat) {bs : List Byte} (h : bs ≠ []) :
    State.writeFuel (k + 1) s a bs false = State.writeFuel k
      (s.writePiece (a / 8) (a % 8) (bs.take (pieceLen a bs.length))) (a + pieceLen a bs.length) (bs.drop (pieceLen a bs.length))
      false := by
  have taken : (bs.take (pieceLen a bs.length)).length = pieceLen a bs.length := by
    rw [List.length_take]
    exact Nat.min_eq_left (Nat.min_le_left ..)
  unfold State.writePiece
  rw [taken]
  cases bs with
  | nil => exact absurd rfl h
  | cons c cs =>
    rw [State.writeFuel]
    · split
      · next whole => rw [whole]
      · rfl
    · exact h

/-- Bytes written to clean words stand in memory, and no other byte changes. -/
theorem State.writeFuel_byte : ∀ (k : Nat) {s : State} {a : Nat} {bs : List Byte}, bs.length ≤ k →
    (bs ≠ [] → CleanBytes s a bs.length) → s.hbmReadFails = [] → ∀ b, (State.writeFuel k s a bs false).memByte b =
      if a ≤ b ∧ b < a + bs.length then bs.getD (b - a) 0 else s.memByte b
  | 0, s, a, bs, hk, _, _, b => by
    rw [if_neg (by omega)]
    rfl
  | k + 1, s, a, bs, hk, hc, hf, b => by
    by_cases empty : bs = []
    · subst empty
      rw [if_neg (by simp)]
      rfl
    have some := List.length_pos_iff.mpr empty
    rw [State.writeFuel_succ k s a empty]
    have piece : pieceLen a bs.length = min bs.length (8 - a % 8) := rfl
    generalize pieceLen a bs.length = n at *
    have taken : (bs.take n).length = n := by rw [List.length_take]; omega
    have dropped : (bs.drop n).length = bs.length - n := List.length_drop
    obtain ⟨byte, clean, fails⟩ := State.writePiece_byte (i := a % 8) (bs := bs.take n)
      (hc empty (a / 8) (mem_spanWords le_rfl (by omega))) hf (by rw [taken]; omega)
    have rest : bs.drop n ≠ [] → CleanBytes (s.writePiece (a / 8) (a % 8) (bs.take n)) (a + n) (bs.drop n).length := by
      intro left v hv
      have := List.length_pos_iff.mpr left
      unfold spanWords at hv
      rw [dropped] at this hv
      rw [List.mem_range'_1] at hv
      have next : n = 8 - a % 8 := by omega
      exact clean v (by omega) (hc empty v (by unfold spanWords; rw [List.mem_range'_1]; omega))
    rw [State.writeFuel_byte k (by omega) rest fails b, byte, taken, dropped]
    by_cases late : a + n ≤ b ∧ b < a + n + (bs.length - n)
    · rw [if_pos late, if_pos (by omega), List.getD_eq_getElem?_getD, List.getElem?_drop, List.getD_eq_getElem?_getD]
      congr 2
      omega
    · rw [if_neg late]
      by_cases here : b / 8 = a / 8 ∧ a % 8 ≤ b % 8 ∧ b % 8 < a % 8 + n
      · rw [if_pos here, if_pos (by omega), List.getD_eq_getElem?_getD, List.getElem?_take_of_lt (by omega),
          List.getD_eq_getElem?_getD]
        congr 2
        omega
      · rw [if_neg here, if_neg (by omega)]

theorem State.sendInvalidate_sameMem (s : State) (line : Nat) (c : Coord) : SameMem s (s.sendInvalidate line c) := by
  unfold State.sendInvalidate State.launchPacket State.sendPacket State.queuePacket State.dropQueued
  dsimp only
  repeat' split
  all_goals exact ⟨rfl, rfl, rfl, rfl, rfl⟩

theorem State.invalidateLine_sameMem (s : State) (line : Nat) : SameMem s (s.invalidateLine line) := by
  have forgotten : ∀ d, SameMem s { s with fab := { s.fab with directory := d } } := fun _ => ⟨rfl, rfl, rfl, rfl, rfl⟩
  unfold State.invalidateLine
  exact (forgotten _).trans (SameMem.foldl (fun t c => t.sendInvalidate_sameMem line c) _ _)

theorem State.coherentWrite_sameMem (s : State) (a n : Nat) : SameMem s (s.coherentWrite a n) := by
  refine SameMem.foldl (fun t e => ?_) _ s
  have invalidated := t.invalidateLine_sameMem e.1
  dsimp only
  split
  · exact invalidated
  · exact invalidated.trans ⟨rfl, rfl, rfl, rfl, rfl⟩

/-- A master's write to clean words. -/
theorem State.devWrite_byte {s : State} {a : Nat} {bs : List Byte} (h : CleanBytes s a bs.length) (hf : s.hbmReadFails = [])
    (at_ : Attr) (b : Nat) :
    (s.devWrite at_ a bs).memByte b = if a ≤ b ∧ b < a + bs.length then bs.getD (b - a) 0 else s.memByte b := by
  have same := (s.countSpan_sameMem at_ 1 a bs.length).trans (State.coherentWrite_sameMem _ a bs.length)
  unfold State.devWrite State.writeBytes
  rw [State.writeFuel_byte _ le_rfl (fun _ => same.clean h) (same.fails.trans hf), same.byte]

theorem State.devWrite_bytes {s : State} {a : Nat} {bs : List Byte} (h : CleanBytes s a bs.length) (hf : s.hbmReadFails = [])
    (at_ : Attr) : (s.devWrite at_ a bs).memBytes a bs.length = bs := by
  refine List.ext_getElem (by simp) fun k hk hk' => ?_
  simp only [State.memBytes, List.getElem_map, List.getElem_range]
  rw [State.devWrite_byte h hf, if_pos (by omega), Nat.add_sub_cancel_left, List.getD_eq_getElem?_getD]
  simp [hk']

theorem State.devWrite_other {s : State} {a : Nat} {bs : List Byte} (h : CleanBytes s a bs.length) (hf : s.hbmReadFails = [])
    (at_ : Attr) {b : Nat} (hb : b < a ∨ a + bs.length ≤ b) : (s.devWrite at_ a bs).memByte b = s.memByte b := by
  rw [State.devWrite_byte h hf, if_neg (by omega)]

end Sys2Proof.Machine
end

section
/-! SUPPORT. Mailbox requests and signalled vectors (R50, R51, R56, R57, R473). -/

namespace Sys2Proof.Machine
open Sys2Proof

/-! ### A write that no entry takes -/

theorem State.writeRefused_denied {s : State} {via : OdPath} {idx sub v : Nat} (h : s.pathOpen via = true)
    (hd : s.writeDenied via idx sub v = true) : s.writeRefused via idx sub v = s.answerWrite via idx sub Status.denied := by
  unfold State.writeRefused State.odRow State.serveWrite
  rw [if_pos h, if_pos hd]
  rfl

theorem State.writeRefused_notFound {s : State} {via : OdPath} {idx sub v : Nat} (h : s.pathOpen via = true)
    (hd : s.writeDenied via idx sub v = false) (hn : odRange? idx = none ∨ s.odRow? idx sub = none) :
    s.writeRefused via idx sub v = s.answerWrite via idx sub Status.notFound := by
  unfold State.writeRefused State.odRow State.serveWrite
  rw [if_pos h, hd, if_neg Bool.false_ne_true]
  by_cases range : (odRange? idx).isNone = true
  · rw [if_pos range]
    rfl
  · rw [if_neg range, hn.resolve_left fun e => range (by rw [e]; rfl)]
    rfl

theorem State.writeRefused_refused {s : State} {via : OdPath} {idx sub v : Nat} (h : Reached s via idx sub v) :
    s.writeRefused via idx sub v = s.answerWrite via idx sub Status.refused := by
  obtain ⟨r, -, e⟩ := State.odRow_reached h fun s _ => .now Status.refused s
  exact e

/-! ### A mailbox request -/

/-- The mailbox with a request that the host has set GO for. -/
def Mailbox.asked (b : Mailbox) (q : MailboxReq) : Mailbox :=
  { b with op := q.op, index := q.index, sub := q.sub, seq := q.seq, length := q.length, bufAddr := q.bufAddr
           value := q.value, go := true, done := false }

def State.asked (s : State) (m : Nat) (q : MailboxReq) : State := s.setMailbox m ((s.mailbox m).asked q)

theorem State.mailbox_setMailbox (s : State) (m : Nat) (b : Mailbox) : (s.setMailbox m b).mailbox m = b := by
  unfold State.mailbox State.setMailbox
  exact SMap.get_set_self ..

theorem mailboxRequest_busy {s : State} {m : Nat} {q : MailboxReq} (room : s.log.roomy = true)
    (open_ : s.pathOpen (.mailbox m) = true) (go : (s.mailbox m).go = true) :
    exec (.mailboxRequest m q) s = .next (s.event 0x0F 0 0x0002 sevWarning [(16, 1, m)]) := by
  have run : exec (.mailboxRequest m q) s = execMailboxRequest m q s := rfl
  rw [run, execMailboxRequest, withRoom_roomy room, if_pos open_]
  dsimp only
  rw [if_pos go]

theorem mailboxRequest_served {s : State} {m : Nat} {q : MailboxReq} (room : s.log.roomy = true)
    (open_ : s.pathOpen (.mailbox m) = true) (go : (s.mailbox m).go = false) :
    exec (.mailboxRequest m q) s = .next (
      if s.placesFull then (s.asked m q).answerWrite (.mailbox m) q.index.toNat q.sub.toNat Status.busy
      else if q.op = 0 then (s.asked m q).mailboxRead m q
      else if q.op = 1 then (s.asked m q).mailboxWrite m q
      else (s.asked m q).writeRefused (.mailbox m) q.index.toNat q.sub.toNat 0) := by
  have run : exec (.mailboxRequest m q) s = execMailboxRequest m q s := rfl
  rw [run, execMailboxRequest, withRoom_roomy room, if_pos open_]
  dsimp only
  rw [go]
  rfl

theorem placesFull_iff (s : State) : s.placesFull = true ↔ 32 ≤ s.waitingPaths.length := by
  unfold State.placesFull
  exact decide_eq_true_iff

/-- What a read of the dictionary sees does not lie in a mailbox. -/
theorem State.asked_odRead (s : State) (m : Nat) (q : MailboxReq) (r : OdRow) (idx sub : Nat) :
    (s.asked m q).odRead r idx sub = s.odRead r idx sub := by
  have value : (s.asked m q).odValue idx sub = s.odValue idx sub := by
    unfold State.odValue
    dsimp only
    rfl
  have bytes : (s.asked m q).odBytes idx sub = s.odBytes idx sub := by
    have types : ∀ e n, (s.asked m q).typeData e n = s.typeData e n := fun _ _ => rfl
    have regions : (s.asked m q).regionTable = s.regionTable := rfl
    have sec : (s.asked m q).sec = s.sec := rfl
    have log : (s.asked m q).log = s.log := rfl
    unfold State.odBytes
    simp only [types, regions, sec, log]
  unfold State.odRead
  rw [value, bytes]

theorem State.asked_odReadStatus (s : State) (m : Nat) (q : MailboxReq) (via : OdPath) (idx sub : Nat) :
    (s.asked m q).odReadStatus via idx sub = s.odReadStatus via idx sub := rfl

theorem State.mailboxRead_failed {s : State} {m : Nat} {q : MailboxReq} {st : Status}
    (h : s.odReadStatus (.mailbox m) q.index.toNat q.sub.toNat = (st, none)) :
    s.mailboxRead m q = s.answerWrite (.mailbox m) q.index.toNat q.sub.toNat st := by
  unfold State.mailboxRead
  dsimp only
  rw [h]

theorem State.mailboxRead_served {s : State} {m : Nat} {q : MailboxReq} {r : OdRow}
    (h : s.odReadStatus (.mailbox m) q.index.toNat q.sub.toNat = (Status.ok, some r)) (hr : r.ty ≠ .domain) :
    s.mailboxRead m q =
      let bs := s.odRead r q.index.toNat q.sub.toNat
      (s.setMailbox m { s.mailbox m with length := bs.length, value := bs ++ (s.mailbox m).value.drop bs.length }).mailboxDone m
        Status.ok := by
  unfold State.mailboxRead
  dsimp only
  rw [h]
  dsimp only
  rw [if_neg hr]
  rfl

theorem State.mailboxWrite_served {s : State} {m : Nat} {q : MailboxReq} {r : OdRow}
    (h : s.odRow? q.index.toNat q.sub.toNat = some r) (hr : r.ty ≠ .domain) :
    s.mailboxWrite m q = s.odWriteVia (.mailbox m) q.index.toNat q.sub.toNat
      ((List.range q.length).map fun i => q.value.getD i 0) := by
  unfold State.mailboxWrite
  dsimp only
  rw [h]
  exact if_neg hr

/-- A signalled vector shows a message or sets a pending bit, and changes nothing else. -/
theorem State.signal_rest (s : State) (v : Nat) : s.signal v = { s with out := (s.signal v).out, pcie := (s.signal v).pcie } := by
  unfold State.signal
  split
  · split <;> rfl
  · rfl

theorem State.signal_same {s t : State} (v : Nat) (hd : t.dev = s.dev) (hp : t.pcie = s.pcie) (ho : t.out = s.out) :
    (t.signal v).out = (s.signal v).out ∧ (t.signal v).pcie = (s.signal v).pcie := by
  unfold State.signal
  rw [hd, hp]
  split
  · split
    · exact ⟨ho, rfl⟩
    · exact ⟨congrArg (s.pcie.message v :: ·) ho, hp⟩
  · exact ⟨ho, hp⟩

/-- The mailbox with its answer. -/
def Mailbox.answered (b : Mailbox) (st : Status) (now : Nat) : Mailbox :=
  { b with status := st, doneTime := now, done := true, go := false }

theorem State.mailboxDone_spec (s : State) (m : Nat) (st : Status) :
    (s.mailboxDone m st).mailbox m = (s.mailbox m).answered st s.clk.now ∧
      (s.mailboxDone m st).out = (s.signal m).out ∧ (s.mailboxDone m st).pcie = (s.signal m).pcie ∧
      s.mailboxDone m st = { s with hm := (s.mailboxDone m st).hm, out := (s.mailboxDone m st).out
                                    pcie := (s.mailboxDone m st).pcie } := by
  have done : s.mailboxDone m st = (s.setMailbox m ((s.mailbox m).answered st s.clk.now)).signal m := rfl
  rw [done]
  generalize ht : s.setMailbox m ((s.mailbox m).answered st s.clk.now) = t
  obtain ⟨out, pcie⟩ := State.signal_same (s := s) (t := t) m (by rw [← ht]; rfl) (by rw [← ht]; rfl) (by rw [← ht]; rfl)
  have hm : (t.signal m).hm = t.hm := by rw [t.signal_rest]
  refine ⟨?_, out, pcie, ?_⟩
  · unfold State.mailbox
    rw [hm, ← ht]
    exact SMap.get_set_self ..
  · rw [hm]
    refine (t.signal_rest m).trans ?_
    rw [← ht]
    rfl

end Sys2Proof.Machine
end

section
/-! SUPPORT. The MSI-X table and its pending bits, and configuration requests (R47, R473). -/

namespace Sys2Proof.Machine
open Sys2Proof

/-! ### Signals and pending bits -/

theorem getLsbD_vector {i v : Nat} (hi : i < 73) : (BitVec.ofNat 73 (2 ^ v)).getLsbD i = decide (i = v) := by
  rw [BitVec.getLsbD_ofNat, Nat.testBit_two_pow]
  simp only [hi, decide_true, Bool.true_and, decide_eq_decide]
  exact eq_comm

theorem State.signal_off {s : State} {v : Nat} (h : s.dev.linkUp = false ∨ s.pcie.msixEnable = false) : s.signal v = s := by
  unfold State.signal
  rw [if_neg]
  simp only [Bool.and_eq_true, not_and_or, Bool.not_eq_true]
  exact h

theorem State.signal_open {s : State} {v : Nat} (hl : s.dev.linkUp = true) (he : s.pcie.msixEnable = true)
    (hm : s.pcie.masked v = false) : s.signal v = s.emit (s.pcie.message v) := by
  unfold State.signal
  simp [hl, he, hm]

theorem State.signal_masked {s : State} {v : Nat} (hl : s.dev.linkUp = true) (he : s.pcie.msixEnable = true)
    (hm : s.pcie.masked v = true) :
    s.signal v = { s with pcie := { s.pcie with msixPending := s.pcie.msixPending ||| BitVec.ofNat 73 (2 ^ v) } } := by
  unfold State.signal
  simp [hl, he, hm]

/-- The message of a vector is sent if it is pending and may be. -/
def State.sendVector (s : State) (v : Nat) : State :=
  if s.pcie.msixPending.getLsbD v && s.pcie.msixEnable && !s.pcie.masked v then
    { s with pcie := { s.pcie with msixPending := s.pcie.msixPending &&& ~~~BitVec.ofNat 73 (2 ^ v) } }.emit (s.pcie.message v)
  else s

theorem State.sendPending_eq (s : State) : s.sendPending = (List.range 73).foldl State.sendVector s := rfl

theorem sendVectors_idle : ∀ (l : List Nat) (s : State),
    (∀ i ∈ l, s.pcie.msixPending.getLsbD i = false ∨ s.pcie.masked i = true) → l.foldl State.sendVector s = s
  | [], _, _ => rfl
  | i :: l, s, h => by
    have idle : s.sendVector i = s := by
      unfold State.sendVector
      rw [if_neg]
      rcases h i (by simp) with none | masked <;> simp [*]
    rw [List.foldl_cons, idle]
    exact sendVectors_idle l s fun j hj => h j (by simp [hj])

/-- One pending vector that is not masked is sent, and none is pending after it. -/
theorem State.sendPending_one {s : State} {v : Nat} (hv : v < 73) (he : s.pcie.msixEnable = true)
    (hp : ∀ i < 73, s.pcie.msixPending.getLsbD i = decide (i = v)) (hm : s.pcie.masked v = false) :
    s.sendPending = { s with pcie := { s.pcie with msixPending := 0 } }.emit (s.pcie.message v) := by
  have before : List.range 73 = List.range v ++ v :: List.range' (v + 1) (72 - v) := by
    rw [← List.range'_succ, List.range_eq_range', List.range_eq_range']
    have joined := List.range'_append_1 (s := 0) (m := v) (n := 72 - v + 1)
    rw [Nat.zero_add] at joined
    rw [joined]
    congr 1
    omega
  have early : (List.range v).foldl State.sendVector s = s := sendVectors_idle _ s fun i hi => by
    have := List.mem_range.mp hi
    left
    rw [hp i (by omega)]
    simp only [decide_eq_false_iff_not]
    omega
  have cleared : s.pcie.msixPending &&& ~~~BitVec.ofNat 73 (2 ^ v) = 0 := by
    apply BitVec.eq_of_getLsbD_eq
    intro i hi
    rw [BitVec.getLsbD_and, BitVec.getLsbD_not, getLsbD_vector hi, hp i hi]
    simp [hi]
  have sent : s.sendVector v = { s with pcie := { s.pcie with msixPending := 0 } }.emit (s.pcie.message v) := by
    unfold State.sendVector
    rw [if_pos (by simp [hp v hv, he, hm]), cleared]
  rw [State.sendPending_eq, before, List.foldl_append, early, List.foldl_cons, sent]
  exact sendVectors_idle _ _ fun i _ => .inl (BitVec.getLsbD_zero ..)

theorem State.sendPending_masked {s : State} {v : Nat} (hp : ∀ i < 73, s.pcie.msixPending.getLsbD i = decide (i = v))
    (hm : s.pcie.masked v = true) : s.sendPending = s := by
  refine sendVectors_idle _ s fun i hi => ?_
  by_cases own : i = v
  · exact .inr (own ▸ hm)
  · left
    rw [hp i (List.mem_range.mp hi)]
    exact decide_eq_false own

/-! ### The table -/

/-- What a word of the table reads as before a write. -/
def msixInitial (i : Nat) : BitVec 32 := if i % 4 = 3 then 1 else 0

/-- A word of the table with byte `k` replaced; of a vector's control word only the mask is kept. -/
def msixMerge (i k : Nat) (w : BitVec 32) (b : Byte) : BitVec 32 :=
  let x := (w &&& ~~~((0xFF : BitVec 32) <<< (8 * k))) ||| (b.setWidth 32 <<< (8 * k))
  if i % 4 = 3 then x &&& 1 else x

/-- Word `i` of the table becomes `x`. -/
def PcieCfg.setWord (c : PcieCfg) (i : Nat) (x : BitVec 32) : PcieCfg :=
  { c with msixTable := SMap.set (msixInitial i) c.msixTable i x }

theorem PcieCfg.msixWord_setWord (c : PcieCfg) (i j : Nat) (x : BitVec 32) :
    (c.setWord i x).msixWord j = if j ≠ i then c.msixWord j else x := by
  by_cases here : j = i
  · rw [if_neg (not_not.mpr here), here]
    exact SMap.get_set_self ..
  · rw [if_pos here]
    exact SMap.get_set_other _ _ _ here _

theorem PcieCfg.msixPut_table {c : PcieCfg} {a : Nat} (h : a < 1168) (b : Byte) :
    c.msixPut a b = c.setWord (a / 4) (msixMerge (a / 4) (a % 4) (c.msixWord (a / 4)) b) := by
  unfold PcieCfg.msixPut PcieCfg.setWord msixInitial msixMerge
  rw [if_pos h]
  dsimp only
  split <;> simp

theorem PcieCfg.msixPut_beyond {c : PcieCfg} {a : Nat} (h : 1168 ≤ a) (b : Byte) : c.msixPut a b = c := by
  unfold PcieCfg.msixPut
  rw [if_neg (by omega)]

/-- The four bytes of a word of the table, written one after the other. -/
theorem msixMerge_four (i : Nat) (w : BitVec 32) (b0 b1 b2 b3 : Byte) :
    msixMerge i 3 (msixMerge i 2 (msixMerge i 1 (msixMerge i 0 w b0) b1) b2) b3 =
      if i % 4 = 3 then BitVec.ofNat 32 (bytesNat [b0, b1, b2, b3] % 2) else BitVec.ofNat 32 (bytesNat [b0, b1, b2, b3]) := by
  unfold msixMerge
  split
  · have low : bytesNat [b0, b1, b2, b3] % 2 = (b0.getLsbD 0).toNat := by
      have : b0.getLsbD 0 = decide (b0.toNat % 2 = 1) := by
        unfold BitVec.getLsbD
        exact Nat.testBit_zero ..
      rw [this]
      simp only [bytesNat]
      by_cases odd : b0.toNat % 2 = 1
      · rw [decide_eq_true odd, Bool.toNat_true]
        omega
      · rw [decide_eq_false odd, Bool.toNat_false]
        omega
    have mask : ∀ j, (1 : BitVec 32).getLsbD j = decide (j = 0) := fun j => by
      have : (1 : BitVec 32) = BitVec.twoPow 32 0 := rfl
      rw [this, BitVec.getLsbD_twoPow]
      simp [eq_comm]
    rw [low]
    apply BitVec.eq_of_getLsbD_eq
    intro j hj
    simp only [BitVec.getLsbD_and, mask, BitVec.getLsbD_ofNat, hj, decide_true, Bool.true_and]
    have bit : ∀ b : Bool, Nat.testBit b.toNat j = (b && decide (j = 0)) := fun b => by
      cases b
      · simp
      · rw [Bool.toNat_true, Bool.true_and, Bool.eq_iff_iff, Nat.testBit_one_eq_true_iff_self_eq_zero, decide_eq_true_iff]
    rw [bit]
    obtain rfl | high := Nat.eq_zero_or_pos j
    · simp
    · simp [show ¬j = 0 by omega]
  · refine eq_of_extract_eq (n := 4) fun k hk => ?_
    have merged := @extract_replaced 32
    have given := extract_bytesNat (n := 32) [b0, b1, b2, b3] (k := k) (by omega)
    refine Eq.trans ?_ given.symm
    rw [merged _ _ (by omega) (by omega), merged _ _ (by omega) (by omega), merged _ _ (by omega) (by omega),
      merged _ _ (by omega) (by omega)]
    interval_cases k <;> rfl

/-- A write of one word of the table. -/
theorem msixPuts_word (c : PcieCfg) {a : Nat} {bs : List Byte} (hl : bs.length = 4) (ha : a % 4 = 0) (h : a < 1168) :
    ∃ p : PcieCfg, bs.zipIdx.foldl (fun c (x : Byte × Nat) => c.msixPut (a + x.2) x.1) c = p ∧
      p = { c with msixTable := p.msixTable } ∧ ∀ i < 292, p.msixWord i =
        if i ≠ a / 4 then c.msixWord i
        else if i % 4 = 3 then BitVec.ofNat 32 (bytesNat bs % 2) else BitVec.ofNat 32 (bytesNat bs) := by
  obtain ⟨b0, b1, b2, b3, rfl⟩ := List.length_eq_four.mp hl
  have place : ∀ k < 4, a + k < 1168 ∧ (a + k) / 4 = a / 4 ∧ (a + k) % 4 = k := fun k hk => by omega
  have put : ∀ (c : PcieCfg) (k : Nat) (b : Byte), k < 4 →
      c.msixPut (a + k) b = c.setWord (a / 4) (msixMerge (a / 4) k (c.msixWord (a / 4)) b) := fun c k b hk => by
    obtain ⟨inside, word, byte⟩ := place k hk
    rw [PcieCfg.msixPut_table inside, word, byte]
  have own : ∀ (c : PcieCfg) x, (c.setWord (a / 4) x).msixWord (a / 4) = x := fun c x => by
    rw [PcieCfg.msixWord_setWord, if_neg (by simp)]
  refine ⟨_, rfl, ?_, fun i _ => ?_⟩
  · simp only [List.zipIdx_cons, List.zipIdx_nil, List.foldl_cons, List.foldl_nil, Nat.zero_add]
    rw [put _ 3 _ (by decide), put _ 2 _ (by decide), put _ 1 _ (by decide), put _ 0 _ (by decide)]
    rfl
  · simp only [List.zipIdx_cons, List.zipIdx_nil, List.foldl_cons, List.foldl_nil, Nat.zero_add]
    rw [put _ 3 _ (by decide), put _ 2 _ (by decide), put _ 1 _ (by decide), put _ 0 _ (by decide)]
    simp only [own, PcieCfg.msixWord_setWord, msixMerge_four]
    by_cases here : i = a / 4
    · subst here
      simp
    · simp [here]

theorem msixPuts_beyond (c : PcieCfg) {a : Nat} (h : 1168 ≤ a) (l : List (Byte × Nat)) :
    l.foldl (fun c (x : Byte × Nat) => c.msixPut (a + x.2) x.1) c = c := by
  induction l with
  | nil => rfl
  | cons x l ih => rw [List.foldl_cons, PcieCfg.msixPut_beyond (by omega), ih]

/-- Bytes of one word of the table, and of the pending bits. -/
theorem msixBytes_word (c : PcieCfg) {a : Nat} (ha : a % 4 = 0) (h : a < 1168) :
    ((List.range 4).map fun k => c.msixByte (a + k)) = natBytes 4 (c.msixWord (a / 4)).toNat := by
  refine List.ext_getElem (by simp) fun k hk hk' => ?_
  rw [List.length_map, List.length_range] at hk
  have given := natBytes_getD 4 (c.msixWord (a / 4)).toNat k hk
  rw [List.getD_eq_getElem?_getD, List.getElem?_eq_getElem hk', Option.getD_some] at given
  rw [List.getElem_map, List.getElem_range, given]
  unfold PcieCfg.msixByte
  rw [if_pos (by omega), show (a + k) / 4 = a / 4 by omega, show (a + k) % 4 = k by omega]
  apply BitVec.eq_of_toNat_eq
  rw [BitVec.extractLsb'_toNat, BitVec.toNat_ofNat, Nat.shiftRight_eq_div_pow, pow_mul]
  rfl

theorem msixBytes_pending (c : PcieCfg) : ((List.range 8).map fun k => c.msixByte (0x8000 + k)) = natBytes 8 c.msixPending.toNat := by
  refine List.ext_getElem (by simp) fun k hk hk' => ?_
  rw [List.length_map, List.length_range] at hk
  have given := natBytes_getD 8 c.msixPending.toNat k hk
  rw [List.getD_eq_getElem?_getD, List.getElem?_eq_getElem hk', Option.getD_some] at given
  rw [List.getElem_map, List.getElem_range, given]
  unfold PcieCfg.msixByte
  rw [if_neg (by omega), if_pos (by omega), Nat.add_sub_cancel_left, pow_mul]
  rfl

/-! ### Configuration requests -/

theorem configurationRequest_boot {s : State} (h : s.hostReaches = true) (hb : s.dev.state = .boot) (w : Bool) (reg : BitVec 10)
    (d : BitVec 32) : exec (.configurationRequest w reg d) s = .next (s.emit .cfgRetry) := by
  have run : exec (.configurationRequest w reg d) s = execConfigurationRequest w reg d s := rfl
  rw [run, execConfigurationRequest, if_pos h, if_pos hb]

theorem configurationRequest_read {s : State} (h : s.hostReaches = true) (hb : s.dev.state ≠ .boot) (reg : BitVec 10)
    (d : BitVec 32) : exec (.configurationRequest false reg d) s = .next (s.emit (.cfgData (s.pcie.read reg.toNat))) := by
  have run : exec (.configurationRequest false reg d) s = execConfigurationRequest false reg d s := rfl
  rw [run, execConfigurationRequest, if_pos h, if_neg hb]
  rfl

theorem configurationRequest_write {s : State} (h : s.hostReaches = true) (hb : s.dev.state ≠ .boot) (reg : BitVec 10)
    (d : BitVec 32) : exec (.configurationRequest true reg d) s = .next { s with pcie := s.pcie.write reg.toNat d }.sendPending := by
  have run : exec (.configurationRequest true reg d) s = execConfigurationRequest true reg d s := rfl
  rw [run, execConfigurationRequest, if_pos h, if_neg hb, if_pos rfl]

/-- The bits of a base address whose low word is written. -/
theorem barPut_low (b : BitVec 64) (d : BitVec 32) {i : Nat} (hi : i < 64) : (barPut b 0 24 d).getLsbD i =
    (decide (24 ≤ i) && if i < 32 then d.getLsbD i else b.getLsbD i) := by
  unfold barPut
  dsimp only
  rw [if_pos rfl, BitVec.getLsbD_shiftLeft]
  by_cases low : i < 24
  · simp [low, show ¬24 ≤ i by omega]
  · have high : 24 ≤ i := by omega
    rw [BitVec.getLsbD_ushiftRight, show 24 + (i - 24) = i by omega]
    simp only [hi, low, high, decide_true, decide_false, Bool.not_false, Bool.true_and]
    change (b.extractLsb' 32 32 ++ d).getLsbD i = _
    rw [BitVec.getLsbD_append, BitVec.getLsbD_extractLsb']
    split
    · rfl
    · rw [show 32 + (i - 32) = i by omega]
      simp [show i - 32 < 32 by omega]

end Sys2Proof.Machine
end

section
/-! SUPPORT. Host accesses through the BARs (R47 to R51, R223, R473). -/

namespace Sys2Proof.Machine
open Sys2Proof

/-- An access that the endpoint claims, by its BAR and its direction. -/
def State.barAccess (s : State) (bar : Bar) (w : Bool) (a n : Nat) (bs : List Byte) : State :=
  match bar, w with
  | .bar0, true => s.windowWrite a bs
  | .bar0, false => s.windowRead a n
  | .bar2, true => s.bar2Write a bs
  | .bar2, false => s.bar2Read a n
  | .bar4, true => s.msixWrite a bs
  | .bar4, false => s.msixRead a n

section
variable {s : State} (room : s.log.roomy = true) (reaches : s.hostReaches = true)
include room reaches

theorem bar2Access_unclaimed (h : s.claims = false) (w : Bool) (off : BarOffset) (n : Nat) (bs : List Byte) :
    exec (.bar2Access w off n bs) s = .next (s.emit .unsupported) := by
  have run : exec (.bar2Access w off n bs) s = execBar2Access w off n bs s := rfl
  rw [run, execBar2Access, withRoom_roomy room, if_pos reaches]
  dsimp only
  rw [if_pos (.inl (by simp [h]))]

theorem bar2Access_outside (w : Bool) (off : BarOffset) (n : Nat) (bs : List Byte) (h : barSize off.bar ≤ off.bytes.toNat) :
    exec (.bar2Access w off n bs) s = .next (s.emit .unsupported) := by
  have run : exec (.bar2Access w off n bs) s = execBar2Access w off n bs s := rfl
  rw [run, execBar2Access, withRoom_roomy room, if_pos reaches]
  dsimp only
  rw [if_pos (.inr h)]

variable (claims : s.claims = true) (off : BitVec 40) (n : Nat) (bs : List Byte)
include claims

theorem bar2Access_inside (w : Bool) (bar : Bar) (h : off.toNat < barSize bar) :
    exec (.bar2Access w ⟨bar, off⟩ n bs) s = .next (s.barAccess bar w off.toNat n bs) := by
  have run : exec (.bar2Access w ⟨bar, off⟩ n bs) s = execBar2Access w ⟨bar, off⟩ n bs s := rfl
  rw [run, execBar2Access, withRoom_roomy room, if_pos reaches]
  dsimp only
  rw [if_neg (by simp only [claims, not_or]; exact ⟨by decide, by omega⟩)]
  cases bar <;> cases w <;> rfl

theorem hbm_write : exec (.bar2Access true ⟨.bar2, off⟩ n bs) s = .next (s.bar2Write off.toNat bs) :=
  bar2Access_inside room reaches claims off n bs true .bar2 off.isLt

theorem hbm_read : exec (.bar2Access false ⟨.bar2, off⟩ n bs) s = .next (s.bar2Read off.toNat n) :=
  bar2Access_inside room reaches claims off n bs false .bar2 off.isLt

theorem window_write (h : off.toNat < 0x1000000) :
    exec (.bar2Access true ⟨.bar0, off⟩ n bs) s = .next (s.windowWrite off.toNat bs) :=
  bar2Access_inside room reaches claims off n bs true .bar0 h

theorem window_read (h : off.toNat < 0x1000000) :
    exec (.bar2Access false ⟨.bar0, off⟩ n bs) s = .next (s.windowRead off.toNat n) :=
  bar2Access_inside room reaches claims off n bs false .bar0 h

theorem msix_write (h : off.toNat < 0x10000) :
    exec (.bar2Access true ⟨.bar4, off⟩ n bs) s = .next (s.msixWrite off.toNat bs) :=
  bar2Access_inside room reaches claims off n bs true .bar4 h

theorem msix_read (h : off.toNat < 0x10000) :
    exec (.bar2Access false ⟨.bar4, off⟩ n bs) s = .next (s.msixRead off.toNat n) :=
  bar2Access_inside room reaches claims off n bs false .bar4 h

end

/-! ### BAR2 -/

theorem State.bar2Write_above {s : State} {a : Nat} (h : hbmEnd ≤ a) (bs : List Byte) : s.bar2Write a bs = s := by
  unfold State.bar2Write inBar2
  rw [Nat.sub_eq_zero_of_le h, Nat.min_zero]
  rfl

theorem State.bar2Read_above {s : State} {a : Nat} (h : hbmEnd ≤ a) (n : Nat) :
    s.bar2Read a n = s.emit (.hostRead (List.replicate n 0xFF) false) := by
  unfold State.bar2Read inBar2
  rw [Nat.sub_eq_zero_of_le h, Nat.min_zero]
  rfl

theorem State.bar2Read_clean {s : State} {a n : Nat} (h : a + n ≤ hbmEnd) (hc : CleanBytes s a n) (hf : s.hbmReadFails = []) :
    ∃ t : State, s.bar2Read a n = t ∧ t.out = .hostRead (s.memBytes a n) false :: s.out ∧ ∀ b, t.memByte b = s.memByte b := by
  have inside : inBar2 a n = n := Nat.min_eq_left (by omega)
  unfold State.bar2Read
  rw [inside]
  dsimp only
  rw [Nat.sub_self]
  refine ⟨_, rfl, ?_⟩
  by_cases empty : n = 0
  · subst empty
    exact ⟨rfl, fun _ => rfl⟩
  · have counted := s.countSpan_accessed hostAttr 0 a n
    have same := s.countSpan_sameMem hostAttr 0 a n
    rw [if_neg empty, State.devRead_clean hc hf]
    refine ⟨?_, same.byte⟩
    simp [State.emit, counted.out]

theorem State.bar2Write_clean {s : State} {a : Nat} {bs : List Byte} (h : a + bs.length ≤ hbmEnd) (some : 0 < bs.length)
    (hc : CleanBytes s a bs.length) (hf : s.hbmReadFails = []) : ∃ t : State, s.bar2Write a bs = t.wakeUp ∧
      t.memBytes a bs.length = bs ∧ ∀ b, b < a ∨ a + bs.length ≤ b → t.memByte b = s.memByte b := by
  have inside : inBar2 a bs.length = bs.length := Nat.min_eq_left (by omega)
  unfold State.bar2Write
  rw [inside]
  dsimp only
  rw [List.take_length, if_neg (by omega)]
  exact ⟨_, rfl, State.devWrite_bytes hc hf _, fun b => State.devWrite_other hc hf _⟩

/-! ### The window -/

theorem State.windowRead_view {s : State} {a n : Nat} (h : a < 0x10000) (hn : n = 4 ∨ n = 8) (ha : a % n = 0) :
    s.windowRead a n = s.emit (.hostRead
      ((List.range n).map fun i => (s.jarastBytes (decide (0x8000 ≤ a))).getD (a % 0x8000 + i) 0) false) := by
  have takes : viewTakes a n = true := by
    unfold viewTakes
    rcases hn with rfl | rfl <;> simp [ha]
  unfold State.windowRead State.hostLoad
  rw [if_pos h, if_pos takes]
  rfl

theorem State.windowRead_mailbox {s : State} {a : Nat} (h : 0x10000 ≤ a) (h' : a < 0x18000) (n : Nat) :
    s.windowRead a n = s.emit (.hostRead
      ((List.range n).map fun i => (s.mailbox ((a - 0x10000) / 0x1000)).image.getD (a % 0x1000 + i) 0) false) := by
  unfold State.windowRead State.hostLoad
  rw [if_neg (by omega), if_pos h']
  rfl

theorem State.windowRead_reserved {s : State} {a : Nat} (h : 0x18000 ≤ a) (h' : a < 0x400000) (n : Nat) :
    s.windowRead a n = s.emit (.hostRead (List.replicate n 0) false) := by
  unfold State.windowRead State.hostLoad
  rw [if_neg (by omega), if_neg (by omega), if_pos h']

theorem State.windowWrite_dropped {s : State} {a : Nat} (h : a < 0x10000 ∨ 0x18000 ≤ a ∧ a < 0x400000) (bs : List Byte) :
    s.windowWrite a bs = s := by
  unfold State.windowWrite
  rcases h with view | reserved
  · rw [if_pos view]
  · rw [if_neg (by omega), if_neg (by omega), if_pos reserved.2]

theorem State.windowRead_direct {s : State} {a : Nat} (h : 0x400000 ≤ a) (n : Nat) :
    s.windowRead a n = (s.directLoad .direct a n).2.emit (.hostRead (s.directLoad .direct a n).1 false) := by
  unfold State.windowRead State.hostLoad
  rw [if_neg (by omega), if_neg (by omega), if_neg (by omega)]

theorem State.directLoad_served {s : State} {a : Nat} {r : OdRow} (ha : a % 8 = 0)
    (h : s.odReadStatus .direct (directIndex a).1 (directIndex a).2 = (Status.ok, some r)) (hr : r.ty.numeric = true) :
    s.directLoad .direct a 8 = (natBytes 8 (s.odValue (directIndex a).1 (directIndex a).2), s) := by
  unfold State.directLoad
  dsimp only
  rw [if_neg (by omega), h]
  exact if_pos hr

theorem State.directLoad_misaligned {s : State} {a : Nat} (ha : a % 8 ≠ 0) (n : Nat) :
    s.directLoad .direct a n =
      (List.replicate n 0xFF, s.odFailed .direct (directIndex a).1 (directIndex a).2 Status.refused) := by
  unfold State.directLoad
  rw [if_pos (.inr ha)]
  rfl

theorem State.windowWrite_direct {s : State} {a : Nat} (h : 0x400000 ≤ a) (bs : List Byte) :
    s.windowWrite a bs = if a % 8 ≠ 0 then s.answerWrite .direct (directIndex a).1 (directIndex a).2 Status.refused
      else s.odWriteVia .direct (directIndex a).1 (directIndex a).2 bs := by
  unfold State.windowWrite
  rw [if_neg (by omega), if_neg (by omega), if_neg (by omega)]

theorem directIndex_lt {a : Nat} (h : a < 0x1000000) : (directIndex a).1 < 2 ^ 16 ∧ (directIndex a).2 < 2 ^ 8 := by
  unfold directIndex
  omega

/-! ### BAR4 -/

theorem State.msixWrite_word (s : State) {a : Nat} {bs : List Byte} (hl : bs.length = 4) (ha : a % 4 = 0) (h : a < 1168) :
    ∃ p : PcieCfg, s.msixWrite a bs = { s with pcie := p }.sendPending ∧ p = { s.pcie with msixTable := p.msixTable } ∧
      ∀ i < 292, p.msixWord i = if i ≠ a / 4 then s.pcie.msixWord i
        else if i % 4 = 3 then BitVec.ofNat 32 (bytesNat bs % 2) else BitVec.ofNat 32 (bytesNat bs) := by
  obtain ⟨p, hp, rest⟩ := msixPuts_word s.pcie hl ha h
  exact ⟨p, by rw [State.msixWrite, hp], rest⟩

theorem State.msixWrite_beyond (s : State) {a : Nat} (h : 1168 ≤ a) (bs : List Byte) : s.msixWrite a bs = s.sendPending := by
  rw [State.msixWrite, msixPuts_beyond s.pcie h]

theorem State.msixRead_word (s : State) {a : Nat} (ha : a % 4 = 0) (h : a < 1168) :
    s.msixRead a 4 = s.emit (.hostRead (natBytes 4 (s.pcie.msixWord (a / 4)).toNat) false) := by
  rw [State.msixRead, msixBytes_word s.pcie ha h]

theorem State.msixRead_pending (s : State) :
    s.msixRead 0x8000 8 = s.emit (.hostRead (natBytes 8 s.pcie.msixPending.toNat) false) := by
  rw [State.msixRead, msixBytes_pending]

end Sys2Proof.Machine
end

section
/-! SUPPORT and proof. The debug port (R438, R471), and what the host and a debug adapter do (R47 to R51, R473). -/

namespace Sys2Proof.Machine
open Sys2Proof

/-- The instruction shows the bytes and leaves `u`. -/
def JtagShows (s : State) (q : JtagReq) (bs : List Byte) (u : State) : Prop :=
  exec (.jtagInstruction q) s = .next { u with out := .jtag bs :: u.out }

section
variable {s : State} (room : s.log.roomy = true) (on : s.dev.state ≠ .off)
include room on

theorem jtag_shows {q : JtagReq} {bs : List Byte} {u : State} (h : s.jtag q = (bs, u)) : JtagShows s q bs u := by
  have run : exec (.jtagInstruction q) s = execJtagInstruction q s := rfl
  unfold JtagShows
  rw [run, execJtagInstruction, withRoom_roomy room, if_neg on, h]
  rfl

theorem jtag_read_closed {cell : DebugCell} (h : s.odGet Od.debugLevel < cellLevel cell) : JtagShows s (.read cell) [] s := by
  refine jtag_shows room on ?_
  unfold State.jtag
  dsimp only
  rw [if_neg (by omega)]

theorem jtag_write_closed {cell : DebugCell} {d : BitVec 256} (h : s.odGet Od.debugLevel < 2) :
    JtagShows s (.write cell d) [] s := by
  refine jtag_shows room on ?_
  unfold State.jtag
  dsimp only
  rw [if_neg (by omega)]

theorem jtag_read {cell : DebugCell} (h : cellLevel cell ≤ s.odGet Od.debugLevel) (hw : cell.wf = true) {bs : List Byte} {u : State}
    (hr : s.debugRead cell = (bs, u)) : JtagShows s (.read cell) bs u := by
  refine jtag_shows room on ?_
  unfold State.jtag
  dsimp only
  rw [if_pos ⟨h, hw⟩, hr]

theorem jtag_write {cell : DebugCell} {d : BitVec 256} (h : 2 ≤ s.odGet Od.debugLevel) (hw : cell.wf = true) {u : State}
    (hr : s.debugWrite cell d = u) : JtagShows s (.write cell d) [] u := by
  refine jtag_shows room on ?_
  unfold State.jtag
  dsimp only
  rw [if_pos ⟨h, hw⟩, hr]

/-! ### Entries and memory -/

theorem jtag_read_entry (h : 1 ≤ s.odGet Od.debugLevel) {i : BitVec 16} {sub : BitVec 8} {r : OdRow}
    (hr : s.odReadStatus (.theost 0 0) i.toNat sub.toNat = (Status.ok, some r)) :
    JtagShows s (.read (.entry i sub)) (s.odRead r i.toNat sub.toNat) s := by
  refine jtag_read (cell := .entry i sub) room on h rfl ?_
  unfold State.debugRead State.jtagEntry
  dsimp only
  rw [hr]

theorem jtag_write_entry (h : 2 ≤ s.odGet Od.debugLevel) {i : BitVec 16} {sub : BitVec 8} {d : BitVec 256} {r : OdRow}
    (hr : s.odRow? i.toNat sub.toNat = some r) (ha : r.ty.accepts (d.toNat % 2 ^ 64) = true) :
    JtagShows s (.write (.entry i sub) d) [] (s.odSet (Od.key i.toNat sub.toNat) (d.toNat % 2 ^ 64)) := by
  refine jtag_write room on h rfl ?_
  unfold State.debugWrite
  dsimp only
  rw [hr, BitVec.toNat_setWidth]
  exact if_pos ha

theorem jtag_read_word (h : 2 ≤ s.odGet Od.debugLevel) {a : BitVec 40} (hr : s.jtagReach a.toNat = true)
    (hc : CleanBytes s a.toNat 8) (hf : s.hbmReadFails = []) :
    ∃ u : State, JtagShows s (.read (.word a)) (s.memBytes a.toNat 8) u ∧ ∀ b, u.memByte b = s.memByte b := by
  refine ⟨s.countSpan jtagAttr 0 a.toNat 8, jtag_read (cell := .word a) room on h rfl ?_, (s.countSpan_sameMem ..).byte⟩
  unfold State.debugRead
  dsimp only
  rw [if_pos hr, State.devRead_clean hc hf]

theorem jtag_write_word (h : 2 ≤ s.odGet Od.debugLevel) {a : BitVec 40} (hr : s.jtagReach a.toNat = true)
    (hc : CleanBytes s a.toNat 8) (hf : s.hbmReadFails = []) (d : BitVec 256) :
    ∃ u : State, JtagShows s (.write (.word a) d) [] u ∧ u.memBytes a.toNat 8 = natBytes 8 (d.toNat % 2 ^ 64) ∧
      ∀ b, b < a.toNat ∨ a.toNat + 8 ≤ b → u.memByte b = s.memByte b := by
  have clean : CleanBytes s a.toNat (natBytes 8 (d.toNat % 2 ^ 64)).length := by rwa [length_natBytes]
  have bytes := State.devWrite_bytes clean hf jtagAttr
  have other := fun b => State.devWrite_other (b := b) clean hf jtagAttr
  rw [length_natBytes] at bytes other
  refine ⟨_, jtag_write room on h rfl ?_, bytes, other⟩
  unfold State.debugWrite
  dsimp only
  rw [if_pos hr, BitVec.toNat_setWidth]

/-! ### Groups and cores -/

/-- A cell of a group shows the value, and takes another. -/
theorem jtag_group (h : 2 ≤ s.odGet Od.debugLevel) {core slot : Nat} {gr : Group} (hg : s.group? ⟨core, slot⟩ = some gr)
    {cell : DebugCell} (hw : cell.wf = true) (hl : cellLevel cell = 2) {n : Nat} {f : Group → Nat} {put : BitVec 256 → Group → Group}
    (hr : s.debugRead cell = s.ofGroup core slot n f) (hp : ∀ d, s.debugWrite cell d = s.onGroup core slot (put d)) :
    JtagShows s (.read cell) (natBytes n (f gr)) s ∧
      ∀ d, JtagShows s (.write cell d) [] (s.setGroup ⟨core, slot⟩ (put d gr)) := by
  refine ⟨jtag_read room on (hl ▸ h) hw ?_, fun d => jtag_write room on h hw ?_⟩
  · rw [hr, State.ofGroup, hg]
  · rw [hp, State.onGroup, hg]

/-- A cell of a core shows the value, and takes another. -/
theorem jtag_core (h : 2 ≤ s.odGet Od.debugLevel) {core : Nat} (hc : s.coreMapped core = true) {cell : DebugCell}
    (hw : cell.wf = true) (hl : cellLevel cell = 2) {n : Nat} {f : Core → Nat} {put : BitVec 256 → Core → Core}
    (hr : s.debugRead cell = s.ofCore core n f) (hp : ∀ d, s.debugWrite cell d = s.onCore core (put d)) :
    JtagShows s (.read cell) (natBytes n (f (s.core core))) s ∧
      ∀ d, JtagShows s (.write cell d) [] (s.setCore core (put d (s.core core))) := by
  refine ⟨jtag_read room on (hl ▸ h) hw ?_, fun d => jtag_write room on h hw ?_⟩
  · rw [hr, State.ofCore, if_pos hc]
  · rw [hp, State.onCore, if_pos hc]

theorem jtag_halt (h : 2 ≤ s.odGet Od.debugLevel) {core : Nat} (hc : s.coreMapped core = true) :
    JtagShows s (.haltCore core) [] (s.setCore core { s.core core with halted := true }) ∧
      JtagShows s (.resumeCore core) [] (s.setCore core { s.core core with halted := false }) := by
  constructor <;> refine jtag_shows room on ?_ <;> unfold State.jtag <;> dsimp only <;> rw [if_pos ⟨h, hc⟩]

end

theorem State.core_setCore_self (s : State) (n : Nat) (c : Core) : (s.setCore n c).core n = c := by
  rw [State.core_setCore, if_pos rfl]

/-! ### The parts of the statement -/

theorem mailbox_requests (s : State) (m : Nat) (q : MailboxReq) (room : s.log.roomy = true)
    (open_ : s.pathOpen (.mailbox m) = true) :
    let via : OdPath := .mailbox m
    let idx := q.index.toNat
    let sub := q.sub.toNat
    let s1 := s.asked m q
    let answer := fun st => exec (.mailboxRequest m q) s = .next (s1.answerWrite via idx sub st)
    ((s.mailbox m).go = true → ∃ t : State, exec (.mailboxRequest m q) s = .next t ∧ Logs s t 0x0002 sevWarning ∧
      t = { s with log := t.log }) ∧
    ((s.mailbox m).go = false → 32 ≤ s.waitingPaths.length → answer Status.busy) ∧
    ((s.mailbox m).go = false → s.waitingPaths.length < 32 →
      (2 ≤ q.op → Refuses (.mailboxRequest m q) s s1 via idx sub) ∧
      (∀ st, q.op = 0 → s.odReadStatus via idx sub = (st, none) → answer st) ∧
      (∀ r, q.op = 0 → s.odReadStatus via idx sub = (Status.ok, some r) → r.ty ≠ .domain → ∃ t : State,
        exec (.mailboxRequest m q) s = .next t ∧ t = { s with hm := t.hm, out := t.out, pcie := t.pcie } ∧
        t.out = (s.signal m).out ∧ t.pcie = (s.signal m).pcie ∧ t.mailbox m = { s1.mailbox m with
          length := (s.odRead r idx sub).length
          value := s.odRead r idx sub ++ q.value.drop (s.odRead r idx sub).length
          status := Status.ok, doneTime := s.clk.now, done := true, go := false }) ∧
      (∀ r, q.op = 1 → s.odRow? idx sub = some r → r.ty ≠ .domain → exec (.mailboxRequest m q) s =
        exec (.odWrite via q.index q.sub ((List.range q.length).map fun i => q.value.getD i 0)) s1)) := by
  intro via idx sub s1 answer
  refine ⟨fun go => ⟨_, mailboxRequest_busy room open_ go, s.event_ingress .., rfl⟩, fun go full => ?_, fun go space => ?_⟩
  · change exec _ _ = _
    rw [mailboxRequest_served room open_ go, if_pos ((placesFull_iff s).mpr full)]
  have place : ¬s.placesFull = true := by
    rw [placesFull_iff]
    omega
  have served := mailboxRequest_served (q := q) room open_ go
  rw [if_neg place] at served
  refine ⟨fun op => ?_, fun st op status => ?_, fun r op status numeric => ?_, fun r op row numeric => ?_⟩
  · have refused : exec (.mailboxRequest m q) s = .next (s1.writeRefused via idx sub 0) := by
      rw [served, if_neg (by rintro h; rw [h] at op; exact absurd op (by decide)),
        if_neg (by rintro h; rw [h] at op; exact absurd op (by decide))]
    have openWide : s1.pathOpen via = true := open_
    exact ⟨fun _ denied => refused.trans (congrArg _ (State.writeRefused_denied openWide denied)),
      fun _ level none => refused.trans (congrArg _ (State.writeRefused_notFound openWide level none)),
      fun h => refused.trans (congrArg _ (State.writeRefused_refused ⟨h.room, h.heard, h.level, h.range, h.entry⟩))⟩
  · have failed : s1.odReadStatus via idx sub = (st, none) := (s.asked_odReadStatus ..).trans status
    change exec _ _ = _
    rw [served, if_pos op, State.mailboxRead_failed failed]
  · have status : s1.odReadStatus via idx sub = (Status.ok, some r) := (s.asked_odReadStatus ..).trans status
    rw [served, if_pos op, State.mailboxRead_served status numeric, State.asked_odRead]
    obtain ⟨mailbox, out, pcie, rest⟩ := State.mailboxDone_spec (s1.setMailbox m { s1.mailbox m with
      length := (s.odRead r idx sub).length
      value := s.odRead r idx sub ++ (s1.mailbox m).value.drop (s.odRead r idx sub).length }) m Status.ok
    obtain ⟨out', pcie'⟩ := State.signal_same (s := s) (t := s1.setMailbox m { s1.mailbox m with
      length := (s.odRead r idx sub).length
      value := s.odRead r idx sub ++ (s1.mailbox m).value.drop (s.odRead r idx sub).length }) m rfl rfl rfl
    refine ⟨_, rfl, rest, out.trans out', pcie.trans pcie', ?_⟩
    rw [mailbox, State.mailbox_setMailbox]
    have own : s1.mailbox m = (s.mailbox m).asked q := s.mailbox_setMailbox ..
    rw [own]
    rfl
  · have row : s1.odRow? idx sub = some r := row
    rw [served, if_neg (by rw [op]; decide), if_pos op, State.mailboxWrite_served row numeric]
    exact (execOdWrite_roomy (s := s1) room ..).symm

theorem host_memory (s : State) (off : BitVec 40) (n : Nat) (bs : List Byte) (room : s.log.roomy = true)
    (reaches : s.hostReaches = true) :
    let a := off.toNat
    (s.claims = false → ∀ bar w, exec (.bar2Access w ⟨bar, off⟩ n bs) s = .next (s.emit .unsupported)) ∧
    (s.claims = true → hbmEnd ≤ a → exec (.bar2Access true ⟨.bar2, off⟩ n bs) s = .next s ∧
      exec (.bar2Access false ⟨.bar2, off⟩ n bs) s = .next (s.emit (.hostRead (List.replicate n 0xFF) false))) ∧
    (s.claims = true → a + n ≤ hbmEnd → CleanBytes s a n → s.hbmReadFails = [] →
      (∃ t : State, exec (.bar2Access false ⟨.bar2, off⟩ n bs) s = .next t ∧ t.out = .hostRead (s.memBytes a n) false :: s.out ∧
        ∀ b, t.memByte b = s.memByte b) ∧
      (bs.length = n → 0 < n → ∃ t : State, exec (.bar2Access true ⟨.bar2, off⟩ n bs) s = .next t.wakeUp ∧ t.memBytes a n = bs ∧
        ∀ b, b < a ∨ a + n ≤ b → t.memByte b = s.memByte b)) := by
  intro a
  refine ⟨fun unclaimed bar w => bar2Access_unclaimed room reaches unclaimed .., fun claims above => ⟨?_, ?_⟩,
    fun claims inside clean reads => ⟨?_, fun len some => ?_⟩⟩
  · rw [hbm_write room reaches claims, State.bar2Write_above above]
  · rw [hbm_read room reaches claims, State.bar2Read_above above]
  · rw [hbm_read room reaches claims]
    obtain ⟨t, ht, rest⟩ := State.bar2Read_clean inside clean reads
    exact ⟨t, congrArg _ ht, rest⟩
  · rw [hbm_write room reaches claims]
    subst len
    obtain ⟨t, ht, rest⟩ := State.bar2Write_clean inside some clean reads
    exact ⟨t, congrArg _ ht, rest⟩

theorem host_window (s : State) (off : BitVec 40) (n : Nat) (bs : List Byte) (room : s.log.roomy = true)
    (reaches : s.hostReaches = true) (claims : s.claims = true) :
    let a := off.toNat
    let reads := fun (xs : List Byte) => exec (.bar2Access false ⟨.bar0, off⟩ n bs) s = .next (s.emit (.hostRead xs false))
    let view := s.jarastBytes (decide (0x8000 ≤ a))
    let m := (a - 0x10000) / 0x1000
    let e := directIndex a
    (0x1000000 ≤ a → ∀ w, exec (.bar2Access w ⟨.bar0, off⟩ n bs) s = .next (s.emit .unsupported)) ∧
    (a < 0x10000 → n = 4 ∨ n = 8 → a % n = 0 → reads ((List.range n).map fun i => view.getD (a % 0x8000 + i) 0)) ∧
    (0x10000 ≤ a → a < 0x18000 → reads ((List.range n).map fun i => (s.mailbox m).image.getD (a % 0x1000 + i) 0)) ∧
    (0x18000 ≤ a → a < 0x400000 → reads (List.replicate n 0)) ∧
    (a < 0x10000 ∨ 0x18000 ≤ a ∧ a < 0x400000 → exec (.bar2Access true ⟨.bar0, off⟩ n bs) s = .next s) ∧
    (0x400000 ≤ a → a < 0x1000000 →
      (∀ r, n = 8 → a % 8 = 0 → s.odReadStatus .direct e.1 e.2 = (Status.ok, some r) → r.ty.numeric = true →
        reads (natBytes 8 (s.odValue e.1 e.2))) ∧
      (a % 8 = 0 → exec (.bar2Access true ⟨.bar0, off⟩ n bs) s =
        exec (.odWrite .direct (BitVec.ofNat 16 e.1) (BitVec.ofNat 8 e.2) bs) s) ∧
      (a % 8 ≠ 0 → exec (.bar2Access true ⟨.bar0, off⟩ n bs) s = .next (s.answerWrite .direct e.1 e.2 Status.refused) ∧
        ∃ t : State, exec (.bar2Access false ⟨.bar0, off⟩ n bs) s = .next (t.emit (.hostRead (List.replicate n 0xFF) false)) ∧
          Logs s t 0x0001 sevInfo)) := by
  intro a reads view m e
  have read := window_read room reaches claims off n bs
  have write := window_write room reaches claims off n bs
  refine ⟨fun above w => bar2Access_outside room reaches w ⟨.bar0, off⟩ n bs above, fun low wide aligned => ?_, fun low high => ?_,
    fun low high => ?_, fun dropped => ?_, fun low high => ⟨fun r wide aligned status numeric => ?_, fun aligned => ?_, fun misaligned => ?_⟩⟩
  · exact (read (by omega)).trans (congrArg _ (State.windowRead_view low wide aligned))
  · exact (read (by omega)).trans (congrArg _ (State.windowRead_mailbox low high n))
  · exact (read (by omega)).trans (congrArg _ (State.windowRead_reserved low high n))
  · rw [write (by omega), State.windowWrite_dropped dropped]
  · change exec _ _ = _
    rw [read high, State.windowRead_direct low, wide, State.directLoad_served aligned status numeric]
  · have place := directIndex_lt high
    rw [write high, State.windowWrite_direct low, if_neg (not_not.mpr aligned), execOdWrite_roomy room, BitVec.toNat_ofNat,
      BitVec.toNat_ofNat, Nat.mod_eq_of_lt place.1, Nat.mod_eq_of_lt place.2]
  · rw [write high, State.windowWrite_direct low, if_pos misaligned, read high, State.windowRead_direct low,
      State.directLoad_misaligned misaligned]
    exact ⟨rfl, _, rfl, State.event_ingress ..⟩

theorem host_msix (s : State) (off : BitVec 40) (n : Nat) (bs : List Byte) (room : s.log.roomy = true)
    (reaches : s.hostReaches = true) (claims : s.claims = true) :
    let a := off.toNat
    let reads := fun (xs : List Byte) => exec (.bar2Access false ⟨.bar4, off⟩ n bs) s = .next (s.emit (.hostRead xs false))
    (0x10000 ≤ a → ∀ w, exec (.bar2Access w ⟨.bar4, off⟩ n bs) s = .next (s.emit .unsupported)) ∧
    (n = 4 → a % 4 = 0 → a < 1168 → reads (natBytes 4 (s.pcie.msixWord (a / 4)).toNat)) ∧
    (n = 8 → a = 0x8000 → reads (natBytes 8 s.pcie.msixPending.toNat)) ∧
    (bs.length = 4 → a % 4 = 0 → a < 1168 → ∃ p : PcieCfg,
      exec (.bar2Access true ⟨.bar4, off⟩ n bs) s = .next { s with pcie := p }.sendPending ∧
      p = { s.pcie with msixTable := p.msixTable } ∧ ∀ i < 292, p.msixWord i =
        if i ≠ a / 4 then s.pcie.msixWord i
        else if i % 4 = 3 then BitVec.ofNat 32 (bytesNat bs % 2) else BitVec.ofNat 32 (bytesNat bs)) ∧
    (1168 ≤ a → a < 0x10000 → exec (.bar2Access true ⟨.bar4, off⟩ n bs) s = .next s.sendPending) := by
  intro a reads
  have read := msix_read room reaches claims off n bs
  have write := msix_write room reaches claims off n bs
  refine ⟨fun above w => bar2Access_outside room reaches w ⟨.bar4, off⟩ n bs above, fun wide aligned low => ?_, fun wide place => ?_,
    fun wide aligned low => ?_, fun beyond low => ?_⟩
  · change exec _ _ = _
    rw [read (by omega), wide, s.msixRead_word aligned low]
  · change exec _ _ = _
    have place : off.toNat = 0x8000 := place
    rw [read (by omega), wide, place, s.msixRead_pending]
  · obtain ⟨p, hp, rest⟩ := s.msixWrite_word wide aligned low
    exact ⟨p, (write (by omega)).trans (congrArg _ hp), rest⟩
  · rw [write low, s.msixWrite_beyond beyond]

theorem host_configuration (s : State) (reg : BitVec 10) (d : BitVec 32) (reaches : s.hostReaches = true) :
    (s.dev.state = .boot → ∀ w, exec (.configurationRequest w reg d) s = .next (s.emit .cfgRetry)) ∧
    (s.dev.state ≠ .boot →
      exec (.configurationRequest false reg d) s = .next (s.emit (.cfgData (s.pcie.read reg.toNat))) ∧
      ∃ p : PcieCfg, exec (.configurationRequest true reg d) s = .next { s with pcie := p }.sendPending ∧
        (reg = 1 → p.memEnable = d.getLsbD 1) ∧
        (reg = 17 → p.d3hot = if d.getLsbD 0 = d.getLsbD 1 then d.getLsbD 0 else s.pcie.d3hot) ∧
        (reg = 20 → p.msixEnable = d.getLsbD 31 ∧ p.functionMask = d.getLsbD 30) ∧
        (reg = 4 → ∀ i < 64, p.bar0.getLsbD i =
          (decide (24 ≤ i) && if i < 32 then d.getLsbD i else s.pcie.bar0.getLsbD i))) := by
  refine ⟨fun boot w => configurationRequest_boot reaches boot w reg d, fun running =>
    ⟨configurationRequest_read reaches running reg d, _, configurationRequest_write reaches running reg d, ?_, ?_, ?_, ?_⟩⟩
  · rintro rfl
    rfl
  · rintro rfl
    change (if d.getLsbD 0 = d.getLsbD 1 then { s.pcie with d3hot := d.getLsbD 0 } else s.pcie : PcieCfg).d3hot = _
    split <;> rfl
  · rintro rfl
    exact ⟨rfl, rfl⟩
  · rintro rfl i hi
    exact barPut_low s.pcie.bar0 d hi

theorem debug_port (s : State) (room : s.log.roomy = true) (on : s.dev.state ≠ .off) :
    let shows := JtagShows s
    let level := s.odGet Od.debugLevel
    shows .idcode [0x6B, 0x0C, 0x59, 0x1A] s ∧
    (∀ cell, level < cellLevel cell → shows (.read cell) [] s) ∧ (level < 2 → ∀ cell d, shows (.write cell d) [] s) ∧
    (1 ≤ level → ∀ (i : BitVec 16) (sub : BitVec 8) r, s.odReadStatus (.theost 0 0) i.toNat sub.toNat = (Status.ok, some r) →
      shows (.read (.entry i sub)) (s.odRead r i.toNat sub.toNat) s) ∧
    (2 ≤ level → ∀ (i : BitVec 16) (sub : BitVec 8) (d : BitVec 256) r, s.odRow? i.toNat sub.toNat = some r →
      r.ty.accepts (d.toNat % 2 ^ 64) = true →
      shows (.write (.entry i sub) d) [] (s.odSet (Od.key i.toNat sub.toNat) (d.toNat % 2 ^ 64))) ∧
    (2 ≤ level → ∀ a : BitVec 40, s.jtagReach a.toNat = true → CleanBytes s a.toNat 8 → s.hbmReadFails = [] →
      (∃ u : State, shows (.read (.word a)) (s.memBytes a.toNat 8) u ∧ ∀ b, u.memByte b = s.memByte b) ∧
      ∀ d : BitVec 256, ∃ u : State, shows (.write (.word a) d) [] u ∧ u.memBytes a.toNat 8 = natBytes 8 (d.toNat % 2 ^ 64) ∧
        ∀ b, b < a.toNat ∨ a.toNat + 8 ≤ b → u.memByte b = s.memByte b) ∧
    (2 ≤ level → ∀ core < 128, ∀ slot < 16, ∀ gr, s.group? ⟨core, slot⟩ = some gr →
      let holds := fun (cell : DebugCell) (bs : List Byte) (put : BitVec 256 → Group) =>
        shows (.read cell) bs s ∧ ∀ d, shows (.write cell d) [] (s.setGroup ⟨core, slot⟩ (put d))
      (∀ lane < 32, ∀ reg < 256, holds (.v core slot lane reg) (natBytes 4 (gr.vGet lane reg).toNat) fun d =>
        gr.vSet lane reg (d.setWidth 32)) ∧
      (∀ lane < 32, ∀ i < 8, holds (.p core slot lane i) [if gr.pGet lane i then 1 else 0] fun d => gr.pSet lane i (d.getLsbD 0)) ∧
      (∀ reg < 64, holds (.u core slot reg) (natBytes 8 (gr.uGet reg).toNat) fun d => gr.uSet reg (d.setWidth 64)) ∧
      (∀ reg < 16, holds (.d core slot reg) (natBytes 32 (gr.dGet reg).toNat) fun d => gr.dSet reg d) ∧
      holds (.pc core slot) (natBytes 5 gr.pc.toNat) fun d => { gr with pc := d.setWidth 40 }) ∧
    (2 ≤ level → ∀ core < 128, s.coreMapped core = true →
      let c := s.core core
      let holds := fun (cell : DebugCell) (bs : List Byte) (put : BitVec 256 → Core) =>
        shows (.read cell) bs s ∧ ∀ d, shows (.write cell d) [] (s.setCore core (put d))
      (∀ k < 81920, holds (.accumulator core k) (natBytes 10 (SMap.get 0 c.acc k).toNat) fun d =>
        { c with acc := SMap.set 0 c.acc k (d.setWidth 80) }) ∧
      (∀ k < 65536, holds (.weights core k) (natBytes 10 (SMap.get 0 c.wbuf k).toNat) fun d =>
        { c with wbuf := SMap.set 0 c.wbuf k (d.setWidth 80) })) ∧
    (2 ≤ level → ∀ core, s.coreMapped core = true → ∃ u v : State, shows (.haltCore core) [] u ∧ shows (.resumeCore core) [] v ∧
      u.core core = { s.core core with halted := true } ∧ v.core core = { s.core core with halted := false }) := by
  refine ⟨jtag_shows room on rfl, fun cell low => jtag_read_closed room on low, fun low cell d => jtag_write_closed room on low,
    fun level i sub r status => jtag_read_entry room on level status,
    fun level i sub d r row accepts => jtag_write_entry room on level row accepts,
    fun level a reach clean reads => ⟨jtag_read_word room on level reach clean reads,
      jtag_write_word room on level reach clean reads⟩,
    fun level core hc slot hs gr group => ⟨fun lane hl reg hr => ?_, fun lane hl i hi => ?_, fun reg hr => ?_, fun reg hr => ?_, ?_⟩,
    fun level core hc mapped => ⟨fun k hk => ?_, fun k hk => ?_⟩, fun level core mapped => ?_⟩
  · exact jtag_group room on level group (cell := .v core slot lane reg) (put := fun d gr => gr.vSet lane reg (d.setWidth 32))
      (by simp [DebugCell.wf, *]) rfl rfl fun _ => rfl
  · have bit : natBytes 1 (if gr.pGet lane i then 1 else 0) = [if gr.pGet lane i then 1 else 0] := by
      cases gr.pGet lane i <;> rfl
    rw [← bit]
    exact jtag_group room on level group (cell := .p core slot lane i) (f := fun gr => if gr.pGet lane i then 1 else 0)
      (put := fun d gr => gr.pSet lane i (d.getLsbD 0)) (by simp [DebugCell.wf, *]) rfl rfl fun _ => rfl
  · exact jtag_group room on level group (cell := .u core slot reg) (put := fun d gr => gr.uSet reg (d.setWidth 64))
      (by simp [DebugCell.wf, *]) rfl rfl fun _ => rfl
  · exact jtag_group room on level group (cell := .d core slot reg) (put := fun d gr => gr.dSet reg d)
      (by simp [DebugCell.wf, *]) rfl rfl fun _ => rfl
  · exact jtag_group room on level group (cell := .pc core slot) (f := fun gr => gr.pc.toNat)
      (put := fun d gr => { gr with pc := d.setWidth 40 }) (by simp [DebugCell.wf, *]) rfl rfl fun _ => rfl
  · exact jtag_core room on level mapped (cell := .accumulator core k) (f := fun c => (SMap.get 0 c.acc k).toNat)
      (put := fun d c => { c with acc := SMap.set 0 c.acc k (d.setWidth 80) }) (by simp [DebugCell.wf, *]) rfl rfl fun _ => rfl
  · exact jtag_core room on level mapped (cell := .weights core k) (f := fun c => (SMap.get 0 c.wbuf k).toNat)
      (put := fun d c => { c with wbuf := SMap.set 0 c.wbuf k (d.setWidth 80) }) (by simp [DebugCell.wf, *]) rfl rfl fun _ => rfl
  · obtain ⟨halt, resume⟩ := jtag_halt room on level mapped
    exact ⟨_, _, halt, resume, State.core_setCore_self .., State.core_setCore_self ..⟩

/-- Settles O40, part by part: each path leads to one function of the model, whose cases are those of the statement. -/
theorem hostAccesses : Obligations.HostAccesses := by
  unfold Obligations.HostAccesses
  refine ⟨mailbox_requests, fun s v hv => ⟨State.signal_off, fun link enabled => ⟨State.signal_open link enabled, fun masked => ?_⟩⟩,
    fun s off n bs room reaches => ?_, fun s v hv enabled pending => ⟨State.sendPending_masked pending,
      State.sendPending_one hv enabled pending⟩, fun s reg d reaches => host_configuration s reg d reaches, debug_port⟩
  · rw [State.signal_masked link enabled masked]
    refine ⟨rfl, fun i hi => ?_⟩
    rw [← getLsbD_vector hi]
    exact BitVec.getLsbD_or
  · obtain ⟨unclaimed, above, inside⟩ := host_memory s off n bs room reaches
    exact ⟨unclaimed, above, inside, host_window s off n bs room reaches, host_msix s off n bs room reaches⟩

end Sys2Proof.Machine
end

section
/-! SUPPORT. The flash (R427): what an area holds after it is erased or written, and that every other area stays. -/

namespace Sys2Proof.Machine
open Sys2Proof

/-! ### Bytes -/

theorem SMap.get_filter {β : Type} (d : β) (p : Nat → Bool) (i : Nat) : ∀ m : SMap β,
    SMap.get d (List.filter (fun e : Nat × β => p e.1) m) i = if p i then SMap.get d m i else d
  | [] => by simp [SMap.get]
  | (k, v) :: m => by
    have rest := SMap.get_filter d p i m
    by_cases kept : p k = true
    · rw [List.filter_cons_of_pos (p := fun e : Nat × β => p e.1) kept, SMap.get, SMap.get, rest]
      by_cases here : k = i
      · subst here
        simp [kept]
      · simp [here]
    · rw [List.filter_cons_of_neg (p := fun e : Nat × β => p e.1) kept, rest, SMap.get]
      by_cases here : k = i
      · subst here
        simp [kept]
      · simp [here]

theorem Flash.eraseArea_written (f : Flash) (i : Nat) : f.Written (f.eraseArea i) i [] := by
  intro x
  have kept := SMap.get_filter (0xFF : Byte)
    (fun a => decide (a < (flashArea i).offset) || decide ((flashArea i).offset + (flashArea i).bytes ≤ a)) x f.cells
  unfold Flash.byte Flash.eraseArea
  refine kept.trans ?_
  unfold flashBytes
  by_cases inside : (flashArea i).offset ≤ x ∧ x < (flashArea i).offset + (flashArea i).bytes
  · rw [if_pos inside, if_neg]
    · rfl
    · simp only [Bool.or_eq_true, decide_eq_true_eq]
      omega
  · rw [if_neg inside, if_pos]
    simp only [Bool.or_eq_true, decide_eq_true_eq]
    omega

/-- Bytes put one after the other from an address on. -/
theorem Flash.byte_puts (o x : Nat) : ∀ (bs : List Byte) (k : Nat) (f : Flash),
    ((bs.zipIdx k).foldl (fun f b => (⟨SMap.set 0xFF f.cells (o + b.2) b.1⟩ : Flash)) f).byte x =
      if o + k ≤ x ∧ x < o + k + bs.length then bs.getD (x - (o + k)) 0xFF else f.byte x
  | [], k, f => by
    rw [if_neg (by simp)]
    rfl
  | b :: bs, k, f => by
    rw [List.zipIdx_cons, List.foldl_cons, Flash.byte_puts o x bs (k + 1), List.length_cons]
    have first : Flash.byte ⟨SMap.set 0xFF f.cells (o + k) b⟩ x = if x = o + k then b else f.byte x := SMap.get_set ..
    by_cases here : x = o + k
    · rw [if_neg (by omega), if_pos (by omega), first, if_pos here, here, Nat.sub_self, List.getD_cons_zero]
    · by_cases after : o + k ≤ x ∧ x < o + k + (bs.length + 1)
      · rw [if_pos (by omega), if_pos after, show x - (o + k) = x - (o + (k + 1)) + 1 by omega, List.getD_cons_succ]
      · rw [if_neg (by omega), if_neg after, first, if_neg here]

theorem Flash.rewrite_written (f : Flash) (i : Nat) (bs : List Byte) : f.Written (f.rewrite i bs) i bs := by
  intro x
  have erased := f.eraseArea_written i x
  unfold Flash.rewrite
  rw [Flash.byte_puts, erased, List.length_take, Nat.add_zero]
  by_cases inside : (flashArea i).offset ≤ x ∧ x < (flashArea i).offset + flashBytes i
  · rw [if_pos inside, if_pos inside]
    by_cases given : x - (flashArea i).offset < bs.length
    · rw [if_pos (by omega), List.getD_eq_getElem?_getD, List.getElem?_take_of_lt (by omega), ← List.getD_eq_getElem?_getD]
    · rw [if_neg (by omega), List.getD_eq_default bs _ (by omega), List.getD_nil]
  · rw [if_neg (by omega), if_neg inside, if_neg inside]

/-! ### Reads -/

/-- Two areas have no byte in common. -/
def AreasApart (i j : Nat) : Prop :=
  (flashArea i).offset + flashBytes i ≤ (flashArea j).offset ∨ (flashArea j).offset + flashBytes j ≤ (flashArea i).offset

section
variable {f g : Flash} {i : Nat} {bs : List Byte} (h : f.Written g i bs)
include h

theorem Flash.Written.read_given {a n : Nat} (hn : a + n ≤ flashBytes i) (hb : a + n ≤ bs.length) :
    g.read i a n = (bs.drop a).take n := by
  refine List.ext_getElem (by simp [Flash.read]; omega) fun k hk _ => ?_
  rw [Flash.read, List.length_map, List.length_range] at hk
  rw [List.getElem_take, List.getElem_drop]
  simp only [Flash.read, List.getElem_map, List.getElem_range]
  rw [h, if_pos (by omega),
    show (flashArea i).offset + a + k - (flashArea i).offset = a + k by omega, List.getD_eq_getElem?_getD,
    List.getElem?_eq_getElem (by omega), Option.getD_some]

theorem Flash.Written.read_erased {a n : Nat} (hn : a + n ≤ flashBytes i) (hb : bs.length ≤ a) :
    g.read i a n = List.replicate n 0xFF := by
  refine List.eq_replicate_iff.mpr ⟨by simp [Flash.read], fun b hb' => ?_⟩
  obtain ⟨k, hk, rfl⟩ := List.mem_map.mp hb'
  have := List.mem_range.mp hk
  rw [h, if_pos (by omega), List.getD_eq_default _ _ (by omega)]

theorem Flash.Written.read_other {j a n : Nat} (apart : AreasApart i j) (hn : a + n ≤ flashBytes j) : g.read j a n = f.read j a n := by
  refine List.map_congr_left fun k hk => ?_
  have := List.mem_range.mp hk
  unfold AreasApart at apart
  rw [h, if_neg (by omega)]

end

theorem bytesNat_natBytes : ∀ (n v : Nat), v < 256 ^ n → bytesNat (natBytes n v) = v
  | 0, v, h => by
    rw [pow_zero] at h
    rw [natBytes, bytesNat]
    omega
  | n + 1, v, h => by
    rw [pow_succ] at h
    rw [natBytes, bytesNat, bytesNat_natBytes n (v / 256) (by omega), BitVec.toNat_ofNat]
    omega

theorem bytesNat_lt : ∀ bs : List Byte, bytesNat bs < 256 ^ bs.length
  | [] => by simp [bytesNat]
  | b :: bs => by
    have := b.isLt
    have := bytesNat_lt bs
    rw [bytesNat, List.length_cons, pow_succ]
    omega

theorem natBytes_bytesNat : ∀ bs : List Byte, natBytes bs.length (bytesNat bs) = bs
  | [] => rfl
  | b :: bs => by
    have := b.isLt
    have high : (b.toNat + 256 * bytesNat bs) / 256 = bytesNat bs := by omega
    rw [List.length_cons, bytesNat, natBytes, high, natBytes_bytesNat bs]
    congr 1
    apply BitVec.eq_of_toNat_eq
    rw [BitVec.toNat_ofNat]
    omega

/-! ### The saved parameters (R41) -/

/-- The bytes of an entry of a set that is saved. -/
def savedEntry (e : Nat × Nat) : List Byte := natBytes 8 e.1 ++ natBytes 8 e.2

theorem length_savedEntries : ∀ m : SMap Nat, (m.flatMap savedEntry).length = 16 * m.length
  | [] => rfl
  | e :: m => by
    rw [List.flatMap_cons, List.length_append, length_savedEntries m, List.length_cons, savedEntry, List.length_append, length_natBytes,
      length_natBytes]
    omega

theorem savedEntries_drop : ∀ (m : SMap Nat) (k : Nat), (m.flatMap savedEntry).drop (16 * k) = (m.drop k).flatMap savedEntry
  | _, 0 => rfl
  | [], k + 1 => by simp
  | e :: m, k + 1 => by
    rw [List.flatMap_cons, show 16 * (k + 1) = (savedEntry e).length + 16 * k by simp [savedEntry]; omega, List.drop_length_add_append,
      savedEntries_drop m k, List.drop_succ_cons]

theorem length_savedBytes (q : Nat) (m : SMap Nat) : (savedBytes q m).length = 16 + 16 * m.length := by
  rw [show savedBytes q m = natBytes 8 q ++ natBytes 8 m.length ++ m.flatMap savedEntry from rfl, List.length_append, List.length_append,
    length_natBytes, length_natBytes, length_savedEntries]

theorem savedBytes_drop (q : Nat) (m : SMap Nat) {k : Nat} (hk : k < m.length) :
    (savedBytes q m).drop (16 + 16 * k) = savedEntry m[k] ++ (m.drop (k + 1)).flatMap savedEntry := by
  have head : (natBytes 8 q ++ natBytes 8 m.length).length = 16 := by simp
  rw [show savedBytes q m = (natBytes 8 q ++ natBytes 8 m.length) ++ m.flatMap savedEntry from rfl,
    show 16 + 16 * k = (natBytes 8 q ++ natBytes 8 m.length).length + 16 * k by rw [head], List.drop_length_add_append, savedEntries_drop,
    List.drop_eq_getElem_cons hk, List.flatMap_cons]

theorem bytesNat_take_natBytes (n v : Nat) (bs : List Byte) (h : v < 256 ^ n) : bytesNat ((natBytes n v ++ bs).take n) = v := by
  rw [List.take_left' (length_natBytes n v), bytesNat_natBytes n v h]

theorem savedArea_bytes (b : Bool) : flashBytes (savedArea b) = 0x100000 := by
  cases b
  · rfl
  · rfl

theorem savedArea_apart (b : Bool) : AreasApart (savedArea b) (savedArea !b) := by
  cases b
  · exact .inl (by decide)
  · exact .inr (by decide)

section
variable {f g : Flash} {b : Bool} {q : Nat} {m : SMap Nat}

theorem Flash.Written.savedSeq (h : f.Written g (savedArea b) (savedBytes q m)) (hq : q < 2 ^ 64 - 1) : g.savedSeq b = some q := by
  unfold Flash.savedSeq
  rw [h.read_given (by rw [savedArea_bytes]; omega) (by rw [length_savedBytes]; omega), List.drop_zero, savedBytes, List.append_assoc,
    bytesNat_take_natBytes 8 q _ (by omega)]
  exact if_neg (by omega)

theorem Flash.Written.savedSeq_erased (h : f.Written g (savedArea b) []) : g.savedSeq b = none := by
  unfold Flash.savedSeq
  rw [h.read_erased (by rw [savedArea_bytes]; omega) (Nat.zero_le _)]
  rfl

theorem Flash.Written.savedSeq_other {bs : List Byte} (h : f.Written g (savedArea b) bs) : g.savedSeq (!b) = f.savedSeq (!b) := by
  unfold Flash.savedSeq
  rw [h.read_other (savedArea_apart b) (by rw [savedArea_bytes]; omega)]

/-- A copy that was written whole reads back as the set that it was written with. -/
theorem Flash.Written.savedIn (h : f.Written g (savedArea b) (savedBytes q m)) (fits : m.length < 65536)
    (small : ∀ e ∈ m, e.1 < 2 ^ 64 ∧ e.2 < 2 ^ 64) : g.savedIn b = m := by
  have count : bytesNat (g.read (savedArea b) 8 8) = m.length := by
    rw [h.read_given (by rw [savedArea_bytes]; omega) (by rw [length_savedBytes]; omega), savedBytes, List.append_assoc,
      List.drop_left' (length_natBytes 8 q), bytesNat_take_natBytes 8 _ _ (by omega)]
  refine List.ext_getElem (by simp [Flash.savedIn, count]) fun k hk hm => ?_
  obtain ⟨key, value⟩ := small m[k] (List.getElem_mem hm)
  have entry := savedBytes_drop q m hm
  simp only [Flash.savedIn, List.getElem_map, List.getElem_range]
  rw [h.read_given (by rw [savedArea_bytes]; omega) (by rw [length_savedBytes]; omega),
    h.read_given (by rw [savedArea_bytes]; omega) (by rw [length_savedBytes]; omega),
    show 24 + 16 * k = (16 + 16 * k) + 8 by omega, ← List.drop_drop (i := 8), entry, savedEntry, List.append_assoc,
    List.drop_left' (length_natBytes 8 _), bytesNat_take_natBytes 8 _ _ key, bytesNat_take_natBytes 8 _ _ value]

end

/-- The newer of two copies that hold a set is the one of the higher number. -/
theorem Flash.savedNewest_of {f : Flash} {b : Bool} {q : Nat} (here : f.savedSeq b = some q)
    (older : ∀ p, f.savedSeq (!b) = some p → p < q) : f.savedNewest = some b := by
  cases b
  · rw [Bool.not_false] at older
    unfold Flash.savedNewest
    rw [here]
    cases other : f.savedSeq true
    · rfl
    case some p =>
      have := older p other
      simp only [Option.some.injEq, decide_eq_false_iff_not]
      omega
  · rw [Bool.not_true] at older
    unfold Flash.savedNewest
    rw [here]
    cases other : f.savedSeq false
    · rfl
    case some p => exact congrArg some (decide_eq_true (older p other))

/-- The copy that a save goes into, and the number that it gets there. -/
def Flash.saveCopy (f : Flash) : Bool × Nat :=
  match f.savedNewest with
  | none => (false, 0)
  | some b => (!b, ((f.savedSeq b).getD 0 + 1) % (2 ^ 64 - 1))

theorem Flash.save_written (f : Flash) (m : SMap Nat) : f.Written (f.save m) (savedArea f.saveCopy.1) (savedBytes f.saveCopy.2 m) := by
  unfold Flash.save Flash.saveCopy
  cases f.savedNewest with
  | none => exact f.rewrite_written _ _
  | some b => exact f.rewrite_written _ _

theorem Flash.savedNewest_none {f : Flash} (h : f.savedNewest = none) : f.savedSeq false = none ∧ f.savedSeq true = none := by
  unfold Flash.savedNewest at h
  split at h
  · next no no' => exact ⟨no, no'⟩
  all_goals cases h

theorem Flash.savedNewest_some {f : Flash} {b : Bool} (h : f.savedNewest = some b) : ∃ q, f.savedSeq b = some q := by
  unfold Flash.savedNewest at h
  split at h
  · cases h
  · next q here _ => exact Option.some.inj h ▸ ⟨q, here⟩
  · next q _ here => exact Option.some.inj h ▸ ⟨q, here⟩
  · next p q here here' =>
    cases b
    · exact ⟨p, here⟩
    · exact ⟨q, here'⟩

/-- A set that is saved is the set in force. -/
theorem Flash.save_saved {f : Flash} {m : SMap Nat} (small : ∀ e ∈ m, e.1 < 2 ^ 64 ∧ e.2 < 2 ^ 64) (fits : m.length < 65536)
    (numbers : ∀ b q, f.savedSeq b = some q → q < 2 ^ 64 - 2) : (f.save m).saved = some m := by
  have written := f.save_written m
  unfold Flash.saveCopy at written
  cases newest : f.savedNewest with
  | none =>
    rw [newest] at written
    change f.Written _ (savedArea false) (savedBytes 0 m) at written
    have last : (f.save m).savedNewest = some false :=
      Flash.savedNewest_of (written.savedSeq (by omega)) fun p hp => by
        rw [written.savedSeq_other, Bool.not_false, (Flash.savedNewest_none newest).2] at hp
        cases hp
    rw [Flash.saved, last, Option.map_some, written.savedIn fits small]
  | some b =>
    obtain ⟨q, before⟩ := Flash.savedNewest_some newest
    have := numbers b q before
    have next : (q + 1) % (2 ^ 64 - 1) = q + 1 := Nat.mod_eq_of_lt (by omega)
    rw [newest] at written
    simp only [before, Option.getD_some, next] at written
    have last : (f.save m).savedNewest = some !b :=
      Flash.savedNewest_of (written.savedSeq (by omega)) fun p hp => by
        rw [written.savedSeq_other, Bool.not_not, before] at hp
        cases hp
        omega
    rw [Flash.saved, last, Option.map_some, written.savedIn fits small]

theorem Flash.unsave_saved (f : Flash) : f.unsave.saved = none := by
  have first : f.Written (f.eraseArea (savedArea false)) (savedArea false) [] := f.eraseArea_written _
  have second : (f.eraseArea (savedArea false)).Written f.unsave (savedArea true) [] := Flash.eraseArea_written _ _
  have a : f.unsave.savedSeq false = none := second.savedSeq_other.trans first.savedSeq_erased
  have b : f.unsave.savedSeq true = none := second.savedSeq_erased
  unfold Flash.saved Flash.savedNewest
  rw [a, b]
  rfl

/-! ### The helper data (R437) -/

theorem length_helperBytes (secret : BitVec 256) : (helperBytes secret).length = 68 := by simp [helperBytes]

theorem helperArea_bytes (b : Bool) : flashBytes (helperArea b) = 0x10000 := by
  cases b
  · rfl
  · rfl

/-- A copy that was written whole gives the key of its secret. -/
theorem Flash.Written.helperKey {f g : Flash} {b : Bool} {secret : BitVec 256} (h : f.Written g (helperArea b) (helperBytes secret)) :
    g.helperKey b = some (Config.identityKey secret) := by
  have length := length_helperBytes secret
  have small (x : BitVec 256) : x.toNat < 256 ^ 32 := x.isLt
  unfold Flash.helperKey
  simp only [h.read_given (a := 0) (n := 4) (by rw [helperArea_bytes]; omega) (by omega),
    h.read_given (a := 4) (n := 32) (by rw [helperArea_bytes]; omega) (by omega),
    h.read_given (a := 36) (n := 32) (by rw [helperArea_bytes]; omega) (by omega)]
  have magic : bytesNat (((helperBytes secret).drop 0).take 4) = helperMagic := by
    rw [List.drop_zero, helperBytes, List.append_assoc, bytesNat_take_natBytes 4 _ _ (by decide)]
  have offset : bytesNat (((helperBytes secret).drop 4).take 32) = (secret ^^^ Config.pufResponse).toNat := by
    rw [helperBytes, List.append_assoc, List.drop_left' (length_natBytes 4 _), bytesNat_take_natBytes 32 _ _ (small _)]
  have check : bytesNat (((helperBytes secret).drop 36).take 32) =
      (sm3 (natBytes 64 (sm2Public (Config.identityKey secret)).toNat)).toNat := by
    rw [helperBytes, List.drop_left' (by simp), List.take_of_length_le (by simp), bytesNat_natBytes 32 _ (small _)]
  rw [magic, offset, check, BitVec.ofNat_toNat, BitVec.ofNat_toNat, BitVec.setWidth_eq, BitVec.setWidth_eq, BitVec.xor_assoc,
    BitVec.xor_self, BitVec.xor_zero, if_neg (not_not_intro rfl), if_pos rfl]

theorem Flash.helperKey_other {f g : Flash} {i : Nat} {bs : List Byte} (h : f.Written g i bs) {b : Bool} (apart : AreasApart i (helperArea b)) :
    g.helperKey b = f.helperKey b := by
  unfold Flash.helperKey
  simp only [h.read_other apart (a := 0) (n := 4) (by rw [helperArea_bytes]; omega),
    h.read_other apart (a := 4) (n := 32) (by rw [helperArea_bytes]; omega),
    h.read_other apart (a := 36) (n := 32) (by rw [helperArea_bytes]; omega)]

theorem Flash.header_other {f g : Flash} {i : Nat} {bs : List Byte} (h : f.Written g i bs) {b : Bool} (apart : AreasApart i (slotArea b)) :
    g.header b = f.header b := by
  unfold Flash.header
  rw [h.read_other apart (by cases b <;> decide)]

/-- The records of a copy are read inside it. -/
theorem Flash.run_other {f g : Flash} {i : Nat} {bs : List Byte} (h : f.Written g i bs) {b : Bool} (apart : AreasApart i (configArea b)) :
    ∀ k a, g.run b k a = f.run b k a
  | 0, _ => rfl
  | k + 1, a => by
    unfold Flash.run
    by_cases room : a + 128 ≤ flashBytes (configArea b)
    · simp only [h.read_other apart (a := a) (n := 4) (by omega), h.read_other apart (a := a + 8) (n := 4) (by omega)]
      split
      · rfl
      · next fits =>
        simp only [not_or, not_lt] at fits
        rw [h.read_other apart (by omega)]
        split
        · rfl
        · rw [Flash.run_other h apart k]
    · rw [if_pos (.inr (.inr (by omega))), if_pos (.inr (.inr (by omega)))]

theorem Flash.records_other {f g : Flash} {i : Nat} {bs : List Byte} (h : f.Written g i bs) (apart : ∀ b, AreasApart i (configArea b)) :
    g.records = f.records := by
  unfold Flash.records Flash.area
  rw [Flash.run_other h (apart false), Flash.run_other h (apart true)]

section
variable (f : Flash) (secret : BitVec 256)

/-- The flash after an enrolment, in its three writes. -/
theorem Flash.enrol_writes : ∃ g h : Flash, f.Written g (helperArea false) (helperBytes secret) ∧
    g.Written h (helperArea true) (helperBytes secret) ∧ h.Written (f.enrol secret).clearMarker markerArea [] :=
  ⟨_, _, f.rewrite_written _ _, Flash.rewrite_written _ _ _, Flash.eraseArea_written _ _⟩

theorem Flash.enrol_marker : (f.enrol secret).clearMarker.eraseMarker = false := by
  have erased := Flash.eraseArea_written (f.enrol secret) markerArea (flashArea markerArea).offset
  unfold Flash.eraseMarker Flash.clearMarker
  rw [erased, if_pos ⟨Nat.le_refl _, by decide⟩]
  rfl

theorem Flash.enrol_deriveKey : (f.enrol secret).clearMarker.deriveKey = some (Config.identityKey secret) := by
  obtain ⟨g, h, first, second, marker⟩ := f.enrol_writes secret
  unfold Flash.deriveKey
  rw [f.enrol_marker secret, Flash.helperKey_other marker (.inr (by decide)), Flash.helperKey_other second (.inr (by decide)),
    first.helperKey]
  rfl

theorem Flash.enrol_header (b : Bool) : (f.enrol secret).clearMarker.header b = f.header b := by
  obtain ⟨g, h, first, second, marker⟩ := f.enrol_writes secret
  have apart (i : Nat) (hi : (flashArea 1).offset + flashBytes 1 ≤ (flashArea i).offset) : AreasApart i (slotArea b) := by
    cases b
    · exact .inr (le_trans (by decide) hi)
    · exact .inr hi
  rw [Flash.header_other marker (apart _ (by decide)), Flash.header_other second (apart _ (by decide)),
    Flash.header_other first (apart _ (by decide))]

theorem Flash.enrol_records : (f.enrol secret).clearMarker.records = f.records := by
  obtain ⟨g, h, first, second, marker⟩ := f.enrol_writes secret
  have apart (i : Nat) (hi : (flashArea 3).offset + flashBytes 3 ≤ (flashArea i).offset) (b : Bool) : AreasApart i (configArea b) := by
    cases b
    · exact .inr (le_trans (by decide) hi)
    · exact .inr hi
  rw [Flash.records_other marker (apart _ (by decide)), Flash.records_other second (apart _ (by decide)),
    Flash.records_other first (apart _ (by decide))]

end

/-! ### Image headers (R428, R430) -/

/-- A bit of a header with SEQ replaced: bits 32 to 63 are those of SEQ. -/
theorem imgWithSeq_getLsbD (h : BitVec 2048) (q : Nat) {i : Nat} (hi : i < 2048) :
    (imgWithSeq h q).getLsbD i = if 32 ≤ i ∧ i < 64 then q.testBit (i - 32) else h.getLsbD i := by
  have ones : (BitVec.ofNat 2048 0xFFFFFFFF).getLsbD (i - 32) = decide (i - 32 < 32) := by
    rw [BitVec.getLsbD_ofNat, decide_eq_true (show i - 32 < 2048 by omega), Bool.true_and, show 0xFFFFFFFF = 2 ^ 32 - 1 by decide,
      Nat.testBit_two_pow_sub_one]
  unfold imgWithSeq
  rw [show (0xFFFFFFFF : BitVec 2048) = BitVec.ofNat 2048 0xFFFFFFFF from rfl, BitVec.getLsbD_or, BitVec.getLsbD_and, BitVec.getLsbD_not, BitVec.getLsbD_shiftLeft, BitVec.getLsbD_shiftLeft, ones,
    BitVec.getLsbD_ofNat, Nat.testBit_mod_two_pow]
  by_cases low : i < 32
  · simp [low, hi, show ¬32 ≤ i by omega]
  · by_cases high : i < 64
    · simp [low, high, hi, show 32 ≤ i by omega, show i - 32 < 32 by omega, show i - 32 < 2048 by omega]
    · simp [low, high, hi, show ¬i - 32 < 32 by omega]

theorem imgVersion_withSeq (h : BitVec 2048) (q : Nat) : imgVersion (imgWithSeq h q) = imgVersion h := by
  have same : (imgWithSeq h q).extractLsb' 64 32 = h.extractLsb' 64 32 := by
    apply BitVec.eq_of_getLsbD_eq
    intro i hi
    rw [BitVec.getLsbD_extractLsb', BitVec.getLsbD_extractLsb', imgWithSeq_getLsbD h q (by omega), if_neg (by omega)]
  rw [imgVersion, same, imgVersion]

theorem imgSeq_withSeq (h : BitVec 2048) (q : Nat) : imgSeq (imgWithSeq h q) = q % 2 ^ 32 := by
  have same : (imgWithSeq h q).extractLsb' 32 32 = BitVec.ofNat 32 q := by
    apply BitVec.eq_of_getLsbD_eq
    intro i hi
    rw [BitVec.getLsbD_extractLsb', imgWithSeq_getLsbD h q (by omega), if_pos (by omega), BitVec.getLsbD_ofNat,
      show 32 + i - 32 = i by omega]
  rw [imgSeq, same, BitVec.toNat_ofNat]

end Sys2Proof.Machine
end

section
/-! SUPPORT. What the signed and saved writes come to (R41, R430 to R438), and the end of a flash write. -/

namespace Sys2Proof.Machine
open Sys2Proof

/-! ### Writes that are reached -/

/-- A write of the saved-parameter object that is reached. -/
theorem State.flashRow_reached {s : State} {via : OdPath} {sub : Nat} (h : Reached s via 0x1010 sub 1) (j : State → FlashJob) :
    s.flashRow via sub j =
      if s.writesRefused then s.answerWrite via 0x1010 sub Status.refused
      else if s.flashBusy then s.answerWrite via 0x1010 sub Status.busy
      else { s with hm := { s.hm with flashJob := some (j s) } } := by
  obtain ⟨r, -, served⟩ := State.odRow_reached h fun s _ =>
    if s.writesRefused then .now Status.refused s
    else if s.flashBusy then .now Status.busy s
    else .later { s with hm := { s.hm with flashJob := some (j s) } }
  unfold State.flashRow
  rw [served]
  split
  · rfl
  · split
    · rfl
    · rfl

theorem State.flashBusy_iff (s : State) : s.flashBusy = true ↔ s.hm.flashJob ≠ none ∨ s.sec.erase ≠ .none := by
  unfold State.flashBusy
  rw [Bool.or_eq_true, Option.isSome_iff_ne_none, decide_eq_true_iff]

/-- A signed write that is reached is served by its own behaviour. -/
theorem State.domainRow_reached {s : State} {via : OdPath} {idx sub : Nat} (h : Reached s via idx sub 0) (indirect : via ≠ .direct)
    (writes : s.writesRefused = false) (f : State → Served) : s.domainRow via idx sub f = (f s).answer via idx sub := by
  obtain ⟨r, -, served⟩ := State.odRow_reached h fun s _ => if s.writesRefused ∨ via = .direct then .now Status.refused s else f s
  unfold State.domainRow
  rw [served, if_neg (by simp [writes, indirect])]

/-! ### Failures -/

/-- What a write that does not verify leaves before its answer: the failure is counted and logged. -/
def SigFails (s u : State) : Prop :=
  u.sec.sigFails = s.clk.now :: s.sec.sigFails ∧ Logs s u 0x0A02 sevWarning ∧ u = { s with sec := u.sec, log := u.log }

theorem State.sigFailure_fails (s : State) (obj reason what : Nat) : SigFails s (s.sigFailure obj reason what) :=
  ⟨rfl, ⟨_, rfl, rfl, rfl⟩, rfl⟩

/-! ### FW_UPDATE (R430) -/

section
variable {s : State} {via : OdPath} {bs : List Byte}

/-- The image in the bytes is not one that the device takes. -/
def State.BadImage (s : State) (bs : List Byte) : Prop :=
  bs.length < 256 ∨ imgMagic (BitVec.ofNat 2048 (bytesNat (bs.take 256))) ≠ 0x4D494E53 ∨
    imgVersion (BitVec.ofNat 2048 (bytesNat (bs.take 256))) < s.odGet Od.fwFloor ∨
    (imgFails (BitVec.ofNat 2048 (bytesNat (bs.take 256))) (bs.drop 256)).isSome = true

/-- The reason for which an image is refused. -/
def State.imageReason (s : State) (bs : List Byte) : Option Nat :=
  if bs.length < 256 then some 5 else s.updateFails (BitVec.ofNat 2048 (bytesNat (bs.take 256))) (bs.drop 256)

theorem State.imageReason_isSome (s : State) (bs : List Byte) : (s.imageReason bs).isSome = true ↔ s.BadImage bs := by
  unfold State.imageReason State.BadImage State.updateFails
  by_cases short : bs.length < 256
  · simp [short]
  · by_cases magic : imgMagic (BitVec.ofNat 2048 (bytesNat (bs.take 256))) = 0x4D494E53
    · by_cases floor : imgVersion (BitVec.ofNat 2048 (bytesNat (bs.take 256))) < s.odGet Od.fwFloor
      · simp [short, magic, floor]
      · simp [short, magic, floor]
    · simp [short, magic]

/-- The image slot that is not in use. -/
def State.otherSlot (s : State) : Bool := decide (s.odGet Od.imageSlot = 0)

variable (h : Reached s via 0x2901 0x01 0) (indirect : via ≠ .direct) (writes : s.writesRefused = false)
include h indirect writes

theorem execFwUpdate_bad (bad : s.BadImage bs) : Answers (.fwUpdate via bs) s via 0x2901 0x01 Status.refused (SigFails s) := by
  obtain ⟨r, reason⟩ := Option.isSome_iff_exists.mp ((s.imageReason_isSome bs).mpr bad)
  have run : exec (.fwUpdate via bs) s = execFwUpdate via bs s := rfl
  unfold State.imageReason at reason
  rw [Answers, run, execFwUpdate, withRoom_roomy h.room, State.domainRow_reached h indirect writes]
  dsimp only
  rw [reason]
  exact ⟨_, rfl, s.sigFailure_fails ..⟩

theorem execFwUpdate_good (good : ¬s.BadImage bs) : exec (.fwUpdate via bs) s = .next
    (if s.flashBusy then s.answerWrite via 0x2901 0x01 Status.busy
    else { s with
      flash := s.flash.eraseArea (slotArea s.otherSlot)
      hm := { s.hm with flashJob := some (.image s.otherSlot
        (imgWithSeq (BitVec.ofNat 2048 (bytesNat (bs.take 256))) (s.odGet Od.imageSeq + 1)) (bs.drop 256) via) } }) := by
  have reason : s.imageReason bs = none := by
    rw [← Option.not_isSome_iff_eq_none, s.imageReason_isSome]
    exact good
  have run : exec (.fwUpdate via bs) s = execFwUpdate via bs s := rfl
  unfold State.imageReason at reason
  rw [run, execFwUpdate, withRoom_roomy h.room, State.domainRow_reached h indirect writes]
  dsimp only
  rw [reason]
  dsimp only
  split
  · rfl
  · rfl

end

/-! ### CONFIG_UPDATE (R434) -/

section
variable {s : State} {via : OdPath} {bs : List Byte}

/-- The record is not newer than the one held. -/
def State.Outdated (s : State) (r : SRec) : Prop := ∃ q, s.heldSeq r = some q ∧ r.seq ≤ q

/-- The flash write that a record starts. -/
def State.recordJob (s : State) (via : OdPath) (bs : List Byte) (r : SRec) : FlashJob :=
  if r.rtype = 7 then .enrol (BitVec.ofNat 256 s.fresh.1) (BitVec.ofNat 64 r.seq) via
  else .record (BitVec.ofNat 8 r.rtype) (BitVec.ofNat 64 r.seq) bs via

variable (h : Reached s via 0x2901 0x02 0) (indirect : via ≠ .direct) (writes : s.writesRefused = false)
include h indirect writes

theorem State.configWrite_running (running : s.stopped = false) : s.configWrite via bs = s.answerWrite via 0x2901 0x02 Status.refused := by
  unfold State.configWrite
  rw [State.domainRow_reached h indirect writes, running]
  rfl

theorem State.configWrite_noRecord (stopped : s.stopped = true) (none : recOf bs = none) :
    ∃ u, s.configWrite via bs = u.answerWrite via 0x2901 0x02 Status.refused ∧ SigFails s u := by
  unfold State.configWrite
  rw [State.domainRow_reached h indirect writes, stopped, none]
  exact ⟨_, rfl, s.sigFailure_fails ..⟩

variable {r : SRec} (stopped : s.stopped = true) (record : recOf bs = some r) (h5 : r.rtype ≠ 5) (h6 : r.rtype ≠ 6)
include stopped record h5 h6

theorem State.configWrite_bad (bad : (r.fails s.keys).isSome = true ∨ s.Outdated r) :
    ∃ u, s.configWrite via bs = u.answerWrite via 0x2901 0x02 Status.refused ∧ SigFails s u := by
  unfold State.configWrite
  rw [State.domainRow_reached h indirect writes, stopped, record]
  dsimp only
  rw [if_neg (by simp), if_neg (by simp [h5, h6])]
  cases verifies : r.fails s.keys with
  | some k => exact ⟨_, rfl, s.sigFailure_fails ..⟩
  | none =>
    obtain ⟨q, held, le⟩ : s.Outdated r := bad.resolve_left (by simp [verifies])
    rw [held]
    dsimp only
    rw [if_pos (decide_eq_true le)]
    exact ⟨_, rfl, s.sigFailure_fails ..⟩

theorem State.configWrite_good (verifies : r.fails s.keys = none) (new : ¬s.Outdated r) :
    (s.flashBusy = true → s.configWrite via bs = s.answerWrite via 0x2901 0x02 Status.busy) ∧
    (s.flashBusy = false → ∃ u : State, s.configWrite via bs = u ∧ u.hm.flashJob = some (s.recordJob via bs r) ∧ u.od = s.od ∧
      ∀ a, u.memByte a = s.memByte a) := by
  unfold State.configWrite State.recordJob
  rw [State.domainRow_reached h indirect writes, stopped, record]
  dsimp only
  rw [if_neg (by simp), if_neg (by simp [h5, h6]), verifies]
  dsimp only
  rw [if_neg (by
    cases held : s.heldSeq r with
    | none => simp
    | some q => simpa using fun le : r.seq ≤ q => new ⟨q, held, le⟩)]
  refine ⟨fun busy => ?_, fun idle => ?_⟩
  · rw [busy]
    rfl
  · rw [idle]
    by_cases enrols : r.rtype = 7
    · rw [if_neg (by simp), if_pos enrols, if_pos enrols]
      exact ⟨_, rfl, rfl, rfl, fun _ => rfl⟩
    · rw [if_neg (by simp), if_neg enrols, if_neg enrols]
      exact ⟨_, rfl, rfl, rfl, fun _ => rfl⟩

end

/-- CONFIG_UPDATE, and ENROLMENT_AUTHORISATION where its record is one, write the record. -/
theorem exec_configWrite {s : State} {via : OdPath} {bs : List Byte} (room : s.log.roomy = true) {c : Instr}
    (hc : c = .configUpdate via bs ∨ (c = .enrolmentAuthorisation via bs ∧ (recOf bs).map SRec.rtype = some 7)) :
    exec c s = .next (s.configWrite via bs) := by
  rcases hc with rfl | ⟨rfl, authorises⟩
  · have run : exec (.configUpdate via bs) s = execConfigUpdate via bs s := rfl
    rw [run, execConfigUpdate, withRoom_roomy room]
  · have run : exec (.enrolmentAuthorisation via bs) s = execEnrolmentAuthorisation via bs s := rfl
    obtain ⟨r, record, enrols⟩ := Option.map_eq_some_iff.mp authorises
    rw [run, execEnrolmentAuthorisation, withRoom_roomy room, record]
    exact if_pos enrols

/-! ### Debug and quotes (R436, R438) -/

section
variable {s : State} {via : OdPath} {bs : List Byte}

/-- The bytes are a token of the level that verifies. -/
def State.TokenOf (s : State) (bs : List Byte) (l : Nat) : Prop := ∃ r, recOf bs = some r ∧ r.fails s.keys = none ∧ s.tokenLevel r = some l

theorem execDebugUnlock_bad (h : Reached s via 0x2902 0x02 0) (indirect : via ≠ .direct) (writes : s.writesRefused = false)
    (bad : ∀ l, ¬s.TokenOf bs l) : Answers (.debugUnlock via bs) s via 0x2902 0x02 Status.refused (SigFails s) := by
  have run : exec (.debugUnlock via bs) s = execDebugUnlock via bs s := rfl
  rw [Answers, run, execDebugUnlock, withRoom_roomy h.room, State.domainRow_reached h indirect writes]
  cases record : recOf bs with
  | none => exact ⟨_, rfl, s.sigFailure_fails ..⟩
  | some r =>
    dsimp only
    cases verifies : r.fails s.keys with
    | some k => exact ⟨_, rfl, s.sigFailure_fails ..⟩
    | none =>
      dsimp only
      cases level : s.tokenLevel r with
      | none => exact ⟨_, rfl, s.sigFailure_fails ..⟩
      | some l => exact absurd ⟨r, record, verifies, level⟩ (bad l)

theorem execDebugUnlock_token (h : Reached s via 0x2902 0x02 0) (indirect : via ≠ .direct) (writes : s.writesRefused = false) {l : Nat}
    (token : s.TokenOf bs l) : Answers (.debugUnlock via bs) s via 0x2902 0x02 Status.ok fun u => u.odGet Od.debugLevel = l ∧
      Logs s u 0x0A05 sevWarning ∧ u.sec.identityKey = (if l = 2 then none else s.sec.identityKey) ∧ ∀ a, u.memByte a = s.memByte a := by
  obtain ⟨r, record, verifies, level⟩ := token
  have run : exec (.debugUnlock via bs) s = execDebugUnlock via bs s := rfl
  rw [Answers, run, execDebugUnlock, withRoom_roomy h.room, State.domainRow_reached h indirect writes, record]
  dsimp only
  rw [verifies]
  dsimp only
  rw [level]
  have set (t : State) : (t.odSet Od.debugLevel l).odGet Od.debugLevel = l := by rw [State.odGet_odSet, if_pos rfl]
  dsimp only
  by_cases zeroes : l = 2
  · rw [if_pos zeroes, if_pos zeroes]
    exact ⟨_, rfl, set _, ⟨_, rfl, rfl, rfl⟩, rfl, fun _ => rfl⟩
  · rw [if_neg zeroes, if_neg zeroes]
    exact ⟨_, rfl, set _, ⟨_, rfl, rfl, rfl⟩, rfl, fun _ => rfl⟩

/-- The body of a quote begins with its nonce. -/
theorem State.quote_nonce (s : State) (nonce : List Byte) (h : nonce.length = 32) :
    ((s.signedRecord 6 0 (s.quoteBody nonce)).drop 64).take 32 = nonce := by
  unfold State.signedRecord State.quoteBody
  dsimp only
  rw [List.append_assoc, List.drop_left' (length_natBytes 64 _)]
  simp only [List.append_assoc]
  exact List.take_left' h

theorem execQuoteNonce_refused (h : Reached s via 0x2903 0x01 0) (indirect : via ≠ .direct) (writes : s.writesRefused = false)
    (bad : bs.length ≠ 32 ∨ s.canSign = false) :
    exec (.quoteNonce via bs) s = .next (s.answerWrite via 0x2903 0x01 Status.refused) := by
  have run : exec (.quoteNonce via bs) s = execQuoteNonce via bs s := rfl
  rw [run, execQuoteNonce, withRoom_roomy h.room, State.domainRow_reached h indirect writes, if_pos (by simpa using bad)]
  rfl

theorem execQuoteNonce_signed (h : Reached s via 0x2903 0x01 0) (indirect : via ≠ .direct) (writes : s.writesRefused = false)
    (length : bs.length = 32) (signs : s.canSign = true) : Answers (.quoteNonce via bs) s via 0x2903 0x01 Status.ok fun u =>
      u.sec.quote = s.signedRecord 6 0 (s.quoteBody bs) ∧ (u.sec.quote.drop 64).take 32 = bs ∧ u = { s with sec := u.sec } := by
  have run : exec (.quoteNonce via bs) s = execQuoteNonce via bs s := rfl
  rw [Answers, run, execQuoteNonce, withRoom_roomy h.room, State.domainRow_reached h indirect writes, if_neg (by simp [length, signs])]
  exact ⟨_, rfl, rfl, s.quote_nonce bs length, rfl⟩

end

/-! ### The end of a flash write (R430, R434) -/

/-- The flash and the writes that wait for it are as they were. -/
structure FlashKept (s t : State) : Prop where
  flash : t.flash = s.flash
  job : t.hm.flashJob = s.hm.flashJob
  due : t.hm.repairDue = s.hm.repairDue

theorem FlashKept.trans {s t u : State} (a : FlashKept s t) (b : FlashKept t u) : FlashKept s u :=
  ⟨b.flash.trans a.flash, b.job.trans a.job, b.due.trans a.due⟩

theorem FlashKept.foldl {α : Type} {f : State → α → State} (h : ∀ t x, FlashKept t (f t x)) : ∀ (l : List α) (s : State),
    FlashKept s (l.foldl f s)
  | [], _ => ⟨rfl, rfl, rfl⟩
  | x :: l, s => (h s x).trans (FlashKept.foldl h l (f s x))

theorem State.odSet_flashKept (s : State) (k v : Nat) : FlashKept s (s.odSet k v) := ⟨rfl, rfl, rfl⟩

theorem State.applyConfigEntry_flashKept (s : State) (e : Nat) : FlashKept s (s.applyConfigEntry e) := by
  unfold State.applyConfigEntry
  dsimp only
  split
  · split
    · exact ⟨rfl, rfl, rfl⟩
    · exact ⟨rfl, rfl, rfl⟩
  · exact ⟨rfl, rfl, rfl⟩

theorem State.applyConfig_flashKept (s : State) : FlashKept s s.applyConfig := by
  have resets : FlashKept s (s.odResets configKeys) := FlashKept.foldl (fun t k => t.odSet_flashKept k _) _ s
  unfold State.applyConfig
  generalize s.odResets configKeys = t at resets
  dsimp only
  split
  · exact resets.trans ((t.odSet_flashKept _ _).trans (State.odSet_flashKept _ _ _))
  · exact resets.trans ((t.odSet_flashKept _ _).trans
      ((FlashKept.foldl State.applyConfigEntry_flashKept _ _).trans (State.odSet_flashKept _ _ _)))

theorem State.recordStored_flashKept (s : State) (t : Nat) : FlashKept s (s.recordStored t) := by
  unfold State.recordStored
  split
  · exact s.applyConfig_flashKept
  · split
    · have owner : FlashKept s { s with sec := { s.sec with ownerKey := s.flash.owner } } := ⟨rfl, rfl, rfl⟩
      exact owner.trans (State.applyConfig_flashKept _)
    · split
      · exact ⟨rfl, rfl, rfl⟩
      · exact ⟨rfl, rfl, rfl⟩

theorem State.answerWrite_flashKept (s : State) (via : OdPath) (idx sub : Nat) (st : Status) :
    FlashKept s (s.answerWrite via idx sub st) := by
  have logged : FlashKept s (if statusFails st then s.odFailed via idx sub st else s) := by
    split
    · exact ⟨rfl, rfl, rfl⟩
    · exact ⟨rfl, rfl, rfl⟩
  unfold State.answerWrite
  generalize (if statusFails st then s.odFailed via idx sub st else s) = t at logged
  dsimp only
  split
  · unfold State.mailboxDone
    dsimp only
    rw [State.signal_rest]
    exact logged.trans ⟨rfl, rfl, rfl⟩
  · exact logged.trans ⟨rfl, rfl, rfl⟩
  · exact logged

theorem State.nextRepair_none {s : State} (h : s.hm.repairDue = false) : s.nextRepair = s := by
  unfold State.nextRepair
  rw [h]
  exact if_neg (by simp)

/-- No flash write is under way any more. -/
def State.flashFree (s : State) : State := { s with hm := { s.hm with flashJob := none } }

/-- What a flash write leaves once it has ended. -/
def State.afterFlash (s : State) (j : FlashJob) : State := s.flashFree.flashEffect j

theorem State.afterFlash_record (s : State) (t : BitVec 8) (seq : BitVec 64) (raw : List Byte) (via : OdPath) :
    ∃ u, FlashKept { s.flashFree with flash := s.flash.store raw } u ∧
      s.afterFlash (.record t seq raw via) = u.configAccepted t.toNat seq :=
  ⟨_, State.recordStored_flashKept _ _, rfl⟩

theorem State.afterFlash_kept (s : State) (j : FlashJob) :
    (s.afterFlash j).hm.flashJob = none ∧ (s.afterFlash j).hm.repairDue = s.hm.repairDue := by
  cases j with
  | record t seq raw via =>
    obtain ⟨u, kept, left⟩ := s.afterFlash_record t seq raw via
    rw [left]
    exact ⟨kept.job, kept.due⟩
  | _ => exact ⟨rfl, rfl⟩

section
variable {s : State} {j : FlashJob} (room : s.log.roomy = true) (job : s.hm.flashJob = some j) (idle : s.hm.repairDue = false)
  {via : OdPath} {idx sub : Nat} (path : j.path = some (via, idx, sub))
include room job idle path

theorem execFlashWriteDone_ends (served : (j.config && decide (s.dev.state = .alarmed)) = false) :
    exec .flashWriteDone s = .next ((s.afterFlash j).answerWrite via idx sub Status.ok) := by
  have run : exec .flashWriteDone s = execFlashWriteDone s := rfl
  have due := ((s.afterFlash j).answerWrite_flashKept via idx sub Status.ok).due.trans ((s.afterFlash_kept j).2.trans idle)
  rw [run, execFlashWriteDone, withRoom_roomy room, job]
  dsimp only
  rw [served, path]
  exact congrArg _ (State.nextRepair_none due)

theorem execFlashWriteDone_denied (served : (j.config && decide (s.dev.state = .alarmed)) = true) :
    exec .flashWriteDone s = .next (s.flashFree.answerWrite via idx sub Status.denied) := by
  have run : exec .flashWriteDone s = execFlashWriteDone s := rfl
  have due := (s.flashFree.answerWrite_flashKept via idx sub Status.denied).due.trans idle
  rw [run, execFlashWriteDone, withRoom_roomy room, job]
  dsimp only
  rw [served, path]
  exact congrArg _ (State.nextRepair_none due)

end

theorem execFlashWriteDone_idle {s : State} (none : s.hm.flashJob = none) : exec .flashWriteDone s = .next s := by
  have run : exec .flashWriteDone s = execFlashWriteDone s := rfl
  rw [run, execFlashWriteDone, none]
  exact withRoom_quiet rfl _

/-- A set that is saved goes into one copy. -/
theorem Flash.save_copy (f : Flash) (m : SMap Nat) : ∃ b bs, f.Written (f.save m) (savedArea b) bs := ⟨_, _, f.save_written m⟩

/-- The records that a new one leaves in the configuration area: those of another type of the newer copy (R434). -/
def Flash.keptRecords (f : Flash) (raw : List Byte) : List SRec :=
  (f.area f.newest).filter fun r => decide (some r.rtype ≠ (recOf raw).map SRec.rtype)

/-- The older copy of the configuration area is written with the records of the newer one, and the new record last. -/
theorem Flash.store_written (f : Flash) (raw : List Byte) :
    f.Written (f.store raw) (configArea !f.newest) (((f.keptRecords raw).map SRec.raw).flatten ++ raw) := by
  have stored : f.store raw = f.rewrite (configArea !f.newest) ((f.keptRecords raw).map SRec.raw ++ [raw]).flatten := rfl
  rw [stored, List.flatten_append, List.flatten_singleton]
  exact f.rewrite_written _ _

end Sys2Proof.Machine
end

section
/-! SUPPORT. Statement O47. -/

namespace Sys2Proof.Machine
open Sys2Proof

/-! ### The saved parameters (R41) -/

theorem exec_savedWrite {s : State} {via : OdPath} {c : Instr} {sub : Nat}
    (hc : (c = .saveParameters via ∧ sub = 0x01) ∨ (c = .restoreDefaults via ∧ sub = 0x02)) (h : Reached s via 0x1010 sub 1) :
    exec c s = .next (
      if s.writesRefused then s.answerWrite via 0x1010 sub Status.refused
      else if s.flashBusy then s.answerWrite via 0x1010 sub Status.busy
      else { s with hm := { s.hm with
        flashJob := some (if sub = 0x01 then .save (odSavedKeys.map fun k => (k, s.odGet k)) via else .erase via) } }) := by
  rcases hc with ⟨rfl, rfl⟩ | ⟨rfl, rfl⟩
  · have run : exec (.saveParameters via) s = execSaveParameters via s := rfl
    rw [run, execSaveParameters, withRoom_roomy h.room, State.flashRow_reached h]
    rfl
  · have run : exec (.restoreDefaults via) s = execRestoreDefaults via s := rfl
    rw [run, execRestoreDefaults, withRoom_roomy h.room, State.flashRow_reached h]
    rfl

section
variable {s : State} (room : s.log.roomy = true) {j : FlashJob} (job : s.hm.flashJob = some j) (idle : s.hm.repairDue = false)
include room job idle

/-- The write ends on its path, and leaves `P`. -/
def FlashEnds (s : State) (via : OdPath) (idx sub : Nat) (P : State → Prop) : Prop :=
  ∃ u : State, exec .flashWriteDone s = .next (u.answerWrite via idx sub Status.ok) ∧ u.hm.flashJob = none ∧ P u

theorem flashEnds {via : OdPath} {idx sub : Nat} (path : j.path = some (via, idx, sub))
    (served : (j.config && decide (s.dev.state = .alarmed)) = false) {P : State → Prop} (left : P (s.afterFlash j)) :
    FlashEnds s via idx sub P :=
  ⟨_, execFlashWriteDone_ends room job idle path served, (s.afterFlash_kept j).1, left⟩

end

theorem State.afterFlash_save (s : State) (m : SMap Nat) (via : OdPath) : s.afterFlash (.save m via) =
    { s.flashFree with flash := s.flash.save m }.event 0x0F 0 0x0004 sevInfo [(16, 4, m.length)] := rfl

/-- CONFIG_ACCEPTED is the last event that waits. -/
def State.Accepted (u : State) : Prop := ∃ e, u.log.ingress.getLast? = some e ∧ e.kind = 0x0A03 ∧ e.severity = sevInfo

theorem State.configAccepted_accepted (s : State) (t : Nat) (seq : BitVec 64) : (s.configAccepted t seq).Accepted := s.event_last ..

/-- Settles O47, write by write: each one that is reached is served by its behaviour, and a flash area reads back what was written. -/
theorem securityWrites : Obligations.SecurityWrites := by
  unfold Obligations.SecurityWrites
  refine ⟨fun s via c sub hc h => ?_, fun s via bs indirect writes => ⟨fun h => ?_, fun h c hc => ?_, fun h => ?_, fun h => ?_⟩,
    fun s via h => ?_, fun s => ⟨execFlashWriteDone_idle, fun j room job idle => ?_⟩⟩
  · rw [exec_savedWrite hc h]
    refine ⟨fun refused => ?_, fun writes busy => ?_, fun writes job erase => ?_⟩
    · rw [if_pos refused]
    · rw [if_neg (by simp [writes]), if_pos (s.flashBusy_iff.mpr busy)]
    · rw [if_neg (by simp [writes]), if_neg (by simp [s.flashBusy_iff, job, erase])]
  · refine ⟨execFwUpdate_bad h indirect writes, fun good busy => ?_, fun good idle => ?_⟩
    · rw [execFwUpdate_good h indirect writes good, if_pos (s.flashBusy_iff.mpr busy)]
    · rw [execFwUpdate_good h indirect writes good, if_neg (by rw [s.flashBusy_iff]; exact idle)]
      exact ⟨_, rfl, _, _, rfl, imgVersion_withSeq _ _, imgSeq_withSeq _ _, decide_eq_true_iff, s.flash.eraseArea_written _⟩
  · have write := exec_configWrite h.room hc
    refine ⟨fun running => ?_, fun stopped none => ?_, fun r stopped record h5 h6 => ⟨fun bad => ?_, fun verifies new busy => ?_,
      fun verifies new idle => ?_⟩⟩
    · rw [write, State.configWrite_running h indirect writes running]
    · obtain ⟨u, left, fails⟩ := State.configWrite_noRecord h indirect writes stopped none
      exact ⟨u, by rw [write, left], fails⟩
    · obtain ⟨u, left, fails⟩ := State.configWrite_bad h indirect writes stopped record h5 h6 bad
      exact ⟨u, by rw [write, left], fails⟩
    · have good := State.configWrite_good h indirect writes stopped record h5 h6 verifies new
      rw [write, good.1 (s.flashBusy_iff.mpr busy)]
    · have good := State.configWrite_good h indirect writes stopped record h5 h6 verifies new
      obtain ⟨u, left, job, kept⟩ := good.2 (by rw [← Bool.not_eq_true, s.flashBusy_iff]; exact idle)
      unfold State.recordJob at job
      refine ⟨fun plain => ?_, fun enrols => ?_⟩
      · rw [if_neg plain] at job
        exact ⟨u, by rw [write, left], job, kept⟩
      · rw [if_pos enrols] at job
        exact ⟨_, u, by rw [write, left], job, kept⟩
  · exact ⟨execDebugUnlock_bad h indirect writes, fun l => execDebugUnlock_token h indirect writes⟩
  · exact ⟨execQuoteNonce_refused h indirect writes, execQuoteNonce_signed h indirect writes⟩
  · have run : exec (.debugRelock via) s = execDebugRelock via s := rfl
    rw [run, execDebugRelock, withRoom_roomy h.room, State.odRow_admitted h]
  · refine ⟨?_, ?_, ?_, fun running => ?_, fun running => ?_, fun alarmed => ?_⟩
    · rintro m via rfl
      have left := s.afterFlash_save m via
      have flash : (s.afterFlash (.save m via)).flash = s.flash.save m := by rw [left, State.event_flash]
      refine flashEnds room job idle rfl rfl ⟨?_, ?_, ?_⟩
      · rw [flash]
        exact s.flash.save_copy m
      · rw [left]
        exact State.event_ingress ..
      · rw [flash]
        exact Flash.save_saved
    · rintro via rfl
      exact flashEnds room job idle rfl rfl ⟨s.flash.unsave_saved, _, s.flash.eraseArea_written _, Flash.eraseArea_written _ _⟩
    · rintro slot h body via rfl
      exact flashEnds room job idle rfl rfl (s.flash.rewrite_written _ _)
    · rintro t seq raw via rfl
      obtain ⟨u, kept, left⟩ := s.afterFlash_record t seq raw via
      have stored : (s.afterFlash (.record t seq raw via)).flash = s.flash.store raw := left ▸ kept.flash
      exact flashEnds room job idle rfl (by simp [running]) ⟨left ▸ u.configAccepted_accepted _ _, stored ▸ s.flash.store_written raw⟩
    · rintro secret seq via rfl
      exact flashEnds room job idle rfl (by simp [running]) ⟨State.configAccepted_accepted _ _ _, s.flash.enrol_marker secret,
        s.flash.enrol_deriveKey secret, rfl, s.flash.enrol_header secret, s.flash.enrol_records secret⟩
    · rintro via (⟨t, seq, raw, rfl⟩ | ⟨secret, seq, rfl⟩)
      · exact execFlashWriteDone_denied room job idle rfl (by simp [alarmed, FlashJob.config])
      · exact execFlashWriteDone_denied room job idle rfl (by simp [alarmed, FlashJob.config])

end Sys2Proof.Machine
end

section
/-! SUPPORT. What changes while time passes (R22, R32, R401, R447, R456): counters, epochs and what waits for them, the log, and the
dictionary from the epochs' entries on; and the time that an event of its own waits for (log 3). -/

namespace Sys2Proof.Machine
open Sys2Proof

/-- From `s` to `t` time may have passed. -/
structure Passed (s t : State) : Prop where
  rest : t = { s with clk := t.clk, od := t.od, cores := t.cores, disp := t.disp, fab := { s.fab with fec := t.fab.fec }
                      log := t.log, tally := t.tally }
  od : ∀ k, k < Od.epochCtx 0 → t.odGet k = s.odGet k

/-- And the clock stands as it did. -/
structure Arrived (s t : State) : Prop extends Passed s t where
  clk : t.clk = s.clk

namespace Passed

theorem refl (s : State) : Passed s s := ⟨rfl, fun _ _ => rfl⟩

theorem trans {s t u : State} (h : Passed s t) (k : Passed t u) : Passed s u :=
  ⟨by rw [k.rest, h.rest], fun i hi => (k.od i hi).trans (h.od i hi)⟩

theorem setClock (s : State) (c : Clock) (l : List Nat) : Passed s { s with clk := c, fab := { s.fab with fec := l } } :=
  ⟨rfl, fun _ _ => rfl⟩

variable {s t : State} (h : Passed s t)
include h

theorem dev : t.dev = s.dev := by rw [h.rest]
theorem hm : t.hm = s.hm := by rw [h.rest]
theorem out : t.out = s.out := by rw [h.rest]

end Passed

namespace Arrived

theorem refl (s : State) : Arrived s s := ⟨.refl s, rfl⟩

theorem trans {s t u : State} (h : Arrived s t) (k : Arrived t u) : Arrived s u :=
  ⟨h.toPassed.trans k.toPassed, k.clk.trans h.clk⟩

theorem foldl {α : Type} {f : State → α → State} : ∀ (l : List α) (s : State) (_ : ∀ x ∈ l, ∀ t, Arrived t (f t x)),
    Arrived s (l.foldl f s)
  | [], s, _ => .refl s
  | x :: l, s, h => (h x (.head _) s).trans (foldl l (f s x) fun y hy => h y (.tail _ hy))

theorem setDisp (s : State) (d : Disp) : Arrived s { s with disp := d } := ⟨⟨rfl, fun _ _ => rfl⟩, rfl⟩
theorem setTally (s : State) (x : Tally) : Arrived s { s with tally := x } := ⟨⟨rfl, fun _ _ => rfl⟩, rfl⟩

end Arrived

theorem State.odSet_arrived (s : State) {k : Nat} (hk : Od.epochCtx 0 ≤ k) (v : Nat) : Arrived s (s.odSet k v) :=
  ⟨⟨rfl, fun j hj => by rw [State.odGet_odSet, if_neg (by omega)]⟩, rfl⟩

theorem State.odAdd_arrived (s : State) {k : Nat} (hk : Od.epochCtx 0 ≤ k) (n : Nat) : Arrived s (s.odAdd k n) := s.odSet_arrived hk _

theorem State.event_arrived (s : State) (ty inst kind : Nat) (sev : BitVec 2) (l : List (Nat × Nat × Nat)) :
    Arrived s (s.event ty inst kind sev l) := ⟨⟨rfl, fun _ _ => rfl⟩, rfl⟩

theorem State.setCore_arrived (s : State) (n : Nat) (c : Core) : Arrived s (s.setCore n c) := ⟨⟨rfl, fun _ _ => rfl⟩, rfl⟩

theorem Od.late_key {b : Nat} (hb : 0x1411 ≤ b) (n : Nat) : Od.epochCtx 0 ≤ Od.key b n := by
  unfold Od.epochCtx Od.key
  omega

/-! ### The counters that count edges -/

theorem CountFrame.arrived {s t : State} {set : Nat} (h : CountFrame s t set) (hs : 0x1411 ≤ set) : Arrived s t := by
  refine ⟨⟨by rw [h.rest], fun k hk => h.od k (fun i _ => ?_) ?_⟩, by rw [h.rest]⟩
  · have := Od.late_key hs (0x02 + i)
    omega
  · have := Od.late_key hs 0x12
    omega

theorem State.count_arrived (s : State) {set : Nat} (hs : 0x1411 ≤ set) (ev n : Nat) (a : Attr) : Arrived s (s.count set ev n a) :=
  (s.count_frame set ev n a).arrived hs

theorem setType?_late {idx : Nat} (h : (setType? idx).isSome = true) : 0x1411 ≤ idx := by
  unfold setType? at h
  split at h
  · omega
  · split at h
    · omega
    · split at h
      · omega
      · split at h
        · omega
        · cases h

/-- The counters that are selected stand in the sets of the blocks. -/
theorem State.selects_set {s : State} {c : Nat × Nat × Nat} (h : c ∈ s.selects) : 0x1411 ≤ c.1 ∧ c.2.1 < 8 := by
  obtain ⟨e, -, he⟩ := List.mem_filterMap.mp h
  dsimp only at he
  split at he
  · next sel =>
    obtain ⟨-, hi, set, -⟩ := sel
    cases he
    exact ⟨setType?_late set, by dsimp only; omega⟩
  · cases he

theorem State.slotEdges_arrived (s : State) (cycles core : Nat) : Arrived s (s.slotEdges cycles core) := by
  have set : 0x1411 ≤ coreSet core := by
    unfold coreSet
    omega
  unfold State.slotEdges
  extract_lets uses left back attr t
  have used : Arrived s t := Arrived.foldl _ s fun u _ t => (Arrived.setTally t _).trans (State.count_arrived _ set ..)
  clear_value t
  exact (used.trans (State.count_arrived _ set ..)).trans (State.count_arrived _ set ..)

theorem State.countEdges_arrived (s : State) (now cycles : Nat) : Arrived s (s.countEdges now cycles) := by
  unfold State.countEdges
  extract_lets sel t cores
  have selected : Arrived s t := Arrived.foldl _ s fun c hc t =>
    (t.pmcAdd_frame c.1 c.2.1 _ (State.selects_set hc).2).arrived (State.selects_set hc).1
  clear_value t
  exact selected.trans (Arrived.foldl _ t fun n _ u => u.slotEdges_arrived _ n)

theorem State.flow_passed (s : State) (dt : Nat) : Passed s (s.flow dt) ∧ (s.flow dt).clk.now = s.clk.now + dt := by
  unfold State.flow
  extract_lets counting cyc a clk fab b c
  have edges : Arrived s a := by
    unfold a
    split
    · exact .refl s
    · exact s.countEdges_arrived ..
  have moved : Passed s b ∧ b.clk.now = s.clk.now + dt := ⟨edges.toPassed.trans (Passed.setClock a _ _), rfl⟩
  clear_value b
  have slow : Arrived b c := by
    unfold c
    split
    · exact b.odAdd_arrived (by decide) dt
    · exact .refl b
  clear_value c
  have held : Arrived c (if s.log.holding = true then c.odAdd Od.logHoldNs dt else c) := by
    split
    · exact c.odAdd_arrived (by decide) dt
    · exact .refl c
  have rest := slow.trans held
  exact ⟨moved.1.trans rest.toPassed, by rw [rest.clk, moved.2]⟩

/-! ### What is due -/

theorem State.copyRules_arrived (s : State) (cause ctx : Nat) (epoch : BitVec 32) (t : Nat) :
    Arrived s (s.copyRules cause ctx epoch t) := by
  unfold State.copyRules
  extract_lets u
  have copied : Arrived s u := Arrived.foldl _ s fun i _ t =>
    Arrived.foldl _ t fun j _ v => v.odSet_arrived (Od.late_key (by omega) j) _
  clear_value u
  exact (copied.trans (u.odSet_arrived (by decide) t)).trans (State.event_arrived ..)

theorem State.rulesAtEpoch_arrived (s : State) (ctx : Nat) (epoch : BitVec 32) (t : Nat) : Arrived s (s.rulesAtEpoch ctx epoch t) := by
  unfold State.rulesAtEpoch
  split
  · exact ((s.odSet_arrived (by decide) 0).trans (State.copyRules_arrived ..)).trans (Arrived.setDisp ..)
  · exact .refl s

theorem State.switchEpoch_arrived (s : State) (ctx : Nat) (epoch : BitVec 32) (t : Nat) : Arrived s (s.switchEpoch ctx epoch t) := by
  have entries : Arrived s ((s.odSet (Od.epochCtx ctx) epoch.toNat).odSet (Od.epochSwitchTime ctx) t) :=
    (s.odSet_arrived (by unfold Od.epochCtx Od.key; omega) _).trans (State.odSet_arrived _ (Od.late_key (by omega) _) _)
  exact ((entries.trans (State.event_arrived ..)).trans (State.rulesAtEpoch_arrived ..)).trans (Arrived.setDisp ..)

theorem State.latchDump_arrived (s : State) : Arrived s s.latchDump := by
  unfold State.latchDump
  split
  · exact .refl s
  · exact Arrived.setTally ..

theorem State.clearCounters_arrived (s : State) : Arrived s s.clearCounters := by
  have sets : ∀ i ∈ counterSets, 0x1411 ≤ i := by decide +kernel
  unfold State.clearCounters
  extract_lets t
  have zeroed : Arrived s t := Arrived.foldl _ s fun i hi t =>
    (Arrived.foldl _ t fun n _ u => u.odSet_arrived (Od.late_key (sets i hi) _) 0).trans
      (State.odSet_arrived _ (Od.late_key (sets i hi) _) 0)
  clear_value t
  exact zeroed.trans (Arrived.foldl _ t fun n _ u => u.setCore_arrived ..)

theorem State.countApply_arrived (s : State) (op : CountOp) : Arrived s (s.countApply op) := by
  unfold State.countApply
  extract_lets tally t
  have taken : Arrived s t := Arrived.setTally ..
  clear_value t
  cases op with
  | freeze => exact taken.trans (Arrived.setTally ..)
  | restart => exact taken.trans (Arrived.setTally ..)
  | clear => exact taken.trans t.clearCounters_arrived

theorem State.arrive_arrived (s : State) : Arrived s s.arrive := by
  unfold State.arrive
  extract_lets a b
  have epochs : Arrived s a := Arrived.foldl _ s fun e _ t => t.switchEpoch_arrived ..
  clear_value a
  have dump : Arrived a b := by
    unfold b
    split
    · exact a.latchDump_arrived
    · exact .refl a
  clear_value b
  split
  · split
    · exact (epochs.trans dump).trans (b.countApply_arrived _)
    · exact epochs.trans dump
  · exact epochs.trans dump

/-! ### The time of an event of its own (log 3) -/

theorem State.dues_later {s : State} {d : Nat} (h : s.dues.min? = some d) : s.clk.now < d := by
  have mem := List.min?_mem h
  unfold State.dues at mem
  exact of_decide_eq_true (List.mem_filter.mp mem).2

theorem State.passTo_passed : ∀ (k : Nat) (s : State) (t : Nat), s.clk.now ≤ t →
    Passed s (State.passTo k s t) ∧ (State.passTo k s t).clk.now = t
  | 0, s, t, le => by
    obtain ⟨passed, now⟩ := s.flow_passed (t - s.clk.now)
    exact ⟨passed, now.trans (by omega)⟩
  | k + 1, s, t, le => by
    obtain ⟨passed, now⟩ := s.flow_passed (t - s.clk.now)
    have straight : Passed s (s.flow (t - s.clk.now)) ∧ (s.flow (t - s.clk.now)).clk.now = t := ⟨passed, now.trans (by omega)⟩
    unfold State.passTo
    split
    · next d due =>
      split
      · next early =>
        have later := State.dues_later due
        obtain ⟨before, there⟩ := s.flow_passed (d - s.clk.now)
        have arrived := (s.flow (d - s.clk.now)).arrive_arrived
        have now : (s.flow (d - s.clk.now)).arrive.clk.now = d := by rw [arrived.clk, there]; omega
        obtain ⟨after, last⟩ := State.passTo_passed k (s.flow (d - s.clk.now)).arrive t (by omega)
        exact ⟨(before.trans arrived.toPassed).trans after, last⟩
      · exact straight
    · exact straight

theorem State.advanceTo_passed (s : State) (t : Nat) : Passed s (s.advanceTo t) := by
  unfold State.advanceTo State.pass
  split
  · exact (State.passTo_passed _ s _ (by omega)).1
  · exact .refl s

/-- An event that waits for a time happens no earlier. -/
theorem State.advanceTo_now (s : State) (t : Nat) : t ≤ (s.advanceTo t).clk.now := by
  unfold State.advanceTo State.pass
  split
  · rw [(State.passTo_passed _ s _ (by omega)).2]
    omega
  · omega

end Sys2Proof.Machine
end

section
/-! SUPPORT. Theost frames (R54 to R56): what the device reads in a header that it writes, which frames it hears, and how it answers. -/

namespace Sys2Proof.Machine
open Sys2Proof

/-! ### The header (R54) -/

/-- The frame as a station receives it. -/
def OutFrame.received (f : OutFrame) (mac : BitVec 48) (broadcast : Bool) : TheostFrame :=
  ⟨mac, broadcast, 0x88B5, BitVec.ofNat 128 (bytesNat ((f.bytes.drop 2).take 16)), f.bytes.drop 18⟩

section
variable (f : OutFrame) (mac : BitVec 48) (broadcast : Bool)

theorem OutFrame.received_header : (f.received mac broadcast).header = f.header := by
  have bytes : (f.bytes.drop 2).take 16 = natBytes 16 f.header.toNat := by
    have split : f.bytes.drop 2 = natBytes 16 f.header.toNat ++ f.payload := rfl
    rw [split, List.take_left' (length_natBytes 16 _)]
  unfold OutFrame.received
  rw [bytes, bytesNat_natBytes 16 _ f.header.isLt, BitVec.ofNat_toNat, BitVec.setWidth_eq]

theorem OutFrame.received_body : (f.received mac broadcast).body = f.payload := by
  have bytes : f.bytes = ([0x88, 0xB5] ++ natBytes 16 f.header.toNat) ++ f.payload := rfl
  have body : f.bytes.drop 18 = f.payload := by rw [bytes, List.drop_left' (by simp)]
  exact body

theorem OutFrame.received_version : (f.received mac broadcast).version = 0x01 := by
  rw [TheostFrame.version, f.received_header, OutFrame.header, BitVec.extractLsb'_append_eq_right]

theorem OutFrame.received_ftype : (f.received mac broadcast).ftype = f.ftype := by
  rw [TheostFrame.ftype, f.received_header, OutFrame.header, BitVec.extractLsb'_append_eq_of_le (by decide),
    BitVec.extractLsb'_append_eq_right]

theorem OutFrame.received_seq : (f.received mac broadcast).seq = f.seq := by
  rw [TheostFrame.seq, f.received_header, OutFrame.header, BitVec.extractLsb'_append_eq_of_le (by decide),
    BitVec.extractLsb'_append_eq_of_le (by decide), BitVec.extractLsb'_append_eq_right]

theorem OutFrame.received_index : (f.received mac broadcast).index = f.index := by
  rw [TheostFrame.index, f.received_header, OutFrame.header, BitVec.extractLsb'_append_eq_of_le (by decide),
    BitVec.extractLsb'_append_eq_of_le (by decide), BitVec.extractLsb'_append_eq_of_le (by decide), BitVec.extractLsb'_append_eq_right]

/-- The fields of the header above INDEX. -/
theorem OutFrame.header_high (i n : Nat) (h : 48 ≤ i) : f.header.extractLsb' i n =
    (f.xfer ++ f.dtype ++ f.flags ++ BitVec.ofNat 16 f.payload.length ++ f.status ++ f.sub).extractLsb' (i - 48) n := by
  rw [OutFrame.header, BitVec.extractLsb'_append_eq_of_le (by omega), BitVec.extractLsb'_append_eq_of_le (by omega),
    BitVec.extractLsb'_append_eq_of_le (by omega), BitVec.extractLsb'_append_eq_of_le (by omega), show i - 8 - 8 - 16 - 16 = i - 48 by omega]

theorem OutFrame.received_sub : (f.received mac broadcast).sub = f.sub := by
  rw [TheostFrame.sub, f.received_header, f.header_high _ _ (by decide), BitVec.extractLsb'_append_eq_right]

theorem OutFrame.received_status : (f.received mac broadcast).status = f.status := by
  rw [TheostFrame.status, f.received_header, f.header_high _ _ (by decide), BitVec.extractLsb'_append_eq_of_le (by decide),
    BitVec.extractLsb'_append_eq_right]

theorem OutFrame.received_length : (f.received mac broadcast).length = BitVec.ofNat 16 f.payload.length := by
  rw [TheostFrame.length, f.received_header, f.header_high _ _ (by decide), BitVec.extractLsb'_append_eq_of_le (by decide),
    BitVec.extractLsb'_append_eq_of_le (by decide), BitVec.extractLsb'_append_eq_right]

theorem OutFrame.received_flags : (f.received mac broadcast).flags = f.flags := by
  rw [TheostFrame.flags, f.received_header, f.header_high _ _ (by decide), BitVec.extractLsb'_append_eq_of_le (by decide),
    BitVec.extractLsb'_append_eq_of_le (by decide), BitVec.extractLsb'_append_eq_of_le (by decide), BitVec.extractLsb'_append_eq_right]

theorem OutFrame.received_xfer : (f.received mac broadcast).xfer = f.xfer := by
  rw [TheostFrame.xfer, f.received_header, f.header_high _ _ (by decide), BitVec.extractLsb'_append_eq_of_le (by decide),
    BitVec.extractLsb'_append_eq_of_le (by decide), BitVec.extractLsb'_append_eq_of_le (by decide),
    BitVec.extractLsb'_append_eq_of_le (by decide), BitVec.extractLsb'_append_eq_of_le (by decide)]
  exact BitVec.extractLsb'_eq_self

theorem OutFrame.received_payload (h : f.payload.length < 65536) : (f.received mac broadcast).payload = f.payload := by
  rw [TheostFrame.payload, f.received_body, f.received_length, BitVec.toNat_ofNat, List.take_of_length_le (by omega)]

end

/-! ### Which frames are heard (R47, R54, R55) -/

/-- Theost does not listen, or the frame is none of its. -/
def State.DeafTo (s : State) (fr : TheostFrame) : Prop := s.dev.state = .off ∨ s.dev.state = .boot ∨ fr.etherType ≠ 0x88B5

/-- The commands by which a frame of each type that a client sends comes in. -/
def frameCommands (fr : TheostFrame) : List (BitVec 8 × Instr) :=
  [(0x01, .readReq fr), (0x03, .writeReq fr), (0x05, .segStart fr), (0x06, .segData fr), (0x07, .segAck fr), (0x08, .segAbort fr)]

/-- A frame's command serves it as a frame of its type. -/
theorem exec_frame {s : State} {fr : TheostFrame} {t : BitVec 8} {c : Instr} (h : (t, c) ∈ frameCommands fr) :
    ∃ serve, exec c s = s.frame t fr serve ∨ exec c s = withRoom c s (s.frame t fr serve) := by
  unfold frameCommands at h
  simp only [List.mem_cons, Prod.mk.injEq, List.not_mem_nil, or_false] at h
  rcases h with ⟨rfl, rfl⟩ | ⟨rfl, rfl⟩ | ⟨rfl, rfl⟩ | ⟨rfl, rfl⟩ | ⟨rfl, rfl⟩ | ⟨rfl, rfl⟩
  · exact ⟨_, .inr rfl⟩
  · exact ⟨_, .inr rfl⟩
  · exact ⟨_, .inr rfl⟩
  · exact ⟨_, .inr rfl⟩
  · have run : exec (.segAck fr) s = execSegAck fr s := rfl
    exact ⟨_, .inl (by rw [run, execSegAck])⟩
  · exact ⟨_, .inr rfl⟩

section
variable {s : State} {fr : TheostFrame} {t : BitVec 8} {c : Instr}

theorem State.frame_deaf (deaf : s.DeafTo fr) (serve : State → State) : s.frame t fr serve = .next s := if_pos deaf

theorem State.frame_badVersion (deaf : ¬s.DeafTo fr) (bad : fr.version ≠ 0x01) (serve : State → State) :
    s.frame t fr serve = .next (s.odAdd Od.fieldBadVersion 1) := (if_neg deaf).trans (if_pos bad)

theorem State.frame_badType (deaf : ¬s.DeafTo fr) (version : fr.version = 0x01)
    (bad : fr.ftype ∉ [(0x01 : BitVec 8), 0x03, 0x05, 0x06, 0x07, 0x08]) (serve : State → State) :
    s.frame t fr serve = .next (s.odAdd Od.fieldBadType 1) := by
  have foreign : clientType fr.ftype = false := by
    unfold clientType
    simpa [and_assoc] using bad
  refine (if_neg deaf).trans ((if_neg (not_not_intro version)).trans (if_pos ?_))
  rw [foreign]
  rfl

/-- The frame's command leaves what its service leaves, where no event is logged. -/
theorem exec_frame_quiet (h : (t, c) ∈ frameCommands fr) {u : State} (served : ∀ serve, s.frame t fr serve = .next u) (log : u.log = s.log) :
    exec c s = .next u := by
  obtain ⟨serve, run | run⟩ := exec_frame (s := s) h
  · rw [run, served]
  · rw [run, served, withRoom_quiet (by rw [log])]

theorem State.frame_heard (h : Heard s fr t) (client : clientType t = true) (serve : State → State) :
    s.frame t fr serve = .next (serve s) := by
  obtain ⟨-, ⟨off, boot⟩, ether, version, ftype⟩ := h
  unfold State.frame
  rw [if_neg (by simp [off, boot, ether]), if_neg (not_not_intro version), ftype, client, if_neg (by simp), if_pos rfl]

/-! ### Requests and their responses (R56) -/

theorem State.request_kept {rsp : BitVec 8} {serve : State → State} {f : OutFrame} (h : s.keptFor fr = some f) :
    s.request fr rsp serve = s.sendFrame f := by
  unfold State.request
  rw [h]

theorem State.request_new {rsp : BitVec 8} {serve : State → State} (h : s.keptFor fr = none) : s.request fr rsp serve =
    if s.inService fr then s
    else if s.placesFull then s.sendFrame (rspFrame fr.srcMac rsp fr.seq fr.index.toNat fr.sub.toNat Status.busy 0 0 [])
    else serve s := by
  unfold State.request
  rw [h]

theorem Fresh.request {ftype rsp : BitVec 8} (h : Fresh s fr ftype) (serve : State → State) : s.request fr rsp serve = serve s := by
  rw [State.request_new h.kept, h.idle, h.place]
  rfl

/-- The commands of the requests, with the type of frame that asks and of the one that answers. -/
def requestCommands (fr : TheostFrame) : List (BitVec 8 × BitVec 8 × Instr) :=
  [(0x01, 0x02, .readReq fr), (0x03, 0x04, .writeReq fr), (0x05, 0x07, .segStart fr)]

theorem exec_request {rsp : BitVec 8} (h : (t, rsp, c) ∈ requestCommands fr) (heard : Heard s fr t) (single : fr.broadcast = false) :
    ∃ serve, exec c s = .next (s.request fr rsp serve) := by
  unfold requestCommands at h
  simp only [List.mem_cons, Prod.mk.injEq, List.not_mem_nil, or_false] at h
  rcases h with ⟨rfl, rfl, rfl⟩ | ⟨rfl, rfl, rfl⟩ | ⟨rfl, rfl, rfl⟩
  · have run : exec (.readReq fr) s = execReadReq fr s := rfl
    exact ⟨_, by rw [run, execReadReq, withRoom_roomy heard.room, State.frame_heard heard rfl, single, if_neg (by simp)]⟩
  · have run : exec (.writeReq fr) s = execWriteReq fr s := rfl
    exact ⟨_, by rw [run, execWriteReq, withRoom_roomy heard.room, State.frame_heard heard rfl, single, if_neg (by simp)]⟩
  · have run : exec (.segStart fr) s = execSegStart fr s := rfl
    exact ⟨_, by rw [run, execSegStart, withRoom_roomy heard.room, State.frame_heard heard rfl, single, if_neg (by simp)]⟩

/-- Broadcast writes and transfers are not served. -/
theorem exec_broadcast (h : (t, c) ∈ [((0x03 : BitVec 8), Instr.writeReq fr), (0x05, .segStart fr)]) (heard : Heard s fr t)
    (all : fr.broadcast = true) : exec c s = .next s := by
  simp only [List.mem_cons, Prod.mk.injEq, List.not_mem_nil, or_false] at h
  rcases h with ⟨rfl, rfl⟩ | ⟨rfl, rfl⟩
  · have run : exec (.writeReq fr) s = execWriteReq fr s := rfl
    rw [run, execWriteReq, withRoom_roomy heard.room, State.frame_heard heard rfl, if_pos all]
  · have run : exec (.segStart fr) s = execSegStart fr s := rfl
    rw [run, execSegStart, withRoom_roomy heard.room, State.frame_heard heard rfl, if_pos all]

/-- A response is sent, and kept for a repeat of its request. -/
theorem State.keepResponse_spec (s : State) (fr : TheostFrame) (f : OutFrame) :
    let u := s.keepResponse fr.srcMac fr.seq f
    u.out = .frame f.dst f.bytes :: s.out ∧ u.keptFor fr = some f ∧ u = { s with hm := { s.hm with kept := u.hm.kept }, out := u.out } := by
  refine ⟨rfl, ?_, rfl⟩
  have first : (decide (fr.srcMac = fr.srcMac) && decide (fr.seq = fr.seq)) = true := by simp
  unfold State.keptFor State.keepResponse
  exact congrArg (Option.map _) (List.find?_cons_of_pos (p := fun k : BitVec 48 × BitVec 16 × OutFrame => decide (k.1 = fr.srcMac) && decide (k.2.1 = fr.seq)) first)

/-- The response to a request of a read or of a segmented transfer. -/
def answerOf (fr : TheostFrame) (rsp : BitVec 8) (st : Status) (dtype : BitVec 8) (xfer : BitVec 32) (payload : List Byte) : OutFrame :=
  rspFrame fr.srcMac rsp fr.seq fr.index.toNat fr.sub.toNat st dtype xfer payload

theorem answerOf_entry (fr : TheostFrame) (rsp : BitVec 8) (st : Status) (dtype : BitVec 8) (xfer : BitVec 32) (payload : List Byte) :
    (answerOf fr rsp st dtype xfer payload).index = fr.index ∧ (answerOf fr rsp st dtype xfer payload).sub = fr.sub :=
  ⟨BitVec.ofNat_toNat .., BitVec.ofNat_toNat ..⟩

theorem State.answerFrame_spec (s : State) (fr : TheostFrame) (rsp : BitVec 8) (st : Status) (dtype : BitVec 8) (xfer : BitVec 32)
    (payload : List Byte) : ∃ u f, s.answerFrame fr rsp st dtype xfer payload = u ∧ f = answerOf fr rsp st dtype xfer payload ∧
      u.out = .frame f.dst f.bytes :: s.out ∧ u.keptFor fr = some f ∧
      u = { s with hm := { s.hm with kept := u.hm.kept }, log := u.log, out := u.out } := by
  refine ⟨_, _, rfl, rfl, ?_⟩
  have logged : ∃ l, (if statusFails st then s.odFailed (.theost fr.srcMac fr.seq) fr.index.toNat fr.sub.toNat st else s) =
      { s with log := l } := by
    split
    · exact ⟨_, rfl⟩
    · exact ⟨s.log, rfl⟩
  obtain ⟨l, logged⟩ := logged
  unfold State.answerFrame
  dsimp only
  rw [logged]
  obtain ⟨out, kept, rest⟩ := State.keepResponse_spec { s with log := l } fr (answerOf fr rsp st dtype xfer payload)
  exact ⟨out, kept, rest⟩

end

end Sys2Proof.Machine
end

section
/-! SUPPORT. Reads and writes over Theost (R55, R56), PRESENCE and the cyclic channels (R53, R59, R60): statement O55. -/

namespace Sys2Proof.Machine
open Sys2Proof

/-! ### Reads -/

section
variable {s : State} {fr : TheostFrame}

theorem exec_readReq_unserved (heard : Heard s fr 0x01) (all : fr.broadcast = true) (other : fr.index ≠ 0x1000) :
    exec (.readReq fr) s = .next s := by
  have run : exec (.readReq fr) s = execReadReq fr s := rfl
  rw [run, execReadReq, withRoom_roomy heard.room, State.frame_heard heard rfl, if_pos ⟨all, other⟩]

theorem exec_readReq_fresh (fresh : Fresh s fr 0x01) (served : fr.broadcast = false ∨ fr.index = 0x1000) :
    exec (.readReq fr) s = .next (s.serveRead fr) := by
  have run : exec (.readReq fr) s = execReadReq fr s := rfl
  rw [run, execReadReq, withRoom_roomy fresh.room, State.frame_heard fresh.toHeard rfl, if_neg, fresh.request]
  rintro ⟨all, other⟩
  rcases served with single | device
  · rw [all] at single
    cases single
  · exact other device

/-- What answers a read: the value, where the entry is served and its value is not too long. -/
theorem State.serveRead_answers (s : State) (fr : TheostFrame) : ∃ st dtype bs, s.serveRead fr = s.answerFrame fr 0x02 st dtype 0 bs ∧
    (∀ st', s.odReadStatus (.theost fr.srcMac fr.seq) fr.index.toNat fr.sub.toNat = (st', none) → st = st' ∧ bs = []) ∧
    ∀ st' r, s.odReadStatus (.theost fr.srcMac fr.seq) fr.index.toNat fr.sub.toNat = (st', some r) →
      (1024 < (s.odRead r fr.index.toNat fr.sub.toNat).length → st = Status.refused ∧ bs = []) ∧
      ((s.odRead r fr.index.toNat fr.sub.toNat).length ≤ 1024 →
        st = Status.ok ∧ dtype = r.ty.code ∧ bs = s.odRead r fr.index.toNat fr.sub.toNat) := by
  unfold State.serveRead
  rcases s.odReadStatus (.theost fr.srcMac fr.seq) fr.index.toNat fr.sub.toNat with ⟨st, _ | r⟩
  · exact ⟨st, 0, [], rfl, fun st' e => by cases e; exact ⟨rfl, rfl⟩, nofun⟩
  · dsimp only
    by_cases long : 1024 < (s.odRead r fr.index.toNat fr.sub.toNat).length
    · rw [if_pos long]
      refine ⟨_, _, _, rfl, nofun, fun st' r' e => ?_⟩
      cases e
      exact ⟨fun _ => ⟨rfl, rfl⟩, fun short => absurd long (by omega)⟩
    · rw [if_neg long]
      refine ⟨_, _, _, rfl, nofun, fun st' r' e => ?_⟩
      cases e
      exact ⟨fun l => absurd l long, fun _ => ⟨rfl, rfl, rfl⟩⟩

/-! ### Writes -/

theorem exec_writeReq_fresh (fresh : Fresh s fr 0x03) (single : fr.broadcast = false) : exec (.writeReq fr) s = .next (
    if 1024 < fr.payload.length then s.writeRefused (.theost fr.srcMac fr.seq) fr.index.toNat fr.sub.toNat 0
    else s.odWriteVia (.theost fr.srcMac fr.seq) fr.index.toNat fr.sub.toNat fr.payload) := by
  have run : exec (.writeReq fr) s = execWriteReq fr s := rfl
  rw [run, execWriteReq, withRoom_roomy fresh.room, State.frame_heard fresh.toHeard rfl, single, if_neg (by simp), fresh.request]

theorem Heard.pathOpen {t : BitVec 8} (h : Heard s fr t) (mac : BitVec 48) (seq : BitVec 16) : s.pathOpen (.theost mac seq) = true := by
  obtain ⟨off, boot⟩ := h.speaks
  simp [State.pathOpen, off, boot]

omit s fr in
theorem State.writeDenied_congr {s u : State} (dev : u.dev = s.dev) (od : u.od = s.od) (via : OdPath) (idx sub v : Nat) :
    u.writeDenied via idx sub v = s.writeDenied via idx sub v := by
  unfold State.writeDenied State.odGet
  rw [dev, od]

omit s fr in
theorem State.odRow?_congr {s u : State} (dev : u.dev = s.dev) (od : u.od = s.od) (idx sub : Nat) :
    u.odRow? idx sub = s.odRow? idx sub := by
  have mapped : ∀ n, u.coreMapped n = s.coreMapped n := fun n => by
    unfold State.coreMapped State.leftOut State.odGet
    rw [dev, od]
  unfold State.odRow? State.odGet
  simp only [mapped, dev, od]

/-- A write that no entry takes, on a path that is heard. -/
theorem refuses_writeRefused {c : Instr} {u : State} {via : OdPath} {idx sub : Nat} (run : exec c s = .next (u.writeRefused via idx sub 0))
    (open_ : u.pathOpen via = true) (same : u = { s with hm := u.hm, out := u.out }) : Refuses c s u via idx sub := by
  have dev : u.dev = s.dev := by rw [same]
  have od : u.od = s.od := by rw [same]
  have denied := State.writeDenied_congr dev od via idx sub 0
  have row := State.odRow?_congr dev od idx sub
  refine ⟨fun _ h => ?_, fun _ h none => ?_, fun reached => ?_⟩
  · rw [run, State.writeRefused_denied open_ (denied.trans h)]
  · rw [run, State.writeRefused_notFound open_ (denied.trans h) (by rw [row]; exact none)]
  · have here : Reached u via idx sub 0 :=
      ⟨by rw [same]; exact reached.room, open_, denied.trans reached.level, reached.range, by rw [row]; exact reached.entry⟩
    rw [run, State.writeRefused_refused here]

/-- A write is answered in a WRITE_RSP, which is kept for a repeat of its request. -/
theorem State.answerWrite_theost (s : State) (fr : TheostFrame) (idx sub : Nat) (st : Status) :
    ∃ u f, s.answerWrite (.theost fr.srcMac fr.seq) idx sub st = u ∧ u.out = .frame f.dst f.bytes :: s.out ∧ f.ftype = 0x04 ∧
      f.dst = fr.srcMac ∧ f.seq = fr.seq ∧ f.status = st ∧ f.payload = [] ∧ u.keptFor fr = some f := by
  have logged : ∃ t, (if statusFails st then s.odFailed (.theost fr.srcMac fr.seq) idx sub st else s) = t ∧ t.out = s.out := by
    split
    · exact ⟨_, rfl, rfl⟩
    · exact ⟨s, rfl, rfl⟩
  obtain ⟨t, logged, same⟩ := logged
  unfold State.answerWrite
  rw [logged]
  dsimp only
  refine ⟨_, _, rfl, congrArg (_ :: ·) same, rfl, rfl, rfl, rfl, rfl, ?_⟩
  exact (State.keepResponse_spec _ fr _).2.1

end

/-! ### PRESENCE (R53) -/

/-- PRESENCE as the device stands. -/
def presenceFrame (s : State) : OutFrame :=
  { dst := broadcastMac, ftype := 0x0A, seq := 0, index := 0, sub := 0, status := 0, flags := 0, dtype := 0, xfer := 0
    payload := natBytes 1 s.dev.state.code ++ natBytes 8 (s.odGet Od.serialNumber) }

def State.sendPresence (s : State) : State :=
  { s with hm := { s.hm with presenceAt := some s.clk.now } }.sendFrame (presenceFrame s)

theorem Passed.presence {s v : State} (passed : Passed s v) : v.sendPresence.out =
      .frame (presenceFrame v).dst (presenceFrame v).bytes :: s.out ∧
    (presenceFrame v).payload = natBytes 1 s.dev.state.code ++ natBytes 8 (s.odGet Od.serialNumber) := by
  have serial := passed.od Od.serialNumber (by decide)
  refine ⟨congrArg (_ :: ·) passed.out, ?_⟩
  unfold presenceFrame
  rw [passed.dev, serial]

theorem exec_presence {s : State} (speaks : s.fieldSpeaks = true) : ∃ v, exec .presence s = .next v.sendPresence ∧ Passed s v ∧
    ∀ t, s.hm.presenceAt = some t → t + 1000000 ≤ v.clk.now := by
  have run : exec .presence s = execPresence s := rfl
  rw [run, execPresence, if_pos speaks]
  cases s.hm.presenceAt with
  | none => exact ⟨s, rfl, .refl s, nofun⟩
  | some t => exact ⟨_, rfl, s.advanceTo_passed _, fun t' e => by cases e; exact s.advanceTo_now _⟩

/-! ### The cyclic channels (R59, R60) -/

/-- The frame of a channel that samples now. -/
def State.cycFrame (s : State) (n : Nat) (count : BitVec 32) : OutFrame :=
  { dst := BitVec.ofNat 48 (s.odGet (Od.cycDestMac n)), ftype := 0x09, seq := 0, index := 0, sub := BitVec.ofNat 8 n, status := 0
    flags := 0, dtype := 0, xfer := count, payload := natBytes 8 s.clk.now ++ (s.cycEntries n).flatMap s.cycBytes }

/-- The channel samples: its count goes on. -/
def State.cycSampled (s : State) (n : Nat) : State :=
  { s with hm := { s.hm with
    cycCount := SMap.set 0 s.hm.cycCount n (SMap.get 0 s.hm.cycCount n + 1), cycAt := SMap.set 0 s.hm.cycAt n s.clk.now } }

theorem exec_cyclic_off {s : State} {n : Nat} (off : ¬(n < 8 ∧ s.fieldSpeaks = true ∧ s.odGet (Od.cycEnable n) = 1)) :
    exec (.cyclic n) s = .next s := by
  have run : exec (.cyclic n) s = execCyclic n s := rfl
  rw [run, execCyclic, if_neg off]

/-- The time that the next sample waits for. -/
def State.cycDue (s : State) (n : Nat) : Nat := SMap.get 0 s.hm.cycAt n + 1000000 * s.odGet (Od.cycPeriod n)

theorem exec_cyclic_on {s : State} {n : Nat} (on : n < 8 ∧ s.fieldSpeaks = true ∧ s.odGet (Od.cycEnable n) = 1) :
    ∃ v k, v = (s.advanceTo (s.cycDue n)).cycSampled n ∧ exec (.cyclic n) s = .next (
      if v.fresh.1 % 2 = 1 then ({ v with free := k }).odSet (Od.cycDropped n) ((v.odGet (Od.cycDropped n) + 1) % 2 ^ 32)
      else ({ v with free := k }).sendFrame (v.cycFrame n (SMap.get 0 (s.advanceTo (s.cycDue n)).hm.cycCount n + 1))) := by
  have run : exec (.cyclic n) s = execCyclic n s := rfl
  rw [run, execCyclic, if_pos on]
  exact ⟨_, _, rfl, rfl⟩

end Sys2Proof.Machine
end

section
/-! SUPPORT. Statement O55. -/

namespace Sys2Proof.Machine
open Sys2Proof

/-! ### The samples of a channel -/

theorem Od.cyc_early {n : Nat} (hn : n < 8) {k : Nat} (hk : k < 256) : Od.key (0x1220 + n) k < Od.epochCtx 0 := by
  unfold Od.epochCtx Od.key
  omega

/-- After a sample, of a frame that is sent or dropped. -/
theorem exec_cyclic {s : State} {n : Nat} (on : n < 8 ∧ s.fieldSpeaks = true ∧ s.odGet (Od.cycEnable n) = 1) :
    ∃ u : State, exec (.cyclic n) s = .next u ∧
      SMap.get 0 s.hm.cycAt n + 1000000 * s.odGet (Od.cycPeriod n) ≤ u.clk.now ∧ SMap.get 0 u.hm.cycAt n = u.clk.now ∧
      SMap.get 0 u.hm.cycCount n = SMap.get 0 s.hm.cycCount n + 1 ∧
      ((u.out = s.out ∧ u.odGet (Od.cycDropped n) = (s.odGet (Od.cycDropped n) + 1) % 2 ^ 32) ∨
        ∃ (f : OutFrame) (v : State), u.out = .frame f.dst f.bytes :: s.out ∧ f.ftype = 0x09 ∧ f.sub = BitVec.ofNat 8 n ∧
          f.dst = BitVec.ofNat 48 (s.odGet (Od.cycDestMac n)) ∧ f.xfer = SMap.get 0 s.hm.cycCount n + 1 ∧
          u = { v with free := u.free, out := u.out } ∧
          f.payload = natBytes 8 u.clk.now ++ (v.cycEntries n).flatMap v.cycBytes) := by
  obtain ⟨v, k, sampled, run⟩ := exec_cyclic_on on
  have passed := s.advanceTo_passed (s.cycDue n)
  have due := s.advanceTo_now (s.cycDue n)
  generalize s.advanceTo (s.cycDue n) = t at *
  have now : v.clk.now = t.clk.now := by rw [sampled]; rfl
  have at_ : SMap.get 0 v.hm.cycAt n = v.clk.now := by rw [sampled]; exact SMap.get_set_self ..
  have count : SMap.get 0 v.hm.cycCount n = SMap.get 0 s.hm.cycCount n + 1 := by
    rw [sampled, ← passed.hm]
    exact SMap.get_set_self ..
  have out : v.out = s.out := by rw [sampled]; exact passed.out
  have od : ∀ j < 256, v.odGet (Od.key (0x1220 + n) j) = s.odGet (Od.key (0x1220 + n) j) := fun j hj => by
    rw [sampled]
    exact passed.od _ (Od.cyc_early on.1 hj)
  rw [run]
  by_cases late : v.fresh.1 % 2 = 1
  · rw [if_pos late]
    refine ⟨_, rfl, due.trans (by rw [← now]; rfl), at_, count, .inl ⟨out, ?_⟩⟩
    rw [State.odGet_odSet, if_pos rfl, od 0x05 (by decide)]
  · rw [if_neg late]
    refine ⟨_, rfl, due.trans (by rw [← now]; rfl), at_, count, .inr ⟨_, v, congrArg (_ :: ·) out, rfl, rfl, ?_, ?_, rfl, rfl⟩⟩
    · exact congrArg (BitVec.ofNat 48) (od 0x03 (by decide))
    · exact congrArg (SMap.get 0 ·.cycCount n + 1) passed.hm

/-- The channel is enabled now: its count starts again. -/
def State.cycStarted (s : State) (n : Nat) : State :=
  { s.odSet (Od.cycEnable n) 1 with hm := { s.hm with
    cycCount := SMap.set 0 s.hm.cycCount n 0, cycAt := SMap.set 0 s.hm.cycAt n s.clk.now } }

theorem State.cycStarted_spec (s : State) (n : Nat) : (s.cycStarted n).odGet (Od.cycEnable n) = 1 ∧
    SMap.get 0 (s.cycStarted n).hm.cycCount n = 0 ∧ SMap.get 0 (s.cycStarted n).hm.cycAt n = s.clk.now := by
  have count : (s.cycStarted n).hm.cycCount = SMap.set 0 s.hm.cycCount n 0 := rfl
  have at_ : (s.cycStarted n).hm.cycAt = SMap.set 0 s.hm.cycAt n s.clk.now := rfl
  exact ⟨(State.odGet_odSet ..).trans (if_pos rfl), by rw [count, SMap.get_set_self], by rw [at_, SMap.get_set_self]⟩

/-- CYC_ENABLE as an effect: what it answers, and what it leaves. -/
def State.cycEnabled (n : Nat) (v : BitVec 8) (s : State) : Status × State :=
  if v = 0 then (Status.ok, s.odSet (Od.cycEnable n) 0)
  else if s.odGet (Od.cycEnable n) = 1 then (Status.ok, s)
  else if !s.cycFits n then (Status.refused, s)
  else (Status.ok, s.cycStarted n)

theorem exec_cycEnable {s : State} {via : OdPath} {n : Nat} {v : BitVec 8} (hn : n < 8) (h : Admitted s via (0x1220 + n) 0x01 v.toNat) :
    exec (.cycEnable via n v) s = .next ((s.cycEnabled n v).2.answerWrite via (0x1220 + n) 0x01 (s.cycEnabled n v).1) := by
  have run : exec (.cycEnable via n v) s = execCycEnable via n v s := rfl
  rw [run, execCycEnable, withRoom_roomy h.room, if_neg (by omega), State.odRow_admitted h]
  rfl

/-- Settles O55, frame type by frame type: a header reads back the fields that it was written from, and time that passes leaves the
dictionary before the epochs' entries. -/
theorem fieldPort : Obligations.FieldPort := by
  unfold Obligations.FieldPort
  refine ⟨fun s fr => ⟨fun t c hc => ⟨fun deaf => ?_, fun deaf bad => ?_, fun deaf version bad => ?_⟩,
      fun t rsp c hc heard single => ⟨fun f kept => ?_, fun kept busy => ?_, fun kept idle full => ?_⟩,
      exec_readReq_unserved, fun t c => exec_broadcast, fun fresh served => ?_, fun fresh single => ⟨fun long => ?_, fun short => ?_⟩,
      fun st => s.answerWrite_theost fr _ _ st⟩,
    fun f mac b short => ?_, fun s => ⟨fun silent => ?_, fun speaks => ?_⟩, fun s n => ⟨exec_cyclic_off, exec_cyclic⟩,
    fun s via n v hn h => ?_⟩
  · exact exec_frame_quiet hc (State.frame_deaf deaf) rfl
  · exact exec_frame_quiet hc (State.frame_badVersion deaf bad) rfl
  · exact exec_frame_quiet hc (State.frame_badType deaf version bad) rfl
  · obtain ⟨serve, run⟩ := exec_request hc heard single
    rw [run, State.request_kept kept]
    rfl
  · obtain ⟨serve, run⟩ := exec_request hc heard single
    rw [run, State.request_new kept, if_pos busy]
  · obtain ⟨serve, run⟩ := exec_request hc heard single
    rw [Sends, run, State.request_new kept, idle, if_neg Bool.false_ne_true, if_pos full]
    exact ⟨_, _, rfl, rfl, rfl, rfl, rfl, rfl, rfl⟩
  · obtain ⟨st, dtype, bs, answered, failed, value⟩ := s.serveRead_answers fr
    obtain ⟨u, f, left, frame, out, kept, rest⟩ := s.answerFrame_spec fr 0x02 st dtype 0 bs
    refine ⟨u, f, by rw [exec_readReq_fresh fresh served, answered, left], out, ?_⟩
    obtain ⟨index, sub⟩ := answerOf_entry fr 0x02 st dtype 0 bs
    subst frame
    exact ⟨rfl, rfl, rfl, index, sub, rfl, kept, by rw [rest], failed, value⟩
  · refine refuses_writeRefused ?_ (fresh.pathOpen _ _) rfl
    rw [exec_writeReq_fresh fresh single, if_pos long]
  · rw [exec_writeReq_fresh fresh single, if_neg (by omega), execOdWrite_roomy fresh.room]
  · exact ⟨rfl, f.received_version mac b, f.received_ftype mac b, f.received_seq mac b, f.received_index mac b, f.received_sub mac b,
      f.received_status mac b, f.received_flags mac b, f.received_xfer mac b, f.received_payload mac b short⟩
  · have run : exec .presence s = execPresence s := rfl
    rw [run, execPresence, silent, if_neg Bool.false_ne_true]
  · obtain ⟨v, run, passed, later⟩ := exec_presence speaks
    exact ⟨_, _, run, passed.presence.1, rfl, rfl, passed.presence.2, rfl, later⟩
  · have run := exec_cycEnable hn h
    unfold State.cycEnabled at run
    refine ⟨fun off => ?_, fun more on => ?_, fun more idle full => ?_, fun more idle fits => ?_⟩
    · rw [if_pos off] at run
      exact ⟨_, run, by rw [State.odGet_odSet, if_pos rfl], rfl⟩
    · rw [if_neg more, if_pos on] at run
      exact ⟨_, run, rfl⟩
    · rw [if_neg more, if_neg idle, full, if_pos (by rfl)] at run
      exact run
    · rw [if_neg more, if_neg idle, fits, if_neg (by simp)] at run
      exact ⟨_, run, s.cycStarted_spec n⟩

end Sys2Proof.Machine
end

section
/-! SUPPORT. Segmented transfers (R58): statement O56. -/

namespace Sys2Proof.Machine
open Sys2Proof

/-! ### The transfers in progress -/

theorem Xfer.find_replaced (x : Xfer) : ∀ l : List Xfer, (l.find? fun y => decide (y.id = x.id)).isSome = true →
    (l.map fun y => if y.id = x.id then x else y).find? (fun y => decide (y.id = x.id)) = some x
  | [], h => by simp at h
  | y :: l, h => by
    rw [List.map_cons]
    by_cases same : y.id = x.id
    · rw [if_pos same, List.find?_cons_of_pos (by simp)]
    · rw [List.find?_cons_of_neg (by simpa using same)] at h
      rw [if_neg same, List.find?_cons_of_neg (by simpa using same)]
      exact Xfer.find_replaced x l h

section
variable {s : State} {x y : Xfer} {id : BitVec 32}

theorem State.xfer?_id (h : s.xfer? id = some x) : x.id = id := of_decide_eq_true (List.find?_some h :)

theorem State.setXfer_xfer? (h : s.xfer? y.id = some x) : (s.setXfer y).xfer? y.id = some y :=
  Xfer.find_replaced y _ (by
    unfold State.xfer? at h
    rw [h]
    rfl)

theorem State.dropXfer_xfer? (s : State) (id : BitVec 32) : (s.dropXfer id).xfer? id = none := by
  refine List.find?_eq_none.mpr fun y hy => ?_
  simpa using (List.mem_filter.mp hy).2

/-- A frame of a client names a transfer of its own. -/
theorem State.xferOf_some {fr : TheostFrame} (h : s.xferOf fr = some x) : s.xfer? x.id = some x ∧ x.mac = fr.srcMac := by
  obtain ⟨y, found, own⟩ := Option.bind_eq_some_iff.mp h
  split at own
  · next mac =>
    cases own
    exact ⟨by rw [State.xfer?_id found, found], mac⟩
  · cases own

/-! ### Segments of an upload -/

/-- Segments are frames, and nothing else changes. -/
theorem State.sendSegs_spec (s : State) (x : Xfer) (i n : Nat) :
    ∃ out : List Output, s.sendSegs x i n = { s with out := out ++ s.out } ∧ out.length = n := by
  have sent : ∀ (l : List Nat) (t : State), ∃ out : List Output,
      l.foldl (fun s k => s.sendFrame (segFrame x (i + k))) t = { t with out := out ++ t.out } ∧ out.length = l.length := by
    intro l
    induction l with
    | nil => exact fun t => ⟨[], rfl, rfl⟩
    | cons k l ih =>
      intro t
      obtain ⟨out, left, length⟩ := ih (t.sendFrame (segFrame x (i + k)))
      refine ⟨out ++ [.frame (segFrame x (i + k)).dst (segFrame x (i + k)).bytes], ?_, by simp [length]⟩
      rw [List.foldl_cons, left, List.append_assoc]
      rfl
  obtain ⟨out, left, length⟩ := sent (List.range n) s
  exact ⟨out, left, by rw [length, List.length_range]⟩

/-- An upload that goes on: its next segments are sent, 8 at most ahead of what is acknowledged. -/
theorem State.sendMore_spec (h : s.xfer? x.id = some y) : ∃ out : List Output,
    s.sendMore x = { s with hm := (s.sendMore x).hm, out := out ++ s.out } ∧
    out.length = min (segCount x.total) (x.acked + 8) - x.sent ∧ (s.sendMore x).hm.nextXfer = s.hm.nextXfer ∧
    (s.sendMore x).xfer? x.id = some { x with sent := max x.sent (min (segCount x.total) (x.acked + 8)) } := by
  have set : (s.setXfer { x with sent := max x.sent (min (segCount x.total) (x.acked + 8)) }).xfer? x.id = some
    { x with sent := max x.sent (min (segCount x.total) (x.acked + 8)) } := State.setXfer_xfer? (s := s) h
  obtain ⟨out, left, length⟩ := (s.setXfer { x with sent := max x.sent (min (segCount x.total) (x.acked + 8)) }).sendSegs_spec x
    x.sent (min (segCount x.total) (x.acked + 8) - x.sent)
  have more : s.sendMore x = _ := left
  rw [more]
  exact ⟨out, rfl, length, rfl, set⟩

end

/-! ### SEG_START -/

/-- The transfer that a SEG_START opens. -/
def State.opened (s : State) (fr : TheostFrame) : Xfer :=
  let q := s.segStatus fr (fr.flags.getLsbD 0) (bytesNat (fr.payload.take 4))
  { id := s.hm.nextXfer, mac := fr.srcMac, seq := fr.seq, index := fr.index, sub := fr.sub, upload := fr.flags.getLsbD 0
    total := if fr.flags.getLsbD 0 then q.2.length else bytesNat (fr.payload.take 4), data := q.2, acked := 0, sent := 0
    committing := false, progressAt := s.clk.now, heardAt := s.clk.now }

def State.withOpened (s : State) (fr : TheostFrame) : State :=
  { s with hm := { s.hm with xfers := s.hm.xfers ++ [s.opened fr], nextXfer := s.hm.nextXfer + 1 } }

/-- The state in which a SEG_START has been answered. -/
def State.segAnswered (s : State) (fr : TheostFrame) : State :=
  (s.withOpened fr).answerFrame fr 0x07 Status.ok 0 (s.opened fr).id (natBytes 4 (s.opened fr).total)

section
variable {s : State} {fr : TheostFrame}

theorem exec_segStart (fresh : Fresh s fr 0x05) (single : fr.broadcast = false) : exec (.segStart fr) s = .next (
    if (s.segStatus fr (fr.flags.getLsbD 0) (bytesNat (fr.payload.take 4))).1 ≠ Status.ok then
      s.answerFrame fr 0x07 (s.segStatus fr (fr.flags.getLsbD 0) (bytesNat (fr.payload.take 4))).1 0 0 []
    else if fr.flags.getLsbD 0 then (s.segAnswered fr).sendMore (s.opened fr) else s.segAnswered fr) := by
  have run : exec (.segStart fr) s = execSegStart fr s := rfl
  rw [run, execSegStart, withRoom_roomy fresh.room, State.frame_heard fresh.toHeard rfl, single, if_neg (by simp), fresh.request]
  rfl

theorem State.withOpened_xfer? (new : ∀ y ∈ s.hm.xfers, y.id ≠ s.hm.nextXfer) :
    (s.withOpened fr).xfer? s.hm.nextXfer = some (s.opened fr) := by
  have before : s.hm.xfers.find? (fun y => decide (y.id = s.hm.nextXfer)) = none :=
    List.find?_eq_none.mpr fun y hy => by simpa using new y hy
  unfold State.xfer? State.withOpened
  rw [List.find?_append, before, Option.none_or, List.find?_cons_of_pos (by simp [State.opened])]

theorem State.segAnswered_spec (s : State) (fr : TheostFrame) : ∃ f, f = answerOf fr 0x07 Status.ok 0 (s.opened fr).id
      (natBytes 4 (s.opened fr).total) ∧ (s.segAnswered fr).out = .frame f.dst f.bytes :: s.out ∧
    (s.segAnswered fr).hm.xfers = (s.withOpened fr).hm.xfers ∧ (s.segAnswered fr).hm.nextXfer = s.hm.nextXfer + 1 := by
  obtain ⟨u, f, left, frame, out, -, rest⟩ := (s.withOpened fr).answerFrame_spec fr 0x07 Status.ok 0 (s.opened fr).id
    (natBytes 4 (s.opened fr).total)
  have answered : s.segAnswered fr = u := left
  rw [answered]
  exact ⟨f, frame, out, by rw [rest], by rw [rest]; rfl⟩

end

end Sys2Proof.Machine
end

section
/-! SUPPORT. The frames of a segmented transfer, its time limits, and statement O56. -/

namespace Sys2Proof.Machine
open Sys2Proof

/-! ### SEG_DATA -/

/-- The transfer has heard its client. -/
def Xfer.heard (x : Xfer) (now : Nat) : Xfer := { x with heardAt := now }

/-- The transfer has taken a segment. -/
def Xfer.taken (x : Xfer) (bs : List Byte) (now : Nat) : Xfer :=
  { x with data := x.data ++ bs, acked := x.acked + 1, progressAt := now, heardAt := now }

/-- The segment is the next in order of a download. -/
def Xfer.nextIs (x : Xfer) (fr : TheostFrame) : Prop :=
  fr.seq = BitVec.ofNat 16 x.acked ∧ x.acked < 65536 ∧
    (fr.payload.length = 1024 ∨ (fr.flags.getLsbD 1 = true ∧ fr.payload.length < 1024))

section
variable {s : State} {fr : TheostFrame} {x : Xfer} (found : s.xferOf fr = some x)
include found

theorem exec_segData_ignored (heard : Heard s fr 0x06) (deaf : fr.broadcast = true ∨ x.upload = true ∨ x.committing = true) :
    exec (.segData fr) s = .next s := by
  have run : exec (.segData fr) s = execSegData fr s := rfl
  rw [run, execSegData, withRoom_roomy heard.room, State.frame_heard heard rfl, found]
  exact congrArg _ (if_pos deaf)

variable (heard : Heard s fr 0x06) (single : fr.broadcast = false) (down : x.upload = false) (going : x.committing = false)
include heard single down going

theorem exec_segData_other (other : ¬x.nextIs fr) :
    exec (.segData fr) s = .next ((s.setXfer (x.heard s.clk.now)).segAcked (x.heard s.clk.now)) := by
  have run : exec (.segData fr) s = execSegData fr s := rfl
  rw [run, execSegData, withRoom_roomy heard.room, State.frame_heard heard rfl, found]
  dsimp only
  rw [if_neg (by simp [single, down, going]), if_neg]
  · rfl
  · intro next
    simp only [Bool.and_eq_true, Bool.or_eq_true, decide_eq_true_iff] at next
    obtain ⟨⟨seq, size⟩, few⟩ := next
    exact other ⟨seq, few, size⟩

theorem exec_segData_next (next : x.nextIs fr) : exec (.segData fr) s = .next (
    let y := x.taken fr.payload s.clk.now
    if fr.flags.getLsbD 1 then ((s.setXfer y).segAcked y).commitXfer y else (s.setXfer y).segAcked y) := by
  have run : exec (.segData fr) s = execSegData fr s := rfl
  obtain ⟨seq, few, size⟩ := next
  rw [run, execSegData, withRoom_roomy heard.room, State.frame_heard heard rfl, found]
  dsimp only
  rw [if_neg (by simp [single, down, going]), if_pos]
  · rfl
  · simp only [Bool.and_eq_true, Bool.or_eq_true, decide_eq_true_iff]
    exact ⟨⟨seq, size⟩, few⟩

end

/-- The device acknowledges `n` segments of a download. -/
def Acks (s u : State) (x : Xfer) (n : Nat) : Prop :=
  ∃ f : OutFrame, u.out = .frame f.dst f.bytes :: s.out ∧ f.ftype = 0x07 ∧ f.dst = x.mac ∧ f.seq = BitVec.ofNat 16 n ∧ f.xfer = x.id ∧
    f.status = Status.ok

theorem State.segAcked_acks (s : State) (x : Xfer) : Acks s (s.segAcked x) x x.acked := ⟨_, rfl, rfl, rfl, rfl, rfl, rfl⟩

/-- The last segment is taken and acknowledged, and its value is to be written. -/
def State.lastTaken (s : State) (fr : TheostFrame) (x : Xfer) : State :=
  ((s.setXfer (x.taken fr.payload s.clk.now)).segAcked (x.taken fr.payload s.clk.now)).setXfer
    { x.taken fr.payload s.clk.now with committing := true }

theorem State.lastTaken_spec {s : State} {x : Xfer} (fr : TheostFrame) (found : s.xfer? x.id = some x) :
    Acks s (s.lastTaken fr x) x (x.acked + 1) ∧
    (s.lastTaken fr x).xfer? x.id = some { x.taken fr.payload s.clk.now with committing := true } ∧
    s.lastTaken fr x = { s with hm := (s.lastTaken fr x).hm, out := (s.lastTaken fr x).out } := by
  have set := State.setXfer_xfer? (y := x.taken fr.payload s.clk.now) found
  exact ⟨(s.setXfer (x.taken fr.payload s.clk.now)).segAcked_acks (x.taken fr.payload s.clk.now),
    State.setXfer_xfer? (s := (s.setXfer (x.taken fr.payload s.clk.now)).segAcked (x.taken fr.payload s.clk.now))
      (y := { x.taken fr.payload s.clk.now with committing := true }) set, rfl⟩

/-! ### SEG_ACK -/

section
variable {s : State} {fr : TheostFrame} {x : Xfer} (found : s.xferOf fr = some x)

/-- The segments that a SEG_ACK acknowledges anew. -/
def Xfer.ackedBy (x : Xfer) (fr : TheostFrame) : Nat := (fr.seq - BitVec.ofNat 16 x.acked).toNat

/-- An upload whose client has received `d` segments more. -/
def Xfer.moved (x : Xfer) (d now : Nat) : Xfer := { x with acked := x.acked + d, progressAt := now, heardAt := now }

include found in
theorem exec_segAck (heard : Heard s fr 0x07) (single : fr.broadcast = false) (up : x.upload = true) : exec (.segAck fr) s = .next (
    let d := x.ackedBy fr
    if d = 0 ∨ x.sent < x.acked + d then s.setXfer (x.heard s.clk.now)
    else if segCount x.total ≤ x.acked + d then s.dropXfer x.id
    else (s.setXfer (x.moved d s.clk.now)).sendMore (x.moved d s.clk.now)) := by
  have run : exec (.segAck fr) s = execSegAck fr s := rfl
  rw [run, execSegAck, State.frame_heard heard rfl, found]
  dsimp only
  rw [if_neg (by simp [single, up])]
  rfl

/-! ### Ends (R58) -/

include found in
theorem exec_segAbort (heard : Heard s fr 0x08) (single : fr.broadcast = false) (going : x.committing = false) :
    exec (.segAbort fr) s = .next (s.abortXfer x fr.status) := by
  have run : exec (.segAbort fr) s = execSegAbort fr s := rfl
  rw [run, execSegAbort, withRoom_roomy heard.room, State.frame_heard heard rfl, found]
  exact congrArg _ (if_neg (by simp [single, going]))

theorem State.abortXfer_spec (s : State) (x : Xfer) (st : Status) : (s.abortXfer x st).xfer? x.id = none ∧
    (s.abortXfer x st).out = s.out ∧ Logs s (s.abortXfer x st) 0x0003 sevWarning ∧ (s.abortXfer x st).od = s.od :=
  ⟨s.dropXfer_xfer? x.id, rfl, ⟨_, rfl, rfl, rfl⟩, rfl⟩

end

/-- What is not acknowledged is sent again. -/
def State.resendSegs (s : State) (x : Xfer) : State := (s.setXfer { x with progressAt := s.clk.now }).sendSegs x x.acked (x.sent - x.acked)

theorem Passed.resent {s t : State} (h : Passed s t) (x : Xfer) : (t.resendSegs x).clk = t.clk ∧
    (t.resendSegs x).out.length = s.out.length + (x.sent - x.acked) := by
  obtain ⟨out, left, length⟩ := (t.setXfer { x with progressAt := t.clk.now }).sendSegs_spec x x.acked (x.sent - x.acked)
  have before : (t.setXfer { x with progressAt := t.clk.now }).out = s.out := h.out
  unfold State.resendSegs
  rw [left, before]
  exact ⟨rfl, by rw [List.length_append, length, Nat.add_comm]⟩

/-- What the device sends when it ends a transfer for silence. -/
def Xfer.timeoutFrame (x : Xfer) : OutFrame := rspFrame x.mac 0x08 0 x.index.toNat x.sub.toNat Status.timeout 0 x.id []

/-- A transfer has ended for silence. -/
def State.timeOut (s : State) (x : Xfer) : State := (s.sendFrame x.timeoutFrame).abortXfer x Status.timeout

theorem Passed.timedOut {s t : State} (h : Passed s t) (x : Xfer) :
    (t.timeOut x).out = .frame x.timeoutFrame.dst x.timeoutFrame.bytes :: s.out ∧ (t.timeOut x).xfer? x.id = none ∧
    Logs t (t.timeOut x) 0x0003 sevWarning ∧ (t.timeOut x).clk = t.clk := by
  obtain ⟨gone, out, logs, -⟩ := (t.sendFrame x.timeoutFrame).abortXfer_spec x Status.timeout
  exact ⟨out.trans (congrArg (_ :: ·) h.out), gone, logs, rfl⟩

section
variable {s : State} {x : Xfer} {id : BitVec 32}

theorem exec_segResend_none (none : s.xfer? id = none) : exec (.segResend id) s = .next s := by
  have run : exec (.segResend id) s = execSegResend id s := rfl
  rw [run, execSegResend, none]

theorem exec_segTimeout_none (none : s.xfer? id = none) : exec (.segTimeout id) s = .next s := by
  have run : exec (.segTimeout id) s = execSegTimeout id s := rfl
  rw [run, execSegTimeout, none]
  exact withRoom_quiet rfl _

variable (found : s.xfer? id = some x)
include found

theorem exec_segResend_some : exec (.segResend id) s =
    .next (if x.upload = true ∧ x.acked < x.sent then (s.advanceTo (x.progressAt + 20000000)).resendSegs x else s) := by
  have run : exec (.segResend id) s = execSegResend id s := rfl
  rw [run, execSegResend, found]
  dsimp only
  split
  · rfl
  · rfl

theorem exec_segTimeout_committing (room : s.log.roomy = true) (committing : x.committing = true) : exec (.segTimeout id) s = .next s := by
  have run : exec (.segTimeout id) s = execSegTimeout id s := rfl
  rw [run, execSegTimeout, withRoom_roomy room, found]
  exact if_pos committing

theorem exec_segTimeout_going (room : s.log.roomy = true) (going : x.committing = false) : exec (.segTimeout id) s =
    .next ((s.advanceTo (x.heardAt + 500000000)).timeOut x) := by
  have run : exec (.segTimeout id) s = execSegTimeout id s := rfl
  rw [run, execSegTimeout, withRoom_roomy room, found]
  exact if_neg (by simp [going])

end

theorem State.segStatus_download (s : State) {fr : TheostFrame} {upload : Bool} (down : ¬upload = true) (total : Nat) :
    (s.segStatus fr upload total).2 = [] := by
  unfold State.segStatus
  dsimp only
  rw [if_neg down]
  split
  · rfl
  · split
    · rfl
    · split
      · rfl
      · split
        · rfl
        · rfl

/-- Settles O56, frame by frame: a transfer that is set is the one found, one that is dropped is found no more, and segments are frames
alone. -/
theorem segmentedTransfers : Obligations.SegmentedTransfers := by
  unfold Obligations.SegmentedTransfers
  refine fun s fr => ⟨fun fresh single new => ⟨fun failed => ?_, fun ok => ?_⟩,
    fun x found => ⟨exec_segData_ignored found, fun heard single down going => ⟨fun other => ?_, fun next more => ?_, fun next last => ?_⟩,
      fun heard single up => ⟨fun stale => ?_, fun some sent all => ?_, fun some sent left => ?_⟩, fun heard single going => ?_⟩,
    fun room id => ⟨fun none => ⟨exec_segResend_none none, exec_segTimeout_none none⟩, fun x found => ⟨fun up behind => ?_, fun idle => ?_,
      exec_segTimeout_committing found room, fun going => ?_⟩⟩⟩
  · obtain ⟨u, f, left, frame, out, -, rest⟩ := s.answerFrame_spec fr 0x07
      (s.segStatus fr (fr.flags.getLsbD 0) (bytesNat (fr.payload.take 4))).1 0 0 []
    refine ⟨u, f, by rw [exec_segStart fresh single, if_pos failed, left], out, ?_⟩
    subst frame
    exact ⟨rfl, rfl, rfl, rfl, rfl, by rw [rest]⟩
  · obtain ⟨f, frame, out, xfers, next⟩ := s.segAnswered_spec fr
    have opened : (s.segAnswered fr).xfer? s.hm.nextXfer = some (s.opened fr) := by
      rw [State.xfer?, xfers]
      exact State.withOpened_xfer? new
    have run := exec_segStart fresh single
    rw [if_neg (not_not_intro ok)] at run
    by_cases up : fr.flags.getLsbD 0 = true
    · obtain ⟨more, left, length, nextMore, xfer⟩ := State.sendMore_spec (x := s.opened fr) opened
      have begins : (s.opened fr).acked = 0 ∧ (s.opened fr).sent = 0 := ⟨rfl, rfl⟩
      rw [begins.1, begins.2, Nat.zero_add, Nat.zero_max] at xfer
      rw [begins.1, begins.2, Nat.zero_add, Nat.sub_zero] at length
      rw [if_pos up] at run
      have sent : ((s.segAnswered fr).sendMore (s.opened fr)).out = more ++ .frame f.dst f.bytes :: s.out := by rw [left, ← out]
      subst frame
      exact ⟨_, _, more, _, run, xfer, nextMore.trans next, rfl, rfl, rfl, rfl, rfl, begins.1, sent, rfl, rfl, rfl, rfl, length,
        (if_pos up).symm, (if_pos up).symm⟩
    · rw [if_neg up] at run
      have empty : (s.opened fr).data = [] := s.segStatus_download up _
      subst frame
      exact ⟨_, s.opened fr, [], _, run, opened, next, rfl, rfl, rfl, rfl, rfl, rfl, out, rfl, rfl, rfl, rfl, rfl, (if_neg up).symm,
        empty.trans (if_neg up).symm⟩
  · have set := State.setXfer_xfer? (y := x.heard s.clk.now) (State.xferOf_some found).1
    exact ⟨_, exec_segData_other found heard single down going other, State.segAcked_acks .., set⟩
  · have set := State.setXfer_xfer? (y := x.taken fr.payload s.clk.now) (State.xferOf_some found).1
    have run := exec_segData_next found heard single down going next
    dsimp only at run
    rw [if_neg more] at run
    exact ⟨_, run, State.segAcked_acks .., set⟩
  · obtain ⟨here, -⟩ := State.xferOf_some found
    have run := exec_segData_next found heard single down going next
    dsimp only at run
    rw [if_pos last] at run
    obtain ⟨acks, xfer, same⟩ := State.lastTaken_spec (x := x) fr here
    refine ⟨s.lastTaken fr x, acks, xfer, same, fun short => refuses_writeRefused ?_ (heard.pathOpen x.mac x.seq) same, fun whole => ?_⟩
    · exact run.trans (congrArg _ (if_pos short))
    · have room : (s.lastTaken fr x).log.roomy = true := heard.room
      exact (run.trans (congrArg _ (if_neg (not_not_intro whole)))).trans (execOdWrite_roomy room _ _ _ _).symm
  · have set := State.setXfer_xfer? (y := x.heard s.clk.now) (State.xferOf_some found).1
    exact ⟨s.setXfer (x.heard s.clk.now), (exec_segAck found heard single up).trans (congrArg _ (if_pos stale)), rfl, set⟩
  · refine ⟨s.dropXfer x.id, (exec_segAck found heard single up).trans (congrArg _ ?_), s.dropXfer_xfer? x.id, rfl⟩
    exact (if_neg (by unfold Xfer.ackedBy; omega)).trans (if_pos all)
  · have set := State.setXfer_xfer? (y := x.moved (x.ackedBy fr) s.clk.now) (State.xferOf_some found).1
    obtain ⟨out, rest, length, -, xfer⟩ := State.sendMore_spec (x := x.moved (x.ackedBy fr) s.clk.now) set
    refine ⟨_, _, (exec_segAck found heard single up).trans (congrArg _ ?_), xfer, rfl, rfl, ?_⟩
    · exact (if_neg (by unfold Xfer.ackedBy; omega)).trans (if_neg (by unfold Xfer.ackedBy; omega))
    · have sentBefore : (x.moved (x.ackedBy fr) s.clk.now).sent = x.sent := rfl
      rw [rest]
      dsimp only
      rw [List.length_append, length, sentBefore, Nat.add_comm]
      congr 1
      omega
  · obtain ⟨gone, out, logs, od⟩ := s.abortXfer_spec x fr.status
    exact ⟨_, exec_segAbort found heard single going, gone, out, logs, od⟩
  · have run := exec_segResend_some found
    rw [if_pos ⟨up, behind⟩] at run
    obtain ⟨clk, length⟩ := (s.advanceTo_passed (x.progressAt + 20000000)).resent x
    exact ⟨_, run, by rw [clk]; exact s.advanceTo_now _, length⟩
  · rw [exec_segResend_some found, if_neg]
    rintro ⟨up, behind⟩
    rcases idle with down | sent
    · rw [down] at up
      cases up
    · omega
  · obtain ⟨out, gone, logs, clk⟩ := (s.advanceTo_passed (x.heardAt + 500000000)).timedOut x
    rw [State.xfer?_id found] at gone
    exact ⟨_, x.timeoutFrame, exec_segTimeout_going found room going, out, rfl, rfl, rfl, rfl, by rw [clk]; exact s.advanceTo_now _, gone,
      logs⟩

end Sys2Proof.Machine
end

section
/-! SUPPORT. What work that is not a change of the device's state leaves (R45, R264): the device's own record, the clock, and the state of
every port. One lemma per definition, named after it, up to the end of a transaction. -/

namespace Sys2Proof.Machine
open Sys2Proof

/-- From `s` to `t` the device's record, the clock and the states of the ports stay. -/
structure Steady (s t : State) : Prop where
  dev : t.dev = s.dev
  clk : t.clk = s.clk
  ports : ∀ p, (t.port p).state = (s.port p).state

theorem Steady.refl (s : State) : Steady s s := ⟨rfl, rfl, fun _ => rfl⟩

theorem Steady.trans {r s t : State} (h : Steady r s) (k : Steady s t) : Steady r t :=
  ⟨k.dev.trans h.dev, k.clk.trans h.clk, fun p => (k.ports p).trans (h.ports p)⟩

theorem Accessed.steady {s t : State} (h : Accessed s t) : Steady s t := ⟨h.dev, h.clk, h.ports⟩
theorem Dispatched.steady {s t : State} (h : Dispatched s t) : Steady s t := ⟨h.dev, h.clk, h.ports⟩
theorem CountFrame.steady {s t : State} {set : Nat} (h : CountFrame s t set) : Steady s t := by
  rw [h.rest]
  exact ⟨rfl, rfl, fun _ => rfl⟩

/-- An update of anything else is steady. -/
theorem Steady.upd {r s : State} (h : Steady r s) (x1 : List Instr) (x2 : Nat) (x4 : PcieCfg) (x5 : SMap Nat) (x6 : SMap Byte)
    (x7 : SMap (BitVec 16)) (x8 : Option Nat) (x9 : List RacyWord) (x10 : List Nat) (x11 : SMap Core) (x12 : Disp)
    (x13 : SMap BarrierRun) (x14 : SMap (Nat × BitVec 32 × Option Nat)) (x16 : SMap Channel) (x17 : SMap Pool) (x18 : Harbour)
    (x19 : Flash) (x20 : Sec) (x21 : Log) (x22 : Watch) (x23 : Tally) (x24 : Gov) (x25 : Option SelfTest) (x26 : Scrub) (x27 : List Output)
    {fab : Fabric} (hf : fab.ports = s.fab.ports) :
    Steady r (State.mk x1 x2 s.clk s.dev x4 x5 x6 x7 x8 x9 x10 x11 x12 x13 x14 fab x16 x17 x18 x19 x20 x21 x22 x23 x24 x25 x26 x27) :=
  h.trans ⟨rfl, rfl, fun p => by unfold State.port; rw [hf]⟩

theorem steady_foldl {α : Type} {r : State} (f : State → α → State) (hf : ∀ s x, Steady r s → Steady r (f s x)) :
    ∀ (l : List α) (s : State), Steady r s → Steady r (l.foldl f s)
  | [], _, h => h
  | x :: l, s, h => steady_foldl f hf l _ (hf s x h)

theorem steady_ite {r s t : State} {c : Prop} [Decidable c] (a : Steady r s) (b : Steady r t) : Steady r (if c then s else t) := by
  split
  · exact a
  · exact b

/-- Every state that an instruction's issue leaves is steady. -/
structure IssueSteady (r : State) (i : Issue) : Prop where
  done : ∀ t, i = .done t → Steady r t
  after : ∀ e t, i = .excAfter e t → Steady r t

/-- The state with a word, where there is one, is steady. -/
def Opt2Steady {γ : Type} (r : State) (o : Option (γ × State)) : Prop := ∀ t, o = some t → Steady r t.2

theorem steady_issue_exc {r : State} (e : Exc) : IssueSteady r (.exc e) := by
  constructor
  · intro t h
    cases h
  · intro x t h
    cases h

theorem steady_issue_excAfter {r s : State} {e : Exc} (k : Steady r s) : IssueSteady r (.excAfter e s) := by
  constructor
  · intro t h
    cases h
  · intro x t h
    cases h
    exact k

theorem steady_issue_done {r s : State} (k : Steady r s) : IssueSteady r (.done s) := by
  constructor
  · intro t h
    cases h
    exact k
  · intro x t h
    cases h

theorem steady_opt2_none {γ : Type} {r : State} : Opt2Steady (γ := γ) r none := by
  intro t h
  cases h

theorem steady_opt2_some {γ : Type} {r s : State} {x : γ} (h : Steady r s) : Opt2Steady r (some (x, s)) := by
  intro t e
  cases e
  exact h

theorem Opt2Steady.get {γ : Type} {r : State} {t : γ × State} {o : Option (γ × State)} (h : Opt2Steady r o) (e : o = some t) :
    Steady r t.2 := h t e
theorem IssueSteady.get {r t : State} {o : Issue} (h : IssueSteady r o) (e : o = .done t) : Steady r t := h.done t e
theorem IssueSteady.get_after {r t : State} {x : Exc} {o : Issue} (h : IssueSteady r o) (e : o = .excAfter x t) : Steady r t :=
  h.after x t e

/-! ### Registers, memory and counters -/

section
variable {r₀ s : State} (h0 : Steady r₀ s)
include h0

theorem State.fresh_steady : Steady r₀ s.fresh.2 := h0.trans s.fresh_accessed.steady
theorem State.odSet_steady (k v : Nat) : Steady r₀ (s.odSet k v) := h0.trans ⟨rfl, rfl, fun _ => rfl⟩
theorem State.odAdd_steady (k n : Nat) : Steady r₀ (s.odAdd k n) := State.odSet_steady h0 ..
theorem State.event_steady (ty inst kind : Nat) (sev : BitVec 2) (l : List (Nat × Nat × Nat)) : Steady r₀ (s.event ty inst kind sev l) :=
  h0.trans (s.event_accessed ..).steady
theorem State.count_steady (set ev n : Nat) (a : Attr) : Steady r₀ (s.count set ev n a) := h0.trans (s.count_frame set ev n a).steady

/-! ### Ports -/

theorem State.setPort_steady (p : Nat) {x : Port} (hx : x.state = (s.port p).state) : Steady r₀ (s.setPort p x) :=
  h0.trans (s.setPort_accessed p hx).steady
theorem State.oweSlots_steady (p k n : Nat) : Steady r₀ (s.oweSlots p k n) := State.setPort_steady h0 p rfl

end

/-! ### Cores and groups -/

theorem State.setCore_steady {r₀ s : State} (h0 : Steady r₀ s) (n : Nat) (c : Core) :
    Steady r₀ (State.setCore s n c) := by
  unfold State.setCore
  repeat' first
    | with_reducible assumption | with_reducible apply Steady.upd | with_reducible rfl

theorem State.setGroup_steady {r₀ s : State} (h0 : Steady r₀ s) (g : GroupRef) (gr : Group) :
    Steady r₀ (State.setGroup s g gr) := by
  unfold State.setGroup
  extract_lets
  repeat' first
    | with_reducible assumption | with_reducible apply State.setCore_steady

theorem State.removeGroup_steady {r₀ s : State} (h0 : Steady r₀ s) (g : GroupRef) :
    Steady r₀ (State.removeGroup s g) := by
  unfold State.removeGroup
  extract_lets
  repeat' first
    | with_reducible assumption | with_reducible apply State.setCore_steady

theorem State.setRaw_steady {r s : State} (h0 : Steady r s) (w : Nat) (x : CodeWord) : Steady r (s.setRaw w x) :=
  h0.trans (State.setRaw_accessed ..).steady

/-! ### Memory -/

theorem State.readBytes_steady {r₀ s : State} (h0 : Steady r₀ s) (a n : Nat) (det : Detect) :
    Steady r₀ (State.readBytes s a n det).2 :=
  h0.trans (State.readBytes_accessed ..).steady

theorem State.readNat_steady {r₀ s : State} (h0 : Steady r₀ s) (a n : Nat) :
    Steady r₀ (State.readNat s a n).2 := by
  unfold State.readNat
  extract_lets
  repeat' first
    | with_reducible assumption | with_reducible apply State.readBytes_steady

theorem State.noteStore_steady {r₀ s : State} (h0 : Steady r₀ s) (w : Nat) :
    Steady r₀ (State.noteStore s w) :=
  h0.trans (State.noteStore_accessed ..).steady

theorem State.seenWrite_steady {r₀ s : State} (h0 : Steady r₀ s) (w : Nat) :
    Steady r₀ (State.seenWrite s w) :=
  h0.trans (State.seenWrite_accessed ..).steady

theorem State.updWord_steady {r₀ s : State} (h0 : Steady r₀ s) (w : Nat) (f : CodeWord → CodeWord) :
    Steady r₀ (State.updWord s w f) :=
  h0.trans (State.updWord_accessed ..).steady

theorem State.writeWord_steady {r₀ s : State} (h0 : Steady r₀ s) (w : Nat) (d : BitVec 64) (poison : Bool) :
    Steady r₀ (State.writeWord s w d poison) := by
  unfold State.writeWord
  repeat' first
    | with_reducible assumption | with_reducible apply State.updWord_steady

theorem State.mergeWord_steady {r₀ s : State} (h0 : Steady r₀ s) (w i : Nat) (bs : List Byte) :
    Steady r₀ (State.mergeWord s w i bs) :=
  h0.trans (State.mergeWord_accessed ..).steady

theorem State.writeBytes_steady {r₀ s : State} (h0 : Steady r₀ s) (a : Nat) (bs : List Byte) :
    Steady r₀ (State.writeBytes s a bs) :=
  h0.trans (State.writeBytes_accessed ..).steady

theorem State.writeNat_steady {r₀ s : State} (h0 : Steady r₀ s) (a n v : Nat) :
    Steady r₀ (State.writeNat s a n v) := by
  unfold State.writeNat
  repeat' first
    | with_reducible assumption | with_reducible apply State.writeBytes_steady

theorem State.engineWrite_steady {r₀ s : State} (h0 : Steady r₀ s) (owner w : Nat) (f : CodeWord → CodeWord) :
    Steady r₀ (State.engineWrite s owner w f) := by
  unfold State.engineWrite
  extract_lets
  repeat' first
    | with_reducible assumption | with_reducible apply State.noteStore_steady | with_reducible apply State.seenWrite_steady
      | with_reducible apply State.setRaw_steady | with_reducible apply Steady.upd | with_reducible rfl

theorem State.writeRacy_steady {r₀ s : State} (h0 : Steady r₀ s) (owner w : Nat) (d : BitVec 64) (poison : Bool) :
    Steady r₀ (State.writeRacy s owner w d poison) := by
  unfold State.writeRacy
  repeat' first
    | with_reducible assumption | with_reducible apply State.engineWrite_steady

/-! ### Packets -/

theorem State.dropQueued_steady {r₀ s : State} (h0 : Steady r₀ s) (q : Queued) :
    Steady r₀ (State.dropQueued s q) := by
  unfold State.dropQueued
  extract_lets
  repeat' first
    | with_reducible assumption | with_reducible apply State.odAdd_steady | with_reducible apply State.oweSlots_steady | split

theorem State.queuePacket_steady {r₀ s : State} (h0 : Steady r₀ s) (p : Nat) (q : Queued) :
    Steady r₀ (State.queuePacket s p q) :=
  h0.trans (State.queuePacket_accessed ..).steady

theorem State.launchPacket_steady {r₀ s : State} (h0 : Steady r₀ s) (pk : Packet) (r : Route) (vc : BitVec 2) :
    Steady r₀ (State.launchPacket s pk r vc) :=
  h0.trans (State.launchPacket_accessed ..).steady

theorem State.sendResponse_steady {r₀ s : State} (h0 : Steady r₀ s) (vc : BitVec 2) (pk : Packet) :
    Steady r₀ (State.sendResponse s vc pk) := by
  unfold State.sendResponse
  repeat' first
    | with_reducible assumption | with_reducible apply State.launchPacket_steady | split

/-! ### Requests at their target -/

theorem State.keyRefused_steady {r₀ s : State} (h0 : Steady r₀ s) (inport : Option Nat) (addr : Nat) (st : Status) (detail : BitVec 8) (src : Coord) (master : BitVec 8) (priv : BitVec 2) (job : BitVec 16) :
    Steady r₀ (State.keyRefused s inport addr st detail src master priv job) := by
  unfold State.keyRefused
  extract_lets
  repeat' first
    | with_reducible assumption | with_reducible apply State.count_steady | with_reducible apply State.event_steady
      | with_reducible apply State.odAdd_steady | with_reducible refine steady_ite ?_ ?_ | split
      | with_reducible apply Steady.upd | with_reducible rfl

theorem State.closedEvent_steady {r₀ s : State} (h0 : Steady r₀ s) (block : Nat × Nat) (addr : Nat) :
    Steady r₀ (State.closedEvent s block addr) := by
  unfold State.closedEvent
  repeat' first
    | with_reducible assumption | with_reducible apply State.event_steady

theorem State.countMem_steady {r₀ s : State} (h0 : Steady r₀ s) (a n ev : Nat) (at_ : Attr) :
    Steady r₀ (State.countMem s a n ev at_) :=
  h0.trans (State.countMem_accessed ..).steady

theorem State.writePart_steady {r₀ s : State} (h0 : Steady r₀ s) (w i : Nat) (bs : List Byte) (poison : Bool) :
    Steady r₀ (State.writePart s w i bs poison) := by
  unfold State.writePart
  extract_lets
  repeat' first
    | with_reducible assumption | with_reducible apply State.mergeWord_steady | with_reducible apply State.updWord_steady
       | with_reducible apply State.writeWord_steady | with_reducible refine steady_ite ?_ ?_

theorem State.writeMasked_steady {r₀ s : State} (h0 : Steady r₀ s) (a : Nat) (bs : List Byte) (pmask : BitVec 32) :
    Steady r₀ (State.writeMasked s a bs pmask) := by
  unfold State.writeMasked
  repeat' first
    | with_reducible assumption | with_reducible apply State.writePart_steady | with_reducible refine steady_foldl _ ?_ _ _ ?_
       | dsimp only | with_reducible intro _

theorem State.perform_steady {r₀ s : State} (h0 : Steady r₀ s) (r : Req) (n : Nat) :
    Steady r₀ (State.perform s r n).2 := by
  unfold State.perform
  extract_lets
  repeat' first
    | with_reducible assumption | with_reducible apply State.countMem_steady | with_reducible apply State.odAdd_steady
       | with_reducible apply State.readBytes_steady | with_reducible apply State.readNat_steady
       | with_reducible apply State.writeMasked_steady | with_reducible apply State.writeNat_steady
       | with_reducible refine steady_ite ?_ ?_ | split

theorem State.invalidateLine_steady {r₀ s : State} (h0 : Steady r₀ s) (line : Nat) :
    Steady r₀ (State.invalidateLine s line) :=
  h0.trans (State.invalidateLine_accessed ..).steady

theorem State.recordSharer_steady {r₀ s : State} (h0 : Steady r₀ s) (line : Nat) (c : Coord) :
    Steady r₀ (State.recordSharer s line c) := by
  unfold State.recordSharer
  extract_lets
  repeat' first
    | with_reducible assumption | with_reducible apply Steady.upd | with_reducible rfl

theorem State.coherentWrite_steady {r₀ s : State} (h0 : Steady r₀ s) (a n : Nat) :
    Steady r₀ (State.coherentWrite s a n) :=
  h0.trans (State.coherentWrite_accessed ..).steady

theorem State.countSpan_steady {r₀ s : State} (h0 : Steady r₀ s) (at_ : Attr) (ev a n : Nat) :
    Steady r₀ (State.countSpan s at_ ev a n) :=
  h0.trans (State.countSpan_accessed ..).steady

theorem State.devRead_steady {r₀ s : State} (h0 : Steady r₀ s) (at_ : Attr) (a n : Nat) :
    Steady r₀ (State.devRead s at_ a n).2 :=
  h0.trans (State.devRead_accessed ..).steady

theorem State.devWrite_steady {r₀ s : State} (h0 : Steady r₀ s) (at_ : Attr) (a : Nat) (bs : List Byte) :
    Steady r₀ (State.devWrite s at_ a bs) :=
  h0.trans (State.devWrite_accessed ..).steady

theorem State.shareLine_steady {r₀ s : State} (h0 : Steady r₀ s) (r : Req) :
    Steady r₀ (State.shareLine s r).2 := by
  unfold State.shareLine
  extract_lets
  repeat' first
    | with_reducible assumption | with_reducible apply State.invalidateLine_steady
       | with_reducible apply State.recordSharer_steady | (dsimp +zetaDelta only; split)

theorem State.claimLines_steady {r₀ s : State} (h0 : Steady r₀ s) (a n : Nat) :
    Steady r₀ (State.claimLines s a n).2 := by
  unfold State.claimLines
  repeat' first
    | with_reducible assumption | with_reducible apply State.invalidateLine_steady
      | with_reducible refine steady_foldl _ ?_ _ _ ?_ | with_reducible intro _

theorem State.refuseReq_steady {r₀ s : State} (h0 : Steady r₀ s) (r : Req) :
    Steady r₀ (State.refuseReq s r).2.2 := by
  unfold State.refuseReq
  extract_lets
  repeat' first
    | with_reducible assumption | with_reducible apply State.keyRefused_steady | split

theorem State.serveReq_steady {r₀ s : State} (h0 : Steady r₀ s) (r : Req) :
    Steady r₀ (State.serveReq s r).2.2 := by
  unfold State.serveReq
  repeat' first
    | with_reducible assumption | with_reducible apply State.claimLines_steady | with_reducible apply State.closedEvent_steady
      | with_reducible apply State.keyRefused_steady | with_reducible apply State.perform_steady
      | with_reducible apply State.refuseReq_steady | with_reducible apply State.shareLine_steady | dsimp only | split

/-! ### Transactions -/

theorem State.leaveLate_steady {r₀ s : State} (h0 : Steady r₀ s) (l : List Tx) :
    Steady r₀ (State.leaveLate s l) := by
  unfold State.leaveLate
  extract_lets
  repeat' first
    | with_reducible assumption | with_reducible apply Steady.upd | with_reducible rfl

theorem State.awaitAcks_steady {r₀ s : State} (h0 : Steady r₀ s) (w : List (Nat × Coord)) (pk : Packet) :
    Steady r₀ (State.awaitAcks s w pk) := by
  unfold State.awaitAcks
  extract_lets
  repeat' first
    | with_reducible assumption | with_reducible apply Steady.upd | with_reducible rfl

theorem State.sendOnward_steady {r₀ s : State} (h0 : Steady r₀ s) (p : Nat) (q : Queued) :
    Steady r₀ (State.sendOnward s p q) := by
  unfold State.sendOnward
  extract_lets
  repeat' first
    | with_reducible assumption | with_reducible apply State.queuePacket_steady
      | with_reducible apply State.sendResponse_steady | with_reducible refine steady_ite ?_ ?_

theorem State.mcForward_steady {r₀ s : State} (h0 : Steady r₀ s) (pk : Packet) :
    Steady r₀ (State.mcForward s pk) := by
  unfold State.mcForward
  repeat' first
    | with_reducible assumption | with_reducible apply State.sendOnward_steady | split

theorem State.trackTx_steady {r₀ s : State} (h0 : Steady r₀ s) (tag port : Nat) (t : NewTx) :
    Steady r₀ (State.trackTx s tag port t) := by
  unfold State.trackTx
  extract_lets
  repeat' first
    | with_reducible assumption | with_reducible apply Steady.upd | with_reducible rfl

theorem State.timeoutNoted_steady {r₀ s : State} (h0 : Steady r₀ s) (tag : Nat) (dst : Coord) (op master : BitVec 8) :
    Steady r₀ (State.timeoutNoted s tag dst op master) := by
  unfold State.timeoutNoted
  repeat' first
    | with_reducible assumption | with_reducible apply State.event_steady | with_reducible apply State.odAdd_steady

theorem State.openLocal_steady {r₀ s : State} (h0 : Steady r₀ s) (tag : Nat) (t : NewTx) (pk : Packet) :
    Steady r₀ (State.openLocal s tag t pk).2 := by
  unfold State.openLocal
  extract_lets
  repeat' first
    | with_reducible assumption | with_reducible apply State.awaitAcks_steady | with_reducible apply State.mcForward_steady
      | with_reducible apply State.odAdd_steady | with_reducible apply State.serveReq_steady
      | with_reducible apply State.timeoutNoted_steady | with_reducible apply State.trackTx_steady | split

theorem State.openTx_steady {r₀ s : State} (h0 : Steady r₀ s) (tag : Nat) (t : NewTx) :
    Steady r₀ (State.openTx s tag t).2 := by
  unfold State.openTx
  extract_lets
  repeat' first
    | with_reducible assumption | with_reducible apply State.launchPacket_steady | with_reducible apply State.odAdd_steady
       | with_reducible apply State.openLocal_steady | with_reducible apply State.timeoutNoted_steady
       | with_reducible apply State.trackTx_steady | dsimp only | split | (dsimp +zetaDelta only; split)
       | with_reducible apply Steady.upd | with_reducible rfl

theorem State.openMore_steady {r₀ s : State} (h0 : Steady r₀ s) (tag : Nat) (t : NewTx) (more : List (BitVec 40 × List Byte)) :
    Steady r₀ (State.openMore s tag t more) := by
  unfold State.openMore
  extract_lets
  repeat' first
    | with_reducible assumption | with_reducible apply State.launchPacket_steady
      | with_reducible refine steady_foldl _ ?_ _ _ ?_ | dsimp only | split | with_reducible intro _
      | with_reducible apply Steady.upd | with_reducible rfl

/-! ### Exceptions and the ends of groups -/

theorem State.setLaunch_steady {r₀ s : State} (h0 : Steady r₀ s) (l : Launch) :
    Steady r₀ (State.setLaunch s l) := by
  unfold State.setLaunch
  extract_lets
  repeat' first
    | with_reducible assumption | with_reducible apply Steady.upd | with_reducible rfl

theorem State.locksLeft_steady {r₀ s : State} (h0 : Steady r₀ s) (g : GroupRef) (n : Nat) :
    Steady r₀ (State.locksLeft s g n) := by
  unfold State.locksLeft
  repeat' first
    | with_reducible assumption | with_reducible apply State.event_steady | with_reducible apply State.odAdd_steady
       | with_reducible refine steady_ite ?_ ?_

theorem State.freeTokens_steady {r₀ s : State} (h0 : Steady r₀ s) (g : GroupRef) :
    Steady r₀ (State.freeTokens s g) := by
  unfold State.freeTokens
  extract_lets
  repeat' first
    | with_reducible assumption | with_reducible apply State.setCore_steady

theorem State.dropGroup_steady {r₀ s : State} (h0 : Steady r₀ s) (g : GroupRef) :
    Steady r₀ (State.dropGroup s g) := by
  unfold State.dropGroup
  repeat' first
    | with_reducible assumption | with_reducible apply State.freeTokens_steady | with_reducible apply State.locksLeft_steady
       | with_reducible apply State.removeGroup_steady | split

theorem State.reap_steady {r₀ s : State} (h0 : Steady r₀ s) (g : GroupRef) :
    Steady r₀ (State.reap s g) := by
  unfold State.reap
  repeat' first
    | with_reducible assumption | with_reducible apply State.dropGroup_steady | with_reducible refine steady_ite ?_ ?_ | split

theorem State.stopGroup_steady {r₀ s : State} (h0 : Steady r₀ s) (g : GroupRef) :
    Steady r₀ (State.stopGroup s g) := by
  unfold State.stopGroup
  repeat' first
    | with_reducible assumption | with_reducible apply State.reap_steady | with_reducible apply State.setGroup_steady | split

theorem State.writeTies_steady {r₀ : State} (core : Nat) (l : Launch) : ∀ (rs : List (Nat × List Byte)) (i : Nat) {s : State},
    Steady r₀ s → Steady r₀ (s.writeTies core l i rs) := by
  intro rs
  induction rs with
  | nil => intro i s h; exact h
  | cons r rs ih =>
    intro i s h
    unfold State.writeTies
    split
    · exact ih _ (State.devWrite_steady h ..)
    · exact h

theorem State.recordExc_steady {r₀ s : State} (h0 : Steady r₀ s) (g : GroupRef) (gr : Group) (word : BitVec 64) (e : Exc) (l : Launch) :
    Steady r₀ (State.recordExc s g gr word e l) := by
  unfold State.recordExc
  extract_lets
  apply State.setLaunch_steady
  refine steady_ite (State.event_steady ?_ ..) ?_ <;> exact State.writeTies_steady _ _ _ _ h0

theorem State.countDescFault_steady {r₀ s : State} (h0 : Steady r₀ s) (opcode : Nat) :
    Steady r₀ (State.countDescFault s opcode) := by
  unfold State.countDescFault
  extract_lets
  repeat' first
    | with_reducible assumption | with_reducible apply State.odAdd_steady | with_reducible refine steady_ite ?_ ?_

theorem State.takeExc_steady {r₀ s : State} (h0 : Steady r₀ s) (g : GroupRef) (word : BitVec 64) (e : Exc) :
    Steady r₀ (State.takeExc s g word e) := by
  unfold State.takeExc
  repeat' first
    | with_reducible assumption | with_reducible apply State.countDescFault_steady | with_reducible apply State.event_steady
      | with_reducible apply State.odAdd_steady | with_reducible apply State.recordExc_steady
      | with_reducible apply State.stopGroup_steady | with_reducible refine steady_ite ?_ ?_ | dsimp only | split

/-! ### Waits -/

theorem State.freeToken_steady {r₀ s : State} (h0 : Steady r₀ s) (core t : Nat) :
    Steady r₀ (State.freeToken s core t) := by
  unfold State.freeToken
  extract_lets
  repeat' first
    | with_reducible assumption | with_reducible apply State.setCore_steady

theorem State.twaitDone_steady {r₀ s : State} (h0 : Steady r₀ s) (g : GroupRef) (gr : Group) (word : BitVec 64) (t : Nat) (tk : Token) :
    Steady r₀ (State.twaitDone s g gr word t tk) := by
  unfold State.twaitDone
  extract_lets
  repeat' first
    | with_reducible assumption | with_reducible apply State.freeToken_steady | with_reducible apply State.setGroup_steady
       | with_reducible apply State.takeExc_steady | with_reducible refine steady_ite ?_ ?_

theorem State.fenceFail_steady {r₀ s : State} (h0 : Steady r₀ s) (g : GroupRef) (gr : Group) :
    Opt2Steady r₀ (State.fenceFail s g gr) := by
  unfold State.fenceFail
  repeat' first
    | with_reducible assumption | with_reducible exact steady_opt2_none | with_reducible apply State.odAdd_steady
       | with_reducible apply State.setGroup_steady | with_reducible refine steady_opt2_some ?_ | split

theorem State.endCheck_steady {r₀ s : State} (h0 : Steady r₀ s) (g : GroupRef) (gr : Group) (word : BitVec 64) :
    IssueSteady r₀ (State.endCheck s g gr word) := by
  unfold State.endCheck
  extract_lets
  repeat' first
    | with_reducible assumption | with_reducible exact steady_issue_exc _ | with_reducible apply State.dropGroup_steady
      | with_reducible apply State.fenceFail_steady | with_reducible apply State.setGroup_steady
      | with_reducible refine steady_issue_done ?_ | with_reducible refine steady_issue_excAfter ?_ | split
      | with_reducible refine Opt2Steady.get ?_ (by with_reducible assumption)

theorem State.fenceCheck_steady {r₀ s : State} (h0 : Steady r₀ s) (g : GroupRef) (gr : Group) (word : BitVec 64) :
    IssueSteady r₀ (State.fenceCheck s g gr word) := by
  unfold State.fenceCheck
  repeat' first
    | with_reducible assumption | with_reducible apply State.fenceFail_steady | with_reducible apply State.setGroup_steady
      | with_reducible refine steady_issue_done ?_ | with_reducible refine steady_issue_excAfter ?_ | split
      | with_reducible refine Opt2Steady.get ?_ (by with_reducible assumption)

theorem State.resume_steady {r₀ s : State} (h0 : Steady r₀ s) (g : GroupRef) (word : BitVec 64) {i : Issue} (hi : IssueSteady r₀ i) :
    Steady r₀ (s.resume g word i) := by
  unfold State.resume
  split
  · exact State.takeExc_steady h0 ..
  · exact State.takeExc_steady (hi.get_after rfl) ..
  · exact hi.get rfl

theorem State.wake_steady {r₀ s : State} (h0 : Steady r₀ s) (g : GroupRef) :
    Steady r₀ (State.wake s g) := by
  unfold State.wake
  repeat' first
    | with_reducible assumption | with_reducible apply State.endCheck_steady | with_reducible apply State.fenceCheck_steady
      | with_reducible apply State.reap_steady | with_reducible apply State.resume_steady
      | with_reducible apply State.stopGroup_steady | with_reducible apply State.twaitDone_steady
      | with_reducible refine steady_ite ?_ ?_ | split

/-! ### Commands and completions -/

theorem State.setRingState_steady {r₀ s : State} (h0 : Steady r₀ s) (r v : Nat) :
    Steady r₀ (State.setRingState s r v) :=
  h0.trans (State.setRingState_dispatched ..).steady

theorem State.setCmd_steady {r₀ s : State} (h0 : Steady r₀ s) (c : Cmd) :
    Steady r₀ (State.setCmd s c) := by
  unfold State.setCmd
  extract_lets
  repeat' first
    | with_reducible assumption | with_reducible apply Steady.upd | with_reducible rfl

theorem State.commitAt_steady {r₀ s : State} (h0 : Steady r₀ s) (c : Cmd) (st : Status) (detail : BitVec 16) (time : Nat) (epoch : BitVec 32) :
    Steady r₀ (State.commitAt s c st detail time epoch) :=
  h0.trans (State.commitAt_dispatched ..).steady

theorem State.commit_steady {r₀ s : State} (h0 : Steady r₀ s) (c : Cmd) (st : Status) (detail : BitVec 16) :
    Steady r₀ (State.commit s c st detail) :=
  h0.trans (State.commit_dispatched ..).steady

theorem State.startCmd_steady {r₀ s : State} (h0 : Steady r₀ s) (c : Cmd) :
    Steady r₀ (State.startCmd s c).2 := by
  unfold State.startCmd
  extract_lets
  repeat' first
    | with_reducible assumption | with_reducible apply State.setCmd_steady

theorem State.pump_steady {r₀ s : State} (h0 : Steady r₀ s) :
    Steady r₀ (State.pump s) :=
  h0.trans (State.pump_dispatched ..).steady

/-! ### Handoffs -/

theorem State.setChannel_steady {r₀ s : State} (h0 : Steady r₀ s) (h : Nat) (x : Channel) :
    Steady r₀ (State.setChannel s h x) := by
  unfold State.setChannel
  repeat' first
    | with_reducible assumption | with_reducible apply Steady.upd | with_reducible rfl

theorem State.hoStall_steady {r₀ s : State} (h0 : Steady r₀ s) (h : Nat) :
    Steady r₀ (State.hoStall s h) := by
  unfold State.hoStall
  extract_lets
  repeat' first
    | with_reducible assumption | with_reducible apply State.odAdd_steady | with_reducible apply State.setChannel_steady | split

theorem State.endHandoff_steady {r₀ s : State} (h0 : Steady r₀ s) (h : Nat) (c : Cmd) (st : Status) (detail : Nat) :
    Steady r₀ (State.endHandoff s h c st detail) := by
  unfold State.endHandoff
  extract_lets
  repeat' first
    | with_reducible assumption | with_reducible apply State.commit_steady | with_reducible apply State.commitAt_steady
      | with_reducible apply State.hoStall_steady | with_reducible apply State.pump_steady
      | with_reducible apply State.setChannel_steady | split

theorem State.hoWrite_steady {r₀ s : State} (h0 : Steady r₀ s) (h : Nat) (job : BitVec 16) (a : Nat) (bs : List Byte) (pmask : BitVec 32) (own : TxOwner) :
    Steady r₀ (State.hoWrite s h job a bs pmask own).2 := by
  unfold State.hoWrite
  repeat' first
    | with_reducible assumption | with_reducible apply State.openTx_steady

theorem State.hoFailed_steady {r₀ s : State} (h0 : Steady r₀ s) (h : Nat) (c : Cmd) (x : Option Resp) :
    Steady r₀ (State.hoFailed s h c x) := by
  unfold State.hoFailed
  repeat' first
    | with_reducible assumption | with_reducible apply State.endHandoff_steady | with_reducible refine steady_ite ?_ ?_ | split

theorem State.writeLine1_steady {r₀ s : State} (h0 : Steady r₀ s) (h : Nat) :
    Steady r₀ (State.writeLine1 s h) := by
  unfold State.writeLine1
  extract_lets
  repeat' first
    | with_reducible assumption | with_reducible apply State.hoFailed_steady | with_reducible apply State.hoWrite_steady
      | with_reducible apply State.setChannel_steady | with_reducible refine steady_ite ?_ ?_ | (dsimp +zetaDelta only; split)

theorem State.lineGo_steady {r₀ s : State} (h0 : Steady r₀ s) (h : Nat) :
    Steady r₀ (State.lineGo s h) := by
  unfold State.lineGo
  repeat' first
    | with_reducible assumption | with_reducible apply State.writeLine1_steady | with_reducible refine steady_ite ?_ ?_

theorem State.hoHand_steady {r₀ : State} : ∀ (k : Nat) {s : State} (_ : Steady r₀ s) (x0 : Nat) (x1 : Cmd),
    Steady r₀ (State.hoHand k s x0 x1) := by
  intro k
  induction k with
  | zero =>
    intro s h x0 x1
    exact h
  | succ k ih =>
    intro s h x0 x1
    unfold State.hoHand
    extract_lets
    repeat' first
      | with_reducible assumption | with_reducible apply ih | with_reducible apply State.devRead_steady
         | with_reducible apply State.hoFailed_steady | with_reducible apply State.hoWrite_steady
         | with_reducible apply State.setChannel_steady | with_reducible refine steady_ite ?_ ?_

theorem State.hoProgress_steady {r₀ s : State} (h0 : Steady r₀ s) (h : Nat) (c : Cmd) :
    Steady r₀ (State.hoProgress s h c) := by
  unfold State.hoProgress
  extract_lets
  repeat' first
    | with_reducible assumption | with_reducible apply State.endHandoff_steady | with_reducible apply State.hoFailed_steady
      | with_reducible apply State.hoWrite_steady | with_reducible apply State.setChannel_steady
      | with_reducible refine steady_ite ?_ ?_

theorem State.hoGo_steady {r₀ s : State} (h0 : Steady r₀ s) (h : Nat) (c : Cmd) :
    Steady r₀ (State.hoGo s h c) := by
  unfold State.hoGo
  repeat' first
    | with_reducible assumption | with_reducible apply State.hoHand_steady | with_reducible apply State.hoProgress_steady
       | with_reducible apply State.hoStall_steady

theorem State.hoMatch_steady {r₀ s : State} (h0 : Steady r₀ s) (h : Nat) (c : Cmd) :
    Steady r₀ (State.hoMatch s h c) := by
  unfold State.hoMatch
  extract_lets
  repeat' first
    | with_reducible assumption | with_reducible apply State.endHandoff_steady | with_reducible apply State.event_steady
       | with_reducible apply State.hoStall_steady | with_reducible apply State.setChannel_steady
       | with_reducible refine steady_ite ?_ ?_

theorem State.readLine1_steady {r₀ s : State} (h0 : Steady r₀ s) (h : Nat) :
    Steady r₀ (State.readLine1 s h).2 := by
  unfold State.readLine1
  extract_lets
  repeat' first
    | with_reducible assumption | with_reducible apply State.devRead_steady

theorem State.startSend_steady {r₀ s : State} (h0 : Steady r₀ s) (h : Nat) (c : Cmd) :
    Steady r₀ (State.startSend s h c) := by
  unfold State.startSend
  extract_lets
  repeat' first
    | with_reducible assumption | with_reducible apply State.hoMatch_steady | with_reducible apply State.readLine1_steady
       | with_reducible apply State.setChannel_steady | with_reducible apply State.startCmd_steady

theorem State.recvCheck_steady {r₀ s : State} (h0 : Steady r₀ s) (h : Nat) (c : Cmd) :
    Steady r₀ (State.recvCheck s h c) := by
  unfold State.recvCheck
  extract_lets
  repeat' first
    | with_reducible assumption | with_reducible apply State.devRead_steady | with_reducible apply State.endHandoff_steady
       | with_reducible refine steady_ite ?_ ?_

theorem State.startRecv_steady {r₀ s : State} (h0 : Steady r₀ s) (h : Nat) (c : Cmd) :
    Steady r₀ (State.startRecv s h c) := by
  unfold State.startRecv
  extract_lets
  repeat' first
    | with_reducible assumption | with_reducible apply State.recvCheck_steady | with_reducible apply State.setChannel_steady
       | with_reducible apply State.startCmd_steady | with_reducible apply State.writeLine1_steady

theorem State.hoNextFuel_steady {r₀ : State} : ∀ (k : Nat) {s : State} (_ : Steady r₀ s) (x0 : Nat),
    Steady r₀ (State.hoNextFuel k s x0) := by
  intro k
  induction k with
  | zero =>
    intro s h x0
    exact h
  | succ k ih =>
    intro s h x0
    unfold State.hoNextFuel
    repeat' first
      | with_reducible assumption | with_reducible apply ih | with_reducible apply State.commit_steady
         | with_reducible apply State.pump_steady | with_reducible apply State.startRecv_steady
         | with_reducible apply State.startSend_steady | with_reducible refine steady_ite ?_ ?_ | split

theorem State.hoNext_steady {r₀ s : State} (h0 : Steady r₀ s) (h : Nat) :
    Steady r₀ (State.hoNext s h) := by
  unfold State.hoNext
  repeat' first
    | with_reducible assumption | with_reducible apply State.hoNextFuel_steady

/-! ### Mirrors -/

theorem State.setMirror_steady {r₀ s : State} (h0 : Steady r₀ s) (i : Nat) (m : Mirror) :
    Steady r₀ (State.setMirror s i m) := by
  unfold State.setMirror
  extract_lets
  repeat' first
    | with_reducible assumption | with_reducible apply Steady.upd | with_reducible rfl

theorem State.mirrorDone_steady {r₀ s : State} (h0 : Steady r₀ s) (i : Nat) (st : Status) :
    Steady r₀ (State.mirrorDone s i st) := by
  unfold State.mirrorDone
  extract_lets
  repeat' first
    | with_reducible assumption | with_reducible apply State.odAdd_steady | with_reducible apply State.setMirror_steady
      | with_reducible refine steady_ite ?_ ?_

theorem State.mirrorSendOne_steady {r₀ s : State} (h0 : Steady r₀ s) (i : Nat) (r : MirrorRoll) (x : MirrorRec) :
    Steady r₀ (State.mirrorSendOne s i r x) := by
  unfold State.mirrorSendOne
  extract_lets
  repeat' first
    | with_reducible assumption | with_reducible apply State.mirrorDone_steady | with_reducible apply State.openTx_steady
      | split

theorem State.mirrorEnds_steady {r₀ s : State} (h0 : Steady r₀ s) (r : MirrorRoll) (m : Mirror) :
    Steady r₀ (State.mirrorEnds s r m) := by
  unfold State.mirrorEnds
  repeat' first
    | with_reducible assumption | with_reducible apply State.event_steady | with_reducible refine steady_ite ?_ ?_

theorem State.mirrorRun_steady {r₀ : State} : ∀ (k : Nat) {s : State} (_ : Steady r₀ s) (x0 : Nat),
    Steady r₀ (State.mirrorRun k s x0) := by
  intro k
  induction k with
  | zero =>
    intro s h x0
    exact h
  | succ k ih =>
    intro s h x0
    unfold State.mirrorRun
    extract_lets
    repeat' first
      | with_reducible assumption | with_reducible apply ih | with_reducible apply State.mirrorEnds_steady
        | with_reducible apply State.mirrorSendOne_steady | with_reducible apply State.setMirror_steady
        | with_reducible refine steady_ite ?_ ?_ | split

theorem State.mirrorGo_steady {r₀ s : State} (h0 : Steady r₀ s) (i : Nat) :
    Steady r₀ (State.mirrorGo s i) := by
  unfold State.mirrorGo
  repeat' first
    | with_reducible assumption | with_reducible apply State.mirrorRun_steady

/-! ### Held accesses -/

theorem State.addResps_steady {r₀ s : State} (h0 : Steady r₀ s) (g : GroupRef) (l : List LaneResp) :
    Steady r₀ (State.addResps s g l) := by
  unfold State.addResps
  repeat' first
    | with_reducible assumption | with_reducible apply State.setGroup_steady | split

theorem State.postFailed_steady {r₀ s : State} (h0 : Steady r₀ s) (g : GroupRef) (seq : Nat) (e : Option Exc) :
    Steady r₀ (State.postFailed s g seq e) := by
  unfold State.postFailed
  repeat' first
    | with_reducible assumption | with_reducible apply State.setGroup_steady | with_reducible refine steady_ite ?_ ?_ | split

theorem State.heldEnd_steady {r₀ s : State} (h0 : Steady r₀ s) (g : GroupRef) (w : BitVec 64) (gr : Group) :
    Steady r₀ (State.heldEnd s g w gr) := by
  unfold State.heldEnd
  extract_lets
  repeat' first
    | with_reducible assumption | with_reducible apply State.setGroup_steady | with_reducible apply State.takeExc_steady
      | split

theorem State.laneAnswer_steady {r₀ s : State} (h0 : Steady r₀ s) (g : GroupRef) (f : RemoteForm) (w : BitVec 64) (gr : Group) (lanes : List (Nat × Nat)) (x : Resp) :
    Steady r₀ (State.laneAnswer s g f w gr lanes x) := by
  unfold State.laneAnswer
  repeat' first
    | with_reducible assumption | with_reducible apply State.addResps_steady

theorem State.countRemote_steady {r₀ s : State} (h0 : Steady r₀ s) (core : Nat) (t : LaneTx) (tc : BitVec 3) :
    Steady r₀ (State.countRemote s core t tc) := by
  unfold State.countRemote
  extract_lets
  repeat' first
    | with_reducible assumption | with_reducible apply State.count_steady

theorem State.openHeld_steady {r₀ s : State} (h0 : Steady r₀ s) (g : GroupRef) (f : RemoteForm) (w : BitVec 64) (gr : Group) (t : LaneTx) :
    Steady r₀ (State.openHeld s g f w gr t) := by
  unfold State.openHeld
  extract_lets
  repeat' first
    | with_reducible assumption | with_reducible apply State.countRemote_steady | with_reducible apply State.fresh_steady
      | with_reducible apply State.laneAnswer_steady | with_reducible apply State.openMore_steady
      | with_reducible apply State.openTx_steady | dsimp only | split | (dsimp +zetaDelta only; split)

theorem State.openAll_steady {r₀ s : State} (h0 : Steady r₀ s) (g : GroupRef) (f : RemoteForm) (w : BitVec 64) (gr : Group) (l : List LaneTx) :
    Steady r₀ (State.openAll s g f w gr l) := by
  unfold State.openAll
  extract_lets
  repeat' first
    | with_reducible assumption | with_reducible apply State.openHeld_steady | with_reducible refine steady_foldl _ ?_ _ _ ?_
      | with_reducible intro _

theorem State.heldDone_steady {r₀ s : State} (h0 : Steady r₀ s) (g : GroupRef) :
    Steady r₀ (State.heldDone s g) := by
  unfold State.heldDone
  repeat' first
    | with_reducible assumption | with_reducible apply State.heldEnd_steady | with_reducible apply State.openAll_steady
      | with_reducible apply State.stopGroup_steady | with_reducible refine steady_ite ?_ ?_ | dsimp only | split

/-! ### Copies -/

theorem State.noteClosed_steady {r₀ s : State} (h0 : Steady r₀ s) (block : Nat × Nat) (a : Nat) :
    Steady r₀ (State.noteClosed s block a) := by
  unfold State.noteClosed
  repeat' first
    | with_reducible assumption | with_reducible apply State.closedEvent_steady | with_reducible refine steady_ite ?_ ?_

theorem State.setCopy_steady {r₀ s : State} (h0 : Steady r₀ s) (j : CopyJob) :
    Steady r₀ (State.setCopy s j) := by
  unfold State.setCopy
  extract_lets
  repeat' first
    | with_reducible assumption | with_reducible apply Steady.upd | with_reducible rfl

theorem State.copyFailed_steady {r₀ s : State} (h0 : Steady r₀ s) (j : CopyJob) (st : Status) :
    Steady r₀ (State.copyFailed s j st) := by
  unfold State.copyFailed
  repeat' first
    | with_reducible assumption | with_reducible apply State.setCopy_steady | split

theorem State.copyWrite_steady {r₀ s : State} (h0 : Steady r₀ s) (j : CopyJob) (dst : Nat) (bs : List Byte) (pmask : BitVec 32) :
    Steady r₀ (State.copyWrite s j dst bs pmask) := by
  unfold State.copyWrite
  extract_lets
  repeat' first
    | with_reducible assumption | with_reducible apply State.coherentWrite_steady
      | with_reducible apply State.copyFailed_steady | with_reducible apply State.count_steady
      | with_reducible apply State.countSpan_steady | with_reducible apply State.noteClosed_steady
      | with_reducible apply State.openTx_steady | with_reducible apply State.setCopy_steady
      | with_reducible apply State.writeRacy_steady | with_reducible refine steady_ite ?_ ?_
      | with_reducible refine steady_foldl _ ?_ _ _ ?_ | split | with_reducible intro _

theorem State.copyPiece_steady {r₀ s : State} (h0 : Steady r₀ s) (j : CopyJob) :
    Steady r₀ (State.copyPiece s j) := by
  unfold State.copyPiece
  extract_lets
  repeat' first
    | with_reducible assumption | with_reducible apply State.copyFailed_steady | with_reducible apply State.copyWrite_steady
      | with_reducible apply State.devRead_steady | with_reducible apply State.noteClosed_steady
      | with_reducible apply State.openTx_steady | with_reducible apply State.setCopy_steady
      | with_reducible refine steady_ite ?_ ?_ | split

theorem State.copyRun_steady {r₀ : State} : ∀ (k : Nat) {s : State} (_ : Steady r₀ s) (x0 : Nat),
    Steady r₀ (State.copyRun k s x0) := by
  intro k
  induction k with
  | zero =>
    intro s h x0
    exact h
  | succ k ih =>
    intro s h x0
    unfold State.copyRun
    repeat' first
      | with_reducible assumption | with_reducible apply ih | with_reducible apply State.copyPiece_steady
         | with_reducible refine steady_ite ?_ ?_ | dsimp only | split

theorem State.copiesRun_steady {r₀ s : State} (h0 : Steady r₀ s) :
    Steady r₀ (State.copiesRun s) := by
  unfold State.copiesRun
  repeat' first
    | with_reducible assumption | with_reducible apply State.copyRun_steady | with_reducible refine steady_foldl _ ?_ _ _ ?_
       | with_reducible intro _

theorem State.copyReadDone_steady {r₀ s : State} (h0 : Steady r₀ s) (cmd : Nat) (dst : BitVec 64) (x : Resp) :
    Steady r₀ (State.copyReadDone s cmd dst x) := by
  unfold State.copyReadDone
  repeat' first
    | with_reducible assumption | with_reducible apply State.copyFailed_steady | with_reducible apply State.copyWrite_steady
       | with_reducible refine steady_ite ?_ ?_ | split

theorem State.copyWriteDone_steady {r₀ s : State} (h0 : Steady r₀ s) (cmd : Nat) (x : Resp) :
    Steady r₀ (State.copyWriteDone s cmd x) := by
  unfold State.copyWriteDone
  repeat' first
    | with_reducible assumption | with_reducible apply State.copyFailed_steady | with_reducible refine steady_ite ?_ ?_ | split

/-! ### The end of a transaction -/

theorem State.hoWritten_steady {r₀ s : State} (h0 : Steady r₀ s) (cmd : Nat) (x : Resp) :
    Steady r₀ (State.hoWritten s cmd x) := by
  unfold State.hoWritten
  repeat' first
    | with_reducible assumption | with_reducible apply State.hoFailed_steady | with_reducible apply State.hoGo_steady
       | with_reducible apply State.hoNext_steady | with_reducible refine steady_ite ?_ ?_ | dsimp only | split

theorem State.untold_steady {r₀ s : State} (h0 : Steady r₀ s) (h : Nat) (st : Status) :
    Steady r₀ (State.untold s h st) := by
  unfold State.untold
  extract_lets
  repeat' first
    | with_reducible assumption | with_reducible apply State.setChannel_steady | with_reducible refine steady_ite ?_ ?_

theorem State.hoProgressed_steady {r₀ s : State} (h0 : Steady r₀ s) (cmd k : Nat) (x : Resp) :
    Steady r₀ (State.hoProgressed s cmd k x) := by
  unfold State.hoProgressed
  repeat' first
    | with_reducible assumption | with_reducible apply State.devWrite_steady | with_reducible apply State.endHandoff_steady
      | with_reducible apply State.hoFailed_steady | with_reducible apply State.hoGo_steady
      | with_reducible apply State.hoNext_steady | with_reducible apply State.odAdd_steady
      | with_reducible apply State.setChannel_steady | with_reducible apply State.untold_steady
      | with_reducible refine steady_ite ?_ ?_ | dsimp only | split

theorem State.heldAnswer_steady {r₀ s : State} (h0 : Steady r₀ s) (g : GroupRef) (t : Tx) (lanes : List (Nat × Nat)) (x : Resp)   :
    Steady r₀ (State.heldAnswer s g t lanes x) := by
  unfold State.heldAnswer
  split
  · exact h0
  · rename_i gr _
    generalize hh : gr.hold = hd
    cases hd <;> first
    | exact h0
    | exact State.reap_steady h0 _
    | exact State.heldDone_steady (State.laneAnswer_steady h0 _ _ _ _ _ _) _

theorem State.txEnded_steady {r₀ s : State} (h0 : Steady r₀ s) (t : Tx) (x : Resp) :
    Steady r₀ (State.txEnded s t x) := by
  unfold State.txEnded
  repeat' first
    | with_reducible assumption | with_reducible apply State.copyReadDone_steady
       | with_reducible apply State.copyWriteDone_steady | with_reducible apply State.heldAnswer_steady
       | with_reducible apply State.hoProgressed_steady | with_reducible apply State.hoWritten_steady
       | with_reducible apply State.mirrorDone_steady | with_reducible apply State.postFailed_steady
       | with_reducible apply State.wake_steady | split

theorem State.heldGo_steady {r₀ s : State} (h0 : Steady r₀ s) :
    Steady r₀ (State.heldGo s) := by
  unfold State.heldGo
  repeat' first
    | with_reducible assumption | with_reducible apply State.heldDone_steady | with_reducible refine steady_foldl _ ?_ _ _ ?_
      | with_reducible intro _

theorem State.txRoom_steady {r₀ s : State} (h0 : Steady r₀ s) :
    Steady r₀ (State.txRoom s) := by
  unfold State.txRoom
  extract_lets
  repeat' first
    | with_reducible assumption | with_reducible apply State.copiesRun_steady | with_reducible apply State.heldGo_steady
      | with_reducible apply State.hoGo_steady | with_reducible apply State.hoNext_steady
      | with_reducible apply State.lineGo_steady | with_reducible apply State.mirrorGo_steady
      | with_reducible refine steady_foldl _ ?_ _ _ ?_ | dsimp only | split | with_reducible intro _

theorem State.finishTx_steady {r₀ s : State} (h0 : Steady r₀ s) (t : Tx) (x : Resp) :
    Steady r₀ (State.finishTx s t x) := by
  unfold State.finishTx
  extract_lets
  repeat' first
    | with_reducible assumption | with_reducible apply State.timeoutNoted_steady | with_reducible apply State.txEnded_steady
       | with_reducible apply State.txRoom_steady | with_reducible refine steady_ite ?_ ?_ | with_reducible apply Steady.upd | with_reducible rfl

/-! ### A port that leaves its link -/

theorem State.showWidth_steady {r₀ s : State} (h0 : Steady r₀ s) (p : Nat) (m : BitVec 5) :
    Steady r₀ (State.showWidth s p m) := by
  unfold State.showWidth
  repeat' first
    | with_reducible assumption | with_reducible apply State.odSet_steady

theorem State.loseTxs_steady {r₀ s : State} (h0 : Steady r₀ s) (p : Nat) :
    Steady r₀ (State.loseTxs s p) := by
  unfold State.loseTxs
  repeat' first
    | with_reducible assumption | with_reducible apply State.finishTx_steady | with_reducible apply State.leaveLate_steady
      | with_reducible refine steady_foldl _ ?_ _ _ ?_ | split | with_reducible intro _

theorem State.forgetInput_steady {r₀ s : State} (h0 : Steady r₀ s) (p : Nat) :
    Steady r₀ (State.forgetInput s p) := by
  unfold State.forgetInput
  repeat' first
    | with_reducible assumption | with_reducible apply State.setPort_steady | with_reducible rfl | with_reducible refine steady_foldl _ ?_ _ _ ?_
      | dsimp only | with_reducible intro _

theorem State.flushPort_steady {r₀ s : State} (h0 : Steady r₀ s) (p : Nat) :
    Steady r₀ (State.flushPort s p) := by
  unfold State.flushPort
  extract_lets
  repeat' first
    | with_reducible assumption | with_reducible apply State.dropQueued_steady | with_reducible apply State.odAdd_steady
      | with_reducible apply State.oweSlots_steady | with_reducible apply State.setPort_steady | with_reducible rfl
      | with_reducible refine steady_ite ?_ ?_ | with_reducible refine steady_foldl _ ?_ _ _ ?_ | split
      | with_reducible intro _

end Sys2Proof.Machine
end

section
/-! SUPPORT. FAULT is entered (R46, R380): the device's record, and every port DISABLED. -/

namespace Sys2Proof.Machine
open Sys2Proof

/-- A port that leaves its link stands in its target state; the other ports' states, the device's record and the clock stay. -/
theorem State.portLeave_spec (s : State) (p : Nat) (cause : BitVec 8) (target : PortState) :
    (s.portLeave p cause target).dev = s.dev ∧ (s.portLeave p cause target).clk = s.clk ∧
    ∀ q, ((s.portLeave p cause target).port q).state = if q = p then target else (s.port q).state := by
  have before := State.forgetInput_steady (State.flushPort_steady (.refl s) p) p
  unfold State.portLeave
  extract_lets t pt live base u v w
  have set : u.dev = t.dev ∧ u.clk = t.clk ∧ ∀ q, (u.port q).state = if q = p then target else (t.port q).state := by
    refine ⟨rfl, rfl, fun q => ?_⟩
    unfold u
    rw [State.port_setPort]
    split
    · rfl
    · rfl
  clear_value u
  have shown : Steady u v := State.showWidth_steady (.refl u) p 0
  clear_value v
  have logged : Steady v w := by
    unfold w
    split
    · exact State.event_steady (.refl v) ..
    · exact .refl v
  clear_value w
  have after := State.loseTxs_steady (shown.trans logged) p
  obtain ⟨dev, clk, ports⟩ := set
  refine ⟨after.dev.trans (dev.trans before.dev), after.clk.trans (clk.trans before.clk), fun q => ?_⟩
  rw [after.ports, ports, before.ports]

/-- One port goes to DISABLED, where it is not there already. -/
def State.disablePort (s : State) (p : Nat) : State := if (s.port p).state = .disabled then s else s.portLeave p 4 .disabled

theorem State.disablePort_spec (s : State) (p : Nat) : (s.disablePort p).dev = s.dev ∧ (s.disablePort p).clk = s.clk ∧
    ∀ q, ((s.disablePort p).port q).state = if q = p then .disabled else (s.port q).state := by
  unfold State.disablePort
  split
  · next off =>
    refine ⟨rfl, rfl, fun q => ?_⟩
    split
    · next here => rw [here, off]
    · rfl
  · exact s.portLeave_spec p 4 .disabled

theorem State.disablePorts_spec (s : State) : s.disablePorts.dev = s.dev ∧ s.disablePorts.clk = s.clk ∧
    ∀ p < 4, (s.disablePorts.port p).state = .disabled := by
  have each : ∀ (l : List Nat) (t : State), (l.foldl State.disablePort t).dev = t.dev ∧ (l.foldl State.disablePort t).clk = t.clk ∧
      ∀ p, p ∈ l ∨ (t.port p).state = .disabled → ((l.foldl State.disablePort t).port p).state = .disabled := by
    intro l
    induction l with
    | nil => exact fun t => ⟨rfl, rfl, fun p h => h.resolve_left (List.not_mem_nil)⟩
    | cons q l ih =>
      intro t
      obtain ⟨dev, clk, ports⟩ := t.disablePort_spec q
      obtain ⟨dev', clk', off⟩ := ih (t.disablePort q)
      refine ⟨dev'.trans dev, clk'.trans clk, fun p h => off p ?_⟩
      rw [ports]
      by_cases here : p = q
      · rw [if_pos here]
        exact .inr rfl
      · rw [if_neg here]
        exact h.imp_left fun mem => (List.mem_cons.mp mem).resolve_left here
  obtain ⟨dev, clk, off⟩ := each (List.range 4) s
  exact ⟨dev, clk, fun p hp => off p (.inl (List.mem_range.mpr hp))⟩

theorem State.stopRings_steady (s : State) : Steady s s.stopRings := by
  refine steady_foldl _ (fun t r h => ?_) _ s (.refl s)
  exact steady_ite (State.setRingState_steady h ..) h

/-- A fatal error of a device that drains. -/
theorem State.enterFault_draining {s : State} (h : s.dev.state = .draining) (ty inst kind : Nat) :
    (s.enterFault ty inst kind).dev.state = .fault ∧ (s.enterFault ty inst kind).dev.drainAt = none ∧
    (s.enterFault ty inst kind).clk = s.clk ∧ ∀ p < 4, ((s.enterFault ty inst kind).port p).state = .disabled := by
  have entered : s.enterFault ty inst kind = (({ s with dev := { s.dev with romFault := false, drainAt := none } }.enter .fault ty inst
      kind).stopRings).disablePorts := by
    unfold State.enterFault
    rw [h]
    rfl
  generalize ht : { s with dev := { s.dev with romFault := false, drainAt := none } }.enter .fault ty inst kind = t at entered
  have fault : t.dev.state = .fault ∧ t.dev.drainAt = none ∧ t.clk = s.clk := by
    rw [← ht]
    exact ⟨rfl, rfl, rfl⟩
  obtain ⟨state, drain, clk⟩ := fault
  have rings := t.stopRings_steady
  obtain ⟨dev, clk', off⟩ := t.stopRings.disablePorts_spec
  rw [entered, dev, rings.dev]
  exact ⟨state, drain, clk'.trans (rings.clk.trans clk), off⟩

end Sys2Proof.Machine
end

section
/-! SUPPORT. Jobs (R77, R101): the entries of a numerics slot, and what JOB_OPEN and JOB_CLOSE change. -/

namespace Sys2Proof.Machine
open Sys2Proof

/-! ### Entries that return to their defaults -/

theorem State.odResets_rest (s : State) (l : List Nat) : s.odResets l = { s with od := (s.odResets l).od } := by
  unfold State.odResets
  induction l generalizing s with
  | nil => rfl
  | cons k l ih =>
    rw [List.foldl_cons, ih (s.odReset k)]
    rfl

theorem State.odGet_odResets (s : State) (l : List Nat) (j : Nat) :
    (s.odResets l).odGet j = if j ∈ l then odDefault j else s.odGet j := by
  unfold State.odResets
  induction l generalizing s with
  | nil => rw [if_neg List.not_mem_nil, List.foldl_nil]
  | cons k l ih =>
    rw [List.foldl_cons, ih, State.odReset, State.odGet_odSet]
    by_cases here : j = k
    · rw [here, if_pos rfl, if_pos List.mem_cons_self, ite_self]
    · rw [if_neg here]
      simp only [List.mem_cons, here, false_or]

/-! ### A slot -/

/-- The entries of a slot that return to their defaults. -/
def slotKeys (i : Nat) : List Nat :=
  [Od.srSeed i, Od.srStep i, Od.heritageMode i, Od.promoP8 i, Od.promoP16 i, Od.arrivalClassMask i] ++
    (List.range 22).map fun j => Od.key (0x2820 + i) (1 + j)

def poolKeys (i : Nat) : List Nat :=
  [Od.poolBase i, Od.poolBytes i, Od.poolUsedBytes i, Od.poolHits i, Od.poolMisses i, Od.poolEvictions i, Od.poolBlocked i]

/-- An entry that no slot's reset changes: one before those of the slots, or the job of a slot. -/
def Od.OffSlots (j : Nat) : Prop := j / 256 < 0x2500 ∨ (0x2520 ≤ j / 256 ∧ j / 256 < 0x2530 ∧ j % 256 = 0x01)

theorem Od.offSlots_job {k : Nat} (hk : k < 16) : Od.OffSlots (Od.numSlotJob k) := by
  unfold Od.OffSlots Od.numSlotJob Od.key
  omega

theorem Od.OffSlots.apart {i j : Nat} (h : Od.OffSlots j) (hi : i < 16) : j ∉ slotKeys i ∧ j ∉ poolKeys i ∧ j ≠ Od.ledgerAttached i := by
  unfold Od.OffSlots at h
  unfold slotKeys poolKeys
  simp only [List.mem_append, List.mem_cons, List.not_mem_nil, or_false, List.mem_map, List.mem_range, Od.srSeed, Od.srStep,
    Od.heritageMode, Od.promoP8, Od.promoP16, Od.arrivalClassMask, Od.poolBase, Od.poolBytes, Od.poolUsedBytes, Od.poolHits,
    Od.poolMisses, Od.poolEvictions, Od.poolBlocked, Od.ledgerAttached, Od.key]
  refine ⟨?_, ?_, ?_⟩
  · rintro (entry | ⟨n, hn, entry⟩)
    · omega
    · omega
  · omega
  · omega

section
variable (s : State) (i : Nat)

/-- The slot with its entries at their defaults, before its pool is reset too. -/
def State.slotDefaults : State := (s.detachLedger i).odResets (slotKeys i)

theorem State.resetSlot_eq : s.resetSlot i =
    { s.slotDefaults i with
      disp := { (s.slotDefaults i).disp with ended := SMap.set (0, 0, 0) (s.slotDefaults i).disp.ended i (0, 0, 0) }
      pools := SMap.set Pool.initial (s.slotDefaults i).pools i Pool.initial }.odResets (poolKeys i) := by
  unfold State.resetSlot State.resetPool State.slotDefaults slotKeys poolKeys
  with_reducible rfl

theorem State.slotDefaults_rest : s.slotDefaults i = { s with watch := (s.slotDefaults i).watch, od := (s.slotDefaults i).od } := by
  unfold State.slotDefaults
  rw [State.odResets_rest]
  rfl

/-- A slot's reset changes only the dictionary, the watch, the dispatcher's own record of the slot, and the pool. -/
theorem State.resetSlot_rest : s.resetSlot i =
    { s with watch := (s.resetSlot i).watch, od := (s.resetSlot i).od, disp := (s.resetSlot i).disp, pools := (s.resetSlot i).pools } := by
  have defaults := s.slotDefaults_rest i
  rw [State.resetSlot_eq, State.odResets_rest]
  generalize s.slotDefaults i = t at *
  rw [defaults]

theorem State.resetSlot_odGet_eq (j : Nat) : (s.resetSlot i).odGet j =
    if j ∈ poolKeys i then odDefault j else if j ∈ slotKeys i then odDefault j else (s.detachLedger i).odGet j := by
  have defaults := (s.detachLedger i).odGet_odResets (slotKeys i) j
  rw [← defaults, State.resetSlot_eq, State.odGet_odResets]
  unfold State.slotDefaults
  generalize (s.detachLedger i).odResets (slotKeys i) = t
  unfold State.odGet
  with_reducible rfl

variable {s i} (hi : i < 16)
include hi

theorem State.resetSlot_odGet {j : Nat} (hj : Od.OffSlots j) : (s.resetSlot i).odGet j = s.odGet j := by
  obtain ⟨slot, pool, ledger⟩ := hj.apart hi
  rw [State.resetSlot_odGet_eq, if_neg pool, if_neg slot]
  exact (State.odGet_odSet ..).trans (if_neg ledger)

omit hi in
theorem State.resetSlot_default {j : Nat} (hj : j ∈ slotKeys i) : (s.resetSlot i).odGet j = odDefault j := by
  rw [State.resetSlot_odGet_eq, if_pos hj, ite_self]

end

theorem slot_defaults : ∀ i < 16, odDefault (Od.srStep i) = 0 ∧ odDefault (Od.heritageMode i) = 0 ∧ odDefault (Od.numSlotJob i) = 0 := by
  decide +kernel

/-! ### Jobs in their slots -/

/-- From `s` to `t` only the dictionary, the watch, the dispatcher and the pools change. -/
structure SlotsOnly (s t : State) : Prop where
  rest : t = { s with watch := t.watch, od := t.od, disp := t.disp, pools := t.pools }

theorem SlotsOnly.trans {s t u : State} (h : SlotsOnly s t) (k : SlotsOnly t u) : SlotsOnly s u := ⟨by rw [k.rest, h.rest]⟩

theorem SlotsOnly.dev {s t : State} (h : SlotsOnly s t) : t.dev = s.dev := by rw [h.rest]
theorem SlotsOnly.clk {s t : State} (h : SlotsOnly s t) : t.clk = s.clk := by rw [h.rest]
theorem SlotsOnly.memByte {s t : State} (h : SlotsOnly s t) (a : Nat) : t.memByte a = s.memByte a := by rw [h.rest]; rfl

/-- What the change of a slot's job leaves: the job of the slot, those of the others, and what stands before the slots. -/
structure SlotBecomes (s t : State) (i job : Nat) : Prop extends SlotsOnly s t where
  own : t.slotJob i = job
  others : ∀ k < 16, k ≠ i → t.slotJob k = s.slotJob k
  early : ∀ j, j / 256 < 0x2500 → t.odGet j = s.odGet j
  defaults : t.odGet (Od.srStep i) = 0 ∧ t.odGet (Od.heritageMode i) = 0

theorem State.setSlot_becomes (s : State) {i : Nat} (hi : i < 16) (v : Nat) :
    SlotBecomes s ((s.resetSlot i).odSet (Od.numSlotJob i) v) i v := by
  have kept : ∀ j, j ≠ Od.numSlotJob i → ((s.resetSlot i).odSet (Od.numSlotJob i) v).odGet j = (s.resetSlot i).odGet j :=
    fun j other => (State.odGet_odSet ..).trans (if_neg other)
  obtain ⟨step, mode, -⟩ := slot_defaults i hi
  refine ⟨⟨?_⟩, (State.odGet_odSet ..).trans (if_pos rfl), fun k hk other => ?_, fun j early => ?_, ⟨?_, ?_⟩⟩
  · have rest := s.resetSlot_rest i
    generalize s.resetSlot i = t at rest
    rw [rest]
    rfl
  · refine (kept _ ?_).trans (State.resetSlot_odGet hi (Od.offSlots_job hk))
    unfold Od.numSlotJob Od.key
    omega
  · refine (kept _ ?_).trans (State.resetSlot_odGet hi (.inl early))
    unfold Od.numSlotJob Od.key
    omega
  · refine ((kept _ ?_).trans (State.resetSlot_default (by simp [slotKeys]))).trans step
    unfold Od.srStep Od.numSlotJob Od.key
    omega
  · refine ((kept _ ?_).trans (State.resetSlot_default (by simp [slotKeys]))).trans mode
    unfold Od.heritageMode Od.numSlotJob Od.key
    omega

theorem State.takeSlot_becomes (s : State) {i : Nat} (hi : i < 16) (job : BitVec 16) : SlotBecomes s (s.takeSlot i job) i job.toNat :=
  s.setSlot_becomes hi job.toNat

theorem State.freeJobSlot_becomes (s : State) {i : Nat} (hi : i < 16) : SlotBecomes s (s.freeJobSlot i) i 0 := by
  have freed := s.setSlot_becomes hi (odDefault (Od.numSlotJob i))
  rw [(slot_defaults i hi).2.2] at freed
  unfold State.freeJobSlot State.odReset
  rw [(slot_defaults i hi).2.2]
  exact freed

theorem State.slotOpen_iff (s : State) (i : Nat) : s.slotOpen i = true ↔ s.slotJob i ≠ 0 := decide_eq_true_iff

theorem State.jobSlot?_some {s : State} {job : BitVec 16} {i : Nat} : s.jobSlot? job = some i ↔
    job ≠ 0 ∧ i < 16 ∧ s.slotJob i = job.toNat ∧ ∀ k < i, s.slotJob k ≠ job.toNat := by
  unfold State.jobSlot?
  by_cases zero : job = 0
  · simp [zero]
  · rw [if_neg zero, List.find?_range_eq_some]
    simp only [decide_eq_true_iff, List.mem_range, Bool.not_eq_true', decide_eq_false_iff_not]
    exact ⟨fun ⟨own, lt, first⟩ => ⟨zero, lt, own, first⟩, fun ⟨_, lt, own, first⟩ => ⟨own, lt, first⟩⟩

theorem State.jobOpen_false {s : State} {job : BitVec 16} (some : job ≠ 0) (h : s.jobOpen job = false) :
    ∀ k < 16, s.slotJob k ≠ job.toNat := by
  unfold State.jobOpen State.jobSlot? at h
  rw [if_neg some, Option.isSome_eq_false_iff, Option.isNone_iff_eq_none, List.find?_range_eq_none] at h
  simpa [State.slotJob] using h

/-- Every open job is closed. -/
theorem State.closeJobs_closed (s : State) : (∀ i < 16, s.closeJobs.slotOpen i = false) ∧ SlotsOnly s s.closeJobs := by
  have each : ∀ (l : List Nat) (t : State), (∀ i ∈ l, i < 16) →
      (∀ i < 16, i ∈ l ∨ t.slotJob i = 0 → (l.foldl State.freeJobSlot t).slotJob i = 0) ∧ SlotsOnly t (l.foldl State.freeJobSlot t) := by
    intro l
    induction l with
    | nil => exact fun t _ => ⟨fun i _ h => h.resolve_left List.not_mem_nil, ⟨rfl⟩⟩
    | cons k l ih =>
      intro t below
      have freed := t.freeJobSlot_becomes (below k List.mem_cons_self)
      obtain ⟨closed, rest⟩ := ih (t.freeJobSlot k) fun i hi => below i (List.mem_cons_of_mem _ hi)
      rw [List.foldl_cons]
      refine ⟨fun i hi h => closed i hi ?_, freed.toSlotsOnly.trans rest⟩
      by_cases here : i = k
      · rw [here]
        exact .inr freed.own
      · rw [freed.others i hi here]
        exact h.imp_left fun mem => (List.mem_cons.mp mem).resolve_left here
  obtain ⟨closed, rest⟩ := each s.openSlots s fun i hi => List.mem_range.mp (List.mem_filter.mp hi).1
  refine ⟨fun i hi => decide_eq_false (not_not_intro (closed i hi ?_)), rest⟩
  by_cases open_ : s.slotOpen i = true
  · exact .inl (List.mem_filter.mpr ⟨List.mem_range.mpr hi, open_⟩)
  · exact .inr (not_not.mp (mt (s.slotOpen_iff i).mpr open_))

end Sys2Proof.Machine
end

section
/-! SUPPORT. JOB_OPEN, JOB_CLOSE, DRAIN and its ends (R46, R77, R398): statement O41. -/

namespace Sys2Proof.Machine
open Sys2Proof

/-- An entered state changes the device's state alone, two entries of it, and the log. -/
theorem State.enter_odGet (s : State) (new : DevState) (ty inst kind : Nat) {j : Nat} (hj : 0x1002 ≤ j / 256) :
    (s.enter new ty inst kind).odGet j = s.odGet j := by
  have time : j ≠ Od.stateTime := by
    unfold Od.stateTime Od.key
    omega
  have cause : j ≠ Od.stateCause := by
    unfold Od.stateCause Od.key
    omega
  exact ((State.odGet_odSet ..).trans (if_neg time)).trans ((State.odGet_odSet ..).trans (if_neg cause))

theorem State.enter_slotJob (s : State) (new : DevState) (ty inst kind : Nat) (i : Nat) :
    (s.enter new ty inst kind).slotJob i = s.slotJob i := by
  refine s.enter_odGet new ty inst kind ?_
  unfold Od.numSlotJob Od.key
  omega

theorem State.enter_memByte (s : State) (new : DevState) (ty inst kind a : Nat) : (s.enter new ty inst kind).memByte a = s.memByte a := rfl

/-! ### JOB_OPEN -/

section
variable {s : State} {via : OdPath} {job : BitVec 16}

theorem exec_jobOpen (h : Reached s via 0x6001 0x01 job.toNat) : exec (.jobOpen via job) s = .next (
    if s.disrupted then { s with hm := { s.hm with jobOpenWait := s.hm.jobOpenWait ++ [(via, job)] } }
    else (s.openJob job).2.answerWrite via 0x6001 0x01 (s.openJob job).1) := by
  have run : exec (.jobOpen via job) s = execJobOpen via job s := rfl
  obtain ⟨r, -, served⟩ := State.odRow_reached h fun s _ =>
    if s.disrupted then .later { s with hm := { s.hm with jobOpenWait := s.hm.jobOpenWait ++ [(via, job)] } }
    else .now (s.openJob job).1 (s.openJob job).2
  rw [run, execJobOpen, withRoom_roomy h.room]
  refine congrArg _ (Eq.trans served ?_)
  split
  · rfl
  · rfl

theorem State.openJob_rom (rom : s.dev.romFault = true) : s.openJob job = (Status.refused, s) := if_pos rom

theorem State.openJob_mesh (rom : s.dev.romFault = false) (fails : s.meshFails job = true) : s.openJob job = (Status.planMismatch, s) := by
  unfold State.openJob
  rw [rom, if_neg Bool.false_ne_true, if_pos fails]

/-- The device opens jobs. -/
def State.opensJobs (s : State) : Prop := s.dev.state = .ready ∨ s.dev.state = .running

variable (rom : s.dev.romFault = false) (mesh : s.meshFails job = false)
include rom mesh

theorem State.openJob_refused (bad : job = 0 ∨ s.jobOpen job = true ∨ ¬s.opensJobs) : s.openJob job = (Status.refused, s) := by
  unfold State.openJob
  rw [rom, mesh, if_neg Bool.false_ne_true, if_neg Bool.false_ne_true, if_pos]
  unfold State.opensJobs at bad
  rw [not_or] at bad
  exact bad

variable (real : job ≠ 0) (new : s.jobOpen job = false) (opens : s.opensJobs)
include real new opens

omit rom mesh in
theorem State.notRefused : ¬(job = 0 ∨ s.jobOpen job = true ∨ (s.dev.state ≠ .ready ∧ s.dev.state ≠ .running)) := by
  unfold State.opensJobs at opens
  rw [new]
  rintro (zero | open_ | ⟨ready, running⟩)
  · exact real zero
  · cases open_
  · exact opens.elim ready running

theorem State.openJob_full (full : ∀ i < 16, s.slotOpen i = true) : s.openJob job = (Status.busy, s) := by
  have none : ((List.range 16).find? fun i => !s.slotOpen i) = none :=
    List.find?_range_eq_none.mpr fun i hi => by rw [full i hi]; rfl
  unfold State.openJob
  rw [rom, mesh, if_neg Bool.false_ne_true, if_neg Bool.false_ne_true, if_neg (State.notRefused real new opens), none]

theorem State.openJob_found {i : Nat} (found : ((List.range 16).find? fun i => !s.slotOpen i) = some i) :
    s.openJob job = (if s.meshDegraded job then Status.degraded else Status.ok,
      if (s.takeSlot i job).dev.state = .ready then (s.takeSlot i job).enter .running 0x0F 0 0 else s.takeSlot i job) := by
  unfold State.openJob
  rw [rom, mesh, if_neg Bool.false_ne_true, if_neg Bool.false_ne_true, if_neg (State.notRefused real new opens), found]

theorem State.openJob_opens {i : Nat} (hi : i < 16) (free : s.slotOpen i = false) (first : ∀ k < i, s.slotOpen k = true) :
    ∃ u, s.openJob job = (if s.meshDegraded job then Status.degraded else Status.ok, u) ∧ u.jobSlot? job = some i ∧
      u.dev.state = .running ∧ u.odGet (Od.srStep i) = 0 ∧ u.odGet (Od.heritageMode i) = 0 ∧
      (∀ k < 16, k ≠ i → u.slotJob k = s.slotJob k) ∧ ∀ a, u.memByte a = s.memByte a := by
  have found : ((List.range 16).find? fun i => !s.slotOpen i) = some i :=
    List.find?_range_eq_some.mpr ⟨by rw [free]; rfl, List.mem_range.mpr hi, fun k hk => by rw [first k hk]; rfl⟩
  have took := s.takeSlot_becomes hi job
  have other := State.jobOpen_false real new
  have slot : ∀ u : State, (∀ k, u.slotJob k = (s.takeSlot i job).slotJob k) → u.jobSlot? job = some i := fun u same =>
    State.jobSlot?_some.mpr ⟨real, hi, (same i).trans took.own, fun k hk => by
      rw [same, took.others k (by omega) (by omega)]
      exact other k (by omega)⟩
  rw [State.openJob_found rom mesh real new opens found]
  by_cases ready : (s.takeSlot i job).dev.state = .ready
  · have entered : ∀ j, 0x1002 ≤ j / 256 → _ := fun j => (s.takeSlot i job).enter_odGet .running 0x0F 0 0 (j := j)
    have jobs := (s.takeSlot i job).enter_slotJob .running 0x0F 0 0
    rw [if_pos ready]
    refine ⟨_, rfl, slot _ jobs, rfl, (entered _ ?_).trans took.defaults.1, (entered _ ?_).trans took.defaults.2,
      fun k hk ne => (jobs k).trans (took.others k hk ne), fun a => (State.enter_memByte ..).trans (took.memByte a)⟩
    · unfold Od.srStep Od.key
      omega
    · unfold Od.heritageMode Od.key
      omega
  · have running : (s.takeSlot i job).dev.state = .running := by
      rw [took.dev] at ready ⊢
      exact opens.resolve_left ready
    rw [if_neg ready]
    exact ⟨_, rfl, slot _ fun _ => rfl, running, took.defaults.1, took.defaults.2, took.others, took.memByte⟩

end

/-! ### JOB_CLOSE and DRAIN -/

theorem State.startDrain_spec (s : State) : s.startDrain.dev.state = .draining ∧
    s.startDrain.dev.drainAt = some (s.clk.now + 1000000 * s.odGet Od.drainTimeout) ∧ Logs s s.startDrain 0x0001 sevInfo ∧
    ∀ k, s.startDrain.slotJob k = s.slotJob k :=
  ⟨rfl, rfl, ⟨_, rfl, rfl, rfl⟩, fun k => State.enter_slotJob _ _ _ _ _ k⟩

section
variable {s : State} {via : OdPath} {job : BitVec 16}

/-- What JOB_CLOSE leaves of a job in slot `i`. -/
def State.closeJob (s : State) (i : Nat) : State :=
  if (s.freeJobSlot i).dev.state = .running ∧ (s.freeJobSlot i).openSlots = [] then (s.freeJobSlot i).startDrain else s.freeJobSlot i

theorem exec_jobClose_none (h : Reached s via 0x6001 0x02 job.toNat) (rom : s.dev.romFault = false) (none : s.jobSlot? job = none) :
    exec (.jobClose via job) s = .next (s.answerWrite via 0x6001 0x02 Status.notFound) := by
  have run : exec (.jobClose via job) s = execJobClose via job s := rfl
  rw [run, execJobClose, withRoom_roomy h.room]
  obtain ⟨r, -, served⟩ := State.odRow_reached h _
  rw [served, rom, if_neg Bool.false_ne_true, none]
  rfl

theorem exec_jobClose_some (h : Reached s via 0x6001 0x02 job.toNat) (rom : s.dev.romFault = false) {i : Nat}
    (slot : s.jobSlot? job = some i) : exec (.jobClose via job) s = .next (
      if s.writesRefused ∨ s.jobHasRing job then s.answerWrite via 0x6001 0x02 Status.refused
      else (s.closeJob i).answerWrite via 0x6001 0x02 Status.ok) := by
  have run : exec (.jobClose via job) s = execJobClose via job s := rfl
  rw [run, execJobClose, withRoom_roomy h.room]
  obtain ⟨r, -, served⟩ := State.odRow_reached h _
  rw [served, rom, if_neg Bool.false_ne_true, slot]
  dsimp only
  split
  · rfl
  · rfl

theorem State.openSlots_nil (s : State) : s.openSlots = [] ↔ ∀ k < 16, s.slotOpen k = false := by
  unfold State.openSlots
  rw [List.filter_eq_nil_iff]
  simp

theorem State.closeJob_spec (s : State) {i : Nat} (hi : i < 16) : (s.closeJob i).slotJob i = 0 ∧
    (∀ k < 16, k ≠ i → (s.closeJob i).slotJob k = s.slotJob k) ∧
    ((s.dev.state = .running ∧ ∀ k < 16, k ≠ i → s.slotOpen k = false) →
      (s.closeJob i).dev.state = .draining ∧ (s.closeJob i).dev.drainAt = some (s.clk.now + 1000000 * s.odGet Od.drainTimeout)) ∧
    (¬(s.dev.state = .running ∧ ∀ k < 16, k ≠ i → s.slotOpen k = false) → (s.closeJob i).dev = s.dev) := by
  have freed := s.freeJobSlot_becomes hi
  have last : ((s.freeJobSlot i).dev.state = .running ∧ (s.freeJobSlot i).openSlots = []) ↔
      (s.dev.state = .running ∧ ∀ k < 16, k ≠ i → s.slotOpen k = false) := by
    have open_ : ∀ k < 16, k ≠ i → (s.freeJobSlot i).slotOpen k = s.slotOpen k := fun k hk ne => by
      unfold State.slotOpen
      rw [freed.others k hk ne]
    have own : (s.freeJobSlot i).slotOpen i = false := by
      unfold State.slotOpen
      rw [freed.own]
      rfl
    rw [State.openSlots_nil, freed.dev]
    refine and_congr_right fun _ => ⟨fun all k hk ne => (open_ k hk ne).symm.trans (all k hk), fun all k hk => ?_⟩
    by_cases here : k = i
    · rw [here, own]
    · rw [open_ k hk here, all k hk here]
  unfold State.closeJob
  by_cases ends : s.dev.state = .running ∧ ∀ k < 16, k ≠ i → s.slotOpen k = false
  · obtain ⟨state, drain, -, jobs⟩ := (s.freeJobSlot i).startDrain_spec
    rw [freed.clk, freed.early _ (by decide)] at drain
    rw [if_pos (last.mpr ends)]
    exact ⟨(jobs i).trans freed.own, fun k hk ne => (jobs k).trans (freed.others k hk ne), fun _ => ⟨state, drain⟩, fun no => absurd ends no⟩
  · rw [if_neg (mt last.mp ends)]
    exact ⟨freed.own, freed.others, fun yes => absurd yes ends, fun _ => freed.dev⟩

theorem exec_drain (h : Reached s via 0x1002 0x01 1) : exec (.drain via) s = .next (
    if s.dev.state = .running then s.startDrain.answerWrite via 0x1002 0x01 Status.ok
    else s.answerWrite via 0x1002 0x01 Status.refused) := by
  have run : exec (.drain via) s = execDrain via s := rfl
  rw [run, execDrain, withRoom_roomy h.room]
  unfold State.deviceCommand
  obtain ⟨r, -, served⟩ := State.odRow_reached h _
  rw [served]
  by_cases running : s.dev.state = .running
  · simp only [running, decide_true, if_true]
    rfl
  · simp only [running, decide_false, Bool.false_eq_true, if_false]
    rfl

end

/-- The state in which a drain has ended. -/
def State.drained (s : State) : State := { s.closeJobs with dev := { s.dev with drainAt := none } }.enter .ready 0x0D 0 0

/-- Settles O41: a slot's reset leaves the jobs of the other slots and what stands before the slots' entries; and what ends the
transactions of a port changes neither the device's record nor the clock nor a port's state (`finishTx_steady`). -/
theorem jobs : Obligations.Jobs := by
  unfold Obligations.Jobs
  refine ⟨fun s via job h => ⟨fun disrupted => ?_, fun quiet => ?_⟩,
    fun s via job h rom => ⟨exec_jobClose_none h rom, fun i slot => ⟨fun bad => ?_, fun writes rings => ?_⟩⟩,
    fun s via h => ⟨fun running => ?_, fun idle => ?_⟩, fun s room draining => ⟨fun done => ?_, fun busy => ?_, fun t limit => ?_⟩⟩
  · refine ⟨_, exec_jobOpen h, ?_⟩
    rw [if_pos disrupted]
    exact ⟨rfl, rfl⟩
  · have run := exec_jobOpen h
    rw [quiet, if_neg Bool.false_ne_true] at run
    refine ⟨fun rom => ?_, fun rom fails => ?_, fun rom mesh => ⟨fun bad => ?_, fun real new opens => ⟨fun full => ?_,
      fun i hi free first => ?_⟩⟩⟩
    · rw [run, State.openJob_rom rom]
    · rw [run, State.openJob_mesh rom fails]
    · rw [run, State.openJob_refused rom mesh bad]
    · rw [run, State.openJob_full rom mesh real new opens full]
    · obtain ⟨u, opened, left⟩ := State.openJob_opens rom mesh real new opens hi free first
      rw [opened] at run
      exact ⟨u, run, left⟩
  · rw [exec_jobClose_some h rom slot, if_pos bad]
  · have run := exec_jobClose_some h rom slot
    rw [if_neg (by simp [writes, rings])] at run
    exact ⟨_, run, s.closeJob_spec (State.jobSlot?_some.mp slot).2.1⟩
  · have run := exec_drain h
    rw [if_pos running] at run
    obtain ⟨state, drain, logs, -⟩ := s.startDrain_spec
    exact ⟨_, run, state, drain, logs⟩
  · rw [exec_drain h, if_neg idle]
  · have run : exec .drainComplete s = execDrainComplete s := rfl
    obtain ⟨closed, -⟩ := s.closeJobs_closed
    refine ⟨s.drained, ?_, rfl, rfl, fun i hi => ?_⟩
    · rw [run, execDrainComplete, withRoom_roomy room, if_pos ⟨draining, done⟩]
      rfl
    · have jobs : s.drained.slotJob i = s.closeJobs.slotJob i := State.enter_slotJob _ _ _ _ _ i
      unfold State.slotOpen
      rw [jobs]
      exact closed i hi
  · have run : exec .drainComplete s = execDrainComplete s := rfl
    rw [run, execDrainComplete, withRoom_roomy room, if_neg fun h => busy h.2]
  · have run : exec .drainTimeout s = execDrainTimeout s := rfl
    have passed := s.advanceTo_passed t
    have later := s.advanceTo_now t
    rw [run, execDrainTimeout, withRoom_roomy room, limit]
    dsimp only
    rw [if_pos draining]
    generalize s.advanceTo t = v at *
    obtain ⟨state, drain, clk, ports⟩ := State.enterFault_draining (s := v) (by rw [passed.dev, draining]) 0x0D 0 0
    exact ⟨_, rfl, state, by rw [clk]; exact later, drain, ports⟩

end Sys2Proof.Machine
end

section
/-! SUPPORT. Instructions that a ready group issues: what raises, what completes, and u registers and predicates that they write (R178,
R195, R197). -/

namespace Sys2Proof.Machine
open Sys2Proof

/-! ### The outcome of an issue by its body -/

section
variable {s : State} {g : GroupRef} {gr : Group} {w : BitVec 64} {cls : Nat} {body : State → Group → Issue} {c : Instr}

theorem issued_raises (h : Ready s g gr) (hc : exec c s = issued g w cls body s) {e : Exc} (hb : body s gr = .exc e) :
    Raises c s g cls w e := by
  unfold Raises
  rw [hc, issue_ready h, hb]

theorem issued_done (h : Ready s g gr) (hc : exec c s = issued g w cls body s) {t : State} (hb : body s gr = .done t) :
    exec c s = .next (t.countSlot g.core 0x0301 cls) := by
  rw [hc, issue_ready h, hb]

theorem Group.uGet_uSet (q : Group) (r k : Nat) (x : BitVec 64) : (q.uSet r x).uGet k = if k = r then x else q.uGet k :=
  SMap.get_set 0 x r k q.u

/-- An instruction that writes one u register. -/
theorem uSet_becomes (h : Ready s g gr) (hc : exec c s = issued g w cls body s) {r : Nat} {x : BitVec 64}
    (hb : body s gr = groupOnly g (fun q => q.uSet r x) s gr) : UniformBecomes c s g gr r x :=
  ⟨_, groupOnly_becomes h w cls body _ hb c hc, rfl, fun k => gr.uGet_uSet r k x⟩

/-- An update of one predicate in lanes, to one value. -/
theorem Group.eachLane_pSet (k : Nat) (hk : k < 8) (x : Bool) : ∀ (l : List Nat) (q : Group),
    let z := q.eachLane l fun i p => p.pSet i k x
    z = { q with p := z.p } ∧ ∀ i, ∀ j < 8, z.pGet i j = if j = k ∧ i ∈ l then x else q.pGet i j
  | [], q => ⟨rfl, fun i j _ => by simp [Group.eachLane]⟩
  | a :: l, q => by
    obtain ⟨rest, read⟩ := Group.eachLane_pSet k hk x l (q.pSet a k x)
    refine ⟨rest, fun i j hj => (read i j hj).trans ?_⟩
    rw [Group.pGet_pSet _ _ _ _ _ _ hk hj]
    by_cases first : i = a
    · by_cases here : j = k
      · simp [first, here]
      · simp [first, here]
    · simp [first]

/-- An instruction that writes one value to a predicate of the active threads. -/
theorem pSet_becomes (h : Ready s g gr) (hc : exec c s = issued g w cls body s) {k : Nat} (hk : k < 8) {x : Bool}
    (hb : body s gr = groupOnly g (fun q => q.eachLane (lanesOf q.active) fun i p => p.pSet i k x) s gr) :
    PredsBecome c s g gr k (fun i => gr.active.getLsbD i) (fun _ => x) := by
  obtain ⟨rest, read⟩ := Group.eachLane_pSet k hk x (lanesOf gr.active) gr
  refine ⟨_, groupOnly_becomes h w cls body _ hb c hc, ?_, fun i hi j hj => (read i j hj).trans ?_⟩
  · exact congrArg Group.advance rest
  · simp [lanesOf, List.mem_filter, hi]

end

/-! ### States in which the counters of a core stand apart -/

theorem State.countSlot_core (s : State) (n ev cls m : Nat) : (s.countSlot n ev cls).core m = s.core m := by
  unfold State.countSlot
  split <;> rfl

theorem State.countSlot_group? (s : State) (n ev cls : Nat) (g : GroupRef) : (s.countSlot n ev cls).group? g = s.group? g := by
  unfold State.group?
  rw [State.countSlot_core]

theorem State.setGroup_core (s : State) (g : GroupRef) (q : Group) :
    (s.setGroup g q).core g.core = { s.core g.core with groups := SMap.put (s.core g.core).groups g.slot q } :=
  State.core_setCore_self ..

theorem State.setGroup_core_other (s : State) (g : GroupRef) (q : Group) {m : Nat} (h : m ≠ g.core) :
    (s.setGroup g q).core m = s.core m := (State.core_setCore ..).trans (if_neg h)

/-- A core takes a new value, and a slot of it is counted. -/
theorem State.countSlot_coreFrame {s u : State} {n : Nat} (rest : u = { s with cores := u.cores })
    (cores : ∀ m, m ≠ n → u.core m = s.core m) (ev cls : Nat) : CoreFrame s (u.countSlot n ev cls) n := by
  obtain ⟨counts, only⟩ := u.countSlot_frame n ev cls
  have tally : u.tally = s.tally := by rw [rest]
  have od : u.od = s.od := by rw [rest]
  refine ⟨⟨by rw [counts.tally, tally], by rw [← tally]; exact counts.slots, fun k hi hj => ?_⟩, by rw [only, rest], fun a => ?_,
    fun m hm => by rw [State.countSlot_core, cores m hm]⟩
  · rw [counts.od k hi hj]
    unfold State.odGet
    rw [od]
  · rw [only, rest]
    rfl

end Sys2Proof.Machine
end

section
/-! SUPPORT and proof. TWAIT and TTEST (R154, R155): statement O16. -/

namespace Sys2Proof.Machine
open Sys2Proof

theorem fTok_opWord (f : BitVec 48) (op op' : Nat) : fTok (opWord f op) = fTok (opWord f op') := fld_opWord f op op' 43 5 (by decide)
theorem fUDST_opWord (f : BitVec 48) (op op' : Nat) : fUDST (opWord f op) = fUDST (opWord f op') :=
  fld_opWord f op op' 37 6 (by decide)

/-- What TWAIT does once it issues. -/
def twaitIssue (g : GroupRef) (w : BitVec 64) (s : State) (gr : Group) : Issue :=
  if 24 ≤ fTok w then .exc (gr.exc cIllegal 0x02)
  else
    let ret (x : Status) : Issue := groupOnly g (fun gr => gr.uSet (fUDST w) (x.setWidth 64)) s gr
    match (s.core g.core).token? (fTok w) with
    | none => ret Status.notFound
    | some tk =>
      if tk.owner ≠ g.slot then ret Status.denied
      else if !tk.done then .done (s.setGroup g { gr with hold := .token (fTok w) w })
      else if tk.status = Status.poisoned then .exc { gr.exc cPoison 0x02 with aux := BitVec.ofNat 8 (fTok w) }
      else .done (s.twaitDone g gr w (fTok w) tk)

theorem exec_twait (g : GroupRef) (f : BitVec 48) (s : State) :
    exec (.twait g f) s = issued g (opWord f 0xC008) 9 (twaitIssue g (opWord f 0xC008)) s := rfl

/-- What TTEST does once it issues. -/
def ttestIssue (g : GroupRef) (w : BitVec 64) (s : State) (gr : Group) : Issue :=
  if 24 ≤ fTok w then .exc (gr.exc cIllegal 0x02)
  else
    let on := match (s.core g.core).token? (fTok w) with
      | some tk => tk.done && decide (tk.owner = g.slot)
      | none => false
    groupOnly g (fun gr => gr.eachLane (lanesOf gr.active) fun i q => q.pSet i (fld w 48 3) on) s gr

theorem exec_ttest (g : GroupRef) (f : BitVec 48) (s : State) :
    exec (.ttest g f) s = issued g (opWord f 0xC009) 9 (ttestIssue g (opWord f 0xC009)) s := rfl

section
variable {s : State} {g : GroupRef} {gr : Group} {w : BitVec 64} (tok : fTok w < 24)
include tok

theorem twaitIssue_free (free : (s.core g.core).token? (fTok w) = none) :
    twaitIssue g w s gr = groupOnly g (fun q => q.uSet (fUDST w) 0x05) s gr := by
  rw [twaitIssue, if_neg (Nat.not_le.mpr tok), free]
  rfl

variable {tk : Token} (used : (s.core g.core).token? (fTok w) = some tk)
include used

theorem twaitIssue_denied (other : tk.owner ≠ g.slot) :
    twaitIssue g w s gr = groupOnly g (fun q => q.uSet (fUDST w) 0x0C) s gr := by
  rw [twaitIssue, if_neg (Nat.not_le.mpr tok), used]
  exact if_pos other

variable (own : tk.owner = g.slot)
include own

theorem twaitIssue_busy (busy : tk.done = false) :
    twaitIssue g w s gr = .done (s.setGroup g { gr with hold := .token (fTok w) w }) := by
  rw [twaitIssue, if_neg (Nat.not_le.mpr tok), used]
  simp [own, busy]

theorem twaitIssue_poisoned (done : tk.done = true) (bad : tk.status = Status.poisoned) :
    twaitIssue g w s gr = .exc { gr.exc cPoison 0x02 with aux := BitVec.ofNat 8 (fTok w) } := by
  rw [twaitIssue, if_neg (Nat.not_le.mpr tok), used]
  simp [own, done, bad]

theorem twaitIssue_done (done : tk.done = true) (good : tk.status ≠ Status.poisoned) :
    twaitIssue g w s gr = .done (s.twaitDone g gr w (fTok w) tk) := by
  rw [twaitIssue, if_neg (Nat.not_le.mpr tok), used]
  simp [own, done, good]

end

/-- What TWAIT returns: the status in [7:0] and the flags in [13:8] (R154). -/
theorem statusWord_eq (fl : BitVec 6) (st : Status) :
    (fl ++ st : BitVec 14).setWidth 64 = BitVec.ofNat 64 (st.toNat + 2 ^ 8 * fl.toNat) := by
  apply BitVec.eq_of_toNat_eq
  rw [BitVec.toNat_setWidth, BitVec.toNat_append, BitVec.toNat_ofNat, ← Nat.shiftLeft_add_eq_or_of_lt st.isLt, Nat.shiftLeft_eq]
  ring_nf

/-- TWAIT on a DONE token: the register, and the token is FREE. -/
theorem State.twaitDone_spec {s : State} {g : GroupRef} {gr : Group} (held : gr.hold = .none) {w : BitVec 64} {n : Nat} {tk : Token}
    (good : tk.status ≠ Status.poisoned) :
    let u := s.twaitDone g gr w n tk
    u = { s with cores := u.cores } ∧ (∀ m, m ≠ g.core → u.core m = s.core m) ∧
    u.core g.core = { s.core g.core with groups := (u.core g.core).groups, tokens := (u.core g.core).tokens } ∧
    (∀ k, (u.core g.core).token? k = if k = n then none else (s.core g.core).token? k) ∧
    u.group? g = some (gr.uSet (fUDST w) (BitVec.ofNat 64 (tk.status.toNat + 2 ^ 8 * tk.flags.toNat))).advance := by
  have still : ({ gr with hold := .none } : Group) = gr := by rw [← held]
  have freed : s.twaitDone g gr w n tk =
      (s.setGroup g (gr.uSet (fUDST w) (BitVec.ofNat 64 (tk.status.toNat + 2 ^ 8 * tk.flags.toNat))).advance).freeToken g.core n := by
    rw [State.twaitDone, if_neg good, still, statusWord_eq]
  generalize (gr.uSet (fUDST w) (BitVec.ofNat 64 (tk.status.toNat + 2 ^ 8 * tk.flags.toNat))).advance = q at freed
  rw [freed]
  have core : ((s.setGroup g q).freeToken g.core n).core g.core =
      { (s.setGroup g q).core g.core with tokens := SMap.erase ((s.setGroup g q).core g.core).tokens n } :=
    State.core_setCore_self ..
  refine ⟨rfl, fun m hm => ?_, ?_, fun k => ?_, ?_⟩
  · rw [State.freeToken, State.core_setCore, if_neg hm, State.setGroup_core_other s g q hm]
  · rw [core, State.setGroup_core]
  · unfold Core.token?
    rw [core, SMap.find?_erase, State.setGroup_core]
  · unfold State.group?
    rw [core, State.setGroup_core, SMap.find?_put, if_pos rfl]

/-- TTEST shows whether the token is DONE and the group's. -/
theorem ttest_becomes {s : State} {g : GroupRef} {gr : Group} (h : Ready s g gr) (f : BitVec 48)
    (tok : fTok (opWord f 0xC009) < 24) :
    ∃ x, PredsBecome (.ttest g f) s g gr (fld (opWord f 0xC009) 48 3) (fun i => gr.active.getLsbD i) (fun _ => x) ∧
      (x = true ↔ ∃ k, (s.core g.core).token? (fTok (opWord f 0xC009)) = some k ∧ k.done = true ∧ k.owner = g.slot) := by
  have range : fld (opWord f 0xC009) 48 3 < 8 := (BitVec.extractLsb' 48 3 (opWord f 0xC009)).isLt
  refine ⟨_, pSet_becomes h (exec_ttest g f s) range (if_neg (Nat.not_le.mpr tok)), ?_⟩
  cases (s.core g.core).token? (fTok (opWord f 0xC009)) with
  | none => simp
  | some k => simp

/-- Settles O16, by the branches of TWAIT in the order of R154, and the one predicate that TTEST writes. -/
theorem tokenWaits : Obligations.TokenWaits := by
  unfold Obligations.TokenWaits
  intro g f s gr h w tk
  have twait := exec_twait g f s
  have tok : fTok w = fTok (opWord f 0xC008) := fTok_opWord ..
  have dst : fUDST w = fUDST (opWord f 0xC008) := fUDST_opWord ..
  have tokT : fTok w = fTok (opWord f 0xC009) := fTok_opWord ..
  refine ⟨fun lt => ?_, fun ge => ⟨?_, ?_⟩⟩
  · have here : (s.core g.core).token? (fTok (opWord f 0xC008)) = tk := by rw [← tok]
    rw [tok, dst]
    rw [tok] at lt
    refine ⟨fun free => ?_, fun k used other => ?_, fun k used own busy => ?_, fun k used own done good => ?_,
      fun k used own done bad => ?_, ?_⟩
    · exact uSet_becomes h twait (twaitIssue_free lt (here.trans free))
    · exact uSet_becomes h twait (twaitIssue_denied lt (here.trans used) other)
    · exact ⟨_, issued_done h twait (twaitIssue_busy lt (here.trans used) own busy), State.setGroup_countSlot ..⟩
    · obtain ⟨rest, cores, core, tokens, group⟩ := State.twaitDone_spec (State.issuer_hold h.issuer) (s := s) (g := g)
        (w := opWord f 0xC008) (n := fTok (opWord f 0xC008)) good
      refine ⟨_, _, issued_done h twait (twaitIssue_done lt (here.trans used) own done good),
        (State.countSlot_group? ..).trans group, rfl, fun r => Group.uGet_uSet .., State.countSlot_coreFrame rest cores .., ?_, ?_⟩
      · intro n
        rw [State.countSlot_core, tokens]
      · rw [State.countSlot_core]
        exact core
    · exact issued_raises h twait (twaitIssue_poisoned lt (here.trans used) own done bad)
    · obtain ⟨x, becomes, shows⟩ := ttest_becomes h f (by rw [← tokT, tok]; exact lt)
      rw [fld_opWord f 0xC009 0 48 3 (by decide)] at becomes
      rw [← tokT] at shows
      exact ⟨x, becomes, shows⟩
  · exact issued_raises h twait (if_pos (tok ▸ ge))
  · exact issued_raises h (exec_ttest g f s) (if_pos (tokT ▸ ge))

end Sys2Proof.Machine
end

section
/-! SUPPORT and proof. The issue of asynchronous operations (R136, R145, R147, R148, R152, R207): statement O13. -/

namespace Sys2Proof.Machine
open Sys2Proof

/-! ### Fields of the word and what the checks read of it (R145, R146): none is of the opcode's bits -/

section
variable (f : BitVec 48) (op op' : Nat)

theorem fAmask_opWord : fAmask (opWord f op) = fAmask (opWord f op') := opWord_extractLsb' f op op' 33 4 (by decide)
theorem fD0_opWord : fD0 (opWord f op) = fD0 (opWord f op') := fld_opWord f op op' 21 4 (by decide)
theorem fD1_opWord : fD1 (opWord f op) = fD1 (opWord f op') := fld_opWord f op op' 25 4 (by decide)
theorem fD2_opWord : fD2 (opWord f op) = fD2 (opWord f op') := fld_opWord f op op' 29 4 (by decide)
theorem fCol0_opWord : fCol0 (opWord f op) = fCol0 (opWord f op') := fld_opWord f op op' 48 7 (by decide)
theorem fWhalf_opWord : fWhalf (opWord f op) = fWhalf (opWord f op') := fld_opWord f op op' 56 1 (by decide)
theorem fAccRow_opWord : fAccRow (opWord f op) = fAccRow (opWord f op') := fld_opWord f op op' 48 7 (by decide)
theorem fPack_opWord : fPack (opWord f op) = fPack (opWord f op') := fld_opWord f op op' 57 2 (by decide)
theorem fDrnRows_opWord : fDrnRows (opWord f op) = fDrnRows (opWord f op') :=
  congrArg (· + 1) (fld_opWord f op op' 56 7 (by decide))

theorem wldColumns_opWord (rows : Nat) : wldColumns (opWord f op) rows = wldColumns (opWord f op') rows := by
  rw [wldColumns, wldColumns, fAmask_opWord f op op', fCol0_opWord f op op']

theorem tagsRead_opWord (c : Core) : c.tagsRead (opWord f op) = c.tagsRead (opWord f op') := by
  rw [Core.tagsRead, Core.tagsRead, fAmask_opWord f op op', fWhalf_opWord f op op']

theorem wldFault_opWord (d : BitVec 256) : wldFault (opWord f op) d = wldFault (opWord f op') d := by
  rw [wldFault, wldFault, wldColumnsBad, wldColumnsBad, fAmask_opWord f op op', fCol0_opWord f op op']

theorem streamOf_opWord (d : BitVec 256) (wf : BitVec 4) (h : Bool) : streamOf (opWord f op) d wf h = streamOf (opWord f op') d wf h := by
  rw [streamOf, streamOf, fPack_opWord f op op']

theorem mmaFault_opWord (d : BitVec 256) (ts : List (Option WTag)) (h : Bool) :
    mmaFault (opWord f op) d ts h = mmaFault (opWord f op') d ts h := by
  unfold mmaFault mmaLenBad
  rw [fPack_opWord f op op', fAccRow_opWord f op op']
  simp only [streamOf_opWord f op op']

theorem drnFault_opWord (d e : BitVec 256) : drnFault (opWord f op) d e = drnFault (opWord f op') d e := by
  rw [drnFault, drnFault, drnPast, drnPast, drnCols, drnCols, fAmask_opWord f op op', fAccRow_opWord f op op',
    fDrnRows_opWord f op op']

theorem TakesToken.opWord {s : State} {core tok : Nat} (h : TakesToken s core (opWord f op) tok) :
    TakesToken s core (opWord f op') tok := by
  unfold TakesToken at *
  rwa [← fTok_opWord f op op']

end

/-! ### The token of an operation (R152) -/

theorem Core.takeToken_named {c : Core} {k : Nat} (lt : k < 24) (used : c.token? k ≠ none) : c.takeToken k = .error 0x01 := by
  rw [Core.takeToken, if_neg (by omega), if_neg used]

theorem Core.takeToken_full {c : Core} (full : ∀ k < 24, c.token? k ≠ none) : c.takeToken 31 = .error 0x02 := by
  have none : (List.range 24).find? (fun t => decide (c.token? t = none)) = none :=
    List.find?_eq_none.mpr fun k hk => by simpa using full k (List.mem_range.mp hk)
  rw [Core.takeToken, if_pos rfl, none]

theorem TakesToken.takeToken {s : State} {core tok : Nat} {w : BitVec 64} (h : TakesToken s core w tok) :
    (s.core core).takeToken (fTok w) = .ok tok ∧ ¬(24 ≤ fTok w ∧ fTok w ≠ 31) := by
  obtain ⟨free, lt, named | ⟨any, before⟩⟩ := h
  · refine ⟨?_, by omega⟩
    rw [Core.takeToken, if_neg (by omega), named, if_pos free]
  · have lowest : (List.range 24).find? (fun t => decide ((s.core core).token? t = none)) = some tok := by
      refine List.find?_range_eq_some.mpr ⟨decide_eq_true free, List.mem_range.mpr lt, fun k hk => ?_⟩
      simpa using before k hk
    refine ⟨?_, by omega⟩
    rw [Core.takeToken, if_pos any, lowest]

/-! ### The issue of an asynchronous instruction (R147, R148, R207) -/

/-- The core once an operation has joined its queue with its token, and load tags are set. -/
def Core.queueOp (c : Core) (slot tok : Nat) (o : MxOp) (tags : SMap WTag) : Core :=
  { c with tokens := SMap.put c.tokens tok ⟨false, slot, 0, 0⟩, ops := c.ops ++ [o], wTags := tags }

/-- The group goes on, and where its word names no token it learns which it has. -/
def Group.queued (gr : Group) (w : BitVec 64) (tok : Nat) : Group :=
  (if fTok w = 31 then gr.uSet (fUDST w) (BitVec.ofNat 64 tok) else gr).advance

/-- The state that an asynchronous instruction leaves. -/
def State.queueOp (s : State) (g : GroupRef) (gr : Group) (w : BitVec 64) (tok : Nat) (o : MxOp) (tags : SMap WTag) : State :=
  (s.setCore g.core ((s.core g.core).queueOp g.slot tok o tags)).setGroup g (gr.queued w tok)

section
variable {s : State} {g : GroupRef} {gr : Group} {w : BitVec 64} {cls : Nat} {bad : Bool} {plan : State → Group → AsyncPlan}
  {start : State → State} {c : Instr} (h : Ready s g gr) (hc : exec c s = asyncIssue g w cls bad plan start s)
include h hc

theorem async_undefined (field : bad = true) : Raises c s g cls w (gr.exc cIllegal 0x02) :=
  issued_raises h hc (if_pos (by simp [field]))

variable (field : bad = false)
include field

theorem async_divergent (lt : fTok w < 24) (mask : gr.active ≠ 0xFFFFFFFF) : Raises c s g cls w (gr.exc cDivergent 0x00) := by
  refine issued_raises h hc ((if_neg ?_).trans (if_pos mask))
  simp [field, lt]

variable (mask : gr.active = 0xFFFFFFFF)
include mask

theorem async_noToken (named : ¬(24 ≤ fTok w ∧ fTok w ≠ 31)) {d : BitVec 8}
    (none : (s.core g.core).takeToken (fTok w) = .error d) :
    Raises c s g cls w { gr.exc cToken d with aux := BitVec.ofNat 8 (fTok w) } := by
  refine issued_raises h hc ((if_neg ?_).trans ((if_neg (not_not.mpr mask)).trans ?_))
  · simpa [field] using named
  · rw [none]

/-- An instruction that passes its checks. -/
theorem async_queues {tok : Nat} (token : TakesToken s g.core w tok) (fault : (plan s gr).fault = none)
    (aligned : (plan s gr).misaligned = false) (tags : SMap WTag)
    (tagged : ∀ c, c.wTags = (s.core g.core).wTags → (plan s gr).after c = { c with wTags := tags }) :
    exec c s = .next ((start (s.queueOp g gr w tok ((plan s gr).op tok) tags)).countSlot g.core 0x0301 cls) := by
  obtain ⟨takes, named⟩ := token.takeToken
  refine issued_done h hc ((if_neg ?_).trans ((if_neg (not_not.mpr mask)).trans ?_))
  · simpa [field] using named
  · rw [takes]
    dsimp only
    rw [fault]
    dsimp only
    rw [aligned, if_neg Bool.false_ne_true, tagged]
    · rfl
    · rfl

end

/-! ### What the issue leaves -/

theorem Group.queued_spec (gr : Group) (w : BitVec 64) (tok : Nat) :
    gr.queued w tok = { gr with pc := gr.pc + 8, u := (gr.queued w tok).u } ∧
    ∀ r, (gr.queued w tok).uGet r = if fTok w = 31 ∧ r = fUDST w then BitVec.ofNat 64 tok else gr.uGet r := by
  unfold Group.queued
  by_cases any : fTok w = 31
  · simp only [any, true_and, if_true]
    exact ⟨rfl, fun r => Group.uGet_uSet ..⟩
  · simp only [any, false_and, if_false]
    exact ⟨rfl, fun r => rfl⟩

section
variable (s : State) (g : GroupRef) (gr : Group) (w : BitVec 64) (tok : Nat) (o : MxOp) (tags : SMap WTag)

theorem State.queueOp_core : (s.queueOp g gr w tok o tags).core g.core =
    { (s.core g.core).queueOp g.slot tok o tags with
      groups := SMap.put (s.core g.core).groups g.slot (gr.queued w tok) } := by
  rw [State.queueOp, State.setGroup_core, State.core_setCore_self]
  rfl

theorem State.queueOp_group? (sl : Nat) : (s.queueOp g gr w tok o tags).group? ⟨g.core, sl⟩ =
    if sl = g.slot then some (gr.queued w tok) else s.group? ⟨g.core, sl⟩ := by
  unfold State.group?
  rw [State.queueOp_core]
  exact SMap.find?_put ..

variable {o tok} {kind : OpKind}

/-- The operation joins the queue. -/
theorem State.queueOp_joins (of : o.kind = kind ∧ o.tok = tok ∧ o.owner = g.slot ∧ o.word = w ∧ o.started = false ∧
    o.d0 = gr.dGet (fD0 w) ∧ (kind = .drn ∨ kind = .chRun → o.d1 = gr.dGet (fD1 w))) :
    JoinsQueue s (s.queueOp g gr w tok o tags) g gr w kind tok := by
  obtain ⟨goesOn, told⟩ := gr.queued_spec w tok
  refine ⟨rfl, fun m hm => ?_, ?_, fun sl hsl => ?_, ⟨_, ?_, goesOn, told⟩, fun k => ?_, ⟨o, ?_, of⟩⟩
  · rw [State.queueOp, State.setGroup_core_other _ _ _ hm, State.core_setCore, if_neg hm]
  · rw [State.queueOp_core]
    rfl
  · rw [State.queueOp_group?, if_neg hsl]
  · exact (State.queueOp_group? ..).trans (if_pos rfl)
  · unfold Core.token?
    rw [State.queueOp_core]
    exact SMap.find?_put ..
  · rw [State.queueOp_core]
    rfl

end

/-! ### The tags of a WLD (R136) -/

/-- One value is put at the keys of elements of a list: it reads back at each of these keys. -/
theorem SMap.find?_foldl_put {α β : Type} {p : α → Prop} [DecidablePred p] (key : α → Nat) (v : β) {x : α} (hp : p x) :
    ∀ (l : List α) (m : SMap β), x ∈ l ∨ SMap.find? m (key x) = some v →
      SMap.find? (l.foldl (fun m q => if p q then SMap.put m (key q) v else m) m) (key x) = some v
  | [], m, h => h.resolve_left (by simp)
  | y :: l, m, h => by
    refine SMap.find?_foldl_put key v hp l _ ?_
    rw [List.mem_cons, or_assoc] at h
    dsimp only
    rcases h with rfl | later | there
    · right
      rw [if_pos hp, SMap.find?_put, if_pos rfl]
    · exact .inl later
    · right
      split
      · rw [SMap.find?_put]
        split
        · rfl
        · exact there
      · exact there

theorem Core.setTags_find? (c : Core) (w : BitVec 64) (d : BitVec 256) {a col r : Nat} (filled : (a, col, r) ∈ wldColumns w (tRows d))
    (first : col % 32 = 0) : SMap.find? (c.setTags w d).wTags (tagKey a (fWhalf w) (col / 32)) = some ⟨tFmt d, tLen d⟩ :=
  SMap.find?_foldl_put (p := fun q : Nat × Nat × Nat => q.2.1 % 32 = 0) (fun q => tagKey q.1 (fWhalf w) (q.2.1 / 32)) _
    (x := (a, col, r)) first _ _ (.inl filled)

theorem Core.setTags_congr {c c' : Core} (h : c.wTags = c'.wTags) (w : BitVec 64) (d : BitVec 256) :
    c.setTags w d = { c with wTags := (c'.setTags w d).wTags } := by
  simp only [Core.setTags, h]

/-! ### The four instructions -/

/-- What MX.WLD checks and queues. -/
def wldPlan (g : GroupRef) (w : BitVec 64) (_ : State) (gr : Group) : AsyncPlan :=
  { fault := wldFault w (gr.dGet (fD0 w)), misaligned := tensorMisaligned (gr.dGet (fD0 w))
    op := newOp g w .wld (gr.dGet (fD0 w)) 0 0, after := fun c => c.setTags w (gr.dGet (fD0 w)) }

/-- What MX.MMA checks and queues. -/
def mmaPlan (g : GroupRef) (w : BitVec 64) (s : State) (gr : Group) : AsyncPlan :=
  let ts := (s.core g.core).tagsRead w
  { fault := mmaFault w (gr.dGet (fD0 w)) ts (s.heritage g.core), misaligned := tensorMisaligned (gr.dGet (fD0 w))
    op := newOp g w .mma (gr.dGet (fD0 w)) 0 ((tagFormat ts).getD 0), after := fun c => c }

/-- What MX.DRN checks and queues. -/
def drnPlan (g : GroupRef) (w : BitVec 64) (_ : State) (gr : Group) : AsyncPlan :=
  { fault := drnFault w (gr.dGet (fD0 w)) (gr.dGet (fD1 w))
    misaligned := drnMisaligned (gr.dGet (fD0 w)) (gr.dGet (fD1 w))
    op := newOp g w .drn (gr.dGet (fD0 w)) (gr.dGet (fD1 w)) 0, after := fun c => c }

/-- What CH.RUN checks and queues. -/
def chainPlan (g : GroupRef) (w : BitVec 64) (_ : State) (gr : Group) : AsyncPlan :=
  let d := gr.dGet (fD0 w)
  let i := gr.dGet (fD1 w)
  let o := gr.dGet (fD2 w)
  let e := gr.dGet (fld w 48 4)
  let r := gr.dGet (fld w 52 4)
  { fault := chainFault d i o e r, misaligned := chainMisaligned d i o e r
    op := fun t => { newOp g w .chRun d i 0 t with d2 := o, d3 := e, d4 := r, uarg := gr.uGet (fld w 56 6) }
    after := fun c => c }

section
variable (g : GroupRef) (f : BitVec 48) (s : State)

theorem fAmask_named {f : BitVec 48} (arrays : fAmask (opWord f 0) ≠ 0) (op : Nat) : decide (fAmask (opWord f op) = 0) = false :=
  decide_eq_false (fAmask_opWord f op 0 ▸ arrays)

/-- A matrix instruction issues by its plan. -/
def IssuesMatrix (c : Instr) (op : Nat) (plan : State → Group → AsyncPlan) : Prop :=
  exec c s = asyncIssue g (opWord f op) 9 (decide (fAmask (opWord f op) = 0)) plan (fun s => s) s

theorem issues_mxWld : IssuesMatrix g f s (.mxWld g f) 0xC001 (wldPlan g (opWord f 0xC001)) := rfl
theorem issues_mxMma : IssuesMatrix g f s (.mxMma g f) 0xC002 (mmaPlan g (opWord f 0xC002)) := rfl
theorem issues_mxDrn : IssuesMatrix g f s (.mxDrn g f) 0xC003 (drnPlan g (opWord f 0xC003)) := rfl
theorem exec_chRun : exec (.chRun g f) s =
    asyncIssue g (opWord f 0x7001) 7 false (chainPlan g (opWord f 0x7001)) (fun s => s.startChain g.core) s := rfl

variable {g f s} {gr : Group} (h : Ready s g gr) {c : Instr} {op : Nat} {plan : State → Group → AsyncPlan}
  (hc : IssuesMatrix g f s c op plan)
include h hc

theorem IssuesMatrix.undefined (mask : fAmask (opWord f 0) = 0) : Raises c s g 9 (opWord f op) (gr.exc cIllegal 0x02) :=
  async_undefined h hc (decide_eq_true ((fAmask_opWord f op 0).trans mask))

variable (arrays : fAmask (opWord f 0) ≠ 0)
include arrays

theorem IssuesMatrix.divergent (lt : fTok (opWord f 0) < 24) (part : gr.active ≠ 0xFFFFFFFF) :
    Raises c s g 9 (opWord f op) (gr.exc cDivergent 0x00) :=
  async_divergent h hc (fAmask_named arrays op) (fTok_opWord f op 0 ▸ lt) part

variable (all : gr.active = 0xFFFFFFFF)
include all

theorem IssuesMatrix.inUse (lt : fTok (opWord f 0) < 24) (used : (s.core g.core).token? (fTok (opWord f 0)) ≠ none) :
    Raises c s g 9 (opWord f op) { gr.exc cToken 0x01 with aux := BitVec.ofNat 8 (fTok (opWord f 0)) } := by
  rw [fTok_opWord f 0 op] at *
  exact async_noToken h hc (fAmask_named arrays op) all (by omega) (Core.takeToken_named lt used)

theorem IssuesMatrix.exhausted (any : fTok (opWord f 0) = 31) (full : ∀ k < 24, (s.core g.core).token? k ≠ none) :
    Raises c s g 9 (opWord f op) { gr.exc cToken 0x02 with aux := 31 } := by
  rw [fTok_opWord f 0 op] at any
  have raises := async_noToken h hc (fAmask_named arrays op) all (by omega) (any ▸ Core.takeToken_full full)
  rwa [any] at raises

/-- A matrix instruction that passes its checks. -/
theorem IssuesMatrix.queues {tok : Nat} (token : TakesToken s g.core (opWord f 0) tok) (fault : (plan s gr).fault = none)
    (aligned : (plan s gr).misaligned = false) (tags : SMap WTag)
    (tagged : ∀ c, c.wTags = (s.core g.core).wTags → (plan s gr).after c = { c with wTags := tags }) :
    exec c s = .next ((s.queueOp g gr (opWord f op) tok ((plan s gr).op tok) tags).countSlot g.core 0x0301 9) :=
  async_queues h hc (fAmask_named arrays op) all (token.opWord f 0 op) fault aligned tags tagged

end

section
variable {g : GroupRef} {f : BitVec 48} {s : State} {gr : Group} {tok : Nat} (h : Ready s g gr) (all : gr.active = 0xFFFFFFFF)
  (token : TakesToken s g.core (opWord f 0) tok)
include h all token

theorem mxWld_queues (arrays : fAmask (opWord f 0) ≠ 0) (fault : wldFault (opWord f 0) (gr.dGet (fD0 (opWord f 0))) = none)
    (aligned : tensorMisaligned (gr.dGet (fD0 (opWord f 0))) = false) :
    ∃ t, exec (.mxWld g f) s = .next (t.countSlot g.core 0x0301 9) ∧ JoinsQueue s t g gr (opWord f 0xC001) .wld tok ∧
      ∀ a c r, (a, c, r) ∈ wldColumns (opWord f 0) (tRows (gr.dGet (fD0 (opWord f 0)))) → c % 32 = 0 →
        SMap.find? (t.core g.core).wTags (tagKey a (fWhalf (opWord f 0)) (c / 32)) =
          some ⟨tFmt (gr.dGet (fD0 (opWord f 0))), tLen (gr.dGet (fD0 (opWord f 0)))⟩ := by
  rw [fD0_opWord f 0 0xC001] at *
  rw [wldFault_opWord f 0 0xC001] at fault
  rw [wldColumns_opWord f 0 0xC001, fWhalf_opWord f 0 0xC001]
  refine ⟨_, (issues_mxWld g f s).queues h arrays all token fault aligned
    ((s.core g.core).setTags (opWord f 0xC001) (gr.dGet (fD0 (opWord f 0xC001)))).wTags (fun c hc => Core.setTags_congr hc ..),
    State.queueOp_joins _ _ _ _ _ ⟨rfl, rfl, rfl, rfl, rfl, rfl, nofun⟩, fun a c r filled first => ?_⟩
  rw [State.queueOp_core]
  exact Core.setTags_find? _ _ _ filled first

theorem mxMma_queues (arrays : fAmask (opWord f 0) ≠ 0) (fault : mmaFault (opWord f 0) (gr.dGet (fD0 (opWord f 0)))
      ((s.core g.core).tagsRead (opWord f 0)) (s.heritage g.core) = none)
    (aligned : tensorMisaligned (gr.dGet (fD0 (opWord f 0))) = false) :
    ∃ t, exec (.mxMma g f) s = .next (t.countSlot g.core 0x0301 9) ∧ JoinsQueue s t g gr (opWord f 0xC002) .mma tok ∧
      (t.core g.core).wTags = (s.core g.core).wTags := by
  rw [fD0_opWord f 0 0xC002] at *
  rw [mmaFault_opWord f 0 0xC002, tagsRead_opWord f 0 0xC002] at fault
  refine ⟨_, (issues_mxMma g f s).queues h arrays all token fault aligned (s.core g.core).wTags (fun c hc => ?_),
    State.queueOp_joins _ _ _ _ _ ⟨rfl, rfl, rfl, rfl, rfl, rfl, nofun⟩, ?_⟩
  · rw [← hc]
    rfl
  · rw [State.queueOp_core]
    rfl

theorem mxDrn_queues (arrays : fAmask (opWord f 0) ≠ 0)
    (fault : drnFault (opWord f 0) (gr.dGet (fD0 (opWord f 0))) (gr.dGet (fD1 (opWord f 0))) = none)
    (aligned : drnMisaligned (gr.dGet (fD0 (opWord f 0))) (gr.dGet (fD1 (opWord f 0))) = false) :
    ∃ t, exec (.mxDrn g f) s = .next (t.countSlot g.core 0x0301 9) ∧ JoinsQueue s t g gr (opWord f 0xC003) .drn tok ∧
      (t.core g.core).wTags = (s.core g.core).wTags := by
  rw [fD0_opWord f 0 0xC003, fD1_opWord f 0 0xC003] at *
  rw [drnFault_opWord f 0 0xC003] at fault
  refine ⟨_, (issues_mxDrn g f s).queues h arrays all token fault aligned (s.core g.core).wTags (fun c hc => ?_),
    State.queueOp_joins _ _ _ _ _ ⟨rfl, rfl, rfl, rfl, rfl, rfl, fun _ => rfl⟩, ?_⟩
  · rw [← hc]
    rfl
  · rw [State.queueOp_core]
    rfl

theorem chRun_queues
    (fault : chainFault (gr.dGet (fD0 (opWord f 0))) (gr.dGet (fD1 (opWord f 0))) (gr.dGet (fD2 (opWord f 0)))
      (gr.dGet (fld (opWord f 0) 48 4)) (gr.dGet (fld (opWord f 0) 52 4)) = none)
    (aligned : chainMisaligned (gr.dGet (fD0 (opWord f 0))) (gr.dGet (fD1 (opWord f 0))) (gr.dGet (fD2 (opWord f 0)))
      (gr.dGet (fld (opWord f 0) 48 4)) (gr.dGet (fld (opWord f 0) 52 4)) = false) :
    ∃ t, exec (.chRun g f) s = .next ((t.startChain g.core).countSlot g.core 0x0301 7) ∧
      JoinsQueue s t g gr (opWord f 0x7001) .chRun tok ∧ (t.core g.core).wTags = (s.core g.core).wTags := by
  rw [fD0_opWord f 0 0x7001, fD1_opWord f 0 0x7001, fD2_opWord f 0 0x7001, fld_opWord f 0 0x7001 48 4 (by decide),
    fld_opWord f 0 0x7001 52 4 (by decide)] at *
  refine ⟨_, async_queues h (exec_chRun g f s) rfl all (token.opWord f 0 0x7001) fault aligned (s.core g.core).wTags
    (fun c hc => ?_), State.queueOp_joins _ _ _ _ _ ⟨rfl, rfl, rfl, rfl, rfl, rfl, fun _ => rfl⟩, ?_⟩
  · rw [← hc]
    rfl
  · rw [State.queueOp_core]
    rfl

end

/-- Settles O13: the four instructions issue by one function, of which the cases are those of the statement. -/
theorem operationsIssue : Obligations.OperationsIssue := by
  unfold Obligations.OperationsIssue
  constructor
  · intro g f s gr tok h all w d token
    exact ⟨mxWld_queues h all token, mxMma_queues h all token, mxDrn_queues h all token, chRun_queues h all token⟩
  · intro g f s gr h w each
    refine ⟨fun mask => ?_, fun arrays lt part => ⟨?_, ?_⟩, fun arrays all lt used => ?_, fun arrays all any full => ?_⟩
    · exact ⟨(issues_mxWld g f s).undefined h mask, (issues_mxMma g f s).undefined h mask, (issues_mxDrn g f s).undefined h mask⟩
    · exact ⟨(issues_mxWld g f s).divergent h arrays lt part, (issues_mxMma g f s).divergent h arrays lt part,
        (issues_mxDrn g f s).divergent h arrays lt part⟩
    · exact async_divergent h (exec_chRun g f s) rfl (fTok_opWord f 0x7001 0 ▸ lt) part
    · exact ⟨(issues_mxWld g f s).inUse h arrays all lt used, (issues_mxMma g f s).inUse h arrays all lt used,
        (issues_mxDrn g f s).inUse h arrays all lt used⟩
    · exact ⟨(issues_mxWld g f s).exhausted h arrays all any full, (issues_mxMma g f s).exhausted h arrays all any full,
        (issues_mxDrn g f s).exhausted h arrays all any full⟩

end Sys2Proof.Machine
end

section
/-! SUPPORT and proof. The start of a queued operation (R140, R149, R150, R161): statement O14. -/

namespace Sys2Proof.Machine
open Sys2Proof

/-! ### The operation of a token -/

theorem Core.op?_tok {c : Core} {tok : Nat} {o : MxOp} (h : c.op? tok = some o) : o.tok = tok := by
  unfold Core.op? at h
  simpa using List.find?_some h

/-- An operation takes a new value: it is found by its token. -/
theorem State.setOp_op? {s : State} {core tok : Nat} {o : MxOp} (h : (s.core core).op? tok = some o) {o' : MxOp} (same : o'.tok = tok) :
    ((s.setOp core o').core core).op? tok = some o' := by
  have kept : (fun q : MxOp => decide (q.tok = tok)) ∘ (fun q => if q.tok = o'.tok then o' else q) = fun q => decide (q.tok = tok) := by
    funext q
    by_cases here : q.tok = tok <;> simp [same, here]
  unfold Core.op? at *
  rw [State.setOp, State.core_setCore_self, List.find?_map, kept, h]
  exact congrArg some (if_pos ((Core.op?_tok h).trans same.symm))

theorem State.startOp_op? {s : State} {core tok : Nat} {o : MxOp} (h : (s.core core).op? tok = some o) :
    ((s.startOp core tok).core core).op? tok = some { o with started := true } := by
  rw [State.startOp, h]
  have same : o.tok = tok := Core.op?_tok h
  exact State.setOp_op? h same

theorem State.startOp_rest (s : State) (core tok : Nat) : s.startOp core tok = { s with cores := (s.startOp core tok).cores } := by
  unfold State.startOp
  split <;> rfl

/-! ### What a start waits for -/

/-- Operations of a kind before it, and those of another kind that meet it. -/
theorem filter_waits (before : List MxOp) (k k' : OpKind) (meets : MxOp → Bool) :
    (before.filter fun q => decide (q.kind = k) || (decide (q.kind = k') && meets q)) =
      before.filter fun q => decide (q.kind = k ∨ (q.kind = k' ∧ meets q = true)) :=
  List.filter_congr fun q _ => by simp

theorem all_started (l : List MxOp) : l.all (·.started) = true ↔ ∀ q ∈ l, q.started = true := List.all_eq_true

/-- No operation of a kind meets it. -/
theorem any_meets (before : List MxOp) (k : OpKind) (meets : MxOp → Bool) :
    (!before.any fun q => decide (q.kind = k) && meets q) = true ↔ ∀ q ∈ before, q.kind = k → ¬meets q = true := by
  simp

section
variable {s : State} {core tok : Nat} {o : MxOp} {before : List MxOp} (room : s.log.roomy = true)
include room

theorem exec_mxWldStart (queued : s.queued core tok .wld = some (o, before)) :
    let wait := before.filter fun q => q.kind = .wld ∨ (q.kind = .mma ∧ q.sharesHalf o)
    exec (.mxWldStart core tok) s = .next (if ∀ q ∈ wait, q.started then (s.runOps core wait).startOp core tok else s) := by
  intro wait
  have run : exec (.mxWldStart core tok) s = execMxWldStart core tok s := rfl
  rw [run, execMxWldStart, withRoom_roomy room, queued]
  dsimp only
  rw [filter_waits, ← apply_ite Host.Outcome.next]
  simp only [all_started, wait]

theorem exec_mxMmaStart (queued : s.queued core tok .mma = some (o, before)) :
    let wait := before.filter fun q => q.kind = .mma ∨ (q.kind = .wld ∧ q.sharesHalf o)
    exec (.mxMmaStart core tok) s = .next (
      if ((∀ q ∈ wait, q.started) ∧ (s.core core).allAwake o) ∧ ∀ q ∈ before, q.kind = .drn → ¬q.sharesRows o then
        (s.runOps core wait).startOp core tok
      else s) := by
  intro wait
  have run : exec (.mxMmaStart core tok) s = execMxMmaStart core tok s := rfl
  rw [run, execMxMmaStart, withRoom_roomy room, queued]
  dsimp only
  rw [filter_waits, ← apply_ite Host.Outcome.next]
  simp only [Bool.and_eq_true, any_meets, all_started, wait]

theorem exec_mxDrnStart (queued : s.queued core tok .drn = some (o, before)) :
    let r := runDrn core o (s.startOp core tok)
    exec (.mxDrnStart core tok) s = .next (
      if (∀ q ∈ before, q.kind = .drn → q.started) ∧ ∀ q ∈ before, q.kind = .mma → ¬q.sharesRows o then
        r.2.putPieces (opOwner core tok) r.1.pieces
      else s) := by
  intro r
  have run : exec (.mxDrnStart core tok) s = execMxDrnStart core tok s := rfl
  rw [run, execMxDrnStart, withRoom_roomy room, queued]
  dsimp only
  rw [← apply_ite Host.Outcome.next]
  simp only [Bool.and_eq_true, any_meets, all_started, List.mem_filter, decide_eq_true_eq, and_imp]
  rfl

end

/-- Settles O14: a start is one conditional, of which the condition is what the statement waits for. -/
theorem operationsStart : Obligations.OperationsStart := by
  unfold Obligations.OperationsStart
  refine ⟨fun s core tok o found => ⟨State.startOp_op? found, s.startOp_rest core tok⟩, ?_⟩
  intro s core tok o before room
  refine ⟨fun queued => ?_, fun queued => ?_, fun queued => ?_⟩
  · intro wait
    refine ⟨fun all => ?_, fun ⟨q, mem, idle⟩ => ?_⟩
    · rw [exec_mxWldStart room queued, if_pos all]
    · rw [exec_mxWldStart room queued, if_neg fun all => idle (all q mem)]
  · intro wait clear
    refine ⟨fun all ⟨awake, rows⟩ => ?_, fun stays => ?_⟩
    · rw [exec_mxMmaStart room queued, if_pos ⟨⟨all, awake⟩, rows⟩]
    · rw [exec_mxMmaStart room queued, if_neg]
      rintro ⟨⟨all, awake⟩, rows⟩
      rcases stays with held | ⟨q, mem, idle⟩
      · exact held ⟨awake, rows⟩
      · exact idle (all q mem)
  · intro clear
    refine ⟨fun free => ⟨_, rfl, ?_⟩, fun held => ?_⟩
    · rw [exec_mxDrnStart room queued, if_pos free]
    · rw [exec_mxDrnStart room queued, if_neg held]

end Sys2Proof.Machine
end

section
/-! SUPPORT. What passing time leaves of the cores: all but the base of CYCLES, which a switch of the counters clears (R447, R456). -/

namespace Sys2Proof.Machine
open Sys2Proof

/-- From `s` to `t` every core has at most another base of CYCLES. -/
structure Rebased (s t : State) : Prop where
  core : ∀ n, t.core n = { s.core n with cycBase := (t.core n).cycBase }

namespace Rebased

theorem of_cores {s t : State} (h : t.cores = s.cores) : Rebased s t := ⟨fun n => by
  unfold State.core
  rw [h]⟩

theorem refl (s : State) : Rebased s s := of_cores rfl

theorem trans {s t u : State} (h : Rebased s t) (k : Rebased t u) : Rebased s u := ⟨fun n => by rw [k.core n, h.core n]⟩

theorem foldl {α : Type} {f : State → α → State} (step : ∀ s x, Rebased s (f s x)) : ∀ (l : List α) (s : State),
    Rebased s (l.foldl f s)
  | [], s => .refl s
  | x :: l, s => (step s x).trans (foldl step l (f s x))

theorem setDisp (s : State) (d : Disp) : Rebased s { s with disp := d } := of_cores rfl
theorem setTally (s : State) (x : Tally) : Rebased s { s with tally := x } := of_cores rfl
theorem setClock (s : State) (c : Clock) (f : Fabric) : Rebased s { s with clk := c, fab := f } := of_cores rfl

end Rebased

theorem State.odSet_rebased (s : State) (k v : Nat) : Rebased s (s.odSet k v) := .of_cores (s.odSet_cores k v)
theorem State.odAdd_rebased (s : State) (k n : Nat) : Rebased s (s.odAdd k n) := s.odSet_rebased ..
theorem State.event_rebased (s : State) (ty inst kind : Nat) (sev : BitVec 2) (l : List (Nat × Nat × Nat)) :
    Rebased s (s.event ty inst kind sev l) := .of_cores (s.event_cores ..)

theorem State.count_rebased (s : State) (set ev n : Nat) (a : Attr) : Rebased s (s.count set ev n a) :=
  .of_cores (by rw [(s.count_frame set ev n a).rest])

theorem State.pmcAdd_rebased (s : State) (set i n : Nat) : Rebased s (s.pmcAdd set i n) := by
  unfold State.pmcAdd
  extract_lets k v t p
  have counted : Rebased s t := s.odSet_rebased ..
  split
  · exact counted.trans (t.odSet_rebased ..)
  · exact counted

theorem State.slotEdges_rebased (s : State) (cycles core : Nat) : Rebased s (s.slotEdges cycles core) := by
  unfold State.slotEdges
  extract_lets uses left back attr t
  have used : Rebased s t := Rebased.foldl (fun u _ => (Rebased.setTally u _).trans (State.count_rebased ..)) _ s
  clear_value t
  exact (used.trans (State.count_rebased ..)).trans (State.count_rebased ..)

theorem State.countEdges_rebased (s : State) (now cycles : Nat) : Rebased s (s.countEdges now cycles) := by
  unfold State.countEdges
  extract_lets sel t cores
  have selected : Rebased s t := Rebased.foldl (fun u _ => u.pmcAdd_rebased ..) _ s
  clear_value t
  exact selected.trans (Rebased.foldl (fun u n => u.slotEdges_rebased _ n) _ t)

theorem State.flow_rebased (s : State) (dt : Nat) : Rebased s (s.flow dt) := by
  unfold State.flow
  extract_lets counting cyc a clk fab b c
  have edges : Rebased s a := by
    unfold a
    split
    · exact .refl s
    · exact s.countEdges_rebased ..
  have moved : Rebased s b := edges.trans (Rebased.setClock a _ _)
  clear_value b
  have slow : Rebased s c := by
    unfold c
    split
    · exact moved.trans (b.odAdd_rebased ..)
    · exact moved
  clear_value c
  split
  · exact slow.trans (c.odAdd_rebased ..)
  · exact slow

theorem State.copyRules_rebased (s : State) (cause ctx : Nat) (epoch : BitVec 32) (t : Nat) :
    Rebased s (s.copyRules cause ctx epoch t) := by
  unfold State.copyRules
  extract_lets u
  have copied : Rebased s u := Rebased.foldl (fun v _ => Rebased.foldl (fun w _ => w.odSet_rebased ..) _ v) _ s
  clear_value u
  exact (copied.trans (u.odSet_rebased ..)).trans (State.event_rebased ..)

theorem State.rulesAtEpoch_rebased (s : State) (ctx : Nat) (epoch : BitVec 32) (t : Nat) : Rebased s (s.rulesAtEpoch ctx epoch t) := by
  unfold State.rulesAtEpoch
  split
  · exact ((s.odSet_rebased ..).trans (State.copyRules_rebased ..)).trans (Rebased.setDisp ..)
  · exact .refl s

theorem State.switchEpoch_rebased (s : State) (ctx : Nat) (epoch : BitVec 32) (t : Nat) : Rebased s (s.switchEpoch ctx epoch t) :=
  ((((s.odSet_rebased ..).trans (State.odSet_rebased ..)).trans (State.event_rebased ..)).trans
    (State.rulesAtEpoch_rebased ..)).trans (Rebased.setDisp ..)

theorem State.latchDump_rebased (s : State) : Rebased s s.latchDump := by
  unfold State.latchDump
  split
  · exact .refl s
  · exact Rebased.setTally ..

theorem State.clearCounters_rebased (s : State) : Rebased s s.clearCounters := by
  unfold State.clearCounters
  extract_lets t
  have zeroed : Rebased s t := Rebased.foldl (fun u _ =>
    (Rebased.foldl (fun v _ => v.odSet_rebased ..) _ u).trans (State.odSet_rebased ..)) _ s
  clear_value t
  refine zeroed.trans (Rebased.foldl (fun u n => ⟨fun m => ?_⟩) _ t)
  rw [State.core_setCore]
  split
  · next here => rw [here]
  · rfl

theorem State.countApply_rebased (s : State) (op : CountOp) : Rebased s (s.countApply op) := by
  unfold State.countApply
  extract_lets tally t
  have taken : Rebased s t := Rebased.setTally ..
  clear_value t
  cases op with
  | freeze => exact taken.trans (Rebased.setTally ..)
  | restart => exact taken.trans (Rebased.setTally ..)
  | clear => exact taken.trans t.clearCounters_rebased

theorem State.arrive_rebased (s : State) : Rebased s s.arrive := by
  unfold State.arrive
  extract_lets a b
  have epochs : Rebased s a := Rebased.foldl (fun t _ => t.switchEpoch_rebased ..) _ s
  clear_value a
  have dump : Rebased s b := by
    unfold b
    split
    · exact epochs.trans a.latchDump_rebased
    · exact epochs
  clear_value b
  split
  · split
    · exact dump.trans (b.countApply_rebased _)
    · exact dump
  · exact dump

theorem State.passTo_rebased : ∀ (k : Nat) (s : State) (t : Nat), Rebased s (State.passTo k s t)
  | 0, s, t => s.flow_rebased _
  | k + 1, s, t => by
    unfold State.passTo
    split
    · split
      · exact ((s.flow_rebased _).trans (State.arrive_rebased _)).trans (State.passTo_rebased k _ t)
      · exact s.flow_rebased _
    · exact s.flow_rebased _

theorem State.advanceTo_rebased (s : State) (t : Nat) : Rebased s (s.advanceTo t) := by
  unfold State.advanceTo
  split
  · exact State.passTo_rebased ..
  · exact .refl s

end Sys2Proof.Machine
end

section
/-! SUPPORT and proof. The waking and gating of arrays (R141): statement O17. -/

namespace Sys2Proof.Machine
open Sys2Proof

theorem Passed.memByte {s t : State} (h : Passed s t) (a : Nat) : t.memByte a = s.memByte a := by
  rw [h.rest]
  rfl

theorem State.advanceTo_later (s : State) (t : Nat) : s.clk.now ≤ (s.advanceTo t).clk.now := by
  by_cases late : s.clk.now < t
  · exact Nat.le_trans (Nat.le_of_lt late) (s.advanceTo_now t)
  · rw [State.advanceTo, if_neg late]

theorem State.advanceTo_zero (s : State) : s.advanceTo 0 = s := if_neg (Nat.not_lt_zero _)

/-- A core takes a new value once the time that it waits for has come. -/
theorem State.advanceTo_setCore (s : State) (time core : Nat) (c : Core) :
    let t := (s.advanceTo time).setCore core c
    t.core core = c ∧ time ≤ t.clk.now ∧ s.clk.now ≤ t.clk.now ∧
    (∀ m, m ≠ core → t.core m = { s.core m with cycBase := (t.core m).cycBase }) ∧ ∀ a, t.memByte a = s.memByte a := by
  refine ⟨State.core_setCore_self .., s.advanceTo_now time, s.advanceTo_later time, fun m hm => ?_, fun a => ?_⟩
  · rw [State.core_setCore, if_neg hm]
    exact (s.advanceTo_rebased time).core m
  · exact (s.advanceTo_passed time).memByte a

/-- The time of a wake: 64 core cycles after the wake before the last (R141). -/
def State.wakeTime (s : State) (core : Nat) : Nat :=
  match (s.core core).wakes with
  | _ :: t :: _ => t + s.cyclesNs 64
  | _ => 0

theorem State.wakeTime_of {s : State} {core x y : Nat} {l : List Nat} (h : (s.core core).wakes = x :: y :: l) :
    s.wakeTime core = y + s.cyclesNs 64 := by
  rw [State.wakeTime, h]

/-- A core whose array is woken. -/
def Core.woken (c : Core) (array now : Nat) : Core :=
  { c with awake := c.awake ||| BitVec.twoPow 4 array, wakes := (now :: c.wakes).take 2
           streamAt := SMap.set 0 c.streamAt array now }

/-- The array is the first that is gated and asked for. -/
theorem Core.asked_head? (c : Core) {array : Nat} (lt : array < 4) :
    ((List.range 4).filter fun a => c.wakeAsked a && !c.awake.getLsbD a).head? = some array ↔
      (c.wakeAsked array ∧ c.awake.getLsbD array = false) ∧ ∀ a < array, ¬(c.wakeAsked a ∧ c.awake.getLsbD a = false) := by
  rw [List.head?_filter, List.find?_range_eq_some]
  simp only [List.mem_range, lt, true_and, Bool.and_eq_true, Bool.not_eq_eq_eq_not, Bool.not_true]
  refine and_congr_right fun _ => forall₂_congr fun a _ => ?_
  cases c.wakeAsked a <;> simp

theorem exec_arrayWake {s : State} {core array : Nat} (first : ((List.range 4).filter fun a =>
      (s.core core).wakeAsked a && !(s.core core).awake.getLsbD a).head? = some array) :
    exec (.arrayWake core array) s = .next ((s.advanceTo (s.wakeTime core)).setCore core
      ((s.core core).woken array (s.advanceTo (s.wakeTime core)).clk.now)) := by
  have run : exec (.arrayWake core array) s = execArrayWake core array s := rfl
  rw [run, execArrayWake]
  dsimp only
  rw [if_pos first]
  unfold State.wakeTime Core.woken
  rcases (s.core core).wakes with _ | ⟨x, _ | ⟨y, l⟩⟩
  · rw [State.advanceTo_zero]
  · rw [State.advanceTo_zero]
  · rfl

theorem exec_arrayWake_idle {s : State} {core array : Nat} (other : ((List.range 4).filter fun a =>
      (s.core core).wakeAsked a && !(s.core core).awake.getLsbD a).head? ≠ some array) :
    exec (.arrayWake core array) s = .next s := if_neg other

theorem exec_arrayGate {s : State} {core array : Nat} (awake : (s.core core).awake.getLsbD array = true)
    (idle : ¬(s.core core).wakeAsked array = true) :
    exec (.arrayGate core array) s = .next ((s.advanceTo (SMap.get 0 (s.core core).streamAt array + s.cyclesNs (s.gateIdle core))).setCore
      core { s.core core with awake := (s.core core).awake &&& ~~~BitVec.twoPow 4 array }) :=
  if_pos (by simp [awake, idle])

theorem exec_arrayGate_asked {s : State} {core array : Nat} (asked : (s.core core).wakeAsked array = true) :
    exec (.arrayGate core array) s = .next s :=
  if_neg (by simp [asked])

/-- Settles O17: both commands wait for a time and then change one core. -/
theorem arrayPower : Obligations.ArrayPower := by
  unfold Obligations.ArrayPower
  intro s core array lt c asks
  refine ⟨fun asked first => ?_, fun idle => ?_, fun awake idle => ?_, fun asked => ?_⟩
  · have run := exec_arrayWake ((c.asked_head? lt).mpr ⟨asked, first⟩)
    obtain ⟨here, time, later, others, memory⟩ := s.advanceTo_setCore (s.wakeTime core) core
      (c.woken array (s.advanceTo (s.wakeTime core)).clk.now)
    refine ⟨_, run, fun a ha => ?_, ?_, later, fun x y l wakes => ?_, others, memory⟩
    · rw [here]
      simp [Core.woken, ha, eq_comm]
    · rw [here]
      rfl
    · exact Nat.le_trans (Nat.le_of_eq (State.wakeTime_of wakes).symm) time
  · exact exec_arrayWake_idle fun head => idle ((c.asked_head? lt).mp head).1
  · have run := exec_arrayGate awake idle
    obtain ⟨here, time, later, others, memory⟩ := s.advanceTo_setCore (SMap.get 0 c.streamAt array + s.cyclesNs (s.gateIdle core))
      core { c with awake := c.awake &&& ~~~BitVec.twoPow 4 array }
    refine ⟨_, run, fun a ha => ?_, time, later, others, memory⟩
    rw [here]
    simp [ha, eq_comm]
  · exact exec_arrayGate_asked asked

end Sys2Proof.Machine
end

section
/-! SUPPORT. What the work of a matrix or chain operation leaves: the core clock, the commands, and the LAUNCH of each core. One lemma per
definition, named after it. -/

namespace Sys2Proof.Machine
open Sys2Proof

/-- From `s` to `t` operations may have done their work. -/
structure Worked (s t : State) : Prop where
  clock : t.odGet Od.coreClockMhz = s.odGet Od.coreClockMhz
  cmds : t.disp.cmds = s.disp.cmds
  launch : ∀ n, (t.core n).launch = (s.core n).launch

namespace Worked

theorem of_same {s t : State} (od : t.od = s.od) (disp : t.disp = s.disp) (cores : t.cores = s.cores) : Worked s t :=
  ⟨by unfold State.odGet; rw [od], by rw [disp], fun n => by unfold State.core; rw [cores]⟩

theorem refl (s : State) : Worked s s := of_same rfl rfl rfl

theorem trans {s t u : State} (h : Worked s t) (k : Worked t u) : Worked s u :=
  ⟨k.clock.trans h.clock, k.cmds.trans h.cmds, fun n => (k.launch n).trans (h.launch n)⟩

theorem ite {r s t : State} {c : Prop} [Decidable c] (h : Worked r s) (k : Worked r t) : Worked r (if c then s else t) := by
  split
  · exact h
  · exact k

theorem foldl {α : Type} {f : State → α → State} (step : ∀ s x, Worked s (f s x)) : ∀ (l : List α) (s : State), Worked s (l.foldl f s)
  | [], s => .refl s
  | x :: l, s => (step s x).trans (foldl step l (f s x))

/-- The same beside something that is gathered. -/
theorem foldl_snd {α γ : Type} {f : γ × State → α → γ × State} (step : ∀ a x, Worked a.2 (f a x).2) : ∀ (l : List α) (a : γ × State),
    Worked a.2 (l.foldl f a).2
  | [], a => .refl a.2
  | x :: l, a => (step a x).trans (foldl_snd step l (f a x))

variable {s t : State} (h : Worked s t)
include h

theorem cyclesNs (n : Nat) : t.cyclesNs n = s.cyclesNs n := by
  unfold State.cyclesNs State.coreMHz
  rw [h.clock]

theorem heritage (core : Nat) : t.heritage core = s.heritage core := by
  unfold State.heritage
  have cmd : t.cmd? = s.cmd? := by
    funext n
    unfold State.cmd?
    rw [h.cmds]
  rw [h.launch, cmd]

end Worked

/-! ### Entries, counters and words of memory -/

theorem State.fresh_worked (s : State) : Worked s s.fresh.2 := .of_same rfl rfl rfl

theorem State.event_worked (s : State) (ty inst kind : Nat) (sev : BitVec 2) (l : List (Nat × Nat × Nat)) :
    Worked s (s.event ty inst kind sev l) := .of_same (s.event_od ..) (s.event_disp ..) (s.event_cores ..)

theorem State.setCore_worked (s : State) (n : Nat) {c : Core} (h : c.launch = (s.core n).launch) : Worked s (s.setCore n c) := by
  refine ⟨rfl, rfl, fun m => ?_⟩
  rw [State.core_setCore]
  split
  · next here => rw [here, h]
  · rfl

theorem State.odSet_worked (s : State) {k : Nat} (h : k ≠ Od.coreClockMhz) (v : Nat) : Worked s (s.odSet k v) :=
  ⟨by rw [State.odGet_odSet, if_neg h.symm], rfl, fun _ => rfl⟩

theorem State.odAdd_worked (s : State) {k : Nat} (h : k ≠ Od.coreClockMhz) (n : Nat) : Worked s (s.odAdd k n) := s.odSet_worked h _

/-- The core clock is no counter of a core. -/
theorem State.count_worked (s : State) (core ev n : Nat) (a : Attr) : Worked s (s.count (coreSet core) ev n a) := by
  have counted := s.count_frame (coreSet core) ev n a
  refine ⟨counted.od _ (fun i _ => ?_) ?_, by rw [counted.rest], fun m => by rw [counted.rest]; rfl⟩
  · unfold Od.coreClockMhz Od.key coreSet
    omega
  · unfold Od.coreClockMhz Od.key coreSet
    omega

theorem State.nfCount_worked (s : State) (tclass : BitVec 8) (n ty inst : Nat) : Worked s (s.nfCount tclass n ty inst) := by
  unfold State.nfCount
  extract_lets c v t
  have counted : Worked s t := s.odSet_worked (by unfold Od.nfClass Od.coreClockMhz Od.key; omega) v
  clear_value t
  have seen : ∀ w, Worked t { t with watch := w } := fun _ => .of_same rfl rfl rfl
  exact .ite (.refl s) (.ite counted ((counted.trans (seen _)).trans (State.event_worked ..)))

theorem State.setMemByte_worked (s : State) (a : Nat) (b : Byte) : Worked s (s.setMemByte a b) := .of_same rfl rfl rfl

theorem State.setRaw_worked (s : State) (w : Nat) (x : CodeWord) : Worked s (s.setRaw w x) := by
  have data : Worked s (s.setMemWord w (codeData x)) := Worked.foldl (fun t i => t.setMemByte_worked _ _) _ s
  unfold State.setRaw
  generalize s.setMemWord w (codeData x) = t at data
  exact data.trans (.of_same rfl rfl rfl)

theorem State.setRacy_worked (s : State) (l : List RacyWord) : Worked s { s with racy := l } := .of_same rfl rfl rfl
theorem State.setFails_worked (s : State) (l : List Nat) : Worked s { s with hbmReadFails := l } := .of_same rfl rfl rfl

theorem State.pickWord_worked (s : State) (w : Nat) : Worked s (s.pickWord w).2 := by
  unfold State.pickWord
  split
  · exact .refl s
  · exact s.fresh_worked

theorem ceCounter_ne_clock (st : Storage) (inst : Nat) : ceCounter st inst ≠ Od.coreClockMhz := by
  unfold ceCounter Od.hbmCeCount Od.sramCeCount Od.coreClockMhz Od.key
  split <;> omega

theorem ueCounter_ne_clock (st : Storage) (inst : Nat) : ueCounter st inst ≠ Od.coreClockMhz := by
  unfold ueCounter Od.hbmUeCount Od.sramUeCount Od.coreClockMhz Od.key
  split <;> omega

theorem State.memCE_worked (s : State) (st : Storage) (ty inst addr p q : Nat) (det : Detect) :
    Worked s (s.memCE st ty inst addr p q det) := by
  unfold State.memCE
  extract_lets t k r log u
  have counted : Worked s t := s.odAdd_worked (ceCounter_ne_clock st inst) 1
  clear_value t
  have limited : Worked t u := .of_same rfl rfl rfl
  exact .ite ((counted.trans limited).trans (State.event_worked ..)) (counted.trans limited)

theorem State.memUE_worked (s : State) (st : Storage) (ty inst addr : Nat) (det : Detect) :
    Worked s (s.memUE st ty inst addr det) :=
  (s.odAdd_worked (ueCounter_ne_clock st inst) 1).trans (State.event_worked ..)

theorem State.countPoisonRead_worked (s : State) (w : Nat) (p : Bool) : Worked s (s.countPoisonRead w p) :=
  .ite (s.odAdd_worked (by unfold Od.hbmPoisonReadCount Od.coreClockMhz Od.key; omega) 1) (.refl s)

theorem State.readWord_worked (s : State) (w : Nat) (det : Detect) : Worked s (s.readWord w det).2 := by
  unfold State.readWord
  extract_lets r x t src live given
  have picked : Worked s t := s.pickWord_worked w
  have gave : ∀ u p, Worked u (given u p) := fun u p => .ite (.refl u) (u.countPoisonRead_worked w p)
  clear_value given t
  split
  · exact (picked.trans (t.setFails_worked _)).trans (gave _ _)
  · split
    · exact picked.trans (gave _ _)
    · exact ((picked.trans (.ite (t.setRaw_worked w _) (.refl t))).trans (State.memCE_worked ..)).trans (gave _ _)
    · exact ((picked.trans (.ite (t.setRaw_worked w _) (.refl t))).trans (State.memUE_worked ..)).trans (gave _ _)

theorem State.mergeRead_worked (s : State) (w : Nat) : Worked s (s.mergeRead w).2 := by
  unfold State.mergeRead
  split
  · exact s.setFails_worked _
  · dsimp only
    split
    · exact .refl s
    · exact (s.setRaw_worked ..).trans (State.memCE_worked ..)
    · exact (s.setRaw_worked ..).trans (State.memUE_worked ..)

theorem State.noteOld_worked (s : State) (w : Nat) (x : CodeWord) : Worked s (s.noteOld w x) := by
  unfold State.noteOld
  split
  · exact .ite (.refl s) (s.setCore_worked _ rfl)
  · exact .refl s

/-! ### Operand reads (R151, R168) -/

theorem State.opWord_worked (s : State) (o : MxOp) (w : Nat) : Worked s (s.opWord o w).2 := by
  unfold State.opWord
  split
  · split
    · exact s.fresh_worked
    · exact s.fresh_worked.trans (State.readWord_worked ..)
  · exact s.readWord_worked ..

theorem State.opWords_worked (o : MxOp) : ∀ (l : List Nat) (s : State), Worked s (s.opWords o l).2
  | [], s => .refl s
  | w :: l, s => (s.opWord_worked o w).trans (State.opWords_worked o l _)

/-- The state beside what is made of a reading. -/
theorem Worked.beside {α γ : Type} {s : State} {q : α × State} (h : Worked s q.2) (f : α × State → γ) :
    Worked s (let r := q; ((f r, r.2) : γ × State)).2 := h

theorem State.opRead_worked (s : State) (core : Nat) (o : MxOp) (off n : Nat) : Worked s (s.opRead core o off n).2 :=
  (State.opWords_worked o (spanWords (localBase core + off) n) s).beside fun x => (⟨off / 8 * 8, wordsNat x.1, x.1.map (·.2)⟩ : Rd)

theorem State.opByte_worked (s : State) (core : Nat) (o : MxOp) (off : Nat) : Worked s (s.opByte core o off).2 :=
  (s.opRead_worked core o off 1).beside fun x => (BitVec.ofNat 8 (x.1.get (off % 8 * 8) 8), x.1.bad (off % 8 * 8) 8)

theorem State.opBytes_worked (core : Nat) (o : MxOp) : ∀ (l : List Nat) (s : State), Worked s (s.opBytes core o l).2
  | [], s => .refl s
  | a :: l, s => (s.opByte_worked core o a).trans (State.opBytes_worked core o l _)

/-! ### Weight buffers and accumulators (R135, R142, R225) -/

theorem State.checkStored_worked (s : State) (st : Storage) (core idx : Nat) (x : CodeWord) {put : CodeWord → State → State}
    (puts : ∀ y t, Worked t (put y t)) : Worked s (s.checkStored st core idx x put).2 := by
  unfold State.checkStored
  split
  · exact .refl s
  · exact (puts _ s).trans (State.memCE_worked ..)
  · exact (puts _ s).trans (State.memUE_worked ..)

theorem State.putWbuf_worked (core key : Nat) (x : CodeWord) (s : State) : Worked s (s.putWbuf core key x) := s.setCore_worked _ rfl
theorem State.putAcc_worked (core key : Nat) (x : CodeWord) (s : State) : Worked s (s.putAcc core key x) := s.setCore_worked _ rfl

theorem State.readColumn_worked (s : State) (core col : Nat) : ∀ n, Worked s (s.readColumn core col n).2
  | 0 => .refl s
  | n + 1 => (s.readColumn_worked core col n).trans (State.checkStored_worked _ _ _ _ _ (State.putWbuf_worked core _))

theorem State.weightColumn_worked (s : State) (core array half col : Nat) (fmt : BitVec 4) (kp : Nat) :
    Worked s (s.weightColumn core array half col fmt kp).2 := s.readColumn_worked ..

theorem State.readAccGroup_worked (s : State) (core q : Nat) : ∀ n, Worked s (s.readAccGroup core q n).2
  | 0 => .refl s
  | n + 1 => by
    have before := s.readAccGroup_worked core q n
    have checked := before.trans (State.checkStored_worked (s.readAccGroup core q n).2 .acc core (5 * q + n)
      (SMap.get 0 ((s.readAccGroup core q n).2.core core).acc (5 * q + n)) (State.putAcc_worked core (5 * q + n)))
    exact .ite (checked.trans (State.setCore_worked _ _ rfl)) checked

theorem State.readPair_worked (s : State) (core n : Nat) : Worked s (s.readPair core n).2 :=
  (s.readAccGroup_worked core (n / 4) 5).beside fun r =>
    let b := r.1 / 2 ^ (80 * (n % 4))
    (w40Val (BitVec.ofNat 40 b), w40Val (BitVec.ofNat 40 (b / 2 ^ 40)), SMap.get false (r.2.core core).accMark n)

theorem State.writePair_worked (s : State) (core n : Nat) (bits : BitVec 80) (mark : Bool) : Worked s (s.writePair core n bits mark) :=
  s.setCore_worked _ rfl

/-! ### MMA (R131 to R134, R142, R144) -/

/-- One partition's share of an activation row, read with format `fmt` and descriptor `d`, joins those before it. -/
def actShare (core : Nat) (o : MxOp) (t : Stream) (m : Nat) (fmt : BitVec 4) (d : BitVec 256) (r : Rd) (a : List ActRow × State) (p : Nat) :
    List ActRow × State :=
  let sc := if fmtIsMx fmt then
      a.2.opBytes core o ((List.range ((t.kp + 31) / 32)).map fun j => tScaleBase d + m * tScaleStride d + j * t.parts + p)
    else ([], a.2)
  let es := (List.range t.kp).map fun k =>
    r.elem fmt (8 * (k / t.elems * t.bytes + t.bytes / t.parts * p) + k % t.elems * fmtBits fmt) (scaleAt sc.1 k)
  (a.1 ++ [⟨es, sc.1⟩], sc.2)

theorem actShare_worked (core : Nat) (o : MxOp) (t : Stream) (m : Nat) (fmt : BitVec 4) (d : BitVec 256) (r : Rd) (a : List ActRow × State)
    (p : Nat) : Worked a.2 (actShare core o t m fmt d r a p).2 := by
  unfold actShare
  extract_lets sc es
  have scales : Worked a.2 sc.2 := by
    unfold sc
    split
    · exact State.opBytes_worked ..
    · exact .refl a.2
  clear_value sc
  exact scales

theorem actShares_worked (core : Nat) (o : MxOp) (t : Stream) (m : Nat) (fmt : BitVec 4) (d : BitVec 256) (r : Rd × State) :
    Worked r.2 ((List.range t.parts).foldl (actShare core o t m fmt d r.1) ([], r.2)).2 :=
  Worked.foldl_snd (actShare_worked core o t m fmt d r.1) _ ([], r.2)

theorem State.actRow_worked (s : State) (core : Nat) (o : MxOp) (t : Stream) (m : Nat) : Worked s (s.actRow core o t m).2 :=
  (s.opRead_worked core o (dBase o.d0 + m * tStride o.d0) t.rowBytes).trans
    (actShares_worked core o t m (tFmt o.d0) o.d0 (s.opRead core o (dBase o.d0 + m * tStride o.d0) t.rowBytes))

theorem mmaColumn_worked (core : Nat) (o : MxOp) (t : Stream) (heritage : Bool) (p m : Nat) (acts : List ActRow) (a : MmaAcc × State)
    (q : Nat × Nat) : Worked a.2 (mmaColumn core o t heritage p m acts a q).2 := by
  unfold mmaColumn
  extract_lets part act wc lost n held bad r
  have weights : Worked a.2 wc.2 := State.weightColumn_worked ..
  clear_value wc
  have pair : Worked a.2 held.2 := by
    unfold held
    split
    · exact weights
    · exact weights.trans (State.readPair_worked ..)
  clear_value held
  split
  · exact (pair.trans held.2.fresh_worked).trans (State.writePair_worked ..)
  · exact pair.trans (State.writePair_worked ..)

theorem mmaRow_worked (core : Nat) (o : MxOp) (t : Stream) (heritage : Bool) (p : Nat)
    (a : (MmaAcc × List (Rd × List ActRow) × Nat) × State) (m : Nat) : Worked a.2 (mmaRow core o t heritage p a m).2 := by
  unfold mmaRow
  extract_lets acts cols acc r
  have row : Worked a.2 acts.2 := State.actRow_worked ..
  have columns : Worked acts.2 r.2 := Worked.foldl_snd (mmaColumn_worked core o t heritage p m acts.1.2) cols (_, acts.2)
  exact row.trans columns

theorem runMma_worked (core : Nat) (o : MxOp) (s : State) : Worked s (runMma core o s).2 := by
  unfold runMma
  extract_lets h rows
  split
  · exact .refl s
  · extract_lets p r a t u v
    have ran : Worked s r.2 := Worked.foldl_snd (mmaRow_worked core o _ h p) (List.range rows) (_, s)
    clear_value r
    have counted : Worked s t := ((ran.trans (State.nfCount_worked ..)).trans (State.odAdd_worked _ (by decide) _)).trans
      (State.odAdd_worked _ (by decide) _)
    clear_value t
    have beats : Worked s u := counted.trans (State.count_worked ..)
    exact .ite beats (beats.trans (State.count_worked ..))

/-! ### DRN and CH.RUN: their output (R151, R160, R163, R164) -/

theorem State.drnPairs_worked (s : State) (core : Nat) (o : MxOp) (m : Nat) : Worked s (s.drnPairs core o m).2 := by
  unfold State.drnPairs
  refine Worked.foldl_snd (fun a n => ?_) _ (_, s)
  exact a.2.readPair_worked core n

theorem State.tensorRow_worked (s : State) (core : Nat) (o : MxOp) (d : BitVec 256) (m n : Nat) :
    Worked s (s.tensorRow core o d m n).2 :=
  (s.opRead_worked core o (dBase d + m * tStride d) (rowBytes (tFmt d) n)).beside fun x =>
    (List.range n).map fun k => x.1.elem (tFmt d) (fmtBits (tFmt d) * k) (0x7F, none)

theorem drnStatsRow_state (core : Nat) (o : MxOp) (m : Nat) (pairs : List (Val × Val × Bool)) (ys : List Elem)
    (bad : List (Option Nat)) (mode : Nat → RMode) (a : OutAcc × State) : (drnStatsRow core o m pairs ys bad mode a).2 = a.2 := by
  unfold drnStatsRow
  extract_lets d addr rec_ w
  split
  · rfl
  · rfl

theorem drnPlainRow_state (core : Nat) (o : MxOp) (m : Nat) (pairs : List (Val × Val × Bool)) (ys : List Elem)
    (bad : List (Option Nat)) (mode : Nat → RMode) (a : OutAcc × State) : (drnPlainRow core o m pairs ys bad mode a).2 = a.2 := by
  unfold drnPlainRow
  extract_lets d addr ins
  split
  · rfl
  · rfl

theorem drnRow_worked (core : Nat) (o : MxOp) (a : OutAcc × State) (m : Nat) : Worked a.2 (drnRow core o a m).2 := by
  unfold drnRow
  extract_lets d pr yr ys bad sd mode b
  have pairs : Worked a.2 pr.2 := State.drnPairs_worked ..
  clear_value pr
  have second : Worked a.2 yr.2 := by
    unfold yr
    split
    · exact pairs.trans (State.tensorRow_worked ..)
    · exact pairs
  clear_value yr
  split
  · rw [drnStatsRow_state]
    exact second
  · rw [drnPlainRow_state]
    exact second

theorem runDrn_worked (core : Nat) (o : MxOp) (s : State) : Worked s (runDrn core o s).2 :=
  Worked.foldl_snd (drnRow_worked core o) (List.range (fDrnRows o.word)) (OutAcc.start, s)

theorem Piece.read_worked (p : Piece) (s : State) : Worked s (p.read s).2 := by
  unfold Piece.read
  split
  · exact .refl s
  · exact s.mergeRead_worked ..

theorem State.settle_worked (s : State) (owner : Nat) : Worked s (s.settle owner) := .of_same rfl rfl rfl

theorem State.undo_worked (s : State) (owner : Nat) : Worked s (s.undo owner) := by
  unfold State.undo
  have step : ∀ (t : State) (r : RacyWord), Worked t (t.setRaw r.word r.old) := fun t r => t.setRaw_worked r.word r.old
  have restored := Worked.foldl step (s.ownWords owner) s
  generalize (s.ownWords owner).foldl (fun t r => t.setRaw r.word r.old) s = t at restored ⊢
  exact restored.trans (t.settle_worked owner)

theorem State.finalPieces_worked (s : State) (own : List RacyWord) (ps : List Piece) : Worked s (s.finalPieces own ps) := by
  unfold State.finalPieces
  refine Worked.trans (Worked.foldl (fun t p => ?_) ps s) (Worked.foldl (fun t r => t.noteOld_worked r.word r.old) own _)
  split
  · exact (p.read_worked t).trans (State.setRaw_worked ..)
  · exact .refl t

end Sys2Proof.Machine
end

section
/-! SUPPORT and proof. The end of a started operation (R140, R152 to R154, R161, R208, R213, R214): statement O15. -/

namespace Sys2Proof.Machine
open Sys2Proof

/-! ### An operation that runs, and its last stream cycle -/

theorem State.running_op {s : State} {core tok : Nat} {kind : OpKind} {o : MxOp} (h : s.running core tok kind = some o) :
    (s.core core).op? tok = some o ∧ o.kind = kind := by
  unfold State.running at h
  split at h
  · next q found =>
    rw [Option.ite_none_right_eq_some, Bool.and_eq_true, decide_eq_true_eq] at h
    obtain ⟨⟨kind, -⟩, same⟩ := h
    cases same
    exact ⟨found, kind⟩
  · cases h

/-- No operation of the kind issued before it. -/
theorem any_kind {l : List MxOp} {k : OpKind} (none : ∀ q ∈ l, q.kind ≠ k) : (l.any fun q => decide (q.kind = k)) = false := by
  simpa using none

theorem State.setOp_worked (s : State) (core : Nat) (o : MxOp) : Worked s (s.setOp core o) := s.setCore_worked core rfl

theorem State.runOp_worked {s : State} {core : Nat} {o : MxOp} (here : (s.core core).op? o.tok = some o) (mma : o.kind = .mma) :
    Worked s (s.runOp core o) := by
  rw [State.runOp, here]
  dsimp only
  rw [mma]
  split
  · exact .refl s
  · have ran := runMma_worked core o s
    generalize runMma core o s = r at ran ⊢
    refine Worked.trans ?_ (State.setCore_worked _ core rfl)
    split
    · exact ran
    · exact ran.trans (State.setOp_worked ..)

theorem SMap.get_foldl_set {β : Type} [DecidableEq β] (d x : β) (j : Nat) : ∀ (l : List Nat) (m : SMap β),
    SMap.get d (l.foldl (fun m a => SMap.set d m a x) m) j = if j ∈ l then x else SMap.get d m j
  | [], m => by simp
  | a :: l, m => by
    rw [List.foldl_cons, SMap.get_foldl_set d x j l, SMap.get_set]
    by_cases here : j = a <;> simp [here]

/-- The arrays of an operation's mask have taken a stream cycle now. -/
theorem Core.streamed_streamAt (c : Core) (o : MxOp) (now : Nat) {a : Nat} (lt : a < 4) :
    SMap.get 0 (c.streamed o now).streamAt a = if o.amask.getLsbD a then now else SMap.get 0 c.streamAt a := by
  have member : a ∈ arraysOf o.amask ↔ o.amask.getLsbD a = true := by simp [arraysOf, lt]
  rw [Core.streamed, SMap.get_foldl_set]
  simp only [member]

/-! ### What each end hands to `endOp` -/

section
variable {s : State} {core tok : Nat} {o : MxOp} (room : s.log.roomy = true)
include room

theorem exec_mxWldDone (running : s.running core tok .wld = some o) {u : State}
    (ran : u = (s.runOps core (((s.core core).earlier tok).filter (·.kind = .wld))).runOp core o) {r : OpResult}
    (result : ((u.core core).op? tok).bind (·.result) = some r) : exec (.mxWldDone core tok) s = .next (u.endOp core o r) := by
  have run : exec (.mxWldDone core tok) s = execMxWldDone core tok s := rfl
  rw [run, execMxWldDone, withRoom_roomy room, running]
  dsimp only
  rw [← ran, result]

theorem exec_mxMmaDone (running : s.running core tok .mma = some o) (first : ∀ q ∈ (s.core core).earlier tok, q.kind ≠ .mma)
    {t : State} (ran : t = s.runOp core o) {r : OpResult} (result : ((t.core core).op? tok).bind (·.result) = some r) :
    exec (.mxMmaDone core tok) s = .next (State.endOp
      (if o.result.isNone then t.setCore core ((t.core core).streamed o (t.clk.now - t.cyclesNs 8)) else t) core o r) := by
  have run : exec (.mxMmaDone core tok) s = execMxMmaDone core tok s := rfl
  rw [run, execMxMmaDone, withRoom_roomy room, running]
  dsimp only
  rw [any_kind first, ← ran, result]
  rfl

theorem mxMmaDone_ends (running : s.running core tok .mma = some o) (first : ∀ q ∈ (s.core core).earlier tok, q.kind ≠ .mma)
    {r : OpResult} (result : (((s.runOp core o).core core).op? tok).bind (·.result) = some r) :
    ∃ u : State, exec (.mxMmaDone core tok) s = .next (u.endOp core o r) ∧ u = { s.runOp core o with cores := u.cores } ∧
      ∀ a < 4, SMap.get 0 (u.core core).streamAt a =
        if o.result.isNone ∧ o.amask.getLsbD a then (s.runOp core o).clk.now - s.cyclesNs 8
        else SMap.get 0 ((s.runOp core o).core core).streamAt a := by
  have done := exec_mxMmaDone room running first rfl result
  obtain ⟨found, kind⟩ := State.running_op running
  have worked : Worked s (s.runOp core o) := State.runOp_worked (by rw [Core.op?_tok found, found]) kind
  generalize s.runOp core o = t at worked done ⊢
  rw [worked.cyclesNs] at done
  refine ⟨_, done, ?_, fun a lt => ?_⟩
  · split <;> rfl
  · by_cases fresh : o.result.isNone = true
    · simp only [fresh, if_true, true_and, State.core_setCore_self, Core.streamed_streamAt _ o _ lt]
    · simp [fresh]

theorem mxDrnDone_ends (running : s.running core tok .drn = some o) (first : ∀ q ∈ (s.core core).earlier tok, q.kind ≠ .drn) :
    ∃ (u : State) (r : OpResult), exec (.mxDrnDone core tok) s = .next (u.endOp core o r) ∧
      let x := (runDrn core o (s.undo (opOwner core tok))).1
      (r.poisoned = true ↔ x.bad.isSome) ∧ r.flags = reportedFlags (s.heritage core) x.flags := by
  have run : exec (.mxDrnDone core tok) s = execMxDrnDone core tok s := rfl
  rw [run, execMxDrnDone, withRoom_roomy room, running]
  dsimp only
  rw [any_kind first]
  have work := (s.undo_worked (opOwner core tok)).trans (runDrn_worked core o _)
  generalize runDrn core o (s.undo (opOwner core tok)) = x at work ⊢
  have out := work.trans (x.2.finalPieces_worked (s.ownWords (opOwner core tok)) x.1.pieces)
  generalize x.2.finalPieces (s.ownWords (opOwner core tok)) x.1.pieces = t at out ⊢
  have counted := ((out.trans (t.nfCount_worked (oClass o.d0) x.1.outCount 0x03 core)).trans
    (State.nfCount_worked _ (tClass o.d1) x.1.secondCount 0x03 core)).trans
    (State.count_worked _ core 0x030C (fDrnRows o.word * (arraysOf o.amask).length) { Attr.none with cls := some 9 })
  exact ⟨_, _, rfl, Iff.rfl, congrArg (reportedFlags · x.1.flags) (counted.heritage core)⟩

theorem chRunDone_ends (running : s.running core tok .chRun = some o) :
    ∃ (u : State) (r : OpResult), exec (.chRunDone core tok) s = .next ((u.endOp core o r).startChain core) ∧
      let x := (runChain core o (s.undo (opOwner core tok))).1
      (r.poisoned = true ↔ x.bad.isSome) ∧ r.flags = x.flags := by
  have run : exec (.chRunDone core tok) s = execChRunDone core tok s := rfl
  rw [run, execChRunDone, withRoom_roomy room, running]
  exact ⟨_, _, rfl, Iff.rfl, rfl⟩

end

/-! ### What `endOp` does where no group waits (R152 to R154, R214) -/

/-- A group that waits for nothing stays as it is. -/
theorem State.wake_idle {s : State} {g : GroupRef} (idle : ∀ gr, s.group? g = some gr → gr.hold = .none) : s.wake g = s := by
  unfold State.wake
  split
  · rfl
  · next gr here => rw [idle gr here]

theorem State.wakeCore_idle {s : State} {core : Nat} (idle : ∀ sl gr, s.group? ⟨core, sl⟩ = some gr → gr.hold = .none) :
    s.wakeCore core = s := by
  have same : ∀ l : List Nat, l.foldl (fun s sl => s.wake ⟨core, sl⟩) s = s := by
    intro l
    induction l with
    | nil => rfl
    | cons sl l ih => rw [List.foldl_cons, State.wake_idle (idle sl), ih]
  exact same _

theorem State.opPoisoned_cores (s : State) (core : Nat) (o : MxOp) (off : Nat) : (s.opPoisoned core o off).cores = s.cores := by
  unfold State.opPoisoned
  split <;> rfl

theorem State.opPoisoned_memByte (s : State) (core : Nat) (o : MxOp) (off a : Nat) :
    (s.opPoisoned core o off).memByte a = s.memByte a := by
  unfold State.opPoisoned
  split <;> rfl

theorem State.opPoisoned_matrix (s : State) (core : Nat) {o : MxOp} (off : Nat) (matrix : o.kind ≠ .chRun) :
    (s.opPoisoned core o off).odGet Od.mxPoisonOpCount = (s.odGet Od.mxPoisonOpCount + 1) % 2 ^ 64 ∧
      ∃ e, (s.opPoisoned core o off).log.ingress = s.log.ingress ++ [e] ∧ e.kind = 0x0101 ∧ e.severity = sevError := by
  unfold State.opPoisoned
  split
  · next chain => exact absurd chain matrix
  · exact ⟨(State.odGet_odSet ..).trans (if_pos rfl), State.event_ingress ..⟩

/-- What the core of an operation that ends becomes. -/
def Core.ended (c : Core) (o : MxOp) (r : OpResult) : Core :=
  { (c.doneToken o r).orFlags r.flags with ops := ((c.doneToken o r).orFlags r.flags).ops.filter fun q => decide (q.tok ≠ o.tok) }

/-- The end of an operation, but for the groups that wait for it. -/
def State.opEnded (s : State) (core : Nat) (o : MxOp) (r : OpResult) : State :=
  let t := s.setCore core ((s.core core).ended o r)
  if r.poisoned then t.opPoisoned core o r.off else t

theorem State.opEnded_cores (s : State) (core : Nat) (o : MxOp) (r : OpResult) :
    (s.opEnded core o r).cores = (s.setCore core ((s.core core).ended o r)).cores := by
  unfold State.opEnded
  dsimp only
  split
  · exact State.opPoisoned_cores ..
  · rfl

theorem State.opEnded_core (s : State) (core : Nat) (o : MxOp) (r : OpResult) (m : Nat) :
    (s.opEnded core o r).core m = if m = core then (s.core core).ended o r else s.core m := by
  rw [State.core, State.opEnded_cores]
  exact State.core_setCore ..

theorem State.opEnded_group? (s : State) (core : Nat) (o : MxOp) (r : OpResult) (sl : Nat) :
    (s.opEnded core o r).group? ⟨core, sl⟩ = s.group? ⟨core, sl⟩ := by
  unfold State.group?
  rw [State.opEnded_core, if_pos rfl]
  rfl

theorem State.opEnded_memByte (s : State) (core : Nat) (o : MxOp) (r : OpResult) (a : Nat) :
    (s.opEnded core o r).memByte a = s.memByte a := by
  unfold State.opEnded
  dsimp only
  split
  · exact State.opPoisoned_memByte ..
  · rfl

theorem State.endOp_idle {s : State} {core : Nat} (o : MxOp) (r : OpResult)
    (idle : ∀ sl gr, s.group? ⟨core, sl⟩ = some gr → gr.hold = .none) : s.endOp core o r = s.opEnded core o r :=
  State.wakeCore_idle (s := s.opEnded core o r) fun sl gr here => idle sl gr (by rw [← here, State.opEnded_group?])

/-- Settles O15: each end hands `endOp` what its operation gave, and `endOp` wakes nobody where no group waits. -/
theorem operationsEnd : Obligations.OperationsEnd := by
  unfold Obligations.OperationsEnd
  constructor
  · intro s core tok o room
    refine ⟨fun running u ran r result => ?_, fun running first r result => ?_, fun running first => ?_, fun running => ?_⟩
    · exact exec_mxWldDone room running ran result
    · exact mxMmaDone_ends room running first result
    · exact mxDrnDone_ends room running first
    · exact chRunDone_ends room running
  · intro s core o r idle t c
    have ends : t = s.opEnded core o r := State.endOp_idle o r idle
    have here : t.core core = c.ended o r := by rw [ends, State.opEnded_core, if_pos rfl]
    rw [here]
    refine ⟨fun k => ?_, rfl, rfl, rfl, fun sl => ?_, fun m other => ?_, fun a => ?_, fun good => ?_, fun bad matrix => ?_⟩
    · exact SMap.find?_put ..
    · rw [ends, State.opEnded_group?]
    · rw [ends, State.opEnded_core, if_neg other]
    · rw [ends, State.opEnded_memByte]
    · rw [ends, State.opEnded, good]
      rfl
    · rw [ends, State.opEnded, bad]
      exact State.opPoisoned_matrix _ core r.off matrix

end Sys2Proof.Machine
end

section
/-! SUPPORT and proof. The arithmetic of threads (R177, R178, R180): statements O1, O2 and O3. -/

namespace Sys2Proof.Machine
open Sys2Proof

/-! ### Registers of a word -/

theorem fVC_opWord (f : BitVec 48) (op op' : Nat) : fVC (opWord f op) = fVC (opWord f op') :=
  fld_opWord f op op' 45 8 (by decide)

theorem imm19_opWord (f : BitVec 48) (op : Nat) :
    imm19 (opWord f op) = ((opWord f 0).extractLsb' 45 19).signExtend 32 := by
  unfold imm19 fImm19 sfld
  rw [opWord_extractLsb' f op 0 45 19 (by decide)]
  rfl

theorem fVD_lt (w : BitVec 64) : fVD w < 256 := (w.extractLsb' 21 8).isLt

theorem regsOk_single {v : Nat} {l : List Nat} (h : ∀ r ∈ l, r < v) : regsOk v (l.map fun r => (r, 1)) = true := by
  simp only [regsOk, List.all_map, List.all_eq_true]
  intro r hr
  simp [Nat.mod_one, h r hr]

theorem Group.execLanes_nodup (gr : Group) (w : BitVec 64) : (gr.execLanes w).Nodup := List.nodup_range.filter _

/-! ### An instruction that writes VD of its executing threads -/

section
variable {s : State} {g : GroupRef} {gr : Group} (h : Ready s g gr) {f : BitVec 48} {op cls : Nat} {c : Instr}
include h

/-- VD of some lanes becomes a function of the registers as the instruction found them: lanes before do not count. -/
theorem vSet_becomes {body : State → Group → Issue} {w : BitVec 64} (hc : exec c s = issued g w cls body s) {vd : Nat} (hvd : vd < 256)
    {lanes : List Nat} (nodup : lanes.Nodup) {F : Nat → Group → BitVec 32}
    (hb : body s gr = groupOnly g (fun gr => gr.eachLane lanes fun i q => q.vSet i vd (F i q)) s gr) {runs : Nat → Bool}
    (named : ∀ i, i ∈ lanes ↔ i < 32 ∧ runs i = true) {x : Nat → BitVec 32}
    (hx : ∀ i < 32, ∀ q : Group, q = { gr with v := q.v } → (∀ r < 256, q.vGet i r = gr.vGet i r) → F i q = x i) :
    LanesBecome c s g gr vd runs x := by
  obtain ⟨rest, read⟩ := Group.eachLane_vSet vd hvd x F lanes gr gr nodup (fun i hi => ((named i).mp hi).1) rfl
    fun i hi => hx i ((named i).mp hi).1
  refine ⟨_, groupOnly_becomes h _ _ _ _ hb c hc, congrArg Group.advance rest, fun i hi r hr => (read i hi r hr).trans ?_⟩
  simp only [named, hi, true_and]

/-- The same in the executing lanes of a guarded instruction. -/
theorem eachLane_becomes {regs : List Nat} (ok : ∀ r ∈ regs, r < s.vregs g.core) {F : Nat → Group → BitVec 32}
    (hc : exec c s = issued g (opWord f op) cls (checked g false (regs.map fun r => (r, 1)) (groupOnly g fun gr =>
      gr.eachLane (gr.execLanes (opWord f op)) fun i q => q.vSet i (fVD (opWord f op)) (F i q))) s)
    {x : Nat → BitVec 32}
    (hx : ∀ i < 32, ∀ q : Group, q = { gr with v := q.v } → (∀ r < 256, q.vGet i r = gr.vGet i r) → F i q = x i) :
    LanesBecome c s g gr (fVD (opWord f 0)) (gr.runs (opWord f 0)) x := by
  rw [fVD_opWord f 0 op]
  refine vSet_becomes h hc (fVD_lt _) (gr.execLanes_nodup (opWord f op)) (F := F) ?_ (fun i => ?_) hx
  · rw [checked_ok _ rfl (regsOk_single ok)]
    rfl
  · rw [gr.mem_execLanes, gr.runs_opWord f op 0]

variable (vd : fVD (opWord f 0) < s.vregs g.core)
include vd

theorem alu0_becomes {x : BitVec 32} (hc : exec c s = issued g (opWord f op) cls (alu0 g (opWord f op) x) s) :
    LanesBecome c s g gr (fVD (opWord f 0)) (gr.runs (opWord f 0)) fun _ => x := by
  rw [fVD_opWord f 0 op] at vd
  exact eachLane_becomes h (regs := [_]) (by simpa using vd) hc fun _ _ _ _ _ => rfl

variable (va : fVA (opWord f 0) < s.vregs g.core)
include va

theorem alu1_becomes (F : BitVec 32 → BitVec 32) (hc : exec c s = issued g (opWord f op) cls (alu1 g (opWord f op) F) s) :
    LanesBecome c s g gr (fVD (opWord f 0)) (gr.runs (opWord f 0)) fun i => F (gr.vGet i (fVA (opWord f 0))) := by
  rw [fVD_opWord f 0 op] at vd
  rw [fVA_opWord f 0 op] at va
  refine eachLane_becomes h (regs := [_, _]) (by simpa using ⟨vd, va⟩) hc fun i _ q _ same => ?_
  rw [same _ (BitVec.isLt _), fVA_opWord f 0 op]

variable (vb : fVB (opWord f 0) < s.vregs g.core)
include vb

theorem alu2_becomes (F : BitVec 32 → BitVec 32 → BitVec 32)
    (hc : exec c s = issued g (opWord f op) cls (alu2 g (opWord f op) F) s) :
    LanesBecome c s g gr (fVD (opWord f 0)) (gr.runs (opWord f 0)) fun i =>
      F (gr.vGet i (fVA (opWord f 0))) (gr.vGet i (fVB (opWord f 0))) := by
  rw [fVD_opWord f 0 op] at vd
  rw [fVA_opWord f 0 op] at va
  rw [fVB_opWord f 0 op] at vb
  refine eachLane_becomes h (regs := [_, _, _]) (by simpa using ⟨vd, va, vb⟩) hc fun i _ q _ same => ?_
  rw [same _ (BitVec.isLt _), same _ (BitVec.isLt _), fVA_opWord f 0 op, fVB_opWord f 0 op]

theorem pick_becomes (hc : exec c s = issued g (opWord f op) cls (pick g (opWord f op)) s) :
    LanesBecome c s g gr (fVD (opWord f 0)) (gr.runs (opWord f 0)) fun i =>
      if gr.pGet i (fld (opWord f 0) 45 3) then gr.vGet i (fVA (opWord f 0)) else gr.vGet i (fVB (opWord f 0)) := by
  rw [fVD_opWord f 0 op] at vd
  rw [fVA_opWord f 0 op] at va
  rw [fVB_opWord f 0 op] at vb
  refine eachLane_becomes h (regs := [_, _, _]) (by simpa using ⟨vd, va, vb⟩) hc fun i _ q only same => ?_
  have preds : ∀ k, q.pGet i k = gr.pGet i k := fun k => by rw [only]; rfl
  rw [same _ (BitVec.isLt _), same _ (BitVec.isLt _), preds, fVA_opWord f 0 op, fVB_opWord f 0 op,
    fld_opWord f 0 op 45 3 (by decide)]

variable (vc : fVC (opWord f 0) < s.vregs g.core)
include vc

theorem alu3_becomes (F : BitVec 32 → BitVec 32 → BitVec 32 → BitVec 32)
    (hc : exec c s = issued g (opWord f op) cls (alu3 g (opWord f op) F) s) :
    LanesBecome c s g gr (fVD (opWord f 0)) (gr.runs (opWord f 0)) fun i =>
      F (gr.vGet i (fVA (opWord f 0))) (gr.vGet i (fVB (opWord f 0))) (gr.vGet i (fVC (opWord f 0))) := by
  rw [fVD_opWord f 0 op] at vd
  rw [fVA_opWord f 0 op] at va
  rw [fVB_opWord f 0 op] at vb
  rw [fVC_opWord f 0 op] at vc
  refine eachLane_becomes h (regs := [_, _, _, _]) (by simpa using ⟨vd, va, vb, vc⟩) hc fun i _ q _ same => ?_
  rw [same _ (BitVec.isLt _), same _ (BitVec.isLt _), same _ (BitVec.isLt _), fVA_opWord f 0 op, fVB_opWord f 0 op,
    fVC_opWord f 0 op]

end

/-! ### Integers -/

/-- V.LDHI: 13 bits of the immediate above 19 bits of the register. -/
theorem ldhi_eq (a : BitVec 32) (x : BitVec 19) :
    (a &&& BitVec.ofNat 32 0x7FFFF) ||| (x.signExtend 32 <<< 19) = (x.extractLsb' 0 13 ++ (a.extractLsb' 0 19 : BitVec 19) : BitVec 32) := by
  have mask : ∀ i < 32, (BitVec.ofNat 32 0x7FFFF).getLsbD i = decide (i < 19) := by decide
  apply BitVec.eq_of_getLsbD_eq
  intro i hi
  rw [BitVec.getLsbD_or, BitVec.getLsbD_and, mask i hi, BitVec.getLsbD_shiftLeft, BitVec.getLsbD_append, BitVec.getLsbD_signExtend,
    BitVec.getLsbD_extractLsb', BitVec.getLsbD_extractLsb']
  by_cases low : i < 19
  · simp [low]
  · simp [low, hi, show i - 19 < 19 by omega, show i - 19 < 13 by omega, show i - 19 < 32 by omega]

/-- The sign-extended immediate cut at its field. -/
theorem ldhi_imm (w : BitVec 64) : (w.extractLsb' 45 19).extractLsb' 0 13 = w.extractLsb' 45 13 := by
  apply BitVec.eq_of_getLsbD_eq
  intro i hi
  simp [hi, show i < 19 by omega]

theorem ldhi_opWord (f : BitVec 48) (a : BitVec 32) : (a &&& 0x7FFFF) ||| (imm19 (opWord f 0x0103) <<< 19) =
    ((opWord f 0).extractLsb' 45 13 ++ (a.extractLsb' 0 19 : BitVec 19) : BitVec 32) := by
  rw [imm19_opWord, ← ldhi_imm]
  exact ldhi_eq ..

theorem ite_sle {a b x y : BitVec 32} : (if a.sle b then x else y) = if a.toInt ≤ b.toInt then x else y := by
  simp [BitVec.sle]

/-- Settles O1: each instruction is one of the four forms, with its operation. -/
theorem integerResults : Obligations.IntegerResults := by
  unfold Obligations.IntegerResults
  constructor
  · intro g f s gr h w a b result vd va vb
    have least := alu2_becomes h (op := 0x000B) (c := .intMin g f) vd va vb _ rfl
    have most := alu2_becomes h (op := 0x000C) (c := .intMax g f) vd va vb _ rfl
    simp only [ite_sle] at least most
    exact ⟨alu2_becomes h (op := 0x0001) vd va vb (fun x y => x + y) rfl, alu2_becomes h (op := 0x0002) vd va vb (fun x y => x - y) rfl,
      alu2_becomes h (op := 0x0003) vd va vb (fun x y => x * y) rfl, alu2_becomes h (op := 0x0005) vd va vb (fun x y => x &&& y) rfl,
      alu2_becomes h (op := 0x0006) vd va vb (fun x y => x ||| y) rfl, alu2_becomes h (op := 0x0007) vd va vb (fun x y => x ^^^ y) rfl,
      alu2_becomes h (op := 0x0008) vd va vb (fun x y => x <<< (y.toNat % 32)) rfl,
      alu2_becomes h (op := 0x0009) vd va vb (fun x y => x >>> (y.toNat % 32)) rfl,
      alu2_becomes h (op := 0x000A) vd va vb (fun x y => x.sshiftRight (y.toNat % 32)) rfl, least, most⟩
  · intro g f s gr h w a b c imm result vd
    have immediate : ∀ op, imm19 (opWord f op) = imm := imm19_opWord f
    have load := alu0_becomes h (op := 0x0102) (c := .vLdi g f) (x := imm19 (opWord f 0x0102)) vd rfl
    rw [immediate] at load
    refine ⟨load, fun va => ⟨alu1_becomes h (op := 0x000F) vd va (fun x => x) rfl, ?_, ?_, fun vb =>
      ⟨pick_becomes h (op := 0x000E) vd va vb rfl, fun vc => alu3_becomes h (op := 0x0004) vd va vb vc (fun x y z => x * y + z) rfl⟩⟩⟩
    · have sum := alu1_becomes h (op := 0x0101) (c := .intAddi g f) vd va (fun x => x + imm19 (opWord f 0x0101)) rfl
      rwa [immediate] at sum
    · have high := alu1_becomes h (op := 0x0103) (c := .vLdhi g f) vd va (fun x => (x &&& 0x7FFFF) ||| (imm19 (opWord f 0x0103) <<< 19)) rfl
      exact (funext fun i => ldhi_opWord f (a i)) ▸ high

/-! ### FP32 -/

theorem Val.cmp_antisymm (x y : Val) : y.cmp x = -x.cmp y := by
  have finite : ∀ n m e n' m' e', Val.cmp (.fin n' m' e') (.fin n m e) = -Val.cmp (.fin n m e) (.fin n' m' e') := by
    intro n m e n' m' e'
    unfold Val.cmp
    dsimp only
    rw [min_comm e' e]
    generalize Val.signed n m * 2 ^ (e - min e e').toNat = p
    generalize Val.signed n' m' * 2 ^ (e' - min e e').toNat = q
    split_ifs <;> omega
  cases x with
  | fin n m e =>
    cases y with
    | fin n' m' e' => exact finite ..
    | inf n' => cases n' <;> rfl
    | nan n' => rfl
  | inf n =>
    cases y with
    | fin n' m' e' => cases n <;> rfl
    | inf n' => cases n <;> cases n' <;> rfl
    | nan n' => rfl
  | nan n => cases y <;> rfl

theorem Val.cmp_zeros {x y : Val} (hx : x.isZero = true) (hy : y.isZero = true) : x.cmp y = 0 := by
  unfold Val.isZero at hx hy
  split at hx
  · split at hy
    · simp [Val.cmp, Val.signed]
    · cases hy
  · cases hx

section
variable {a b : BitVec 32}

theorem fpLe_lt (h : (f32Val a).cmp (f32Val b) < 0) : fpLe a b = true ∧ fpLe b a = false := by
  have back := Val.cmp_antisymm (f32Val a) (f32Val b)
  have zeros : ((f32Val a).isZero && (f32Val b).isZero) = false := by
    by_contra both
    simp only [Bool.not_eq_false, Bool.and_eq_true] at both
    have := Val.cmp_zeros both.1 both.2
    omega
  unfold fpLe
  rw [Bool.and_comm (f32Val b).isZero, zeros]
  simp
  omega

theorem fpExtreme_left (ha : (f32Val a).isNaN = true) (hb : (f32Val b).isNaN = false) (largest : Bool) : fpExtreme largest a b = b := by
  simp [fpExtreme, ha, hb]

theorem fpExtreme_right (ha : (f32Val a).isNaN = false) (hb : (f32Val b).isNaN = true) (largest : Bool) : fpExtreme largest a b = a := by
  simp [fpExtreme, ha, hb]

variable (ha : (f32Val a).isNaN = false) (hb : (f32Val b).isNaN = false)
include ha hb

theorem fpExtreme_lt (h : (f32Val a).cmp (f32Val b) < 0) : fpExtreme false a b = a ∧ fpExtreme true a b = b := by
  obtain ⟨le, not⟩ := fpLe_lt h
  simp [fpExtreme, ha, hb, le, not]

theorem fpExtreme_gt (h : 0 < (f32Val a).cmp (f32Val b)) : fpExtreme false a b = b ∧ fpExtreme true a b = a := by
  have back := Val.cmp_antisymm (f32Val a) (f32Val b)
  obtain ⟨le, not⟩ := fpLe_lt (a := b) (b := a) (by omega)
  simp [fpExtreme, ha, hb, le, not]

end

theorem fpExtreme_zeros : fpExtreme false 0x80000000 0 = 0x80000000 ∧ fpExtreme true 0x80000000 0 = 0 ∧
    fpExtreme false 0 0x80000000 = 0x80000000 ∧ fpExtreme true 0 0x80000000 = 0 := by decide

theorem fpToInt_spec (a : BitVec 32) :
    (∀ p, f32Val a = .nan p → fpToInt a = 0) ∧ (f32Val a = .inf false → (fpToInt a).toInt = 2 ^ 31 - 1) ∧
    (f32Val a = .inf true → (fpToInt a).toInt = -2 ^ 31) ∧
    ∀ n m e, f32Val a = .fin n m e → (fpToInt a).toInt = max (-2 ^ 31) (min (2 ^ 31 - 1) (Val.toIntTrunc (.fin n m e))) := by
  unfold fpToInt
  refine ⟨fun p h => by rw [h], fun h => by rw [h]; rfl, fun h => by rw [h]; rfl, fun n m e h => ?_⟩
  rw [h]
  dsimp only
  rw [BitVec.toInt_ofInt]
  exact Int.bmod_eq_of_le (by omega) (by omega)

/-- Settles O2: sums, products and conversions by their form, and the extremes by how the two values compare. -/
theorem floatResults : Obligations.FloatResults := by
  unfold Obligations.FloatResults
  intro g f s gr h w a b c result vd va
  refine ⟨alu1_becomes h (op := 0x1008) vd va (fun x => f32Of (.ofInt x.toInt)) rfl, ⟨_, alu1_becomes h (op := 0x1007) vd va fpToInt rfl, fun i => fpToInt_spec _⟩, fun vb =>
    ⟨alu2_becomes h (op := 0x1001) vd va vb (fun x y => f32Of ((f32Val x).add (f32Val y))) rfl,
      alu2_becomes h (op := 0x1002) vd va vb (fun x y => f32Of ((f32Val x).mul (f32Val y))) rfl,
      ⟨_, _, alu2_becomes h (op := 0x1004) vd va vb (fpExtreme false) rfl, alu2_becomes h (op := 0x1005) vd va vb (fpExtreme true) rfl, fun i => ?_⟩,
      fun vc => alu3_becomes h (op := 0x1003) vd va vb vc (fun x y z => f32Of (((f32Val x).mul (f32Val y)).add (f32Val z))) rfl⟩⟩
  simp only [Bool.not_eq_true]
  refine ⟨fun ha hb => ⟨fpExtreme_left ha hb _, fpExtreme_left ha hb _⟩,
    fun ha hb => ⟨fpExtreme_right ha hb _, fpExtreme_right ha hb _⟩, fpExtreme_lt, fpExtreme_gt, fun ha hb => ?_, fun ha hb => ?_⟩
  · rw [show gr.vGet i (fVA (opWord f 0)) = _ from ha, show gr.vGet i (fVB (opWord f 0)) = _ from hb]
    exact ⟨fpExtreme_zeros.1, fpExtreme_zeros.2.1⟩
  · rw [show gr.vGet i (fVA (opWord f 0)) = _ from ha, show gr.vGet i (fVB (opWord f 0)) = _ from hb]
    exact fpExtreme_zeros.2.2

/-! ### Compares -/

/-- An instruction that writes one predicate of its executing threads, each from its own registers. -/
theorem Group.eachLane_pSet_each (k : Nat) (hk : k < 8) (x : Nat → Bool) (F : Nat → Group → Bool) (gr : Group) :
    ∀ (l : List Nat) (q : Group), q = { gr with p := q.p } →
      (∀ i ∈ l, ∀ q : Group, q = { gr with p := q.p } → F i q = x i) →
      let z := q.eachLane l fun i p => p.pSet i k (F i p)
      z = { gr with p := z.p } ∧ ∀ i, ∀ j < 8, z.pGet i j = if j = k ∧ i ∈ l then x i else q.pGet i j
  | [], q, only, _ => ⟨only, fun i j _ => by simp [Group.eachLane]⟩
  | a :: l, q, only, given => by
    have next : q.pSet a k (F a q) = { gr with p := (q.pSet a k (F a q)).p } := by
      rw [only]
      rfl
    obtain ⟨rest, read⟩ := Group.eachLane_pSet_each k hk x F gr l _ next fun i hi => given i (.tail _ hi)
    refine ⟨rest, fun i j hj => (read i j hj).trans ?_⟩
    rw [Group.pGet_pSet _ _ _ _ _ _ hk hj, given a (.head _) q only]
    by_cases here : j = k
    · by_cases first : i = a
      · simp [here, first]
      · simp [here, first]
    · simp [here]

section
variable {s : State} {g : GroupRef} {gr : Group} (h : Ready s g gr) {f : BitVec 48} {op cls : Nat} {c : Instr}
include h

theorem compare_becomes (va : fVA (opWord f 0) < s.vregs g.core) (vb : fVB (opWord f 0) < s.vregs g.core)
    (defined : fld (opWord f 0) 56 3 ≤ 5) (F : Nat → BitVec 32 → BitVec 32 → Bool)
    (hc : exec c s = issued g (opWord f op) cls (compare g (opWord f op) F) s) :
    PredsBecome c s g gr (fld (opWord f 0) 53 3) (gr.runs (opWord f 0)) fun i =>
      F (fld (opWord f 0) 56 3) (gr.vGet i (fVA (opWord f 0))) (gr.vGet i (fVB (opWord f 0))) := by
  rw [fVA_opWord f 0 op] at *
  rw [fVB_opWord f 0 op] at *
  rw [fld_opWord f 0 op 56 3 (by decide)] at *
  rw [fld_opWord f 0 op 53 3 (by decide)]
  have lanes := Group.mem_execLanes gr (opWord f op)
  obtain ⟨rest, read⟩ := Group.eachLane_pSet_each (fModP (opWord f op)) (BitVec.isLt _)
    (fun i => F (fCond (opWord f op)) (gr.vGet i (fVA (opWord f op))) (gr.vGet i (fVB (opWord f op))))
    (fun i q => F (fCond (opWord f op)) (q.vGet i (fVA (opWord f op))) (q.vGet i (fVB (opWord f op)))) gr
    (gr.execLanes (opWord f op)) gr rfl fun i _ q only => by rw [only]; rfl
  refine ⟨_, groupOnly_becomes h _ _ _ _ (checked_ok _ (decide_eq_false (Nat.not_lt.mpr defined))
    (regsOk_single (l := [_, _]) (by simpa using ⟨va, vb⟩))) c hc, congrArg Group.advance rest, fun i hi k hk => (read i k hk).trans ?_⟩
  simp only [lanes, gr.runs_opWord f op 0, hi, true_and]
  rfl

end

theorem condHolds_iff {cond : Nat} (defined : cond ≤ 5) (x : Int) : condHolds cond x = true ↔
    (cond = 0 ∧ x = 0) ∨ (cond = 1 ∧ ¬x = 0) ∨ (cond = 2 ∧ x < 0) ∨ (cond = 3 ∧ (x < 0 ∨ x = 0)) ∨ (cond = 4 ∧ ¬x < 0 ∧ ¬x = 0) ∨
      (cond = 5 ∧ ¬x < 0) := by
  unfold condHolds
  interval_cases cond <;> simp <;> omega

/-- A signed comparison as a condition on an ordering. -/
theorem intCond_order (a b : BitVec 32) : ∃ o : Int, (∀ cond, intCond cond a b = condHolds cond o) ∧ (o < 0 ↔ a.toInt < b.toInt) ∧
    (o = 0 ↔ a = b) := by
  refine ⟨_, fun _ => rfl, ?_⟩
  rw [← BitVec.toInt_inj]
  rcases Int.lt_trichotomy a.toInt b.toInt with less | equal | more
  · simp [less, less.ne]
  · simp [equal]
  · simp [more.not_gt, more.ne']

/-- Settles O3, by the orderings that the conditions are of. -/
theorem compareResults : Obligations.CompareResults := by
  unfold Obligations.CompareResults
  intro g f s gr h w a b cond holds va vb defined
  refine ⟨⟨_, compare_becomes h (op := 0x000D) va vb defined intCond rfl, fun i => ?_⟩,
    ⟨_, compare_becomes h (op := 0x1006) va vb defined fpCond rfl, fun i => ⟨fun nan => ?_, fun p q => ?_⟩⟩⟩
  · obtain ⟨o, ordered, less, equal⟩ := intCond_order (a i) (b i)
    unfold holds
    rw [← less, ← equal]
    exact (Eq.congr_left (ordered cond)).trans (condHolds_iff defined o)
  · unfold fpCond
    rw [if_pos (by simpa using nan)]
    exact decide_eq_true_iff
  · unfold fpCond
    rw [if_neg (by simp only [Bool.or_eq_true, not_or]; exact ⟨p, q⟩)]
    exact condHolds_iff defined _

end Sys2Proof.Machine
end

section
/-! SUPPORT and proof. Uniform instructions and descriptor loads (R181): statements O5 and O6. -/

namespace Sys2Proof.Machine
open Sys2Proof

theorem fUD_opWord (f : BitVec 48) (op op' : Nat) : fUD (opWord f op) = fUD (opWord f op') := fld_opWord f op op' 21 6 (by decide)
theorem fUA_opWord (f : BitVec 48) (op op' : Nat) : fUA (opWord f op) = fUA (opWord f op') := fld_opWord f op op' 27 6 (by decide)
theorem fUB_opWord (f : BitVec 48) (op op' : Nat) : fUB (opWord f op) = fUB (opWord f op') := fld_opWord f op op' 33 6 (by decide)
theorem fDD_opWord (f : BitVec 48) (op op' : Nat) : fDD (opWord f op) = fDD (opWord f op') := fld_opWord f op op' 21 4 (by decide)

theorem fImm25_opWord (f : BitVec 48) (op : Nat) : fImm25 (opWord f op) = ((opWord f 0).extractLsb' 39 25).toInt :=
  congrArg BitVec.toInt (opWord_extractLsb' f op 0 39 25 (by decide))

theorem lanesOf_nodup (m : BitVec 32) : (lanesOf m).Nodup := List.nodup_range.filter _

theorem mem_lanesOf (m : BitVec 32) (i : Nat) : i ∈ lanesOf m ↔ i < 32 ∧ m.getLsbD i = true := by
  simp [lanesOf, List.mem_filter]

/-- The first active lane is the lowest one. -/
theorem Group.lowestLane_eq {gr : Group} {i : Nat} (hi : i < 32) (active : gr.active.getLsbD i = true)
    (first : ∀ j < i, gr.active.getLsbD j = false) (r : Nat) : gr.lowestLane r = gr.vGet i r := by
  have found : (lanesOf gr.active).head? = some i := by
    unfold lanesOf
    rw [List.head?_filter, List.find?_range_eq_some]
    exact ⟨active, List.mem_range.mpr hi, fun j hj => by rw [first j hj]; rfl⟩
  unfold Group.lowestLane
  cases lanes : lanesOf gr.active with
  | nil => rw [lanes] at found; cases found
  | cons k l =>
    rw [lanes] at found
    cases found
    rfl

section
variable {s : State} {g : GroupRef} {gr : Group} (h : Ready s g gr) {w : BitVec 64} {cls : Nat} {c : Instr}
  {body : State → Group → Issue} (hc : exec c s = issued g w cls body s)
include h hc

/-- An instruction that writes VD of every active thread. -/
theorem vSet_active_becomes {vd : Nat} (hvd : vd < 256) {F : Nat → Group → BitVec 32}
    (hb : body s gr = groupOnly g (fun gr => gr.eachLane (lanesOf gr.active) fun i q => q.vSet i vd (F i q)) s gr) {x : Nat → BitVec 32}
    (hx : ∀ i < 32, ∀ q : Group, q = { gr with v := q.v } → (∀ r < 256, q.vGet i r = gr.vGet i r) → F i q = x i) :
    LanesBecome c s g gr vd (fun i => gr.active.getLsbD i) x :=
  vSet_becomes h hc hvd (lanesOf_nodup _) (F := F) (hb.trans rfl) (mem_lanesOf _) hx

/-- An instruction that leaves its group in a value and does nothing else. -/
theorem setGroup_becomes {q : Group} (hb : body s gr = .done (s.setGroup g q)) : GroupBecomes c s g q :=
  ⟨_, issued_done h hc hb, State.setGroup_countSlot ..⟩

end

/-- The codes of S2U that the statement names. -/
theorem special_eq {s : State} {g : GroupRef} {gr : Group} {code : Nat} {x : BitVec 64}
    (h : (code = 0x00 ∧ x = gr.active.setWidth 64) ∨ (code = 0x01 ∧ x = BitVec.ofNat 64 g.slot) ∨
      (code = 0x02 ∧ x = BitVec.ofNat 64 g.core) ∨ (code = 0x03 ∧ x = BitVec.ofNat 64 (g.core / 16)) ∨
      (code = 0x07 ∧ x = BitVec.ofNat 64 s.clk.now) ∨ (code = 0x08 ∧ x = (s.epoch 0).setWidth 64) ∨
      (code = 0x0A ∧ x = (s.core g.core).flagWord)) : special s g gr code = some x := by
  obtain ⟨rfl, rfl⟩ | ⟨rfl, rfl⟩ | ⟨rfl, rfl⟩ | ⟨rfl, rfl⟩ | ⟨rfl, rfl⟩ | ⟨rfl, rfl⟩ | ⟨rfl, rfl⟩ := h
  all_goals rfl

theorem special_none {s : State} {g : GroupRef} {gr : Group} {code : Nat} (h : 0x0B < code) : special s g gr code = none := by
  obtain ⟨n, rfl⟩ : ∃ n, code = n + 12 := ⟨code - 12, by omega⟩
  rfl

/-- Settles O5: each instruction writes one u register, or VD of the active threads; S2U by its code. -/
theorem uniformResults : Obligations.UniformResults := by
  unfold Obligations.UniformResults
  intro g f s gr h w code
  have named : fld (f ++ (0x3005 : BitVec 16)) 39 8 = code := fld_opWord f 0x3005 0 39 8 (by decide)
  refine ⟨?_, ?_, fun va i hi active first => ?_, fun vd => ?_, fun vd imm => ?_, fun x given => ?_, fun undefined => ?_⟩
  · rw [fUD_opWord f 0 0x3001, fUA_opWord f 0 0x3001, fUB_opWord f 0 0x3001]
    exact uSet_becomes h (w := opWord f 0x3001) (cls := 4) (c := .uadd g f) rfl rfl
  · rw [fUD_opWord f 0 0x3002]
    refine uSet_becomes h (w := opWord f 0x3002) (cls := 4) (c := .umovi g f) rfl ?_
    rw [BitVec.signExtend, ← fImm25_opWord f 0x3002]
    rfl
  · rw [fVA_opWord f 0 0x3004] at va ⊢
    rw [fUD_opWord f 0 0x3004, ← Group.lowestLane_eq hi active first]
    exact uSet_becomes h (w := opWord f 0x3004) (cls := 4) (c := .v2u g f) rfl
      (checked_ok _ rfl (regsOk_single (l := [_]) (by simpa using va)))
  · rw [fVD_opWord f 0 0x3003] at vd ⊢
    rw [fUB_opWord f 0 0x3003]
    exact vSet_active_becomes h (w := opWord f 0x3003) (cls := 4) (c := .u2v g f) rfl (fVD_lt _)
      (checked_ok _ rfl (regsOk_single (l := [_]) (by simpa using vd))) fun i _ q only _ => by rw [only]; rfl
  · rw [fVD_opWord f 0 0x3006] at vd ⊢
    have zero : fImm25 (opWord f 0x3006) = 0 := by rw [fImm25_opWord, imm]; rfl
    exact vSet_active_becomes h (w := opWord f 0x3006) (cls := 4) (c := .s2v g f) rfl (fVD_lt _)
      (checked_ok _ (by simp [zero]) (regsOk_single (l := [_]) (by simpa using vd))) fun _ _ _ _ _ => rfl
  · rw [fUD_opWord f 0 0x3005]
    refine uSet_becomes h (w := opWord f 0x3005) (cls := 4) (c := .s2u g f) rfl ?_
    rw [named, special_eq given]
    rfl
  · refine issued_raises h (c := .s2u g f) rfl ?_
    rw [named, special_none undefined]

/-! ### Reads of local memory -/

theorem hbmEnd_le_localBase (n : Nat) : hbmEnd ≤ localBase n := by
  unfold hbmEnd localBase
  omega

/-- Only reads of HBM fail (R232). -/
theorem State.readFails_local (s : State) {w : Nat} (far : hbmEnd ≤ 8 * w) : s.readFails w = false := by
  have away : regionOf (8 * w) ≠ .hbm := by
    unfold regionOf
    rw [if_neg (by omega)]
    repeat' split
    all_goals nofun
  simp [State.readFails, away]

theorem State.readWord_local {s : State} {w : Nat} (h : CleanWord s w) (far : hbmEnd ≤ 8 * w) (det : Detect) :
    s.readWord w det = ((s.memWord w, false), s) := by
  have picked : s.pickWord w = (s.rawWord w, s) := by
    unfold State.pickWord
    rw [h.still]
  have data : codeData (s.rawWord w) = s.memWord w := BitVec.extractLsb'_append_eq_right
  have plain : ∀ t : State, t.countPoisonRead w false = t := fun _ => rfl
  unfold State.readWord
  simp only [picked, s.readFails_local far, h.code, h.poison, data, plain, Bool.false_eq_true, if_false, ite_self]

theorem State.readRun_local {s : State} (det : Detect) : ∀ (ws : List Nat), (∀ w ∈ ws, CleanWord s w ∧ hbmEnd ≤ 8 * w) →
    s.readRun det none ws = (ws.map fun w => (s.memWord w, false), s)
  | [], _ => rfl
  | w :: ws, h => by
    obtain ⟨clean, far⟩ := h w (by simp)
    have rest := State.readRun_local det ws fun v hv => h v (by simp [hv])
    unfold State.readRun
    simp [State.readWord_local clean far, s.readFails_local far, rest]

theorem spanWords_far {a n w : Nat} (far : hbmEnd ≤ a) (hw : w ∈ spanWords a n) : hbmEnd ≤ 8 * w := by
  unfold spanWords at hw
  rw [List.mem_range'_1] at hw
  unfold hbmEnd at *
  omega

/-- A read of clean bytes of local memory delivers them, and leaves the state. -/
theorem State.readBytes_local {s : State} {a n : Nat} (h : CleanBytes s a n) (far : hbmEnd ≤ a) (det : Detect) :
    s.readBytes a n det = ((s.memBytes a n, (spanWords a n).map fun _ => false), s) := by
  have words := State.readRun_local det (spanWords a n) fun w hw => ⟨h w hw, spanWords_far far hw⟩
  have bytes : ((spanWords a n).map fun w => (s.memWord w, false)).flatMap (fun x => wordBytes x.1) =
      s.memBytes (8 * (a / 8)) (8 * ((a + n + 7) / 8 - a / 8)) := by
    rw [List.flatMap_map]
    exact s.memBytes_words ..
  unfold State.readBytes State.readWords
  rw [words]
  simp only [bytes, List.map_map]
  rw [s.memBytes_slice _ _ _ _ (by omega), show 8 * (a / 8) + a % 8 = a by omega]
  rfl

theorem State.readNat_local {s : State} {a n : Nat} (h : CleanBytes s a n) (far : hbmEnd ≤ a) :
    s.readNat a n = ((bytesNat (s.memBytes a n), false), s) := by
  unfold State.readNat
  rw [State.readBytes_local h far]
  simp

/-! ### DLD -/

theorem Group.dGet_dSet (q : Group) (r k : Nat) (x : BitVec 256) : (q.dSet r x).dGet k = if k = r then x else q.dGet k :=
  SMap.get_set 0 x r k q.d

/-- An instruction that loads one d register. -/
theorem dSet_becomes {s : State} {g : GroupRef} {gr : Group} (h : Ready s g gr) {w : BitVec 64} {cls : Nat} {c : Instr}
    {body : State → Group → Issue} (hc : exec c s = issued g w cls body s) {r : Nat} {x : BitVec 256}
    (hb : body s gr = groupOnly g (fun q => q.dSet r x) s gr) :
    ∃ q, GroupBecomes c s g q ∧ q = { gr with pc := gr.pc + 8, d := q.d } ∧ ∀ k, q.dGet k = if k = r then x else gr.dGet k :=
  ⟨_, groupOnly_becomes h w cls body _ hb c hc, rfl, fun k => gr.dGet_dSet r k x⟩

/-- The address of a DLD. -/
def dldAddr (w : BitVec 64) (gr : Group) : Int := ((gr.uGet (fUA w)).toNat : Int) + fImm25 w

/-- What a DLD does at an address: it is checked, read, and loaded. -/
def dldAt (g : GroupRef) (w : BitVec 64) (a : Int) (s : State) (gr : Group) : Issue :=
  if a % 32 ≠ 0 then .exc { gr.exc cAlignment 0x01 with addr := BitVec.ofInt 64 a }
  else if a < 0 ∨ (localEnd : Int) ≤ a then .exc { gr.exc cKey 0x01 with addr := BitVec.ofInt 64 a }
  else if (s.readNat (localBase g.core + a.toNat) 32).1.2 then
    .excAfter { gr.exc cPoison 0x06 with addr := BitVec.ofInt 64 a } (s.readNat (localBase g.core + a.toNat) 32).2
  else groupOnly g (fun gr => gr.dSet (fDD w) (BitVec.ofNat 256 (s.readNat (localBase g.core + a.toNat) 32).1.1))
    (s.readNat (localBase g.core + a.toNat) 32).2 gr

theorem exec_dld (g : GroupRef) (f : BitVec 48) (s : State) : exec (.dld g f) s =
    issued g (opWord f 0x3007) 4 (fun s gr => dldAt g (opWord f 0x3007) (dldAddr (opWord f 0x3007) gr) s gr) s := rfl

/-- Settles O6: the address takes one of the three branches. -/
theorem descriptorLoad : Obligations.DescriptorLoad := by
  unfold Obligations.DescriptorLoad
  intro g f s gr h w a
  have at_ : dldAddr (opWord f 0x3007) gr = a := by
    unfold dldAddr
    rw [fImm25_opWord, fUA_opWord f 0x3007 0]
  refine ⟨fun n here aligned inside clean => ?_, fun odd => ?_, fun aligned out => ?_⟩
  · have read := State.readNat_local clean (le_trans (hbmEnd_le_localBase _) (Nat.le_add_right ..))
    refine dSet_becomes h (exec_dld g f s) ?_
    rw [at_, here, dldAt, if_neg (by omega), if_neg (by omega), Int.toNat_natCast, read, if_neg Bool.false_ne_true, fDD_opWord f 0x3007 0]
  · refine issued_raises h (exec_dld g f s) ?_
    dsimp only
    rw [at_, dldAt, if_pos odd]
  · refine issued_raises h (exec_dld g f s) ?_
    dsimp only
    rw [at_, dldAt, if_neg (not_not.mpr aligned), if_pos out]

end Sys2Proof.Machine
end

section
/-! SUPPORT. What memory's own work and a core exception leave of the cores: all but the values that running operations note (R151). -/

namespace Sys2Proof.Machine
open Sys2Proof

/-- From `s` to `t` the operations of a core may note earlier words; nothing else of a core changes. -/
structure Noted (s t : State) : Prop where
  core : ∀ n, t.core n = { s.core n with ops := (t.core n).ops }

namespace Noted

theorem of_cores {s t : State} (h : t.cores = s.cores) : Noted s t := ⟨fun n => by
  unfold State.core
  rw [h]⟩

theorem refl (s : State) : Noted s s := of_cores rfl

theorem trans {s t u : State} (h : Noted s t) (k : Noted t u) : Noted s u := ⟨fun n => by rw [k.core n, h.core n]⟩

theorem ite {r s t : State} {c : Prop} [Decidable c] (h : Noted r s) (k : Noted r t) : Noted r (if c then s else t) := by
  split
  · exact h
  · exact k

theorem foldl {α : Type} {f : State → α → State} (step : ∀ s x, Noted s (f s x)) : ∀ (l : List α) (s : State), Noted s (l.foldl f s)
  | [], s => .refl s
  | x :: l, s => (step s x).trans (foldl step l (f s x))

theorem group {s t : State} (h : Noted s t) (g : GroupRef) : t.group? g = s.group? g := by
  unfold State.group?
  rw [h.core]

end Noted

theorem CountFrame.noted {s t : State} {set : Nat} (h : CountFrame s t set) : Noted s t := .of_cores (by rw [h.rest])

theorem State.setRaw_noted (s : State) (w : Nat) (x : CodeWord) : Noted s (s.setRaw w x) := by
  have data : Noted s (s.setMemWord w (codeData x)) := Noted.foldl (fun t i => (.of_cores rfl : Noted t (t.setMemByte _ _))) _ s
  unfold State.setRaw
  generalize s.setMemWord w (codeData x) = t at data
  exact data.trans (.of_cores rfl)

theorem State.pickWord_noted (s : State) (w : Nat) : Noted s (s.pickWord w).2 := by
  unfold State.pickWord
  split
  · exact .refl s
  · exact .of_cores rfl

theorem State.memCE_noted (s : State) (st : Storage) (ty inst addr p q : Nat) (det : Detect) :
    Noted s (s.memCE st ty inst addr p q det) := .ite (.of_cores rfl) (.of_cores rfl)

theorem State.memUE_noted (s : State) (st : Storage) (ty inst addr : Nat) (det : Detect) : Noted s (s.memUE st ty inst addr det) :=
  .of_cores rfl

theorem State.setFails_noted (s : State) (l : List Nat) : Noted s { s with hbmReadFails := l } := .of_cores rfl

theorem State.countPoisonRead_noted (s : State) (w : Nat) (p : Bool) : Noted s (s.countPoisonRead w p) := .ite (.of_cores rfl) (.refl s)

theorem State.readWord_noted (s : State) (w : Nat) (det : Detect) : Noted s (s.readWord w det).2 := by
  unfold State.readWord
  extract_lets r x t src live given
  have picked : Noted s t := s.pickWord_noted w
  have gave : ∀ u p, Noted u (given u p) := fun u p => .ite (.refl u) (u.countPoisonRead_noted w p)
  clear_value given t
  split
  · exact (picked.trans (t.setFails_noted _)).trans (gave _ _)
  · split
    · exact picked.trans (gave _ _)
    · exact ((picked.trans (.ite (t.setRaw_noted w _) (.refl t))).trans (State.memCE_noted ..)).trans (gave _ _)
    · exact ((picked.trans (.ite (t.setRaw_noted w _) (.refl t))).trans (State.memUE_noted ..)).trans (gave _ _)

theorem State.noteOld_noted (s : State) (w : Nat) (x : CodeWord) : Noted s (s.noteOld w x) := by
  unfold State.noteOld
  split
  · dsimp only
    refine .ite (.refl s) ⟨fun m => ?_⟩
    rw [State.core_setCore]
    split
    · next here => rw [here]
    · rfl
  · exact .refl s

theorem State.seenWrite_noted (s : State) (w : Nat) : Noted s (s.seenWrite w) := by
  unfold State.seenWrite
  split
  · exact .refl s
  · exact .of_cores rfl

theorem State.updWord_noted (s : State) (w : Nat) (f : CodeWord → CodeWord) : Noted s (s.updWord w f) := by
  have seen : Noted s ((s.noteStore w).seenWrite w) := (s.noteOld_noted w _).trans (State.seenWrite_noted ..)
  unfold State.updWord
  generalize (s.noteStore w).seenWrite w = t at seen
  dsimp only
  split
  · exact seen.trans (t.setRaw_noted ..)
  · refine seen.trans (.ite ?_ (.of_cores rfl))
    exact (Noted.of_cores rfl : Noted t { t.fresh.2 with racy := t.fresh.2.racy.filter fun q => decide (q.word ≠ w) }).trans
      (State.setRaw_noted ..)

theorem State.mergeWord_noted (s : State) (w i : Nat) (bs : List Byte) : Noted s (s.mergeWord w i bs) := by
  have read := s.readWord_noted w .merged
  unfold State.mergeWord
  generalize (s.readWord w .merged).2 = t at read
  exact read.trans (t.updWord_noted ..)

theorem State.writeFuel_noted : ∀ (n : Nat) (s : State) (a : Nat) (bs : List Byte) (p : Bool), Noted s (State.writeFuel n s a bs p)
  | 0, s, _, _, _ => .refl s
  | n + 1, s, a, bs, p => by
    unfold State.writeFuel
    split
    · exact .refl s
    · exact (Noted.ite (s.updWord_noted ..) (s.mergeWord_noted ..)).trans (State.writeFuel_noted n _ _ _ p)

theorem State.countSpan_noted (s : State) (at_ : Attr) (ev a n : Nat) : Noted s (s.countSpan at_ ev a n) := by
  refine Noted.foldl (fun t g => ?_) _ s
  unfold State.countMem
  dsimp only
  split
  · split
    · exact (t.count_frame ..).noted.trans (State.count_frame ..).noted
    · exact (t.count_frame ..).noted
  · exact (t.count_frame ..).noted
  · exact .refl t

theorem State.sendInvalidate_noted (s : State) (line : Nat) (c : Coord) : Noted s (s.sendInvalidate line c) := by
  unfold State.sendInvalidate State.launchPacket State.sendPacket State.queuePacket State.dropQueued
  dsimp only
  repeat' split
  all_goals exact .of_cores rfl

theorem State.invalidateLine_noted (s : State) (line : Nat) : Noted s (s.invalidateLine line) := by
  have forgotten : ∀ d, Noted s { s with fab := { s.fab with directory := d } } := fun _ => .of_cores rfl
  unfold State.invalidateLine
  exact (forgotten _).trans (Noted.foldl (fun t c => t.sendInvalidate_noted line c) _ _)

theorem State.coherentWrite_noted (s : State) (a n : Nat) : Noted s (s.coherentWrite a n) := by
  refine Noted.foldl (fun t e => ?_) _ s
  have invalidated := t.invalidateLine_noted e.1
  dsimp only
  split
  · exact invalidated
  · exact invalidated.trans (.of_cores rfl)

theorem State.devWrite_noted (s : State) (at_ : Attr) (a : Nat) (bs : List Byte) : Noted s (s.devWrite at_ a bs) :=
  ((s.countSpan_noted ..).trans (State.coherentWrite_noted ..)).trans (State.writeFuel_noted ..)

/-! ### Core exceptions -/

theorem State.writeTies_noted (core : Nat) (l : Launch) : ∀ (rs : List (Nat × List Byte)) (i : Nat) (s : State),
    Noted s (s.writeTies core l i rs)
  | [], _, s => .refl s
  | r :: rs, i, s => by
    unfold State.writeTies
    exact .ite ((s.devWrite_noted ..).trans (State.writeTies_noted core l rs ..)) (.refl s)

theorem State.recordExc_noted (s : State) (g : GroupRef) (gr : Group) (word : BitVec 64) (e : Exc) (l : Launch) :
    Noted s (s.recordExc g gr word e l) := by
  unfold State.recordExc
  extract_lets same base ties room t u
  have wrote : Noted s t := State.writeTies_noted ..
  clear_value t
  have logged : Noted t u := .ite (.of_cores rfl) (.refl t)
  exact (wrote.trans logged).trans (.of_cores rfl)

theorem State.countDescFault_noted (s : State) (opcode : Nat) : Noted s (s.countDescFault opcode) := .ite (.of_cores rfl) (.of_cores rfl)

/-- The counts and records of an exception (R12, R198, R199). -/
def State.excRecorded (s : State) (g : GroupRef) (gr : Group) (word : BitVec 64) (e : Exc) : State :=
  let s1 := (s.odAdd Od.thrExcCount 1).event 0x03 g.core 0x0102 sevError
    [(16, 1, e.cause.toNat), (17, 1, e.detail.toNat), (18, 1, g.slot), (20, 5, gr.pc.toNat), (25, 4, (s.launchId g.core).1.toNat)]
  let s1 := if e.cause = 0x4 then s1.countDescFault (fld word 0 16) else s1
  match s1.launchOf g.core with
  | some l => s1.recordExc g gr word e l
  | none => s1

theorem State.excRecorded_noted (s : State) (g : GroupRef) (gr : Group) (word : BitVec 64) (e : Exc) :
    Noted s (s.excRecorded g gr word e) := by
  unfold State.excRecorded
  extract_lets t u
  have logged : Noted s t := .of_cores rfl
  clear_value t
  have counted : Noted t u := .ite (t.countDescFault_noted _) (.refl t)
  clear_value u
  split
  · exact (logged.trans counted).trans (State.recordExc_noted ..)
  · exact logged.trans counted

theorem State.takeExc_some {s : State} {g : GroupRef} {gr : Group} (h : s.group? g = some gr) (word : BitVec 64) (e : Exc) :
    s.takeExc g word e = (s.excRecorded g gr word e).stopGroup g := by
  unfold State.takeExc
  rw [h]
  rfl

/-- A group that leaves its slot is no longer there. -/
theorem State.dropGroup_gone {s : State} {g : GroupRef} : (s.dropGroup g).group? g = none := by
  unfold State.dropGroup
  split
  · assumption
  · unfold State.group? State.removeGroup
    rw [State.core_setCore_self, SMap.find?_erase, if_pos rfl]

/-- A group that stops either leaves its slot or stays in it as it was, but for its hold and its failed transactions. -/
theorem State.stopGroup_group {s : State} {g : GroupRef} {gr : Group} (h : s.group? g = some gr) :
    (s.stopGroup g).group? g = none ∨ (s.stopGroup g).group? g = some { gr with hold := .stopped, fails := [] } := by
  unfold State.stopGroup
  rw [h]
  dsimp only
  have stands := (s.group?_setGroup g g { gr with hold := .stopped, fails := [] }).trans (if_pos rfl)
  generalize s.setGroup g { gr with hold := .stopped, fails := [] } = t at *
  unfold State.reap
  rw [stands]
  dsimp only
  split
  · exact .inl State.dropGroup_gone
  · exact .inr stands

theorem State.takeExc_group {s : State} {g : GroupRef} {gr q : Group} (h : s.group? g = some gr) {word : BitVec 64} {e : Exc}
    (left : (s.takeExc g word e).group? g = some q) : q = { gr with hold := .stopped, fails := [] } := by
  rw [State.takeExc_some h] at left
  obtain gone | stands := State.stopGroup_group (((s.excRecorded_noted g gr word e).group g).trans h)
  · rw [gone] at left
    cases left
  · rw [stands] at left
    cases left
    rfl

theorem State.issuer_group {s : State} {g : GroupRef} {gr : Group} (h : s.issuer g = some gr) : s.group? g = some gr := by
  unfold State.issuer at h
  split at h
  · next resident =>
    split at h
    · cases h
      exact resident
    · cases h
  · cases h

end Sys2Proof.Machine
end

section
/-! SUPPORT and proof. Control flow, the end of threads, and the core barrier (R182 to R186): statements O7, O8 and O9. -/

namespace Sys2Proof.Machine
open Sys2Proof

/-! ### Masks, targets and the stack -/

theorem Group.execMask_opWord (gr : Group) (f : BitVec 48) (op : Nat) : gr.execMask (opWord f op) = maskOf (gr.runs (opWord f 0)) :=
  congrArg maskOf (funext fun i => gr.runs_opWord f op 0 i)

theorem Group.target_opWord (gr : Group) (f : BitVec 48) (op : Nat) :
    gr.target (opWord f op) = gr.pc + 8 * ((opWord f 0).extractLsb' 32 32).signExtend 40 := by
  unfold Group.target fOffset sfld
  rw [opWord_extractLsb' f op 0 32 32 (by decide), BitVec.ofInt_mul]
  rfl

/-- Entries whose threads have all ended are passed over. -/
theorem popStack_found {live : BitVec 32} {e : StackEntry} (st : List StackEntry) (alive : e.mask &&& live ≠ 0) :
    ∀ dead : List StackEntry, (∀ d ∈ dead, d.mask &&& live = 0) → popStack live (dead ++ e :: st) = some (e.pc, e.mask &&& live, st)
  | [], _ => if_neg alive
  | d :: dead, h => (if_pos (h d (by simp))).trans (popStack_found st alive dead fun x hx => h x (by simp [hx]))

theorem popStack_none {live : BitVec 32} : ∀ dead : List StackEntry, (∀ d ∈ dead, d.mask &&& live = 0) → popStack live dead = none
  | [], _ => rfl
  | d :: dead, h => (if_pos (h d (by simp))).trans (popStack_none dead fun x hx => h x (by simp [hx]))

theorem Group.pop_found {gr : Group} {dead : List StackEntry} {e : StackEntry} {st : List StackEntry} (stack : gr.stack = dead ++ e :: st)
    (ended : ∀ d ∈ dead, d.mask &&& gr.live = 0) (alive : e.mask &&& gr.live ≠ 0) :
    gr.pop = some { gr with pc := e.pc, active := e.mask &&& gr.live, stack := st } := by
  unfold Group.pop
  rw [stack, popStack_found st alive dead ended]
  rfl

theorem Group.pop_none {gr : Group} (ended : ∀ d ∈ gr.stack, d.mask &&& gr.live = 0) : gr.pop = none := by
  unfold Group.pop
  rw [popStack_none _ ended]
  rfl

/-! ### NOP, BRA, CALL, RPUSH and RJOIN -/

/-- What a BRA does. -/
def braIssue (g : GroupRef) (w : BitVec 64) (s : State) (gr : Group) : Issue :=
  if gr.active &&& ~~~gr.execMask w = 0 then .done (s.setGroup g { gr with pc := gr.target w })
  else if gr.execMask w = 0 then .done (s.setGroup g gr.advance)
  else if gr.stackFull then .exc (gr.exc cIllegal 0x04)
  else .done (s.setGroup g { gr with
    pc := gr.target w, active := gr.execMask w, stack := ⟨true, gr.nextPc, gr.active &&& ~~~gr.execMask w⟩ :: gr.stack })

theorem exec_bra (g : GroupRef) (f : BitVec 48) (s : State) :
    exec (.bra g f) s = issued g (opWord f 0x4001) 5 (braIssue g (opWord f 0x4001)) s := rfl

/-- What an RPUSH does. -/
def rpushIssue (g : GroupRef) (w : BitVec 64) (s : State) (gr : Group) : Issue :=
  if gr.stackFull then .exc (gr.exc cIllegal 0x04)
  else .done (s.setGroup g { gr with stack := ⟨false, gr.target w, gr.active⟩ :: gr.stack }.advance)

theorem exec_rpush (g : GroupRef) (f : BitVec 48) (s : State) :
    exec (.rpush g f) s = issued g (opWord f 0x4002) 5 (rpushIssue g (opWord f 0x4002)) s := rfl

/-- A group goes on at the entry that it pops, or raises an exception. -/
def popIssue (g : GroupRef) (s : State) (gr q : Group) : Issue :=
  match q.pop with
  | none => .exc (gr.exc cIllegal 0x05)
  | some q' => .done (s.setGroup g q')

theorem exec_rjoin (g : GroupRef) (f : BitVec 48) (s : State) :
    exec (.rjoin g f) s = issued g (opWord f 0x4003) 5 (fun s gr => popIssue g s gr gr) s := rfl

theorem Group.stackFull_iff (gr : Group) : gr.stackFull = true ↔ 32 ≤ gr.stack.length := decide_eq_true_iff

/-- Settles O7: a BRA by the masks, a pop by the first entry that is left; an exception leaves the stack. -/
theorem controlFlow : Obligations.ControlFlow := by
  unfold Obligations.ControlFlow
  intro g f s gr h w target taken rest
  have mask : ∀ op, gr.execMask (opWord f op) = taken := gr.execMask_opWord f
  have jump : ∀ op, gr.target (opWord f op) = target := gr.target_opWord f
  refine ⟨groupOnly_becomes h (opWord f 0x4000) 5 _ (fun gr => gr) rfl (.nop g f) rfl, fun all => ?_, fun some none => ?_,
    fun some not room => ?_, fun room => ?_, fun dead e st stack ended alive => ?_, ⟨_, setGroup_becomes h (c := .call g f) rfl rfl, ?_, fun r => ?_⟩,
    fun full => ?_, fun ended => ?_⟩
  · refine setGroup_becomes h (exec_bra g f s) ?_
    rw [braIssue, mask, if_pos all, jump]
  · refine setGroup_becomes h (exec_bra g f s) ?_
    rw [braIssue, mask, if_neg some, if_pos none]
    rfl
  · refine setGroup_becomes h (exec_bra g f s) ?_
    rw [braIssue, mask, if_neg some, if_neg not, if_neg (by rw [gr.stackFull_iff]; omega), jump]
    rfl
  · refine setGroup_becomes h (exec_rpush g f s) ?_
    rw [rpushIssue, if_neg (by rw [gr.stackFull_iff]; omega), jump]
    rfl
  · refine setGroup_becomes h (exec_rjoin g f s) ?_
    rw [popIssue, Group.pop_found stack ended alive]
  · rw [← jump 0x4004]
    rfl
  · rw [fUD_opWord f 0 0x4004]
    exact gr.uGet_uSet ..
  · refine issued_raises h (exec_rpush g f s) ?_
    rw [rpushIssue, if_pos (gr.stackFull_iff.mpr full)]
  · have raises : Raises (.rjoin g f) s g 5 (opWord f 0x4003) (gr.exc cIllegal 0x05) := by
      refine issued_raises h (exec_rjoin g f s) ?_
      rw [popIssue, Group.pop_none ended]
    refine ⟨raises, fun t q run left => ?_⟩
    rw [raises] at run
    cases run
    rw [State.takeExc_group ((State.countSlot_group? ..).trans (State.issuer_group h.issuer)) left]

/-! ### END and RET -/

/-- What an END does, by the group without its executing threads. -/
def endIssue (g : GroupRef) (w : BitVec 64) (s : State) (gr q : Group) : Issue :=
  if q.live = 0 then s.endCheck g gr w
  else if q.active = 0 then popIssue g s gr q
  else .done (s.setGroup g q.advance)

theorem exec_endThreads (g : GroupRef) (f : BitVec 48) (s : State) : exec (.endThreads g f) s =
    issued g (opWord f 0x4006) 5 (fun s gr => endIssue g (opWord f 0x4006) s gr (gr.without (gr.execMask (opWord f 0x4006)))) s := rfl

/-- The last thread ends of a group with nothing to wait for and nothing to raise. -/
theorem State.endCheck_free {s : State} {g : GroupRef} {gr : Group} (quiet : s.groupPosting g = false) (fails : gr.fails = [])
    (tokens : (s.core g.core).tokens = []) (w : BitVec 64) : s.endCheck g gr w = .done (s.dropGroup g) := by
  unfold State.endCheck
  rw [quiet, if_neg Bool.false_ne_true, State.fenceFail, fails, Core.firstOpen, tokens]
  rfl

/-- Where a core has no tokens none becomes free. -/
theorem State.freeTokens_core {s : State} {g : GroupRef} (tokens : (s.core g.core).tokens = []) (m : Nat) :
    (s.freeTokens g).core m = s.core m := by
  unfold State.freeTokens
  rw [State.core_setCore]
  split
  · next here =>
    rw [here, tokens]
    exact congrArg (fun l => ({ s.core g.core with tokens := l } : Core)) tokens.symm
  · rfl

/-- A group without a token or a lock leaves its slot: nothing else changes. -/
theorem State.dropGroup_free {s : State} {g : GroupRef} {gr : Group} (resident : s.group? g = some gr) (locks : gr.locks = 0)
    (tokens : (s.core g.core).tokens = []) : let t := s.dropGroup g
    t = { s with cores := t.cores } ∧ (∀ m, m ≠ g.core → t.core m = s.core m) ∧
      t.core g.core = { s.core g.core with groups := SMap.erase (s.core g.core).groups g.slot } := by
  have run : s.dropGroup g = (s.freeTokens g).removeGroup g := by
    unfold State.dropGroup State.locksLeft
    rw [resident]
    dsimp only
    rw [locks, if_pos rfl]
  have freed := State.freeTokens_core tokens
  rw [run]
  refine ⟨rfl, fun m hm => ?_, ?_⟩
  · unfold State.removeGroup
    rw [State.core_setCore, if_neg hm, freed]
  · unfold State.removeGroup
    rw [State.core_setCore_self, freed]

theorem Group.without_opWord (gr : Group) (f : BitVec 48) (op : Nat) :
    gr.without (gr.execMask (opWord f op)) = gr.without (maskOf (gr.runs (opWord f 0))) := by rw [gr.execMask_opWord]

/-- Settles O8: an END by the group without its executing threads. -/
theorem endAndReturn : Obligations.EndAndReturn := by
  unfold Obligations.EndAndReturn
  intro g f s gr h w gone live active stack
  have left := gr.without_opWord f 0x4006
  have run := exec_endThreads g f s
  refine ⟨fun some more => ?_, fun some none dead e st entries ended alive => ?_, fun last quiet fails locks tokens => ?_,
    fun some none ended => ?_, ?_⟩
  · refine setGroup_becomes h run ?_
    rw [left]
    exact (if_neg some).trans (if_neg more)
  · refine setGroup_becomes h run ?_
    rw [left]
    refine (if_neg some).trans ((if_pos none).trans ?_)
    rw [popIssue, Group.pop_found (gr := gr.without gone) entries ended alive]
    rfl
  · obtain ⟨rest, others, own⟩ := State.dropGroup_free (State.issuer_group h.issuer) locks tokens
    refine ⟨_, issued_done h run (t := s.dropGroup g) ?_, (State.countSlot_group? ..).trans State.dropGroup_gone,
      ⟨State.countSlot_coreFrame rest others .., ?_, fun sl other => ?_⟩⟩
    · rw [left]
      exact (if_pos last).trans (State.endCheck_free quiet fails tokens _)
    · rw [State.countSlot_core, own]
    · rw [State.countSlot_group?]
      unfold State.group?
      rw [own, SMap.find?_erase, if_neg other]
  · refine issued_raises h run ?_
    rw [left]
    refine (if_neg some).trans ((if_pos none).trans ?_)
    rw [popIssue, Group.pop_none (gr := gr.without gone) ended]
  · rw [fUD_opWord f 0 0x4005]
    exact setGroup_becomes h (c := .ret g f) rfl rfl

/-! ### The core barrier -/

theorem SMap.find?_map {β : Type} (F : β → β) (i : Nat) : ∀ m : SMap β,
    SMap.find? (m.map fun e => (e.1, F e.2)) i = (SMap.find? m i).map F
  | [] => rfl
  | (k, x) :: m => by
    rw [List.map_cons, SMap.find?, SMap.find?, SMap.find?_map F i m]
    split <;> rfl

theorem exec_cbarRelease (core : Nat) (s : State) (on : s.working = true) : exec (.cbarRelease core) s =
    .next (if (s.core core).groups.all (fun e => e.2.arrived) then
      s.setCore core { s.core core with groups := (s.core core).groups.map fun e => (e.1, e.2.released) } else s) := by
  have run : exec (.cbarRelease core) s = execCbarRelease core s := rfl
  rw [run, execCbarRelease, on, Bool.true_and]
  dsimp only
  split <;> rfl

/-- Settles O9. -/
theorem coreBarrier : Obligations.CoreBarrier := by
  unfold Obligations.CoreBarrier
  refine ⟨fun g f s gr h => setGroup_becomes h (c := .cbar g f) rfl rfl, fun core s on => ⟨_, exec_cbarRelease core s on, ?_⟩⟩
  split
  · next all =>
    refine ⟨rfl, fun m hm => (State.core_setCore ..).trans (if_neg hm), fun _ sl gr resident => ?_, fun ⟨e, he, runs⟩ => ?_⟩
    · unfold State.group? at resident ⊢
      rw [State.core_setCore_self, SMap.find?_map, resident]
      rfl
    · have waits := List.all_eq_true.mp all e he
      unfold Group.arrived at waits
      rw [runs] at waits
      cases waits
  · next some => exact ⟨rfl, fun _ _ => rfl, fun all => absurd (List.all_eq_true.mpr all) some, fun _ => rfl⟩

end Sys2Proof.Machine
end

section
/-! SUPPORT and proof. Shuffles and votes (R187): statement O10. -/

namespace Sys2Proof.Machine
open Sys2Proof

/-! ### The fields of a shuffle and a vote -/

theorem shflD_opWord (f : BitVec 48) (op : Nat) (gr : Group) (i : Nat) : shflD (opWord f op) gr i =
    if (opWord f 0).getLsbD 63 then fld (opWord f 0) 52 5 else (gr.vGet i (fVB (opWord f 0))).toNat % 32 := by
  unfold shflD
  rw [opWord_getLsbD f op 0 63 (by decide), fld_opWord f op 0 52 5 (by decide), fVB_opWord f op 0]

theorem vote_opWord (f : BitVec 48) (op : Nat) (gr : Group) (i : Nat) :
    vote (opWord f op) gr i = (gr.pGet i (fld (opWord f 0) 49 3) ^^ (opWord f 0).getLsbD 48) := by
  unfold vote fPS fPSN
  rw [fld_opWord f op 0 49 3 (by decide), opWord_getLsbD f op 0 48 (by decide)]

theorem shflRegs_ok {f : BitVec 48} {op vregs : Nat} (vd : fVD (opWord f 0) < vregs) (va : fVA (opWord f 0) < vregs)
    (vb : (opWord f 0).getLsbD 63 = false → fVB (opWord f 0) < vregs) : regsOk vregs (shflRegs (opWord f op)) = true := by
  rw [fVD_opWord f 0 op] at vd
  rw [fVA_opWord f 0 op] at va
  rw [fVB_opWord f 0 op, opWord_getLsbD f 0 op 63 (by decide)] at vb
  unfold shflRegs
  split
  · exact regsOk_single (l := [_, _]) (by simpa using ⟨vd, va⟩)
  · next reg => exact regsOk_single (l := [_, _, _]) (by simpa using ⟨vd, va, vb (by simpa using reg)⟩)

/-! ### A group-wide instruction -/

/-- What a group-wide instruction does once its registers are checked. -/
def wideIssue (g : GroupRef) (F : Group → Group) (s : State) (gr : Group) : Issue :=
  if gr.active ≠ 0xFFFFFFFF then .exc (gr.exc cDivergent 0x00) else groupOnly g F s gr

theorem groupWide_eq (g : GroupRef) (w : BitVec 64) (cls : Nat) (regs : List (Nat × Nat)) (F : Group → Group) (s : State) :
    groupWide g w cls regs F s = issued g w cls (checked g false regs (wideIssue g F)) s := rfl

theorem wideIssue_part {g : GroupRef} {F : Group → Group} {s : State} {gr : Group} (part : gr.active ≠ 0xFFFFFFFF) :
    wideIssue g F s gr = .exc (gr.exc cDivergent 0x00) := by rw [wideIssue, if_pos part]

theorem wideIssue_all {g : GroupRef} {F : Group → Group} {s : State} {gr : Group} (all : gr.active = 0xFFFFFFFF) :
    wideIssue g F s gr = groupOnly g F s gr := by rw [wideIssue, if_neg (not_not.mpr all)]

section
variable {s : State} {g : GroupRef} {gr : Group} (h : Ready s g gr) {w : BitVec 64} {cls : Nat} {c : Instr}
  {regs : List (Nat × Nat)} {F : Group → Group} (hc : exec c s = groupWide g w cls regs F s) (ok : regsOk (s.vregs g.core) regs = true)
include h hc ok

theorem groupWide_raises (part : gr.active ≠ 0xFFFFFFFF) : Raises c s g cls w (gr.exc cDivergent 0x00) :=
  issued_raises h (hc.trans (groupWide_eq ..)) ((checked_ok _ rfl ok).trans (wideIssue_part part))

variable (all : gr.active = 0xFFFFFFFF)
include all

theorem groupWide_becomes : GroupBecomes c s g (F gr).advance :=
  groupOnly_becomes h w cls _ F ((checked_ok _ rfl ok).trans (wideIssue_all all)) c (hc.trans (groupWide_eq ..))

/-- One value for a predicate of every lane. -/
theorem setAll_becomes {x : Bool} (hF : F gr = setAll w x gr) : PredsBecome c s g gr (fPD w) (fun _ => true) (fun _ => x) := by
  have every : ∀ i < 32, i ∈ List.range 32 := fun i hi => List.mem_range.mpr hi
  have left := groupWide_becomes h hc ok all
  rw [hF, setAll] at left
  generalize List.range 32 = lanes at every left
  obtain ⟨rest, read⟩ := Group.eachLane_pSet (fPD w) (BitVec.isLt _) x lanes gr
  refine ⟨_, left, congrArg Group.advance rest, fun i hi k hk => (read i k hk).trans ?_⟩
  simp [every i hi]

end

section
variable {s : State} {g : GroupRef} {gr : Group} (h : Ready s g gr) {f : BitVec 48} {op cls : Nat} {c : Instr}
include h

/-- A lane's VA is read as the instruction found it. -/
theorem shuffled_becomes {src : Nat → Nat → Nat}
    (hc : exec c s = groupWide g (opWord f op) cls (shflRegs (opWord f op)) (shuffled (opWord f op) src) s)
    (ok : regsOk (s.vregs g.core) (shflRegs (opWord f op)) = true) (all : gr.active = 0xFFFFFFFF) :
    LanesBecome c s g gr (fVD (opWord f 0)) (fun _ => true) fun i => gr.vGet
      (src i (if (opWord f 0).getLsbD 63 then fld (opWord f 0) 52 5 else (gr.vGet i (fVB (opWord f 0))).toNat % 32)) (fVA (opWord f 0)) := by
  rw [fVD_opWord f 0 op, fVA_opWord f 0 op]
  refine vSet_becomes h (hc.trans (groupWide_eq ..)) (fVD_lt _) (List.nodup_range (n := 32))
    (F := fun i _ => gr.vGet (src i (shflD (opWord f op) gr i)) (fVA (opWord f op))) ?_ (fun i => by simp) fun i _ _ _ _ => ?_
  · exact (checked_ok _ rfl ok).trans (wideIssue_all all)
  · rw [shflD_opWord]

end

/-- Settles O10: the sources of the four shuffles; and any, all and the mask of the votes. -/
theorem shufflesAndVotes : Obligations.ShufflesAndVotes := by
  unfold Obligations.ShufflesAndVotes
  constructor
  · intro g f s gr h w d result vd va vb
    have ok : ∀ op, regsOk (s.vregs g.core) (shflRegs (opWord f op)) = true := fun op => shflRegs_ok vd va vb
    refine ⟨fun all => ?_, fun part => ⟨groupWide_raises h (c := .shflIdx g f) rfl (ok _) part, groupWide_raises h (c := .shflUp g f) rfl (ok _) part,
      groupWide_raises h (c := .shflDown g f) rfl (ok _) part, groupWide_raises h (c := .shflXor g f) rfl (ok _) part⟩⟩
    have up := shuffled_becomes h (op := 0x5002) (c := .shflUp g f) rfl (ok _) all
    have down := shuffled_becomes h (op := 0x5003) (c := .shflDown g f) rfl (ok _) all
    have upper : ∀ i d : Nat, (if i < d then i else i - d) = if d ≤ i then i - d else i := fun i d => by split <;> split <;> omega
    have lower : ∀ i d : Nat, (if 31 < i + d then i else i + d) = if i + d ≤ 31 then i + d else i := fun i d => by
      split <;> split <;> omega
    simp only [upper] at up
    simp only [lower] at down
    exact ⟨shuffled_becomes h (op := 0x5001) (c := .shflIdx g f) rfl (ok _) all, up, down,
      shuffled_becomes h (op := 0x5004) (c := .shflXor g f) rfl (ok _) all⟩
  · intro g f s gr h w v
    have ok : regsOk (s.vregs g.core) [] = true := rfl
    have votes : ∀ op, vote (opWord f op) gr = v := fun op => funext fun i => vote_opWord f op gr i
    have pd : ∀ op, fPD (opWord f op) = fld w 45 3 := fun op => fld_opWord f op 0 45 3 (by decide)
    refine ⟨fun all => ⟨⟨(List.range 32).any v, ?_, by simp⟩, ⟨(List.range 32).all v, ?_, by simp⟩, ⟨(maskOf v).setWidth 64, ?_, ?_⟩⟩, fun part => ⟨groupWide_raises h (c := .voteAny g f) rfl ok part,
      groupWide_raises h (c := .voteAll g f) rfl ok part, groupWide_raises h (c := .voteBallot g f) rfl ok part⟩⟩
    · rw [← pd 0x5011, ← votes 0x5011]
      exact setAll_becomes h (c := .voteAny g f) rfl ok all rfl
    · rw [← pd 0x5012, ← votes 0x5012]
      exact setAll_becomes h (c := .voteAll g f) rfl ok all rfl
    · rw [fUD_opWord f 0 0x5013, ← votes 0x5013]
      exact uSet_becomes h (c := .voteBallot g f) (groupWide_eq ..) ((checked_ok _ rfl ok).trans (wideIssue_all all))
    · intro i hi
      rw [BitVec.getLsbD_setWidth]
      by_cases low : i < 32
      · rw [maskOf_getLsbD v i low]
        simp [hi, low]
      · rw [BitVec.getLsbD_of_ge _ _ (by omega)]
        simp [low]

end Sys2Proof.Machine
end

section
/-! SUPPORT. Local memory (R188 to R191): words written clean read clean, stores of threads, and the counts of an access. -/

namespace Sys2Proof.Machine
open Sys2Proof

/-! ### A word that is written reads clean (R229, R231) -/

theorem xorBits_congr {m n : Nat} : ∀ k, (∀ i < k, m.testBit i = n.testBit i) → xorBits m k = xorBits n k
  | 0, _ => rfl
  | k + 1, h => by
    rw [xorBits, xorBits, h k (by omega), xorBits_congr k fun i hi => h i (by omega)]

theorem codeWord_getLsbD (d : BitVec 64) (p : Bool) {i : Nat} (hi : 64 ≤ i) (hi' : i < 79) :
    (codeWord d p).getLsbD i = (BitVec.ofBool p ++ bchCheck d p : BitVec 15).getLsbD (i - 64) := by
  unfold codeWord
  rw [BitVec.getLsbD_append, if_pos hi', BitVec.getLsbD_append, if_neg (by omega)]

theorem codePoison_codeWord (d : BitVec 64) (p : Bool) : codePoison (codeWord d p) = p := by
  unfold codePoison
  rw [codeWord_getLsbD d p (by decide) (by decide), BitVec.getLsbD_append]
  simp

theorem codeCheck_codeWord (d : BitVec 64) (p : Bool) : codeCheck (codeWord d p) = bchCheck d p := by
  apply BitVec.eq_of_getLsbD_eq
  intro j hj
  unfold codeCheck
  rw [BitVec.getLsbD_extractLsb', codeWord_getLsbD d p (by omega) (by omega), BitVec.getLsbD_append, Nat.add_sub_cancel_left]
  simp [hj]

theorem checkWord_codeWord (d : BitVec 64) (p : Bool) : checkWord (codeWord d p) = .clean := by
  have zero : (syndrome (codeWord d p)).toNat = 0 := by
    unfold syndrome
    rw [codeCheck_codeWord, codeData_codeWord, codePoison_codeWord, BitVec.xor_self]
    rfl
  have even : xorBits (codeWord d p).toNat 80 = false := by
    rw [xorBits]
    unfold codeWord
    extract_lets low
    have top : (BitVec.ofBool (xorBits low.toNat 79) ++ low).toNat.testBit 79 = xorBits low.toNat 79 := by
      rw [BitVec.testBit_toNat, BitVec.getLsbD_append]
      simp
    have rest : xorBits (BitVec.ofBool (xorBits low.toNat 79) ++ low).toNat 79 = xorBits low.toNat 79 :=
      xorBits_congr 79 fun i hi => by
        rw [BitVec.testBit_toNat, BitVec.testBit_toNat, BitVec.getLsbD_append, if_pos hi]
    rw [top, rest]
    simp
  unfold checkWord
  dsimp only
  rw [zero, if_pos rfl, even]
  rfl

/-- A stored code word is read back. -/
theorem State.rawWord_setRaw (s : State) (w : Nat) (x : CodeWord) : (s.setRaw w x).rawWord w = x := by
  have data : (s.setRaw w x).memWord w = codeData x := by
    refine eq_of_extract_eq (n := 8) fun k hk => ?_
    have byte := congrArg (fun l => l.getD k 0) ((s.setRaw w x).wordBytes_memWord w)
    unfold wordBytes State.memBytes at byte
    simp only [List.getD_eq_getElem?_getD, List.getElem?_map, List.getElem?_range hk, Option.map_some, Option.getD_some] at byte
    rw [byte, (s.setRaw_becomes w x).byte, if_pos (by omega)]
    congr 1
    omega
  have check : SMap.get ((s.setRaw w x).sideDflt w) (s.setRaw w x).side w = x.extractLsb' 64 16 := by
    unfold State.setRaw
    generalize s.setMemWord w (codeData x) = t
    exact SMap.get_set_self (t.sideDflt w) (x.extractLsb' 64 16) w t.side
  unfold State.rawWord
  rw [data, check]
  apply BitVec.eq_of_getLsbD_eq
  intro j hj
  rw [BitVec.getLsbD_append]
  split
  · next low => simp [codeData, low]
  · next high => simp [show j - 64 < 16 by omega, show 64 + (j - 64) = j by omega]

theorem State.setRaw_clean (s : State) {w : Nat} (still : s.racyAt w = none) (d : BitVec 64) {v : Nat}
    (h : v = w ∨ CleanWord s v) : CleanWord (s.setRaw w (codeWord d false)) v := by
  have wrote := s.setRaw_becomes w (codeWord d false)
  by_cases here : v = w
  · subst here
    exact ⟨by rw [State.rawWord_setRaw, checkWord_codeWord], by rw [State.rawWord_setRaw, codePoison_codeWord],
      by unfold State.racyAt; rw [wrote.racy]; exact still⟩
  · have clean := h.resolve_left here
    exact ⟨by rw [wrote.raw v here, clean.code], by rw [wrote.raw v here, clean.poison],
      by unfold State.racyAt; rw [wrote.racy]; exact clean.still⟩

/-! ### Counts of an access -/

/-- From `s` to `t` only counters of core `n` have counted. -/
structure Counted (s t : State) (n : Nat) : Prop extends CoreCounts s t n where
  only : t = { s with od := t.od, tally := t.tally }

namespace Counted

theorem refl (s : State) (n : Nat) : Counted s s n := ⟨⟨rfl, ⟨[], by simp, nofun⟩, fun _ _ _ => rfl⟩, rfl⟩

theorem trans {s t u : State} {n : Nat} (h : Counted s t n) (k : Counted t u n) : Counted s u n := by
  obtain ⟨xs, before, own⟩ := h.slots
  obtain ⟨ys, after, own'⟩ := k.slots
  refine ⟨⟨by rw [k.tally, h.tally], ⟨xs ++ ys, by rw [after, before, List.append_assoc], fun x hx => ?_⟩,
    fun i hi hj => (k.od i hi hj).trans (h.od i hi hj)⟩, by rw [k.only, h.only]⟩
  exact (List.mem_append.mp hx).elim (own x) (own' x)

theorem foldl {α : Type} {n : Nat} {f : State → α → State} (step : ∀ s x, Counted s (f s x) n) : ∀ (l : List α) (s : State),
    Counted s (l.foldl f s) n
  | [], s => .refl s n
  | x :: l, s => (step s x).trans (foldl step l (f s x))

variable {s t : State} {n : Nat} (h : Counted s t n)
include h

theorem sameMem : SameMem s t := by
  rw [h.only]
  exact ⟨rfl, rfl, rfl, rfl, rfl⟩

theorem core (m : Nat) : t.core m = s.core m := by
  rw [h.only]
  rfl

theorem group (g : GroupRef) : t.group? g = s.group? g := by
  unfold State.group?
  rw [h.core]

end Counted

theorem State.countSlot_counted (s : State) (n ev cls : Nat) : Counted s (s.countSlot n ev cls) n :=
  ⟨(s.countSlot_frame n ev cls).1, (s.countSlot_frame n ev cls).2⟩

theorem State.count_counted (s : State) (n ev k : Nat) (a : Attr) : Counted s (s.count (coreSet n) ev k a) n := by
  have counted := s.count_frame (coreSet n) ev k a
  refine ⟨⟨by rw [counted.rest], ⟨[], by rw [counted.rest]; simp, nofun⟩, counted.od⟩, ?_⟩
  rw [counted.rest]

theorem State.countLocal_counted (s : State) (n : Nat) (ws : List Nat) : Counted s (s.countLocal n ws) n :=
  ((s.count_counted ..).trans (State.count_counted ..)).trans (Counted.foldl (fun t _ => t.countSlot_counted ..) _ _)

/-- A count before a frame belongs to the frame. -/
theorem Counted.groupFrame {s t u : State} {g : GroupRef} (h : Counted s t g.core) (k : GroupFrame t u g) : GroupFrame s u g := by
  obtain ⟨xs, before, own⟩ := h.slots
  obtain ⟨ys, after, own'⟩ := k.slots
  refine ⟨⟨⟨by rw [k.tally, h.tally], ⟨xs ++ ys, by rw [after, before, List.append_assoc], fun x hx => ?_⟩,
    fun i hi hj => (k.od i hi hj).trans (h.od i hi hj)⟩, by rw [k.rest, h.only], fun a => (k.memory a).trans (h.sameMem.byte a),
    fun m hm => (k.cores m hm).trans (h.core m)⟩, by rw [k.core, h.core], fun sl hsl => (k.groups sl hsl).trans (h.group _)⟩
  exact (List.mem_append.mp hx).elim (own x) (own' x)

/-! ### Stores to local memory -/

/-- The region of an address of local memory. -/
theorem regionOf_local {a n m : Nat} (base : localBase n ≤ a) (inside : a < localBase n + localEnd) (h : regionOf a = .localMem m) :
    m = n := by
  unfold localBase localEnd at *
  unfold regionOf hbmEnd windowBase at h
  split at h
  · cases h
  · split at h
    · omega
    · split at h
      · omega
      · split at h
        · split at h
          · cases h
            omega
          · cases h
        · split at h <;> cases h

/-- From `s` to `t` bytes of `P` in local memory of core `n` were stored to: memory outside `P` and clean words stay, running
operations of the core may note what a word held, and monitors of lines stored to see that. -/
structure Touched (s t : State) (n : Nat) (P : Nat → Prop) : Prop where
  rest : t = { s with mem := t.mem, side := t.side, cores := t.cores, disp := { s.disp with woken := t.disp.woken } }
  seen : ∀ m ∈ t.disp.woken, m ∈ s.disp.woken ∨ ∃ a, P a ∧ (a / 128, m) ∈ s.disp.armed
  memory : ∀ a, ¬P a → t.memByte a = s.memByte a
  clean : ∀ w, CleanWord s w → CleanWord t w
  noted : Noted s t
  cores : ∀ m, m ≠ n → t.core m = s.core m

namespace Touched

theorem refl (s : State) (n : Nat) (P : Nat → Prop) : Touched s s n P :=
  ⟨rfl, fun _ h => .inl h, fun _ _ => rfl, fun _ h => h, .refl s, fun _ _ => rfl⟩

theorem trans {s t u : State} {n : Nat} {P : Nat → Prop} (h : Touched s t n P) (k : Touched t u n P) : Touched s u n P := by
  refine ⟨by rw [k.rest, h.rest], fun m hm => ?_, fun a ha => (k.memory a ha).trans (h.memory a ha), fun w hw => k.clean w (h.clean w hw),
    h.noted.trans k.noted, fun m hm => (k.cores m hm).trans (h.cores m hm)⟩
  obtain old | ⟨a, ha, armed⟩ := k.seen m hm
  · exact h.seen m old
  · refine .inr ⟨a, ha, ?_⟩
    rw [h.rest] at armed
    exact armed

theorem mono {s t : State} {n : Nat} {P Q : Nat → Prop} (h : Touched s t n P) (sub : ∀ a, P a → Q a) : Touched s t n Q :=
  ⟨h.rest, fun m hm => (h.seen m hm).imp_right fun ⟨a, ha, armed⟩ => ⟨a, sub a ha, armed⟩, fun a ha => h.memory a fun p => ha (sub a p),
    h.clean, h.noted, h.cores⟩

end Touched

theorem State.noteStore_other {s : State} {w n : Nat} (base : localBase n ≤ 8 * w) (inside : 8 * w < localBase n + localEnd) {m : Nat}
    (hm : m ≠ n) : (s.noteStore w).core m = s.core m := by
  unfold State.noteStore State.noteOld
  split
  · next r here =>
    have := regionOf_local base inside here
    dsimp only
    split
    · rfl
    · exact (State.core_setCore ..).trans (if_neg (by omega))
  · rfl

theorem State.seenWrite_seen {s : State} {w : Nat} {m : Monitor} (h : m ∈ (s.seenWrite w).disp.woken) :
    m ∈ s.disp.woken ∨ (w / 16, m) ∈ s.disp.armed := by
  unfold State.seenWrite at h
  split at h
  · exact .inl h
  · next l _ =>
    refine (List.mem_append.mp h).imp_right fun new => ?_
    obtain ⟨e, he, rfl⟩ := List.mem_map.mp new
    obtain ⟨armed, line⟩ := List.mem_filter.mp he
    rw [← of_decide_eq_true line]
    exact armed

theorem State.setRaw_rest (s : State) (w : Nat) (x : CodeWord) :
    s.setRaw w x = { s with mem := (s.setRaw w x).mem, side := (s.setRaw w x).side } := by
  have bytes : ∀ (l : List Nat) (d : BitVec 64) (t : State), let u := l.foldl (fun s i => s.setMemByte (8 * w + i) (d.extractLsb' (8 * i) 8)) t
      u = { t with mem := u.mem } := by
    intro l d
    induction l with
    | nil => exact fun _ => rfl
    | cons i l ih => exact fun t => (ih _).trans rfl
  have data : s.setMemWord w (codeData x) = { s with mem := (s.setMemWord w (codeData x)).mem } := bytes _ _ s
  unfold State.setRaw
  generalize s.setMemWord w (codeData x) = t at data
  rw [data]

theorem State.noteStore_rest (s : State) (w : Nat) : s.noteStore w = { s with cores := (s.noteStore w).cores } := by
  unfold State.noteStore State.noteOld
  split
  · dsimp only
    split <;> rfl
  · rfl

theorem State.seenWrite_rest (s : State) (w : Nat) :
    s.seenWrite w = { s with disp := { s.disp with woken := (s.seenWrite w).disp.woken } } := by
  unfold State.seenWrite
  split <;> rfl

/-- A clean word of local memory takes other data. -/
theorem State.updWord_touched {s : State} {w n : Nat} (h : CleanWord s w) (base : localBase n ≤ 8 * w)
    (inside : 8 * w < localBase n + localEnd) {f : CodeWord → CodeWord} {d : BitVec 64} (hf : f (s.rawWord w) = codeWord d false)
    {P : Nat → Prop} (some : ∃ a, P a ∧ a / 8 = w) (out : ∀ a, a / 8 = w → ¬P a → d.extractLsb' (8 * (a % 8)) 8 = s.memByte a) :
    Touched s (s.updWord w f) n P := by
  have wrote := State.updWord_becomes h.still f
  rw [hf, codeData_codeWord] at wrote
  have same := (s.noteStore_sameMem w).trans (State.seenWrite_sameMem _ w)
  have still : ((s.noteStore w).seenWrite w).racyAt w = none := by
    unfold State.racyAt
    rw [same.racy]
    exact h.still
  have run : s.updWord w f = ((s.noteStore w).seenWrite w).setRaw w (codeWord d false) := by
    unfold State.updWord
    dsimp only
    rw [still, ← hf, ← same.raw]
  have noted := s.updWord_noted w f
  rw [run] at wrote noted ⊢
  have marked := (s.noteStore w).seenWrite_rest w
  have old := s.noteStore_rest w
  have seen := fun m => (s.noteStore w).seenWrite_seen (w := w) (m := m)
  have others := fun m => State.noteStore_other (s := s) base inside (m := m)
  generalize s.noteStore w = t at *
  generalize t.seenWrite w = u at *
  have left := u.setRaw_rest w (codeWord d false)
  refine ⟨by rw [left, marked, old], fun m hm => ?_, fun a ha => ?_, fun v hv => u.setRaw_clean still d (.inr (same.cleanWord hv)),
    noted, fun m hm => ?_⟩
  · rw [left] at hm
    rw [old] at seen
    obtain ⟨a, ha, here⟩ := some
    exact (seen m hm).imp_right fun armed => ⟨a, ha, by rwa [show a / 128 = w / 16 by omega]⟩
  · rw [wrote.byte]
    split
    · next here => exact out a here ha
    · rfl
  · have stored : (u.setRaw w (codeWord d false)).cores = u.cores := by rw [left]
    have saw : u.cores = t.cores := by rw [marked]
    refine Eq.trans ?_ (others m hm)
    unfold State.core
    rw [stored, saw]

/-! ### Pieces and ranges -/

/-- From `s` to `t` the bytes are stored at address `a` of local memory of core `n`. -/
structure Stored (s t : State) (n a : Nat) (bs : List Byte) : Prop extends Touched s t n (fun b => a ≤ b ∧ b < a + bs.length) where
  bytes : ∀ k < bs.length, t.memByte (a + k) = bs.getD k 0

theorem Stored.nil (s : State) (n a : Nat) : Stored s s n a [] := ⟨.refl .., by simp⟩

theorem Stored.append {s t u : State} {n a : Nat} {bs cs : List Byte} (h : Stored s t n a bs) (k : Stored t u n (a + bs.length) cs) :
    Stored s u n a (bs ++ cs) := by
  refine ⟨(h.mono fun b hb => ?_).trans (k.mono fun b hb => ?_), fun i hi => ?_⟩
  · rw [List.length_append]
    omega
  · rw [List.length_append]
    omega
  · rw [List.length_append] at hi
    by_cases first : i < bs.length
    · rw [k.memory _ (by omega), h.bytes i first, List.getD_append _ _ _ _ first]
    · obtain ⟨j, rfl⟩ := Nat.exists_eq_add_of_le (Nat.not_lt.mp first)
      rw [← Nat.add_assoc, k.bytes j (by omega), List.getD_append_right _ _ _ _ (by omega), Nat.add_sub_cancel_left]

theorem State.memWord_extract (s : State) (w : Nat) {k : Nat} (hk : k < 8) : (s.memWord w).extractLsb' (8 * k) 8 = s.memByte (8 * w + k) := by
  have byte := congrArg (fun l => l.getD k 0) (s.wordBytes_memWord w)
  unfold wordBytes State.memBytes at byte
  simpa [List.getD_eq_getElem?_getD, hk] using byte

/-- A piece of a write, within a clean word of local memory. -/
theorem State.writePiece_stored {s : State} {a n : Nat} {bs : List Byte} (h : CleanWord s (a / 8)) (base : localBase n ≤ a)
    (inside : a < localBase n + localEnd) (some : bs ≠ []) (fits : a % 8 + bs.length ≤ 8) :
    Stored s (s.writePiece (a / 8) (a % 8) bs) n a bs := by
  have bounds : localBase n ≤ 8 * (a / 8) ∧ 8 * (a / 8) < localBase n + localEnd := by
    unfold localBase at *
    omega
  have long := List.length_pos_iff.mpr some
  have far : hbmEnd ≤ 8 * (a / 8) := (hbmEnd_le_localBase n).trans bounds.1
  have own : ∃ b, (a ≤ b ∧ b < a + bs.length) ∧ b / 8 = a / 8 := ⟨a, by omega, rfl⟩
  have run : ∃ f d, s.writePiece (a / 8) (a % 8) bs = s.updWord (a / 8) f ∧ f (s.rawWord (a / 8)) = codeWord d false ∧
      ∀ k < 8, d.extractLsb' (8 * k) 8 =
        if a % 8 ≤ k ∧ k < a % 8 + bs.length then bs.getD (k - a % 8) 0 else (s.memWord (a / 8)).extractLsb' (8 * k) 8 := by
    unfold State.writePiece
    split
    · next full =>
      refine ⟨_, _, rfl, rfl, fun k hk => ?_⟩
      rw [extract_bytesNat bs (by omega), if_pos (by omega)]
      congr 1
      omega
    · have given : deliver (s.rawWord (a / 8)) = (s.memWord (a / 8), false) := by
        unfold deliver checkedWord
        rw [h.code]
        exact Prod.ext BitVec.extractLsb'_append_eq_right h.poison
      unfold State.mergeWord
      rw [State.readWord_local h far, s.readFails_local far]
      refine ⟨_, _, rfl, ?_, fun k hk => extract_mergeBytes bs (s.memWord (a / 8)) fits hk⟩
      rw [given]
      rfl
  obtain ⟨f, d, run, new, data⟩ := run
  have wrote := State.updWord_becomes h.still f
  rw [new, codeData_codeWord] at wrote
  rw [run]
  refine ⟨State.updWord_touched h bounds.1 bounds.2 new own fun b here out => ?_, fun k hk => ?_⟩
  · rw [data _ (Nat.mod_lt b (by decide)), if_neg (by omega), s.memWord_extract _ (Nat.mod_lt b (by decide))]
    congr 1
    omega
  · rw [wrote.byte, if_pos (by omega), data _ (Nat.mod_lt _ (by decide)), if_pos (by omega)]
    congr 1
    omega

/-- Bytes written to clean words of local memory. -/
theorem State.writeFuel_stored {n : Nat} (k : Nat) {s : State} {a : Nat} {bs : List Byte} (fuel : bs.length ≤ k)
    (clean : bs ≠ [] → CleanBytes s a bs.length) (base : localBase n ≤ a) (inside : a + bs.length ≤ localBase n + localEnd) :
    Stored s (State.writeFuel k s a bs false) n a bs := by
  induction k generalizing s a bs with
  | zero =>
    obtain rfl := List.eq_nil_of_length_eq_zero (Nat.le_zero.mp fuel)
    exact .nil s n a
  | succ k ih =>
    by_cases empty : bs = []
    · subst empty
      exact .nil s n a
    have some := List.length_pos_iff.mpr empty
    rw [State.writeFuel_succ k s a empty]
    have piece : pieceLen a bs.length = min bs.length (8 - a % 8) := rfl
    generalize pieceLen a bs.length = m at *
    have taken : (bs.take m).length = m := by rw [List.length_take]; omega
    have dropped : (bs.drop m).length = bs.length - m := List.length_drop
    have first := State.writePiece_stored (clean empty (a / 8) (mem_spanWords le_rfl (by omega))) base (by omega)
      (List.ne_nil_of_length_pos (l := bs.take m) (by omega)) (by omega)
    have later : bs.drop m ≠ [] → CleanBytes (s.writePiece (a / 8) (a % 8) (bs.take m)) (a + m) (bs.drop m).length := by
      intro left w hw
      have := List.length_pos_iff.mpr left
      refine first.clean w (clean empty w ?_)
      unfold spanWords at hw ⊢
      rw [List.mem_range'_1] at hw ⊢
      omega
    have rest := ih (by omega) later (by omega) (by omega)
    have all := first.append (by rw [taken]; exact rest)
    rwa [List.take_append_drop] at all

theorem State.writeBytes_stored {s : State} {a n : Nat} {bs : List Byte} (clean : CleanBytes s a bs.length) (base : localBase n ≤ a)
    (inside : a + bs.length ≤ localBase n + localEnd) : Stored s (s.writeBytes a bs) n a bs :=
  State.writeFuel_stored _ le_rfl (fun _ => clean) base inside

end Sys2Proof.Machine
end

section
/-! SUPPORT. The issue of an access to local memory, and the words and registers that it moves (R188, R189). -/

namespace Sys2Proof.Machine
open Sys2Proof

/-! ### Addresses -/

theorem localAddr_opWord (f : BitVec 48) (op op' : Nat) (gr : Group) (i : Nat) :
    localAddr (opWord f op) gr i = localAddr (opWord f op') gr i := by
  unfold localAddr fImm19 sfld
  rw [fVA_opWord f op op', opWord_extractLsb' f op op' 45 19 (by decide)]

section
variable {w : BitVec 64} {g : GroupRef} {gr : Group} {n i a : Nat} (h : LocalAt w g gr n i a)
include h

theorem LocalAt.place : localBase g.core + (localAddr w gr i).toNat = a := by
  have := h.base
  rw [h.addr, Int.toNat_natCast]
  omega

theorem LocalAt.fails : localFails w n gr i = [] := by
  have aligned : ((a - localBase g.core : Nat) : Int) % (n : Int) = 0 := by
    rw [← Int.natCast_mod, h.aligned]
    rfl
  have base := h.base
  have inside := h.inside
  unfold localFails
  rw [h.addr]
  dsimp only
  rw [if_neg (not_not.mpr aligned), if_neg (by omega)]
  rfl

end

theorem LocalAt.opWord {f : BitVec 48} {op : Nat} (op' : Nat) {g : GroupRef} {gr : Group} {n i a : Nat}
    (h : LocalAt (Machine.opWord f op) g gr n i a) : LocalAt (Machine.opWord f op') g gr n i a :=
  ⟨(localAddr_opWord f op' op gr i).trans h.addr, h.base, h.inside, h.aligned⟩

/-- An access of a size ends in local memory. -/
theorem LocalAt.ends {w : BitVec 64} {g : GroupRef} {gr : Group} {sz : LSize} {i a : Nat} (h : LocalAt w g gr sz.bytes i a) :
    a + sz.bytes ≤ localBase g.core + localEnd := by
  obtain ⟨-, base, inside, aligned⟩ := h
  unfold localEnd at *
  cases sz <;> simp only [LSize.bytes] at * <;> omega

/-! ### Words read -/

theorem SMap.get_eq_find? {β : Type} (d : β) (i : Nat) : ∀ m : SMap β, SMap.get d m i = (SMap.find? m i).getD d
  | [] => rfl
  | (k, x) :: m => by
    rw [SMap.get, SMap.find?, SMap.get_eq_find? d i m]
    split <;> rfl

theorem SMap.get_put {β : Type} (d : β) (m : SMap β) (i j : Nat) (x : β) :
    SMap.get d (SMap.put m i x) j = if j = i then x else SMap.get d m j := by
  rw [SMap.get_eq_find?, SMap.get_eq_find?, SMap.find?_put]
  split <;> rfl

theorem mem_dedup : ∀ (l seen : List Nat) (x : Nat), x ∈ dedup seen l ↔ x ∈ l ∧ x ∉ seen
  | [], _, _ => by simp [dedup]
  | y :: l, seen, x => by
    unfold dedup
    by_cases old : y ∈ seen
    · rw [if_pos (by simpa using old), mem_dedup l seen x, List.mem_cons]
      refine and_congr_left fun new => (or_iff_right ?_).symm
      rintro rfl
      exact new old
    · rw [if_neg (by simpa using old), List.mem_cons, List.mem_cons, mem_dedup l (y :: seen) x, List.mem_cons]
      by_cases here : x = y
      · simp [here, old]
      · simp [here]

/-- Distinct clean words of local memory are read as they stand, and reading leaves the state. -/
theorem State.readDistinct_local {s : State} {ws : List Nat} (h : ∀ w ∈ ws, CleanWord s w ∧ hbmEnd ≤ 8 * w) :
    ∃ m, s.readDistinct ws = (m, s) ∧ (∀ w ∈ ws, readData m w = s.memWord w) ∧ ∀ w, readPoison m w = false := by
  have each : ∀ (l : List Nat), (∀ w ∈ l, CleanWord s w ∧ hbmEnd ≤ 8 * w) → ∀ m : SMap (BitVec 64 × Bool), (∀ w, readPoison m w = false) →
      ∃ m', l.foldl (fun r w => let q := r.2.readWord w .demand; (SMap.put r.1 w q.1, q.2)) (m, s) = (m', s) ∧
        (∀ w, w ∈ l ∨ readData m w = s.memWord w → readData m' w = s.memWord w) ∧ ∀ w, readPoison m' w = false := by
    intro l
    induction l with
    | nil => exact fun _ m hm => ⟨m, rfl, by simp, hm⟩
    | cons v l ih =>
      intro ok m hm
      obtain ⟨clean, far⟩ := ok v (.head _)
      have read := State.readWord_local clean far .demand
      have get : ∀ w, SMap.get (0, false) (SMap.put m v (s.memWord v, false)) w =
          if w = v then (s.memWord v, false) else SMap.get (0, false) m w := fun w => SMap.get_put ..
      obtain ⟨m', run, data, none⟩ := ih (fun w hw => ok w (.tail _ hw)) (SMap.put m v (s.memWord v, false)) fun w => by
        unfold readPoison
        rw [get]
        split
        · rfl
        · exact hm w
      refine ⟨m', ?_, fun w hw => data w ?_, none⟩
      · rw [List.foldl_cons]
        dsimp only
        rw [read]
        exact run
      · unfold readData
        rw [get, List.mem_cons] at *
        by_cases here : w = v
        · exact .inr (by rw [if_pos here, here])
        · rw [if_neg here]
          exact hw.imp_left fun i => i.resolve_left here
  obtain ⟨m, run, data, none⟩ := each (dedup [] ws) (fun w hw => h w ((mem_dedup ws [] w).mp hw).1) [] fun _ => rfl
  exact ⟨m, run, fun w hw => data w (.inl ((mem_dedup ws [] w).mpr ⟨hw, List.not_mem_nil⟩)), none⟩

/-- A value of memory from words that were read as they stand. -/
theorem readValue_eq {s : State} {m : SMap (BitVec 64 × Bool)} {a n : Nat} (h : ∀ w ∈ spanWords a n, readData m w = s.memWord w) :
    readValue m a n = bytesNat (s.memBytes a n) := by
  have words : ((spanWords a n).flatMap fun w => wordBytes (readData m w)) = s.memBytes (8 * (a / 8)) (8 * ((a + n + 7) / 8 - a / 8)) :=
    (List.flatMap_congr fun w hw => by rw [h w hw]).trans (s.memBytes_words ..)
  unfold readValue
  rw [words, s.memBytes_slice _ _ _ _ (by omega), show 8 * (a / 8) + a % 8 = a by omega]

/-! ### The checks before an access -/

/-- What the issue of an access does, the words of all its lanes given. -/
def localBody (g : GroupRef) (w : BitVec 64) (n : Nat) (regs : List (Nat × Nat)) (k : State → Group → List Nat → Issue) : State → Group → Issue :=
  checked g false ((fVA w, 1) :: regs) fun s gr =>
    match excOfFails ((gr.execLanes w).flatMap (localFails w n gr)) with
    | some e => .exc e
    | none => k (s.countLocal g.core ((gr.execLanes w).flatMap fun i => localWords g.core (localAddr w gr i).toNat n)) gr
        ((gr.execLanes w).flatMap fun i => localWords g.core (localAddr w gr i).toNat n)

theorem localIssue_eq (g : GroupRef) (w : BitVec 64) (n : Nat) (regs : List (Nat × Nat)) (k : State → Group → List Nat → Issue)
    (s : State) : localIssue g w n regs k s = issued g w 2 (localBody g w n regs k) s := rfl

section
variable {s : State} {g : GroupRef} {gr : Group} {w : BitVec 64} {n : Nat} {addr : Nat → Nat}
  (at_ : ∀ i ∈ gr.execLanes w, LocalAt w g gr n i (addr i))
include at_

/-- Where every lane's address is in place, the access follows; it counts first. -/
theorem localBody_ok {regs : List (Nat × Nat)} (ok : regsOk (s.vregs g.core) ((fVA w, 1) :: regs) = true)
    (k : State → Group → List Nat → Issue) : localBody g w n regs k s gr =
      k (s.countLocal g.core ((gr.execLanes w).flatMap fun i => spanWords (addr i) n)) gr
        ((gr.execLanes w).flatMap fun i => spanWords (addr i) n) := by
  have none : (gr.execLanes w).flatMap (localFails w n gr) = [] := List.flatMap_eq_nil_iff.mpr fun i hi => (at_ i hi).fails
  have words : ((gr.execLanes w).flatMap fun i => localWords g.core (localAddr w gr i).toNat n) =
      (gr.execLanes w).flatMap fun i => spanWords (addr i) n :=
    List.flatMap_congr fun i hi => by rw [localWords, (at_ i hi).place]
  unfold localBody
  rw [checked_ok _ rfl ok, none, words]
  rfl

/-- The words of the lanes are clean and read without poison. -/
theorem lanes_read (clean : ∀ i ∈ gr.execLanes w, CleanBytes s (addr i) n) (detail : BitVec 8) :
    ∃ m, s.readDistinct ((gr.execLanes w).flatMap fun i => spanWords (addr i) n) = (m, s) ∧
      (∀ i ∈ gr.execLanes w, ∀ v ∈ spanWords (addr i) n, readData m v = s.memWord v) ∧
      excOfFails (poisonFails w g.core n detail gr m) = none := by
  obtain ⟨m, run, data, none⟩ := State.readDistinct_local (s := s) (ws := (gr.execLanes w).flatMap fun i => spanWords (addr i) n) fun v hv => by
    obtain ⟨i, hi, here⟩ := List.mem_flatMap.mp hv
    exact ⟨clean i hi v here, spanWords_far ((hbmEnd_le_localBase _).trans (at_ i hi).base) here⟩
  refine ⟨m, run, fun i hi v hv => data v (List.mem_flatMap.mpr ⟨i, hi, hv⟩), ?_⟩
  have empty : poisonFails w g.core n detail gr m = [] := List.flatMap_eq_nil_iff.mpr fun i _ => by
    rw [if_neg]
    simp [none]
  rw [empty]
  rfl

end

end Sys2Proof.Machine
end

section
/-! SUPPORT and proof. LD.L and ST.L (R188): statement O11. -/

namespace Sys2Proof.Machine
open Sys2Proof

/-! ### Registers that a load writes -/

theorem Group.vGet_setPair (q : Group) (i j r k : Nat) (x : BitVec 64) (hr : r + 2 ≤ 256) (hk : k < 256) :
    (q.setPair i r x).vGet j k = if j = i ∧ r ≤ k ∧ k < r + 2 then x.extractLsb' (32 * (k - r)) 32 else q.vGet j k := by
  unfold Group.setPair
  rw [Group.vGet_vSet _ _ _ _ _ _ (by omega) hk, Group.vGet_vSet _ _ _ _ _ _ (by omega) hk]
  by_cases high : j = i ∧ k = r + 1
  · rw [if_pos high, if_pos (by omega), high.2, Nat.add_sub_cancel_left]
  · rw [if_neg high]
    by_cases low : j = i ∧ k = r
    · rw [if_pos low, if_pos (by omega), low.2, Nat.sub_self]
      rfl
    · rw [if_neg low, if_neg (by omega)]

theorem Group.vGet_setQuad (q : Group) (i j r k : Nat) (x : BitVec 128) (hr : r + 4 ≤ 256) (hk : k < 256) :
    (q.setQuad i r x).vGet j k = if j = i ∧ r ≤ k ∧ k < r + 4 then x.extractLsb' (32 * (k - r)) 32 else q.vGet j k := by
  unfold Group.setQuad
  rw [Group.vGet_setPair _ _ _ _ _ _ (by omega) hk, Group.vGet_setPair _ _ _ _ _ _ (by omega) hk]
  by_cases high : j = i ∧ r + 2 ≤ k ∧ k < r + 2 + 2
  · rw [if_pos high, if_pos (by omega)]
    apply BitVec.eq_of_getLsbD_eq
    intro b hb
    simp only [BitVec.getLsbD_extractLsb', hb, show 32 * (k - (r + 2)) + b < 64 by omega, decide_true, Bool.true_and]
    congr 1
    omega
  · rw [if_neg high]
    by_cases low : j = i ∧ r ≤ k ∧ k < r + 2
    · rw [if_pos low, if_pos (by omega)]
      apply BitVec.eq_of_getLsbD_eq
      intro b hb
      simp only [BitVec.getLsbD_extractLsb', BitVec.getLsbD_setWidth, hb, show 32 * (k - r) + b < 64 by omega, decide_true, Bool.true_and]
    · rw [if_neg low, if_neg (by omega)]

/-- What a load of a size makes of a lane's registers (R176). -/
def Group.load (regs : Nat) (q : Group) (i vd v : Nat) : Group :=
  match regs with
  | 1 => q.vSet i vd (BitVec.ofNat 32 v)
  | 2 => q.setPair i vd (BitVec.ofNat 64 v)
  | _ => q.setQuad i vd (BitVec.ofNat 128 v)

theorem extract_ofNat {n lo : Nat} (v : Nat) (h : lo + 32 ≤ n) : (BitVec.ofNat n v).extractLsb' lo 32 = BitVec.ofNat 32 (v / 2 ^ lo) := by
  apply BitVec.eq_of_getLsbD_eq
  intro j hj
  rw [BitVec.getLsbD_extractLsb', BitVec.getLsbD_ofNat, BitVec.getLsbD_ofNat, Nat.testBit_div_two_pow, Nat.add_comm j lo]
  simp [hj, show lo + j < n by omega]

theorem Group.load_spec (sz : LSize) (q : Group) (i vd v : Nat) (fits : vd + sz.regs ≤ 256) :
    q.load sz.regs i vd v = { q with v := (q.load sz.regs i vd v).v } ∧ ∀ j, ∀ r < 256, (q.load sz.regs i vd v).vGet j r =
      if j = i ∧ vd ≤ r ∧ r < vd + sz.regs then BitVec.ofNat 32 (v / 2 ^ (32 * (r - vd))) else q.vGet j r := by
  have single : ∀ (p : Group), vd + 1 ≤ 256 → ∀ j, ∀ r < 256, (p.vSet i vd (BitVec.ofNat 32 v)).vGet j r =
      if j = i ∧ vd ≤ r ∧ r < vd + 1 then BitVec.ofNat 32 (v / 2 ^ (32 * (r - vd))) else p.vGet j r := by
    intro p fits j r hr
    rw [Group.vGet_vSet _ _ _ _ _ _ (by omega) hr]
    by_cases here : j = i ∧ r = vd
    · rw [if_pos here, if_pos (by omega), here.2]
      simp
    · rw [if_neg here, if_neg (by omega)]
  cases sz with
  | b8 => exact ⟨rfl, single q fits⟩
  | b16 => exact ⟨rfl, single q fits⟩
  | b32 => exact ⟨rfl, single q fits⟩
  | b64 =>
    have run : q.load (LSize.b64).regs i vd v = q.setPair i vd (BitVec.ofNat 64 v) := rfl
    refine ⟨rfl, fun j r hr => ?_⟩
    rw [run, Group.vGet_setPair _ _ _ _ _ _ fits hr]
    refine ite_congr rfl (fun here => extract_ofNat v ?_) fun _ => rfl
    have := here.2.2
    change r < vd + 2 at this
    omega
  | b128 =>
    have run : q.load (LSize.b128).regs i vd v = q.setQuad i vd (BitVec.ofNat 128 v) := rfl
    refine ⟨rfl, fun j r hr => ?_⟩
    rw [run, Group.vGet_setQuad _ _ _ _ _ _ fits hr]
    refine ite_congr rfl (fun here => extract_ofNat v ?_) fun _ => rfl
    have := here.2.2
    change r < vd + 4 at this
    omega

theorem Group.vOnly_trans {p q z : Group} (h : p = { q with v := p.v }) (k : z = { p with v := z.v }) : z = { q with v := z.v } := by
  rw [k, h]

/-- Loads of several lanes. -/
theorem Group.eachLane_load (sz : LSize) {vd : Nat} (fits : vd + sz.regs ≤ 256) (v : Nat → Nat) : ∀ (l : List Nat) (q : Group),
    let z := q.eachLane l fun i p => p.load sz.regs i vd (v i)
    z = { q with v := z.v } ∧ ∀ i, ∀ r < 256, z.vGet i r =
      if i ∈ l ∧ vd ≤ r ∧ r < vd + sz.regs then BitVec.ofNat 32 (v i / 2 ^ (32 * (r - vd))) else q.vGet i r
  | [], q => ⟨rfl, fun i r _ => by simp [Group.eachLane]⟩
  | a :: l, q => by
    obtain ⟨first, wrote⟩ := Group.load_spec sz q a vd (v a) fits
    obtain ⟨rest, read⟩ := Group.eachLane_load sz fits v l (q.load sz.regs a vd (v a))
    refine ⟨Group.vOnly_trans first rest, fun i r hr => (read i r hr).trans ?_⟩
    rw [wrote i r hr]
    by_cases later : i ∈ l ∧ vd ≤ r ∧ r < vd + sz.regs
    · rw [if_pos later, if_pos ⟨.tail _ later.1, later.2⟩]
    · rw [if_neg later]
      by_cases here : i = a ∧ vd ≤ r ∧ r < vd + sz.regs
      · rw [if_pos here, if_pos ⟨List.mem_cons.mpr (.inl here.1), here.2⟩, here.1]
      · rw [if_neg here, if_neg]
        rintro ⟨lane, window⟩
        obtain first | next := List.mem_cons.mp lane
        · exact here ⟨first, window⟩
        · exact later ⟨next, window⟩

/-! ### Bytes loaded -/

theorem bytesNat_drop : ∀ (m : Nat) (bs : List Byte), bytesNat bs / 256 ^ m = bytesNat (bs.drop m)
  | 0, bs => by simp
  | m + 1, [] => by simp [bytesNat]
  | m + 1, b :: bs => by
    have := b.isLt
    have shift : (b.toNat + 256 * bytesNat bs) / 256 = bytesNat bs := by omega
    rw [bytesNat, Nat.pow_succ', ← Nat.div_div_eq_div_mul, shift, bytesNat_drop m bs, List.drop_succ_cons]

/-- The low 32 bits of bytes are the first four of them. -/
theorem ofNat_bytesNat_take (bs : List Byte) : BitVec.ofNat 32 (bytesNat bs) = BitVec.ofNat 32 (bytesNat (bs.take 4)) := by
  refine eq_of_extract_eq (n := 4) fun k hk => ?_
  rw [extract_bytesNat bs (by omega), extract_bytesNat _ (by omega), List.getD_eq_getElem?_getD, List.getD_eq_getElem?_getD,
    List.getElem?_take_of_lt hk]

/-- Register `j` of an access. -/
theorem State.memBytes_reg (s : State) (a : Nat) (sz : LSize) {j : Nat} (hj : j < sz.regs) :
    BitVec.ofNat 32 (bytesNat (s.memBytes a sz.bytes) / 2 ^ (32 * j)) = BitVec.ofNat 32 (bytesNat (s.memBytes (a + 4 * j) (min 4 sz.bytes))) := by
  have inside : 4 * j + min 4 sz.bytes ≤ sz.bytes ∧ min 4 (sz.bytes - 4 * j) = min 4 sz.bytes := by
    cases sz <;> simp only [LSize.bytes, LSize.regs] at * <;> omega
  have power : 2 ^ (32 * j) = 256 ^ (4 * j) := by
    rw [show (256 : Nat) = 2 ^ 8 from rfl, ← pow_mul]
    congr 1
    omega
  have piece : ((s.memBytes a sz.bytes).drop (4 * j)).take 4 = s.memBytes (a + 4 * j) (min 4 sz.bytes) := by
    rw [← s.memBytes_slice a sz.bytes (4 * j) _ inside.1, ← inside.2]
    simp [List.take_eq_take_iff]
  rw [power, bytesNat_drop, ofNat_bytesNat_take, piece]

/-! ### Bytes stored -/

theorem ofNat_shift {n : Nat} (x : BitVec n) (k : Nat) : BitVec.ofNat 8 (x.toNat / 256 ^ k) = x.extractLsb' (8 * k) 8 := by
  apply BitVec.eq_of_getLsbD_eq
  intro b hb
  rw [BitVec.getLsbD_ofNat, BitVec.getLsbD_extractLsb', show (256 : Nat) = 2 ^ 8 from rfl, ← pow_mul, Nat.testBit_div_two_pow,
    BitVec.testBit_toNat, Nat.add_comm]

theorem extract_high {m n : Nat} (hi : BitVec m) (lo : BitVec n) {k : Nat} (h : n ≤ 8 * k) :
    (hi ++ lo).extractLsb' (8 * k) 8 = hi.extractLsb' (8 * k - n) 8 := BitVec.extractLsb'_append_eq_of_le h

theorem extract_low {m n : Nat} (hi : BitVec m) (lo : BitVec n) {k : Nat} (h : 8 * k + 8 ≤ n) :
    (hi ++ lo).extractLsb' (8 * k) 8 = lo.extractLsb' (8 * k) 8 := by
  apply BitVec.eq_of_getLsbD_eq
  intro b hb
  simp [BitVec.getLsbD_append, hb, show 8 * k + b < n by omega]

theorem Group.vPair_byte (q : Group) (i r : Nat) {k : Nat} (hk : k < 8) :
    (q.vPair i r).extractLsb' (8 * k) 8 = (q.vGet i (r + k / 4)).extractLsb' (8 * (k % 4)) 8 := by
  unfold Group.vPair
  by_cases low : k < 4
  · rw [extract_low _ _ (by omega), show k / 4 = 0 by omega, show k % 4 = k by omega]
    rfl
  · rw [extract_high _ _ (by omega), show k / 4 = 1 by omega]
    congr 1
    omega

theorem Group.vQuad_byte (q : Group) (i r : Nat) {k : Nat} (hk : k < 16) :
    (q.vQuad i r).extractLsb' (8 * k) 8 = (q.vGet i (r + k / 4)).extractLsb' (8 * (k % 4)) 8 := by
  unfold Group.vQuad
  by_cases low : k < 8
  · rw [extract_low _ _ (by omega), q.vPair_byte i r low]
  · rw [extract_high _ _ (by omega), show 8 * k - 64 = 8 * (k - 8) by omega, q.vPair_byte i (r + 2) (by omega),
      show r + 2 + (k - 8) / 4 = r + k / 4 by omega, show (k - 8) % 4 = k % 4 by omega]

/-- Byte `k` of the value that a lane stores. -/
theorem storeValue_byte (w : BitVec 64) (sz : LSize) (gr : Group) (i : Nat) {k : Nat} (hk : k < sz.bytes) :
    (natBytes sz.bytes (storeValue w sz.regs gr i)).getD k 0 = (gr.vGet i (fVB w + k / 4)).extractLsb' (8 * (k % 4)) 8 := by
  rw [natBytes_getD _ _ _ hk]
  have single : k < 4 → BitVec.ofNat 8 ((gr.vGet i (fVB w)).toNat / 256 ^ k) =
      (gr.vGet i (fVB w + k / 4)).extractLsb' (8 * (k % 4)) 8 := fun low => by
    rw [ofNat_shift, show k / 4 = 0 by omega, show k % 4 = k by omega]
    rfl
  cases sz with
  | b8 => exact single (lt_trans hk (by decide))
  | b16 => exact single (lt_trans hk (by decide))
  | b32 => exact single hk
  | b64 => exact (ofNat_shift ..).trans (gr.vPair_byte i _ hk)
  | b128 => exact (ofNat_shift ..).trans (gr.vQuad_byte i _ hk)

/-- Stores of lanes in order: the highest lane's bytes stand. -/
theorem State.storeLanes {core n : Nat} {addr : Nat → Nat} {val : Nat → List Byte} (len : ∀ i, (val i).length = n) :
    ∀ (l : List Nat) (s : State), l.Pairwise (· < ·) →
      (∀ i ∈ l, CleanBytes s (addr i) n ∧ localBase core ≤ addr i ∧ addr i + n ≤ localBase core + localEnd) →
      (∀ i ∈ l, ∀ j ∈ l, addr j ≠ addr i → addr i + n ≤ addr j ∨ addr j + n ≤ addr i) →
      let t := l.foldl (fun s i => s.writeBytes (addr i) (val i)) s
      Touched s t core (fun a => ∃ i ∈ l, addr i ≤ a ∧ a < addr i + n) ∧
        ∀ i ∈ l, (∀ j ∈ l, i < j → addr j ≠ addr i) → ∀ k < n, t.memByte (addr i + k) = (val i).getD k 0
  | [], s, _, _, _ => ⟨.refl .., nofun⟩
  | i :: l, s, sorted, ok, apart => by
    obtain ⟨later, sorted⟩ := List.pairwise_cons.mp sorted
    obtain ⟨clean, base, inside⟩ := ok i (.head _)
    have first := State.writeBytes_stored (s := s) (bs := val i) (by rwa [len]) base (by rwa [len])
    obtain ⟨rest, bytes⟩ := State.storeLanes len l (s.writeBytes (addr i) (val i)) sorted
      (fun j hj => ⟨fun w hw => first.clean w ((ok j (.tail _ hj)).1 w hw), (ok j (.tail _ hj)).2⟩)
      fun j hj k hk => apart j (.tail _ hj) k (.tail _ hk)
    refine ⟨(first.mono fun a ha => ⟨i, .head _, by rwa [len] at ha⟩).trans (rest.mono fun a ⟨j, hj, ha⟩ => ⟨j, .tail _ hj, ha⟩), ?_⟩
    intro j hj highest k hk
    obtain rfl | next := List.mem_cons.mp hj
    · refine (rest.memory _ fun ⟨x, hx, ha⟩ => ?_).trans (first.bytes k (by rwa [len]))
      have := apart j (.head _) x (.tail _ hx) (highest x (.tail _ hx) (later x hx))
      omega
    · exact bytes j next (fun x hx => highest x (.tail _ hx)) k hk

/-! ### The frame of a store -/

theorem StoreFrame.of_touched {s r t : State} {g : GroupRef} {P : Nat → Prop} (h : Counted s r g.core) (k : Touched r t g.core P)
    (q : Group) (ev cls : Nat) : let u := (t.setGroup g q).countSlot g.core ev cls
    u.group? g = some q ∧ StoreFrame s u g P ∧ ∀ a, u.memByte a = t.memByte a := by
  obtain ⟨own, frame⟩ := t.setGroup_countSlot g q ev cls
  generalize (t.setGroup g q).countSlot g.core ev cls = u at own frame
  obtain ⟨xs, before, core⟩ := h.slots
  obtain ⟨ys, after, core'⟩ := frame.slots
  have tally : t.tally = r.tally := by rw [k.rest]
  have od : t.od = r.od := by rw [k.rest]
  have disp : t.disp = { r.disp with woken := t.disp.woken } := by rw [k.rest]
  have disp' : u.disp = t.disp := by rw [frame.rest]
  have disp'' : r.disp = s.disp := by rw [h.only]
  refine ⟨own, ⟨⟨by rw [frame.tally, tally, h.tally], ⟨xs ++ ys, by rw [after, tally, before, List.append_assoc], fun x hx => ?_⟩,
    fun i hi hj => ?_⟩, ?_, fun m hm => ?_, fun a ha => ?_, fun m hm => ?_, ?_, fun sl hsl => ?_⟩, frame.memory⟩
  · exact (List.mem_append.mp hx).elim (core x) (core' x)
  · rw [frame.od i hi hj, ← h.od i hi hj]
    unfold State.odGet
    rw [od]
  · rw [frame.rest, k.rest, h.only]
  · rw [disp'] at hm
    rw [← disp'']
    exact k.seen m hm
  · rw [frame.memory, k.memory a ha, h.sameMem.byte]
  · rw [frame.cores m hm, k.cores m hm, h.core]
  · rw [frame.core, k.noted.core, h.core]
  · rw [frame.groups sl hsl, k.noted.group, h.group]

/-! ### LD.L and ST.L -/

/-- What an LD.L does with its words. -/
def loadIssue (g : GroupRef) (w : BitVec 64) (sz : LSize) (s : State) (gr : Group) (ws : List Nat) : Issue :=
  match excOfFails (poisonFails w g.core sz.bytes 0x01 gr (s.readDistinct ws).1) with
  | some e => .excAfter e (s.readDistinct ws).2
  | none => groupOnly g (fun gr => gr.eachLane (gr.execLanes w) fun i q => q.load sz.regs i (fVD w)
      (readValue (s.readDistinct ws).1 (localBase g.core + (localAddr w gr i).toNat) sz.bytes)) (s.readDistinct ws).2 gr

theorem exec_ldL (g : GroupRef) (sz : LSize) (f : BitVec 48) (s : State) : exec (.ldL g sz f) s =
    issued g (opWord f (0x2001 + sz.step)) 2 (localBody g (opWord f (0x2001 + sz.step)) sz.bytes
      [(fVD (opWord f (0x2001 + sz.step)), sz.regs)] (loadIssue g (opWord f (0x2001 + sz.step)) sz)) s := rfl

/-- What an ST.L does. -/
def storeIssue (g : GroupRef) (w : BitVec 64) (sz : LSize) (s : State) (gr : Group) (_ : List Nat) : Issue :=
  groupOnly g (fun gr => gr) ((gr.execLanes w).foldl (fun s i =>
    s.writeBytes (localBase g.core + (localAddr w gr i).toNat) (natBytes sz.bytes (storeValue w sz.regs gr i))) s) gr

theorem exec_stL (g : GroupRef) (sz : LSize) (f : BitVec 48) (s : State) : exec (.stL g sz f) s =
    issued g (opWord f (0x2011 + sz.step)) 2 (localBody g (opWord f (0x2011 + sz.step)) sz.bytes
      [(fVB (opWord f (0x2011 + sz.step)), sz.regs)] (storeIssue g (opWord f (0x2011 + sz.step)) sz)) s := rfl

theorem Group.execLanes_opWord (gr : Group) (f : BitVec 48) (op : Nat) (i : Nat) :
    i ∈ gr.execLanes (opWord f op) ↔ i < 32 ∧ gr.runs (opWord f 0) i = true := by
  rw [gr.mem_execLanes, gr.runs_opWord f op 0]

/-- An operand of a size, aligned to its width, ends among the registers. -/
theorem regs_fit {w : BitVec 64} {sz : LSize} (aligned : fVD w % sz.regs = 0) : fVD w + sz.regs ≤ 256 := by
  have := fVD_lt w
  cases sz <;> simp only [LSize.regs] at * <;> omega

/-- Lanes at different addresses store to different bytes. -/
theorem LocalAt.apart {w : BitVec 64} {g : GroupRef} {gr : Group} {sz : LSize} {i j a b : Nat} (h : LocalAt w g gr sz.bytes i a) (k : LocalAt w g gr sz.bytes j b) (ne : b ≠ a) :
    a + sz.bytes ≤ b ∨ b + sz.bytes ≤ a := by
  have base := h.base
  have base' := k.base
  have aligned := h.aligned
  have aligned' := k.aligned
  cases sz <;> simp only [LSize.bytes] at * <;> omega

section
variable {s : State} {g : GroupRef} {gr : Group} (h : Ready s g gr) {f : BitVec 48} {sz : LSize} {addr : Nat → Nat}
  (lanes : ∀ i < 32, gr.runs (opWord f 0) i = true → LocalAt (opWord f 0) g gr sz.bytes i (addr i) ∧ CleanBytes s (addr i) sz.bytes)
include h lanes

theorem ldL_becomes (ok : regsOk (s.vregs g.core) [(fVA (opWord f 0), 1), (fVD (opWord f 0), sz.regs)] = true) :
    ∃ q, GroupBecomes (.ldL g sz f) s g q ∧ q = { gr with pc := gr.pc + 8, v := q.v } ∧
      (∀ i < 32, gr.runs (opWord f 0) i = true → ∀ j < sz.regs,
        q.vGet i (fVD (opWord f 0) + j) = BitVec.ofNat 32 (bytesNat (s.memBytes (addr i + 4 * j) (min 4 sz.bytes)))) ∧
      ∀ i < 32, ∀ r < 256, (gr.runs (opWord f 0) i = false ∨ r < fVD (opWord f 0) ∨ fVD (opWord f 0) + sz.regs ≤ r) →
        q.vGet i r = gr.vGet i r := by
  have run := exec_ldL g sz f s
  generalize 0x2001 + sz.step = op at run
  rw [fVA_opWord f 0 op, fVD_opWord f 0 op] at ok
  rw [fVD_opWord f 0 op]
  have members := gr.execLanes_opWord f op
  have at_ : ∀ i ∈ gr.execLanes (opWord f op), LocalAt (opWord f op) g gr sz.bytes i (addr i) := fun i hi =>
    (lanes i ((members i).mp hi).1 ((members i).mp hi).2).1.opWord op
  have counted := s.countLocal_counted g.core ((gr.execLanes (opWord f op)).flatMap fun i => spanWords (addr i) sz.bytes)
  have body := localBody_ok at_ ok (loadIssue g (opWord f op) sz)
  generalize s.countLocal g.core _ = r at counted body
  have clean : ∀ i ∈ gr.execLanes (opWord f op), CleanBytes r (addr i) sz.bytes := fun i hi =>
    counted.sameMem.clean (lanes i ((members i).mp hi).1 ((members i).mp hi).2).2
  obtain ⟨m, read, data, none⟩ := lanes_read at_ clean 0x01
  have fits : fVD (opWord f op) + sz.regs ≤ 256 := regs_fit (by simp [regsOk] at ok; exact ok.2.1)
  obtain ⟨rest, loaded⟩ := Group.eachLane_load sz fits
    (fun i => readValue m (localBase g.core + (localAddr (opWord f op) gr i).toNat) sz.bytes) (gr.execLanes (opWord f op)) gr
  rw [loadIssue, read] at body
  dsimp only at body
  rw [none] at body
  obtain ⟨own, frame⟩ := r.setGroup_countSlot g
    (gr.eachLane (gr.execLanes (opWord f op)) fun i q => q.load sz.regs i (fVD (opWord f op))
      (readValue m (localBase g.core + (localAddr (opWord f op) gr i).toNat) sz.bytes)).advance 0x0301 2
  refine ⟨_, ⟨_, issued_done h run body, own, counted.groupFrame frame⟩, congrArg Group.advance rest, fun i hi runs j hj => ?_,
    fun i hi r hr out => ?_⟩
  · have lane := (members i).mpr ⟨hi, runs⟩
    refine (loaded i _ (by omega)).trans ?_
    rw [if_pos ⟨lane, by omega, by omega⟩, (at_ i lane).place, readValue_eq (data i lane), Nat.add_sub_cancel_left,
      counted.sameMem.bytes, s.memBytes_reg _ _ hj]
  · refine (loaded i r hr).trans (if_neg fun ⟨lane, low, high⟩ => ?_)
    obtain idle | outside := out
    · rw [((members i).mp lane).2] at idle
      cases idle
    · omega

theorem stL_becomes (ok : regsOk (s.vregs g.core) [(fVA (opWord f 0), 1), (fVB (opWord f 0), sz.regs)] = true) :
    ∃ t, exec (.stL g sz f) s = .next t ∧ t.group? g = some { gr with pc := gr.pc + 8 } ∧
      StoreFrame s t g (fun a => ∃ i < 32, gr.runs (opWord f 0) i = true ∧ addr i ≤ a ∧ a < addr i + sz.bytes) ∧
      ∀ i < 32, gr.runs (opWord f 0) i = true → (∀ j < 32, gr.runs (opWord f 0) j = true → i < j → addr j ≠ addr i) → ∀ k < sz.bytes,
        t.memByte (addr i + k) = (gr.vGet i (fVB (opWord f 0) + k / 4)).extractLsb' (8 * (k % 4)) 8 := by
  have run := exec_stL g sz f s
  generalize 0x2011 + sz.step = op at run
  rw [fVA_opWord f 0 op, fVB_opWord f 0 op] at ok
  rw [fVB_opWord f 0 op]
  have members := gr.execLanes_opWord f op
  have at_ : ∀ i ∈ gr.execLanes (opWord f op), LocalAt (opWord f op) g gr sz.bytes i (addr i) := fun i hi =>
    (lanes i ((members i).mp hi).1 ((members i).mp hi).2).1.opWord op
  have counted := s.countLocal_counted g.core ((gr.execLanes (opWord f op)).flatMap fun i => spanWords (addr i) sz.bytes)
  have body := localBody_ok at_ ok (storeIssue g (opWord f op) sz)
  generalize s.countLocal g.core _ = r at counted body
  obtain ⟨touched, bytes⟩ := State.storeLanes (core := g.core) (n := sz.bytes) (addr := addr)
    (val := fun i => natBytes sz.bytes (storeValue (opWord f op) sz.regs gr i)) (fun i => length_natBytes ..)
    (gr.execLanes (opWord f op)) r (List.pairwise_lt_range.filter _)
    (fun i hi => ⟨counted.sameMem.clean (lanes i ((members i).mp hi).1 ((members i).mp hi).2).2, (at_ i hi).base, (at_ i hi).ends⟩)
    fun i hi j hj ne => (at_ i hi).apart (at_ j hj) ne
  rw [storeIssue, List.foldl_ext _ _ r fun t i hi => by rw [(at_ i hi).place]] at body
  obtain ⟨own, frame, same⟩ := StoreFrame.of_touched counted touched gr.advance 0x0301 2
  refine ⟨_, issued_done h run body, own, ?_, fun i hi runs highest k hk => ?_⟩
  · have sets : (fun a => ∃ i < 32, gr.runs (opWord f 0) i = true ∧ addr i ≤ a ∧ a < addr i + sz.bytes) =
        fun a => ∃ i ∈ gr.execLanes (opWord f op), addr i ≤ a ∧ a < addr i + sz.bytes :=
      funext fun a => propext ⟨fun ⟨i, hi, runs, ha⟩ => ⟨i, (members i).mpr ⟨hi, runs⟩, ha⟩,
        fun ⟨i, hi, ha⟩ => ⟨i, ((members i).mp hi).1, ((members i).mp hi).2, ha⟩⟩
    rw [sets]
    exact frame
  · rw [same, bytes i ((members i).mpr ⟨hi, runs⟩) (fun j hj => highest j ((members j).mp hj).1 ((members j).mp hj).2) k hk,
      storeValue_byte _ sz gr i hk]

end

/-- Settles O11. -/
theorem localAccesses : Obligations.LocalAccesses := by
  unfold Obligations.LocalAccesses
  exact ⟨fun sz g f s gr addr h ok lanes => ldL_becomes h lanes ok, fun sz g f s gr addr h ok lanes => stL_becomes h lanes ok⟩

end Sys2Proof.Machine
end

section
/-! SUPPORT and proof. LKACQ and LKREL (R191 to R193): statement O12. -/

namespace Sys2Proof.Machine
open Sys2Proof

/-! ### Lock words -/

theorem fld_eq (x : BitVec 64) (lo n : Nat) : fld x lo n = x.toNat / 2 ^ lo % 2 ^ n := by
  unfold fld
  rw [BitVec.extractLsb'_toNat, Nat.shiftRight_eq_div_pow]

theorem lockOfGroup_iff (x : BitVec 64) (g : GroupRef) :
    lockOfGroup x g = true ↔ x.getLsbD 63 = true ∧ fld x 40 7 = g.core ∧ fld x 32 4 = g.slot := by
  simp [lockOfGroup, lockHeld, and_assoc]

theorem lockOfThread_iff (x : BitVec 64) (g : GroupRef) (i : Nat) :
    lockOfThread x g i = true ↔ (x.getLsbD 63 = true ∧ fld x 40 7 = g.core ∧ fld x 32 4 = g.slot) ∧ fld x 24 5 = i := by
  rw [← lockOfGroup_iff]
  simp [lockOfThread]

/-- A freed word is not held, and still names its last owner. -/
theorem lockFreed_fields (x : BitVec 64) : (lockFreed x).getLsbD 63 = false ∧ fld (lockFreed x) 40 7 = fld x 40 7 ∧
    fld (lockFreed x) 32 4 = fld x 32 4 ∧ fld (lockFreed x) 24 5 = fld x 24 5 := by
  have core : fld x 40 7 < 128 := BitVec.isLt _
  have slot : fld x 32 4 < 16 := BitVec.isLt _
  have lane : fld x 24 5 < 32 := BitVec.isLt _
  have value : (lockFreed x).toNat = fld x 40 7 * 2 ^ 40 + fld x 32 4 * 2 ^ 32 + fld x 24 5 * 2 ^ 24 := by
    have mask : (0x7FFFFFFFFFFFFFFF : BitVec 64).toNat = 2 ^ 63 - 1 := rfl
    unfold lockFreed lockWord
    rw [BitVec.toNat_and, mask, Nat.and_two_pow_sub_one_eq_mod, BitVec.toNat_ofNat]
    omega
  refine ⟨?_, ?_, ?_, ?_⟩
  · rw [← BitVec.testBit_toNat, value, Nat.testBit_eq_false_of_lt (by omega)]
  all_goals
    rw [fld_eq _ _ _, value]
    omega

/-! ### Words of local memory that one store replaces -/

theorem State.memWord_of_bytes {s : State} {w : Nat} {d : BitVec 64} (h : ∀ b, b / 8 = w → s.memByte b = d.extractLsb' (8 * (b % 8)) 8) :
    s.memWord w = d := by
  refine eq_of_extract_eq (n := 8) fun k hk => ?_
  rw [s.memWord_extract w hk, h _ (by omega)]
  congr 1
  omega

theorem State.writeWord_touched {s : State} {w n : Nat} (h : CleanWord s w) (base : localBase n ≤ 8 * w)
    (inside : 8 * w < localBase n + localEnd) (d : BitVec 64) :
    Touched s (s.writeWord w d false) n (fun b => b / 8 = w) ∧ (s.writeWord w d false).memWord w = d := by
  have wrote := State.updWord_becomes h.still fun _ => codeWord d false
  rw [codeData_codeWord] at wrote
  exact ⟨State.updWord_touched h base inside rfl ⟨8 * w, by omega, by omega⟩ fun a here out => absurd here out,
    State.memWord_of_bytes fun b hb => (wrote.byte b).trans (if_pos hb)⟩

/-! ### A lock instruction of one lane -/

/-- One lane's turn: the words, its status, and whether it changed its word. -/
abbrev LockTurn := Nat → Nat → SMap (BitVec 64 × Bool) → SMap (BitVec 64 × Bool) × BitVec 32 × Bool

/-- What a lock instruction does with its words. -/
def lockBody (g : GroupRef) (w : BitVec 64) (turn : LockTurn) (locks : Nat → Nat → Nat) (s : State) (gr : Group) (ws : List Nat) : Issue :=
  match excOfFails (poisonFails w g.core 8 0x04 gr (s.readDistinct ws).1) with
  | some e => .excAfter e (s.readDistinct ws).2
  | none =>
    let t := (gr.execLanes w).foldl (fun (a : SMap (BitVec 64 × Bool) × Group × Nat × List Nat) i =>
      let k := lockIndex w g.core gr i
      let q := turn i k a.1
      (q.1, a.2.1.vSet i (fVD w) q.2.1, if q.2.2 then a.2.2.1 + 1 else a.2.2.1,
        if q.2.2 then k :: a.2.2.2 else a.2.2.2)) ((s.readDistinct ws).1, gr, 0, [])
    groupOnly g (fun q => { q with locks := locks q.locks t.2.2.1 })
      ((dedup [] t.2.2.2).foldl (fun s k => s.writeWord k (readData t.1 k) false) (s.readDistinct ws).2) t.2.1

theorem lockIssue_eq (g : GroupRef) (w : BitVec 64) (turn : LockTurn) (locks : Nat → Nat → Nat) (s : State) :
    lockIssue g w turn locks s = issued g w 2 (localBody g w 8 [(fVD w, 1)] (lockBody g w turn locks)) s := rfl

/-- How a lock instruction of lane `i` ends: its status is in VD, the group counts `locks` locks, and memory is as before but
for the word at `a`. -/
def LockEnds (c : Instr) (s : State) (g : GroupRef) (gr : Group) (vd i a : Nat) (st : BitVec 32) (locks : Nat) (P : State → Prop) : Prop :=
  ∃ t q, exec c s = .next t ∧ t.group? g = some q ∧ q = { gr with pc := gr.pc + 8, v := q.v, locks := locks } ∧
    (∀ j < 32, ∀ r < 256, q.vGet j r = if j = i ∧ r = vd then st else gr.vGet j r) ∧
    StoreFrame s t g (fun b => b / 8 = a / 8) ∧ P t

section
variable {s : State} {g : GroupRef} {gr : Group} (h : Ready s g gr) {f : BitVec 48} {op i a : Nat} {c : Instr} {turn : LockTurn}
  {locks : Nat → Nat → Nat} (hc : exec c s = lockIssue g (opWord f op) turn locks s)
  (vd : fVD (opWord f 0) < s.vregs g.core) (va : fVA (opWord f 0) < s.vregs g.core) (hi : i < 32)
  (single : ∀ j < 32, gr.runs (opWord f 0) j = true ↔ j = i) (at_ : LocalAt (opWord f 0) g gr 8 i a) (clean : CleanWord s (a / 8))
include h hc vd va hi single at_ clean

/-- The lane's turn is taken on the word as it stands; what the turn makes of it is stored. -/
theorem lock_ends {st : BitVec 32} {took : Bool} {m' : SMap (BitVec 64 × Bool) → SMap (BitVec 64 × Bool)}
    (turns : ∀ m, readData m (a / 8) = s.memWord (a / 8) → turn i (a / 8) m = (m' m, st, took)) {d : BitVec 64}
    (new : ∀ m, readData m (a / 8) = s.memWord (a / 8) → took = true → readData (m' m) (a / 8) = d) {P : State → Prop}
    (hP : ∀ t : State, t.memWord (a / 8) = (if took then d else s.memWord (a / 8)) → P t) :
    LockEnds c s g gr (fVD (opWord f 0)) i a st (locks gr.locks (if took then 1 else 0)) P := by
  rw [fVA_opWord f 0 op] at va
  rw [fVD_opWord f 0 op] at vd ⊢
  have lanes : gr.execLanes (opWord f op) = [i] := Group.execLanes_single hi fun j hj => by rw [gr.runs_opWord f op 0, single j hj]
  have place := at_.opWord op
  have word : spanWords a 8 = [a / 8] := by
    have := place.aligned
    have := place.base
    unfold localBase at *
    unfold spanWords
    rw [show (a + 8 + 7) / 8 - a / 8 = 1 by omega]
    rfl
  have bounds : localBase g.core ≤ 8 * (a / 8) ∧ 8 * (a / 8) < localBase g.core + localEnd := by
    have := place.base
    have := place.inside
    unfold localBase at *
    omega
  have each : ∀ j ∈ gr.execLanes (opWord f op), LocalAt (opWord f op) g gr 8 j a := fun j hj => by
    rw [lanes, List.mem_singleton] at hj
    rwa [hj]
  have body := localBody_ok each (regsOk_single (l := [_, _]) (by simpa using ⟨va, vd⟩)) (lockBody g (opWord f op) turn locks)
  have counted := s.countLocal_counted g.core ((gr.execLanes (opWord f op)).flatMap fun i => spanWords a 8)
  generalize s.countLocal g.core _ = r at counted body
  have stands : r.memWord (a / 8) = s.memWord (a / 8) := State.memWord_congr fun b _ => counted.sameMem.byte b
  have clean' := counted.sameMem.cleanWord clean
  obtain ⟨m, read, data, none⟩ := lanes_read each (s := r) (fun _ _ => by
    unfold CleanBytes
    rw [word]
    simpa using clean') 0x04
  have given : readData m (a / 8) = s.memWord (a / 8) := (data i (by simp [lanes]) _ (by simp [word])).trans stands
  have index : lockIndex (opWord f op) g.core gr i = a / 8 := by rw [lockIndex, place.place]
  rw [lockBody, read] at body
  dsimp only at body
  rw [none, lanes] at body
  dsimp only [List.foldl_cons, List.foldl_nil] at body
  rw [index, turns m given] at body
  let q : Group := { gr.vSet i (fVD (opWord f op)) st with locks := locks gr.locks (if took then 1 else 0) }
  obtain ⟨t, touched, holds, done⟩ : ∃ t, Touched r t g.core (fun b => b / 8 = a / 8) ∧
      t.memWord (a / 8) = (if took then d else s.memWord (a / 8)) ∧ localBody g (opWord f op) 8 [(fVD (opWord f op), 1)]
        (lockBody g (opWord f op) turn locks) s gr = .done (t.setGroup g q.advance) := by
    cases took with
    | false => exact ⟨r, .refl .., stands, body⟩
    | true =>
      obtain ⟨touched, holds⟩ := State.writeWord_touched clean' bounds.1 bounds.2 d
      rw [← new m given rfl] at touched holds
      exact ⟨_, touched, by rw [if_pos rfl, holds, new m given rfl], body⟩
  obtain ⟨own, frame, same⟩ := StoreFrame.of_touched counted touched q.advance 0x0301 2
  refine ⟨_, _, issued_done h (hc.trans (lockIssue_eq ..)) done, own, rfl, fun j _ k hk => gr.vGet_vSet i j _ k st (fVD_lt _) hk, frame, hP _ ?_⟩
  rw [← holds]
  exact State.memWord_congr fun b _ => same b

end

/-- Settles O12: the turn by the word that it finds. -/
theorem locks : Obligations.Locks := by
  unfold Obligations.Locks
  intro g f s gr i a h core slot w x status vd va hi single at_ clean mine same
  have acquire := fun {st took m' d} P => lock_ends h (c := .lkacq g f) (turn := lockAcquire g) (locks := fun n k => n + k) rfl vd va hi single at_ clean
    (st := st) (took := took) (m' := m') (d := d) (P := P)
  have release := fun {st took m' d} P => lock_ends h (c := .lkrel g f) (turn := lockRelease g) (locks := fun n k => n - k) rfl vd va hi single at_ clean
    (st := st) (took := took) (m' := m') (d := d) (P := P)
  have group : lockOfGroup x g = true ↔ mine := lockOfGroup_iff x g
  have thread : lockOfThread x g i = true ↔ mine ∧ fld x 24 5 = i := lockOfThread_iff x g i
  refine ⟨fun free => ?_, fun own => ?_, fun held other => ?_, fun own lane => ?_, fun held other => ?_, fun free => ?_⟩
  · refine acquire (took := true) (m' := fun m => SMap.put m (a / 8) (lockWord g.core g.slot i, false)) (d := lockWord g.core g.slot i) _
      (fun m given => ?_) (fun m _ _ => ?_) fun t ht => ht
    · unfold lockAcquire
      rw [given, if_pos (by simpa [lockHeld] using free)]
    · unfold readData
      rw [SMap.get_put, if_pos rfl]
  · refine acquire (took := false) (m' := id) (d := 0) _ (fun m given => ?_) nofun fun t ht => ht
    unfold lockAcquire
    rw [given, if_neg (by simpa [lockHeld] using own.1), if_pos (group.mpr own)]
    rfl
  · refine acquire (took := false) (m' := id) (d := 0) _ (fun m given => ?_) nofun fun t ht => ht
    unfold lockAcquire
    rw [given, if_neg (by simpa [lockHeld] using held), if_neg (mt group.mp other)]
    rfl
  · refine release (took := true) (m' := fun m => SMap.put m (a / 8) (lockFreed x, false)) (d := lockFreed x) _
      (fun m given => ?_) (fun m _ _ => ?_) fun t ht => ?_
    · unfold lockRelease
      rw [given, if_pos (thread.mpr ⟨own, lane⟩)]
    · unfold readData
      rw [SMap.get_put, if_pos rfl]
    · obtain ⟨open_, core', slot', lane'⟩ := lockFreed_fields x
      rw [if_pos rfl] at ht
      rw [ht]
      exact ⟨open_, core'.trans own.2.1, slot'.trans own.2.2, lane'.trans lane⟩
  · refine release (took := false) (m' := id) (d := 0) _ (fun m given => ?_) nofun fun t ht => ht
    unfold lockRelease
    rw [given, if_neg (mt thread.mp other), if_pos (show lockHeld x = true from held)]
    rfl
  · refine release (took := false) (m' := id) (d := 0) _ (fun m given => ?_) nofun fun t ht => ht
    unfold lockRelease
    rw [given, if_neg fun yes => free (thread.mp yes).1.1, if_neg (show ¬lockHeld x = true from free)]
    rfl

end Sys2Proof.Machine
end

section
/-! SUPPORT and proof. LAUNCH from its checks to its commit (R172 to R175, R198, R215, R392): statement O30. -/

namespace Sys2Proof.Machine
open Sys2Proof

/-! ### The parameter block -/

theorem paramWords_getD (s : State) (a : Nat) {i : Nat} (hi : i < 32) :
    (paramWords (s.memBytes a 256)).getD i 0 = BitVec.ofNat 64 (bytesNat (s.memBytes (a + 8 * i) 8)) := by
  unfold paramWords
  rw [List.getD_eq_getElem?_getD, List.getElem?_map, List.getElem?_range hi, Option.map_some, Option.getD_some,
    s.memBytes_slice a 256 (8 * i) 8 (by omega)]

theorem exec_launch {s : State} {cmd : Nat} {c : Cmd} (h : DueCmd s cmd 0x0001 c) : exec (.launch cmd) s = .next
    (if s.launchRefused c then s.commit c Status.refused 0
      else if (s.devRead dispAttr c.paramAddr 256).1.2.any id then (s.devRead dispAttr c.paramAddr 256).2.commit c Status.poisoned 0
      else (s.devRead dispAttr c.paramAddr 256).2.queueLaunch c (paramWords (s.devRead dispAttr c.paramAddr 256).1.1)).pump := by
  have run : exec (.launch cmd) s = execLaunch cmd s := rfl
  rw [run, execLaunch, withRoom_roomy h.room, State.onCmd_due h]

/-! ### The start of a core -/

theorem Group.start_uGet (entry : BitVec 40) (params : List (BitVec 64)) (r : Nat) :
    (Group.start entry params).uGet r = if r < 32 then params.getD r 0 else 0 := by
  have sets : ∀ (n : Nat) (q : Group), ((List.range n).foldl (fun g i => g.uSet i (params.getD i 0)) q).uGet r =
      if r < n then params.getD r 0 else q.uGet r := by
    intro n q
    induction n with
    | zero => rfl
    | succ n ih =>
      rw [List.range_succ, List.foldl_append, List.foldl_cons, List.foldl_nil, Group.uGet_uSet, ih]
      by_cases last : r = n
      · rw [if_pos last, if_pos (by omega), last]
      · rw [if_neg last]
        by_cases low : r < n
        · rw [if_pos low, if_pos (by omega)]
        · rw [if_neg low, if_neg (by omega)]
  unfold Group.start
  dsimp only
  rw [sets 32]
  rfl

/-- A group at its start, but for its u registers. -/
theorem Group.start_rest (entry : BitVec 40) (params : List (BitVec 64)) : Group.start entry params =
    { pc := entry, active := 0xFFFFFFFF, live := 0xFFFFFFFF, stack := [], v := [], u := (Group.start entry params).u, d := [], p := []
      hold := .none, resp := [], fails := [], locks := 0, cbars := 0 } := by
  have sets : ∀ (l : List Nat) (q : Group), l.foldl (fun g i => g.uSet i (params.getD i 0)) q =
      { q with u := (l.foldl (fun g i => g.uSet i (params.getD i 0)) q).u } := by
    intro l
    induction l with
    | nil => exact fun _ => rfl
    | cons i l ih => exact fun q => (ih _).trans rfl
  unfold Group.start
  generalize List.range 32 = lanes
  exact sets lanes _

theorem SMap.find?_range {β : Type} (x : β) {n i : Nat} (hi : i < n) : SMap.find? ((List.range n).map fun k => (k, x)) i = some x := by
  have here : ∀ l : List Nat, i ∈ l → SMap.find? (l.map fun k => (k, x)) i = some x := by
    intro l
    induction l with
    | nil => exact nofun
    | cons k l ih =>
      intro hk
      rw [List.map_cons, SMap.find?]
      split
      · rfl
      · next other => exact ih ((List.mem_cons.mp hk).resolve_left fun e => other e.symm)
  exact here _ (List.mem_range.mpr hi)

theorem State.beginCore_core (s : State) (l : Launch) (n m : Nat) :
    (s.beginCore l n).core m = if m = n then (s.core n).begin l else s.core m := by
  unfold State.beginCore
  dsimp only
  rw [State.core_setCore]
  split
  · rfl
  · split <;> rfl

theorem State.beginCore_byte (s : State) (l : Launch) (n a : Nat) : (s.beginCore l n).memByte a = s.memByte a := by
  unfold State.beginCore
  dsimp only
  split <;> rfl

/-- The cores of a LAUNCH begin it; other cores and memory are left. -/
theorem State.beginCores_spec (l : Launch) : ∀ (ns : List Nat) (s : State), let t := ns.foldl (fun s n => s.beginCore l n) s
    (∀ n ∈ ns, ∃ c : Core, t.core n = c.begin l) ∧ (∀ n, n ∉ ns → t.core n = s.core n) ∧ ∀ a, t.memByte a = s.memByte a
  | [], _ => ⟨nofun, fun _ _ => rfl, fun _ => rfl⟩
  | k :: ns, s => by
    obtain ⟨begun, others, memory⟩ := State.beginCores_spec l ns (s.beginCore l k)
    refine ⟨fun n hn => ?_, fun n hn => ?_, fun a => (memory a).trans (s.beginCore_byte l k a)⟩
    · by_cases later : n ∈ ns
      · exact begun n later
      · have first := (List.mem_cons.mp hn).resolve_right later
        exact ⟨_, (others n later).trans ((s.beginCore_core l k n).trans (if_pos first))⟩
    · rw [List.mem_cons, not_or] at hn
      exact (others n hn.2).trans ((s.beginCore_core l k n).trans (if_neg hn.1))

/-! ### LAUNCH_START and LAUNCH_COMMIT -/

theorem State.launch?_cmd {s : State} {cmd : Nat} {l : Launch} (h : s.launch? cmd = some l) : l.cmd = cmd := by
  unfold State.launch? at h
  simpa using List.find?_some h

/-- The state at the start of a LAUNCH. -/
def State.launchStarted (s : State) (l : Launch) (c : Cmd) : State :=
  l.cores.foldl (fun t n => t.beginCore { l with started := true, gateIdle := (s.startCmd c).2.odGet Od.mxGateIdle } n)
    ((s.startCmd c).2.setLaunch { l with started := true, gateIdle := (s.startCmd c).2.odGet Od.mxGateIdle })

/-- The state of the cores and of the job's flags when a LAUNCH has ended. -/
def State.launchEnded (s : State) (l : Launch) (c : Cmd) : State :=
  ((s.launchHas l).foldl (fun s n => s.setCore n { s.core n with launch := none, tokens := [], stopAt := none })
    (s.orJobFlags c.job ((s.launchHas l).foldl (fun f n => f ||| (s.core n).flagSticky) l.flags))).dropLaunch l.cmd

section
variable {s : State} {cmd : Nat} {l : Launch} {c : Cmd} (room : s.log.roomy = true) (hl : s.launch? cmd = some l)
  (hc : s.cmd? cmd = some c)
include room hl hc

theorem exec_launchStart : exec (.launchStart cmd) s = .next (
    if s.launchMay l then
      if l.cores.any s.coreFailed then ((s.dropLaunch cmd).commit c Status.refused 0).pump else (s.launchStarted l c).pump
    else s) := by
  have run : exec (.launchStart cmd) s = execLaunchStart cmd s := rfl
  rw [run, execLaunchStart, withRoom_roomy room, hl, hc]
  dsimp only
  split
  · split <;> rfl
  · rfl

theorem exec_launchCommit : exec (.launchCommit cmd) s = .next (
    if s.launchOver l then (match l.aborted with
        | some (time, epoch) => (s.launchEnded l c).commitAt c Status.aborted (BitVec.ofNat 16 (l.firstCause.toNat + 16 * min l.excCount 4095)) time epoch
        | none => (s.launchEnded l c).commit c (if l.excCount = 0 then Status.ok else Status.aborted)
            (BitVec.ofNat 16 (l.firstCause.toNat + 16 * min l.excCount 4095))).pump
    else s) := by
  have run : exec (.launchCommit cmd) s = execLaunchCommit cmd s := rfl
  obtain rfl := State.launch?_cmd hl
  rw [run, execLaunchCommit, withRoom_roomy room, hl, hc]
  dsimp only
  split <;> rfl

end

theorem State.orJobFlags_core (s : State) (job : BitVec 16) (fl : BitVec 6) (n : Nat) : (s.orJobFlags job fl).core n = s.core n := by
  unfold State.orJobFlags
  split <;> rfl

/-- The cores that a LAUNCH has are taken from it. -/
theorem State.releaseCores_launch : ∀ (ns : List Nat) (s : State) (n : Nat),
    ((ns.foldl (fun s n => s.setCore n { s.core n with launch := none, tokens := [], stopAt := none }) s).core n).launch =
      if n ∈ ns then none else (s.core n).launch
  | [], _, _ => rfl
  | k :: ns, s, n => by
    rw [List.foldl_cons, State.releaseCores_launch ns, State.core_setCore]
    by_cases later : n ∈ ns
    · rw [if_pos later, if_pos (.tail _ later)]
    · rw [if_neg later]
      by_cases here : n = k
      · rw [if_pos here, if_pos (List.mem_cons.mpr (.inl here))]
      · rw [if_neg here, if_neg]
        rw [List.mem_cons, not_or]
        exact ⟨here, later⟩

theorem State.launchEnded_spec (s : State) (l : Launch) (c : Cmd) :
    (∀ n ∈ l.cores, ((s.launchEnded l c).core n).launch ≠ some l.cmd) ∧ (s.launchEnded l c).launch? l.cmd = none := by
  constructor
  · intro n hn
    have left : ((s.launchEnded l c).core n).launch = if n ∈ s.launchHas l then none else (s.core n).launch :=
      (State.releaseCores_launch (s.launchHas l) _ n).trans (by rw [State.orJobFlags_core])
    rw [left]
    split
    · nofun
    · next others => exact fun mine => others (List.mem_filter.mpr ⟨hn, decide_eq_true mine⟩)
  · refine List.find?_eq_none.mpr fun q hq => ?_
    have other := (List.mem_filter.mp hq).2
    simpa using other

/-- Settles O30: by the branches of the three commands, with the cores' folds. -/
theorem launches : Obligations.Launches := by
  unfold Obligations.Launches
  refine ⟨fun s cmd c h => ⟨fun refused => ?_, fun passed clean fails => ?_⟩, fun s cmd l c room hl hc =>
    ⟨fun may failed => ?_, fun may sound _ => ?_, fun not => ?_, fun ended => ?_, fun not => ?_⟩⟩
  · rw [exec_launch h, if_pos refused]
  · have read := State.devRead_clean clean fails dispAttr
    have same : (s.countSpan dispAttr 0 c.paramAddr 256).disp.launches = s.disp.launches := by rw [(State.countSpan_accessed ..).disp]
    refine ⟨(s.countSpan dispAttr 0 c.paramAddr 256).queueLaunch c (paramWords (s.memBytes c.paramAddr 256)), ?_, ?_⟩
    · rw [exec_launch h, if_neg (by simp [passed]), read, if_neg (by simp)]
    · refine ⟨_, congrArg (· ++ _) same, rfl, rfl, rfl, rfl, rfl, fun i hi => paramWords_getD s c.paramAddr hi⟩
  · rw [exec_launchStart room hl hc, if_pos may, if_pos failed]
  · refine ⟨s.launchStarted l c, ?_, ?_⟩
    · rw [exec_launchStart room hl hc, if_pos may, if_neg (by simp [sound])]
    · obtain ⟨begun, others, memory⟩ := State.beginCores_spec
        { l with started := true, gateIdle := (s.startCmd c).2.odGet Od.mxGateIdle } l.cores
        ((s.startCmd c).2.setLaunch { l with started := true, gateIdle := (s.startCmd c).2.odGet Od.mxGateIdle })
      refine ⟨fun n hn => ?_, others, memory⟩
      obtain ⟨k, core⟩ := begun n hn
      change (s.launchStarted l c).core n = _ at core
      rw [core]
      refine ⟨rfl, rfl, rfl, rfl, fun sl hsl => ⟨Group.start l.entry l.params, ?_, ?_⟩⟩
      · unfold State.group?
        rw [core]
        exact SMap.find?_range _ hsl
      · have rest := Group.start_rest l.entry l.params
        have u := Group.start_uGet l.entry l.params
        generalize Group.start l.entry l.params = q at rest u
        exact ⟨by rw [rest], by rw [rest], by rw [rest], by rw [rest], by rw [rest], fun i r => by rw [rest]; rfl,
          fun i k => by rw [rest]; rfl, fun r _ => u r⟩
  · rw [exec_launchStart room hl hc, if_neg (by simp [not])]
  · obtain rfl := State.launch?_cmd hl
    have run := exec_launchCommit room hl hc
    rw [if_pos ended] at run
    exact ⟨s.launchEnded l c, run, s.launchEnded_spec l c⟩
  · rw [exec_launchCommit room hl hc, if_neg (by simp [not])]

end Sys2Proof.Machine
end

section
/-! SUPPORT and proof. A remote instruction of a group whose core's counter set lies past the sets of the cores. What the owner of a
monitored line does where no HANDOFF runs and no command is held leaves every later entry of the dictionary, the states of the channels
apart: so a counter that has counted there has counted before. -/

namespace Sys2Proof.Machine
open Sys2Proof

/-- A key past the counters of the cores and of the ports that is no state of a channel. -/
def Od.Late (k : Nat) : Prop := 0x330000 ≤ k ∧ k % 256 ≠ 0x0B

/-- From `s` to `t` the commands held, the commands that run on channels and the late entries stay. -/
structure Idled (s t : State) : Prop where
  cmds : t.disp.cmds = s.disp.cmds
  active : ∀ h, (t.channel h).active = (s.channel h).active
  od : ∀ k, Od.Late k → t.odGet k = s.odGet k

/-- No command is held, and no channel runs one. -/
structure Idle (s : State) : Prop where
  cmds : s.disp.cmds = []
  active : ∀ h, (s.channel h).active = none

theorem Od.Late.apart {k : Nat} (h : Od.Late k) : Od.Apart k := by
  unfold Od.Apart
  have := h.1
  omega

theorem Od.late_enable {b r : Nat} (hb : 0x3300 ≤ b) : Od.Late (Od.key (b + r) 1) := by
  unfold Od.Late Od.key
  omega

namespace Idled

theorem refl (s : State) : Idled s s := ⟨rfl, fun _ => rfl, fun _ _ => rfl⟩

theorem trans {s t u : State} (h : Idled s t) (k : Idled t u) : Idled s u :=
  ⟨k.cmds.trans h.cmds, fun i => (k.active i).trans (h.active i), fun i hi => (k.od i hi).trans (h.od i hi)⟩

theorem idle {s t : State} (h : Idled s t) (k : Idle s) : Idle t := ⟨h.cmds.trans k.cmds, fun i => (h.active i).trans (k.active i)⟩

end Idled

theorem Accessed.idled {s t : State} (h : Accessed s t) : Idled s t :=
  ⟨h.cmds, fun c => by unfold State.channel; rw [h.rest], fun k hk => h.od k hk.apart⟩

theorem State.odSet_idled (s : State) {k : Nat} (hk : ¬Od.Late k) (v : Nat) : Idled s (s.odSet k v) := by
  refine ⟨rfl, fun _ => rfl, fun j hj => ?_⟩
  rw [State.odGet_odSet, if_neg]
  rintro rfl
  exact hk hj

theorem State.setChannel_idled (s : State) (h : Nat) {x : Channel} (hx : x.active = (s.channel h).active) :
    Idled s (s.setChannel h x) := by
  refine ⟨rfl, fun i => ?_, fun _ _ => rfl⟩
  unfold State.setChannel State.channel at *
  rw [SMap.get_set]
  split
  · next e => rw [hx, e]
  · rfl

/-! ### A write of an engine -/

theorem State.writePart_accessed (s : State) (w i : Nat) (bs : List Byte) (p : Bool) : Accessed s (s.writePart w i bs p) := by
  unfold State.writePart
  split
  · exact s.updWord_accessed ..
  · dsimp only
    split
    · exact (s.mergeWord_accessed ..).trans (State.updWord_accessed ..)
    · exact s.mergeWord_accessed ..

theorem State.writeMasked_accessed (s : State) (a : Nat) (bs : List Byte) (m : BitVec 32) : Accessed s (s.writeMasked a bs m) :=
  Accessed.foldl (fun t _ => t.writePart_accessed ..) _ s

theorem State.keyRefused_accessed (s : State) (addr : Nat) (st : Status) (d : BitVec 8) (src : Coord) (m : BitVec 8) (p : BitVec 2)
    (job : BitVec 16) : Accessed s (s.keyRefused none addr st d src m p job) := by
  have counted : Accessed s (s.odAdd Od.keyMismatchLocal 1) :=
    s.odAdd_accessed (by unfold Od.Apart Od.keyMismatchLocal Od.key; omega) 1
  unfold State.keyRefused
  dsimp only
  split
  · exact counted.trans ⟨rfl, fun _ _ => rfl, fun _ => rfl⟩
  · exact counted.trans ⟨rfl, fun _ _ => rfl, fun _ => rfl⟩

theorem State.perform_write_accessed (s : State) (r : Req) (n : Nat) (op : r.op = 0x02) : Accessed s (s.perform r n).2 := by
  unfold State.perform
  rw [op]
  exact (s.countMem_accessed ..).trans (State.writeMasked_accessed ..)

theorem State.claimLines_accessed (s : State) (a n : Nat) : Accessed s (s.claimLines a n).2 :=
  Accessed.foldl (fun t l => t.invalidateLine_accessed l) _ s

theorem State.refuseReq_accessed (s : State) {r : Req} (own : r.inport = none) : Accessed s (s.refuseReq r).2.2 := by
  unfold State.refuseReq
  rw [own]
  dsimp only
  split
  · exact .refl s
  · split
    · split
      · exact s.keyRefused_accessed r.addr _ _ r.src r.master r.priv r.job
      · exact .refl s
    · exact .refl s

/-- A WRITE of a master of this device at its own memory. -/
theorem State.serveReq_write_accessed (s : State) {r : Req} (op : r.op = 0x02) (own : r.inport = none) :
    Accessed s (s.serveReq r).2.2 := by
  have shape : reqShape r.op r.len = some (r.len, .write, 1, r.len) := by rw [op]; rfl
  unfold State.serveReq
  rw [shape, own]
  by_cases level : r.priv = 3
  · rw [if_pos level]
    exact s.refuseReq_accessed own
  rw [if_neg level]
  dsimp only
  split
  · split
    · exact .refl s
    · exact s.keyRefused_accessed r.addr _ _ r.src r.master r.priv r.job
  · split
    · exact .refl s
    · split
      · exact .refl s
      · split
        · exact ⟨rfl, fun _ _ => rfl, fun _ => rfl⟩
        · rw [if_neg nofun]
          dsimp only
          refine Accessed.trans ?_ (State.perform_write_accessed _ r _ op)
          split
          · exact s.claimLines_accessed ..
          · exact .refl s

theorem State.trackTx_accessed (s : State) (tag port : Nat) (t : NewTx) : Accessed s (s.trackTx tag port t) :=
  ⟨rfl, fun _ _ => rfl, fun _ => rfl⟩

theorem State.openLocal_write_accessed (s : State) (tag : Nat) {t : NewTx} {pk : Packet} (op : t.op = 0x02) (same : pk.op = 0x02) :
    Accessed s (s.openLocal tag t pk).2 := by
  have served := s.serveReq_write_accessed (r := packetReq pk none) same rfl
  have one : (decide ((0x02 : BitVec 8) = 0x20) && decide (t.mc.1 ≠ 0)) = false := rfl
  have first : ¬((0x02 : BitVec 8) = 0x20 ∧ (s.serveReq (packetReq pk none)).1.status ≠ Status.ok) := fun h => absurd h.1 (by decide)
  unfold State.openLocal
  dsimp only
  rw [op, one, if_neg first, if_neg (by decide : ¬(0x02 : BitVec 8) = 0x20)]
  split
  · rw [if_neg nofun]
    exact (served.trans (State.trackTx_accessed ..)).trans ⟨rfl, fun _ _ => rfl, fun _ => rfl⟩
  · rw [if_neg nofun]
    exact served

/-- A WRITE of an engine is served here, refused, or sent. -/
theorem State.openTx_write_accessed (s : State) (tag : Nat) {t : NewTx} (op : t.op = 0x02) : Accessed s (s.openTx tag t).2 := by
  have opened : ∀ {a b : State}, Accessed a b → Accessed a { b with fab := { b.fab with nextSeq := b.fab.nextSeq + 1 } } :=
    fun h => h.trans ⟨rfl, fun _ _ => rfl, fun _ => rfl⟩
  unfold State.openTx
  dsimp only
  refine opened ?_
  split
  · exact s.openLocal_write_accessed tag op op
  · split
    · exact .refl s
    · split
      · exact (s.odAdd_accessed (k := Od.packetsDropped) (by unfold Od.Apart Od.packetsDropped Od.key; omega) 1).trans
          ((State.odAdd_accessed _ (k := Od.remoteTimeoutCount) (by unfold Od.Apart Od.remoteTimeoutCount Od.key; omega) 1).trans
            ⟨rfl, fun _ _ => rfl, fun _ => rfl⟩)
      · exact (s.trackTx_accessed ..).trans (State.launchPacket_accessed ..)

/-! ### The monitored lines -/

theorem Idle.active_none {s : State} (h : Idle s) (c : Nat) : (s.channel c).active.bind s.cmd? = none := by rw [h.active]; rfl

theorem State.writeLine1_idled {s : State} (idle : Idle s) (h : Nat) : Idled s (s.writeLine1 h) := by
  unfold State.writeLine1
  dsimp only
  rw [idle.active_none]
  split
  · exact s.setChannel_idled h rfl
  · exact (s.setChannel_idled h (x := { s.channel h with lineDue := false }) rfl).trans (State.openTx_write_accessed _ _ rfl).idled

theorem State.hoStopped_idled {s : State} (idle : Idle s) (h cause value : Nat) : Idled s (s.hoStopped h cause value) := by
  have stopped : Idled s ((s.odSet (Od.hoState h) 2).event 0x0C 0 0x0701 sevError [(16, 1, h), (17, 1, cause), (20, 8, value)]) :=
    (s.odSet_idled (by unfold Od.Late Od.hoState Od.key; omega) 2).trans (State.event_accessed ..).idled
  unfold State.hoStopped
  dsimp only
  rw [(stopped.idle idle).active_none]
  exact stopped

theorem State.consumed_idled {s : State} (idle : Idle s) (h v : Nat) : Idled s (s.consumed h v) := by
  unfold State.consumed
  dsimp only
  split
  · exact .refl s
  · have read := (s.devRead_accessed hoAttr (s.hoCtrl h) 8).idled
    generalize hq : s.devRead hoAttr (s.hoCtrl h) 8 = q at read
    have set : Idled s (q.2.setChannel h { s.channel h with limit := v, progressAt := s.clk.now }) :=
      read.trans (q.2.setChannel_idled h (read.active h).symm)
    have wrote := set.trans (State.writeLine1_idled (set.idle idle) h)
    split
    · exact wrote.trans (State.hoStopped_idled (wrote.idle idle) ..)
    · split
      · exact wrote.trans (State.hoStopped_idled (wrote.idle idle) ..)
      · exact wrote

theorem State.limited_idled {s : State} (idle : Idle s) (h v : Nat) (posted : BitVec 32) : Idled s (s.limited h v posted) := by
  unfold State.limited
  extract_lets x c? same t
  have set : Idled s t := s.setChannel_idled h rfl
  rw [show c? = none from idle.active_none h]
  clear_value t
  split
  · exact set.trans (State.hoStopped_idled (set.idle idle) ..)
  · split
    · exact set.trans (State.hoStopped_idled (set.idle idle) ..)
    · exact set

theorem State.hoNext_idle {s : State} (idle : Idle s) (h : Nat) : s.hoNext h = s := by
  unfold State.hoNext
  rw [idle.cmds]
  rfl

theorem State.newLine1_idled {s : State} (idle : Idle s) (h v : Nat) (posted : BitVec 32) : Idled s (s.newLine1 h v posted) := by
  have consumed := State.consumed_idled idle h v
  have limited := State.limited_idled idle h v posted
  unfold State.newLine1
  split
  · exact .refl s
  · split
    · rw [State.hoNext_idle (consumed.idle idle)]
      exact consumed
    · rw [State.hoNext_idle (limited.idle idle)]
      exact limited

theorem State.newLogHead_idled (s : State) (n : Nat) : Idled s (s.newLogHead n) := by
  unfold State.newLogHead State.endDrop
  dsimp only
  split
  · split
    · exact ⟨rfl, fun _ => rfl, fun _ _ => rfl⟩
    · exact ⟨rfl, fun _ => rfl, fun _ _ => rfl⟩
  · exact ⟨rfl, fun _ => rfl, fun _ _ => rfl⟩

/-- No command ring and no completion ring is on. -/
structure RingsOff (s : State) : Prop where
  ring : ∀ r, s.odGet (Od.ringEnable r) ≠ 1
  cq : ∀ q, s.odGet (Od.cqEnable q) ≠ 1

theorem Idled.ringsOff {s t : State} (h : Idled s t) (k : RingsOff s) : RingsOff t :=
  ⟨fun r => by rw [h.od _ (Od.late_enable (by decide))]; exact k.ring r,
    fun q => by rw [h.od _ (Od.late_enable (by decide))]; exact k.cq q⟩

theorem State.seeLine_idled {s : State} (idle : Idle s) (off : RingsOff s) (m : Monitor) : Idled s (s.seeLine m) := by
  have read : ∀ at_ a n, Idled s (s.devRead at_ a n).2 := fun at_ a n => (s.devRead_accessed at_ a n).idled
  cases m with
  | tail r =>
    have now := read dispAttr (s.odGet (Od.ringCtrl r)) 4
    unfold State.seeLine State.newTail
    dsimp only
    rw [if_pos (.inl ((now.ringsOff off).ring r))]
    exact now
  | cqHead q =>
    have now := read dispAttr (s.odGet (Od.cqCtrl q) + 128) 4
    unfold State.seeLine State.newCqHead
    dsimp only
    rw [if_pos ((now.ringsOff off).cq q)]
    exact now
  | logHead =>
    unfold State.seeLine
    dsimp only
    split
    · exact (read ..).trans (State.newLogHead_idled ..)
    · exact .refl s
  | tallyHead =>
    unfold State.seeLine
    dsimp only
    split
    · exact (read tallyAttr (s.odGet Od.tallyRingCtrl + 128) 4).trans ⟨rfl, fun _ => rfl, fun _ _ => rfl⟩
    · exact .refl s
  | handoff h =>
    unfold State.seeLine State.readLine1
    dsimp only
    split
    · exact (read ..).trans (State.newLine1_idled ((read ..).idle idle) ..)
    · exact .refl s

theorem State.wakeUp_idled {s : State} (idle : Idle s) (off : RingsOff s) : Idled s s.wakeUp := by
  have seen : ∀ (l : List Monitor) (t : State), Idled s t → Idled s (l.foldl State.seeLine t) := by
    intro l
    induction l with
    | nil => exact fun _ h => h
    | cons m l ih => exact fun t h => ih _ (h.trans (State.seeLine_idled (h.idle idle) (h.ringsOff off) m))
  exact seen _ _ ⟨rfl, fun _ => rfl, fun _ _ => rfl⟩

/-! ### The group of core 0x200 -/

/-- No entry of a command ring or a completion ring is on by default. -/
theorem odDefault_enable {b r : Nat} (hb : 0x6100 ≤ b) : odDefault (Od.key (b + r) 1) ≠ 1 := by
  have rows : ∀ part, part = odPart61 ∨ part = odPart62 → ∀ g ∈ part, ∀ row ∈ g.rows,
      row.sub ≤ 1 → 1 < row.sub + row.count → row.dflt ≠ 1 := by
    rintro _ (rfl | rfl) <;> decide
  have groups : ∀ g ∈ odGroups (b + r), g ∈ odPart61 ∨ g ∈ odPart62 := by
    intro g
    unfold odGroups
    split
    case h_20 => exact .inl
    case h_21 => exact .inr
    case h_22 => exact nofun
    all_goals omega
  have index : Od.key (b + r) 1 / 256 = b + r ∧ Od.key (b + r) 1 % 256 = 1 := by unfold Od.key; omega
  unfold odDefault odRow?
  rw [index.1, index.2]
  split
  · next row found =>
    split at found
    · cases found
    · next g here =>
      have fits := List.find?_some found
      rw [Bool.and_eq_true, decide_eq_true_eq, decide_eq_true_eq] at fits
      rcases groups g (List.mem_of_find?_eq_some here) with inRings | inCompletions
      · exact rows _ (.inl rfl) g inRings row (List.mem_of_find?_eq_some found) fits.1 fits.2
      · exact rows _ (.inr rfl) g inCompletions row (List.mem_of_find?_eq_some found) fits.1 fits.2
  · decide

/-- REMOTE_ISSUE selected at the first counter of set 0x3300, for every level, class and address. -/
def countsRemote : Nat := 2 ^ 63 + 0xFFFF * 2 ^ 42 + 7 * 2 ^ 30 + 0x030D

def farGroup : GroupRef := ⟨0x200, 0⟩

/-- The device with a group of core 0x200 that names the device's own memory. -/
def far : State := (Tests.setOd Tests.net [(Od.key 0x3300 0x0A, countsRemote)]).setGroup farGroup Tests.ownGroup

theorem far_idle : Idle far := ⟨rfl, fun _ => rfl⟩

theorem far_enable {b r : Nat} (hb : 0x6100 ≤ b) : far.odGet (Od.key (b + r) 1) ≠ 1 := by
  have od : far.od = SMap.set (odDefault (Od.key 0x3300 0x0A)) (SMap.set (odDefault Od.meshPlanY)
      (SMap.set (odDefault Od.meshPlanX) [] Od.meshPlanX 2) Od.meshPlanY 1) (Od.key 0x3300 0x0A) countsRemote := rfl
  unfold State.odGet
  rw [od, SMap.get_set_other _ _ _ (by unfold Od.key; omega), SMap.get_set_other _ _ _ (by unfold Od.meshPlanY Od.key; omega),
    SMap.get_set_other _ _ _ (by unfold Od.meshPlanX Od.key; omega)]
  exact odDefault_enable hb

theorem far_ringsOff : RingsOff far :=
  ⟨fun r => far_enable (r := r) (Nat.le_refl _), fun q => far_enable (b := 0x6200) (r := q) (by decide)⟩

/-- The load's REMOTE_ISSUE has counted. -/
theorem far_counts : (Outcome.state (exec (.ldG farGroup .g64 Tests.fRem) far) far).odGet (Od.key 0x3300 0x02) = 1 := by
  decide +kernel

theorem State.countSlot_odGet (s : State) (core ev cls k : Nat) : (s.countSlot core ev cls).odGet k = s.odGet k := by
  unfold State.countSlot
  split <;> rfl

/-- Refutes O20: nothing bounds the number of the group's core, and the counter set of core 0x200 is at index 0x3300. There the
REMOTE_ISSUE of its load counts, where the statement has every entry from index 0x3300 on unchanged. -/
theorem not_remoteRequests : ¬ Obligations.RemoteRequests := by
  unfold Obligations.RemoteRequests
  intro h
  obtain ⟨-, -, own, -⟩ := h
  obtain ⟨load, -⟩ := own farGroup Tests.fRem far Tests.ownGroup (Tests.ready_of (by decide +kernel)) (by decide +kernel)
  obtain ⟨u, q, ran, frame, -⟩ := load .g64 (by decide +kernel) (Tests.remoteOk_of (by decide +kernel)) (by decide +kernel)
    (Tests.own_of (by decide +kernel)) nofun
  have calm : Idled far u := ⟨by rw [frame.rest], fun c => by unfold State.channel; rw [frame.rest],
    fun k hk => frame.od k (.inr (by have := hk.1; omega)) (by have := hk.1; unfold Od.arrivalAddCount Od.key; omega)⟩
  have looked := calm.trans (State.wakeUp_idled (calm.idle far_idle) (calm.ringsOff far_ringsOff))
  have kept : u.wakeUp.odGet (Od.key 0x3300 0x02) = 0 :=
    (looked.od _ (by unfold Od.Late Od.key; decide)).trans (by decide +kernel)
  have counted := far_counts
  rw [ran, Outcome.state_next, State.countSlot_odGet, kept] at counted
  exact absurd counted (by decide)

end Sys2Proof.Machine
end

section
/-! SUPPORT and proof. What the work for a freed place in the tracker (`State.txRoom`) leaves of REMOTE_TIMEOUT_COUNT: all of it, where no
port is fenced. So an epoch switch that waits for a context that does not exist (R33) stays to be seen in the count. -/

namespace Sys2Proof.Machine
open Sys2Proof

/-! ### The entries -/

/-- The count of TIMEOUTs, and the entries that say which ports are fenced. -/
def Od.Timed (k : Nat) : Prop := k = Od.remoteTimeoutCount ∨ ∃ p < 4, k = Od.fencedCoord p

/-- The same ports are fenced as in `base`; and where none is, the count of TIMEOUTs stands as there. -/
structure State.Calm (s base : State) : Prop where
  fences : ∀ p < 4, s.odGet (Od.fencedCoord p) = base.odGet (Od.fencedCoord p)
  count : (∀ p < 4, base.odGet (Od.fencedCoord p) = 0xFFFF) → s.odGet Od.remoteTimeoutCount = base.odGet Od.remoteTimeoutCount

theorem Od.Timed.aside {k : Nat} (h : Od.Timed k) : Od.Aside k := by
  obtain rfl | ⟨p, hp, rfl⟩ := h
  · exact ⟨by decide, by decide, by decide, by decide, by decide⟩
  · have index : Od.fencedCoord p / 256 = 0x2360 := by unfold Od.fencedCoord Od.key; omega
    have other : ∀ {j}, j / 256 ≠ 0x2360 → Od.fencedCoord p ≠ j := fun away same => away (same ▸ index)
    exact ⟨by rw [index]; decide, .inr (by rw [index]; decide), other (by decide), other (by decide), other (by decide)⟩

theorem Od.not_timed_key {b n : Nat} (hn : n < 256) (count : b = 0x2330 → n ≠ 2) (fence : b ≠ 0x2360) : ¬Od.Timed (Od.key b n) := by
  rintro (h | ⟨p, hp, h⟩)
  · unfold Od.remoteTimeoutCount Od.key at h
    omega
  · unfold Od.fencedCoord Od.key at h
    omega

namespace State.Calm

variable {base s t : State}

theorem refl (s : State) : s.Calm s := ⟨fun _ _ => rfl, fun _ => rfl⟩

theorem of_od (calm : s.Calm base) (h : ∀ k, Od.Timed k → t.odGet k = s.odGet k) : t.Calm base :=
  ⟨fun p hp => (h _ (.inr ⟨p, hp, rfl⟩)).trans (calm.fences p hp), fun none => (h _ (.inl rfl)).trans (calm.count none)⟩

theorem aside (calm : s.Calm base) (h : ∀ {k}, Od.Aside k → t.odGet k = s.odGet k) : t.Calm base := calm.of_od fun _ hk => h hk.aside

theorem fenced (calm : s.Calm base) {p : Nat} (hp : p < 4) (shut : s.fenced p = true) :
    ∃ p < 4, base.odGet (Od.fencedCoord p) ≠ 0xFFFF := by
  unfold State.fenced at shut
  exact ⟨p, hp, by rw [← calm.fences p hp]; exact of_decide_eq_true shut⟩

theorem ite {p : Prop} [Decidable p] (a : s.Calm base) (b : t.Calm base) : (if p then s else t).Calm base := by
  split
  · exact a
  · exact b

theorem foldl {α : Type} {f : State → α → State} (hf : ∀ t x, t.Calm base → (f t x).Calm base) (l : List α) (calm : s.Calm base) :
    (l.foldl f s).Calm base :=
  List.foldlRecOn (motive := fun t : State => t.Calm base) l f calm fun t ht x _ => hf t x ht

theorem odAdd (calm : s.Calm base) {k : Nat} (hk : ¬Od.Timed k) (n : Nat) : (s.odAdd k n).Calm base :=
  calm.of_od fun j hj => State.odAdd_odGet_other (by rintro rfl; exact hk hj) n

theorem of_same (calm : s.Calm base) (h : t.od = s.od) : t.Calm base := calm.of_od fun k _ => by unfold State.odGet; rw [h]

end State.Calm

/-! ### The port of a route -/

theorem firstPort_lt (p : List Place) : firstPort p < 4 := by
  unfold firstPort portToward
  split
  · decide
  · repeat' split
    all_goals decide

theorem State.route_port_lt {s : State} {a b : Place} {r : Route} (h : s.route a b = some r) : r.port < 4 := by
  unfold State.route at h
  dsimp only at h
  split at h
  · cases h
    exact firstPort_lt _
  · obtain ⟨w, -, rfl⟩ := Option.map_eq_some_iff.mp h
    exact firstPort_lt _

section
variable {s base : State} (calm : s.Calm base)
include calm

/-! ### Accesses and requests -/

theorem State.writeRacy_calm (owner w : Nat) (d : BitVec 64) (p : Bool) : (s.writeRacy owner w d p).Calm base := by
  unfold State.writeRacy State.engineWrite
  refine calm.of_same ?_
  dsimp only
  rw [State.setRaw_od, State.seenWrite_od, State.noteStore_od]

theorem State.writePart_calm (w i : Nat) (bs : List Byte) (p : Bool) : (s.writePart w i bs p).Calm base := by
  unfold State.writePart
  split
  · exact calm.of_same (State.updWord_od ..)
  · have merged : (s.mergeWord w i bs).Calm base := calm.aside fun hk => State.mergeWord_aside hk ..
    exact .ite (merged.of_same (State.updWord_od ..)) merged

theorem State.perform_calm (r : Req) (n : Nat) : (s.perform r n).2.Calm base := by
  have counted : ∀ ev, (s.countMem r.addr n ev r.attr).Calm base := fun ev => calm.aside fun hk => State.countMem_aside hk ..
  have read : ∀ ev, ((s.countMem r.addr n ev r.attr).readNat r.addr n).2.Calm base :=
    fun ev => (counted ev).aside fun hk => State.readRun_aside hk ..
  have wrote : ∀ {t : State} a m v, t.Calm base → (t.writeNat a m v).Calm base :=
    fun a m v h => h.aside fun hk => State.writeFuel_aside hk ..
  unfold State.perform
  split
  · exact read 0
  · exact State.Calm.foldl (fun t _ h => t.writePart_calm h ..) _ (counted 1)
  · exact State.Calm.foldl (fun t _ h => t.writePart_calm h ..) _ (counted 1)
  · dsimp only
    split
    · exact read 2
    · split
      · exact .ite (wrote _ _ _ (read 2)) (read 2)
      · exact wrote _ _ _ (read 2)
      · exact wrote _ _ _ (read 2)
      · exact wrote _ _ _ (.ite ((read 2).odAdd (by unfold Od.Timed; decide) 1) (read 2))

theorem State.launchPacket_calm (pk : Packet) (r : Route) (vc : BitVec 2) : (s.launchPacket pk r vc).Calm base := by
  have detoured : (if r.waypoint.isSome then s.odAdd Od.detourPackets 1 else s).Calm base :=
    .ite (calm.odAdd (by unfold Od.Timed; decide) 1) calm
  exact detoured.aside fun hk => State.queuePacket_aside hk ..

theorem State.invalidateLine_calm (line : Nat) : (s.invalidateLine line).Calm base :=
  State.Calm.foldl (fun _ _ h => h.aside fun hk => State.sendInvalidate_aside hk ..) _ (calm.of_same rfl)

theorem State.keyRefused_calm (addr : Nat) (st : Status) (d : BitVec 8) (src : Coord) (m : BitVec 8) (p : BitVec 2) (job : BitVec 16) :
    (s.keyRefused none addr st d src m p job).Calm base := by
  have counted : (s.odAdd Od.keyMismatchLocal 1).Calm base := calm.odAdd (by unfold Od.Timed; decide) 1
  unfold State.keyRefused
  dsimp only
  split
  · exact counted.of_same rfl
  · exact counted.of_same rfl

theorem State.shareLine_calm (r : Req) : (s.shareLine r).2.Calm base := by
  unfold State.shareLine
  dsimp only
  split
  · exact (s.invalidateLine_calm calm _).of_same rfl
  · exact calm.of_same rfl

theorem State.claimLines_calm (a n : Nat) : (s.claimLines a n).2.Calm base :=
  State.Calm.foldl (fun t _ h => t.invalidateLine_calm h _) _ calm

theorem State.refuseReq_calm {r : Req} (own : r.inport = none) : (s.refuseReq r).2.2.Calm base := by
  unfold State.refuseReq
  rw [own]
  dsimp only
  split
  · exact calm
  · split
    · split
      · exact s.keyRefused_calm calm r.addr _ _ r.src r.master r.priv r.job
      · exact calm
    · exact calm

theorem State.serveReq_calm {r : Req} (own : r.inport = none) : (s.serveReq r).2.2.Calm base := by
  unfold State.serveReq
  rw [own]
  split
  · exact s.refuseReq_calm calm own
  · dsimp only
    split
    · split
      · exact calm
      · exact s.keyRefused_calm calm r.addr _ _ r.src r.master r.priv r.job
    · split
      · exact calm
      · split
        · exact calm
        · split
          · exact calm.of_same rfl
          · split
            · split
              · exact State.shareLine_calm (s.perform_calm calm ..) _
              · exact s.perform_calm calm ..
            · refine State.perform_calm ?_ ..
              split
              · exact s.claimLines_calm calm ..
              · exact calm

/-! ### Transactions -/

theorem State.sendResponse_calm (vc : BitVec 2) (pk : Packet) : (s.sendResponse vc pk).Calm base := by
  unfold State.sendResponse
  split
  · exact calm
  · exact s.launchPacket_calm calm ..

theorem State.sendOnward_calm (p : Nat) (q : Queued) : (s.sendOnward p q).Calm base :=
  .ite ((s.sendResponse_calm calm ..).aside fun hk => State.queuePacket_aside hk ..) (calm.aside fun hk => State.queuePacket_aside hk ..)

theorem State.mcForward_calm (pk : Packet) : (s.mcForward pk).Calm base := by
  unfold State.mcForward
  split
  · exact calm
  · exact s.sendOnward_calm calm ..

/-- A request that a fence cuts off. -/
theorem State.cutOff_calm (shut : ∃ p < 4, base.odGet (Od.fencedCoord p) ≠ 0xFFFF) (tag : Nat) (dst : Coord) (op m : BitVec 8) :
    ((s.odAdd Od.packetsDropped 1).timeoutNoted tag dst op m).Calm base := by
  obtain ⟨q, hq, cut⟩ := shut
  refine ⟨fun p hp => ?_, fun none => absurd (none q hq) cut⟩
  have other : ∀ k ∈ [Od.packetsDropped, Od.remoteTimeoutCount], Od.fencedCoord p ≠ k := by
    revert p
    decide
  exact (State.odAdd_odGet_other (other _ (.tail _ (.head _))) 1).trans
    ((State.odAdd_odGet_other (other _ (.head _)) 1).trans (calm.fences p hp))

theorem State.awaitAcks_calm (w : List (Nat × Coord)) (pk : Packet) : (s.awaitAcks w pk).Calm base := calm.of_same rfl

theorem State.openLocal_calm (tag : Nat) (t : NewTx) (pk : Packet) : (s.openLocal tag t pk).2.Calm base := by
  have served := s.serveReq_calm calm (r := packetReq pk none) rfl
  have tracked : ∀ port, ((s.serveReq (packetReq pk none)).2.2.trackTx tag port t).Calm base := fun _ => served.of_same rfl
  unfold State.openLocal
  dsimp only
  split
  · split
    · exact State.awaitAcks_calm (tracked _) ..
    · exact State.awaitAcks_calm (tracked _) ..
  · split
    · split
      · next shut => exact State.cutOff_calm served (calm.fenced (firstPort_lt _) shut) ..
      · exact State.mcForward_calm (tracked _) _
    · split
      · exact served
      · exact served

theorem State.openTx_calm (tag : Nat) (t : NewTx) : (s.openTx tag t).2.Calm base := by
  have opened : ∀ {u : State}, u.Calm base → State.Calm { u with fab := { u.fab with nextSeq := u.fab.nextSeq + 1 } } base :=
    fun h => h.of_same rfl
  unfold State.openTx
  dsimp only
  refine opened ?_
  split
  · exact s.openLocal_calm calm ..
  · split
    · exact calm
    · next r here =>
      split
      · next shut => exact s.cutOff_calm calm (calm.fenced (s.route_port_lt here) shut) ..
      · exact State.launchPacket_calm (s := s.trackTx _ _ _) (calm.of_same rfl) ..

theorem State.openMore_calm (tag : Nat) (t : NewTx) (more : List (BitVec 40 × List Byte)) : (s.openMore tag t more).Calm base := by
  unfold State.openMore
  dsimp only
  split
  · exact calm
  · exact calm
  · exact State.Calm.foldl (fun u _ h => u.launchPacket_calm h ..) _ (calm.of_same rfl)

/-! ### Exceptions and the ends of groups -/

theorem State.dropGroup_calm (g : GroupRef) : (s.dropGroup g).Calm base := by
  unfold State.dropGroup State.locksLeft
  split
  · exact calm
  · split
    · exact calm.of_same rfl
    · exact (calm.odAdd (k := Od.thrLockLeftCount) (by unfold Od.Timed; decide) 1).of_same rfl

theorem State.stopGroup_calm (g : GroupRef) : (s.stopGroup g).Calm base := by
  unfold State.stopGroup State.reap
  split
  · next gr _ =>
    have stopped : (s.setGroup g { gr with hold := .stopped, fails := [] }).Calm base := calm.of_same rfl
    split
    · split
      · exact State.dropGroup_calm stopped g
      · exact stopped
    · exact stopped
  · exact calm

theorem State.writeTies_calm (core : Nat) (l : Launch) (i : Nat) (rs : List (Nat × List Byte)) : (s.writeTies core l i rs).Calm base := by
  induction rs generalizing s i with
  | nil => exact calm
  | cons r rs ih =>
    unfold State.writeTies
    split
    · exact ih (calm.aside fun hk => State.devWrite_aside hk ..) _
    · exact calm

theorem State.recordExc_calm (g : GroupRef) (gr : Group) (word : BitVec 64) (e : Exc) (l : Launch) :
    (s.recordExc g gr word e l).Calm base := by
  have tied := s.writeTies_calm calm g.core l (if decide (l.excTime = s.clk.now) then l.excBase else l.excWritten)
    (excPlace (4 * g.core + g.slot % 4) (excRecord s g gr word e) (if decide (l.excTime = s.clk.now) then l.excTies else []))
  unfold State.recordExc
  dsimp only
  split
  · exact tied.of_same rfl
  · exact tied.of_same rfl

theorem State.takeExc_calm (g : GroupRef) (word : BitVec 64) (e : Exc) : (s.takeExc g word e).Calm base := by
  unfold State.takeExc
  split
  · exact calm
  · extract_lets raised counted recorded
    have here : raised.Calm base := (calm.odAdd (k := Od.thrExcCount) (by unfold Od.Timed; decide) 1).of_same rfl
    clear_value raised
    have desc : counted.Calm base := by
      have fault := here.odAdd (k := Od.mxDescFaultCount) (by unfold Od.Timed; decide) 1
      exact .ite (.ite (fault.odAdd (k := Od.chainDescFaultCount) (by unfold Od.Timed; decide) 1) fault) here
    clear_value counted
    refine State.stopGroup_calm ?_ g
    unfold recorded
    split
    · exact State.recordExc_calm desc ..
    · exact desc

/-! ### Held instructions -/

theorem State.heldEnd_calm (g : GroupRef) (w : BitVec 64) (gr : Group) : (s.heldEnd g w gr).Calm base := by
  unfold State.heldEnd
  split
  · exact State.takeExc_calm (s := s.setGroup g _) (calm.of_same rfl) ..
  · exact calm.of_same rfl

theorem State.laneAnswer_calm (g : GroupRef) (f : RemoteForm) (w : BitVec 64) (gr : Group) (lanes : List (Nat × Nat)) (x : Resp) :
    (s.laneAnswer g f w gr lanes x).Calm base := by
  unfold State.laneAnswer State.addResps
  split
  · exact calm.of_same rfl
  · exact calm

theorem State.openHeld_calm (g : GroupRef) (f : RemoteForm) (w : BitVec 64) (gr : Group) (t : LaneTx) :
    (s.openHeld g f w gr t).Calm base := by
  unfold State.openHeld
  extract_lets hit s1
  have hitCalm : hit.2.Calm base := by
    unfold hit
    split
    · exact calm
    · exact calm.of_same rfl
  clear_value hit
  have counted : s1.Calm base := .ite hitCalm (hitCalm.aside fun hk => State.count_aside hk _ (Nat.le_add_right ..) ..)
  clear_value s1
  split
  · exact s1.laneAnswer_calm counted ..
  · have opened := s1.openTx_calm counted ((s1.freeTag).getD 0) (laneNewTx s1 g f w gr t (.held g.core g.slot t.lanes))
    split
    · exact State.laneAnswer_calm opened ..
    · exact State.openMore_calm opened ..

theorem State.heldDone_calm (g : GroupRef) : (s.heldDone g).Calm base := by
  unfold State.heldDone
  split
  · exact calm
  · next gr _ =>
    split
    · next w _ =>
      extract_lets f left t
      have opened : t.Calm base := State.Calm.foldl (fun _ _ h => State.openHeld_calm h ..) _ calm
      clear_value t
      split
      · exact calm
      · split
        · exact s.stopGroup_calm calm g
        · split
          · exact s.heldEnd_calm calm ..
          · split
            · exact calm
            · split
              · split
                · exact opened
                · exact t.heldEnd_calm opened ..
              · exact opened
    · exact calm

theorem State.heldGo_calm : s.heldGo.Calm base := State.Calm.foldl (fun _ _ h => State.heldDone_calm h _) _ calm

/-! ### Copies -/

theorem State.noteClosed_calm (block : Nat × Nat) (a : Nat) : (s.noteClosed block a).Calm base := .ite (calm.of_same rfl) calm

theorem State.copyFailed_calm (j : CopyJob) (st : Status) : (s.copyFailed j st).Calm base := by
  unfold State.copyFailed
  split
  · exact calm
  · exact calm.of_same rfl

theorem State.copyWrite_calm (j : CopyJob) (dst : Nat) (bs : List Byte) (m : BitVec 32) : (s.copyWrite j dst bs m).Calm base := by
  unfold State.copyWrite
  extract_lets j' t attr u
  have set : t.Calm base := calm.of_same rfl
  have counted : u.Calm base :=
    set.aside fun hk => State.count_aside hk _ (Nat.le_trans (by decide : 0x3100 ≤ 0x3200) (Nat.le_add_right ..)) ..
  clear_value u
  split
  · exact State.copyFailed_calm (u.noteClosed_calm counted ..) ..
  · split
    · refine State.Calm.foldl (fun v _ h => v.writeRacy_calm h ..) _ ?_
      exact (counted.aside fun hk => State.countSpan_aside hk ..).aside fun hk => State.coherentWrite_aside hk ..
    · split
      · exact .ite (u.openTx_calm counted ..) (State.copyFailed_calm (u.openTx_calm counted ..) ..)
      · exact u.openTx_calm counted ..

theorem State.copyPiece_calm (j : CopyJob) : (s.copyPiece j).Calm base := by
  unfold State.copyPiece
  extract_lets src dst n j' t
  have set : t.Calm base := calm.of_same rfl
  clear_value t
  split
  · exact State.copyFailed_calm (t.noteClosed_calm set ..) ..
  · split
    · exact State.copyWrite_calm (set.aside fun hk => State.devRead_aside hk ..) ..
    · split
      · exact State.copyFailed_calm (t.openTx_calm set ..) ..
      · exact t.openTx_calm set ..

theorem State.copyRun_calm (n : Nat) (cmd : Nat) : (State.copyRun n s cmd).Calm base := by
  induction n generalizing s with
  | zero => exact calm
  | succ n ih =>
    unfold State.copyRun
    split
    · exact calm
    · exact .ite calm (ih (s.copyPiece_calm calm _))

theorem State.copiesRun_calm : s.copiesRun.Calm base := State.Calm.foldl (fun _ _ h => State.copyRun_calm h ..) _ calm

/-! ### Mirrors of a ledger -/

theorem State.mirrorDone_calm (i : Nat) (st : Status) : (s.mirrorDone i st).Calm base :=
  .ite calm ((calm.odAdd (k := Od.ledgerMirrorFailCount) (by unfold Od.Timed; decide) 1).of_same rfl)

theorem State.mirrorSendOne_calm (i : Nat) (r : MirrorRoll) (x : MirrorRec) : (s.mirrorSendOne i r x).Calm base := by
  unfold State.mirrorSendOne
  dsimp only
  split
  · exact State.mirrorDone_calm (s.openTx_calm calm ..) ..
  · exact s.openTx_calm calm ..

theorem State.setMirror_calm (i : Nat) (m : Mirror) : (s.setMirror i m).Calm base := calm.of_same rfl

theorem State.mirrorEnds_calm (r : MirrorRoll) (m : Mirror) : (s.mirrorEnds r m).Calm base := .ite calm (calm.of_same rfl)

theorem State.mirrorRun_calm (n i : Nat) : (State.mirrorRun n s i).Calm base := by
  induction n generalizing s with
  | zero => exact calm
  | succ n ih =>
    unfold State.mirrorRun
    dsimp only
    split
    · split
      · exact .ite calm (ih (State.mirrorSendOne_calm (s.setMirror_calm calm ..) ..))
      · exact .ite calm (ih (State.setMirror_calm (s.mirrorEnds_calm calm ..) ..))
    · split
      · exact calm
      · exact ih (s.setMirror_calm calm ..)

/-! ### Handoffs -/

theorem State.hoStall_calm (h : Nat) : (s.hoStall h).Calm base := by
  unfold State.hoStall
  extract_lets x c? waits
  clear_value waits
  split
  · exact calm.of_same rfl
  · exact State.Calm.odAdd (s := s.setChannel h _) (calm.of_same rfl) (Od.not_timed_key (by decide) (by omega) (by omega)) _
  · exact calm

theorem State.commitAt_calm (cmd : Cmd) (st : Status) (d : BitVec 16) (time : Nat) (epoch : BitVec 32) :
    (s.commitAt cmd st d time epoch).Calm base := by
  unfold State.commitAt
  extract_lets d t1 t2 t3
  have counted : t2.Calm base :=
    .ite ((show t1.Calm base from calm.of_same rfl).odAdd (by unfold Od.Timed; decide) 1) (calm.of_same rfl)
  clear_value t2
  have recorded : t3.Calm base := .ite counted (counted.aside fun hk => State.completion_aside hk ..)
  exact recorded.aside fun hk => State.settleRing_aside hk ..

theorem State.endHandoff_calm (h : Nat) (cmd : Cmd) (st : Status) (d : Nat) : (s.endHandoff h cmd st d).Calm base := by
  unfold State.endHandoff
  extract_lets x t
  have set : t.Calm base := calm.of_same rfl
  clear_value t
  refine State.Calm.aside ?_ fun hk => State.pump_aside hk _
  split
  · exact State.commitAt_calm (t.hoStall_calm set h) ..
  · exact State.commitAt_calm (t.hoStall_calm set h) ..

theorem State.hoFailed_calm (h : Nat) (cmd : Cmd) (x : Option Resp) : (s.hoFailed h cmd x).Calm base := by
  unfold State.hoFailed
  split
  · exact calm
  · exact .ite calm (s.endHandoff_calm calm ..)

theorem State.hoWrite_calm (h : Nat) (job : BitVec 16) (a : Nat) (bs : List Byte) (m : BitVec 32) (own : TxOwner) :
    (s.hoWrite h job a bs m own).2.Calm base := s.openTx_calm calm ..

theorem State.setChannel_calm (h : Nat) (x : Channel) : (s.setChannel h x).Calm base := calm.of_same rfl

theorem State.writeLine1_calm (h : Nat) : (s.writeLine1 h).Calm base := by
  unfold State.writeLine1
  dsimp only
  refine .ite (s.setChannel_calm calm ..) ?_
  split
  · exact State.hoFailed_calm (State.hoWrite_calm (s.setChannel_calm calm ..) ..) ..
  · exact State.hoWrite_calm (s.setChannel_calm calm ..) ..

theorem State.hoHand_calm (n h : Nat) (cmd : Cmd) : (State.hoHand n s h cmd).Calm base := by
  induction n generalizing s with
  | zero => exact calm
  | succ n ih =>
    unfold State.hoHand
    dsimp only
    refine .ite calm (ih (State.hoFailed_calm (State.hoWrite_calm ?_ ..) ..))
    exact (s.setChannel_calm calm h _).aside fun hk => State.devRead_aside hk ..

theorem State.hoProgress_calm (h : Nat) (cmd : Cmd) : (s.hoProgress h cmd).Calm base := by
  have ends : ∀ st d, (s.endHandoff h cmd st d).Calm base := fun st d => s.endHandoff_calm calm h cmd st d
  unfold State.hoProgress
  dsimp only
  refine .ite (.ite (ends ..) calm) (.ite (.ite calm ?_) (.ite (ends ..) calm))
  exact State.hoFailed_calm (State.hoWrite_calm (s.setChannel_calm calm ..) ..) ..

theorem State.hoGo_calm (h : Nat) (cmd : Cmd) : (s.hoGo h cmd).Calm base :=
  State.hoStall_calm (State.hoProgress_calm (s.hoHand_calm calm ..) ..) h

theorem State.hoMatch_calm (h : Nat) (cmd : Cmd) : (s.hoMatch h cmd).Calm base := by
  have noted : ∀ l, (s.event 0x0C 0 0x0702 sevWarning l).Calm base := fun _ => calm.of_same rfl
  unfold State.hoMatch
  dsimp only
  split
  · exact calm
  · split
    · exact State.hoStall_calm (s.setChannel_calm calm ..) h
    · exact State.endHandoff_calm (noted _) ..

theorem State.startSend_calm (h : Nat) (cmd : Cmd) : (s.startSend h cmd).Calm base := by
  have started : (s.startCmd cmd).2.Calm base := calm.of_same rfl
  have read : ((s.startCmd cmd).2.readLine1 h).2.Calm base := started.aside fun hk => State.devRead_aside hk ..
  exact State.hoMatch_calm (State.setChannel_calm read ..) ..

theorem State.startRecv_calm (h : Nat) (cmd : Cmd) : (s.startRecv h cmd).Calm base := by
  have started : (s.startCmd cmd).2.Calm base := calm.of_same rfl
  have told := State.writeLine1_calm (State.setChannel_calm started h
    { (s.startCmd cmd).2.channel h with active := some cmd.serial, progressAt := (s.startCmd cmd).2.clk.now }) h
  unfold State.startRecv State.recvCheck
  dsimp only
  refine .ite ?_ (.ite (State.endHandoff_calm ?_ ..) ?_)
  all_goals exact told.aside fun hk => State.devRead_aside hk ..

theorem State.hoNextFuel_calm (n h : Nat) : (State.hoNextFuel n s h).Calm base := by
  induction n generalizing s with
  | zero => exact calm
  | succ n ih =>
    unfold State.hoNextFuel
    refine .ite calm ?_
    split
    · exact calm
    · next cmd _ =>
      refine ih (.ite ?_ (.ite (s.startSend_calm calm ..) (s.startRecv_calm calm ..)))
      exact (calm.aside fun hk => s.commit_aside hk cmd Status.refused 0).aside fun hk => State.pump_aside hk _

theorem State.txRoom_calm : s.txRoom.Calm base := by
  unfold State.txRoom
  dsimp only
  refine State.Calm.foldl (fun t h calm => ?_) _ ?_
  · have line : (t.lineGo h).Calm base := .ite (t.writeLine1_calm calm h) calm
    split
    · exact .ite (State.hoNextFuel_calm (State.hoGo_calm line ..) ..) line
    · exact line
  · exact State.Calm.foldl (fun _ _ calm => State.mirrorRun_calm calm ..) _ (State.heldGo_calm (s.copiesRun_calm calm))

end

/-! ### A stray switch before the deadline -/

/-- A posted transaction of lane 4 that has until 1 µs. -/
def strayTx : Tx := { Tests.swapTx with op := 0x11, owner := .posted 0 0 4, deadline := 1000 }

/-- It is all that the tracker holds; its group runs. -/
def strayPosted : State :=
  let s := (strayState Od.remoteTimeoutCount).setGroup Tests.g0 Tests.grp
  { s with fab := { s.fab with tracker := [strayTx] } }

theorem strayPosted_due : strayPosted.tx? 3 = some strayTx ∧ strayPosted.log.roomy = true ∧
    strayPosted.group? ⟨0, 0⟩ = some Tests.grp ∧ strayPosted.odGet Od.remoteTimeoutCount = 0 := by
  decide +kernel

/-- At 50 ns the stray switch sets the count to 7. -/
theorem strayPosted_timedOut :
    let t := Outcome.state (exec (.remoteTimeout 3) strayPosted) strayPosted
    t.odGet Od.remoteTimeoutCount = 8 ∧ ∀ p < 4, t.odGet (Od.fencedCoord p) = 0xFFFF := by
  decide +kernel

/-- Refutes O22: while REMOTE_TIMEOUT waits for the deadline, an epoch switch that waits for a context beyond 15 writes
REMOTE_TIMEOUT_COUNT, so that the count, which what follows leaves, is not one more than it was. -/
theorem not_transactionsEnd : ¬Obligations.TransactionsEnd := by
  unfold Obligations.TransactionsEnd
  intro ⟨_, timeout⟩
  obtain ⟨found, room, group, zero⟩ := strayPosted_due
  obtain ⟨u, ran, posted⟩ := (timeout strayPosted 3).2 strayTx found room
  obtain ⟨-, -, -, counted, -⟩ := posted 0 0 4 Tests.grp rfl group rfl
  obtain ⟨seen, open_⟩ := strayPosted_timedOut
  rw [ran, Outcome.state_next] at seen open_
  have calm := State.txRoom_calm (State.Calm.refl u)
  have kept := calm.count fun p hp => (calm.fences p hp).symm.trans (open_ p hp)
  rw [seen, counted, zero] at kept
  exact absurd kept (by decide)

end Sys2Proof.Machine
end

section
/-! SUPPORT. The memory code (R230, R231): no four columns of its positions, nor fewer, XOR to zero, so that the checker
corrects one and two bit errors and finds three. -/

namespace Sys2Proof.Machine
open Sys2Proof

/-! ### One step of the remainder -/

theorem testBit_bchStep (r : Nat) (b : Bool) (i : Nat) : (bchStep r b).testBit i =
    ((decide (i < 14) && (decide (1 ≤ i) && r.testBit (i - 1))) ^^ ((b ^^ r.testBit 13) && bchPoly.testBit i)) := by
  have moved : (r * 2 % 0x4000).testBit i = (decide (i < 14) && (decide (1 ≤ i) && r.testBit (i - 1))) := by
    rw [show 0x4000 = 2 ^ 14 by rfl, Nat.testBit_mod_two_pow, ← Nat.pow_one 2, Nat.testBit_mul_two_pow]
  unfold bchStep
  dsimp only
  cases b <;> cases r.testBit 13 <;> simp [moved]

/-- A step is linear over XOR. -/
theorem bchStep_xor (q r : Nat) (a b : Bool) : bchStep (q ^^^ r) (a ^^ b) = bchStep q a ^^^ bchStep r b := by
  refine Nat.eq_of_testBit_eq fun i => ?_
  simp only [testBit_bchStep, Nat.testBit_xor]
  generalize q.testBit 13 = x, r.testBit 13 = y, q.testBit (i - 1) = u, r.testBit (i - 1) = v, bchPoly.testBit i = z,
    decide (i < 14) = low, decide (1 ≤ i) = up
  revert a b x y u v z low up
  decide

theorem bchStep_lt (r : Nat) (b : Bool) : bchStep r b < 2 ^ 14 := by
  refine Nat.lt_pow_two_of_testBit _ fun i hi => ?_
  have high : bchPoly.testBit i = false := Nat.testBit_lt_two_pow (Nat.lt_of_lt_of_le (by decide) (Nat.pow_le_pow_right two_pos hi))
  rw [testBit_bchStep, high]
  simp [Nat.not_lt.mpr hi]

/-- A step without an information bit multiplies by x modulo g, of which only zero becomes zero: g has a constant term. -/
theorem bchStep_eq_zero {r : Nat} (hr : r < 2 ^ 14) (h : bchStep r false = 0) : r = 0 := by
  have top : r.testBit 13 = false := by
    have := testBit_bchStep r false 0
    rw [h] at this
    simpa [bchPoly] using this
  refine Nat.eq_of_testBit_eq fun i => ?_
  rw [Nat.zero_testBit]
  obtain low | rfl | high := Nat.lt_trichotomy i 13
  · have := testBit_bchStep r false (i + 1)
    rw [h, top] at this
    simpa [show i + 1 < 14 by omega] using this
  · exact top
  · exact Nat.testBit_lt_two_pow (Nat.lt_of_lt_of_le hr (Nat.pow_le_pow_right two_pos high))

/-! ### Columns -/

theorem bchColumn_succ (p : Nat) : bchColumn (p + 1) = bchStep (bchColumn p) false := by
  rw [bchColumn, bchStep]
  cases (bchColumn p).testBit 13 <;> rfl

theorem bchColumn_lt : ∀ p, bchColumn p < 2 ^ 14
  | 0 => by decide
  | p + 1 => by
    rw [bchColumn_succ]
    exact bchStep_lt ..

/-- `k` steps without an information bit: the remainder times x^k. -/
def bchShift (k r : Nat) : Nat := (bchStep · false)^[k] r

theorem bchShift_succ (k r : Nat) : bchShift (k + 1) r = bchStep (bchShift k r) false := Function.iterate_succ_apply' ..

theorem bchColumn_add (p : Nat) : ∀ k, bchColumn (k + p) = bchShift k (bchColumn p)
  | 0 => by rw [Nat.zero_add]; rfl
  | k + 1 => by rw [Nat.add_right_comm, bchColumn_succ, bchColumn_add p k, bchShift_succ]

theorem bchColumn_eq_shift (a : Nat) : bchColumn a = bchShift a (bchColumn 0) := bchColumn_add 0 a

theorem bchShift_xor (q r : Nat) : ∀ k, bchShift k (q ^^^ r) = bchShift k q ^^^ bchShift k r
  | 0 => rfl
  | k + 1 => by rw [bchShift_succ, bchShift_xor q r k, bchShift_succ, bchShift_succ, ← bchStep_xor]; rfl

theorem bchShift_eq_zero {r : Nat} (hr : r < 2 ^ 14) : ∀ k, bchShift k r = 0 → r = 0
  | 0, h => h
  | k + 1, h => by
    rw [bchShift_succ] at h
    refine bchShift_eq_zero hr k (bchStep_eq_zero ?_ h)
    cases k with
    | zero => exact hr
    | succ k => rw [bchShift_succ]; exact bchStep_lt ..

theorem bchShift_inj {q r k : Nat} (hq : q < 2 ^ 14) (hr : r < 2 ^ 14) (h : bchShift k q = bchShift k r) : q = r := by
  refine Nat.xor_eq_zero_iff.mp (bchShift_eq_zero (Nat.xor_lt_two_pow hq hr) k ?_)
  rw [bchShift_xor, h, Nat.xor_self]

theorem bchColumnsFrom_succ (n p : Nat) :
    bchColumnsFrom (n + 1) (bchColumn p) = bchColumn p :: bchColumnsFrom n (bchColumn (p + 1)) := rfl

theorem mem_bchColumnsFrom {x : Nat} : ∀ {n p : Nat},
    x ∈ bchColumnsFrom n (bchColumn p) ↔ ∃ q, p ≤ q ∧ q < p + n ∧ bchColumn q = x
  | 0, p => by
    simp only [bchColumnsFrom, List.not_mem_nil, false_iff]
    omega
  | n + 1, p => by
    rw [bchColumnsFrom_succ, List.mem_cons, mem_bchColumnsFrom]
    constructor
    · rintro (rfl | ⟨q, low, high, rfl⟩)
      · exact ⟨p, le_rfl, by omega, rfl⟩
      · exact ⟨q, by omega, by omega, rfl⟩
    · rintro ⟨q, low, high, rfl⟩
      obtain rfl | above := Nat.eq_or_lt_of_le low
      · exact .inl rfl
      · exact .inr ⟨q, above, by omega, rfl⟩

theorem mem_bchColumns {x : Nat} : x ∈ bchColumns ↔ ∃ q < 79, bchColumn q = x := by
  refine (mem_bchColumnsFrom (n := 79) (p := 0)).trans (exists_congr fun q => ?_)
  simp

theorem bchColumn_ne_zero (a : Nat) : bchColumn a ≠ 0 := by
  intro h
  rw [bchColumn_eq_shift] at h
  exact absurd (bchShift_eq_zero (bchColumn_lt 0) a h) (by decide)

/-! ### No four or fewer columns XOR to zero -/

/-- The columns of position 0 and of up to two more XOR neither to zero nor to a column. -/
theorem first_columns_apart : (∀ b < 79, 0 < b → bchColumn 0 ^^^ bchColumn b ∉ 0 :: bchColumns) ∧
    ∀ c < 79, ∀ b < c, 0 < b → bchColumn 0 ^^^ bchColumn b ^^^ bchColumn c ∉ 0 :: bchColumns := by
  decide +kernel

theorem bchColumn_inj {a b : Nat} (hab : a < b) (hb : b < 79) : bchColumn a ≠ bchColumn b := by
  obtain ⟨k, rfl⟩ := Nat.exists_eq_add_of_lt hab
  intro h
  rw [Nat.add_assoc, bchColumn_add, bchColumn_eq_shift] at h
  refine first_columns_apart.1 (k + 1) (by omega) (by omega) ?_
  rw [← bchShift_inj (bchColumn_lt _) (bchColumn_lt _) h, Nat.xor_self]
  exact List.mem_cons_self

theorem xor_rotate {a b c d : Nat} (h : a ^^^ b ^^^ c = d) : d ^^^ a ^^^ b = c := by
  rw [← h, Nat.xor_comm (a ^^^ b) c, Nat.xor_assoc, Nat.xor_assoc, Nat.xor_self, Nat.xor_zero]

/-- Where the first column is the lowest, all of them move until it stands at position 0. -/
theorem bchColumns_apart_of_le {a b c q : Nat} (hab : a < b) (hbc : b < c) (hc : c < 79) (hq : a ≤ q) (hq' : q < 79) :
    bchColumn a ^^^ bchColumn b ^^^ bchColumn c ≠ bchColumn q := by
  obtain ⟨k, rfl⟩ := Nat.exists_eq_add_of_le hab.le
  obtain ⟨l, rfl⟩ := Nat.exists_eq_add_of_le (hab.trans hbc).le
  obtain ⟨m, rfl⟩ := Nat.exists_eq_add_of_le hq
  intro h
  have bound := Nat.xor_lt_two_pow (Nat.xor_lt_two_pow (bchColumn_lt 0) (bchColumn_lt k)) (bchColumn_lt l)
  simp only [bchColumn_eq_shift a, bchColumn_add, ← bchShift_xor] at h
  refine first_columns_apart.2 l (by omega) k (by omega) (by omega) ?_
  rw [bchShift_inj bound (bchColumn_lt m) h]
  exact List.mem_cons_of_mem _ (mem_bchColumns.mpr ⟨m, by omega, rfl⟩)

/-- The lowest of the columns moves to position 0. -/
theorem bchColumns_pair_apart {a b q : Nat} (hab : a < b) (hb : b < 79) (hq : q < 79) :
    bchColumn a ^^^ bchColumn b ≠ bchColumn q := by
  intro h
  obtain below | ⟨m, rfl⟩ := (Nat.lt_or_ge q a).imp_right Nat.exists_eq_add_of_le
  · obtain ⟨k, rfl⟩ := Nat.exists_eq_add_of_le below.le
    obtain ⟨l, rfl⟩ := Nat.exists_eq_add_of_le (below.trans hab).le
    have bound := Nat.xor_lt_two_pow (Nat.xor_lt_two_pow (bchColumn_lt 0) (bchColumn_lt k)) (bchColumn_lt l)
    rw [eq_comm, ← Nat.xor_eq_zero_iff, ← Nat.xor_assoc] at h
    simp only [bchColumn_eq_shift q, bchColumn_add, ← bchShift_xor] at h
    refine first_columns_apart.2 l (by omega) k (by omega) (by omega) ?_
    rw [bchShift_eq_zero bound q h]
    exact List.mem_cons_self
  · obtain ⟨k, rfl⟩ := Nat.exists_eq_add_of_le hab.le
    have bound := Nat.xor_lt_two_pow (bchColumn_lt 0) (bchColumn_lt k)
    simp only [bchColumn_eq_shift a, bchColumn_add, ← bchShift_xor] at h
    refine first_columns_apart.1 k (by omega) (by omega) ?_
    rw [bchShift_inj bound (bchColumn_lt m) h]
    exact List.mem_cons_of_mem _ (mem_bchColumns.mpr ⟨m, by omega, rfl⟩)

/-- Where the fourth column is the lowest, it takes the place of the first. -/
theorem bchColumns_triple_apart {a b c q : Nat} (hab : a < b) (hbc : b < c) (hc : c < 79) (hq : q < 79) :
    bchColumn a ^^^ bchColumn b ^^^ bchColumn c ≠ bchColumn q := by
  obtain below | above := Nat.lt_or_ge q a
  · exact fun h => bchColumns_apart_of_le below hab (hbc.trans hc) (by omega) hc (xor_rotate h)
  · exact bchColumns_apart_of_le hab hbc hc above hq

/-! ### The searches of the checker -/

theorem findColumn_none {s : Nat} : ∀ {cs : List Nat} {p : Nat}, s ∉ cs → findColumn s p cs = none
  | [], _, _ => rfl
  | c :: cs, p, h => by
    rw [List.mem_cons, not_or] at h
    rw [findColumn, if_neg (Ne.symm h.1), findColumn_none h.2]

theorem findColumn_bchColumn {a : Nat} (ha : a < 79) : ∀ {n p : Nat}, p ≤ a → a < p + n →
    findColumn (bchColumn a) p (bchColumnsFrom n (bchColumn p)) = some a
  | 0, p, low, high => by omega
  | n + 1, p, low, high => by
    rw [bchColumnsFrom_succ, findColumn]
    obtain rfl | above := Nat.eq_or_lt_of_le low
    · rw [if_pos rfl]
    · rw [if_neg (bchColumn_inj above ha), findColumn_bchColumn ha above (by omega)]

theorem findPair_bchColumns {a b : Nat} (hab : a < b) (hb : b < 79) : ∀ {n p : Nat}, p ≤ a → b < p + n → p + n ≤ 79 →
    findPair (bchColumn a ^^^ bchColumn b) p (bchColumnsFrom n (bchColumn p)) = some (a, b)
  | 0, p, low, high, _ => by omega
  | n + 1, p, low, high, fits => by
    rw [bchColumnsFrom_succ, findPair]
    obtain rfl | above := Nat.eq_or_lt_of_le low
    · rw [xor_xor_cancel_comm, findColumn_bchColumn hb hab (by omega)]
    · have alone : bchColumn a ^^^ bchColumn b ^^^ bchColumn p ∉ bchColumnsFrom n (bchColumn (p + 1)) := by
        intro h
        obtain ⟨q, low', high', h⟩ := mem_bchColumnsFrom.mp h
        rw [Nat.xor_comm, ← Nat.xor_assoc] at h
        exact bchColumns_triple_apart above hab hb (by omega) h.symm
      rw [findColumn_none alone, findPair_bchColumns hab hb above (by omega) (by omega)]

theorem findColumn_some {s a : Nat} : ∀ {n p : Nat}, findColumn s p (bchColumnsFrom n (bchColumn p)) = some a →
    bchColumn a = s ∧ a < p + n
  | 0, p, h => nomatch h
  | n + 1, p, h => by
    rw [bchColumnsFrom_succ, findColumn] at h
    split at h
    · next here =>
      obtain rfl := Option.some.inj h
      exact ⟨here, by omega⟩
    · obtain ⟨here, below⟩ := findColumn_some h
      exact ⟨here, by omega⟩

theorem findPair_some {s a b : Nat} : ∀ {n p : Nat}, findPair s p (bchColumnsFrom n (bchColumn p)) = some (a, b) →
    bchColumn a ^^^ bchColumn b = s ∧ a < p + n ∧ b < p + n
  | 0, p, h => nomatch h
  | n + 1, p, h => by
    rw [bchColumnsFrom_succ, findPair] at h
    split at h
    · next q found =>
      obtain ⟨here, below⟩ := findColumn_some found
      obtain ⟨rfl, rfl⟩ := Prod.mk.inj (Option.some.inj h)
      exact ⟨by rw [here, xor_xor_cancel_comm_assoc], by omega, by omega⟩
    · obtain ⟨here, below, below'⟩ := findPair_some h
      exact ⟨here, by omega, by omega⟩

/-! ### Syndrome and parity of a word with a bit flipped -/

theorem xorBits_xor (m n : Nat) : ∀ k, xorBits (m ^^^ n) k = (xorBits m k ^^ xorBits n k)
  | 0 => rfl
  | k + 1 => by
    simp only [xorBits, xorBits_xor m n k, Nat.testBit_xor]
    generalize m.testBit k = a, n.testBit k = b, xorBits m k = c, xorBits n k = d
    revert a b c d
    decide

theorem xorBits_two_pow {i : Nat} : ∀ {k : Nat}, xorBits (2 ^ i) k = decide (i < k)
  | 0 => by simp [xorBits]
  | k + 1 => by
    rw [xorBits, xorBits_two_pow, Nat.testBit_two_pow]
    obtain below | rfl | above := Nat.lt_trichotomy i k
    · simp [below.ne, below, Nat.lt_succ_of_lt below]
    · simp
    · simp [above.ne', Nat.not_lt.mpr above.le, Nat.not_lt.mpr (Nat.succ_le_of_lt above)]

theorem positionBit_lt {p : Nat} (hp : p < 80) : positionBit p < 80 := by
  unfold positionBit
  split
  · omega
  · split <;> omega

/-- The parity of the 80 bits of a word (R231). -/
def wordParity (w : CodeWord) : Bool := xorBits w.toNat 80

theorem wordParity_flip (w : CodeWord) {p : Nat} (hp : p < 80) : wordParity (flipPosition w p) = !wordParity w := by
  have bit := positionBit_lt hp
  unfold wordParity flipPosition
  rw [BitVec.toNat_xor, BitVec.toNat_twoPow_of_lt bit, xorBits_xor, xorBits_two_pow, decide_eq_true bit, Bool.xor_true]

theorem bchFrom_xor (i j : Nat) : ∀ (n q r : Nat), bchFrom (i ^^^ j) n (q ^^^ r) = bchFrom i n q ^^^ bchFrom j n r
  | 0, _, _ => rfl
  | n + 1, q, r => by rw [bchFrom, Nat.testBit_xor, bchStep_xor, bchFrom_xor i j n]; rfl

/-- The information bits of a code word, as `bch_check` takes them. -/
def infoBits (d : BitVec 64) (p : Bool) : Nat := d.toNat + if p then 2 ^ 64 else 0

theorem infoBits_xor (d e : BitVec 64) (p q : Bool) : infoBits (d ^^^ e) (p ^^ q) = infoBits d p ^^^ infoBits e q := by
  have joined : ∀ (d : BitVec 64) (p : Bool), infoBits d p = (BitVec.ofBool p ++ d).toNat := by
    intro d p
    rw [BitVec.toNat_append, ← Nat.shiftLeft_add_eq_or_of_lt d.isLt, infoBits, Nat.add_comm]
    cases p <;> rfl
  rw [joined, joined, joined, ← BitVec.toNat_xor, BitVec.xor_append, BitVec.ofBool_xor_ofBool]

theorem bchFrom_zero : ∀ n, bchFrom 0 n 0 = 0
  | 0 => rfl
  | n + 1 => by
    rw [bchFrom, Nat.zero_testBit]
    exact bchFrom_zero n

theorem bchCheck_eq (d : BitVec 64) (p : Bool) : bchCheck d p = BitVec.ofNat 14 (bchFrom (infoBits d p) 65 0) := by
  unfold bchCheck
  change BitVec.ofNat 14 (if infoBits d p = 0 then 0 else bchFrom (infoBits d p) 65 0) = _
  split
  · next zero => rw [zero, bchFrom_zero]
  · rfl

theorem bchCheck_xor (d e : BitVec 64) (p q : Bool) : bchCheck (d ^^^ e) (p ^^ q) = bchCheck d p ^^^ bchCheck e q := by
  rw [bchCheck_eq, bchCheck_eq, bchCheck_eq, infoBits_xor, ← Nat.xor_self 0, bchFrom_xor, Nat.xor_self, BitVec.ofNat_xor]

theorem syndrome_xor (x y : CodeWord) : syndrome (x ^^^ y) = syndrome x ^^^ syndrome y := by
  have check : codeCheck (x ^^^ y) = codeCheck x ^^^ codeCheck y := BitVec.extractLsb'_xor
  have data : codeData (x ^^^ y) = codeData x ^^^ codeData y := BitVec.extractLsb'_xor
  have poison : codePoison (x ^^^ y) = (codePoison x ^^ codePoison y) := BitVec.getLsbD_xor
  unfold syndrome
  rw [check, data, poison, bchCheck_xor]
  ac_rfl

/-- What a flip of a position adds to the syndrome: its column, and nothing for PARITY. -/
def flipColumn (p : Nat) : Nat := if p < 79 then bchColumn p else 0

theorem syndrome_twoPow : ∀ p < 80, (syndrome (BitVec.twoPow 80 (positionBit p))).toNat = flipColumn p := by decide +kernel

theorem syndrome_flip (w : CodeWord) {p : Nat} (hp : p < 80) :
    (syndrome (flipPosition w p)).toNat = (syndrome w).toNat ^^^ flipColumn p := by
  rw [flipPosition, syndrome_xor, BitVec.toNat_xor, syndrome_twoPow p hp]

theorem flipPosition_flip (w : CodeWord) (p : Nat) : flipPosition (flipPosition w p) p = w := by
  unfold flipPosition
  rw [BitVec.xor_assoc, BitVec.xor_self, BitVec.xor_zero]

theorem flipPosition_comm (w : CodeWord) (a b : Nat) : flipPosition (flipPosition w a) b = flipPosition (flipPosition w b) a := by
  unfold flipPosition
  ac_rfl

/-! ### What the checker finds, by syndrome and parity (R231) -/

theorem checkWord_of_zero {w : CodeWord} (h : (syndrome w).toNat = 0) :
    checkWord w = if wordParity w then .corrected (flipPosition w 79) 79 0xFF else .clean := by
  unfold checkWord
  exact if_pos h

theorem checkWord_of_column {w : CodeWord} {a : Nat} (ha : a < 79) (h : (syndrome w).toNat = bchColumn a) :
    checkWord w = if wordParity w then .corrected (flipPosition w a) a 0xFF
      else .corrected (flipPosition (flipPosition w a) 79) a 79 := by
  have found : findColumn (bchColumn a) 0 bchColumns = some a := findColumn_bchColumn ha (Nat.zero_le a) (by omega)
  unfold checkWord
  simp only [h, bchColumn_ne_zero, if_false, found]
  rfl

theorem checkWord_of_pair {w : CodeWord} {a b : Nat} (hab : a < b) (hb : b < 79)
    (h : (syndrome w).toNat = bchColumn a ^^^ bchColumn b) (even : wordParity w = false) :
    checkWord w = .corrected (flipPosition (flipPosition w a) b) a b := by
  have single : findColumn (bchColumn a ^^^ bchColumn b) 0 bchColumns = none := findColumn_none fun mem => by
    obtain ⟨q, hq, same⟩ := mem_bchColumns.mp mem
    exact bchColumns_pair_apart hab hb hq same.symm
  have found : findPair (bchColumn a ^^^ bchColumn b) 0 bchColumns = some (a, b) :=
    findPair_bchColumns hab hb (Nat.zero_le a) (by omega) le_rfl
  have wrong : bchColumn a ^^^ bchColumn b ≠ 0 := Nat.xor_ne_zero_iff.mpr (bchColumn_inj hab hb)
  unfold wordParity at even
  unfold checkWord
  simp [h, wrong, single, found, even]

theorem checkWord_of_far {w : CodeWord} (wrong : (syndrome w).toNat ≠ 0) (far : ∀ q < 79, (syndrome w).toNat ≠ bchColumn q)
    (odd : wordParity w = true) : checkWord w = .uncorrectable := by
  have single : findColumn (syndrome w).toNat 0 bchColumns = none := findColumn_none fun mem => by
    obtain ⟨q, hq, same⟩ := mem_bchColumns.mp mem
    exact far q hq same.symm
  unfold wordParity at odd
  unfold checkWord
  simp [wrong, single, odd]

theorem checkWord_eq_clean {w : CodeWord} : checkWord w = .clean ↔ (syndrome w).toNat = 0 ∧ wordParity w = false := by
  constructor
  · intro h
    have zero : (syndrome w).toNat = 0 := by
      by_contra wrong
      unfold checkWord at h
      dsimp only at h
      rw [if_neg wrong] at h
      repeat' split at h
      all_goals cases h
    rw [checkWord_of_zero zero] at h
    split at h
    · cases h
    · next even => exact ⟨zero, Bool.eq_false_of_not_eq_true even⟩
  · rintro ⟨zero, even⟩
    rw [checkWord_of_zero zero, even]
    rfl

/-! ### Errors of one, two and three bits -/

section
variable {x : CodeWord} (clean : checkWord x = .clean)
include clean

theorem syndrome_flip_of_clean {a : Nat} (ha : a < 80) : (syndrome (flipPosition x a)).toNat = flipColumn a := by
  rw [syndrome_flip x ha, (checkWord_eq_clean.mp clean).1, Nat.zero_xor]

theorem wordParity_flip_of_clean {a : Nat} (ha : a < 80) : wordParity (flipPosition x a) = true := by
  rw [wordParity_flip x ha, (checkWord_eq_clean.mp clean).2]
  rfl

theorem checkWord_flip_one {a : Nat} (ha : a < 80) : checkWord (flipPosition x a) = .corrected x a 0xFF := by
  have syn := syndrome_flip_of_clean clean ha
  have odd := wordParity_flip_of_clean clean ha
  obtain rfl | below := Nat.eq_or_lt_of_le (Nat.le_of_lt_succ ha)
  · rw [checkWord_of_zero syn, if_pos odd, flipPosition_flip]
  · rw [flipColumn, if_pos below] at syn
    rw [checkWord_of_column below syn, if_pos odd, flipPosition_flip]

theorem checkWord_flip_two {a b : Nat} (hab : a < b) (hb : b < 80) :
    checkWord (flipPosition (flipPosition x a) b) = .corrected x a b := by
  have ha : a < 79 := by omega
  have syn := syndrome_flip (flipPosition x a) hb
  have even := wordParity_flip (flipPosition x a) hb
  rw [syndrome_flip_of_clean clean (by omega), flipColumn, if_pos ha] at syn
  rw [wordParity_flip_of_clean clean (by omega)] at even
  obtain rfl | below := Nat.eq_or_lt_of_le (Nat.le_of_lt_succ hb)
  · rw [flipColumn, if_neg (by decide), Nat.xor_zero] at syn
    rw [checkWord_of_column ha syn, if_neg (by simp [even]), flipPosition_comm x, flipPosition_flip, flipPosition_flip]
  · rw [flipColumn, if_pos below] at syn
    rw [checkWord_of_pair hab below syn even, flipPosition_comm x, flipPosition_flip, flipPosition_flip]

theorem checkWord_flip_three {a b c : Nat} (hab : a < b) (hbc : b < c) (hc : c < 80) :
    checkWord (flipPosition (flipPosition (flipPosition x a) b) c) = .uncorrectable := by
  have ha : a < 79 := by omega
  have hb : b < 79 := by omega
  have syn := syndrome_flip (flipPosition (flipPosition x a) b) hc
  rw [syndrome_flip (flipPosition x a) (by omega), syndrome_flip_of_clean clean (by omega), flipColumn, flipColumn,
    if_pos ha, if_pos hb] at syn
  have odd : wordParity (flipPosition (flipPosition (flipPosition x a) b) c) = true := by
    rw [wordParity_flip _ hc, wordParity_flip _ (by omega), wordParity_flip_of_clean clean (by omega)]
    rfl
  obtain rfl | below := Nat.eq_or_lt_of_le (Nat.le_of_lt_succ hc)
  · rw [flipColumn, if_neg (by decide), Nat.xor_zero] at syn
    refine checkWord_of_far ?_ (fun q hq => ?_) odd
    · rw [syn]
      exact Nat.xor_ne_zero_iff.mpr (bchColumn_inj hab hb)
    · rw [syn]
      exact bchColumns_pair_apart hab hb hq
  · rw [flipColumn, if_pos below] at syn
    refine checkWord_of_far ?_ (fun q hq => ?_) odd
    · rw [syn]
      exact Nat.xor_ne_zero_iff.mpr (bchColumns_pair_apart hab hb below)
    · rw [syn]
      exact bchColumns_triple_apart hab hbc below hq

end

/-- Settles O18: the columns of four or fewer positions are independent, so that the syndrome names an error of one or two
bits, and no third bit makes it one of those. -/
theorem codeCorrects : Obligations.CodeCorrects := by
  unfold Obligations.CodeCorrects
  intro d p
  have clean := checkWord_codeWord d p
  exact ⟨clean, codeData_codeWord d p, codePoison_codeWord d p, fun a => checkWord_flip_one clean,
    fun a b => checkWord_flip_two clean, fun a b c => checkWord_flip_three clean⟩

/-! ### What the checker delivers is a code word (R232) -/

theorem checkWord_corrected {w y : CodeWord} {p q : Nat} (h : checkWord w = .corrected y p q) : checkWord y = .clean := by
  have flipped : ∀ (v : CodeWord) (a : Nat), a < 80 → (syndrome (flipPosition v a)).toNat = (syndrome v).toNat ^^^ flipColumn a ∧
      wordParity (flipPosition v a) = !wordParity v := fun v a ha => ⟨syndrome_flip v ha, wordParity_flip v ha⟩
  rw [checkWord_eq_clean]
  by_cases zero : (syndrome w).toNat = 0
  · obtain ⟨syn, parity⟩ := flipped w 79 (by decide)
    rw [checkWord_of_zero zero] at h
    split at h <;> cases h
    next odd => exact ⟨by rw [syn, zero]; rfl, by rw [parity, odd]; rfl⟩
  cases found : findColumn (syndrome w).toNat 0 bchColumns with
  | some a =>
    obtain ⟨column, ha⟩ := findColumn_some (n := 79) (p := 0) found
    obtain ⟨syn, parity⟩ := flipped w a (by omega)
    rw [flipColumn, if_pos (by omega), column, Nat.xor_self] at syn
    rw [checkWord_of_column (by omega) column.symm] at h
    split at h <;> cases h
    · next odd => exact ⟨syn, by rw [parity, odd]; rfl⟩
    · next even =>
      obtain ⟨syn', parity'⟩ := flipped (flipPosition w p) 79 (by decide)
      exact ⟨by rw [syn', syn]; rfl, by rw [parity', parity]; simpa using even⟩
  | none =>
    unfold checkWord at h
    simp only [zero, if_false, found] at h
    split at h
    · cases h
    · next even =>
      split at h <;> cases h
      next pair =>
      obtain ⟨column, ha, hb⟩ := findPair_some (n := 79) (p := 0) pair
      obtain ⟨syn, parity⟩ := flipped w p (by omega)
      obtain ⟨syn', parity'⟩ := flipped (flipPosition w p) q (by omega)
      rw [flipColumn, if_pos (by omega)] at syn syn'
      refine ⟨by rw [syn', syn, ← column, Nat.xor_assoc, Nat.xor_self], ?_⟩
      rw [parity', parity, Bool.not_not]
      exact Bool.eq_false_of_not_eq_true even

/-- The checker finds no error in the word that it leaves. -/
theorem checkWord_checkedWord (w : CodeWord) : checkWord (checkedWord w) = .clean := by
  unfold checkedWord
  split
  · next clean => exact clean
  · next fixed => exact checkWord_corrected fixed
  · exact checkWord_codeWord ..

end Sys2Proof.Machine
end

section
/-! SUPPORT. Reads, writes and merges of code words (R226, R232, R234, R240, R241), and read after write (R7). -/

namespace Sys2Proof.Machine
open Sys2Proof

/-! ### What a correction or an uncorrectable word counts and logs -/

theorem State.odGet_odAdd (s : State) (k n : Nat) : (s.odAdd k n).odGet k = (s.odGet k + n) % 2 ^ 64 :=
  (State.odGet_odSet ..).trans (if_pos rfl)

theorem State.memCE_sameMem (s : State) (st : Storage) (ty inst addr p q : Nat) (det : Detect) :
    SameMem s (s.memCE st ty inst addr p q det) := by
  unfold State.memCE
  dsimp only
  split <;> exact ⟨rfl, rfl, rfl, rfl, rfl⟩

theorem State.memCE_count (s : State) (st : Storage) (ty inst addr p q : Nat) (det : Detect) :
    (s.memCE st ty inst addr p q det).odGet (ceCounter st inst) = (s.odGet (ceCounter st inst) + 1) % 2 ^ 64 := by
  unfold State.memCE
  dsimp only
  split <;> exact State.odGet_odAdd ..

theorem State.memUE_sameMem (s : State) (st : Storage) (ty inst addr : Nat) (det : Detect) :
    SameMem s (s.memUE st ty inst addr det) := ⟨rfl, rfl, rfl, rfl, rfl⟩

theorem State.memUE_count (s : State) (st : Storage) (ty inst addr : Nat) (det : Detect) :
    (s.memUE st ty inst addr det).odGet (ueCounter st inst) = (s.odGet (ueCounter st inst) + 1) % 2 ^ 64 :=
  State.odGet_odAdd ..

/-- Fields beyond byte 23 leave bytes 16 to 23 zero. -/
theorem payload_beyond : ∀ {l : List (Nat × Nat × Nat)}, (∀ f ∈ l, 24 ≤ f.1) → (payload l).extractLsb' 0 64 = 0#64
  | [], _ => rfl
  | (b, n, v) :: l, h => by
    rw [payload, BitVec.extractLsb'_or, payload_beyond fun f hf => h f (List.mem_cons_of_mem _ hf), BitVec.or_zero]
    have late : 24 ≤ b := h (b, n, v) List.mem_cons_self
    refine BitVec.eq_of_getLsbD_eq fun j hj => ?_
    rw [BitVec.getLsbD_extractLsb', BitVec.getLsbD_ofNat, Nat.testBit_mul_two_pow, Nat.zero_add,
      decide_eq_false (show ¬8 * (b - 16) ≤ j by omega)]
    simp

/-- Bytes 16 to 23 of a payload whose other fields lie beyond them. -/
theorem payload_first (v : Nat) {l : List (Nat × Nat × Nat)} (h : ∀ f ∈ l, 24 ≤ f.1) :
    (payload ((16, 8, v) :: l)).extractLsb' 0 64 = BitVec.ofNat 64 v := by
  rw [payload, BitVec.extractLsb'_or, payload_beyond h, BitVec.or_zero]
  refine BitVec.eq_of_getLsbD_eq fun j hj => ?_
  rw [BitVec.getLsbD_extractLsb', BitVec.getLsbD_ofNat, BitVec.getLsbD_ofNat, Nat.zero_add, Nat.sub_self, Nat.mul_zero, pow_zero,
    Nat.mul_one, Nat.testBit_mod_two_pow, decide_eq_true hj, decide_eq_true (show j < 128 by omega), Bool.true_and, Bool.true_and]

/-- MEM_UE (R240). -/
theorem State.memUE_logs (s : State) (st : Storage) (ty inst addr : Nat) (det : Detect) :
    ∃ e, (s.memUE st ty inst addr det).log.ingress = s.log.ingress ++ [e] ∧ e.kind = 0x0202 ∧ e.severity = sevError ∧
      e.payload.extractLsb' 0 64 = BitVec.ofNat 64 addr := ⟨_, rfl, rfl, rfl, payload_first addr (by simp)⟩

/-! ### The count of poisoned words is none of these -/

/-- From `s` to `t` only a count of poisoned words that a stack delivered may have counted. -/
structure Delivered (s t : State) : Prop where
  same : SameMem s t
  log : t.log = s.log
  od : ∀ k, (∀ stack, k ≠ Od.hbmPoisonReadCount stack) → t.odGet k = s.odGet k

theorem Delivered.refl (s : State) : Delivered s s := ⟨.refl s, rfl, fun _ _ => rfl⟩

theorem State.countPoisonRead_delivered (s : State) (w : Nat) (p : Bool) : Delivered s (s.countPoisonRead w p) := by
  unfold State.countPoisonRead
  split
  · exact ⟨⟨rfl, rfl, rfl, rfl, rfl⟩, rfl, fun k hk => State.odAdd_odGet_other (hk _) 1⟩
  · exact .refl s

theorem ceCounter_ne_poisonRead (st : Storage) (inst stack : Nat) : ceCounter st inst ≠ Od.hbmPoisonReadCount stack := by
  unfold ceCounter Od.hbmCeCount Od.sramCeCount Od.hbmPoisonReadCount Od.key
  split <;> omega

theorem ueCounter_ne_poisonRead (st : Storage) (inst stack : Nat) : ueCounter st inst ≠ Od.hbmPoisonReadCount stack := by
  unfold ueCounter Od.hbmUeCount Od.sramUeCount Od.hbmPoisonReadCount Od.key
  split <;> omega

/-! ### A read of a word -/

theorem checkedWord_of_clean {x : CodeWord} (h : checkWord x = .clean) : checkedWord x = x := by
  unfold checkedWord
  rw [h]

theorem checkedWord_of_corrected {x y : CodeWord} {p q : Nat} (h : checkWord x = .corrected y p q) : checkedWord x = y := by
  unfold checkedWord
  rw [h]

theorem checkedWord_of_uncorrectable {x : CodeWord} (h : checkWord x = .uncorrectable) :
    checkedWord x = codeWord (codeData x) true := by
  unfold checkedWord
  rw [h]

theorem deliver_of_clean {x : CodeWord} (h : checkWord x = .clean) : deliver x = (codeData x, codePoison x) := by
  unfold deliver
  rw [checkedWord_of_clean h]

theorem deliver_of_corrected {x y : CodeWord} {p q : Nat} (h : checkWord x = .corrected y p q) :
    deliver x = (codeData y, codePoison y) := by
  unfold deliver
  rw [checkedWord_of_corrected h]

theorem deliver_of_uncorrectable {x : CodeWord} (h : checkWord x = .uncorrectable) : deliver x = (codeData x, true) := by
  unfold deliver
  rw [checkedWord_of_uncorrectable h, codeData_codeWord, codePoison_codeWord]

/-- A read of a code word that the checker leaves delivers the same. -/
theorem deliver_checkedWord (x : CodeWord) : deliver (checkedWord x) = deliver x :=
  deliver_of_clean (checkWord_checkedWord x)

theorem State.pickWord_still {s : State} {w : Nat} (still : s.racyAt w = none) : s.pickWord w = (s.rawWord w, s) := by
  unfold State.pickWord
  rw [still]

/-- The write-back, count and record of what a word's checker finds (R232). -/
def State.checked (s : State) (w : Nat) (det : Detect) : State :=
  let src := memSource (8 * w)
  match checkWord (s.rawWord w) with
  | .clean => s
  | .corrected y p q => (s.setRaw w y).memCE src.1 src.2.1 src.2.2 (8 * w) p q det
  | .uncorrectable => (s.setRaw w (codeWord (codeData (s.rawWord w)) true)).memUE src.1 src.2.1 src.2.2 (8 * w) det

/-- A read of a word in which no engine write is in flight delivers what the checker makes of it. -/
theorem State.readWord_still {s : State} {w : Nat} (still : s.racyAt w = none) (reads : s.readFails w = false) (det : Detect) :
    (s.readWord w det).1 = deliver (s.rawWord w) ∧ Delivered (s.checked w det) (s.readWord w det).2 := by
  have given : ∀ (t : State) (p : Bool), Delivered t (if det = .scrub then t else t.countPoisonRead w p) := by
    intro t p
    split
    · exact .refl t
    · exact t.countPoisonRead_delivered w p
  unfold State.readWord State.checked
  simp only [State.pickWord_still still, reads, Bool.false_eq_true, if_false, decide_true, if_true]
  cases h : checkWord (s.rawWord w) with
  | clean => exact ⟨(deliver_of_clean h).symm, given ..⟩
  | corrected y p q => exact ⟨(deliver_of_corrected h).symm, given ..⟩
  | uncorrectable => exact ⟨(deliver_of_uncorrectable h).symm, given ..⟩

/-- A word of memory becomes `x`, and no other. -/
structure RawBecomes (s t : State) (w : Nat) (x : CodeWord) : Prop where
  own : t.rawWord w = x
  others : ∀ v, v ≠ w → t.rawWord v = s.rawWord v
  racy : t.racy = s.racy
  fails : t.hbmReadFails = s.hbmReadFails

theorem State.setRaw_rawBecomes (s : State) (w : Nat) (x : CodeWord) : RawBecomes s (s.setRaw w x) w x :=
  have wrote := s.setRaw_becomes w x
  ⟨s.rawWord_setRaw w x, wrote.raw, wrote.racy, wrote.fails⟩

theorem RawBecomes.sameMem {s t u : State} {w : Nat} {x : CodeWord} (h : RawBecomes s t w x) (k : SameMem t u) : RawBecomes s u w x :=
  ⟨(k.raw w).trans h.own, fun v hv => (k.raw v).trans (h.others v hv), k.racy.trans h.racy, k.fails.trans h.fails⟩

theorem RawBecomes.trans {s t u : State} {w : Nat} {x y : CodeWord} (h : RawBecomes s t w x) (k : RawBecomes t u w y) :
    RawBecomes s u w y :=
  ⟨k.own, fun v hv => (k.others v hv).trans (h.others v hv), k.racy.trans h.racy, k.fails.trans h.fails⟩

theorem RawBecomes.still {s t : State} {w : Nat} {x : CodeWord} (h : RawBecomes s t w x) (v : Nat) : t.racyAt v = s.racyAt v := by
  unfold State.racyAt
  rw [h.racy]

theorem State.checked_becomes (s : State) (w : Nat) (det : Detect) : RawBecomes s (s.checked w det) w (checkedWord (s.rawWord w)) := by
  unfold State.checked
  cases h : checkWord (s.rawWord w) with
  | clean => exact ⟨(checkedWord_of_clean h).symm, fun _ _ => rfl, rfl, rfl⟩
  | corrected y p q =>
    rw [checkedWord_of_corrected h]
    exact (s.setRaw_rawBecomes w y).sameMem (State.memCE_sameMem ..)
  | uncorrectable =>
    rw [checkedWord_of_uncorrectable h]
    exact (s.setRaw_rawBecomes w _).sameMem (State.memUE_sameMem ..)

/-- A read leaves what the checker makes of the word. -/
theorem State.readWord_becomes {s : State} {w : Nat} (still : s.racyAt w = none) (reads : s.readFails w = false) (det : Detect) :
    RawBecomes s (s.readWord w det).2 w (checkedWord (s.rawWord w)) :=
  (s.checked_becomes w det).sameMem (State.readWord_still still reads det).2.same

theorem State.setRaw_odGet (s : State) (w : Nat) (x : CodeWord) (k : Nat) : (s.setRaw w x).odGet k = s.odGet k := by
  unfold State.odGet
  rw [s.setRaw_od]

/-- A corrected word is counted (R241). -/
theorem State.checked_counts {s : State} {w : Nat} {y : CodeWord} {p q : Nat} (h : checkWord (s.rawWord w) = .corrected y p q)
    (det : Detect) : let src := memSource (8 * w)
    (s.checked w det).odGet (ceCounter src.1 src.2.2) = (s.odGet (ceCounter src.1 src.2.2) + 1) % 2 ^ 64 := by
  unfold State.checked
  simp only [h]
  rw [State.memCE_count, State.setRaw_odGet]

/-- An uncorrectable word is counted and logged (R240, R241). -/
theorem State.checked_logs {s : State} {w : Nat} (h : checkWord (s.rawWord w) = .uncorrectable) (det : Detect) :
    let src := memSource (8 * w)
    (s.checked w det).odGet (ueCounter src.1 src.2.2) = (s.odGet (ueCounter src.1 src.2.2) + 1) % 2 ^ 64 ∧
      ∃ e, (s.checked w det).log.ingress = s.log.ingress ++ [e] ∧ e.kind = 0x0202 ∧ e.severity = sevError ∧
        e.payload.extractLsb' 0 64 = BitVec.ofNat 64 (8 * w) := by
  unfold State.checked
  simp only [h]
  rw [State.memUE_count, State.setRaw_odGet]
  refine ⟨rfl, ?_⟩
  have left := s.setRaw_rest w (codeWord (codeData (s.rawWord w)) true)
  have logged := (s.setRaw w (codeWord (codeData (s.rawWord w)) true)).memUE_logs (memSource (8 * w)).1 (memSource (8 * w)).2.1
    (memSource (8 * w)).2.2 (8 * w) det
  have log : (s.setRaw w (codeWord (codeData (s.rawWord w)) true)).log = s.log := by rw [left]
  rwa [log] at logged

/-! ### Writes and merges of a word -/

theorem State.updWord_rawBecomes {s : State} {w : Nat} (still : s.racyAt w = none) (f : CodeWord → CodeWord) :
    RawBecomes s (s.updWord w f) w (f (s.rawWord w)) := by
  have same := (s.noteStore_sameMem w).trans (State.seenWrite_sameMem _ w)
  unfold State.updWord
  generalize (s.noteStore w).seenWrite w = t at same
  have still' : t.racyAt w = none := by
    unfold State.racyAt at still ⊢
    rw [same.racy, still]
  dsimp only
  rw [still', ← same.raw]
  have wrote := t.setRaw_rawBecomes w (f (t.rawWord w))
  exact ⟨wrote.own, fun v hv => (wrote.others v hv).trans (same.raw v), wrote.racy.trans same.racy, wrote.fails.trans same.fails⟩

theorem State.mergeWord_becomes {s : State} {w : Nat} (still : s.racyAt w = none) (reads : s.readFails w = false) (i : Nat)
    (bs : List Byte) : RawBecomes s (s.mergeWord w i bs) w
      (codeWord (mergeBytes (deliver (s.rawWord w)).1 i bs) (deliver (s.rawWord w)).2) := by
  have read := State.readWord_becomes still reads .merged
  unfold State.mergeWord
  generalize (s.readWord w .merged).2 = t at read
  have merged := State.updWord_rawBecomes ((read.still w).trans still) fun x =>
    codeWord (mergeBytes (deliver x).1 i bs) (s.readFails w || (deliver x).2)
  have given : deliver (t.rawWord w) = deliver (s.rawWord w) := by rw [read.own, deliver_checkedWord]
  have kept : (s.readFails w || (deliver (s.rawWord w)).2) = (deliver (s.rawWord w)).2 := by rw [reads, Bool.false_or]
  rw [← kept, ← given]
  exact read.trans merged

/-! ### Clean words stay clean under a write -/

theorem RawBecomes.clean {s t : State} {w : Nat} {d : BitVec 64} (h : RawBecomes s t w (codeWord d false)) (still : s.racyAt w = none)
    {v : Nat} (hv : CleanWord s v) : CleanWord t v := by
  by_cases here : v = w
  · subst here
    exact ⟨by rw [h.own, checkWord_codeWord], by rw [h.own, codePoison_codeWord], (h.still v).trans still⟩
  · exact ⟨by rw [h.others v here, hv.code], by rw [h.others v here, hv.poison], (h.still v).trans hv.still⟩

theorem State.readFails_of_nil {s : State} (hf : s.hbmReadFails = []) (w : Nat) : s.readFails w = false := by
  unfold State.readFails
  simp [hf]

theorem State.writePiece_clean {s : State} {w : Nat} (h : CleanWord s w) (hf : s.hbmReadFails = []) (i : Nat) (bs : List Byte)
    {v : Nat} (hv : CleanWord s v) : CleanWord (s.writePiece w i bs) v := by
  unfold State.writePiece
  split
  · exact (State.updWord_rawBecomes h.still _).clean h.still hv
  · have wrote := State.mergeWord_becomes h.still (State.readFails_of_nil hf w) i bs
    rw [deliver_of_clean h.code, h.poison] at wrote
    exact wrote.clean h.still hv

/-- A write to clean words leaves every clean word clean. -/
theorem State.writeFuel_clean (k : Nat) {s : State} {a : Nat} {bs : List Byte} (fuel : bs.length ≤ k)
    (clean : bs ≠ [] → CleanBytes s a bs.length) (hf : s.hbmReadFails = []) : let t := State.writeFuel k s a bs false
    (∀ v, CleanWord s v → CleanWord t v) ∧ t.hbmReadFails = [] := by
  induction k generalizing s a bs with
  | zero => exact ⟨fun _ h => h, hf⟩
  | succ k ih =>
    by_cases empty : bs = []
    · subst empty
      exact ⟨fun _ h => h, hf⟩
    have some := List.length_pos_iff.mpr empty
    rw [State.writeFuel_succ k s a empty]
    have piece : pieceLen a bs.length = min bs.length (8 - a % 8) := rfl
    generalize pieceLen a bs.length = m at *
    have taken : (bs.take m).length = m := by rw [List.length_take]; omega
    have dropped : (bs.drop m).length = bs.length - m := List.length_drop
    have first := clean empty (a / 8) (mem_spanWords le_rfl (by omega))
    have stays := fun v => State.writePiece_clean first hf (a % 8) (bs.take m) (v := v)
    obtain ⟨-, -, fails⟩ := State.writePiece_byte (i := a % 8) (bs := bs.take m) first hf (by omega)
    have later : bs.drop m ≠ [] → CleanBytes (s.writePiece (a / 8) (a % 8) (bs.take m)) (a + m) (bs.drop m).length := by
      intro left w hw
      have := List.length_pos_iff.mpr left
      refine stays w (clean empty w ?_)
      unfold spanWords at hw ⊢
      rw [List.mem_range'_1] at hw ⊢
      omega
    obtain ⟨rest, fails'⟩ := ih (by omega) later fails
    exact ⟨fun v hv => rest v (stays v hv), fails'⟩

theorem State.writeBytes_byte {s : State} {a : Nat} {bs : List Byte} (h : CleanBytes s a bs.length) (hf : s.hbmReadFails = []) (b : Nat) :
    (s.writeBytes a bs).memByte b = if a ≤ b ∧ b < a + bs.length then bs.getD (b - a) 0 else s.memByte b :=
  State.writeFuel_byte _ le_rfl (fun _ => h) hf b

theorem State.writeBytes_memBytes {s : State} {a : Nat} {bs : List Byte} (h : CleanBytes s a bs.length) (hf : s.hbmReadFails = []) :
    (s.writeBytes a bs).memBytes a bs.length = bs := by
  refine List.ext_getElem (by simp) fun k hk hk' => ?_
  simp only [State.memBytes, List.getElem_map, List.getElem_range]
  rw [State.writeBytes_byte h hf, if_pos (by omega), Nat.add_sub_cancel_left, List.getD_eq_getElem _ _ hk']

theorem checkWord_zero : checkWord 0 = .clean ∧ codePoison 0 = false := by decide +kernel

/-- Settles O19: a read, a write and a merge each make one word another code word, and a write to clean words leaves them
clean, so that a read delivers what was written. -/
theorem memoryWords : Obligations.MemoryWords := by
  unfold Obligations.MemoryWords
  refine ⟨⟨checkWord_zero.1, checkWord_zero.2, fun s w det still reads => ?_⟩,
    fun s w still => ⟨fun d p => ?_, fun i bs fits reads => ?_⟩, fun s a bs clean hf => ?_⟩
  · obtain ⟨out, delivered⟩ := State.readWord_still still reads det
    have left := State.readWord_becomes still reads det
    refine ⟨out, left.own, left.others, fun y p q corrected => ⟨?_, ?_⟩, fun wrong => ⟨?_, ?_, ?_⟩⟩
    · rw [out, deliver_of_corrected corrected]
    · rw [delivered.od _ (ceCounter_ne_poisonRead _ _), State.checked_counts corrected det]
    · rw [out, deliver_of_uncorrectable wrong]
    · rw [delivered.od _ (ueCounter_ne_poisonRead _ _), (State.checked_logs wrong det).1]
    · rw [delivered.log]
      exact (State.checked_logs wrong det).2
  · have wrote := State.updWord_rawBecomes still fun _ => codeWord d p
    exact ⟨wrote.own, wrote.others⟩
  · have merged := State.mergeWord_becomes still reads i bs
    refine ⟨?_, ?_, merged.others, fun k hk => ?_⟩
    · rw [merged.own, codePoison_codeWord]
      rfl
    · rw [merged.own, checkWord_codeWord]
    · rw [merged.own, codeData_codeWord, extract_mergeBytes bs _ fits hk]
      rfl
  · obtain ⟨stays, fails⟩ := State.writeFuel_clean bs.length le_rfl (fun _ => clean) hf
    have after : CleanBytes (s.writeBytes a bs) a bs.length := fun w hw => stays w (clean w hw)
    have stored := State.writeBytes_memBytes clean hf
    have read := State.readBytes_clean after fails .demand
    refine ⟨stored, fun b out => ?_, after, ?_, fun q hq => ?_⟩
    · rw [State.writeBytes_byte clean hf, if_neg (by omega)]
    · rw [read, stored]
    · rw [read] at hq
      obtain ⟨-, -, rfl⟩ := List.mem_map.mp hq
      rfl

end Sys2Proof.Machine
end
